-- ==== Sys2Proof/Word.lean ====
section
/-! DEFINITION. The plain word types of the module: a byte, and bytes in order (00 R14). -/
namespace Sys2Proof

/-- One byte of a memory, a record or a DOMAIN value. -/
abbrev Byte := BitVec 8

/-- Bytes in ascending address order. -/
abbrev Bytes := List Byte

end Sys2Proof
end

