-- ==== Sys2Proof/Syntax.lean ====
section
/-! DEFINITION. The commands of the block: one constructor per row of spec/opcode_table.json, in the table's order.
Every constructor begins with `dt`, the time in ticks of 1/6 ns that passes between the command before it and
this one (one SCLK is 12 ticks, one CCLK 5 ticks, one beat 60 ticks: 10 R284). -/
namespace Sys2Proof

/-- The two routes to the object dictionary (16, "Two routes to one dictionary"). -/
inductive Route where
  | ethercat
  | hostPort
  deriving DecidableEq, Repr

/-- Where a model container comes from (09 R273): the host serial port, a file transfer over EtherCAT, or the model traffic
of a NET port, with its sender, its stream and its message sequence. -/
inductive ModelSource where
  | hostPort
  | ethercat
  | net (port : Fin 2) (address udpPort : Nat) (stream : Byte) (seq : Nat)
  deriving DecidableEq, Repr

/-- What a memory read finds of the word's check bits (07 R200, R207, R222). -/
inductive ReadFinding where
  | clean
  | correctable
  | uncorrectable
  deriving DecidableEq, Repr

/-- The memory levels of Table 7-4, subindex 36h. -/
inductive Level where
  | scratchpad
  | accumulator
  | stack
  | external
  deriving DecidableEq, Repr

/-- Which firmware banks verify when Jatuwick boots (19 R472). -/
structure BankCheck where
  activeOk : Bool
  otherOk  : Bool
  deriving DecidableEq, Repr

/-- How an I2C or SPI record ended on its bus (11 R330). -/
inductive BusEnd where
  | done
  | addressNak
  | dataNak
  deriving DecidableEq, Repr

/-- The measured outcome of one lane of a bring-up (18 R442): per candidate, its figure of merit and whether the
inverted receive polarity locked. -/
structure LaneTrial where
  candidate : Nat
  merit     : Nat
  inverted  : Bool
  deriving DecidableEq, Repr

/-- What the lane markers of MLINK tell (18 R454): lanes reversed, deskew in blocks, the link that they name. -/
structure LaneMarkers where
  reversed : Bool
  deskew   : Nat
  identity : Nat
  deriving DecidableEq, Repr

/-- What a NET port recognises in a received frame (18 R444 to R446). -/
inductive FrameKind where
  | badFcs
  | tagged
  | filtered
  | fragment
  | badChecksum
  | arpRequest (sender : Nat) (mac : Nat)
  | arpReply (sender : Nat) (mac : Nat)
  | echoRequest
  | pause (quanta : Nat)
  | ptp
  | udp
  deriving DecidableEq, Repr

/-- The PTP messages that bear on the module's state (18 R460). -/
inductive PtpMessage where
  | sync
  | delayReq
  | delayResp
  | announce (grandmaster : Nat) (utcOffset : Int)
  | management
  deriving DecidableEq, Repr

/-- The PTP protocol timers (18 R460). -/
inductive PtpTimer where
  | announceInterval
  | syncInterval
  | delayReqInterval
  | announceReceipt
  deriving DecidableEq, Repr

/-- The causes of an array fault that no other command's own check finds (03 Table 3-10). -/
inductive ArrayCause where
  | poisonedActivation
  | poisonedWeight
  | weightParity
  | poisonedAccumulator
  | trap
  | teardown
  deriving DecidableEq, Repr

/-- The AL states of the EtherCAT SubDevice (16 R421); `other` is a code that names no supported state. -/
inductive AlState where
  | init
  | preop
  | safeop
  | op
  | boot
  | other
  deriving DecidableEq, Repr

/-- The moves of the sensors read at the millisecond of a limit update (21 R500, Table 21-4). -/
structure ThermalReadings where
  cores : List Int
  sram  : Int
  io    : Int
  board : Int
  power : Nat
  deriving DecidableEq, Repr

/-- A command of the block. -/
inductive Instr where
  -- power, reset and limits
  | powerOn (dt : Nat) (mainPresent : Bool) (banks : BankCheck)
  | bringUpFailure (dt : Nat) (stage : Fin 3)
  | resetN (dt : Nat)
  | moduleReset (dt : Nat)
  | moduleResetReboot (dt : Nat) (banks : BankCheck)
  | ioDieWatchdog (dt : Nat) (banks : BankCheck)
  | mainSupplyLoss (dt : Nat) (level : BitVec 16)
  | thermalTrip (dt : Nat)
  | clockFailure (dt : Nat)
  | limitUpdate (dt : Nat) (r : ThermalReadings)
  -- line time
  | encoderCount (dt : Nat) (e : Fin 4) (levelA levelB : Bool)
  | illegalTransition (dt : Nat) (e : Fin 4) (levelA levelB : Bool)
  | zEdge (dt : Nat) (e : Fin 4) (rising : Bool)
  | encoderInputFault (dt : Nat) (e : Fin 4)
  | encoderConfigWrite (dt : Nat) (r : Route) (e : Fin 4) (sub : Nat) (data : Bytes)
  | generatorCount (dt : Nat) (d : Fin 4)
  | stall (dt : Nat) (d : Fin 4)
  | triggerIssued (dt : Nat) (p : Fin 36)
  | triggerPulseEnd (dt : Nat) (p : Fin 36)
  | missedTrigger (dt : Nat) (p : Fin 36)
  | compareArm (dt : Nat) (r : Route) (n : Fin 32)
  | compareDisarm (dt : Nat) (r : Route) (n : Fin 32)
  | compareValueWrite (dt : Nat) (r : Route) (n : Fin 32) (value : BitVec 48)
  | windowArm (dt : Nat) (r : Route) (w : Fin 64)
  | windowDisarm (dt : Nat) (r : Route) (w : Fin 64)
  | timerLoadWrite (dt : Nat) (r : Route) (t : Fin 16) (value : BitVec 32)
  | timerExpiry (dt : Nat) (t : Fin 16)
  | commitDeadline (dt : Nat) (g : Fin 16) (f : BitVec 48)
  | slackRefresh (dt : Nat)
  -- the sequencers and their units; `core` and `slot` name the context that issues
  | loop (dt : Nat) (core : Fin 6) (slot : Fin 4)
  | endEntry (dt : Nat) (core : Fin 6) (slot : Fin 4)
  | passIssue (dt : Nat) (core : Fin 6) (slot : Fin 4)
  | weightLoadStart (dt : Nat) (core : Fin 6) (array : Fin 2) (half : Fin 2)
  | weightLoadComplete (dt : Nat) (core : Fin 6) (array : Fin 2) (half : Fin 2)
  | passStart (dt : Nat) (core : Fin 6) (array : Fin 2) (half : Fin 2)
  | passComplete (dt : Nat) (core : Fin 6) (array : Fin 2) (half : Fin 2)
  | modeChange (dt : Nat) (core : Fin 6) (array : Fin 2)
  | arrayFault (dt : Nat) (core : Fin 6) (array : Fin 2) (half : Fin 2) (cause : ArrayCause)
  | copy (dt : Nat) (core : Fin 6) (slot : Fin 4)
  | add (dt : Nat) (core : Fin 6) (slot : Fin 4)
  | sub (dt : Nat) (core : Fin 6) (slot : Fin 4)
  | mul (dt : Nat) (core : Fin 6) (slot : Fin 4)
  | fma (dt : Nat) (core : Fin 6) (slot : Fin 4)
  | max (dt : Nat) (core : Fin 6) (slot : Fin 4)
  | min (dt : Nat) (core : Fin 6) (slot : Fin 4)
  | abs (dt : Nat) (core : Fin 6) (slot : Fin 4)
  | neg (dt : Nat) (core : Fin 6) (slot : Fin 4)
  | sel (dt : Nat) (core : Fin 6) (slot : Fin 4)
  | clamp (dt : Nat) (core : Fin 6) (slot : Fin 4)
  | lut (dt : Nat) (core : Fin 6) (slot : Fin 4)
  | recip (dt : Nat) (core : Fin 6) (slot : Fin 4)
  | rsqrt (dt : Nat) (core : Fin 6) (slot : Fin 4)
  | ssum (dt : Nat) (core : Fin 6) (slot : Fin 4)
  | smax (dt : Nat) (core : Fin 6) (slot : Fin 4)
  | smin (dt : Nat) (core : Fin 6) (slot : Fin 4)
  | lsum (dt : Nat) (core : Fin 6) (slot : Fin 4)
  | lmax (dt : Nat) (core : Fin 6) (slot : Fin 4)
  | lmin (dt : Nat) (core : Fin 6) (slot : Fin 4)
  | vectorComplete (dt : Nat) (core : Fin 6)
  | shunterCopy (dt : Nat) (core : Fin 6) (slot : Fin 4)
  | shunterGather (dt : Nat) (core : Fin 6) (slot : Fin 4)
  | shunterScatter (dt : Nat) (core : Fin 6) (slot : Fin 4)
  | shunterStart (dt : Nat) (core : Fin 6) (n : Fin 8)
  | shunterComplete (dt : Nat) (core : Fin 6) (n : Fin 8)
  | semaphoreAdd (dt : Nat) (core : Fin 6) (slot : Fin 4)
  | semaphoreSet (dt : Nat) (core : Fin 6) (slot : Fin 4)
  | semaphoreLaneAdd (dt : Nat) (core : Fin 6) (slot : Fin 4)
  | laneSignalArrival (dt : Nat)
  | hubOperation (dt : Nat)
  | wait (dt : Nat) (core : Fin 6) (slot : Fin 4)
  | waitTimeout (dt : Nat) (core : Fin 6) (slot : Fin 4)
  | creditAcquire (dt : Nat) (core : Fin 6) (slot : Fin 4)
  | creditRelease (dt : Nat) (core : Fin 6) (slot : Fin 4)
  | creditTimeout (dt : Nat) (core : Fin 6) (slot : Fin 4)
  | yield (dt : Nat) (core : Fin 6) (slot : Fin 4)
  | yieldSurrender (dt : Nat) (core : Fin 6) (slot : Fin 4)
  | deadlinePublish (dt : Nat) (core : Fin 6) (slot : Fin 4)
  | deadlineClear (dt : Nat) (core : Fin 6) (slot : Fin 4)
  -- memory and determinism
  | droneRead (dt : Nat) (level : Level) (agent : Nat) (word : Fin 16) (finding : ReadFinding)
  | droneWriteback (dt : Nat) (level : Level) (agent : Nat) (passed : Option Nat)
  | patrolRead (dt : Nat) (controller : Fin 4) (finding : ReadFinding)
  | poolSizeWrite (dt : Nat) (r : Route) (sub : Nat) (value : BitVec 16)
  | wideModeEnter (dt : Nat) (r : Route)
  | wideModeExit (dt : Nat) (r : Route)
  | determinismWrite (dt : Nat) (r : Route) (value : BitVec 8)
  -- reference banks
  | create (dt : Nat) (r : Route) (b : Fin 16)
  | createComplete (dt : Nat) (b : Fin 16)
  | delete (dt : Nat) (r : Route) (b : Fin 16)
  | topkCommand (dt : Nat) (core : Fin 6) (slot : Fin 4) (record : Bytes)
  | topkStart (dt : Nat) (core : Fin 6)
  | topkComplete (dt : Nat) (core : Fin 6)
  | enrol (dt : Nat) (src : Fin 8) (record : Bytes)
  | void (dt : Nat) (src : Fin 8) (record : Bytes)
  | loadRecord (dt : Nat) (record : Bytes)
  -- scheduling
  | sliceBoundary (dt : Nat) (p : Fin 6)
  | forcedPreemption (dt : Nat) (core : Fin 6) (slot : Fin 4)
  | holdTimeout (dt : Nat) (job : Fin 64) (lane : Fin 6)
  | contextUnloadComplete (dt : Nat) (job : Fin 64) (lane : Fin 6)
  | contextLoadComplete (dt : Nat) (job : Fin 64) (lane : Fin 6)
  | contextSaveComplete (dt : Nat) (job : Fin 64) (lane : Fin 6)
  | contextRestoreComplete (dt : Nat) (job : Fin 64) (lane : Fin 6)
  | teardown (dt : Nat) (job : Fin 64) (lane : Fin 6)
  | modelContainer (dt : Nat) (source : ModelSource) (container : Bytes)
  | modelEntryLoaded (dt : Nat) (job : Fin 64)
  | pin (dt : Nat) (r : Route)
  | unpin (dt : Nat) (r : Route)
  | preload (dt : Nat) (r : Route)
  | remove (dt : Nat) (r : Route)
  | flush (dt : Nat) (r : Route)
  | step (dt : Nat) (core : Fin 6) (slot : Fin 4) (record : Bytes)
  | join (dt : Nat) (core : Fin 6) (slot : Fin 4) (record : Bytes)
  | leave (dt : Nat) (core : Fin 6) (slot : Fin 4) (record : Bytes)
  -- starting modules together
  | barrierArm (dt : Nat) (r : Route)
  | barrierDisarm (dt : Nat) (r : Route)
  | leaderDrive (dt : Nat)
  | barrierRegistered (dt : Nat)
  | barrierAction (dt : Nat)
  | barrierTimeout (dt : Nat)
  -- sensor ports and sensor control
  | lineStart (dt : Nat) (p : Fin 36) (fval : Bool)
  | lineEnd (dt : Nat) (p : Fin 36) (edges : List (BitVec 4)) (overflowAt : Option Nat)
  | frameStart (dt : Nat) (p : Fin 36)
  | frameEnd (dt : Nat) (p : Fin 36)
  | pairingExpiry (dt : Nat) (p : Fin 36)
  | portClockLoss (dt : Nat) (p : Fin 36)
  | deskew (dt : Nat) (r : Route) (p : Fin 36)
  | deskewComplete (dt : Nat) (p : Fin 36) (passing : List (List Bool))
  | i2cWrite (dt : Nat) (r : Option Route) (k : Fin 12) (core : Fin 6) (slot : Fin 4) (record : Bytes)
  | i2cWriteRead (dt : Nat) (r : Option Route) (k : Fin 12) (core : Fin 6) (slot : Fin 4) (record : Bytes)
  | spiTransfer (dt : Nat) (r : Option Route) (k : Fin 12) (core : Fin 6) (slot : Fin 4) (record : Bytes)
  | sccRecordStart (dt : Nat) (k : Fin 12) (inBlanking : Bool)
  | alignTimeout (dt : Nat) (k : Fin 12)
  | clockStretchTimeout (dt : Nat) (k : Fin 12) (held : Nat)
  | sccRecordComplete (dt : Nat) (k : Fin 12) (outcome : BusEnd) (read : Bytes)
  | flatFieldCopyComplete (dt : Nat) (p : Fin 36)
  | lineWriteComplete (dt : Nat) (p : Fin 36)
  -- sample intake
  | submissionTaken (dt : Nat) (i : Fin 16)
  | decodeDispatch (dt : Nat) (engine : Fin 4)
  | decodeComplete (dt : Nat) (engine : Fin 4)
  | budgetExpiry (dt : Nat) (engine : Fin 4)
  | recordCommit (dt : Nat) (i : Fin 16)
  | intakeRelease (dt : Nat) (core : Fin 6) (slot : Fin 4) (record : Bytes)
  | roi (dt : Nat) (core : Fin 6) (slot : Fin 4) (record : Bytes)
  | roiTimeout (dt : Nat) (i : Fin 16)
  -- verdicts and valves
  | orderDecided (dt : Nat) (core : Fin 6) (job : Fin 64) (record : Bytes)
  | orderUndecided (dt : Nat) (core : Fin 6) (job : Fin 64) (record : Bytes)
  | decide (dt : Nat) (core : Fin 6) (job : Fin 64) (record : Bytes)
  | vetoChange (dt : Nat) (active : Bool)
  | nextChangeFrameStart (dt : Nat) (c : Fin 4)
  | valveFrameComplete (dt : Nat) (c : Fin 4)
  | latchPulseEnd (dt : Nat) (c : Fin 4)
  | manualOutputWrite (dt : Nat) (r : Route) (value : BitVec 16)
  | stopTimeout (dt : Nat) (g : Fin 16)
  -- field inputs and outputs
  | fieldLinkLoss (dt : Nat)
  | fieldLinkRestored (dt : Nat) (levels : BitVec 16) (veto : Bool) (outEnHigh : Bool)
  | diEdge (dt : Nat) (d : Fin 8) (on : Bool)
  | pulsedSample (dt : Nat) (levels : BitVec 8)
  | debounceWrite (dt : Nat) (r : Route) (sub : Nat) (value : BitVec 32)
  | outEnNChange (dt : Nat) (high : Bool)
  | outputOverload (dt : Nat) (d : Fin 16) (thermal : Bool)
  | overloadRestart (dt : Nat) (d : Fin 16)
  | openLoad (dt : Nat) (d : Fin 16)
  | fieldUndervoltage (dt : Nat) (level : BitVec 16)
  | fieldSupplyRecovery (dt : Nat) (level : BitVec 16)
  | fieldSectionReset (dt : Nat)
  -- the object dictionary
  | dictionaryWrite (dt : Nat) (r : Route) (index : BitVec 16) (sub : BitVec 8) (complete : Bool) (data : Bytes)
  | rcRead (dt : Nat) (r : Route) (index : BitVec 16) (sub : BitVec 8)
  | enable (dt : Nat) (r : Route) (f : Nat)
  | enableComplete (dt : Nat) (f : Nat)
  | disable (dt : Nat) (r : Route) (f : Nat)
  | start (dt : Nat) (r : Route) (f : Nat)
  | stop (dt : Nat) (r : Route) (f : Nat)
  | functionStopped (dt : Nat) (f : Nat)
  | clear (dt : Nat) (r : Route) (f : Nat)
  | claim (dt : Nat) (r : Route) (f : Nat)
  | release (dt : Nat) (r : Route) (f : Nat)
  | setStart (dt : Nat) (r : Route) (fs : List Nat)
  | setStop (dt : Nat) (r : Route) (fs : List Nat)
  | sdoSegmentTimeout (dt : Nat)
  | alStateRequest (dt : Nat) (target : AlState) (sm2 sm3 : Nat) (mailboxOk : Bool) (sync0Cycle : Nat)
  | sm2Watchdog (dt : Nat)
  | snapshot (dt : Nat)
  | sm3Read (dt : Nat)
  | sm2OutputsTaken (dt : Nat) (image : Bytes)
  | sync0 (dt : Nat)
  | emergencySend (dt : Nat)
  -- the host serial port
  | upload (dt : Nat) (frame : Bytes)
  | download (dt : Nat) (frame : Bytes)
  | downloadSegment (dt : Nat) (frame : Bytes)
  | uploadSegment (dt : Nat) (frame : Bytes)
  | abortTransfer (dt : Nat) (frame : Bytes)
  | responseReady (dt : Nat)
  | read (dt : Nat)
  | status (dt : Nat)
  | event (dt : Nat) (clockedOut : Nat)
  | resetTransaction (dt : Nat) (second : Byte)
  | transactionTimeout (dt : Nat)
  | transferTimeout (dt : Nat)
  | attentionPulse (dt : Nat)
  | attentionPulseEnd (dt : Nat)
  -- network ports and network time
  | laneBringUp (dt : Nat) (port : Fin 3) (trials : List (List LaneTrial)) (markers : LaneMarkers)
  | bringUpRetry (dt : Nat) (port : Fin 3)
  | linkLoss (dt : Nat) (port : Fin 3)
  | pllLockFailure (dt : Nat) (port : Fin 3)
  | frameReceived (dt : Nat) (n : Fin 2) (kind : FrameKind)
  | segmentReceived (dt : Nat) (port : Fin 3) (address udpPort : Nat) (payload : Bytes)
  | reassemblyTimeout (dt : Nat) (port : Fin 3) (address udpPort : Nat) (cls stream : Byte)
  | messageHandedOn (dt : Nat) (port : Fin 3)
  | segmentTransmitted (dt : Nat) (port : Fin 3)
  | inboxWrite (dt : Nat)
  | secondRoll (dt : Nat)
  | ptpMessage (dt : Nat) (port : Fin 3) (m : PtpMessage) (captured : Nat) (outgoing : Bool)
  | servoOffset (dt : Nat) (offset : Int) (meanPathDelay : Int)
  | externalOffset (dt : Nat) (r : Route) (offset : BitVec 64)
  -- power states
  | powerRequest (dt : Nat) (r : Route) (value : BitVec 8)
  | powerTransitionComplete (dt : Nat)
  | wakeN (dt : Nat)
  | mainSupplyRise (dt : Nat) (level : BitVec 16)
  -- security
  | installOwnerKey (dt : Nat) (r : Route)
  | revokeOwnerKey (dt : Nat) (r : Route)
  | installContentKey (dt : Nat) (r : Route)
  | eraseContentKey (dt : Nat) (r : Route)
  | lock (dt : Nat) (r : Route)
  | retire (dt : Nat) (r : Route)
  | raiseVersion (dt : Nat) (r : Route)
  | jobImageWrite (dt : Nat) (r : Route) (job : Fin 64) (container : Bytes)
  | firmwareContainerWrite (dt : Nat) (r : Route) (container : Bytes)
  -- debug
  | debugLevelRequest (dt : Nat) (r : Route) (value : BitVec 8)
  | debugToken (dt : Nat) (r : Route) (token : Bytes)
  | extest (dt : Nat)
  | idcode (dt : Nat)
  | samplePreload (dt : Nat)
  | tapClamp (dt : Nat)
  | highz (dt : Nat)
  | bypass (dt : Nat) (code : Byte)
  | dbgaccRead (dt : Nat) (space : BitVec 3) (core : BitVec 4) (address : BitVec 40)
  | dbgaccWrite (dt : Nat) (space : BitVec 3) (core : BitVec 4) (address : BitVec 40) (data : BitVec 64)
  | halt (dt : Nat) (job : BitVec 6) (lane : BitVec 3)
  | resume (dt : Nat) (job : BitVec 6) (lane : BitVec 3)
  | dbgctrlStep (dt : Nat) (job : BitVec 6) (lane : BitVec 3)
  -- remaining timed and external events
  | holdoffExpiry (dt : Nat) (counter : Nat)
  | encoderFaultEnd (dt : Nat) (e : Fin 4)
  | portClockPresent (dt : Nat) (p : Fin 36) (kHz : BitVec 32)
  | resetNRelease (dt : Nat)
  | refclkRestored (dt : Nat)
  | tripTemperatureFall (dt : Nat)
  | standbyRailLoss (dt : Nat)
  | arpEntryExpiry (dt : Nat) (n : Fin 2) (address : Nat)
  | pauseRepeat (dt : Nat) (n : Fin 2)
  | pauseExpiry (dt : Nat) (n : Fin 2)
  | sync0Missed (dt : Nat)
  | refreshRateChange (dt : Nat) (multiplier : Fin 3) (hot : Bool)
  | sdoDownloadInitiate (dt : Nat) (index : BitVec 16) (sub : BitVec 8) (complete : Bool) (size : Option Nat)
  | sdoDownloadSegment (dt : Nat) (toggle : Bool) (final : Bool) (data : Bytes)
  | ptpTimerExpiry (dt : Nat) (t : PtpTimer)
  deriving DecidableEq, Repr

end Sys2Proof
end

