-- ==== Sys2Proof/Config.lean ====
section
/-! DEFINITION. What manufacture fixes and what the spec leaves open. Every constant here is opaque: nothing can
evaluate it, so a claim holds whatever its value is. Each one has a row in notes/assumptions. -/
namespace Sys2Proof.Config

/-- Processor stepping, [15:8] major, [7:0] minor (00 Table 0-2). -/
opaque stepping : BitVec 16
/-- Module serial number, 12 characters (00 Table 0-2). -/
opaque serial : Bytes
/-- Version of the Jatuwick and I/O-die firmware as text (16 Table 16-1). -/
opaque firmwareVersion : Bytes
/-- Firmware major.minor in 1018h.03 [15:0] (16 Table 16-1). -/
opaque firmwareRevision : BitVec 16
/-- Which of the ways to choose a grade's physical cores out of six manufacture took (00 R4). -/
opaque coreChoice : Nat
/-- Array 1, not array 0, of the physical core of this logical core is the one that remains, in an OZ-7348's C4 and C5
(00 R5). -/
opaque arrayChoice : Nat → Bool
/-- MAC address of NET n (18 Table 18-6). -/
opaque mac : Nat → BitVec 48
/-- Bytes of the halo channels of a job image, which names them by relocation base 03h alone: the spec says that the image
sets their size and gives no field for it (07 Table 7-3). -/
opaque haloBytes : Bytes → Nat
/-- Repaired rows, 2500h.37h (07 Table 7-4). -/
opaque repairedRows : BitVec 32
/-- Steldagen's manufacturer identity code of JEP106 (19 Table 19-11). -/
opaque jep106 : BitVec 11
/-- Fixed path latency of a lane's stamps, by port, rate (10GBASE-R) and direction (out), in 2^-16 ns (18 R461). -/
opaque pathLatency : Nat → Bool → Bool → Int
/-- Bytes of a message in one segment of MLINK, less one (18 R452 states them for a NET port alone). -/
opaque mlinkSegment : Nat
/-- Reassembly timeout of MLINK in µs (18 R448 states it for a NET port alone). -/
opaque mlinkTimeout : Nat
/-- The module's own clockIdentity (18 R460). -/
opaque clockIdentity : BitVec 64
/-- The state decision of the default best master clock algorithm of IEEE 1588-2019 (18 R460): from 2710h.01h and the
identity of an announced grandmaster, whether the port is master of the two. -/
opaque ptpMaster : Nat → Nat → Bool
/-- Minimum security version of firmware set at manufacture (19 Table 19-10). -/
opaque minFirmware : BitVec 32
/-- Security version of the firmware in a bank at manufacture (19 Table 19-10). -/
opaque bankVersion : Nat → BitVec 32
/-- The device public key, 96 bytes (19 R472). -/
opaque deviceKey : Bytes

/-- A fresh value each time it is asked for, where the spec leaves a value open: applied to State's `freeCount`. -/
opaque freeValue : Nat → Nat

/-- ECDSA over P-384 with SHA-384: a signature over a message under a key digest verifies (19 R472). -/
opaque signatureOk : Bytes → Bytes → Bytes → Bool
/-- The Steldagen root's public-key digest (19 R472). -/
opaque rootDigest : Bytes
/-- SHA-384 (19 R472). -/
opaque sha384 : Bytes → Bytes
/-- AES-256-GCM: the tag of a payload under a content key, nonce and additional data matches (19 R472, R476). -/
opaque gcmOk : Bytes → Bytes → Bytes → Bytes → Bytes → Bool
/-- AES-256-GCM: the plaintext of a payload under a content key and nonce (19 R472). -/
opaque gcmPlain : Bytes → Bytes → Bytes → Bytes
/-- RFC 3394 unwrapping of a content key from a command record (19 Table 19-6). -/
opaque unwrapKey : Bytes → Bytes → Option Bytes
/-- The challenge of the n-th renewal (19 R481). -/
opaque challenge : Nat → Bytes

/-- JPEG-LS (ISO/IEC 14495-1): width, height, components and precision that the headers of a stream declare; none if
the data ends before its first scan (13 R356, R357). -/
opaque jlsShape : Bytes → Option (Nat × Nat × Nat × Nat)
/-- JPEG-LS: the stream uses nothing that R356 excludes. -/
opaque jlsSupported : Bytes → Bool
/-- JPEG-LS: the decoded values, components interleaved by element in raster order, as far as they can be obtained. -/
opaque jlsValues : Bytes → List Nat
/-- JPEG-LS: a scan cannot be decoded further (13 R358, MALF). -/
opaque jlsMalformed : Bytes → Bool
/-- JPEG-LS: cycles that an engine spends until it has decoded the first n values (13 R359). -/
opaque jlsCycles : Bytes → Nat → Nat

end Sys2Proof.Config
end

