-- ==== Sys2Proof/Machine/Bits.lean ====
section
/-! DEFINITION. Bit fields, signed readings, byte order and the sparse tables that every unit uses (00 R12 to R14).
A sparse table lists (key, value) pairs with strictly rising keys and no value equal to what an unlisted key reads as,
so that equal contents are equal data. -/
namespace Sys2Proof.Machine

/-- Field [hi:lo] of a value (00 R14). -/
def bits (v hi lo : Nat) : Nat := v / 2 ^ lo % 2 ^ (hi + 1 - lo)

/-- Bit `i` of a value. -/
def bit (v i : Nat) : Bool := v / 2 ^ i % 2 == 1

/-- `v` with field [hi:lo] replaced by `x`. -/
def withBits (v hi lo x : Nat) : Nat :=
  v - bits v hi lo * 2 ^ lo + x % 2 ^ (hi + 1 - lo) * 2 ^ lo

/-- `v` with bit `i` replaced. -/
def withBit (v i : Nat) (b : Bool) : Nat := withBits v i i (if b then 1 else 0)

/-- One bit as a number. -/
def b2n (b : Bool) : Nat := if b then 1 else 0

/-- A `w`-bit value read as two's complement. -/
def signed (w v : Nat) : Int :=
  if v % 2 ^ w < 2 ^ (w - 1) then ((v % 2 ^ w : Nat) : Int) else ((v % 2 ^ w : Nat) : Int) - ((2 ^ w : Nat) : Int)

/-- An integer as a `w`-bit two's complement value, wrapping. -/
def wrap (w : Nat) (i : Int) : Nat := (i % ((2 ^ w : Nat) : Int)).toNat

/-- Sign-extended field [hi:lo]. -/
def sbits (v hi lo : Nat) : Int := signed (hi + 1 - lo) (bits v hi lo)

/-- An integer limited to the range from `lo` to `hi`. -/
def limit (lo hi i : Int) : Int := if i < lo then lo else if hi < i then hi else i

/-- Addition that saturates at the largest `w`-bit value. -/
def satAdd (w a b : Nat) : Nat := if a + b < 2 ^ w then a + b else 2 ^ w - 1

/-- The signed distance from `v` to `p`, both 48-bit positions (02 R32). -/
def posDiff (p v : Nat) : Int := signed 48 (p + 2 ^ 48 - v % 2 ^ 48)

/-- "p has reached v" (02 R32). -/
def reached (p v : Nat) : Bool := decide (0 ≤ posDiff p v)

/-- A position moved by a signed number of counts, modulo 2^48. -/
def posAdd (p : Nat) (d : Int) : Nat := wrap 48 ((p : Int) + d)

/-- Little-endian bytes as a number (00 R14). -/
def leNat : Bytes → Nat
  | [] => 0
  | b :: bs => b.toNat + 256 * leNat bs

/-- The low `n` bytes of a number, least significant first. -/
def leBytes : Nat → Nat → Bytes
  | 0, _ => []
  | n + 1, v => BitVec.ofNat 8 v :: leBytes n (v / 256)

/-- `n` bytes at offset `o`; bytes past the end read 00h. -/
def slice (bs : Bytes) (o n : Nat) : Bytes :=
  ((bs.drop o).take n) ++ List.replicate (n - (bs.drop o).length) 0

/-- The little-endian number of `n` bytes at offset `o`. -/
def leAt (bs : Bytes) (o n : Nat) : Nat := leNat (slice bs o n)

/-- One bit of the division that forms CRC-32 of IEEE 802.3. -/
def crcBit (c : BitVec 32) : BitVec 32 :=
  if c.getLsbD 0 then (c >>> 1) ^^^ 0xEDB88320#32 else c >>> 1

/-- One byte of CRC-32. -/
def crcByte (c : BitVec 32) (b : Byte) : BitVec 32 :=
  crcBit (crcBit (crcBit (crcBit (crcBit (crcBit (crcBit (crcBit (c ^^^ (b.setWidth 32)))))))))

/-- CRC-32 of IEEE 802.3 over bytes. PRESUMED: polynomial 04C11DB7h, reflected, preset and final inversion. -/
def crc32 (bs : Bytes) : Nat := (bs.foldl crcByte 0xFFFFFFFF#32 ^^^ 0xFFFFFFFF#32).toNat

section Tables
variable {α : Type}

/-- The value at a key; `d` says what an unlisted key reads as. -/
def tget (d : Nat → α) : List (Nat × α) → Nat → α
  | [], k => d k
  | (j, a) :: t, k => if k = j then a else tget d t k

/-- The entry at a key, if one is listed. -/
def tfind : List (Nat × α) → Nat → Option α
  | [], _ => none
  | (j, a) :: t, k => if k = j then some a else tfind t k

/-- Insert or replace at a key, keeping keys rising. -/
def tput : List (Nat × α) → Nat → α → List (Nat × α)
  | [], k, v => [(k, v)]
  | (j, a) :: t, k, v =>
    if k < j then (k, v) :: (j, a) :: t
    else if k = j then (k, v) :: t
    else (j, a) :: tput t k v

/-- Remove a key. -/
def terase (t : List (Nat × α)) (k : Nat) : List (Nat × α) := t.filter (fun x => x.1 != k)

/-- Write at a key, keeping the canonical form. -/
def tset [DecidableEq α] (d : Nat → α) (t : List (Nat × α)) (k : Nat) (v : α) : List (Nat × α) :=
  if v = d k then terase t k else tput t k v

/-- Every key from `lo` up rises strictly and no listed value is the unlisted one: the canonical form. -/
def twfFrom [DecidableEq α] (d : Nat → α) : Nat → List (Nat × α) → Bool
  | _, [] => true
  | lo, (j, a) :: t => decide (lo ≤ j) && decide (a ≠ d j) && twfFrom d (j + 1) t

/-- The canonical form of a sparse table. -/
def twf [DecidableEq α] (d : Nat → α) (t : List (Nat × α)) : Bool := twfFrom d 0 t

end Tables

/-- A sorted set of keys: membership. -/
def hasKey (t : List Nat) (k : Nat) : Bool := t.contains k

/-- A sorted set of keys: add a member. -/
def addKey : List Nat → Nat → List Nat
  | [], k => [k]
  | j :: t, k => if k < j then k :: j :: t else if k = j then j :: t else j :: addKey t k

/-- A sorted set of keys: remove a member. -/
def dropKey (t : List Nat) (k : Nat) : List Nat := t.filter (· != k)

/-- Apply `f` to a state for each member of a list, from the first to the last. -/
def forEach {σ β : Type} (xs : List β) (s : σ) (f : β → σ → σ) : σ := xs.foldl (fun t x => f x t) s

/-- The first `n` numbers. -/
def upTo (n : Nat) : List Nat := List.range n

/-- Keep a value apart from its tail: the last element or a default. -/
def lastD {α : Type} (d : α) (xs : List α) : α := xs.getLastD d

/-- Round up to a multiple. -/
def roundUp (v m : Nat) : Nat := (v + m - 1) / m * m

end Sys2Proof.Machine
end

