-- ==== Sys2Proof/Machine/Image.lean ====
section
/-! DEFINITION. The OZJ job image: header, sections, relocations, and the checks of R154 to R156 (05). -/
namespace Sys2Proof.Machine

/-- A section table entry (Table 5-13). -/
structure Section where
  type  : Nat
  lane  : Nat
  flags : Nat
  off   : Nat
  size  : Nat
  param : Nat
  deriving DecidableEq, Repr

/-- Section count. -/
def ozjCount (img : Bytes) : Nat := leAt img 12 2
/-- Lanes: cores required. -/
def ozjLanes (img : Bytes) : Nat := leAt img 14 1
/-- Arrays required in total. -/
def ozjArrays (img : Bytes) : Nat := leAt img 15 1
/-- Line domain. -/
def ozjDomain (img : Bytes) : Nat := leAt img 16 1
/-- Header flags. -/
def ozjFlags (img : Bytes) : Nat := leAt img 17 1
/-- Maximum hold time in CCLK. -/
def ozjHold (img : Bytes) : Nat := leAt img 20 4
/-- SEED. -/
def ozjSeed (img : Bytes) : Nat := leAt img 24 8
/-- Model ID; 0 = weights in the image. -/
def ozjModel (img : Bytes) : Nat := leAt img 32 4
/-- Required model version. -/
def ozjModelVersion (img : Bytes) : Nat := leAt img 36 4
/-- Working stack memory in bytes. -/
def ozjWorking (img : Bytes) : Nat := leAt img 40 4
/-- External memory in MB. -/
def ozjExternal (img : Bytes) : Nat := leAt img 44 4
/-- CRC field. -/
def ozjCrc (img : Bytes) : Nat := leAt img 48 4

/-- Section table entry `i`. -/
def ozjSection (img : Bytes) (i : Nat) : Section :=
  let o := 64 + 16 * i
  ⟨leAt img o 2, leAt img (o + 2) 1, leAt img (o + 3) 1, leAt img (o + 4) 4, leAt img (o + 8) 4, leAt img (o + 12) 4⟩

/-- The section table. -/
def ozjSections (img : Bytes) : List Section := (upTo (ozjCount img)).map (ozjSection img)

/-- The section of a type for a lane, its own or the one for all lanes. -/
def ozjFind (img : Bytes) (ty lane : Nat) : Option Section :=
  (ozjSections img).find? (fun s => s.type == ty && (s.lane == lane || (s.lane == 0xFF && (ty == 3 || ty == 4))))

/-- Bytes of a section. -/
def ozjBytes (img : Bytes) (s : Section) : Bytes := slice img s.off s.size

/-- Timetable entries of a lane. -/
def ozjEntries (img : Bytes) (lane : Nat) : Nat := match ozjFind img 1 lane with | some s => s.param | none => 0
/-- Descriptor slots of a lane. -/
def ozjSlots (img : Bytes) (lane : Nat) : Nat := match ozjFind img 2 lane with | some s => s.param | none => 0

/-- A relocation entry (R155): slot, field code, base. -/
structure Reloc where
  slot  : Nat
  field : Nat
  base  : Nat
  deriving DecidableEq, Repr

/-- The relocations of a lane. -/
def ozjRelocs (img : Bytes) (lane : Nat) : List Reloc :=
  match ozjFind img 6 lane with
  | none => []
  | some s => (upTo s.param).map (fun i =>
      let o := s.off + 8 * i
      ⟨leAt img o 4, leAt img (o + 4) 1, leAt img (o + 5) 1⟩)

/-- OP of a descriptor slot of a lane. -/
def ozjOp (img : Bytes) (lane slot : Nat) : Nat :=
  match ozjFind img 2 lane with
  | some s => leAt img (s.off + 32 * slot) 1
  | none => 0xFF

/-- A relocation names a slot and a field that exist (R155, R156). -/
def relocOk (img : Bytes) (lane : Nat) (i : Nat) : Bool :=
  match ozjFind img 6 lane with
  | none => true
  | some s =>
    let o := s.off + 8 * i
    let slot := leAt img o 4
    let f := leAt img (o + 4) 1
    let b := leAt img (o + 5) 1
    let op := ozjOp img lane slot
    decide (slot < ozjSlots img lane) && leAt img (o + 6) 2 == 0 &&
      ((f == 1 && op == 0x10) || ((f == 2 || f == 3) && op == 0x30) || (f == 4 && (op == 0x20 || op == 0x44))) &&
      (decide (b ≤ 3) || within b 0x10 0x2F)
where within (b lo hi : Nat) : Bool := decide (lo ≤ b) && decide (b ≤ hi)

/-- A section lies wholly inside the image at a multiple of 64 and its size is that of its type (R154, Table 5-14a). A
reserved type is ignored unless it is marked CRIT (R156). -/
def sectionOk (img : Bytes) (s : Section) : Bool :=
  decide (s.flags < 2) && s.off % 64 == 0 && decide (s.off + s.size ≤ img.length) &&
  (match s.type with
   | 1 => decide (s.lane < ozjLanes img) && s.size == 8 * s.param
   | 2 => decide (s.lane < ozjLanes img) && s.size == 32 * s.param
   | 3 => s.lane == 0xFF
   | 4 => (decide (s.lane < ozjLanes img) || s.lane == 0xFF) && decide (s.param < 16)
          && s.size == 16384 * ((upTo 4).filter (bit s.param)).length
   | 5 => decide (s.lane < ozjLanes img) && s.size == 112 && s.param == 0
   | 6 => decide (s.lane < ozjLanes img) && s.size == 8 * s.param
   | 7 => decide (s.lane < ozjLanes img) && decide (s.param + s.size ≤ 786432)
   | _ => s.flags == 0)

/-- The checks of R156 on a job image. -/
def ozjValid (img : Bytes) : Bool :=
  decide (64 ≤ img.length) && leAt img 0 4 == 0x314A5A4F && leAt img 4 2 == 1 && leAt img 6 2 == 64 &&
  leAt img 8 4 == img.length && decide (1 ≤ ozjCount img) && decide (ozjCount img ≤ 1024) &&
  decide (64 + 16 * ozjCount img ≤ img.length) &&
  decide (1 ≤ ozjLanes img) && decide (1 ≤ ozjArrays img) &&
  decide (ozjDomain img < 4) && decide (ozjFlags img < 4) && leAt img 18 2 == 0 && leAt img 52 12 == 0 &&
  (ozjModel img != 0 || ozjModelVersion img == 0) &&
  crc32 (img.take 48 ++ [0, 0, 0, 0] ++ img.drop 52) == ozjCrc img &&
  (ozjSections img).all (sectionOk img) &&
  (upTo (ozjLanes img)).all (fun l =>
    (ozjFind img 1 l).isSome && (ozjFind img 2 l).isSome &&
    (match ozjFind img 6 l with | some s => (upTo s.param).all (relocOk img l) | none => true))

/-- The image relocates a field to the halo channels (R155, 07 Table 7-3). -/
def ozjUsesHalo (img : Bytes) : Bool := (upTo (ozjLanes img)).any (fun l => (ozjRelocs img l).any (fun r => r.base == 3))

/-- Bytes of a job's halo channels (log 31). -/
def ozjHalo (img : Bytes) : Nat := if ozjUsesHalo img then Config.haloBytes img else 0

/-- The banks that the image's relocations name (08 R230). -/
def ozjBanks (img : Bytes) : List Nat :=
  (upTo 16).filter (fun b => (upTo (ozjLanes img)).any (fun l =>
    (ozjRelocs img l).any (fun r => r.base == 0x10 + b || r.base == 0x20 + b)))

/-- Bytes that the image's cache entry takes: the image and the weights at their offsets (09 R274). -/
def ozjExtent (img : Bytes) : Nat :=
  ((ozjSections img).filter (fun s => s.type == 3)).foldl (fun n s => max n (s.param + s.size)) img.length

/-- Put `bs` at offset `o` of `xs`, extending it with 00h. -/
def overlay (xs : Bytes) (o : Nat) (bs : Bytes) : Bytes := slice xs 0 o ++ bs ++ xs.drop (o + bs.length)

/-- A descriptor slot's field with a base added in the field's unit (R155). `base` is a byte address. -/
def relocate (desc : Bytes) (field op base : Nat) : Bytes :=
  let addTo := fun (o hi lo unit : Nat) =>
    let w := leAt desc o 8
    overlay desc o (leBytes 8 (withBits w hi lo (bits w hi lo + base / unit)))
  match field with
  | 1 => addTo 24 21 0 128
  | 2 => addTo 8 39 0 1
  | 3 => addTo 16 39 0 1
  | _ => if op = 0x20 then addTo 8 19 0 1 else addTo 16 19 0 1

/-- The image with the weights placed and every relocation applied; `base l b` is the address of base `b` for lane
`l` (R155, 09 R274). -/
def ozjLoaded (img : Bytes) (base : Nat → Nat → Nat) : Bytes :=
  let withW := ((ozjSections img).filter (fun s => s.type == 3)).foldl (fun x s => overlay x s.param (ozjBytes img s)) img
  (upTo (ozjLanes img)).foldl (fun x l =>
    match ozjFind img 2 l with
    | none => x
    | some d => (ozjRelocs img l).foldl (fun x r =>
        let o := d.off + 32 * r.slot
        overlay x o (relocate (slice x o 32) r.field (leAt x o 1) (base l r.base))) x) withW

/-- The 16,384 bytes of lookup table `t` for a lane, 00h where the image has none. -/
def ozjTable (img : Bytes) (lane t : Nat) : Bytes :=
  match ozjFind img 4 lane with
  | some s =>
    if bit s.param t then slice img (s.off + 16384 * ((upTo t).filter (bit s.param)).length) 16384 else []
  | none => []

end Sys2Proof.Machine
end

