-- ==== Sys2Proof/Machine/Operands.lean ====
section
/-! DEFINITION. The object dictionary as data: for every index and subindex of every chapter its data type, its
access code, its reset value, the bits that hold data and the range of its own (16 R406 to R409, 00 R15 and R16).
An entry's key is its index times 256 plus its subindex. -/
namespace Sys2Proof.Machine

/-- The data types of R406, as far as a transfer tells them apart. -/
inductive DType where
  | num (bytes : Nat)
  | str
  | dom
  deriving DecidableEq, Repr

/-- The access codes of 00 R16, and the special conditions that replace R16 for some entries (16 R412). -/
inductive Access where
  | ro
  | rw
  | rws
  | wo
  | w1c
  | rc
  deriving DecidableEq, Repr

/-- A dictionary entry: `mask` has a 1 for each bit that a write sets (RW, RWS) or clears (W1C); the other bits read
as the module sets them (00 R15). -/
structure Entry where
  type  : DType
  acc   : Access
  reset : Nat
  mask  : Nat
  deriving DecidableEq, Repr

/-- A dictionary key. -/
def key (ix sub : Nat) : Nat := ix * 256 + sub

/-- Read-only number of `b` bytes. -/
def eRO (b : Nat) (r : Nat := 0) : Entry := ⟨.num b, .ro, r, 0⟩
/-- Read-write number of `b` bytes. -/
def eRW (b : Nat) (r : Nat := 0) (m : Nat := 256 ^ b - 1) : Entry := ⟨.num b, .rw, r, m⟩
/-- Number of `b` bytes writable while its owner is OFF or STOPPED. -/
def eRWS (b : Nat) (r : Nat := 0) (m : Nat := 256 ^ b - 1) : Entry := ⟨.num b, .rws, r, m⟩
/-- Write-only number of `b` bytes. -/
def eWO (b : Nat) : Entry := ⟨.num b, .wo, 0, 0⟩
/-- Number of `b` bytes whose bits under `m` clear when written 1. -/
def eW1C (b m : Nat) (r : Nat := 0) : Entry := ⟨.num b, .w1c, r, m⟩
/-- Counter of `b` bytes that a read clears. -/
def eRC (b : Nat := 4) (r : Nat := 0) : Entry := ⟨.num b, .rc, r, 0⟩
/-- DOMAIN entry. -/
def eDom (a : Access) : Entry := ⟨.dom, a, 0, 0⟩
/-- VISIBLE_STRING entry. -/
def eStr : Entry := ⟨.str, .ro, 0, 0⟩

/-- `sub` lies in [lo, hi]. -/
def within (sub lo hi : Nat) : Bool := decide (lo ≤ sub) && decide (sub ≤ hi)

/-! Grades (00 Table 0-1). -/

/-- Cores enabled in a grade. -/
def gCores (g : Nat) : Nat := if g = 7324 then 4 else if g = 7312 then 2 else 6
/-- Arrays enabled in a grade. -/
def gArrays (g : Nat) : Nat := if g = 7348 then 10 else if g = 7324 then 8 else if g = 7312 then 4 else 12
/-- Sensor ports of a grade. -/
def gPorts (g : Nat) : Nat := if g = 7324 then 24 else if g = 7312 then 12 else 36
/-- Sensor-control channels of a grade. -/
def gScc (g : Nat) : Nat := if g = 7324 then 8 else if g = 7312 then 4 else 12
/-- Logical array `n` = 2·core + array is present (00 R5). -/
def gArray (g n : Nat) : Bool :=
  decide (n < 2 * gCores g) && !(g == 7348 && (n == 9 || n == 11))
/-- The grade numeral read in hexadecimal (16 Table 16-1). -/
def gHex (g : Nat) : Nat :=
  if g = 7348 then 0x7348 else if g = 7324 then 0x7324 else if g = 7312 then 0x7312 else 0x7360

/-! The functions of 2020h (16 Table 16-2), named by subindex. -/

/-- Line domain `d`. -/
def fDomain (d : Nat) : Nat := 0x01 + d
/-- Sensor stream of lowest port `p`. -/
def fStream (p : Nat) : Nat := 0x05 + p
/-- Intake stream `i`. -/
def fIntake (i : Nat) : Nat := 0x29 + i
/-- Job `j`. -/
def fJob (j : Nat) : Nat := 0x39 + j
/-- Output group `g`. -/
def fGroup (g : Nat) : Nat := 0x79 + g
/-- Network port: NET0, NET1, MLINK. -/
def fNet (n : Nat) : Nat := 0x89 + n

/-- What kind of unit a function is, and which one. -/
inductive Fn where
  | domain (d : Nat)
  | stream (p : Nat)
  | intake (i : Nat)
  | job (j : Nat)
  | group (g : Nat)
  | net (n : Nat)
  deriving DecidableEq, Repr

/-- The function that a subindex of 2020h names. -/
def fnOf (f : Nat) : Option Fn :=
  if within f 0x01 0x04 then some (.domain (f - 0x01))
  else if within f 0x05 0x28 then some (.stream (f - 0x05))
  else if within f 0x29 0x38 then some (.intake (f - 0x29))
  else if within f 0x39 0x78 then some (.job (f - 0x39))
  else if within f 0x79 0x88 then some (.group (f - 0x79))
  else if within f 0x89 0x8B then some (.net (f - 0x89))
  else none

/-- The unit of a function is one that the grade has (00 R6, 16 R410). -/
def fnPresent (g f : Nat) : Bool :=
  match fnOf f with
  | some (.stream p) => decide (p < gPorts g)
  | some _ => true
  | none => false

/-! Objects, one definition per chapter table. Each answers the entry of a subindex, none where it is reserved. -/

/-- 1018h (Table 16-1). -/
def od1018 (sub : Nat) : Option Entry :=
  if sub = 0 then some (eRO 1 4) else if within sub 1 4 then some (eRO 4) else none

/-- 2000h (Table 0-2). -/
def od2000 (sub : Nat) : Option Entry :=
  if sub = 0 then some (eRO 1 0x0E)
  else if within sub 1 2 then some (eRO 2)
  else if within sub 3 6 then some (eRO 1)
  else if within sub 7 10 then some (eRO 4)
  else if within sub 11 13 then some (eRO 1)
  else if sub = 14 then some eStr else none

/-- 2010h (Table 10-4). -/
def od2010 (sub : Nat) : Option Entry :=
  match sub with
  | 0 => some (eRO 1 6)
  | 1 => some (eRW 1)
  | 2 => some (eRO 2)
  | 3 => some (eRO 8)
  | 4 => some (eRO 8)
  | 5 => some (eRC 4)
  | 6 => some (eRO 2)
  | _ => none

/-- 2020h (Table 16-2). -/
def od2020 (sub : Nat) : Option Entry :=
  if sub = 0 then some (eRO 1 0xF2)
  else if within sub 0x01 0x8B then some (eRW 4 0 0)
  else if sub = 0xF0 ∨ sub = 0xF1 then some (eRO 8)
  else if sub = 0xF2 then some (eDom .wo) else none

/-- 2100h + e (Table 2-2). The count period is FFFFFFFFh until two counts are registered (DESIGN CHOICE, log 120). -/
def odEncoder (sub : Nat) : Option Entry :=
  match sub with
  | 0 => some (eRO 1 7)
  | 1 => some (eRWS 4 0 0x3FF7)
  | 2 => some (eRO 4)
  | 3 => some (eRO 4)
  | 4 => some (eRO 4)
  | 5 => some (eRO 4 0xFFFFFFFF)
  | 6 => some (eW1C 2 0x70)
  | 7 => some (eRWS 4)
  | _ => none

/-- 2108h + d (Table 2-4). -/
def odDomain (d sub : Nat) : Option Entry :=
  match sub with
  | 0 => some (eRO 1 0x0B)
  | 1 => some (eRWS 4 (0x400 + d) 0xFC7)
  | 2 => some (eRO 6)
  | 3 => some (eRWS 6)
  | 4 => some (eRWS 6)
  | 5 => some (eRO 4)
  | 6 => some (eRC 4)
  | 7 => some (eRO 4 0xFFFFFFFF)
  | 8 => some (eRO 4)
  | 9 => some (eRWS 4 100000)
  | 0x0A => some (eRO 2)
  | 0x0B => some (eRO 6)
  | _ => none

/-- 2120h + n (Table 2-9). -/
def odCompare (sub : Nat) : Option Entry :=
  match sub with
  | 0 => some (eRO 1 7)
  | 1 => some (eRWS 4 0 0x1FFFF)
  | 2 => some (eRW 6)
  | 3 => some (eRW 4)
  | 4 => some (eWO 1)
  | 5 => some (eRO 2)
  | 6 => some (eRC 4)
  | 7 => some (eRO 6)
  | _ => none

/-- 2140h + w (Table 2-11). -/
def odWindow (sub : Nat) : Option Entry :=
  match sub with
  | 0 => some (eRO 1 0x0A)
  | 1 => some (eRWS 4 0x1FF8 0x1FFF)
  | 2 => some (eRW 6)
  | 3 => some (eRW 6)
  | 4 => some (eRW 4)
  | 5 => some (eWO 1)
  | 6 => some (eRO 1)
  | 7 => some (eRO 4)
  | 8 => some (eRO 6)
  | 9 => some (eRO 6)
  | 0x0A => some (eRO 2)
  | _ => none

/-- 2180h (Table 2-13). -/
def od2180 (sub : Nat) : Option Entry :=
  if sub = 0 then some (eRO 1 0x30)
  else if within sub 0x01 0x10 then some (eRWS 4 0xFFFFF 0xFC0FFFFF)
  else if within sub 0x11 0x20 then some (eRW 4 1)
  else if within sub 0x21 0x30 then some (eRO 4)
  else none

/-- 2190h + p (Table 2-6). -/
def odTrigger (sub : Nat) : Option Entry :=
  match sub with
  | 0 => some (eRO 1 6)
  | 1 => some (eRWS 4 0 0xFF01)
  | 2 => some (eRWS 4 1)
  | 3 => some (eRWS 4)
  | 4 => some (eRWS 2 50)
  | 5 => some (eRWS 4)
  | 6 => some (eRO 6)
  | _ => none

/-- 2200h + p (Table 11-6). -/
def odPort (sub : Nat) : Option Entry :=
  match sub with
  | 0 => some (eRO 1 0x16)
  | 1 => some (eRWS 4 0x00082000 0x03FCFE40)
  | 2 => some (eRWS 2 4096)
  | 3 => some (eRWS 2 1)
  | 4 => some (eRWS 2 64)
  | 5 => some (eRWS 4 0 0x3FFF)
  | 6 => some (eRWS 2)
  | 7 => some (eRWS 4)
  | 8 => some (eRWS 4 500000)
  | 9 => some (eRWS 4 0xC0404040 0xFF7F7F7F)
  | 0x0A => some (eRWS 2 0xA5C3)
  | 0x0B => some (eWO 1)
  | 0x0C => some (eW1C 2 0x3800)
  | 0x0D => some (eRO 4)
  | 0x0E => some (eRO 4)
  | 0x0F => some (eRO 4)
  | 0x10 => some (eRO 8)
  | 0x11 => some (eRC 4)
  | 0x12 => some (eRC 4)
  | 0x13 => some (eRC 4)
  | 0x14 => some (eRC 4)
  | 0x15 => some (eRC 4)
  | 0x16 => some (eRC 4)
  | _ => none

/-- 2230h + k (Table 11-9). -/
def odScc (sub : Nat) : Option Entry :=
  match sub with
  | 0 => some (eRO 1 0x0A)
  | 1 => some (eRWS 4 0x0010A000 0x03FFF003)
  | 2 => some (eRW 4 100000)
  | 3 => some (eRW 2 10000)
  | 4 => some (eDom .wo)
  | 5 => some (eRO 8)
  | 6 => some (eRO 8)
  | 7 => some (eRO 1)
  | 8 => some (eRC 4)
  | 9 => some (eRC 4)
  | 0x0A => some (eRC 4)
  | _ => none

/-- 2300h + p (Table 12-7). -/
def odIfe (sub : Nat) : Option Entry :=
  match sub with
  | 0 => some (eRO 1 0x14)
  | 1 => some (eRWS 4 0 0xFFFF8000)
  | 2 => some (eRWS 4 0x4 0xF)
  | 3 => some (eRWS 2 256)
  | 4 => some (eRWS 4 0 0x3F3F3F3F)
  | 5 => some (eDom .rws)
  | 6 => some (eDom .rws)
  | 7 => some (eDom .rws)
  | 8 => some (eDom .rws)
  | 9 => some (eDom .rws)
  | 0x0A => some (eRWS 4 0 0xFFFFFF)
  | 0x0B => some (eRO 4)
  | 0x0C => some (eRO 4)
  | 0x0D => some (eRO 4)
  | 0x0E => some (eRO 4)
  | 0x0F => some (eRO 4)
  | 0x10 => some (eRO 4 0xFFFFFFFF)
  | 0x11 => some (eW1C 2 0x6)
  | 0x12 => some (eRC 4)
  | 0x13 => some (eRC 4)
  | 0x14 => some (eRC 4)
  | _ => none

/-- 2400h + c (Table 5-14). -/
def odCore (sub : Nat) : Option Entry :=
  match sub with
  | 0 => some (eRO 1 0x0A)
  | 1 => some (eRO 4)
  | 2 => some (eRO 4)
  | 3 => some (eW1C 4 0x100)
  | 4 => some (eRO 4)
  | 5 => some (eRO 2)
  | 6 => some (eRC 4)
  | 7 => some (eRC 4)
  | 8 => some (eRC 4)
  | 9 => some (eRC 4)
  | 0x0A => some (eRC 4)
  | _ => none

/-- 2410h (Table 3-11). -/
def od2410 (sub : Nat) : Option Entry :=
  if sub = 0 then some (eRO 1 0x5B)
  else if sub = 1 then some (eRO 2)
  else if sub = 2 then some (eRO 4)
  else if sub = 3 then some (eRO 2)
  else if within sub 0x10 0x1B then some (eW1C 4 0x300)
  else if within sub 0x20 0x2B then some (eRO 4)
  else if within sub 0x30 0x3B then some (eRC 4)
  else if within sub 0x40 0x4B then some (eRC 4)
  else if within sub 0x50 0x5B then some (eRC 4)
  else none

/-- 2500h (Tables 7-4 and 9-1). -/
def od2500 (sub : Nat) : Option Entry :=
  if sub = 0 then some (eRO 1 0x3F)
  else if within sub 0x01 0x06 then some (eRW 1)
  else if within sub 0x07 0x0C then some (eRW 4 1200000)
  else if within sub 0x0D 0x12 then some (eRW 4 120000)
  else if within sub 0x13 0x18 then some (eRO 4)
  else if within sub 0x19 0x1E then some (eRC 4)
  else if sub = 0x1F then some (eRC 4)
  else if sub = 0x20 then some (eRW 2 64)
  else if sub = 0x21 then some (eRW 2 256)
  else if sub = 0x22 then some (eRW 2 48)
  else if sub = 0x23 then some (eRW 2 16)
  else if sub = 0x24 then some (eRO 2)
  else if sub = 0x25 then some (eRW 2 56)
  else if sub = 0x26 then some (eRO 2)
  else if sub = 0x27 then some (eRW 1)
  else if within sub 0x28 0x2D then some (eRO 4)
  else if within sub 0x30 0x35 then some (eRO 4)
  else if sub = 0x36 then some (eRO 8)
  else if sub = 0x37 then some (eRO 4)
  else if sub = 0x38 then some (eRW 2 10)
  else if sub = 0x39 then some (eRW 2 10)
  else if sub = 0x3A then some (eRW 2 60)
  else if sub = 0x3B then some (eRO 2)
  else if sub = 0x3C then some (eRO 2 8533)
  else if sub = 0x3D then some (eRW 2 600)
  else if sub = 0x3E then some (eRO 2 2)
  else if sub = 0x3F then some (eRC 2)
  else none

/-- 2510h + j (Table 9-9). -/
def odJob (sub : Nat) : Option Entry :=
  match sub with
  | 0 => some (eRO 1 0x18)
  | 1 => some (eRWS 4 0 0x3C7)
  | 2 => some (eDom .rws)
  | 3 => some (eRWS 2 1536)
  | 4 => some (eRWS 2 1024)
  | 5 => some (eRO 4)
  | 6 => some (eRO 4 0xFFFFFFFF)
  | 7 => some (eRO 6)
  | 8 => some (eRO 4)
  | 9 => some (eRO 8)
  | 0x10 => some (eRO 2)
  | 0x11 => some (eRO 4)
  | 0x12 => some (eRO 4)
  | _ => if within sub 0x0A 0x0F || within sub 0x13 0x18 then some (eRC 4) else none

/-- 2560h (Table 9-6). -/
def od2560 (sub : Nat) : Option Entry :=
  if sub = 0 then some (eRO 1 0x8F)
  else if sub = 1 then some (eRW 4 16384)
  else if sub = 2 then some (eRO 8 0x48000000)
  else if sub = 3 then some (eRO 4)
  else if sub = 4 then some (eWO 1)
  else if sub = 5 then some (eRW 4)
  else if sub = 6 then some (eRO 1)
  else if within sub 7 0x0B then some (eRC 4)
  else if within sub 0x10 0x4F then some (eRO 8)
  else if within sub 0x50 0x8F then some (eRO 4)
  else none

/-- 2570h (Table 9-12). -/
def od2570 (sub : Nat) : Option Entry :=
  match sub with
  | 0 => some (eRO 1 8)
  | 1 => some (eRO 8)
  | 2 => some (eRO 2 1152)
  | 3 => some (eRC 4)
  | 4 => some (eRC 4)
  | 5 => some (eRC 4)
  | 6 => some (eRC 4)
  | 7 => some (eRO 4)
  | 8 => some (eRC 4)
  | _ => none

/-- 2600h (Table 14-6). -/
def od2600 (sub : Nat) : Option Entry :=
  if sub = 0 then some (eRO 1 0x42)
  else if within sub 0x01 0x40 then some (eRW 4 0 0xEF)
  else if sub = 0x41 then some (eRC 4)
  else if sub = 0x42 then some (eRO 8)
  else none

/-- 2610h + g (Table 14-7). -/
def odGroup (g sub : Nat) : Option Entry :=
  match sub with
  | 0 => some (eRO 1 0x11)
  | 1 => some (eRWS 4 (g % 4 * 256 + 0x1A) 0x3F1E)
  | 2 => some (eRWS 4 1000)
  | 3 => some (eRWS 2 (if g < 4 then 512 * g else 0))
  | 4 => some (eRWS 2 512)
  | 5 => some (eRWS 2)
  | 6 => some (eRWS 4 100000)
  | 7 => some (eRO 2)
  | 0x0E => some (eRO 6)
  | 0x0F => some (eRO 2)
  | 0x10 => some (eRC 2)
  | 0x11 => some (eRC 4)
  | _ => if within sub 0x08 0x0D then some (eRC 4) else none

/-- 2620h + c (Table 14-9). -/
def odChannel (sub : Nat) : Option Entry :=
  match sub with
  | 0 => some (eRO 1 7)
  | 1 => some (eRWS 4 0x000A0200 0xFF03FF)
  | 2 => some (eW1C 2 0x2)
  | 3 => some (eRC 4)
  | 4 => some (eRC 4)
  | 5 => some (eRC 4)
  | 6 => some (eRC 4)
  | 7 => some (eDom .ro)
  | _ => none

/-- 2630h (Table 14-10). -/
def od2630 (sub : Nat) : Option Entry :=
  match sub with
  | 0 => some (eRO 1 3)
  | 1 => some (eRO 2)
  | 2 => some (eRW 2)
  | 3 => some (eRO 2)
  | _ => none

/-- 2640h (Table 15-4). -/
def od2640 (sub : Nat) : Option Entry :=
  if sub = 0 then some (eRO 1 0x1B)
  else if sub = 1 then some (eRO 2)
  else if sub = 2 then some (eW1C 2 0xC0)
  else if within sub 0x03 0x0A then some (eRW 4 100 0x1FFFF)
  else if within sub 0x0B 0x12 then some (eRW 4 10 0xFFFF)
  else if sub = 0x13 then some (eRW 4 0x2000A 0x3FFFF)
  else if sub = 0x14 then some (eW1C 2 0xFFFF)
  else if sub = 0x15 then some (eW1C 2 0xFFFF)
  else if sub = 0x16 then some (eRO 2)
  else if sub = 0x17 then some (eRO 2)
  else if sub = 0x18 then some (eW1C 2 0xF00)
  else if within sub 0x19 0x1B then some (eRC 4)
  else none

/-- 2700h + n (Table 18-6). -/
def odNet (sub : Nat) : Option Entry :=
  match sub with
  | 0 => some (eRO 1 0x27)
  | 1 => some (eRWS 4 0 7)
  | 2 => some (eRO 6)
  | 3 => some (eRWS 4)
  | 4 => some (eRWS 4 0xFFFFFF00)
  | 5 => some (eRWS 4)
  | 6 => some (eRWS 2 4900)
  | 7 => some (eRWS 2 1500)
  | 8 => some (eRWS 2 1024)
  | 9 => some (eRWS 2 256)
  | 0x0A => some (eRWS 4 100000)
  | 0x0B => some (eRWS 2 16)
  | 0x0C => some (eRO 1)
  | 0x0D => some (eRO 8)
  | 0x0E => some (eRO 8)
  | 0x0F => some (eRWS 1 0 0x87)
  | 0x1B => some (eRO 2)
  | _ =>
    if within sub 0x10 0x1A then some (eRC 4)
    else if within sub 0x20 0x27 then some (eRWS 8 0 0xFFFFFFFFFFFF0007)
    else none

/-- 2710h (Table 18-7). -/
def od2710 (sub : Nat) : Option Entry :=
  match sub with
  | 0 => some (eRO 1 0x27)
  | 1 => some (eRW 4 0x00808040 0xFFFFFFFE)
  | 2 => some (eRW 4 0x01000003)
  | 3 => some (eRO 6)
  | 4 => some (eRO 4)
  | 5 => some (eRO 4)
  | 6 => some (eRO 8)
  | 7 => some (eRO 4)
  | 8 => some (eRO 4)
  | 9 => some (eRW 4 196608)
  | 0x0A => some (eRW 4 19661)
  | 0x0B => some (eRW 4 10000)
  | 0x0C => some (eRO 8)
  | 0x0D => some (eRO 8)
  | 0x0E => some (eRO 2)
  | 0x0F => some (eRO 8)
  | 0x10 => some (eRO 2)
  | 0x27 => some (eWO 8)
  | _ =>
    if within sub 0x11 0x16 then some (eRW 4)
    else if within sub 0x17 0x1A then some (eRW 2 0x3FF 0xFFF)
    else if within sub 0x1B 0x1E then some (eRO 6)
    else if within sub 0x1F 0x23 then some (eRO 4)
    else if within sub 0x24 0x26 then some (eRC 4)
    else none

/-- 2720h (Table 18-2). -/
def od2720 (sub : Nat) : Option Entry :=
  if sub = 0 then some (eRO 1 0x4D)
  else if within sub 0x01 0x20 then some (eRWS 4 0 0x87FFFFF0)
  else if within sub 0x21 0x24 then some (eRWS 1 0 1)
  else if within sub 0x25 0x28 then some (eRO 4)
  else if sub = 0x2D then some (eRW 2 32)
  else if within sub 0x2E 0x4D then some (eRO 2 0xFFFF)
  else none

/-- 2730h (Tables 18-9 and 10-6). -/
def od2730 (sub : Nat) : Option Entry :=
  match sub with
  | 0 => some (eRO 1 0x19)
  | 1 => some (eRWS 2)
  | 2 => some (eRWS 2 256)
  | 3 => some (eRWS 4 65600)
  | 4 => some (eRWS 4 0 0x1FFF)
  | 5 => some (eRO 8)
  | 6 => some (eRO 1)
  | 7 => some (eRO 1)
  | 8 => some (eRC 4)
  | 9 => some (eRC 4)
  | 0x0A => some (eRC 4)
  | 0x0B => some (eRC 4)
  | 0x0C => some (eRO 1)
  | 0x10 => some (eRW 4 1 7)
  | 0x11 => some (eWO 1)
  | 0x12 => some (eRW 2 100)
  | 0x13 => some (eRW 4 1000000)
  | 0x14 => some (eRO 1)
  | 0x15 => some (eRO 8)
  | 0x16 => some (eRW 8)
  | 0x17 => some (eRW 1 0 0xF)
  | 0x18 => some (eRC 4)
  | 0x19 => some (eRC 4)
  | _ => none

/-- 2800h (Table 19-4). -/
def od2800 (sub : Nat) : Option Entry :=
  match sub with
  | 0 => some (eRO 1 8)
  | 1 => some (eRW 1)
  | 2 => some (eRO 1)
  | 3 => some (eRO 1)
  | 4 => some (eRW 1 3 3)
  | 5 => some (eRO 2)
  | 6 => some (eRO 2)
  | 7 => some (eRC 4)
  | 8 => some (eRO 1)
  | _ => none

/-- 2801h (Table 21-4). -/
def od2801 (sub : Nat) : Option Entry :=
  match sub with
  | 0 => some (eRO 1 8)
  | 1 => some (eRO 2)
  | 2 => some (eRO 2)
  | 3 => some (eRO 2)
  | 4 => some (eRO 2)
  | 5 => some (eRO 2)
  | 6 => some (eRC 2)
  | 7 => some (eRO 2)
  | 8 => some (eRC 4)
  | _ => none

/-- 2810h (Table 19-10). -/
def od2810 (sub : Nat) : Option Entry :=
  match sub with
  | 0 => some (eRO 1 0x0D)
  | 1 => some (eRO 1)
  | 2 => some (eWO 1)
  | 3 => some (eDom .wo)
  | 4 => some (eRO 1)
  | 5 => some (eRO 1)
  | 6 => some (eDom .ro)
  | 7 => some (eRO 4)
  | 8 => some (eRO 4)
  | 9 => some (eRO 4)
  | 0x0A => some (eRO 4)
  | 0x0B => some (eDom .wo)
  | 0x0C => some (eRO 4)
  | 0x0D => some (eRC 4)
  | _ => none

/-- 2820h (Table 19-14). -/
def od2820 (sub : Nat) : Option Entry :=
  match sub with
  | 0 => some (eRO 1 7)
  | 1 => some (eRW 1 1)
  | 2 => some (eRO 1 1)
  | 3 => some (eDom .ro)
  | 4 => some (eDom .wo)
  | 5 => some (eRO 2)
  | 6 => some (eRC 4)
  | 7 => some (eRC 4)
  | _ => none

/-- The highest subindex of 2900h + n (20, "Error counters"). -/
def errTop (n : Nat) : Nat :=
  match n with
  | 0 => 0x12
  | 1 => 0x13
  | 2 => 0x0D
  | 3 => 0x0E
  | _ => 0x07

/-- 2900h + n (Table 20-6). -/
def odErr (n sub : Nat) : Option Entry :=
  if sub = 0 then some (eRO 1 (errTop n)) else if sub ≤ errTop n then some (eRC 4) else none

/-- 29F0h (Table 20-7). -/
def od29F0 (sub : Nat) : Option Entry :=
  if sub = 0 then some (eRO 1 0x15)
  else if sub = 1 then some (eWO 1)
  else if sub = 2 then some (eRO 1)
  else if sub = 3 then some (eRC 4)
  else if sub = 4 then some (eRW 2 1000)
  else if sub = 5 then some (eRO 1)
  else if within sub 0x10 0x14 then some (eRW 8 0x5555555555555555)
  else if sub = 0x15 then some (eRW 4 0x00035DD0 0x0003FFF0)
  else none

/-- 2A00h + i (Table 13-4). -/
def odIntake (sub : Nat) : Option Entry :=
  match sub with
  | 0 => some (eRO 1 0x1C)
  | 1 => some (eRWS 4 0x00580000 0x03FFF303)
  | 2 => some (eRWS 2 4096)
  | 3 => some (eRWS 2 4096)
  | 4 => some (eRWS 4 16777216)
  | 5 => some (eRWS 2 16)
  | 6 => some (eRWS 8)
  | 7 => some (eRWS 4 0 0x1FFF)
  | 8 => some (eRWS 2)
  | 9 => some (eRWS 2 32)
  | 0x0A => some (eRWS 4 120000)
  | 0x0B => some (eRWS 8)
  | 0x0C => some (eRWS 4)
  | 0x0D => some (eRWS 4)
  | 0x0E => some (eRWS 2)
  | 0x0F => some (eDom .rws)
  | 0x10 => some (eRWS 4 12000000)
  | 0x11 => some (eRO 8)
  | 0x12 => some (eRO 8)
  | 0x13 => some (eRO 4)
  | 0x14 => some (eRO 2)
  | _ => if within sub 0x15 0x1C then some (eRC 4) else none

/-- 2B00h + b (Table 8-4). -/
def odBank (sub : Nat) : Option Entry :=
  match sub with
  | 0 => some (eRO 1 0x0E)
  | 1 => some (eRWS 4 6 0xF)
  | 2 => some (eRWS 4)
  | 3 => some (eRWS 4)
  | 4 => some (eWO 1)
  | 5 => some (eRO 1)
  | 6 => some (eRO 8)
  | 7 => some (eRO 8)
  | 8 => some (eRO 4)
  | 9 => some (eRO 4)
  | 0x0A => some (eRC 4)
  | 0x0B => some (eRC 4)
  | 0x0C => some (eRO 4 0xFFFFFFFF)
  | 0x0D => some (eRC 4)
  | 0x0E => some (eRC 4)
  | _ => none

/-- PDO mapping objects 1600h to 1603h and 1A00h to 1A03h (16 R423). PRESUMED: subindex 00h holds the number of valid
entries, as CiA 301 lays it out. -/
def odMap (sub : Nat) : Option Entry :=
  if sub = 0 then some (eRW 1) else if within sub 1 64 then some (eRW 4) else none

/-- PDO assignment objects 1C12h and 1C13h (16 R423). -/
def odAssign (sub : Nat) : Option Entry :=
  if sub = 0 then some (eRW 1) else if within sub 1 4 then some (eRW 2) else none

/-- 1C32h and 1C33h (Table 16-7); `inp` is 1C33h. -/
def odSm (inp : Bool) (sub : Nat) : Option Entry :=
  match sub with
  | 0 => some (eRO 1 0x20)
  | 1 => some (eRW 2 1)
  | 2 => some (eRW 4)
  | 3 => some (eRW 4)
  | 4 => some (eRO 2 (if inp then 3 else 1))
  | 5 => some (eRO 4 50000)
  | 6 => some (eRO 4 800)
  | 0x0C => some (eRO 2)
  | 0x20 => some (eRO 1)
  | _ => none

/-- 6000h to 6020h (Table 16-8). -/
def odInput (ix sub : Nat) : Option Entry :=
  if ix = 0x6000 then
    if sub = 0 then some (eRO 1 4) else if within sub 1 4 then some (eRO 6) else none
  else if ix = 0x6001 then
    if sub = 0 then some (eRO 1 3) else if sub = 1 then some (eRO 4) else if sub = 2 then some (eRO 1)
    else if sub = 3 then some (eRO 2) else none
  else if ix = 0x6010 then
    if sub = 0 then some (eRO 1 0x20) else if within sub 1 0x20 then some (eRO 8) else none
  else if ix = 0x6020 then
    if sub = 0 then some (eRO 1 5) else if sub = 1 then some (eRO 4) else if sub = 2 then some (eRO 2)
    else if sub = 3 then some (eRO 2) else if sub = 4 then some (eRO 4) else if sub = 5 then some (eRO 8) else none
  else none

/-- 7000h to 7020h (Table 16-10). -/
def odOutput (ix sub : Nat) : Option Entry :=
  if ix = 0x7000 then
    if sub = 0 then some (eRO 1 1) else if sub = 1 then some (eRW 2) else none
  else if ix = 0x7010 then
    if sub = 0 then some (eRO 1 8) else if within sub 1 8 then some (eRW 8) else none
  else if ix = 0x7020 then
    if sub = 0 then some (eRO 1 1) else if sub = 1 then some (eRW 4) else none
  else none

/-- An index that the module has (16 R406, 05 R158). -/
def hasIndex (g ix : Nat) : Bool :=
  ix == 0x1000 || within ix 0x1008 0x100A || ix == 0x1018 || within ix 0x1600 0x1603 || within ix 0x1A00 0x1A03
  || ix == 0x1C12 || ix == 0x1C13 || ix == 0x1C32 || ix == 0x1C33 || ix == 0x2000 || ix == 0x2010 || ix == 0x2020
  || within ix 0x2100 0x2103 || within ix 0x2108 0x210B || within ix 0x2120 0x213F || within ix 0x2140 0x217F
  || ix == 0x2180 || within ix 0x2190 0x21B3 || within ix 0x2200 0x2223 || within ix 0x2230 0x223B
  || within ix 0x2300 0x2323 || (decide (0x2400 ≤ ix) && decide (ix < 0x2400 + gCores g)) || ix == 0x2410
  || ix == 0x2500 || within ix 0x2510 0x254F || ix == 0x2560 || ix == 0x2570 || ix == 0x2600
  || within ix 0x2610 0x261F || within ix 0x2620 0x2623 || ix == 0x2630 || ix == 0x2640 || within ix 0x2700 0x2701
  || ix == 0x2710 || ix == 0x2720 || ix == 0x2730 || within ix 0x2800 0x2801 || ix == 0x2810 || ix == 0x2820
  || within ix 0x2900 0x2904 || ix == 0x29F0 || within ix 0x2A00 0x2A0F || within ix 0x2B00 0x2B0F
  || within ix 0x6000 0x6001 || ix == 0x6010 || ix == 0x6020 || ix == 0x7000 || ix == 0x7010 || ix == 0x7020

/-- The entry at an index and subindex. -/
def entryOf (ix sub : Nat) : Option Entry :=
  if ix = 0x1000 then (if sub = 0 then some (eRO 4) else none)
  else if within ix 0x1008 0x100A then (if sub = 0 then some eStr else none)
  else if ix = 0x1018 then od1018 sub
  else if within ix 0x1600 0x1603 || within ix 0x1A00 0x1A03 then odMap sub
  else if ix = 0x1C12 ∨ ix = 0x1C13 then odAssign sub
  else if ix = 0x1C32 then odSm false sub
  else if ix = 0x1C33 then odSm true sub
  else if ix = 0x2000 then od2000 sub
  else if ix = 0x2010 then od2010 sub
  else if ix = 0x2020 then od2020 sub
  else if within ix 0x2100 0x2103 then odEncoder sub
  else if within ix 0x2108 0x210B then odDomain (ix - 0x2108) sub
  else if within ix 0x2120 0x213F then odCompare sub
  else if within ix 0x2140 0x217F then odWindow sub
  else if ix = 0x2180 then od2180 sub
  else if within ix 0x2190 0x21B3 then odTrigger sub
  else if within ix 0x2200 0x2223 then odPort sub
  else if within ix 0x2230 0x223B then odScc sub
  else if within ix 0x2300 0x2323 then odIfe sub
  else if within ix 0x2400 0x2405 then odCore sub
  else if ix = 0x2410 then od2410 sub
  else if ix = 0x2500 then od2500 sub
  else if within ix 0x2510 0x254F then odJob sub
  else if ix = 0x2560 then od2560 sub
  else if ix = 0x2570 then od2570 sub
  else if ix = 0x2600 then od2600 sub
  else if within ix 0x2610 0x261F then odGroup (ix - 0x2610) sub
  else if within ix 0x2620 0x2623 then odChannel sub
  else if ix = 0x2630 then od2630 sub
  else if ix = 0x2640 then od2640 sub
  else if within ix 0x2700 0x2701 then odNet sub
  else if ix = 0x2710 then od2710 sub
  else if ix = 0x2720 then od2720 sub
  else if ix = 0x2730 then od2730 sub
  else if ix = 0x2800 then od2800 sub
  else if ix = 0x2801 then od2801 sub
  else if ix = 0x2810 then od2810 sub
  else if ix = 0x2820 then od2820 sub
  else if within ix 0x2900 0x2904 then odErr (ix - 0x2900) sub
  else if ix = 0x29F0 then od29F0 sub
  else if within ix 0x2A00 0x2A0F then odIntake sub
  else if within ix 0x2B00 0x2B0F then odBank sub
  else if within ix 0x6000 0x60FF then odInput ix sub
  else if within ix 0x7000 0x70FF then odOutput ix sub
  else none

/-- The reset value of a register (Reset columns; 0 where a table gives none). -/
def resetVal (k : Nat) : Nat :=
  match entryOf (k / 256) (k % 256) with
  | some e => e.reset
  | none => 0

/-- The width of a register in bits; a key that names no number holds nothing. -/
def widthOf (k : Nat) : Nat :=
  match entryOf (k / 256) (k % 256) with
  | some ⟨.num b, _, _, _⟩ => 8 * b
  | _ => 0

end Sys2Proof.Machine
end

