-- ==== Sys2Proof/Machine/State.lean ====
section
/-! DEFINITION. The state of the module as plain data: every register of the object dictionary, every memory, and what
each unit holds beside its registers. Times are absolute: `sclk` fields count SCLK cycles, `cclk` fields CCLK cycles
since the model's time 0. Sparse tables list (key, value) pairs with rising keys and no unlisted value. -/
namespace Sys2Proof.Machine

/-- No command of this model stops the machine with a fault: the module has no such outcome (20 R489). -/
inductive Fault where
  /-- Raised by no meaning. Safe. -/
  | none
  deriving DecidableEq, Repr

/-- Why a command has no next state. -/
inductive Refusal where
  /-- The command has no meaning in the model yet. Raised by Dispatch alone. Safe. -/
  | notModelled (mnemonic : String)
  deriving DecidableEq, Repr

/-- The outcome of a command. -/
abbrev Out (σ : Type) := Host.Outcome σ Fault Refusal

/-! Effects of later cycles. -/

/-- An effect that falls in a later cycle than the command that causes it. -/
inductive Effect where
  /-- An event of Table 2-8 reaches its consumers and its reports; `late` marks a late match (02 R53, R56). -/
  | source (src : Nat) (late : Bool)
  /-- The values that a count of domain `d` reached are registered as reached (02 Table 2-1). -/
  | reach (d : Nat)
  /-- ARM, DISARM or a value written takes effect on a compare channel; an armed channel is judged (02 R56). -/
  | cmpArm (n : Nat)
  | cmpDisarm (n : Nat)
  | cmpValue (n v : Nat)
  | cmpJudge (n : Nat) (late : Bool)
  /-- ARM or DISARM takes effect on a window; a window takes up the period of its advance (02 R58, R61). -/
  | winArm (w : Nat)
  | winDisarm (w : Nat)
  | winEnter (w : Nat)
  /-- A load value written loads its timer (02 R65). -/
  | timerLoad (t : Nat)
  /-- A queued pass has lost its weights to a drain (03 R96). -/
  | orphan (n h : Nat)
  /-- The functions of a set command enter RUNNING (16 R417). -/
  | enter (fs : List Nat)
  /-- The hold timer of a context had expired when its holding ended (09 R268, 02 R63). -/
  | overheld (ctx inc : Nat)
  /-- A context that gave up its position ranks again (09 R266), or a slot falls free (09 R269). -/
  | stir
  /-- Waits on shared semaphores, and acquisitions of credits, are granted as their cycle closes (05 R148, R151). -/
  | hubGrant
  | creditGrant
  /-- An external signal to semaphore `sem` of job `j`, stamped, has crossed to CCLK (05 R146, 10 R285). -/
  | external (j sem stamp : Nat)
  /-- The result of a sensor-control record has crossed to CCLK: it is written at an address of its context, and the semaphore
  named, if any, is signalled (11 R330, 10 R285). -/
  | sccResult (ctx inc a : Nat) (bs : Bytes) (sem : Option Nat)
  /-- The publication of a job's deadline, or its clearing, has crossed to SCLK (05 R153, 10 R286). -/
  | publish (j : Nat) (v : Option Nat)
  /-- A record with its poison marks arrives at port `p` from a context on a core (05 R143). -/
  | port (core p ctx inc : Nat) (bs : List (BitVec 8 × Bool))
  /-- A fire-order record from `src` enters its platform queue or is refused (14 R372). -/
  | fire (src : Nat) (dom : Option Nat) (w0 w1 w2 w3 : Nat)
  /-- A record of enrolment is applied (08 R243). -/
  | enrol (bs : Bytes)
  /-- A STEP of a context is applied (09 R280); its table has been written whole, for semaphore `sem`. -/
  | step (ctx inc : Nat) (bs : Bytes)
  | tableDone (ctx inc sem : Nat)
  /-- The state of the valve bus and of the direct outputs is judged (14 R384 rules 1 and 5); the outputs take levels (R386);
  LAT rises with the state that a channel's shift carries (R384). -/
  | judge
  | drive (v : Nat)
  | strobe (c : Nat) (late : Bool)
  /-- A register that clears on reading takes an event of this cycle (00 R16). -/
  | tally (k : Nat)
  /-- The units are brought up to the present cycle while a descriptor writes to the verdict port. -/
  | carry
  deriving DecidableEq, Repr

/-- When an effect is carried out: as the cycle that begins at `tick` opens, before its commands, or as the cycle that
ends at `tick` closes, after them; effects of one instant in the order of `rank`. -/
structure Later where
  tick  : Nat
  close : Bool
  rank  : Nat
  act   : Effect
  deriving DecidableEq, Repr

/-! Event reporting (20). -/

/-- An event record (20 Table 20-4); `lpos` is the line domain and position where LPOSV is set. -/
structure EvRec where
  type : Nat
  late : Bool := false
  rep  : Nat := 0
  what : Nat
  ns   : Nat := 0
  sec  : Nat := 0
  lpos : Option (Nat × Nat) := none
  data : Nat := 0
  cycle : Nat := 0
  deriving DecidableEq, Repr

/-- A running holdoff timer of a counter (20 R493): the cycle it reaches zero, the increments folded and the last. -/
structure Holdoff where
  due    : Nat
  folded : Nat := 0
  data   : Nat := 0
  lpos   : Option (Nat × Nat) := none
  deriving DecidableEq, Repr

/-! Line time (02). -/

/-- What an encoder input holds beside its registers. -/
structure EncUnit where
  /-- SCLK cycle of the last registered count (R33). -/
  lastCount : Option Nat := none
  /-- Raw count at the last Z edge, and its cycle (R36). -/
  prevZ     : Option (Nat × Nat) := none
  /-- A write takes effect in the cycle after `cfgAt`; until then `oldCfg` and the Z period `oldPer` are in force
  (R38). -/
  oldCfg    : Nat := 0
  oldPer    : Nat := 0
  cfgAt     : Option Nat := none
  /-- Cycles in which the filtered levels of A, of B and of Z last changed (R34). -/
  aAt       : Option Nat := none
  bAt       : Option Nat := none
  zAt       : Option Nat := none
  deriving DecidableEq, Repr

/-- What a line domain holds beside its registers. -/
structure DomUnit where
  /-- Intervals between counts in 1/16 SCLK, newest first (R46). -/
  intervals : List Nat := []
  /-- SCLK cycle of the last count since the measurement restarted. -/
  lastAt    : Option Nat := none
  /-- Cycle in which the stall time reaches zero (R46, R509); none while not loaded. -/
  stallDue  : Option Nat := none
  /-- Rate generator: cycle its accumulator started and counts produced since (R40). -/
  genStart  : Nat := 0
  genCounts : Nat := 0
  /-- The latest advances of HPOS: cycle and HPOS before it, newest first (Table 2-1). -/
  advances  : List (Nat × Nat) := []
  /-- Cycle in which STOPPING was entered, and in which a fault of the encoder was registered (R43). -/
  stopAt    : Option Nat := none
  faultAt   : Option Nat := none
  deriving DecidableEq, Repr

/-- A trigger waiting out its delay (R47, R48). -/
structure Trig where
  pos    : Nat
  due    : Nat
  missed : Bool
  deriving DecidableEq, Repr

/-- What a trigger generator holds beside its registers. -/
structure TrigUnit where
  waiting   : List Trig := []
  /-- Cycle in which the latest accepted pulse begins or began. -/
  lastBegin : Option Nat := none
  /-- End of the active pulse. -/
  pulseEnd  : Option Nat := none
  deriving DecidableEq, Repr

/-- What a window holds beside its registers (R57 to R61). -/
structure WinUnit where
  start     : Nat := 0
  fin       : Nat := 0
  /-- Cycle of the arming in force; none when disarmed since. -/
  armedAt   : Option Nat := none
  /-- Cycle of the close after that arming. -/
  closedAt  : Option Nat := none
  /-- The window's previous period, for events of the cycle in which it closed and was armed again: start, end, arming. -/
  prev      : Option (Nat × Nat × Nat) := none
  startWritten : Bool := false
  endWritten   : Bool := false
  /-- An inside event has been taken since the opening (R62). -/
  seen      : Bool := false
  /-- The period of an advance is taken up in the next cycle (R61). -/
  entering  : Bool := false
  deriving DecidableEq, Repr

/-- What a timer of 2180h holds (R65, R66). -/
structure TimerUnit where
  running  : Bool := false
  loadedAt : Nat := 0
  /-- SCLK unit: the cycle it reaches zero. -/
  due      : Nat := 0
  /-- ec unit: counts left, and the cycle in which they reached zero. -/
  left     : Nat := 0
  zeroAt   : Option Nat := none
  /-- A run before the present one reached zero in this cycle, and its expiry is to be registered (R63). -/
  owed     : Option Nat := none
  deriving DecidableEq, Repr

/-- A compare channel beside its registers: the cycle of its last match (R55). -/
structure CmpUnit where
  matchAt : Option Nat := none
  deriving DecidableEq, Repr

/-! Verdicts, fire orders and the valve bus (14). -/

/-- An entry of a platform queue (R375); `verdict` is none while undecided, true for EJECT. -/
structure FireEntry where
  route     : Nat
  fpos      : Nat
  dur       : Nat
  claimKey  : Nat
  first     : Nat
  mask      : Nat
  claim     : Bool
  verdict   : Option Bool
  committed : Bool := false
  dflt      : Bool := false
  late      : Bool := false
  vetoed    : Bool := false
  opened    : Bool := false
  deriving DecidableEq, Repr

/-- What an output group holds beside its registers: its platform queue in order of entry, the entries retired while
a shift of its channel is under way, and its stop timer. -/
structure GroupUnit where
  entries : List FireEntry := []
  past    : List FireEntry := []
  stopDue : Option Nat := none
  deriving DecidableEq, Repr

/-- A frame that a valve-bus channel shifts or holds complete for its position (R384). -/
structure Shift where
  immediate : Bool
  dom       : Nat
  pos       : Nat
  state     : Nat
  start     : Nat
  complete  : Bool := false
  deriving DecidableEq, Repr

/-- What a valve-bus channel holds: latched positions as a number, the shift, the cycle in which an active LAT falls,
the first cycle in which a frame may start, and groups that have stopped with positions still latched. -/
structure ChanUnit where
  latched : Nat := 0
  shift   : Option Shift := none
  latEnd  : Option Nat := none
  freeAt  : Nat := 0
  leaving : List Nat := []
  deriving DecidableEq, Repr

/-- A verdict record: words A and B of Table 16-9, its mask, the T32 of its commit and its number (16 R426, 18 R453). -/
structure VerdRec where
  num  : Nat
  a    : Nat
  b    : Nat
  mask : Nat := 0
  t32  : Nat := 0
  deriving DecidableEq, Repr

/-! Field inputs and outputs (15). -/

/-- The field section and the logic side's view of it. -/
structure FieldUnit where
  /-- The link is good (R391); `lost` says that its loss has been registered. Neither holds before its first frame. -/
  link      : Bool := false
  lost      : Bool := false
  /-- Debounced levels as last received by the logic side: DI0 to DI15, the veto input, OUT_EN_N high. -/
  veto      : Bool := false
  outEnHigh : Bool := true
  /-- The veto input as the signal box takes it (R396). -/
  vetoTaken : Bool := false
  /-- Latches of the field section, one per DO (R403). -/
  latches   : Nat := 0
  /-- The drivers are off below the undervoltage threshold (R405). -/
  under     : Bool := false
  /-- The field section's logic has been reset and awaits a valid frame (R405). -/
  awaiting  : Bool := false
  /-- Pulsed inputs: consecutive samples that show another level than the debounced one, and the SCLK cycle of the latest
  sample (R395). -/
  pulsed    : List (Nat × Nat) := []
  sampled   : Option Nat := none
  /-- Debounced inputs, DI0 to DI7 and the veto as 16: the SCLK cycles of the latest change registered and of the latest write of
  DB, which restarts the count (R393). -/
  bounce    : List (Nat × (Nat × Nat)) := []
  /-- The pin OUT_EN_N as the field section takes it (R401). -/
  outPin    : Bool := true
  /-- Outputs that an overload has switched off and that have not restarted (R400). -/
  tripped   : Nat := 0
  /-- Changes of the latches in the latest 100 SCLK: the cycle of each, and the levels before it (R403). -/
  before    : List (Nat × Nat) := []
  deriving DecidableEq, Repr

/-! Sensor ports and sensor control (11). -/

/-- An entry of a pairing queue (R315, R316): a trigger's position and the cycle in which it entered. -/
structure PairEntry where
  pos    : Nat
  at_    : Nat
  missed : Bool
  deriving DecidableEq, Repr

/-- A line that is being received and will be taken: its stamp, its row in the frame, its tag vector. -/
structure CurLine where
  stamp : Nat
  row   : Nat
  tags  : Nat
  deriving DecidableEq, Repr

/-- A frame in progress: whether it is taken, its stamp, the LVAL periods seen. -/
structure CurFrame where
  taken : Bool
  stamp : Nat
  rows  : Nat
  tags  : Nat := 0
  deriving DecidableEq, Repr

/-- A part of a line as a port delivers it to its image front end: received, filled or partly filled (R314, R318). -/
structure LinePart where
  stamp  : Nat
  row    : Nat
  reason : Nat
  tags   : Nat
  pixels : List Nat
  /-- Frame index of R331. -/
  frame  : Nat := 0
  deriving DecidableEq, Repr

/-- A tracked setting (R331): class, tag, unit (true for lines), effective index. -/
structure Track where
  cls   : Nat
  tag   : Nat
  lines : Bool
  index : Nat
  deriving DecidableEq, Repr

/-- What a port and, on its lowest port, a sensor stream hold beside their registers. -/
structure PortUnit where
  queue      : List PairEntry := []
  line       : Option CurLine := none
  frame      : Option CurFrame := none
  /-- Parts delivered and not yet taken by the image front end, oldest first. -/
  fifo       : List LinePart := []
  /-- The first trigger since the stream entered RUNNING has reached the queues (R322). -/
  triggered  : Bool := false
  /-- Cycles of the latest line start and frame start (R331). -/
  lineAt     : Option Nat := none
  frameAt    : Option Nat := none
  /-- Tracked settings in order of completion, oldest first (R332). -/
  tracks     : List Track := []
  /-- Cycle in which STOPPING was entered (R322). -/
  stopAt     : Option Nat := none
  deriving DecidableEq, Repr

/-- A record in the queue of a sensor-control channel; `ctx` is the issuing context and its incarnation, none for the
dictionary. -/
structure SccRec where
  w0  : Nat
  w1  : Nat
  w2  : Nat
  w3  : Nat
  ctx : Option (Nat × Nat)
  deriving DecidableEq, Repr

/-- What a sensor-control channel holds: its queue with the running record at the head, whether that has started, and
the cycle in which it reached the head (R328, R329). -/
structure SccUnit where
  queue   : List SccRec := []
  started : Bool := false
  headAt  : Nat := 0
  startAt : Nat := 0
  deriving DecidableEq, Repr

/-! Memories (07). -/

/-- One memory level: the bytes that differ from 0, the words written poisoned (R223), and the words in which an error
that cannot be corrected stands (R222). Words are numbered from address 0 in the level's own word size. -/
structure Store where
  cells  : List Host.Cell := []
  poison : List Nat := []
  bad    : List Nat := []
  deriving DecidableEq, Repr

/-- A corrected word awaiting the drone's write-back (R221): level, word, and whether it has been written since. -/
structure Writeback where
  level : Nat
  word  : Nat
  deriving DecidableEq, Repr

/-- An allotment in a stack-memory pool (R210, R212): pool number, owner, base and size. -/
structure Allot where
  pool  : Nat
  owner : Nat
  base  : Nat
  size  : Nat
  deriving DecidableEq, Repr

/-- An entry of the model cache (R274): a job's image or a model, its version or CRC, its place, whether it has been
loaded, and the time at which its last use ended. -/
structure CacheEntry where
  img     : Bool
  id      : Nat
  version : Nat
  base    : Nat
  size    : Nat
  loaded  : Bool := false
  lastUse : Nat := 0
  deriving DecidableEq, Repr

/-- A model of the store (R273). -/
structure Model where
  id      : Nat
  version : Nat
  payload : Bytes
  signed  : Bool := false
  slot    : Option Nat := none
  deriving DecidableEq, Repr

/-! Arrays (03). -/

/-- A pass in a queue: its context and incarnation, its words, the cycle in which it entered the queue. -/
structure Pass where
  ctx : Nat
  inc : Nat
  w0  : Nat
  w1  : Nat
  w2  : Nat
  w3  : Nat
  at_ : Nat
  /-- The timetable entry that issued it. -/
  entry : Nat := 0
  deriving DecidableEq, Repr

/-- Installed or loaded weights: context and incarnation of the pass, its formats and mode, the block, and whether a
word of it was poisoned. -/
structure Weights where
  ctx   : Nat
  inc   : Nat
  fmts  : Nat
  block : Bytes
  bad   : Bool
  deriving DecidableEq, Repr

/-- What the feeder has read for one vector: the cycle in which it enters the feeder, activation bytes, MX scale bytes,
whether any of them was poisoned. -/
structure Act where
  at_    : Nat := 0
  data   : List Nat
  scales : List Nat
  bad    : Bool
  deriving DecidableEq, Repr

/-- What stage A1 has read for one vector: whether a row was invalid, and the previous entry of each column. -/
structure AccRead where
  invalid : Bool
  prev    : List Nat
  deriving DecidableEq, Repr

/-- A pass that has become current and whose results are not all visible: the entry cycle of its first vector, that of
the next vector to be read, its weights, the vectors written, the vectors read and not yet written, what A1 has read for
the first of those, and the cycle of a drain that suppresses its later writes. -/
structure Flight where
  pass : Pass
  e    : Nat
  next : Nat
  wts  : Option Weights
  done : Nat := 0
  acts : List Act := []
  a1   : Option AccRead := none
  cut  : Option Nat := none
  deriving DecidableEq, Repr

/-- An array half, or the whole array in its first half. -/
structure HalfUnit where
  queue    : List Pass := []
  flights  : List Flight := []
  /-- Vectors of the first queued pass that the feeder has read before it became current, and the feeder slots lost to
  it meanwhile (R71, R73). -/
  ahead    : List Act := []
  late     : Nat := 0
  /-- First feeder slot behind the passes that have left `flights` (R74). -/
  slotFrom : Nat := 0
  /-- The last pass boundary of those (R94). -/
  bound    : Nat := 0
  /-- Cycle in which the weight port began the load in progress; that of its next read. -/
  loadAt   : Option Nat := none
  loadNext : Nat := 0
  /-- Bytes that this load has read, and whether one was poisoned. -/
  loaded   : Bytes := []
  loadBad  : Bool := false
  /-- A complete shadow and the cycle at whose end it was complete. -/
  shadow   : Option (Weights × Nat) := none
  /-- First cycle in which the shadow is free (R77). -/
  freeAt   : Nat := 0
  active   : Option Weights := none
  /-- Poison and traps that await their registration (Table 3-10): cause, the cycle in which it arose, the pass. -/
  wounds   : List (Nat × Nat × Pass) := []
  /-- First cycle in which the half is clear of a drain (R95). -/
  clearAt  : Nat := 0
  acceptAt : Option Nat := none
  deriving DecidableEq, Repr

/-- A matrix array. -/
structure ArrUnit where
  split : Bool := false
  l     : HalfUnit := {}
  r     : HalfUnit := {}
  deriving DecidableEq, Repr

/-! The vector unit, the shunters and the top-k unit (05, 08). -/

/-- A descriptor of eight words in a unit queue: its context and incarnation, and its issue cycle. -/
structure Desc where
  ctx : Nat
  inc : Nat
  ws  : List Nat
  at_ : Nat
  /-- The timetable entry that issued it. -/
  entry : Nat := 0
  deriving DecidableEq, Repr

/-- What a step of a vector descriptor writes in one cycle: bytes of vector registers and of the tile scratchpads, with
their poison marks. -/
structure StepOut where
  at_  : Nat
  regs : List (Nat × List (Byte × Bool)) := []
  ts   : List (Nat × List (Byte × Bool)) := []
  deriving DecidableEq, Repr

/-- A descriptor whose last write has been made: the cycle in which its completion is signalled, and of a vector
descriptor whether it read poison, met an infinity or a NaN, clipped a conversion; of a shunter descriptor the bytes that
the verdict port has received. -/
structure Done where
  desc     : Desc
  at_      : Nat
  stream   : List (Byte × Bool) := []
  bad      : Bool := false
  specials : Bool := false
  clipped  : Bool := false
  deriving DecidableEq, Repr

/-- A vector unit: its queue with the descriptor in progress at the head, the cycle from which R138 counts for the
head, the steps read, the cycle of the next read with the cycles of its step that have passed, what they have read of
each source, the pieces not yet written, descriptors written whole and not yet complete, and the cycle in which a
descriptor was last accepted. -/
structure VecUnit where
  queue    : List Desc := []
  start    : Nat := 0
  reads    : Nat := 0
  next     : Nat := 0
  sub      : Nat := 0
  got      : List (List (Byte × Bool)) := []
  pend     : List StepOut := []
  finish   : List Done := []
  /-- Reduction lanes so far, and whether a poisoned operand has been read. -/
  acc      : List Nat := []
  bad      : Bool := false
  /-- Arithmetic events of the descriptor so far (R121, R123). -/
  specials : Bool := false
  clipped  : Nat := 0
  acceptAt : Option Nat := none
  deriving DecidableEq, Repr

/-- A shunter: its queue, whether the head has begun and the cycle from which R142 counts for it, the cycles lost to
refusals, the 64-byte parts written, the parts read and not yet written with the cycles of their writes, the indices read
for the runs from that of the next part written on, the cycle in which an index was found astray, the bytes of a walk to
a port with their poison marks, the writes that external memory has taken with the cycles in which they become visible,
and descriptors written whole and not yet complete. -/
structure ShuntUnit where
  queue    : List Desc := []
  begun    : Bool := false
  start    : Nat := 0
  slip     : Nat := 0
  parts    : Nat := 0
  held     : List (Nat × List (Byte × Bool)) := []
  sent     : List (Nat × (Nat × List (Byte × Bool))) := []
  finish   : List Done := []
  idx      : List Nat := []
  /-- Runs whose index word was poisoned. -/
  tainted  : List Nat := []
  stray    : Option Nat := none
  stream   : List (Byte × Bool) := []
  acceptAt : Option Nat := none
  deriving DecidableEq, Repr

/-- A top-k command: its context and incarnation, its record, the cycle in which its record arrived whole. -/
structure TopkCmd where
  ctx : Nat
  inc : Nat
  rec_ : Bytes
  at_ : Nat
  deriving DecidableEq, Repr

/-- What a top-k unit has made of a candidate row: skipped as void, discarded, or its key, ID and poison mark for each
query. -/
inductive TopkSeen where
  | void
  | discarded
  | row (keys : List (Int × Nat × Bool))
  deriving DecidableEq, Repr

/-- A top-k unit: queued commands, the running one at the head with the cycle in which it started, and the cycle of the
latest last write; of the running one, the old lists and the rows read so far, the bytes not yet written and the write
cycles that have passed. -/
structure TopkUnit where
  queue   : List TopkCmd := []
  started : Option Nat := none
  freeAt  : Nat := 0
  old     : List (Byte × Bool) := []
  seen    : List TopkSeen := []
  out     : List (Byte × Bool) := []
  wrote   : Nat := 0
  deriving DecidableEq, Repr

/-! Arbitration (07). -/

/-- A unit that asks for a memory (07 Table 7-2, R201, R204): the feeder and the weight port of a half of an array, the
vector unit and the top-k unit of a core, a shunter's index, read and write, the arrivals from a shunter of another core,
the staging transfer of a core. -/
inductive Requester where
  | feeder (n h : Nat)
  | weights (n h : Nat)
  | vecRead (c : Nat)
  | vecWrite (c : Nat)
  | topRead (c : Nat)
  | topWrite (c : Nat)
  | table (c : Nat)
  | index (c n : Nat)
  | shuntRead (c n : Nat)
  | gather (c n : Nat)
  | shuntWrite (c n : Nat)
  | arrival (c n : Nat)
  | staging (c : Nat)
  deriving DecidableEq, Repr

/-- A remote write on its way (R150, R194): the cycle of its arrival and that in which it asks next, the shunter that sent
it, the link it arrives by, the lane and the address it goes to. -/
structure Arrival where
  came : Nat
  due  : Nat
  core : Nat
  shn  : Nat
  link : Nat
  ctx  : Nat
  addr : Nat
  data : List (Byte × Bool)
  deriving DecidableEq, Repr

/-- A step table on its way to a context's tile scratchpads (09 R280): what is still to be written, from which address, the
cycle of the next write. -/
structure TableWrite where
  core : Nat
  ctx  : Nat
  inc  : Nat
  addr : Nat
  data : Bytes
  due  : Nat
  deriving DecidableEq, Repr

/-- What a context that has been torn down still occupies until its last descriptor stops (09 R269): slot, windows, and the
cycle from which they are free. -/
structure Ghost where
  core    : Nat
  slot    : Nat
  tsBase  : Nat
  tsRows  : Nat
  accBase : Nat
  accRows : Nat
  until_  : Nat
  deriving DecidableEq, Repr

/-! Contexts and the scheduler (05, 09). -/

/-- A semaphore. -/
structure Sem where
  count : Nat := 0
  stamp : Nat := 0
  deriving DecidableEq, Repr

/-- Where a context lives (09). -/
inductive Place where
  | inPlace
  | staged
  | siding
  deriving DecidableEq, Repr

/-- The moves of Table 9-3. -/
inductive Move where
  | unload
  | load
  | save
  | restore
  deriving DecidableEq, Repr

/-- What an entry that is issued and not complete waits for, as Pending of Table 9-5 names it. -/
inductive Waiting where
  | none
  | wait
  | credit
  | yield
  deriving DecidableEq, Repr

/-- A context of a RUNNING or STOPPING job. Cycles are CCLK. -/
structure Ctx where
  core    : Nat
  /-- Counts the starts of this lane, so that a descriptor knows whether its context still is the same. -/
  inc     : Nat := 0
  slot    : Option Nat := none
  place   : Place := .siding
  /-- The move in progress and the cycle in which it began. -/
  move    : Option (Move × Nat) := none
  /-- Transfers of 512 bytes that the move has made, and the first cycle of the next one (R253). -/
  moved   : Nat := 0
  moveNext : Nat := 0
  /-- It holds a running position. -/
  pos     : Bool := false
  /-- It has run, and the cycle in which it last left a running position. -/
  leftAt  : Nat := 0
  /-- Cycles in which it became resident and in which it became blocked. -/
  residentAt : Nat := 0
  blockedAt  : Nat := 0
  entry   : Nat := 0
  /-- Completion cycle of the previous entry executed, and the due cycle that a resumption sets instead. -/
  ref     : Nat := 0
  dueAt   : Option Nat := none
  loops   : List (Nat × Nat) := []
  sems    : List (Nat × Sem) := []
  draws   : Nat := 0
  vregs   : List Host.Cell := []
  /-- Units of two bytes of the vector registers that hold poisoned data (07 R224). -/
  vbad    : List Nat := []
  luts    : List Host.Cell := []
  /-- Words of the lookup tables, four bytes each, that hold poisoned data. -/
  lbad    : List Nat := []
  tsBase  : Nat := 0
  tsRows  : Nat := 0
  accBase : Nat := 0
  accRows : Nat := 0
  /-- The entry at `entry` is issued or cancelled and not complete. -/
  waiting : Waiting := .none
  cancelled : Bool := false
  /-- Word 0 of the wait or acquisition, and the cycle in which it was issued. -/
  word    : Nat := 0
  issuedAt : Nat := 0
  /-- It has left its running position for a move or a pre-emption, with DUE of R258. -/
  away    : Bool := false
  dueLeft : Nat := 0
  /-- Due cycle of the timer of the wait or acquisition, and the cycle in which a cancelled wait was satisfied. -/
  timer   : Option Nat := none
  satAt   : Option Nat := none
  /-- Credits held: by link and direction. -/
  credits : List (Nat × Nat) := []
  /-- Shared semaphores held: the amount consumed and not signalled back. -/
  held    : List (Nat × Nat) := []
  /-- Hold timer (R268) and whether it has expired with nothing pending. -/
  holdDue : Option Nat := none
  overrun : Bool := false
  /-- Descriptors issued and not complete. -/
  work    : Nat := 0
  /-- Cycle in which the last of them completed. -/
  quietAt : Nat := 0
  /-- Pending record (R256): per semaphore the amount and the stamp of the last signal that carried one. -/
  record  : List (Nat × (Nat × Option Nat)) := []
  /-- Marked for pre-emption: the cycle in which the grace reaches zero (R266, R267). -/
  graceAt : Option Nat := none
  forced  : Bool := false
  /-- Chosen to leave its slot once it holds nothing (R264): the eviction's target and its cycle. -/
  evicted : Option (Nat × Nat) := none
  /-- The cycle of the eviction that makes room for it, until it is in place (2570h.07). -/
  swapFrom : Option Nat := none
  saves   : Nat := 0
  halted  : Bool := false
  /-- A position may be granted for one entry although the context is halted (19, DBGCTRL). -/
  stepOne : Bool := false
  deriving DecidableEq, Repr

/-- A move begins in cycle `c`. -/
def Ctx.startMove (x : Ctx) (m : Move) (c : Nat) : Ctx := { x with move := some (m, c), moved := 0, moveNext := 0 }

/-- An operation on its way to the semaphore hub, or an outcome on its way back (R144). -/
inductive HubAct where
  | add (amount : Nat)
  | set (value : Nat)
  | test
  | outcome
  deriving DecidableEq, Repr

/-- An operation of the hub: its cycle, its partition and semaphore, its context and incarnation. -/
structure HubOp where
  due  : Nat
  part : Nat
  sem  : Nat
  ctx  : Nat
  inc  : Nat
  act  : HubAct
  deriving DecidableEq, Repr

/-- A signal on its way to another lane (R147). -/
structure LaneSig where
  due    : Nat
  ctx    : Nat
  sem    : Nat
  amount : Nat
  deriving DecidableEq, Repr

/-- What a partition holds: the cycle in which its first job entered RUNNING, the cycle of its last boundary, the
advances counted since (R261). -/
structure PartUnit where
  origin : Option Nat := none
  lastAt : Nat := 0
  counts : Nat := 0
  due    : Nat := 0
  deriving DecidableEq, Repr

/-- A sequence of a job's batch (R277 to R280). -/
structure Seq where
  state   : Nat := 0
  late    : Bool := false
  num     : Nat := 0
  pos     : Nat := 0
  claimKey : Nat := 0
  payload : Bytes := []
  leave   : Bool := false
  deriving DecidableEq, Repr

/-- A pending join. -/
structure Join where
  pos      : Nat
  claimKey : Nat
  payload  : Bytes
  late     : Bool := false
  deriving DecidableEq, Repr

/-- What a job holds beside its registers: its contexts' cores while it runs, the lanes that have ended and the lanes
that wait to start again, whether it waits for the model cache, its published deadline, its batch. -/
structure JobUnit where
  cores    : List Nat := []
  ended    : List Nat := []
  restarts : List Nat := []
  loading  : Bool := false
  /-- Cycle and lane of the latest deadline publication (R153). -/
  pubAt    : Option (Nat × Nat) := none
  /-- The job has been ordered to stop, or has faulted: its contexts leave (R272). -/
  leaving  : Bool := false
  seqs     : List (Nat × Seq) := []
  joins    : List Join := []
  lastStep : Option Nat := none
  dropped  : Nat := 0
  deriving DecidableEq, Repr

/-! Reference banks (08). -/

/-- The hot allotment of a bank is in `allots`; its areas in external memory stand in its registers. `ready` is none
while ABSENT; while a CREATE has not completed, its cycle and the places of its entry area and word table. -/
structure BankUnit where
  creating : Option (Nat × Nat × Nat) := none
  /-- Entries whose words have been rewritten in a half of the word table that is still poisoned (R236). -/
  renewed  : List Nat := []
  deriving DecidableEq, Repr

/-! The image front end (12). -/

/-- A line inside the chain: per part its pixels with poison marks, its reason, and whether a raw code was clipped or a
listed pixel kept its own value; with the stamp, row, tags and frame of its header. -/
structure IfeLine where
  parts   : List (List (Nat × Bool))
  reasons : List Nat
  clips   : List Bool
  defects : List Bool
  stamp   : Nat
  row     : Nat
  tags    : Nat
  frame   : Nat
  deriving DecidableEq, Repr

/-- Statistics of a block so far (R348): clipped pixels, pixels and histogram bins by channel. -/
structure StatRec where
  clip : List Nat := [0, 0, 0, 0]
  px   : List Nat := [0, 0, 0, 0]
  hist : List (Nat × Nat) := []
  deriving DecidableEq, Repr

/-- The image front end of a stream: whether its flat-field table is being copied, lines entered and lines written,
frames begun, the lines held for alignment (newest first), the rows of the frame in the mosaic stage, statistics of open
blocks, blocks completed and not yet signalled by their group, and the block left incomplete by the last stop. -/
structure IfeUnit where
  copying : Bool := false
  entered : Nat := 0
  written : Nat := 0
  frames  : Nat := 0
  hist    : List IfeLine := []
  rows    : List IfeLine := []
  stats   : List (Nat × StatRec) := []
  finished : List Nat := []
  broken  : Option Nat := none
  deriving DecidableEq, Repr

/-! Sample intake (13). -/

/-- An accepted sample: its header, its data, the outcome of the check of R357, and where it stands. `done` holds status,
flags and cycles once it is decoded or replaced. -/
structure Sample where
  index   : Nat
  header  : Bytes
  data    : Bytes
  verdict : Nat
  width   : Nat
  height  : Nat
  /-- Dispatched to an engine, and the crops bound to it. -/
  sent    : Bool := false
  crops   : List (Int × Int) := []
  roiLate : Bool := false
  done    : Option (Nat × Nat × Nat) := none
  deriving DecidableEq, Repr

/-- An intake stream: accepted samples not yet committed, oldest first; variants of the oldest that are committed; slots
committed and occupied; region-of-interest records bound ahead; the crops of the last bound record; the ROI timer. -/
structure IntakeUnit where
  samples  : List Sample := []
  variants : Nat := 0
  commits  : Nat := 0
  occupied : Nat := 0
  rois     : List (Nat × List (Int × Int)) := []
  lastRoi  : List (Int × Int) := []
  roiDue   : Option Nat := none
  deriving DecidableEq, Repr

/-- A decode engine: stream, index of its sample, the cycle of its start. -/
structure Engine where
  stream : Nat
  index  : Nat
  start  : Nat
  deriving DecidableEq, Repr

/-! Network ports (18). -/

/-- A received message, under reassembly or complete (R448): its key, its sequence and length, the bytes received by
offset, and the SCLK cycle in which its timer reaches zero. -/
structure InMsg where
  addr  : Nat
  udp   : Nat
  cls   : Nat
  stream : Nat
  seq   : Nat
  total : Nat
  stamp : Nat := 0
  got   : List Host.Cell := []
  due   : Nat := 0
  deriving DecidableEq, Repr

/-- A message to be sent: class, stream, sequence, stamp, destination, data, and the bytes sent. -/
structure OutMsg where
  cls    : Nat
  stream : Nat
  seq    : Nat
  stamp  : Nat
  addr   : Nat
  udp    : Nat
  data   : Bytes
  sent   : Nat := 0
  deriving DecidableEq, Repr

/-- What a segment in transmission belongs to (R452). -/
inductive TxKind where
  | ptp
  | notice
  | verdict
  | result
  deriving DecidableEq, Repr

/-- A network port: messages under reassembly in the order in which they were opened, complete messages in the order of
completion; PTP messages, notices, the VERDICT message and RESULT messages to be sent, and the segment in transmission;
sequences by class and stream; the ARP cache (address, with hardware address and the cycle of its expiry) and addresses
asked for; the cycle to which a received PAUSE holds transmission and the one of the next repeat of a sent PAUSE; the
cycle in which bring-up begins, and the one of its retry; messages written to the inbox. -/
structure NetUnit where
  opens   : List InMsg := []
  ready   : List InMsg := []
  ptpOut  : Nat := 0
  notices : List OutMsg := []
  verdict : Option OutMsg := none
  results : List OutMsg := []
  tx      : Option TxKind := none
  seqs    : List (Nat × Nat) := []
  arp     : List (Nat × (Nat × Nat)) := []
  asked   : List Nat := []
  paused  : Option Nat := none
  pauseAt : Option Nat := none
  train   : Option Nat := none
  retry   : Option Nat := none
  inbox   : Nat := 0
  deriving DecidableEq, Repr

/-- T32 in units of 2^-31 ns at SCLK cycle `t32At`; from there it advances by 2^32 + RATE units a cycle (R458). The latest
corrected stamps of messages received and sent, in 2^-16 ps (R461). -/
structure PtpUnit where
  t32   : Nat := 0
  t32At : Nat := 0
  rxStamp : Int := 0
  txStamp : Int := 0
  /-- KP and KI before the writes of an SCLK cycle, with that cycle (R462). -/
  gains : Option (Nat × Nat × Nat) := none
  deriving DecidableEq, Repr

/-! Power, security and debug (19, 20, 21). -/

/-- How far the module is up: reachable; reset and held until its reset source ends; STANDBY; OFF. -/
inductive Stage where
  | up
  | held
  | standby
  | off
  deriving DecidableEq, Repr

/-- What Jatuwick holds of power: the stage, whether the main supply is in range, the reset source that holds the module,
a reset command waiting with the tick of its effect, the target of the transition in progress, whether a thermal trip has
not cooled, a wake held until then or until the entry into STANDBY ends, whether the first rise of the main supply is
awaited, the tick at which the present bring-up began, recovery. -/
structure PowerUnit where
  stage    : Stage := .up
  main     : Bool := true
  /-- The power state while up: 0 RUN, 1 QUIET, 2 SLEEP. -/
  state    : Nat := 0
  holder   : Nat := 0
  resetDue : Option (Nat × Nat) := none
  target   : Option Nat := none
  hot      : Bool := false
  wake     : Option Nat := none
  first    : Bool := false
  began    : Option Nat := some 0
  recovery : Bool := false
  /-- Input power of the last 100 ms, newest first, in 0.1 W. -/
  powers   : List Nat := []
  deriving DecidableEq, Repr

/-- Limiting demands (21 R500): of each core, die-wide and of power, and the CCLK cycle to which removed frames have been
counted, with the cycles that the CCLK count has lost, and to which the units have stood still for them (10 R287). -/
structure LimitUnit where
  cores : List (Nat × Nat) := []
  die   : Nat := 0
  power : Nat := 0
  upto  : Nat := 0
  lost  : Nat := 0
  frozen : Nat := 0
  deriving DecidableEq, Repr

/-- Fuses (19 R472): lifecycle code, digests of owner keys by slot 1 to 4, slots whose revocation fuse is blown. -/
structure Fuses where
  lifecycle : Nat := 0
  owner     : List (Nat × Bytes) := []
  revoked   : List Nat := []
  deriving DecidableEq, Repr

/-- Jatuwick's flash (19 R472): content keys by slot, minimum versions of OZJ and OZM containers and a raised one of
firmware, the active bank, versions written to banks, whether the inactive bank is newly written, whether the content
keys are usable. -/
structure Flash where
  content  : List (Nat × Bytes) := []
  minOzj   : Nat := 0
  minOzm   : Nat := 0
  minFw    : Option Nat := none
  bank     : Nat := 0
  versions : List (Nat × Nat) := []
  fresh    : Bool := false
  usable   : Bool := true
  deriving DecidableEq, Repr

/-- Debug: the instruction selected, the level of the token accepted since the challenge was renewed, the number of
renewals, whether protected words were erased. -/
structure TapUnit where
  instr   : Nat := 1
  token   : Nat := 0
  renewed : Nat := 0
  erased  : Bool := false
  /-- Outputs held by EXTEST, CLAMP or HIGHZ, as the code that drives them. -/
  holds   : Option Nat := none
  /-- Data register captured last. -/
  data    : Nat := 0
  deriving DecidableEq, Repr

/-- Where a stored container came from: it was signed, and the content-key slot it was encrypted under. -/
structure Origin where
  signed : Bool := false
  slot   : Option Nat := none
  deriving DecidableEq, Repr

/-! The barrier (10). -/

/-- The barrier: whether it is armed and since which beat, the beat at which it was registered, the beat at which its timer
reaches zero (none without a timeout), and whether the leader has driven MSYNC low for it. -/
structure BarrierUnit where
  armed  : Bool := false
  since  : Nat := 0
  /-- The functions that ARM found in the masks. -/
  fns    : List Nat := []
  at_    : Option Nat := none
  due    : Option Nat := none
  drive  : Bool := false
  deriving DecidableEq, Repr

/-! The host port (17). -/

/-- The response held: status, sequence, index, subindex, abort code, size, data, and whether it has been read. -/
structure HspResp where
  pstat : Nat
  seq   : Nat
  index : Nat := 0
  sub   : Nat := 0
  abort : Nat := 0
  size  : Nat := 0
  data  : Bytes := []
  read  : Bool := false
  deriving DecidableEq, Repr

/-- The open transfer: download or upload, entry, complete access, bytes in all, the bytes so far (or the value taken),
the offset of the next segment, and the SCLK cycle in which its timer reaches zero. -/
structure Transfer where
  down  : Bool
  index : Nat
  sub   : Nat
  ca    : Bool
  size  : Nat
  data  : Bytes
  off   : Nat := 0
  due   : Nat := 0
  deriving DecidableEq, Repr

/-- What a command in progress waits for before its response. -/
inductive Await where
  | ready
  | fn (f : Nat)
  | set (fs : List Nat)
  | power
  deriving DecidableEq, Repr

/-- The host port: sticky status bits, the last sequence acted on, a request in progress with what it waits for and its
response, the response held, the open transfer, whether a transfer has been closed by its timeout, and attention: the
SCLK cycle of the pulse in progress, and of the latest one since the last transaction with the records queued then. What
the last READ, STATUS or EVENT returned is kept as the pins' output. -/
structure HspUnit where
  busyw : Bool := false
  frerr : Bool := false
  tmo   : Bool := false
  rst   : Bool := true
  seq   : Nat := 0
  busy  : Option (Await × HspResp) := none
  resp  : Option HspResp := none
  xfer  : Option Transfer := none
  timed : Bool := false
  pulse : Option Nat := none
  last  : Option Nat := none
  seen  : Nat := 0
  out   : Bytes := []
  deriving DecidableEq, Repr

/-- A START that has passed and waits for copies (12 R349, 09 R275): the functions that enter together, and whether a set
command started them. -/
structure Launch where
  fns : List Nat
  set : Bool
  deriving DecidableEq, Repr

/-- An EtherCAT write that a host-port write may contend with (16 R418): its SCLK cycle, its index, the functions that it
commands, the functions that own its entry. -/
structure EcWrite where
  at_    : Nat
  index  : Nat
  fns    : List Nat
  owners : List Nat
  deriving DecidableEq, Repr

/-! EtherCAT (16). -/

/-- A download opened by an EtherCAT initiate request. -/
structure SdoDown where
  index  : Nat
  sub    : Nat
  ca     : Bool
  size   : Option Nat
  data   : Bytes := []
  toggle : Bool := false
  due    : Nat := 0
  deriving DecidableEq, Repr

/-- The EtherCAT SubDevice: AL state code and status code; the snapshot's values by dictionary key, the number of its first
record and how many it took, and the same of the snapshot before; the sequence numbers last taken of forced ejects and of
the command slot; the open download; the SCLK cycles of the last frame start, of the last SYNC0 and of the last snapshot,
whether that SYNC0's snapshot is still to come; the abort code of the last SDO exchange, and the emergency sent last. -/
structure EcUnit where
  al       : Nat := 1
  code     : Nat := 0
  image    : List (Nat × Nat) := []
  first    : Nat := 0
  taken    : Nat := 0
  prev     : Nat × Nat := (0, 0)
  seqs     : List (Nat × Nat) := []
  cmdSeq   : Nat := 0
  down     : Option SdoDown := none
  frameAt  : Option Nat := none
  syncAt   : Option Nat := none
  snapAt   : Nat := 0
  awaited  : Bool := false
  abort    : Nat := 0
  sent     : Bytes := []
  /-- Writes of the present SCLK cycle, and those since the open download of the host port began. -/
  wrote    : List EcWrite := []
  deriving DecidableEq, Repr

/-- The module. -/
structure State where
  /-- Ticks of 1/6 ns since the model's time 0. -/
  time      : Nat := 0
  /-- Grade numeral (00 R8): set at manufacture, never written. -/
  grade     : Nat := 7360
  /-- Commands waiting, first in, first out. -/
  pending   : List Instr := []
  /-- Effects of later cycles, in the order in which they are carried out. -/
  later     : List Later := []
  /-- Every register of the object dictionary that differs from its reset value, by key. -/
  regs      : List (Nat × Nat) := []
  /-- Every DOMAIN value written, by key. -/
  doms      : List (Nat × Bytes) := []
  /-- The model's own counter of free values taken. -/
  freeCount : Nat := 0
  holdoffs  : List (Nat × Holdoff) := []
  /-- Event queue of the host port and emergency queue, oldest first (17 R437, 20 R494). -/
  events      : List EvRec := []
  emergencies : List EvRec := []
  encs      : List (Nat × EncUnit) := []
  domains   : List (Nat × DomUnit) := []
  trigs     : List (Nat × TrigUnit) := []
  wins      : List (Nat × WinUnit) := []
  timers    : List (Nat × TimerUnit) := []
  cmps      : List (Nat × CmpUnit) := []
  /-- SCLK cycle of the last refresh of the slack (02 R68). -/
  slackAt   : Option Nat := none
  groups    : List (Nat × GroupUnit) := []
  chans     : List (Nat × ChanUnit) := []
  /-- Verdict queue of process data and its next number (16 R426). -/
  pdQueue   : List VerdRec := []
  pdNext    : Nat := 0
  /-- Veto bits of process data in force (14 R381, 16 R427). -/
  pdVeto    : Nat := 0
  /-- Verdict queues of NET0 and NET1 and their next numbers (18 R453). -/
  netQueue  : List (Nat × List VerdRec) := []
  netNext   : List (Nat × Nat) := []
  field     : FieldUnit := {}
  ports     : List (Nat × PortUnit) := []
  sccs      : List (Nat × SccUnit) := []
  nets      : List (Nat × NetUnit) := []
  ptp       : PtpUnit := {}
  /-- The memories (07): tile scratchpads, accumulator stores, stack memory, external memory. -/
  ts        : Store := {}
  acc       : Store := {}
  stack     : Store := {}
  ext       : Store := {}
  /-- Rows of the accumulator column halves whose valid flag is set (R89). -/
  valid     : List Nat := []
  /-- Corrected words that the drone has to write back, and the drone's place in each memory. -/
  writebacks : List Writeback := []
  walkers   : List (Nat × Nat) := []
  allots    : List Allot := []
  cache     : List CacheEntry := []
  /-- The model store (R273): job images by job, and models in the order of their arrival. -/
  images    : List (Nat × Bytes) := []
  models    : List Model := []
  /-- Models that carry a pin mark (R276). -/
  pins      : List Nat := []
  /-- External regions of jobs: base and size by job. -/
  regions   : List (Nat × (Nat × Nat)) := []
  arrays    : List (Nat × ArrUnit) := []
  vectors   : List (Nat × VecUnit) := []
  shunters  : List (Nat × ShuntUnit) := []
  topks     : List (Nat × TopkUnit) := []
  /-- Consecutive refusals of the units that have been refused (R194, R201). -/
  refusals  : List (Requester × Nat) := []
  /-- The latest cycle in which a memory port was taken, and the ports taken in it. -/
  taken     : Nat × List Nat := (0, [])
  arrivals  : List Arrival := []
  /-- Reserved slots of external memory: by core and channel, the count after the last slot taken (10 R290). -/
  slots     : List (Nat × Nat) := []
  /-- External transactions in reserved slots: whose they are and the cycle in which each completes. -/
  extBusy   : List (Nat × Nat) := []
  /-- A descriptor of open latency has used external memory since 2500h.3Fh was last read. -/
  extOpen   : Bool := false
  tables    : List TableWrite := []
  ctxs      : List (Nat × Ctx) := []
  ghosts    : List Ghost := []
  /-- By core: the targets of the latest slice boundary, and how many positions given up since wait for them (09 R263). -/
  tgts      : List (Nat × List Nat) := []
  kept      : List (Nat × Nat) := []
  /-- Starts of each lane so far. -/
  incs      : List (Nat × Nat) := []
  jobs      : List (Nat × JobUnit) := []
  parts     : List (Nat × PartUnit) := []
  hub       : List (Nat × Sem) := []
  hubOps    : List HubOp := []
  /-- Waits registered in the hub whose test has not succeeded: contexts. -/
  hubWaits  : List Nat := []
  laneSigs  : List LaneSig := []
  /-- Credits taken, by link and direction. -/
  linkUse   : List (Nat × Nat) := []
  banks     : List (Nat × BankUnit) := []
  ifes      : List (Nat × IfeUnit) := []
  intakes   : List (Nat × IntakeUnit) := []
  engines   : List (Nat × Engine) := []
  /-- Stream that the decoder unit served last (R359). -/
  lastIntake : Nat := 15
  /-- Bytes that do not yet make a whole KB, by the register that counts KB. -/
  kbRest    : List (Nat × Nat) := []
  /-- CCLK and SCLK cycles at which the counts of R284 were last 0. -/
  alignC    : Nat := 0
  alignS    : Nat := 0
  power     : PowerUnit := {}
  limits    : LimitUnit := {}
  fuses     : Fuses := {}
  flash     : Flash := {}
  tap       : TapUnit := {}
  /-- Origins of stored job images. -/
  imgFrom   : List (Nat × Origin) := []
  barrier   : BarrierUnit := {}
  hsp       : HspUnit := {}
  ec        : EcUnit := {}
  launches  : List Launch := []
  /-- Sticky EVOVF of the host port's status word (17 Table 17-5). -/
  evOverflow : Bool := false
  deriving DecidableEq, Repr

/-- The reset record (20 Table 20-5, TYPE 08h) of a power-on. -/
def resetRec : EvRec := { type := 8, what := 0 }

/-- The module at the completion of step 8 of the power-on sequence (20 R483, R488): every object at its Reset value,
every function OFF, memories zero, AL state INIT, the reset record queued for both routes. Its grade is OZ-7360 (log 1),
its fuses are as manufactured (log 2). -/
def State.reset : State := { events := [resetRec], emergencies := [resetRec] }

end Sys2Proof.Machine
end

