-- ==== Sys2Proof/Machine/Ops.lean ====
section
/-! DEFINITION. The operations over the state that every unit shares: time, registers, DOMAIN values, function states,
free values, and the counting and reporting of events (20 R489 to R494). -/
namespace Sys2Proof.Machine

/-- The module at another instant. -/
def State.atTime (s : State) (t : Nat) : State := { s with time := t }

/-- The SCLK cycle of the present instant, 12 ticks each (00 R13). -/
def State.sclk (s : State) : Nat := s.time / 12

/-- The CCLK cycle of the present instant, 5 ticks each. -/
def State.cclk (s : State) : Nat := s.time / 5

/-- `n` µs in SCLK (02 R509). -/
def micros (n : Nat) : Nat := 500 * n

/-- The dictionary and the units are reachable: the sequence has completed and Jatuwick is not in recovery. -/
def State.up (s : State) : Bool := s.power.stage == .up && !s.power.recovery

/-! What a command may reach. -/

/-- No command changes the grade or the queue, and none but the lifecycle commands changes a fuse (00 R8, 19 R472,
20 R488): `t` with those of `s`. -/
def State.sealed (s t : State) : State := { t with grade := s.grade, pending := s.pending, fuses := s.fuses }

/-- What a command of a unit leaves: its effect `t` while the module is up, and nothing otherwise. -/
def State.live (s t : State) : State := if s.up then s.sealed t else s

/-- What a command of the field section leaves, which is powered from the field supply in every stage (19 R464). -/
def State.fieldLive (s t : State) : State := if s.up then s.sealed t else { s with field := t.field }

/-- Fuses are only ever blown: what `a` has stays, and what `b` adds is added (19 R472, R473). -/
def Fuses.blow (a b : Fuses) : Fuses :=
  { lifecycle := max a.lifecycle b.lifecycle
    owner := b.owner.foldl (fun t x => if (tfind t x.1).isSome then t else tput t x.1 x.2) a.owner
    revoked := b.revoked.foldl addKey a.revoked }

/-- The dictionary answers a route: in recovery the host port alone is served (19 R472). -/
def State.served (s : State) (r : Route) : Bool := s.power.stage == .up && (!s.power.recovery || r == .hostPort)

/-- What a command through a route leaves, which may be a lifecycle command and blow fuses. -/
def State.routed (s : State) (r : Route) (t : State) : State :=
  if s.served r then { t with grade := s.grade, pending := s.pending, fuses := s.fuses.blow t.fuses } else s

/-! Effects of later cycles. -/

/-- Order of carrying out: by instant, the opening of a cycle before the close of one that ends in that tick, by rank. -/
def Later.order (l : Later) : Nat := (2 * l.tick + b2n l.close) * 4096 + l.rank

/-- Insert an effect behind those that come before it or with it. -/
def putLater (l : Later) : List Later → List Later
  | [] => [l]
  | x :: xs => if l.order < x.order then l :: x :: xs else x :: putLater l xs

/-- An effect is to be carried out. -/
def State.defer (s : State) (l : Later) : State := { s with later := putLater l s.later }

/-- `a` is carried out as SCLK cycle `c` opens. -/
def State.opens (s : State) (c : Nat) (a : Effect) : State := s.defer { tick := 12 * c, close := false, rank := 0, act := a }

/-- `a` is carried out as SCLK cycle `c` closes. -/
def State.closes (s : State) (c rank : Nat) (a : Effect) : State :=
  s.defer { tick := 12 * c + 11, close := true, rank := rank, act := a }

/-- `a` is carried out as CCLK cycle `c` opens. -/
def State.opensC (s : State) (c rank : Nat) (a : Effect) : State :=
  s.defer { tick := 5 * c, close := false, rank := rank, act := a }

/-- `a` is carried out as CCLK cycle `c` closes, before events of the SCLK cycle that ends in that tick. -/
def State.closesC (s : State) (c rank : Nat) (a : Effect) : State :=
  s.defer { tick := 5 * c + 4, close := true, rank := rank, act := a }

/-- An event is registered in SCLK cycle `c`: its consumers take it as the cycle closes, with the events of that cycle in
ascending order of their source numbers (02 R53). -/
def State.raiseAt (s : State) (src c : Nat) (late : Bool := false) : State :=
  if src = 0x3FF then s else s.closes c (16 + src) (.source src late)

/-- An event is registered now. -/
def State.raise (s : State) (src : Nat) : State := s.raiseAt src s.sclk

/-! Registers. -/

/-- The value of a register. -/
def State.reg (s : State) (k : Nat) : Nat := tget resetVal s.regs k

/-- Give a register a value, cut to its width. -/
def State.setReg (s : State) (k v : Nat) : State :=
  { s with regs := tset resetVal s.regs k (v % 2 ^ widthOf k) }

/-- Add to a counter, saturating (20 R490). -/
def State.addReg (s : State) (k n : Nat) : State := s.setReg k (satAdd (widthOf k) (s.reg k) n)

/-- Add to a count that wraps. -/
def State.incReg (s : State) (k : Nat) : State := s.setReg k (s.reg k + 1)

/-- Replace a field of a register. -/
def State.setField (s : State) (k hi lo v : Nat) : State := s.setReg k (withBits (s.reg k) hi lo v)

/-- Replace a bit of a register. -/
def State.setBit (s : State) (k i : Nat) (b : Bool) : State := s.setReg k (withBit (s.reg k) i b)

/-- A field of a register. -/
def State.field' (s : State) (k hi lo : Nat) : Nat := bits (s.reg k) hi lo

/-- A bit of a register. -/
def State.bit' (s : State) (k i : Nat) : Bool := bit (s.reg k) i

/-- Take a register's value and clear it, in one step (RC of 00 R16). -/
def State.readClear (s : State) (k : Nat) : Nat × State := (s.reg k, s.setReg k 0)

/-- The knots of a table that has not been written: knot i is min(64 i, 65535), two bytes (12 R335). -/
def resetKnots : Bytes := (List.range 1025).flatMap (fun i => leBytes 2 (min (64 * i) 65535))

/-- What a DOMAIN value reads as before it is written. -/
def domReset (k : Nat) : Bytes :=
  let ix := k / 256
  let sub := k % 256
  if within ix 0x2300 0x2323 then
    if sub = 5 then List.replicate 32 0
    else if sub = 6 ∨ sub = 7 then resetKnots
    else []
  else if within ix 0x2A00 0x2A0F && sub == 0x0F then 1 :: List.replicate 55 0
  else []

/-- A DOMAIN value. -/
def State.dom (s : State) (k : Nat) : Bytes := tget domReset s.doms k

/-- Write a DOMAIN value whole. -/
def State.setDom (s : State) (k : Nat) (v : Bytes) : State := { s with doms := tset domReset s.doms k v }

/-- A fresh free value below `m`, and the state that has taken it. -/
def State.fresh (s : State) (m : Nat) : Nat × State :=
  (Config.freeValue s.freeCount % m, { s with freeCount := s.freeCount + 1 })

/-! Function states (16 Table 16-3). -/

/-- The states of a function. -/
inductive FnState where
  | off
  | stopped
  | running
  | stopping
  | faulted
  deriving DecidableEq, Repr

/-- The code of a function state. -/
def FnState.code : FnState → Nat
  | .off => 0
  | .stopped => 1
  | .running => 2
  | .stopping => 3
  | .faulted => 4

/-- The function state of a code. -/
def fnStateOf (v : Nat) : FnState :=
  match v with
  | 1 => .stopped
  | 2 => .running
  | 3 => .stopping
  | 4 => .faulted
  | _ => .off

/-- The state of function `f` of 2020h. -/
def State.fn (s : State) (f : Nat) : FnState := fnStateOf (bits (s.reg (key 0x2020 f)) 2 0)

/-- Function `f` is RUNNING. -/
def State.running (s : State) (f : Nat) : Bool := s.fn f == .running

/-- Function `f` is RUNNING or STOPPING. -/
def State.active (s : State) (f : Nat) : Bool := s.fn f == .running || s.fn f == .stopping

/-- Function `f` is STOPPED or OFF. -/
def State.idle (s : State) (f : Nat) : Bool := s.fn f == .stopped || s.fn f == .off

/-- Move function `f` to a state; PEND and OWNER stay. -/
def State.setFn (s : State) (f : Nat) (x : FnState) : State := s.setField (key 0x2020 f) 2 0 x.code

/-- OWNER of a function: 0 unclaimed, 1 EtherCAT, 2 host port (16 R416). -/
def State.owner (s : State) (f : Nat) : Nat := s.field' (key 0x2020 f) 5 4

/-- PEND of a function: a command to it is in progress (16 R411). -/
def State.pend (s : State) (f : Nat) : Bool := s.bit' (key 0x2020 f) 6

/-- Set or clear PEND. -/
def State.setPend (s : State) (f : Nat) (b : Bool) : State := s.setBit (key 0x2020 f) 6 b

/-- Every subindex of a function entry, ascending. -/
def allFns : List Nat := (List.range 0x8B).map (· + 1)

/-- Some function is FAULTED. -/
def State.anyFaulted (s : State) : Bool := allFns.any (fun f => s.fn f == .faulted)

/-! Network time as stamps take it (18 R458, R459). -/

/-- T32 now, in 2^-31 ns: between changes of RATE it advances by 2^32 + RATE units in every SCLK cycle. -/
def State.t32Fine (s : State) : Nat :=
  ((s.ptp.t32 : Int) + ((s.sclk - s.ptp.t32At : Nat) : Int) * (4294967296 + signed 32 (s.reg (key 0x2710 7)))).toNat
    % 2 ^ 63

/-- T32 in ns, 32 bits. -/
def State.t32 (s : State) : Nat := s.t32Fine / 2 ^ 31

/-- The PTP time of a 32-bit stamp taken now or within 2^31 ns: seconds and nanoseconds (18 R459). -/
def State.ptpOf (s : State) (t : Nat) : Nat × Nat :=
  let d := signed 32 (t + 2 ^ 32 - s.reg (key 0x2710 4))
  let sec := (s.reg (key 0x2710 3) : Int) + d / 1000000000
  (wrap 48 sec, (d % 1000000000).toNat)

/-! Event records and counters (20 R490 to R494). -/

/-- The route of a record: bit 0 host port, bit 1 emergency (Table 20-7). -/
def State.routeOf (s : State) (r : EvRec) : Nat :=
  if r.type = 1 then
    let ix := r.what / 65536
    let sub := r.what / 256 % 256
    if ix = 0x2904 ∧ sub = 6 then 1
    else bits (s.reg (key 0x29F0 (0x10 + (ix - 0x2900)))) (2 * (sub - 1) + 1) (2 * (sub - 1))
  else bits (s.reg (key 0x29F0 0x15)) (2 * r.type + 1) (2 * r.type)

/-- The record with the PTP time and the cycle of its registration (R491). -/
def State.stampRec (s : State) (r : EvRec) : EvRec :=
  let t := s.ptpOf s.t32
  { r with sec := t.1, ns := t.2, cycle := s.sclk }

/-- `x` follows `r`, registered in the same cycle: by TYPE, then by WHAT (R492). -/
def EvRec.follows (r x : EvRec) : Bool :=
  x.type != 0 && x.cycle == r.cycle && (decide (r.type < x.type) || (x.type == r.type && decide (r.what < x.what)))

/-- A record enters a queue before those of its own cycle that follow it (R492). -/
def insertRec (q : List EvRec) (r : EvRec) : List EvRec :=
  let before := fun x => !r.follows x
  q.takeWhile before ++ r :: q.dropWhile before

/-- Load a counter's holdoff timer (R493). -/
def State.loadHoldoff (s : State) (k : Nat) : State :=
  { s with holdoffs := tput s.holdoffs k { due := s.sclk + micros (s.reg (key 0x29F0 4)) } }

/-- The record of an increment (Table 20-5). -/
def countRec (k rep data : Nat) (lpos : Option (Nat × Nat)) : EvRec :=
  { type := 1, rep := rep, what := k * 256, data := data, lpos := lpos }

/-- Find a running holdoff timer. -/
def State.holdoff (s : State) (k : Nat) : Option Holdoff := tfind s.holdoffs k

/-- The queues a record enters (R492), and the counters of those that had no room. A record that finds the event queue
of 256 full is dropped and sets EVOVF (17 R437); one that finds the emergency queue of 8 full is dropped (R494). -/
def State.enqueue (s : State) (r : EvRec) : State × List Nat :=
  let rt := s.routeOf r
  let r := s.stampRec r
  let (s, d1) :=
    if bit rt 0 then
      if s.events.length < 256 then ({ s with events := insertRec s.events r }, [])
      else ({ s with evOverflow := true }, [key 0x2904 5])
    else (s, [])
  if bit rt 1 then
    if (s.emergencies.filter (fun e => e.type != 0)).length < 8 then ({ s with emergencies := insertRec s.emergencies r }, d1)
    else (s, d1 ++ [key 0x2904 6])
  else (s, d1)

/-- The holdoff timer of counter `k` has expired: with increments folded it is loaded again in its expiry cycle and their
record is raised, else it stops (R493). The counters of drops come with it. -/
def State.holdoffEnds (s : State) (k : Nat) (h : Holdoff) : State × List Nat :=
  let due := h.due + 1 + micros (s.reg (key 0x29F0 4))
  let hs := terase s.holdoffs k
  if h.folded = 0 then ({ s with holdoffs := hs }, [])
  else { s with holdoffs := if due < s.sclk then hs else tput hs k { due := due } }.enqueue
    (countRec k (min 65535 h.folded) h.data h.lpos)

/-- An increment finds an expired holdoff timer expired (02 R63). -/
def State.holdoffFound (s : State) (k : Nat) : State × List Nat :=
  match s.holdoff k with
  | some h => if h.due < s.sclk then s.holdoffEnds k h else (s, [])
  | none => (s, [])

/-- The record of an increment, if it is not folded into a running timer. -/
def State.increment (s : State) (k data : Nat) (lpos : Option (Nat × Nat)) : State × List Nat :=
  match s.holdoff k with
  | some h => ({ s with holdoffs := tput s.holdoffs k { h with folded := h.folded + 1, data := data, lpos := lpos } }, [])
  | none => (if s.reg (key 0x29F0 4) = 0 then s else s.loadHoldoff k).enqueue (countRec k 0 data lpos)

/-- One increment of a counter of 2900h to 2904h with its record under the holdoff rule (R490, R493). A dropped record
counts its drop in turn; `fuel` bounds that chain, which only a holdoff of 0 and a full queue could prolong. -/
def State.countFuel : Nat → State → Nat → Nat → Option (Nat × Nat) → State
  | 0, s, k, _, _ => s.addReg k 1
  | n + 1, s, k, data, lpos =>
    let x := (s.addReg k 1).holdoffFound k
    let y := x.1.increment k data lpos
    (x.2 ++ y.2).foldl (fun t d => State.countFuel n t d 0 none) y.1

/-- One increment of a counter of 2900h to 2904h. -/
def State.count (s : State) (ix sub : Nat) (data : Nat := 0) (lpos : Option (Nat × Nat) := none) : State :=
  State.countFuel 4 s (key ix sub) data lpos

/-- `n` increments of a counter in one cycle (R493). -/
def State.countMany (s : State) (n ix sub : Nat) (data : Nat := 0) : State :=
  (List.range n).foldl (fun t _ => t.count ix sub data) s

/-- Raise a record of TYPE 02h to 08h, which is never held off (R493). -/
def State.report (s : State) (r : EvRec) : State :=
  let (s, dropped) := s.enqueue r
  dropped.foldl (fun t d => State.countFuel 3 t d 0 none) s

/-- A function enters FAULTED, with its record of TYPE 03h (Table 20-5). -/
def State.enterFaulted (s : State) (f : Nat) : State := (s.setFn f .faulted).report { type := 3, what := f }

/-! Getters and setters of the sparse tables. -/

/-- Encoder input `e`. -/
def State.enc (s : State) (e : Nat) : EncUnit := tget (fun _ => {}) s.encs e
/-- Replace encoder input `e`. -/
def State.setEnc (s : State) (e : Nat) (x : EncUnit) : State := { s with encs := tset (fun _ => {}) s.encs e x }
/-- Line domain `d`. -/
def State.domain (s : State) (d : Nat) : DomUnit := tget (fun _ => {}) s.domains d
/-- Replace line domain `d`. -/
def State.setDomain (s : State) (d : Nat) (x : DomUnit) : State :=
  { s with domains := tset (fun _ => {}) s.domains d x }
/-- Trigger generator `p`. -/
def State.trig (s : State) (p : Nat) : TrigUnit := tget (fun _ => {}) s.trigs p
/-- Replace trigger generator `p`. -/
def State.setTrig (s : State) (p : Nat) (x : TrigUnit) : State := { s with trigs := tset (fun _ => {}) s.trigs p x }
/-- Window `w`. -/
def State.win (s : State) (w : Nat) : WinUnit := tget (fun _ => {}) s.wins w
/-- Replace window `w`. -/
def State.setWin (s : State) (w : Nat) (x : WinUnit) : State := { s with wins := tset (fun _ => {}) s.wins w x }
/-- Timer `t`. -/
def State.timer (s : State) (t : Nat) : TimerUnit := tget (fun _ => {}) s.timers t
/-- Replace timer `t`. -/
def State.setTimer (s : State) (t : Nat) (x : TimerUnit) : State :=
  { s with timers := tset (fun _ => {}) s.timers t x }
/-- Output group `g`. -/
def State.group (s : State) (g : Nat) : GroupUnit := tget (fun _ => {}) s.groups g
/-- Replace output group `g`. -/
def State.setGroup (s : State) (g : Nat) (x : GroupUnit) : State :=
  { s with groups := tset (fun _ => {}) s.groups g x }
/-- Valve-bus channel `c`. -/
def State.chan (s : State) (c : Nat) : ChanUnit := tget (fun _ => {}) s.chans c
/-- Replace valve-bus channel `c`. -/
def State.setChan (s : State) (c : Nat) (x : ChanUnit) : State := { s with chans := tset (fun _ => {}) s.chans c x }
/-- Compare channel `n`. -/
def State.cmp (s : State) (n : Nat) : CmpUnit := tget (fun _ => {}) s.cmps n
/-- Replace compare channel `n`. -/
def State.setCmp (s : State) (n : Nat) (x : CmpUnit) : State := { s with cmps := tset (fun _ => {}) s.cmps n x }
/-- Sensor port `p`. -/
def State.port (s : State) (p : Nat) : PortUnit := tget (fun _ => {}) s.ports p
/-- Replace sensor port `p`. -/
def State.setPort (s : State) (p : Nat) (x : PortUnit) : State := { s with ports := tset (fun _ => {}) s.ports p x }
/-- Sensor-control channel `k`. -/
def State.scc (s : State) (k : Nat) : SccUnit := tget (fun _ => {}) s.sccs k
/-- Replace sensor-control channel `k`. -/
def State.setScc (s : State) (k : Nat) (x : SccUnit) : State := { s with sccs := tset (fun _ => {}) s.sccs k x }

end Sys2Proof.Machine
end

