-- ==== Sys2Proof/Machine/Stores.lean ====
section
/-! DEFINITION. Bytes in the four memory levels: reads and writes with poison, ranges that move whole, windows of
contexts, and valid flags of the accumulator stores (03 R84 to R89, 07 R191 to R224). -/
namespace Sys2Proof.Machine

/-- A byte with its poison mark (07 R224). -/
abbrev Marked := Byte × Bool

/-- What an unlisted address of every level reads as: 0 (R199, R218; DESIGN CHOICE for stack memory, log 12). -/
def unlisted (_ : Nat) : Byte := 0#8

/-- One byte of a level. -/
def Store.get (m : Store) (a : Nat) : Byte := tget unlisted m.cells a

/-- Write one byte, keeping the canonical form. -/
def Store.put (m : Store) (a : Nat) (b : Byte) : Store := { m with cells := tset unlisted m.cells a b }

/-- The canonical form of a level: addresses rise and no listed byte is 0. -/
abbrev Store.wf (m : Store) : Prop := twf unlisted m.cells = true

/-- `n` bytes from address `a`, from cells that begin at or above `a`. -/
def expandFrom : Nat → Nat → List Host.Cell → Bytes
  | 0, _, _ => []
  | n + 1, a, [] => 0#8 :: expandFrom n (a + 1) []
  | n + 1, a, (j, b) :: t =>
    if j = a then b :: expandFrom n (a + 1) t else 0#8 :: expandFrom n (a + 1) ((j, b) :: t)

/-- `n` bytes from address `a`. -/
def Store.bytes (m : Store) (a n : Nat) : Bytes := expandFrom n a (m.cells.dropWhile (fun c => decide (c.1 < a)))

/-- Write one byte per element, in ascending addresses. -/
def Store.putAll : List Byte → Nat → Store → Store
  | [], _, m => m
  | b :: bs, a, m => Store.putAll bs (a + 1) (m.put a b)

/-- Word `w` cannot be read clean: it is poisoned, or an uncorrectable error stands in it. -/
def Store.dirty (m : Store) (w : Nat) : Bool := hasKey m.poison w || hasKey m.bad w

/-- Words of `sz` bytes that a range touches. -/
def wordsOf (sz a n : Nat) : List Nat :=
  if n = 0 then [] else (List.range ((a + n - 1) / sz - a / sz + 1)).map (a / sz + ·)

/-- Some word of a range is poisoned or uncorrectable. -/
def Store.tainted (m : Store) (sz a n : Nat) : Bool :=
  !(m.poison.isEmpty && m.bad.isEmpty) && (wordsOf sz a n).any m.dirty

/-- Read `n` bytes with their marks. -/
def Store.read (m : Store) (sz a n : Nat) : List Marked :=
  let bs := m.bytes a n
  if m.poison.isEmpty && m.bad.isEmpty then bs.map (fun b => (b, false))
  else bs.zipIdx.map (fun x => (x.1, m.dirty ((a + x.2) / sz)))

/-- The poison state of one word after a write (R197, R223): a whole clean word makes it clean, a partial write leaves
it as it was, and poisoned data poisons it. An uncorrectable word that is merged becomes a poisoned one. -/
def Store.markWord (sz a : Nat) (xs : List Marked) (m : Store) (w : Nat) : Store :=
  let lo := max a (w * sz)
  let hi := min (a + xs.length) ((w + 1) * sz)
  let part := (xs.drop (lo - a)).take (hi - lo)
  let whole := decide (hi - lo = sz)
  let p := part.any (fun x => x.2) || (!whole && m.dirty w)
  { m with poison := if p then addKey m.poison w else dropKey m.poison w, bad := dropKey m.bad w }

/-- Write marked bytes. -/
def Store.write (m : Store) (sz a : Nat) (xs : List Marked) : Store :=
  let m := if m.poison.isEmpty && m.bad.isEmpty && !xs.any (fun x => x.2) then m
           else (wordsOf sz a xs.length).foldl (Store.markWord sz a xs) m
  Store.putAll (xs.map Prod.fst) a m

/-- Clean bytes, to be written. -/
def clean (bs : Bytes) : List Marked := bs.map (fun b => (b, false))

/-- The cells of a range, with addresses counted from it. -/
def cutCells (cs : List Host.Cell) (a n : Nat) : List Host.Cell :=
  (cs.filter (fun c => decide (a ≤ c.1) && decide (c.1 < a + n))).map (fun c => (c.1 - a, c.2))

/-- A range replaced by cells counted from its start. -/
def pasteCells (cs : List Host.Cell) (a n : Nat) (xs : List Host.Cell) : List Host.Cell :=
  cs.takeWhile (fun c => decide (c.1 < a)) ++
    (xs.filter (fun c => decide (c.1 < n))).map (fun c => (c.1 + a, c.2)) ++
    (cs.dropWhile (fun c => decide (c.1 < a))).dropWhile (fun c => decide (c.1 < a + n))

/-- Word numbers of a range, counted from it. -/
def cutKeys (ks : List Nat) (a n : Nat) : List Nat :=
  (ks.filter (fun k => decide (a ≤ k) && decide (k < a + n))).map (· - a)

/-- Word numbers of a range replaced. -/
def pasteKeys (ks : List Nat) (a n : Nat) (xs : List Nat) : List Nat :=
  ks.filter (fun k => decide (k < a)) ++ xs.map (· + a) ++ ks.filter (fun k => decide (a + n ≤ k))

/-- A range of one level as data: cells and poisoned words of `sz` bytes, counted from its start; words with an
uncorrectable error leave it poisoned (R254). -/
def Store.cut (m : Store) (sz a n : Nat) : List Host.Cell × List Nat :=
  (cutCells m.cells a n,
   (cutKeys m.bad (a / sz) (n / sz)).foldl addKey (cutKeys m.poison (a / sz) (n / sz)))

/-- Write a range whole. -/
def Store.paste (m : Store) (sz a n : Nat) (x : List Host.Cell × List Nat) : Store :=
  { cells := pasteCells m.cells a n x.1,
    poison := pasteKeys m.poison (a / sz) (n / sz) x.2,
    bad := m.bad.filter (fun k => decide (k < a / sz) || decide (a / sz + n / sz ≤ k)) }

/-- Write zeros over a range. -/
def Store.zero (m : Store) (sz a n : Nat) : Store := m.paste sz a n ([], [])

/-! Physical addresses. Word sizes: 8 bytes in tile scratchpads and stack memory, 4 in accumulator stores, 32 in
external memory. -/

/-- Bytes of one tile scratchpad. -/
def tsBytes : Nat := 393216
/-- Bytes of the accumulator store of one array. -/
def accBytes : Nat := 2 ^ 20
/-- Bytes of stack memory. -/
def stackBytes : Nat := 2 ^ 29
/-- Bytes of external memory. -/
def extBytes : Nat := 2 ^ 37
/-- A byte of the tile scratchpad of array `a` of core `c`. -/
def tsAt (c a x : Nat) : Nat := c * (2 * tsBytes) + a * tsBytes + x
/-- A byte of the accumulator store of array `a` of core `c`. -/
def accAt (c a x : Nat) : Nat := c * (2 * accBytes) + a * accBytes + x

/-- Valid flag of row `r` of column half `h` of array `a` of core `c` (R89). -/
def validKey (c a h r : Nat) : Nat := c * 4096 + a * 2048 + h * 1024 + r

/-- Read a valid flag. -/
def State.isValid (s : State) (c a h r : Nat) : Bool := hasKey s.valid (validKey c a h r)

/-- Set or clear a valid flag. -/
def State.setValid (s : State) (c a h r : Nat) (b : Bool) : State :=
  { s with valid := if b then addKey s.valid (validKey c a h r) else dropKey s.valid (validKey c a h r) }

/-! Contexts and their windows (R198). A context's key is 6 × job + lane. -/

/-- Key of lane `l` of job `j`. -/
def ctxKey (j l : Nat) : Nat := 6 * j + l
/-- Job of a context. -/
def ctxJob (k : Nat) : Nat := k / 6 % 64
/-- Lane of a context. -/
def ctxLane (k : Nat) : Nat := k % 6

/-- A context, if it exists. -/
def State.ctx? (s : State) (k : Nat) : Option Ctx := tfind s.ctxs k
/-- A context, or an empty one. -/
def State.ctx (s : State) (k : Nat) : Ctx := (s.ctx? k).getD { core := 0 }
/-- Replace a context. -/
def State.setCtx (s : State) (k : Nat) (x : Ctx) : State := { s with ctxs := tput s.ctxs k x }
/-- Remove a context. -/
def State.dropCtx (s : State) (k : Nat) : State := { s with ctxs := terase s.ctxs k }
/-- Change a context if it exists. -/
def State.onCtx (s : State) (k : Nat) (f : Ctx → Ctx) : State :=
  match s.ctx? k with
  | some x => s.setCtx k (f x)
  | none => s
/-- Context `k` is the incarnation `i`. -/
def State.isCtx (s : State) (k i : Nat) : Bool :=
  match s.ctx? k with
  | some x => x.inc == i
  | none => false

/-- The number of logical cores. -/
def State.cores (s : State) : Nat := gCores s.grade

/-- MB of each pool of Table 7-3. -/
def State.poolMB (s : State) (i : Nat) : Nat :=
  match i with
  | 0 => s.reg (key 0x2500 0x20)
  | 1 => s.reg (key 0x2500 0x21)
  | 2 => s.reg (key 0x2500 0x22)
  | 3 => s.reg (key 0x2500 0x23)
  | 4 => 12 * s.cores
  | _ => s.reg (key 0x2500 0x25)

/-- Byte address at which a pool starts (R210). -/
def State.poolBase (s : State) (i : Nat) : Nat := (upTo i).foldl (fun n p => n + s.poolMB p * 2 ^ 20) 0

/-- End of a pool. -/
def State.poolEnd (s : State) (i : Nat) : Nat := s.poolBase i + s.poolMB i * 2 ^ 20

/-- The context-staging allotment of slot `n` of core `c` (Table 7-3). -/
def State.staging (s : State) (c n : Nat) : Nat := s.poolBase 4 + (4 * c + n) * (3 * 2 ^ 20)

/-- Bytes of a siding image (R255). -/
def sidingBytes : Nat := 2970624
/-- The siding of a context (R255). -/
def sidingBase (k : Nat) : Nat := k * (3 * 2 ^ 20)

/-- Where a context byte of a tile scratchpad lies: in the physical store through the context's window while it is in
place, or in its staging image or siding (R198, R255); none outside the windows. -/
inductive Spot where
  | ts (a : Nat)
  | acc (a : Nat)
  | stack (a : Nat)
  | ext (a : Nat)
  deriving DecidableEq, Repr

/-- A context byte address of the tile scratchpads. -/
def State.tsSpot (s : State) (k x : Nat) : Option Spot :=
  match s.ctx? k with
  | none => none
  | some c =>
    let a := x / tsBytes
    let o := x % tsBytes
    if 2 ≤ a ∨ c.tsRows * 256 ≤ o then none
    else match c.place, c.slot with
      | .inPlace, _ => some (.ts (tsAt c.core a (c.tsBase * 256 + o)))
      | .staged, some n => some (.stack (s.staging c.core n + 4096 + x))
      | _, _ => some (.ext (sidingBase k + 4096 + x))

/-- A context byte address of the accumulator stores: array × 2^20 + row × 1,024 + column × 4. -/
def State.accSpot (s : State) (k x : Nat) : Option Spot :=
  match s.ctx? k with
  | none => none
  | some c =>
    let a := x / accBytes
    let o := x % accBytes
    if 2 ≤ a ∨ c.accRows * 1024 ≤ o then none
    else some (.acc (accAt c.core a (c.accBase * 1024 + o)))

/-- An accumulator entry is delivered poisoned while its row is invalid in its column half (R89). -/
def State.accInvalid (s : State) (a : Nat) : Bool :=
  let c := a / (2 * accBytes)
  let arr := a / accBytes % 2
  let r := a / 1024 % 1024
  let h := a / 512 % 2
  !s.isValid c arr h r || hasKey s.acc.bad (a / 4)

/-- Read the byte at a spot. -/
def State.peek (s : State) (p : Spot) : Marked :=
  match p with
  | .ts a => (s.ts.get a, s.ts.dirty (a / 8))
  | .acc a => (s.acc.get a, s.accInvalid a)
  | .stack a => (s.stack.get a, s.stack.dirty (a / 8))
  | .ext a => (s.ext.get a, s.ext.dirty (a / 32))

/-- Clear the flag of the row and column half of an accumulator byte. -/
def State.poisonAcc (s : State) (b : Nat) : State :=
  s.setValid (b / (2 * accBytes)) (b / accBytes % 2) (b / 512 % 2) (b / 1024 % 1024) false

/-- Write marked bytes from a spot on. A write that carries poisoned bytes to an accumulator store clears the flag of every
row and column half that it writes to; a clean one leaves them (R89), but an uncorrectable entry written in part is
poisoned (R197, R200, R223). -/
def State.poke (s : State) (p : Spot) (xs : List Marked) : State :=
  match p with
  | .ts a => { s with ts := s.ts.write 8 a xs }
  | .acc a =>
    let hit := s.acc.bad.filter (fun w => decide (a / 4 ≤ w) && decide (4 * w < a + xs.length))
    let part := hit.filter (fun w => decide (4 * w < a) || decide (a + xs.length < 4 * w + 4))
    let s := { s with acc := Store.putAll (xs.map Prod.fst) a { s.acc with bad := s.acc.bad.filter (fun w => !hit.contains w) } }
    let s := forEach part s (fun w s => s.poisonAcc (4 * w))
    if xs.any (fun x => x.2) then
      forEach (List.range ((a + xs.length - 1) / 512 - a / 512 + 1)) s (fun i s => s.poisonAcc (512 * (a / 512 + i)))
    else s
  | .stack a => { s with stack := s.stack.write 8 a xs }
  | .ext a => { s with ext := s.ext.write 32 a xs }

/-- `n` context bytes of the tile scratchpads, none if one lies outside the windows. Both ends lie in one scratchpad
or the range crosses from TS A to TS B, each part within its window. -/
def State.readTs (s : State) (k x n : Nat) : Option (List Marked) :=
  let ps := (List.range n).map (fun i => s.tsSpot k (x + i))
  if ps.all Option.isSome then some (ps.filterMap (Option.map s.peek)) else none

/-- A range of context bytes lies in the windows. -/
def State.tsInside (s : State) (k x n : Nat) : Bool :=
  match s.ctx? k with
  | none => false
  | some c =>
    let w := c.tsRows * 256
    decide (n = 0) || (decide (x + n ≤ w)) ||
      (decide (tsBytes ≤ x) && decide (x + n ≤ tsBytes + w)) ||
      (decide (w = tsBytes) && decide (x + n ≤ 2 * tsBytes))

/-- Write context bytes of the tile scratchpads, byte ranges within one scratchpad at a time. -/
def State.writeTs (s : State) (k x : Nat) (xs : List Marked) : State :=
  let n := if x < tsBytes then min xs.length (tsBytes - x) else xs.length
  let s := match s.tsSpot k x with
    | some p => if n = 0 then s else s.poke p (xs.take n)
    | none => s
  match s.tsSpot k (x + n), xs.drop n with
  | some p, y :: ys => s.poke p (y :: ys)
  | _, _ => s

/-! Errors found by readers (R200, R207, R222). -/

/-- Subindex 36h of 2500h for a level and a physical address. -/
def badLocation (level a : Nat) : Nat :=
  match level with
  | 1 => 1 * 2 ^ 60 + a / (2 * tsBytes) * 2 ^ 56 + a % (2 * tsBytes)
  | 2 => 2 * 2 ^ 60 + a / (2 * accBytes) * 2 ^ 56 + a % (2 * accBytes)
  | 3 => 3 * 2 ^ 60 + a
  | _ => 4 * 2 ^ 60 + a

/-- An uncorrectable word is recorded and counted (R222). -/
def State.foundBad (s : State) (level a : Nat) : State :=
  let v := badLocation level a
  (s.setReg (key 0x2500 0x36) v).count 0x2902 (4 + level) v

/-- A reader finds the uncorrectable words of a range. -/
def State.noticeBad (s : State) (level sz a n : Nat) : State :=
  let bad := match level with | 1 => s.ts.bad | 2 => s.acc.bad | 3 => s.stack.bad | _ => s.ext.bad
  forEach (if n = 0 then [] else bad.filter (fun w => decide (a / sz ≤ w) && decide (w ≤ (a + n - 1) / sz))) s (fun w s =>
    s.foundBad level (w * sz))

/-! Allotments (R210 to R212). -/

/-- Owner numbers of allotments. -/
def ownStream (p : Nat) : Nat := 0x100 + p
/-- The job's working stack memory. -/
def ownJob (j : Nat) : Nat := 0x200 + j
/-- A bank's hot allotment: entries, then words. -/
def ownHot (b : Nat) : Nat := 0x300 + b

/-- The job's halo channels. -/
def ownHalo (j : Nat) : Nat := 0x500 + j

/-- 64 KB. -/
def kb64 : Nat := 65536

/-- A place [b, b + n) is free among spans. -/
def freeSpan (spans : List (Nat × Nat)) (b n : Nat) : Bool :=
  spans.all (fun x => decide (x.1 + x.2 ≤ b) || decide (b + n ≤ x.1))

/-- The lowest base, aligned to 64 KB, at which `n` bytes fit within [lo, hi) beside the spans (R212). -/
def lowestFit (spans : List (Nat × Nat)) (lo hi n : Nat) : Option Nat :=
  let cs := (lo :: spans.map (fun x => x.1 + x.2)).map (fun x => roundUp x kb64)
  let ok := cs.filter (fun b => decide (lo ≤ b) && decide (b + n ≤ hi) && freeSpan spans b n)
  match ok with
  | [] => none
  | b :: bs => some (bs.foldl min b)

/-- The highest base, aligned to 64 KB, at which `n` bytes fit below `hi` and at or above `lo` (R228). -/
def highestFit (spans : List (Nat × Nat)) (lo hi n : Nat) : Option Nat :=
  let cs := (hi :: spans.map Prod.fst).map (fun x => (x - n) / kb64 * kb64)
  let ok := cs.filter (fun b => decide (lo ≤ b) && decide (b + n ≤ hi) && freeSpan spans b n)
  match ok with
  | [] => none
  | b :: bs => some (bs.foldl max b)

/-- Spans that allotments and cache entries take in a pool. -/
def State.poolSpans (s : State) (i : Nat) : List (Nat × Nat) :=
  ((s.allots.filter (fun a => a.pool == i)).map (fun a => (a.base, a.size))) ++
    (if i = 1 then s.cache.map (fun e => (e.base, e.size)) ++
      (if s.reg (key 0x2500 0x27) = 1 then [(s.poolBase 1, s.cores * 2 ^ 25)] else [])
     else [])

/-- Place an allotment of `n` bytes for an owner in a pool. -/
def State.allot (s : State) (pool owner n : Nat) : Option State :=
  match lowestFit (s.poolSpans pool) (s.poolBase pool) (min (s.poolEnd pool) stackBytes) n with
  | some b => some { s with allots := s.allots ++ [{ pool := pool, owner := owner, base := b, size := n }] }
  | none => none

/-- Release every allotment of an owner. -/
def State.unallot (s : State) (owner : Nat) : State :=
  { s with allots := s.allots.filter (fun a => a.owner != owner) }

/-- The allotment of an owner. -/
def State.allotOf (s : State) (owner : Nat) : Option Allot := s.allots.find? (fun a => a.owner == owner)

end Sys2Proof.Machine
end

