-- ==== Sys2Proof/Machine/Events.lean ====
section
/-! DEFINITION. Positions, and the events of Table 2-8 with their consumers: windows, timers and capture channels
(02 R31, R52, R53, R57, R62, R65, R66; 18 R463). Every consumer takes an event in the cycle in which it is
registered. -/
namespace Sys2Proof.Machine

/-- LPOS of a domain. -/
def State.lpos (s : State) (d : Nat) : Nat := s.reg (key (0x2108 + d) 0x02)

/-- One increment of a counter that concerns domain `d`: its record carries the domain's LPOS (20 Table 20-5, log 134). -/
def State.countIn (s : State) (d ix sub : Nat) (data : Nat := 0) : State := s.count ix sub data (some (d, s.lpos d))

/-- HPOS of a domain. -/
def State.hpos (s : State) (d : Nat) : Nat := s.reg (key (0x2108 + d) 0x0B)

/-- HPOS after the counts of every cycle up to `c`, among the latest advances. -/
def State.hposAt (s : State) (d c : Nat) : Nat :=
  (s.domain d).advances.foldl (fun h a => if c < a.1 then a.2 else h) (s.hpos d)

/-- The reaching of `v` by domain `d` is registered in cycle `c` or earlier: one cycle after the count (Table 2-1). -/
def State.reachedBy (s : State) (d c v : Nat) : Bool := reached (s.hposAt d (c - 1)) v

/-! Event source numbers (02 Table 2-8). -/

/-- ENCe count. -/
def evCount (e : Nat) : Nat := 0x000 + e
/-- ENCe Z edge. -/
def evZ (e : Nat) : Nat := 0x008 + e
/-- DId rising edge. -/
def evRise (d : Nat) : Nat := 0x010 + d
/-- DId falling edge. -/
def evFall (d : Nat) : Nat := 0x020 + d
/-- Compare channel match. -/
def evMatch (n : Nat) : Nat := 0x040 + n
/-- Window opens. -/
def evOpen (w : Nat) : Nat := 0x060 + w
/-- Window closes. -/
def evClose (w : Nat) : Nat := 0x0A0 + w
/-- Timer expires. -/
def evTimer (t : Nat) : Nat := 0x0E0 + t
/-- Trigger issued. -/
def evTrig (p : Nat) : Nat := 0x100 + p
/-- Line received. -/
def evLine (p : Nat) : Nat := 0x140 + p
/-- Entry committed by its own verdict. -/
def evCommit (g : Nat) : Nat := 0x180 + g
/-- Latch strobe. -/
def evStrobe (g : Nat) : Nat := 0x190 + g
/-- Domain stall. -/
def evStall (d : Nat) : Nat := 0x1A0 + d

/-- A source number that the table assigns to a unit the grade has (R52). -/
def evValid (g src : Nat) : Bool :=
  within src 0x000 0x003 || within src 0x008 0x00B || within src 0x010 0x01F || within src 0x020 0x02F
  || within src 0x040 0x05F || within src 0x060 0x09F || within src 0x0A0 0x0DF || within src 0x0E0 0x0EF
  || (decide (0x100 ≤ src) && decide (src < 0x100 + gPorts g))
  || (decide (0x140 ≤ src) && decide (src < 0x140 + gPorts g))
  || within src 0x180 0x18F || within src 0x190 0x19F || within src 0x1A0 0x1A3 || src == 0x3FF

/-! Windows (R57, R62). -/

/-- Line domain of window `w`. -/
def State.winDom (s : State) (w : Nat) : Nat := s.field' (key (0x2140 + w) 1) 1 0

/-- `p` lies in [a, b) (R32). -/
def inSpan (p a b : Nat) : Bool := reached p a && !reached p b

/-- An event stamped `p` in cycle `c` lies inside window `w` (R57): in the period in force, or, in the cycle in which a
period closed and the next was armed, in the period that closed. -/
def State.inside (s : State) (w p c : Nat) : Bool :=
  let u := s.win w
  match u.armedAt with
  | none => false
  | some a =>
    if a < c then
      inSpan p u.start u.fin && (match u.closedAt with | none => true | some z => decide (c ≤ z))
    else
      match u.prev with
      | none => false
      | some (st, en, a0) => decide (a = c) && decide (a0 < c) && inSpan p st en

/-- A window takes an event of its gated source (R62). -/
def State.gate (s : State) (w c : Nat) : State :=
  let p := s.lpos (s.winDom w)
  if s.inside w p c then
    let first := !(s.win w).seen
    let s := (s.incReg (key (0x2140 + w) 7)).setWin w { s.win w with seen := true }
    let s := if first then s.setReg (key (0x2140 + w) 8) p else s
    s.setReg (key (0x2140 + w) 9) p
  else s

/-- Every window that gates source `src`. -/
def State.gateAll (s : State) (src c : Nat) : State :=
  forEach (upTo 64) s (fun w s => if s.field' (key (0x2140 + w) 1) 12 3 == src then s.gate w c else s)

/-! Timers (R65, R66). -/

/-- Configuration of timer `t`. -/
def State.timerCfg (s : State) (t : Nat) : Nat := s.reg (key 0x2180 (0x01 + t))

/-- MODE is WATCH or RETRIG. -/
def State.timerOn (s : State) (t : Nat) : Bool := bits (s.timerCfg t) 31 30 == 1 || bits (s.timerCfg t) 31 30 == 2

/-- The cycle in which the run of timer `t` reaches or reached zero: known beforehand for a timer that counts SCLK. -/
def State.timerZero (s : State) (t : Nat) : Option Nat :=
  let u := s.timer t
  if !u.running then none else if bit (s.timerCfg t) 29 then u.zeroAt else some u.due

/-- Timer `t` runs anew from cycle `c` with its load value (R65). -/
def State.reloadTimer (s : State) (t c : Nat) : State :=
  let n := s.reg (key 0x2180 (0x11 + t))
  s.setTimer t { running := true, loadedAt := c, due := c + n, left := n, zeroAt := none, owed := (s.timer t).owed }

/-- A load of timer `t` in cycle `c` by its START event or by a write (R65). A run that has reached zero by then expires
all the same, in the cycle after its zero (R63). -/
def State.loadTimer (s : State) (t c : Nat) : State :=
  let u := s.timer t
  let owed := match s.timerZero t with
    | some z => if z ≤ c then (match u.owed with | some m => some m | none => some z) else u.owed
    | none => u.owed
  (s.setTimer t { u with owed := owed }).reloadTimer t c

/-- Timer `t` has not run out before cycle `c`: an event of cycle `c` is an arrival (R63). -/
def State.timerLive (s : State) (t c : Nat) : Bool :=
  (s.timer t).running && (match s.timerZero t with | some z => decide (c ≤ z) | none => true)

/-- An AWAIT event of cycle `c` reaches timer `t` (R66). One of the loading cycle belongs to the run before, and is an
arrival where that run reached zero in this cycle (R63, R65). -/
def State.awaitTimer (s : State) (t c : Nat) : State :=
  let u := s.timer t
  if s.timerLive t c && decide (u.loadedAt < c) then
    if bits (s.timerCfg t) 31 30 = 1 then s.setTimer t { owed := u.owed } else s.reloadTimer t c
  else if u.owed == some c then s.setTimer t { u with owed := none }
  else s

/-- Every timer that awaits or starts on `src`; a timer takes the arrival before the start. -/
def State.timeAll (s : State) (src c : Nat) : State :=
  forEach (upTo 16) s (fun t s =>
    if s.timerOn t then
      let s := if bits (s.timerCfg t) 19 10 == src then s.awaitTimer t c else s
      if bits (s.timerCfg t) 9 0 == src then s.loadTimer t c else s
    else s)

/-! Capture channels (18 R463). -/

/-- Every capture channel that names `src` records T32 and the LPOS of its domain. -/
def State.captureAll (s : State) (src : Nat) : State :=
  forEach (upTo 4) s (fun i s =>
    let cfg := s.reg (key 0x2710 (0x17 + i))
    if bits cfg 9 0 == src then
      (s.setReg (key 0x2710 (0x1B + i)) (s.lpos (bits cfg 11 10))).setReg (key 0x2710 (0x1F + i)) s.t32
    else s)

/-- An event of Table 2-8 is registered in cycle `c` and delivered to every consumer in that cycle (R53). -/
def State.event (s : State) (src c : Nat) : State :=
  if src = 0x3FF then s else ((s.gateAll src c).timeAll src c).captureAll src

/-! Window state (R58 to R61). -/

/-- State code of a window: 0 IDLE, 1 ARMED, 2 OPEN, 3 CLOSED. -/
def State.winState (s : State) (w : Nat) : Nat := s.field' (key (0x2140 + w) 6) 1 0

/-- Set the state of a window, with LATE. -/
def State.setWinState (s : State) (w st : Nat) (late : Bool) : State :=
  s.setReg (key (0x2140 + w) 6) (st + b2n late * 128)

/-- A window becomes OPEN and clears its counts and captures (R58, R62). -/
def State.openWin (s : State) (w : Nat) (late : Bool) : State :=
  let k := key (0x2140 + w)
  let s := (((s.setReg (k 7) 0).setReg (k 8) 0).setReg (k 9) 0).setReg (k 0x0A) 0
  (s.setWin w { s.win w with seen := false }).setWinState w 2 late

/-- The next period of a window (R61): the values written since the last arming, or the pitch added. -/
def State.nextSpan (s : State) (w : Nat) : Nat × Nat :=
  let u := s.win w
  let pitch := s.reg (key (0x2140 + w) 4)
  if u.startWritten || u.endWritten then
    (if u.startWritten then s.reg (key (0x2140 + w) 2) else u.start,
     if u.endWritten then s.reg (key (0x2140 + w) 3) else u.fin)
  else (posAdd u.start pitch, posAdd u.fin pitch)

/-- The period of window `w` is empty (R60). -/
def State.winEmpty (s : State) (w : Nat) : Bool := decide (posDiff (s.win w).fin (s.win w).start ≤ 0)

/-- An empty period closes in cycle `c` without events and is counted (R60, R61). -/
def State.emptyWin (s : State) (w c : Nat) : State :=
  (s.setWin w { s.win w with closedAt := some c, entering := false }).countIn (s.winDom w) 0x2900 6

/-- A window takes its next period in the cycle `c` of its close, which counts as its arming, and takes it up in the next
cycle; the period that closed is kept for the events of this cycle (R57, R61). -/
def State.nextPeriod (s : State) (w c : Nat) : State :=
  let x := s.nextSpan w
  let s := ((s.setReg (key (0x2140 + w) 2) x.1).setReg (key (0x2140 + w) 3) x.2).setWin w
    { start := x.1, fin := x.2, armedAt := some c, closedAt := none,
      prev := some ((s.win w).start, (s.win w).fin, (s.win w).armedAt.getD 0),
      seen := (s.win w).seen, entering := true }
  if s.winEmpty w then s.emptyWin w c else s.opens (c + 1) (.winEnter w)

/-- A window closes in cycle `c` with its event, and advances where it has a pitch (R58, R61). -/
def State.closeWin (s : State) (w c : Nat) (late : Bool) : State :=
  let s := ((s.setWin w { s.win w with closedAt := some c }).setWinState w 3 late).raiseAt (evClose w) c
  if s.reg (key (0x2140 + w) 4) = 0 then s else s.nextPeriod w c

/-- A window takes up the period in force as cycle `c` opens (R60, R61): it opens late where its start is already reached,
closes in that cycle where its end is too, and waits ARMED otherwise. -/
def State.enterWin (s : State) (w c : Nat) : State :=
  let h := s.hpos (s.winDom w)
  if reached h (s.win w).start then
    let s := (s.openWin w true).raiseAt (evOpen w) c
    if reached h (s.win w).fin then s.closeWin w c true else s
  else s.setWinState w 1 false

/-- ARM, registered in the cycle before `c`, takes effect as cycle `c` opens, with the start and end then held (R58, R60).
A window with an empty period becomes CLOSED; LATE is then clear (log 18). -/
def State.armWin (s : State) (w c : Nat) : State :=
  let s := s.setWin w { start := s.reg (key (0x2140 + w) 2), fin := s.reg (key (0x2140 + w) 3), armedAt := some (c - 1),
                        seen := (s.win w).seen }
  if s.winEmpty w then (s.setWinState w 3 false).emptyWin w c else s.enterWin w c

/-- The period of an advance is taken up as cycle `c` opens, unless an ARM or DISARM has come in between. -/
def State.winEnter (s : State) (w c : Nat) : State :=
  if (s.win w).entering then (s.setWin w { s.win w with entering := false }).enterWin w c else s

/-- DISARM takes effect (R58). -/
def State.disarmWin (s : State) (w : Nat) : State := (s.setWin w { seen := (s.win w).seen }).setWinState w 0 false

/-- The window opens in the cycle `c` in which HPOS `h` is registered as having reached its start (R58). -/
def State.startWin (s : State) (w h c : Nat) : State :=
  if s.winState w = 1 && reached h (s.win w).start then (s.openWin w false).raiseAt (evOpen w) c else s

/-- An open window closes in the cycle in which HPOS `h` is registered as having reached its end. -/
def State.endWin (s : State) (w h c : Nat) : State :=
  if s.winState w = 2 && reached h (s.win w).fin then s.closeWin w c (s.bit' (key (0x2140 + w) 6) 7) else s

/-- The window's transitions in cycle `c` in which HPOS `h` is registered as reached. -/
def State.moveWin (s : State) (w h c : Nat) : State := (s.startWin w h c).endWin w h c

end Sys2Proof.Machine
end

