-- ==== Sys2Proof/Machine/Verdict.lean ====
section
/-! DEFINITION. Platform queues, fire-order records, veto, and the frames and strobes of the valve bus and the direct
outputs (14). -/
namespace Sys2Proof.Machine

/-! Configuration of a group and of a channel (Tables 14-7 to 14-9). -/

/-- 2610h + g, subindex `sub`. -/
def kGroup (g sub : Nat) : Nat := key (0x2610 + g) sub
/-- 2620h + c, subindex `sub`. -/
def kChan (c sub : Nat) : Nat := key (0x2620 + c) sub
/-- Line domain of a group. -/
def State.groupDom (s : State) (g : Nat) : Nat := s.field' (kGroup g 1) 13 12
/-- TGT of a group: 0 valve bus, 1 direct outputs. -/
def State.groupTgt (s : State) (g : Nat) : Nat := s.field' (kGroup g 1) 11 10
/-- Valve-bus channel of a group. -/
def State.groupCh (s : State) (g : Nat) : Nat := s.field' (kGroup g 1) 9 8
/-- COMB = ALL. -/
def State.combAll (s : State) (g : Nat) : Bool := s.bit' (kGroup g 1) 2
/-- DEFV = EJECT. -/
def State.defEject (s : State) (g : Nat) : Bool := s.bit' (kGroup g 1) 1
/-- Commit lead L. -/
def State.lead (s : State) (g : Nat) : Nat := s.reg (kGroup g 2)
/-- First machine valve. -/
def State.mvBase (s : State) (g : Nat) : Nat := s.reg (kGroup g 3)
/-- Valves of the group. -/
def State.vcnt (s : State) (g : Nat) : Nat := s.reg (kGroup g 4)
/-- CBASE or DBASE. -/
def State.tBase (s : State) (g : Nat) : Nat := s.reg (kGroup g 5)
/-- Bits of a frame, LEN. -/
def State.frameLen (s : State) (c : Nat) : Nat := s.field' (kChan c 1) 9 0
/-- LAT pulse width LW. -/
def State.latWidth (s : State) (c : Nat) : Nat := s.field' (kChan c 1) 23 16
/-- The positions or outputs a group owns, as a bitmap. -/
def State.groupBits (s : State) (g : Nat) : Nat := (2 ^ s.vcnt g - 1) * 2 ^ s.tBase g

/-! Which valves are open (R380, R381). -/

/-- The last cycle whose positions are registered as reached when a cycle opens or a command of it is carried out. -/
def State.passed (s : State) : Nat := s.sclk - 1

/-- HPOS as it is registered as reached up to cycle `t` (Table 2-1). -/
def State.hposBy (s : State) (d t : Nat) : Nat := s.hposAt d (t - 1)

/-- The group's veto is active (R381). -/
def State.vetoActive (s : State) (g : Nat) : Bool :=
  (s.bit' (kGroup g 1) 3 && s.field.vetoTaken) || (s.bit' (kGroup g 1) 4 && bit s.pdVeto g)

/-- The entry's group valves as a bitmap: machine valve FIRST + i is group valve FIRST + i − MVBASE (R374). -/
def State.valves (s : State) (g : Nat) (e : FireEntry) : Nat := e.mask * 2 ^ e.first / 2 ^ s.mvBase g

/-- F ≤ p < F + DUR (R380). -/
def FireEntry.covers (e : FireEntry) (p : Nat) : Bool := inSpan p e.fpos (posAdd e.fpos e.dur)

/-- Union of the valves of the entries that pass a test. -/
def State.unionOf (s : State) (g : Nat) (t : FireEntry → Bool) (es : List FireEntry) : Nat :=
  es.foldl (fun m e => if t e then m ||| s.valves g e else m) 0

/-- Group valves open at position `p` (R380). -/
def State.openAt (s : State) (g p : Nat) : Nat :=
  if s.active (fGroup g) then
    let es := (s.group g).entries ++ (s.group g).past
    let any := s.unionOf g (fun e => e.committed && e.verdict == some true && !e.vetoed && e.covers p) es
    if s.combAll g then
      let pass := s.unionOf g (fun e => e.committed && e.verdict == some false && e.covers p) es
      any &&& (any ^^^ pass)
    else any
  else 0

/-- Group valves open at the position registered as reached up to cycle `t`. -/
def State.openBy (s : State) (g t : Nat) : Nat := s.openAt g (s.hposBy (s.groupDom g) t)

/-- The state of channel `c` when domain `d` stands at `p` and every other domain where it is registered by cycle `t`: 0 while
OUT_EN_N is registered high (R380, R402). -/
def State.chanAt (s : State) (c d p t : Nat) : Nat :=
  if s.field.outEnHigh then 0
  else (upTo 16).foldl (fun m g =>
    if s.groupTgt g = 0 ∧ s.groupCh g = c then
      m ||| (if s.groupDom g = d then s.openAt g p else s.openBy g t) * 2 ^ s.tBase g
    else m) 0

/-- The state of channel `c` at the positions registered by cycle `t`. -/
def State.chanNow (s : State) (c t : Nat) : Nat := s.chanAt c 0 (s.hposBy 0 t) t

/-- Output groups that drive channel `c` and are RUNNING or STOPPING. -/
def State.chanGroups (s : State) (c : Nat) : List Nat :=
  (upTo 16).filter (fun g => s.groupTgt g == 0 && s.groupCh g == c && s.active (fGroup g))

/-- Least commit lead of the groups on the channel (R384). -/
def State.leastLead (s : State) (c : Nat) : Nat :=
  match s.chanGroups c with
  | [] => 0
  | g :: gs => gs.foldl (fun m g => min m (s.lead g)) (s.lead g)

/-- The positions beyond HPOS, as registered by cycle `t`, at which some entry on the channel begins or ends, with their domain
and distance. -/
def State.changePoints (s : State) (c t : Nat) : List (Nat × Nat × Nat) :=
  (s.chanGroups c).flatMap (fun g =>
    let d := s.groupDom g
    let h := s.hposBy d t
    ((s.group g).entries.flatMap (fun e => if e.committed then [e.fpos, posAdd e.fpos e.dur] else [])).filterMap
      (fun p => if reached h p then none else some ((posDiff p h).toNat, d, p)))

/-- The nearer of two change points; on a tie the lower domain. -/
def nearer (a b : Nat × Nat × Nat) : Nat × Nat × Nat :=
  if b.1 < a.1 ∨ (b.1 = a.1 ∧ b.2.1 < a.2.1) then b else a

/-- P*: the least position beyond HPOS at which the channel's state differs from the state before (R384 rule 2). -/
def State.nextChange (s : State) (c t : Nat) : Option (Nat × Nat) :=
  match (s.changePoints c t).filter (fun x => s.chanAt c x.2.1 x.2.2 t != s.chanAt c x.2.1 (posAdd x.2.2 (-1)) t) with
  | [] => none
  | x :: xs => some (xs.foldl nearer x).2

/-! Frames and strobes (R383, R384). -/

/-- The state required of a shift (R384 rule 5). -/
def State.required (s : State) (c : Nat) (f : Shift) (t : Nat) : Nat :=
  if f.immediate then s.chanNow c t else s.chanAt c f.dom f.pos t

/-- Retired entries matter only while a shift of the group's channel is under way. -/
def State.forgetPast (s : State) (c : Nat) : State :=
  forEach (upTo 16) s (fun g s =>
    if s.groupTgt g = 0 ∧ s.groupCh g = c ∧ (s.group g).past ≠ [] then s.setGroup g { s.group g with past := [] } else s)

/-- Replace the shift of a channel. -/
def State.setShift (s : State) (c : Nat) (x : Option Shift) : State := s.setChan c { s.chan c with shift := x }

/-- A shift is under way: SHIFT (Table 14-9). -/
def State.shifting (s : State) (c : Nat) : Bool :=
  match (s.chan c).shift with | some f => decide (f.start ≤ s.sclk) | none => false

/-- A frame starts in cycle `at`. -/
def State.startFrame (s : State) (c : Nat) (imm : Bool) (d p st at_ : Nat) : State :=
  s.setShift c (some { immediate := imm, dom := d, pos := p, state := st, start := at_ })

/-- Rule 5 of R384 for one channel: a shift whose required state has changed by cycle `t` is abandoned and counted. -/
def State.abandonStale (s : State) (c t : Nat) : State :=
  match (s.chan c).shift with
  | some f => if s.required c f t = f.state then s else (s.setShift c none).addReg (kChan c 5) 1
  | none => s

/-- Rule 1 of R384 for one channel: with no shift and LAT inactive, a state at HPOS that differs from the latched state
starts an immediate frame, no earlier than `at`. -/
def State.seekFrame (s : State) (c t at_ : Nat) : State :=
  match (s.chan c).shift, (s.chan c).latEnd with
  | none, none =>
    let s := s.forgetPast c
    let st := s.chanNow c t
    if st = (s.chan c).latched then s else s.startFrame c true 0 0 st (max at_ (s.chan c).freeAt)
  | _, _ => s

/-- Direct outputs owned by RUNNING or STOPPING groups (Table 14-10). -/
def State.ownedDo (s : State) : Nat :=
  (upTo 16).foldl (fun m g =>
    if s.groupTgt g = 1 ∧ s.active (fGroup g) then m ||| (s.groupBits g % 65536) else m) 0

/-- The levels the direct outputs take: their groups' state by cycle `t`, or the manual outputs (R386). -/
def State.doLevels (s : State) (t : Nat) : Nat :=
  let owned := s.ownedDo
  let drive := (upTo 16).foldl (fun m g =>
    if s.groupTgt g = 1 then m ||| (s.openBy g t * 2 ^ s.tBase g) else m) 0
  ((drive &&& owned) ||| (s.reg (key 0x2630 2) &&& (65535 ^^^ owned))) % 65536

/-- The output registers of the direct outputs take levels; while the link is good the latches of the field section follow
the timed lane (R386, R403). -/
def State.driveDo (s : State) (v : Nat) : State :=
  let s := s.setReg (key 0x2630 3) v
  if s.field.link && !s.field.awaiting then
    { s with field := { s.field with
        latches := v
        before := s.field.before.filter (fun p => decide (s.sclk < p.1 + 100)) ++ [(s.sclk, s.field.latches)] } }
  else s

/-- A cause of a change of valves is registered in cycle `c`: the state is judged in the next cycle (R384 rules 1 and 5,
R386). -/
def State.causes (s : State) (c : Nat) : State := s.opens (c + 1) .judge

/-- The state of every channel and output is judged as a cycle opens, after the causes of the cycle before: a stale shift is
abandoned, an immediate frame starts in the next cycle, in which the direct outputs switch too (R384 rules 1 and 5, R386). -/
def State.judged (s : State) : State :=
  let c := s.sclk
  let s := forEach (upTo 4) s (fun ch s => (s.abandonStale ch s.passed).seekFrame ch s.passed (c + 1))
  s.opens (c + 1) (.drive (s.doLevels s.passed))

/-- The groups whose valves a change of the channel's bits touches: those on the channel, and those that have just
left it. -/
def State.touched (s : State) (c diff : Nat) : List Nat :=
  (upTo 16).filter (fun g =>
    ((s.chanGroups c).contains g || (s.chan c).leaving.contains g) && (s.groupBits g &&& diff) != 0)

/-- LAT rises in the present cycle with the state that the shift carries; event 190h + g for each group whose valves change
(R384). An abandoned shift is not strobed. -/
def State.strobe (s : State) (c : Nat) (late : Bool) : State :=
  match (s.chan c).shift with
  | none => s
  | some f =>
    let at_ := s.sclk
    let gs := s.touched c (f.state ^^^ (s.chan c).latched)
    let s := s.setShift c none
    let s := s.setChan c { s.chan c with latched := f.state, latEnd := some (at_ + s.latWidth c), leaving := [] }
    let s := s.addReg (kChan c 4) 1
    let s :=
      if late then
        forEach gs ((s.addReg (kChan c 6) 1).setBit (kChan c 2) 1 true) (fun g s => s.addReg (kGroup g 0x0D) 1)
      else s
    forEach gs s (fun g s => s.raiseAt (evStrobe g) at_)

/-- LAT of a channel rises in cycle `c`, unless the shift is abandoned as that cycle opens. -/
def State.strobes (s : State) (ch c : Nat) (late : Bool) : State :=
  s.defer { tick := 12 * c, close := false, rank := 1, act := .strobe ch late }

/-! Commit and report (R377, R379). -/

/-- Words A and B of a verdict record (16 Table 16-9). -/
def verdWords (g : Nat) (e : FireEntry) : Nat × Nat :=
  (b2n e.late * 2 ^ 55 + b2n e.dflt * 2 ^ 54 + (if e.verdict = some true then 2 else 1) * 2 ^ 52 + g * 2 ^ 48 + e.fpos,
   e.claimKey * 2 ^ 32 + e.first * 2 ^ 16 + e.dur)

/-- A committed entry enters the verdict queue of process data, or is dropped and counted (16 R426). -/
def State.pushPd (s : State) (g : Nat) (e : FireEntry) : State :=
  let w := verdWords g e
  if s.pdQueue.length < 256 then
    { s with pdQueue := s.pdQueue ++ [{ num := s.pdNext, a := w.1, b := w.2 }], pdNext := (s.pdNext + 1) % 2 ^ 32 }
  else (s.addReg (key 0x6001 3) 1).countIn (s.groupDom g) 0x2900 0x11

/-- A committed entry enters the verdict queue of each NET port that takes verdict records (18 R453). -/
def State.pushNet (s : State) (g : Nat) (e : FireEntry) : State :=
  forEach [0, 1] s (fun n s =>
    if s.running (fNet n) && s.bit' (key (0x2700 + n) 0x0F) 7 then
      let q := tget (fun _ => []) s.netQueue n
      let w := verdWords g e
      if q.length < 4096 then
        let k := tget (fun _ => 0) s.netNext n
        { s with netQueue := tset (fun _ => []) s.netQueue n
                   (q ++ [{ num := k, a := w.1, b := w.2, mask := e.mask, t32 := s.t32 }]),
                 netNext := tset (fun _ => 0) s.netNext n ((k + 1) % 2 ^ 32) }
      else s.addReg (key (0x2700 + n) 0x17) 1
    else s)

/-- An entry is reported under the flags of its own route (R379). -/
def State.reportEntry (s : State) (g : Nat) (e : FireEntry) : State :=
  let r := s.reg (key 0x2600 (1 + e.route))
  let s := if bit r 5 then s.pushPd g e else s
  if bit r 6 then s.pushNet g e else s

/-- The record of TYPE 05h of a default (20 Table 20-5). -/
def defaultRec (g d : Nat) (e : FireEntry) : EvRec :=
  { type := 5, late := e.late, what := g, lpos := some (d, e.fpos),
    data := e.claimKey * 2 ^ 32 + e.first * 2 ^ 16 + e.dur }

/-- Under ANY, a PASS entry retires in the cycle in which it is committed (R375). -/
def State.staysAfterCommit (s : State) (g : Nat) (e : FireEntry) : Bool :=
  s.combAll g || e.verdict == some true

/-- Put an entry at the end of a platform queue and keep the high-water mark. -/
def State.addEntry (s : State) (g : Nat) (e : FireEntry) : State :=
  let s := s.setGroup g { s.group g with entries := (s.group g).entries ++ [e] }
  let n := (s.group g).entries.length
  if s.reg (kGroup g 0x10) < n then s.setReg (kGroup g 0x10) n else s

/-- Retire the entries of a group that pass a test, keeping them while a shift may need them. -/
def State.retireIf (s : State) (g : Nat) (t : FireEntry → Bool) : State :=
  let u := s.group g
  if u.entries.any t then
    s.setGroup g { u with entries := u.entries.filter (fun e => !t e), past := u.past ++ u.entries.filter t }
  else s

/-- An entry is committed by its own verdict in cycle `c`: event 180h + g, its counter, its reports (R377, R379). -/
def State.commitOwn (s : State) (g c : Nat) (e : FireEntry) : State :=
  ((s.raiseAt (evCommit g) c).addReg (kGroup g 8) 1).reportEntry g e

/-- A claim whose deadline has passed takes the group's default verdict (R377). -/
def State.takeDefault (s : State) (g : Nat) (e : FireEntry) : State :=
  let e' := { e with verdict := some (s.defEject g), committed := true, dflt := true }
  let u := s.group g
  let es := u.entries.map (fun x => if x = e then e' else x)
  let s := s.setGroup g { u with entries := if s.staysAfterCommit g e' then es else es.filter (fun x => x != e') }
  let s := ((s.addReg (kGroup g 9) 1).setReg (kGroup g 0x0E) e.fpos).countIn (s.groupDom g) 0x2900 0x0E
  (s.report (defaultRec g (s.groupDom g) e')).reportEntry g e'

/-- Undecided claims of `g` that pass a test and whose deadline was reached in cycle `c` or earlier. -/
def State.overdue (s : State) (g c : Nat) (t : FireEntry → Bool) : List FireEntry :=
  (s.group g).entries.filter (fun e =>
    e.claim && e.verdict == none && t e && s.reachedBy (s.groupDom g) c (posAdd e.fpos (-(s.lead g : Int))))

/-- Every overdue claim that passes a test takes the default. -/
def State.defaultAll (s : State) (g c : Nat) (t : FireEntry → Bool) : State :=
  forEach (s.overdue g c t) s (fun e s => s.takeDefault g e)

/-! Fire-order records (R372 to R378). -/

/-- A fire-order record (Table 14-1). -/
structure FireRec where
  w0 : Nat
  w1 : Nat
  w2 : Nat
  w3 : Nat
  deriving DecidableEq, Repr

/-- The record of 32 bytes. -/
def fireRec (bs : Bytes) : FireRec := ⟨leAt bs 0 8, leAt bs 8 8, leAt bs 16 8, leAt bs 24 8⟩

/-- VERD. -/
def FireRec.verd (r : FireRec) : Nat := bits r.w0 39 38
/-- CMD is DECIDE. -/
def FireRec.isDecide (r : FireRec) : Bool := bits r.w0 7 0 == 2
/-- ROUTE. -/
def FireRec.route (r : FireRec) : Nat := bits r.w0 37 32
/-- FPOS. -/
def FireRec.fpos (r : FireRec) : Nat := bits r.w1 47 0
/-- DUR. -/
def FireRec.dur (r : FireRec) : Nat := bits r.w1 63 48
/-- KEY. -/
def FireRec.claimKey (r : FireRec) : Nat := bits r.w2 63 32
/-- FIRST. -/
def FireRec.first (r : FireRec) : Nat := bits r.w2 15 0

/-- Cause 01h: a reserved field or code, or a DECIDE that is UNDECIDED. -/
def FireRec.malformed (r : FireRec) : Bool :=
  bits r.w0 47 40 != 0 || bits r.w0 31 8 != 0 || bits r.w2 31 16 != 0 || r.verd == 3
  || !(bits r.w0 7 0 == 1 || bits r.w0 7 0 == 2)
  || (r.isDecide && (r.verd == 0 || (r.w3 == 0 && r.first != 0)))

/-- Every named valve lies in the group (R374). -/
def State.valvesIn (s : State) (g : Nat) (r : FireRec) : Bool :=
  let m := r.w3 * 2 ^ r.first
  decide (m % 2 ^ s.mvBase g = 0) && decide (m < 2 ^ (s.mvBase g + s.vcnt g))

/-- The cause of refusal of a record (Table 14-2), in the order of the table; 0 = none. `dom` is the sending job's
domain. The record enters in cycle `c`. -/
def State.refusalCause (s : State) (dom : Option Nat) (r : FireRec) (c : Nat) : Nat :=
  let rt := s.reg (key 0x2600 (1 + r.route))
  let g := bits rt 3 0
  let d := s.groupDom g
  let late := s.reachedBy d (c - 1) (posAdd r.fpos (-(s.lead g : Int)))
  let same := (s.group g).entries.filter (fun e => e.claim && e.claimKey == r.claimKey)
  if r.malformed then 1
  else if !bit rt 7 then 2
  else if !s.running (fGroup g) then 3
  else if (match dom with | some x => x != d | none => false) then 4
  else if (r.w3 != 0 && !s.valvesIn g r) || (!r.isDecide && (r.w3 == 0 || r.dur == 0)) || 65535 < r.first + 63 then 5
  else if !r.isDecide && 1024 ≤ (s.group g).entries.length then 6
  else if !r.isDecide && r.verd == 0 && !same.isEmpty then 7
  else if r.isDecide && !same.any (fun e => e.fpos == r.fpos && (e.verdict == none || e.dflt)) then 8
  else if (2 ^ 24 : Int) ≤ posDiff r.fpos (s.hpos d) then 9
  else if r.isDecide && !same.any (fun e => e.fpos == r.fpos && e.verdict == none) then 10
  else if !r.isDecide && late && reached (s.hpos d) r.fpos then 10
  else 0

/-- A refused record is counted and recorded (R373). -/
def State.refuseRec (s : State) (src cause : Nat) (r : FireRec) : State :=
  let v := bits r.w0 63 48 * 2 ^ 48 + r.claimKey * 2 ^ 16 + cause * 256 + src
  let s := (s.addReg (key 0x2600 0x41) 1).setReg (key 0x2600 0x42) v
  if 3 ≤ cause then
    let g := bits (s.reg (key 0x2600 (1 + r.route))) 3 0
    (s.addReg (kGroup g 0x0C) 1).countIn (s.groupDom g) 0x2900 0x0D v
  else s.count 0x2900 0x0D v

/-- The new entry of an ORDER. -/
def FireRec.entry (r : FireRec) : FireEntry :=
  { route := r.route, fpos := r.fpos, dur := r.dur, claimKey := r.claimKey, first := r.first, mask := r.w3,
    claim := r.verd == 0, verdict := if r.verd = 0 then none else some (r.verd == 2) }

/-- A late ORDER enters committed with the default verdict (R378). -/
def State.enterLate (s : State) (g : Nat) (r : FireRec) : State :=
  let e := { r.entry with verdict := some (s.defEject g), committed := true, dflt := true, late := true }
  let s := if s.staysAfterCommit g e then s.addEntry g e else s
  let s := (s.addReg (kGroup g 0x0A) 1).countIn (s.groupDom g) 0x2900 0x0F
  (s.report (defaultRec g (s.groupDom g) e)).reportEntry g e

/-- A DECIDE sets the verdict of its claim (R375): duration and valves are replaced where they are not 0. -/
def State.decideClaim (s : State) (g c : Nat) (r : FireRec) : State :=
  match (s.group g).entries.find? (fun e => e.claim && e.claimKey == r.claimKey && e.fpos == r.fpos
      && e.verdict == none) with
  | none => s
  | some e =>
    let e' := { e with verdict := some (r.verd == 2), committed := true,
                       dur := if r.dur = 0 then e.dur else r.dur,
                       first := if r.w3 = 0 then e.first else r.first,
                       mask := if r.w3 = 0 then e.mask else r.w3 }
    let u := s.group g
    let es := u.entries.map (fun x => if x = e then e' else x)
    let s := s.setGroup g { u with entries := if s.staysAfterCommit g e' then es else es.filter (fun x => x != e') }
    s.commitOwn g c e'

/-- A record for group `g` enters in cycle `c`, or is refused (R372 to R378). -/
def State.admitRec (s : State) (src : Nat) (dom : Option Nat) (r : FireRec) (c g : Nat) : State :=
  let cause := s.refusalCause dom r c
  if cause ≠ 0 then s.refuseRec src cause r
  else if r.isDecide then s.decideClaim g c r
  else if s.reachedBy (s.groupDom g) (c - 1) (posAdd r.fpos (-(s.lead g : Int))) then s.enterLate g r
  else if r.verd = 0 then s.addEntry g r.entry
  else
    let e := { r.entry with committed := true }
    let s := if s.staysAfterCommit g e then s.addEntry g e else s
    s.commitOwn g c e

/-- A fire-order record from `src` (a logical core, or 10h) enters in the present cycle, or is refused (R372). Claims overdue by
then have taken the default (R377). -/
def State.enterRec (s : State) (src : Nat) (dom : Option Nat) (r : FireRec) : State :=
  let c := s.sclk
  let g := bits (s.reg (key 0x2600 (1 + r.route))) 3 0
  ((s.defaultAll g (c - 1) (fun _ => true)).admitRec src dom r c g).causes c

/-- A fire-order record is registered at the router in cycle `n`: it enters in the next cycle, by ascending core, then those of
the field bus, then in the order of their writes (R372). -/
def State.routeRec (s : State) (n src : Nat) (dom : Option Nat) (r : FireRec) : State :=
  s.closes (n + 1) (6 + min src 6) (.fire src dom r.w0 r.w1 r.w2 r.w3)

/-! What a domain's position brings about (R375, R381, R384, R386). -/

/-- While the veto of a group is active, every EJECT entry whose F is reached by cycle `t` and whose end is not is marked vetoed and
counted once (R381). -/
def State.markVetoed (s : State) (g t : Nat) : State :=
  if s.vetoActive g then
    let h := s.hposBy (s.groupDom g) t
    let hit := fun (e : FireEntry) => e.verdict == some true && e.committed && !e.vetoed && e.covers h
    let u := s.group g
    let n := (u.entries.filter hit).length
    if n = 0 then s
    else (s.setGroup g { u with entries := u.entries.map (fun e => if hit e then { e with vetoed := true } else e) })
      |>.addReg (kGroup g 0x0B) n
  else s

/-- Every group marks its vetoed entries. -/
def State.markAll (s : State) : State := forEach (upTo 16) s (fun g s => s.markVetoed g s.passed)

/-- EJECT entries that have opened a valve are counted once (Table 14-7, 11h). -/
def State.countOpened (s : State) (g t : Nat) : State :=
  let h := s.hposBy (s.groupDom g) t
  let o := s.openAt g h
  let hit := fun (e : FireEntry) =>
    e.verdict == some true && e.committed && !e.vetoed && !e.opened && e.covers h && (s.valves g e &&& o) != 0
  let u := s.group g
  let n := (u.entries.filter hit).length
  if n = 0 then s
  else (s.setGroup g { u with entries := u.entries.map (fun e => if hit e then { e with opened := true } else e) })
    |>.addReg (kGroup g 0x11) n

/-- A channel's complete frame for a position that is registered as reached in cycle `c` is strobed at the next edge
(R384 rule 3). -/
def State.alignedStrobe (s : State) (ch d c : Nat) : State :=
  match (s.chan ch).shift with
  | some f => if !f.immediate && f.complete && f.dom == d && reached (s.hposBy d c) f.pos then s.strobes ch (c + 1) false else s
  | none => s

/-- The groups of domain `d` after positions of it are registered as reached in cycle `c`: LAT and the direct outputs switch at
the next edge (R384, R386). -/
def State.groupsReached (s : State) (d c : Nat) : State :=
  let gs := (upTo 16).filter (fun g => s.groupDom g == d && s.active (fGroup g))
  let s := forEach gs s (fun g s => (s.markVetoed g c).countOpened g c)
  let s := forEach gs s (fun g s => s.retireIf g (fun e => reached (s.hposBy d c) (posAdd e.fpos e.dur)))
  let s := forEach (upTo 4) s (fun ch s => s.alignedStrobe ch d c)
  (s.opens (c + 1) (.drive (s.doLevels c))).causes c

end Sys2Proof.Machine
end

