-- ==== Sys2Proof/Machine/Contexts.lean ====
section
/-! DEFINITION. Contexts as the sequencers and the scheduler share them: the crossing of clocks, timetable fetch,
semaphores and the hub, credits, ranking and running positions (05 R125 to R153, 09 R247 to R268, 10 R284 to R286). -/
namespace Sys2Proof.Machine

/-! Counts and crossings (R284 to R286). -/

/-- CCLK count since the last alignment. -/
def State.ccount (s : State) : Nat := s.cclk - s.alignC

/-- Offset of Table 10-2. -/
def crossOffset (i : Nat) : Nat :=
  match i with
  | 0 => 6
  | 1 => 8
  | 2 => 10
  | 3 => 13
  | _ => 15

/-- The SCLK cycle in which an event of CCLK cycle `n` is registered (R286). -/
def State.toSclk (s : State) (n : Nat) : Nat :=
  let m := n - s.alignC
  s.alignS + 5 * (m / 12) + 5 * (m % 12) / 12 + 3

/-- The first frame boundary at or after CCLK cycle `n` (R284). -/
def State.frameStart (s : State) (n : Nat) : Nat := s.alignC + roundUp (n - s.alignC) 96

/-- Deterministic mode is in force (R288). -/
def State.det (s : State) : Bool := s.bit' (key 0x2010 2) 0

/-- Frames removed in every window of 16 for a core (21 R500). -/
def State.removedFrames (s : State) (core : Nat) : Nat :=
  max s.limits.power (if s.det then s.limits.die else tget (fun _ => 0) s.limits.cores core)

/-- The present frame runs on a core (10 R287): the last frames of a window of 16 are removed. -/
def State.frameRuns (s : State) (core : Nat) : Bool := decide (s.ccount / 96 % 16 + s.removedFrames core < 16)

/-- The cycle in which an event of CCLK cycle `c` is registered, where whole frames are removed die-wide (R287): cycle 0 of
the next frame that runs. -/
def State.pastRemoved (s : State) (c : Nat) : Nat :=
  let f := (c - s.alignC) / 96
  if s.det && decide (16 ≤ f % 16 + s.removedFrames 0) then s.alignC + (f / 16 + 1) * 1536 else c

/-- The CCLK cycle in which an event of SCLK cycle `n` is registered (R285, R287). -/
def State.toCclk (s : State) (n : Nat) : Nat :=
  let m := n - s.alignS
  s.pastRemoved (s.alignC + 12 * (m / 5) + crossOffset (m % 5))

/-- Whole frames removed in the first `f` frames after an alignment, with `n` removed of every 16. -/
def framesCut (f n : Nat) : Nat := f / 16 * n + (f % 16 + n - 16)

/-- Cycles lost in the first `c` cycles after an alignment, with `n` frames of every 16 removed. -/
def cyclesCut (c n : Nat) : Nat :=
  let f := c / 96
  96 * framesCut f n + (if 16 ≤ f % 16 + n then c % 96 else 0)

/-! Jobs and images. -/

/-- Hidden state of job `j`. -/
def State.job (s : State) (j : Nat) : JobUnit := tget (fun _ => {}) s.jobs j
/-- Replace it. -/
def State.setJob (s : State) (j : Nat) (x : JobUnit) : State := { s with jobs := tset (fun _ => {}) s.jobs j x }
/-- 2510h + j, subindex `sub`. -/
def kJob (j sub : Nat) : Nat := key (0x2510 + j) sub
/-- 2400h + c, subindex `sub`. -/
def kCore (c sub : Nat) : Nat := key (0x2400 + c % 8) sub
/-- The stored image of a job (R273); empty when none is stored. -/
def State.image (s : State) (j : Nat) : Bytes := (tfind s.images j).getD []
/-- Line domain of a job's image. -/
def State.jobDom (s : State) (j : Nat) : Option Nat :=
  if (s.image j).length < 64 then none else some (ozjDomain (s.image j))
/-- Partition of a job. -/
def State.jobPart (s : State) (j : Nat) : Nat := s.field' (kJob j 1) 2 0
/-- The image entry of a job in the cache. -/
def State.imageEntry (s : State) (j : Nat) : Option CacheEntry := s.cache.find? (fun e => e.img && e.id == j)
/-- The entry of a model in the cache. -/
def State.modelEntry (s : State) (id : Nat) : Option CacheEntry := s.cache.find? (fun e => !e.img && e.id == id)

/-- Keys of the contexts of job `j`. -/
def State.jobCtxs (s : State) (j : Nat) : List Nat := (s.ctxs.map Prod.fst).filter (fun k => ctxJob k == j)
/-- Keys of the contexts placed on core `c`. -/
def State.coreCtxs (s : State) (c : Nat) : List Nat := (s.ctxs.filter (fun x => x.2.core == c)).map Prod.fst
/-- The context in slot `n` of core `c`. -/
def State.slotCtx (s : State) (c n : Nat) : Option (Nat × Ctx) :=
  s.ctxs.find? (fun x => x.2.core == c && x.2.slot == some n)

/-! The timetable (R127 to R132). -/

/-- What the sequencer finds at a context's entry index. -/
inductive Fetched where
  /-- Timetable fault, cause 6h. -/
  | fault
  | loop (lc count tgt : Nat)
  | stop
  | issue (op : Nat) (ws : List Nat)
  deriving DecidableEq, Repr

/-- Slots of a descriptor of an OP (Table 5-3); none for FFh and reserved codes. -/
def opSlots (op : Nat) : Option Nat :=
  match op with
  | 0x10 => some 1
  | 0x20 => some 2
  | 0x30 => some 2
  | 0x40 => some 1
  | 0x41 => some 1
  | 0x42 => some 1
  | 0x43 => some 1
  | 0x44 => some 1
  | _ => none

/-- Word `i` of eight bytes at a stack-memory address. -/
def State.stackWord (s : State) (a : Nat) : Nat := leNat (s.stack.bytes a 8)

/-- The entry of a context with DELTA; a poisoned word is a timetable fault (Table 7-5). -/
def State.fetch (s : State) (k : Nat) (x : Ctx) : Nat × Fetched :=
  let j := ctxJob k
  let l := ctxLane k
  let img := s.image j
  match s.imageEntry j, ozjFind img 1 l, ozjFind img 2 l with
  | some e, some tt, some dt =>
    if tt.param ≤ x.entry then (0, .fault)
    else
      let a := e.base + tt.off + 8 * x.entry
      let w := s.stackWord a
      let delta := bits w 47 24
      let low := bits w 23 0
      if s.stack.tainted 8 a 8 then (delta, .fault)
      else match bits w 63 62 with
        | 0 =>
          if bits w 61 48 ≠ 0 ∨ dt.param ≤ low then (delta, .fault)
          else
            let d := e.base + dt.off + 32 * low
            let op := s.stackWord d % 256
            match opSlots op with
            | none => (delta, .fault)
            | some n =>
              if dt.param < low + n ∨ s.stack.tainted 8 d (32 * n) then (delta, .fault)
              else (delta, .issue op ((upTo (4 * n)).map (fun i => s.stackWord (d + 8 * i))))
        | 1 => if tt.param ≤ low then (delta, .fault) else (delta, .loop (bits w 61 60) (bits w 59 48) low)
        | 2 => if bits w 61 48 ≠ 0 ∨ low ≠ 0 then (delta, .fault) else (delta, .stop)
        | _ => (delta, .fault)
  | _, _, _ => (0, .fault)

/-- Due cycle of the next entry (R128, R258); past the last entry it is the cycle after the completion. -/
def State.dueOf (s : State) (k : Nat) (x : Ctx) : Nat := x.dueAt.getD (x.ref + (s.fetch k x).1 + 1)

/-- The context holds a shared semaphore or a credit. -/
def Ctx.holds (x : Ctx) : Bool := !x.held.isEmpty || x.credits.any (fun c => c.2 != 0)

/-- The yield grace has run out by cycle `c`, and the context holds nothing: no further entry is issued (R267, R268). -/
def Ctx.graceOver (x : Ctx) (c : Nat) : Bool :=
  !x.holds && (match x.graceAt with | some g => decide (g < c) | none => false)

/-- The sequencer may issue the context's next entry now: it is in place with a running position, runs, and the entry is
due (R128, R252). -/
def State.canIssue (s : State) (k : Nat) (x : Ctx) : Bool :=
  x.pos && x.place == .inPlace && x.move.isNone && (x.waiting == .none || x.cancelled) && !x.forced &&
  !x.graceOver s.cclk &&
  s.active (fJob (ctxJob k)) && s.frameRuns x.core &&
  decide (s.dueOf k x ≤ s.cclk)

/-- An entry is issued: counts of entries and slip (Table 5-14). -/
def State.countIssue (s : State) (k : Nat) (x : Ctx) : State :=
  ((s.addReg (kCore x.core 6) 1).addReg (kCore x.core 7) (s.cclk - s.dueOf k x)).onCtx k (fun y => { y with stepOne := false })

/-- The present entry completes in cycle `c` and the next becomes `e`. -/
def Ctx.complete (x : Ctx) (c e : Nat) : Ctx :=
  { x with entry := e, ref := c, dueAt := none, waiting := .none, cancelled := false, timer := none, satAt := none }

/-! Holding (R149, R150, R268). -/

/-- Load the hold timer when holding begins in cycle `c`, stop it when it ends. -/
def Ctx.holdFrom (x : Ctx) (hold c : Nat) (before : Bool) : Ctx :=
  if x.holds then (if before then x else { x with holdDue := some (c + hold), overrun := false })
  else { x with holdDue := none, overrun := false }

/-- Maximum hold time of a context's job. -/
def State.holdTime (s : State) (k : Nat) : Nat := ozjHold (s.image (ctxJob k))

/-- The hold timer has expired by cycle `c`, and nothing has come of it yet (R268). -/
def Ctx.holdOver (x : Ctx) (c : Nat) : Bool :=
  !x.overrun && (match x.holdDue with | some d => decide (d < c) | none => false)

/-! Semaphores (R144 to R149). -/

/-- A semaphore of a context. -/
def Ctx.sem (x : Ctx) (n : Nat) : Sem := tget (fun _ => {}) x.sems n
/-- Replace it. -/
def Ctx.setSem (x : Ctx) (n : Nat) (v : Sem) : Ctx := { x with sems := tset (fun _ => {}) x.sems n v }

/-- A count raised by an amount, saturating at 65,535. -/
def Sem.raise (v : Sem) (n : Nat) (stamp : Option Nat) : Sem :=
  { count := min (v.count + n) 65535, stamp := stamp.getD v.stamp }

/-- The pending record takes a signal (R256). A sum that has saturated at 65,535 is kept as 65,536, so that the saturation is
counted when it is applied. -/
def Ctx.note (x : Ctx) (n amount : Nat) (stamp : Option Nat) : Ctx :=
  let old := tget (fun _ => (0, none)) x.record n
  { x with record := tput x.record n (min (old.1 + amount) 65536, stamp.orElse (fun _ => old.2)) }

/-- The context takes signals directly: it is resident and is not being saved or restored (R256). -/
def Ctx.listens (x : Ctx) : Bool :=
  x.place != .siding && (match x.move with | some (.save, _) => false | some (.restore, _) => false | _ => true)

/-- Key of a shared semaphore of a partition. -/
def hubKey (p n : Nat) : Nat := 64 * p + n
/-- A shared semaphore. -/
def State.hubSem (s : State) (p n : Nat) : Sem := tget (fun _ => {}) s.hub (hubKey p n)
/-- Replace it. -/
def State.setHub (s : State) (p n : Nat) (v : Sem) : State :=
  { s with hub := tset (fun _ => {}) s.hub (hubKey p n) v }

/-- Fields of a wait descriptor (Table 5-9). -/
def waitSem (w : Nat) : Nat := bits w 13 8
/-- VAL of a wait. -/
def waitVal (w : Nat) : Nat := bits w 31 16
/-- KEEP of a wait. -/
def waitKeep (w : Nat) : Bool := bit w 14

/-- The count that a context's wait tests, its pending record included. -/
def State.waitCount (s : State) (k : Nat) (x : Ctx) : Nat :=
  let n := waitSem x.word
  if n < 56 then min 65535 ((x.sem n).count + (tget (fun _ => (0, none)) x.record n).1)
  else (s.hubSem (s.jobPart (ctxJob k)) n).count

/-- The timer of an issued wait or acquisition has not expired by cycle `c` (R63). -/
def Ctx.inTime (x : Ctx) (c : Nat) : Bool := match x.timer with | some d => decide (c ≤ d) | none => true

/-- A wait on a private semaphore that is issued completes in cycle `c` when its test succeeds (R148); a cancelled one
whose count is satisfied records the cycle (R257). A wait whose timer has expired no longer completes so (R63). -/
def State.wakeOne (s : State) (c k : Nat) : State :=
  match s.ctx? k with
  | none => s
  | some x =>
    if x.waiting == .wait && decide (waitVal x.word ≤ s.waitCount k x) then
      if x.cancelled then (if x.satAt.isNone then s.setCtx k { x with satAt := some c } else s)
      else if waitSem x.word < 56 ∧ x.listens ∧ x.inTime c then
        let v := x.sem (waitSem x.word)
        let x' := if waitKeep x.word then x else x.setSem (waitSem x.word) { v with count := v.count - waitVal x.word }
        s.setCtx k (x'.complete c (x.entry + 1))
      else s
    else s

/-! Ranking and running positions (R259 to R262). -/

/-- A context is blocked (R259). -/
def State.blocked (s : State) (k : Nat) (x : Ctx) : Bool :=
  match x.waiting with
  | .wait =>
    if x.cancelled then
      !(decide (waitVal x.word ≤ s.waitCount k x) || (match x.timer with | some d => decide (d ≤ s.cclk) | none => false))
    else true
  | .credit => !x.cancelled
  | _ => false

/-- A context is ready (R259). -/
def State.ready (s : State) (k : Nat) (x : Ctx) : Bool :=
  !s.blocked k x && s.running (fJob (ctxJob k)) && !(s.job (ctxJob k)).leaving && (!x.halted || x.stepOne)

/-- Context `a` ranks above context `b` (R260). -/
def State.above (s : State) (a b : Nat) : Bool :=
  let sa := s.reg (kJob (ctxJob a) 6)
  let sb := s.reg (kJob (ctxJob b) 6)
  let la := (s.ctx a).leftAt
  let lb := (s.ctx b).leftAt
  decide (sa < sb) || (sa == sb && (decide (la < lb) || (la == lb && decide (a < b))))

/-- Insert a context by rank. -/
def State.rankIn (s : State) (k : Nat) : List Nat → List Nat
  | [] => [k]
  | a :: as => if s.above k a then k :: a :: as else a :: s.rankIn k as

/-- Contexts from the highest rank down. -/
def State.ranked (s : State) (ks : List Nat) : List Nat := ks.foldl (fun r k => s.rankIn k r) []

/-- Running positions of a core (R126, Table 10-3). -/
def State.positions (s : State) : Nat := if s.det then 1 else 2

/-- A context that has received a running position resumes in cycle `r`, if it has been away (R258), or starts there. One that
leaves again before it issues has been quiescent since `r`. -/
def Ctx.granted (x : Ctx) (r : Nat) : Ctx :=
  if x.away then
    let x := { x with quietAt := Max.max x.quietAt r }
    match x.waiting with
    | .yield => ({ x with away := false, pos := true } : Ctx).complete r (x.entry + 1)
    | .none => { x with away := false, pos := true, dueAt := some (r + x.dueLeft) }
    | _ => { x with away := false, pos := true, dueAt := some r }
  else { x with pos := true, ref := Max.max x.ref r }

/-- A context receives a running position by a decision in cycle `c`: at once, or in deterministic mode at the next
frame boundary. -/
def State.grantTo (s : State) (k c : Nat) : State :=
  match s.ctx? k with
  | none => s
  | some x => (s.setCtx k (x.granted (if s.det then s.frameStart c else c))).addReg (kJob (ctxJob k) 0x0A) 1

/-- A context gives up its running position in cycle `c`. -/
def Ctx.leave (x : Ctx) (c : Nat) : Ctx := { x with pos := false, leftAt := c, graceAt := none, forced := false }

/-- Ready contexts of a core that are in place and hold no position in cycle `c`, by rank. One that gave up its position in
this cycle ranks again from the next (R266). -/
def State.claimants (s : State) (c core : Nat) : List Nat :=
  s.ranked ((s.coreCtxs core).filter (fun k =>
    let x := s.ctx k
    !x.pos && x.place == .inPlace && x.move.isNone && s.ready k x && !(x.away && x.leftAt == c)))

/-- The blocked holders of a position that may give it up: they hold no shared semaphore and no credit (R264). -/
def State.yielders (s : State) (core : Nat) : List Nat :=
  (s.coreCtxs core).filter (fun k => let x := s.ctx k; x.pos && s.blocked k x && !x.holds)

/-- Targets of the latest slice boundary of a core that are ready and hold no position (R263). -/
def State.openTargets (s : State) (core : Nat) : List Nat :=
  (tget (fun _ => []) s.tgts core).filter (fun k => (s.ctx? k).isSome && !(s.ctx k).pos && s.ready k (s.ctx k))

/-- Positions of a core that contexts have given up to targets, and that wait for them. -/
def State.keptFor (s : State) (core : Nat) : Nat := min (tget (fun _ => 0) s.kept core) (s.openTargets core).length

/-- One position more, or less, waits for the targets of a core. -/
def State.setKept (s : State) (core n : Nat) : State := { s with kept := tset (fun _ => 0) s.kept core n }

/-- Vacant positions of a core go to the targets in place, then to the highest-ranked ready contexts in place as far as no
target waits for them; then those whose context is blocked do (R262, R263 step 5). -/
def State.grantCore (c core : Nat) : Nat → State → State
  | 0, s => s
  | n + 1, s =>
    let ks := s.claimants c core
    let free := s.positions - ((s.coreCtxs core).filter (fun i => (s.ctx i).pos)).length
    match ks, ks.find? (fun k => (s.openTargets core).contains k) with
    | [], _ => s
    | k :: _, t =>
      if 0 < free ∧ t.isSome then State.grantCore c core n ((s.setKept core (s.keptFor core - 1)).grantTo (t.getD k) c)
      else if s.keptFor core < free then State.grantCore c core n (s.grantTo k c)
      else match s.yielders core with
        | [] => s
        | y :: _ => State.grantCore c core n ((s.onCtx y (fun x => x.leave c)).grantTo k c)

/-- What contexts torn down still occupy on a core (R269). -/
def State.coreGhosts (s : State) (core : Nat) : List Ghost := s.ghosts.filter (fun g => g.core == core && decide (s.cclk < g.until_))

/-- The lowest free slot of a core. -/
def State.freeSlot (s : State) (core : Nat) : Option Nat :=
  (upTo 4).find? (fun n => !(s.coreCtxs core).any (fun k => (s.ctx k).slot == some n) &&
    !(s.coreGhosts core).any (fun g => g.slot == n))

/-- Ready contexts of a core are restored from their sidings into its free slots at once, by rank (R262). -/
def State.restoreReady (c core : Nat) : Nat → State → State
  | 0, s => s
  | m + 1, s =>
    match s.freeSlot core, s.ranked ((s.coreCtxs core).filter (fun k =>
        let x := s.ctx k
        x.place == .siding && x.move.isNone && s.ready k x)) with
    | some n, k :: _ => State.restoreReady c core m (s.onCtx k (fun x => { x with slot := some n }.startMove .restore c))
    | _, _ => s

/-- What the scheduler does in a cycle after any change: waits complete, positions are granted, contexts restored. -/
def State.stir (s : State) (c : Nat) : State :=
  let s := forEach (s.ctxs.map Prod.fst) s (fun k s => s.wakeOne c k)
  forEach (upTo 6) s (fun core s => State.restoreReady c core 4 (State.grantCore c core 4 s))

/-! Signals. -/

/-- A signal reaches a private semaphore of a context, or its pending record, in cycle `c`; a saturation is counted
(R145, R256). -/
def State.signalCtx (s : State) (k n amount : Nat) (stamp : Option Nat) : State :=
  match s.ctx? k with
  | none => s
  | some x =>
    if x.listens then
      let v := x.sem n
      let s := s.setCtx k (x.setSem n (v.raise amount stamp))
      if 65535 < v.count + amount then s.count 0x2901 0x0B else s
    else s.setCtx k (x.note n amount stamp)

/-- An operation on a shared semaphore takes effect in the hub 8 CCLK later (R144). -/
def State.sendHub (s : State) (k inc n c : Nat) (a : HubAct) : State :=
  { s with hubOps := s.hubOps ++ [{ due := c + 8, part := s.jobPart (ctxJob k), sem := n, ctx := k, inc := inc, act := a }] }

/-- The completion signal of a context's own unit in cycle `c` (R145). -/
def State.signalOwn (s : State) (k inc n c : Nat) : State :=
  if n < 56 then (if s.isCtx k inc then (s.signalCtx k n 1 none).stir c else s)
  else s.sendHub k inc n c (.add 1)

/-- Waits in the hub on one semaphore are granted in ascending order of core, then slot (R148): the outcome reaches
each context 8 CCLK later. -/
def State.grantHub (s : State) (p n c : Nat) : State :=
  let ks := s.hubWaits.filter (fun k => waitSem (s.ctx k).word == n && s.jobPart (ctxJob k) == p)
  let order := fun k => (s.ctx k).core * 4 + (s.ctx k).slot.getD 0
  let sorted := ks.foldl (fun r k =>
    r.takeWhile (fun a => decide (order a ≤ order k)) ++ k :: r.dropWhile (fun a => decide (order a ≤ order k))) []
  forEach sorted s (fun k s =>
    let x := s.ctx k
    let v := s.hubSem p n
    if waitVal x.word ≤ v.count then
      let s := if waitKeep x.word then s else s.setHub p n { v with count := v.count - waitVal x.word }
      ({ s with hubWaits := s.hubWaits.filter (· != k) }).sendHub k x.inc n c .outcome
    else s)

/-- The hub takes an amount. -/
def State.addHub (s : State) (p n amount : Nat) (stamp : Option Nat) : State :=
  let v := s.hubSem p n
  let s := s.setHub p n (v.raise amount stamp)
  if 65535 < v.count + amount then s.count 0x2901 0x0B else s

/-- The hub takes an amount in cycle `c`; what waits is granted as the cycle closes. -/
def State.raiseHub (s : State) (p n amount : Nat) (stamp : Option Nat) (c : Nat) : State :=
  (s.addHub p n amount stamp).closesC c 0 .hubGrant

/-- Every wait in the hub that can be granted in cycle `c` is. -/
def State.grantAllHub (s : State) (c : Nat) : State :=
  forEach (upTo 48) s (fun i s => s.grantHub (i / 8) (56 + i % 8) c)

/-- What ends a holding in cycle `c` finds an expired hold timer expired (R63): its overrun is still acted on. -/
def State.holdChecked (s : State) (k c : Nat) : State :=
  if (s.ctx k).holdOver c then s.opensC s.cclk 9 (.overheld k (s.ctx k).inc) else s

/-- A context's holding of a shared semaphore ends (R149). -/
def State.endHolding (s : State) (k inc n c : Nat) : State :=
  if s.isCtx k inc then
    (s.holdChecked k c).onCtx k (fun x => { x with held := x.held.filter (fun h => h.1 != n) }.holdFrom (s.holdTime k) c x.holds)
  else s

/-- An external signal has reached CCLK (R146, R285): every lane of a RUNNING job, or the hub once. -/
def State.externalArrives (s : State) (j sem stamp : Nat) : State :=
  if s.running (fJob j) then
    if sem < 56 then (forEach (s.jobCtxs j) s (fun k s => s.signalCtx k sem 1 (some stamp))).stir s.cclk
    else (s.addHub (s.jobPart j) sem 1 (some stamp)).closesC s.cclk 0 .hubGrant
  else s

/-- An external signal is registered now, in SCLK; it crosses to CCLK (R145, R285). -/
def State.externalSignal (s : State) (j sem stamp : Nat) : State := s.opensC (s.toCclk s.sclk) 0 (.external j sem stamp)

/-! Credits (R150, R151). -/

/-- Links of a path from core `c`, by link and direction: 2 × link + direction. -/
def State.pathLinks (s : State) (c hops : Nat) (down : Bool) : List Nat :=
  let m := s.cores
  (upTo hops).map (fun i => 2 * (if down then (c + 2 * m - 1 - i) % m else (c + i) % m) + b2n down)

/-- Credits taken on a link in a direction. -/
def State.linkUsed (s : State) (l : Nat) : Nat := tget (fun _ => 0) s.linkUse l
/-- Change it. -/
def State.setLink (s : State) (l n : Nat) : State := { s with linkUse := tset (fun _ => 0) s.linkUse l n }

/-- Fields of a credit descriptor (Table 5-10). -/
def creditN (w : Nat) : Nat := bits w 15 13
/-- HOPS. -/
def creditHops (w : Nat) : Nat := bits w 12 10
/-- DIR = descending. -/
def creditDown (w : Nat) : Bool := bit w 9

/-- Credits a context holds on a link. -/
def Ctx.creditsOn (x : Ctx) (l : Nat) : Nat := tget (fun _ => 0) x.credits l

/-- Every link of the acquisition's path has N free credits. -/
def State.creditFree (s : State) (x : Ctx) (w : Nat) : Bool :=
  (s.pathLinks x.core (creditHops w) (creditDown w)).all (fun l => decide (s.linkUsed l + creditN w ≤ 4))

/-- An acquisition is granted in cycle `c`. -/
def State.takeCredits (s : State) (k : Nat) (x : Ctx) (c : Nat) : State :=
  let w := x.word
  let ls := s.pathLinks x.core (creditHops w) (creditDown w)
  let s := forEach ls s (fun l s => s.setLink l (s.linkUsed l + creditN w))
  let x' := { x with credits := ls.foldl (fun t l => tset (fun _ => 0) t l (tget (fun _ => 0) t l + creditN w)) x.credits }
  let x' := (x'.complete c (x.entry + 1)).holdFrom (s.holdTime k) c x.holds
  (s.setCtx k x').addReg (kCore x.core 0x0A) (c - x.issuedAt)

/-- Acquisitions that wait are granted in ascending order of core, then slot. -/
def State.grantCredits (s : State) (c : Nat) : State :=
  forEach (upTo 24) s (fun i s =>
    match s.slotCtx (i / 4) (i % 4) with
    | some (k, x) => if x.waiting == .credit && !x.cancelled && x.inTime c && s.creditFree x x.word then s.takeCredits k x c else s
    | none => s)

/-- A context returns every credit it holds. -/
def State.returnCredits (s : State) (x : Ctx) : State :=
  forEach x.credits s (fun p s => s.setLink p.1 (s.linkUsed p.1 - p.2))

/-! Issued work. -/

/-- A descriptor of a context is issued to a unit. -/
def State.beginWork (s : State) (k : Nat) : State := s.onCtx k (fun x => { x with work := x.work + 1 })

/-- The entry of a context that has issued a descriptor in cycle `c` completes: it goes on to the next (R128). -/
def State.goOn (s : State) (k c : Nat) : State := (s.beginWork k).onCtx k (fun x => x.complete c (x.entry + 1))

end Sys2Proof.Machine
end

