-- ==== Sys2Proof/Machine/Arbiter.lean ====
section
/-! DEFINITION. Arbitration of the memories: the ports of the tile scratchpads and accumulator stores, the slices of stack
memory, who asks for them in a cycle and who is granted (07 R192 to R196, R201, R203 to R205, R208). -/
namespace Sys2Proof.Machine

/-! Ports. Banks of all memories are numbered apart: a bank's read port and its write port are two. -/

/-- A port of bank `b` of tile scratchpad `n` = 2 · core + array (R192). -/
def tsPort (write : Bool) (n b : Nat) : Nat := 64 * n + 32 * b2n write + b

/-- A further port of bank `r` mod 3 of column half `h` of accumulator store `n` (R84). -/
def accPort (write : Bool) (n h r : Nat) : Nat := 1024 + 12 * n + 6 * b2n write + 3 * h + r % 3

/-- The ports that `len` bytes from byte `o` of the tile scratchpads need. -/
def tsPorts (write : Bool) (o len : Nat) : List Nat :=
  if len = 0 then []
  else
    let x := o % tsBytes
    (upTo (min 32 ((x + len - 1) / 8 - x / 8 + 1))).map (fun i => tsPort write (o / tsBytes) ((x / 8 + i) % 32))

/-- The ports that `len` bytes from byte `o` of the accumulator stores need. -/
def accPorts (write : Bool) (o len : Nat) : List Nat :=
  if len = 0 then []
  else (upTo ((o + len - 1) / 512 - o / 512 + 1)).map (fun i =>
    let p := o / 512 + i
    accPort write (p / 2048) (p % 2) (p / 2 % 1024))

/-- The slices that hold `len` bytes from stack-memory address `a` (R202). -/
def slicesOf (a len : Nat) : List Nat :=
  if len = 0 then [] else (upTo ((a + len - 1) / 128 - a / 128 + 1)).map (fun i => (a / 128 + i) % 32)

/-! Slice phases (R203, R204). -/

/-- A number congruent to the CCLK count of cycle `t` modulo 8 (R81, R203). -/
def State.cclkPhase (s : State) (t : Nat) : Nat := t + 7 * s.alignC

/-- The slice phase of slice `sl` in cycle `t`. -/
def State.slicePhase (s : State) (t sl : Nat) : Nat := (s.cclkPhase t + 7 * sl) % 8

/-- Core `c` owns slice `sl` in cycle `t`. -/
def State.ownsSlice (s : State) (c t sl : Nat) : Bool := s.slicePhase t sl == c

/-- The slice that a streaming reader of core `c` asks for in cycle `t`: of the eight rows from row `g` on, that in a slice
which falls to it (R205, log 57). -/
def State.streamSlice (s : State) (c t g : Nat) : Nat :=
  (g + (s.cclkPhase t + 7 * c + 7 * g) % 8) % 32

/-- Place of a request of core `c` for slice `sl` in cycle `t`; none where the slice is not granted to it in deterministic
mode. A core's own phase comes first; then, round the ring, the cores behind the phase. -/
def State.slicePlace (s : State) (t sl c : Nat) : Option Nat :=
  let p := s.slicePhase t sl
  if p = c then some 0
  else if s.det then none
  else some (1 + (c + 8 * s.cores - (p + 1)) % max 1 s.cores)

/-! Requests. -/

/-- Words of a level from `lo` to below `hi`: 1 scratchpads, 2 accumulator stores, 3 rows of stack memory. -/
structure Span where
  level : Nat
  lo    : Nat
  hi    : Nat
  deriving DecidableEq, Repr

/-- Two spans share a word. -/
def Span.meets (a b : Span) : Bool := a.level == b.level && decide (a.lo < b.hi) && decide (b.lo < a.hi)

/-- The span of `len` bytes from byte `o`, in words of `sz` bytes. -/
def spanOf (level sz o len : Nat) : Span := { level := level, lo := o / sz, hi := if len = 0 then o / sz else (o + len - 1) / sz + 1 }

/-- A reader of a scratchpad or an accumulator store finds the uncorrectable words of a span. -/
def State.noticeSpan (s : State) (x : Span) : State :=
  let sz := if x.level = 2 then 4 else 8
  s.noticeBad x.level sz (sz * x.lo) (sz * (x.hi - x.lo))

/-- What a unit asks for in one cycle: ports and slices, all of them or none (R193, R201), for a context; its place among
the requesters of a port, and the words that it reads and writes. -/
structure Ask where
  who    : Requester
  ctx    : Nat
  rank   : Nat
  ports  : List Nat := []
  slices : List Nat := []
  reads  : List Span := []
  writes : List Span := []
  deriving DecidableEq, Repr

/-- The core of a requester. -/
def Requester.core : Requester → Nat
  | .feeder n _ => n / 2
  | .weights n _ => n / 2
  | .vecRead c => c
  | .vecWrite c => c
  | .topRead c => c
  | .topWrite c => c
  | .table c => c
  | .index c _ => c
  | .shuntRead c _ => c
  | .gather c _ => c
  | .shuntWrite c _ => c
  | .arrival c _ => c
  | .staging c => c

/-- The order of R194 and R201 on the side that a requester asks; remote arrivals stand in the order of their links. -/
def Requester.rank : Requester → Nat
  | .feeder _ h => h
  | .weights n h => 2 + 2 * (n % 2) + h
  | .vecRead _ => 8
  | .vecWrite _ => 8
  | .topRead _ => 9
  | .topWrite _ => 9
  | .table _ => 9
  | .arrival _ _ => 16
  | .staging _ => 200
  | .index _ n => 100 + 4 * n
  | .shuntRead _ n => 101 + 4 * n
  | .gather _ n => 101 + 4 * n
  | .shuntWrite _ n => 102 + 4 * n

/-- The order of a core's requests for a slice (R204): weight ports, staging transfer, shunters; in deterministic mode the
gather runs of hot cells and the staging transfer come after the shunters (10 Table 10-3). -/
def Requester.subOrder (det : Bool) : Requester → Nat
  | .weights n h => 2 * (n % 2) + h
  | .staging _ => if det then 62 else 4
  | .shuntRead _ n => 5 + 2 * n
  | .shuntWrite _ n => 6 + 2 * n
  | .gather _ n => 30 + n
  | _ => 63

/-- An engine (07, Memory hierarchy). -/
def Requester.isEngine : Requester → Bool
  | .feeder _ _ => true
  | .weights _ _ => true
  | .vecRead _ => true
  | .topRead _ => true
  | _ => false

/-- A feeder. -/
def Requester.isFeeder : Requester → Bool
  | .feeder _ _ => true
  | _ => false

/-- A transfer that writes. -/
def Requester.isTransfer : Requester → Bool
  | .shuntWrite _ _ => true
  | .arrival _ _ => true
  | _ => false

/-- Consecutive refusals of a requester. -/
def State.refusalsOf (s : State) (w : Requester) : Nat :=
  match s.refusals.find? (fun r => r.1 == w) with
  | some r => r.2
  | none => 0

/-- A request that has been refused in 16 consecutive cycles is guarded; in deterministic mode the staging transfer's never
are (R194, R201, 10 Table 10-3). -/
def State.guarded (s : State) (a : Ask) : Bool :=
  decide (16 ≤ s.refusalsOf a.who) && !(s.det && (match a.who with | .staging _ => true | _ => false))

/-- The feeder of a half in split mode. -/
def State.splitFeeder (s : State) (a : Ask) : Bool :=
  match a.who with
  | .feeder n _ => (tget (fun _ => {}) s.arrays n).split
  | _ => false

/-- The level of a request among those of its ports (R194): guarded ones first, but in split mode a half's feeder comes
before the guarded ones that are not of the context whose pass it feeds. -/
def State.level (s : State) (all : List Ask) (a : Ask) : Nat :=
  if s.guarded a then
    if all.any (fun f => s.splitFeeder f && f.ctx != a.ctx && f.ports.any (fun p => a.ports.contains p)) then 2 else 0
  else if s.splitFeeder a then 1
  else 3

/-- Insert a request behind those that come before it or with it. -/
def placeAsk (key : Ask → Nat) (a : Ask) : List Ask → List Ask
  | [] => [a]
  | b :: bs => if key a < key b then a :: b :: bs else b :: placeAsk key a bs

/-- Requests in the order of a key. -/
def inOrder (key : Ask → Nat) (as : List Ask) : List Ask := as.foldl (fun t a => placeAsk key a t) []

/-- Grants in order: a request is granted when none of what it needs is taken (R194, R201, R204). The answer holds the
requesters granted and what is taken. -/
def grantAll (needs : Ask → List Nat) : List Ask → List Nat → List Requester × List Nat
  | [], taken => ([], taken)
  | a :: as, taken =>
    if (needs a).any (fun p => taken.contains p) then grantAll needs as taken
    else
      let r := grantAll needs as (needs a ++ taken)
      (a.who :: r.1, r.2)

/-- A slice as a number apart from the ports. -/
def sliceKey (sl : Nat) : Nat := 2048 + sl

/-- A request that may be granted its slices in cycle `t` at all. -/
def State.eligible (s : State) (t : Nat) (a : Ask) : Bool := a.slices.all (fun sl => (s.slicePlace t sl a.who.core).isSome)

/-- The place of a request among those for its slice. -/
def State.sliceOrder (s : State) (t : Nat) (a : Ask) : Nat :=
  match a.slices with
  | sl :: _ => 64 * (s.slicePlace t sl a.who.core).getD 0 + a.who.subOrder s.det
  | [] => 0

/-- The outcome of a cycle: who is granted, which writes are withheld from an engine's read of the same word or row, or
from an A2 write of the same entry, and the ports taken. -/
structure Grants where
  ok    : List Requester := []
  words : List Requester := []
  rows  : List Requester := []
  entries : List Requester := []
  taken : List Nat := []

/-- A transfer's write meets what engines among `rs` read. -/
def meetsRead (rs : List Ask) (level : Nat) (a : Ask) : Bool :=
  a.who.isTransfer && rs.any (fun r => r.who.isEngine && r.reads.any (fun x => a.writes.any (fun y => x.level == level && x.meets y)))

/-- The grants of cycle `t` among requests, where A2 writes the spans `a2` and the ports `before` are taken already. -/
def State.grants (s : State) (t : Nat) (asks : List Ask) (a2 : List Span) (before : List Nat) : Grants :=
  let able := asks.filter (s.eligible t)
  let rows := able.filter (meetsRead able 3)
  let asks := able.filter (fun a => !rows.contains a)
  let bank := grantAll Ask.ports (inOrder (fun a => 4096 * s.level asks a + a.rank) asks) before
  let slice := grantAll (fun a => a.slices.map sliceKey) (inOrder (s.sliceOrder t) asks) bank.2
  let ok := asks.filter (fun a => bank.1.contains a.who && slice.1.contains a.who)
  let words := ok.filter (meetsRead ok 1)
  let entries := ok.filter (fun a => a.who.isTransfer && a.writes.any (fun x => a2.any x.meets))
  { ok := (ok.filter (fun a => !words.contains a && !entries.contains a)).map Ask.who
    words := words.map Ask.who, rows := rows.map Ask.who, entries := entries.map Ask.who, taken := slice.2 }

/-- A requester has been refused once more. -/
def State.noteDenial (s : State) (w : Requester) : State :=
  { s with refusals := (w, s.refusalsOf w + 1) :: s.refusals.filter (fun r => r.1 != w) }

/-- Ports are taken in cycle `t`. -/
def State.take (s : State) (t : Nat) (ps : List Nat) : State :=
  { s with taken := (t, if s.taken.1 = t then ps ++ s.taken.2 else ps) }

/-- The ports taken in cycle `t`, as far as they are known. -/
def State.takenIn (s : State) (t : Nat) : List Nat := if s.taken.1 = t then s.taken.2 else []

/-! Where a context's bytes ask. -/

/-- The pieces of a range of context bytes of the tile scratchpads that lie in them while the context is in place: byte
address and length. -/
def State.tsPieces (s : State) (k x n : Nat) : List (Nat × Nat) :=
  let m := if x < tsBytes then min n (tsBytes - x) else n
  let at_ := fun (x m : Nat) => match s.tsSpot k x with | some (.ts a) => if m = 0 then [] else [(a, m)] | _ => []
  at_ x m ++ at_ (x + m) (n - m)

/-- The ports of a range of context bytes. -/
def State.ctxPorts (s : State) (write : Bool) (k x n : Nat) : List Nat :=
  (s.tsPieces k x n).flatMap (fun p => tsPorts write p.1 p.2)

/-- The words of a range of context bytes. -/
def State.ctxSpans (s : State) (k x n : Nat) : List Span := (s.tsPieces k x n).map (fun p => spanOf 1 8 p.1 p.2)

end Sys2Proof.Machine
end

