-- ==== Sys2Proof/Machine/Formats.lean ====
section
/-! DEFINITION. Number formats, exact values, rounding, conversions and the random stream (04, 05 R139). A finite value
is held exactly as a sign, a magnitude and a power of two; each operation rounds it once. -/
namespace Sys2Proof.Machine

/-- A value: NaN, an infinity, or sign, magnitude and exponent of a finite number. -/
inductive Num where
  | nan
  | inf (neg : Bool)
  | fin (neg : Bool) (m : Nat) (e : Int)
  deriving DecidableEq, Repr

/-- A binary floating format: exponent and mantissa bits and bias; `ocp` is E4M3, whose top exponent is normal except
for NaN (Table 4-2). -/
structure Fmt where
  ebits : Nat
  mbits : Nat
  bias  : Nat
  ocp   : Bool := false
  deriving DecidableEq, Repr

/-- FP8 E4M3. -/
def e4m3 : Fmt := ⟨4, 3, 7, true⟩
/-- FP8 E5M2. -/
def e5m2 : Fmt := ⟨5, 2, 15, false⟩
/-- BF16. -/
def bf16 : Fmt := ⟨8, 7, 127, false⟩
/-- FP16. -/
def fp16 : Fmt := ⟨5, 10, 15, false⟩
/-- FP32. -/
def fp32 : Fmt := ⟨8, 23, 127, false⟩

/-- Width of a format. -/
def Fmt.width (f : Fmt) : Nat := 1 + f.ebits + f.mbits
/-- Exponent of the last digit of the subnormals. -/
def Fmt.tiny (f : Fmt) : Int := 1 - (f.bias : Int) - (f.mbits : Int)
/-- The NaN that the module writes (Table 4-9, R114). -/
def Fmt.nanBits (f : Fmt) : Nat :=
  if f.ocp then 0x7F else (2 ^ f.ebits - 1) * 2 ^ f.mbits + 2 ^ (f.mbits - 1)
/-- +inf. -/
def Fmt.infBits (f : Fmt) : Nat := (2 ^ f.ebits - 1) * 2 ^ f.mbits
/-- Largest finite magnitude. -/
def Fmt.maxBits (f : Fmt) : Nat := if f.ocp then 0x7E else f.infBits - 1
/-- The sign bit. -/
def Fmt.signed (f : Fmt) (neg : Bool) (v : Nat) : Nat := v + b2n neg * 2 ^ (f.ebits + f.mbits)

/-- The value of a pattern. -/
def Fmt.decode (f : Fmt) (v : Nat) : Num :=
  let neg := bit v (f.ebits + f.mbits)
  let e := bits v (f.ebits + f.mbits - 1) f.mbits
  let m := v % 2 ^ f.mbits
  if f.ocp && e == 15 && m == 7 then .nan
  else if !f.ocp && e == 2 ^ f.ebits - 1 then (if m = 0 then .inf neg else .nan)
  else if e = 0 then .fin neg m f.tiny
  else .fin neg (2 ^ f.mbits + m) (f.tiny + (e - 1 : Nat))

/-- Rounding modes (Table 4-7); stochastic carries its draw. -/
inductive Round where
  | even
  | zero
  | stochastic (r : Nat)
  deriving DecidableEq, Repr

/-- A magnitude m × 2^e in whole units of 2^q, rounded (R119). -/
def roundMag (md : Round) (q : Int) (m : Nat) (e : Int) : Nat :=
  if q ≤ e then m * 2 ^ (e - q).toNat
  else
    let k := (q - e).toNat
    let u := m / 2 ^ k
    let r := m % 2 ^ k
    match md with
    | .zero => u
    | .even => if 2 ^ k < 2 * r ∨ (2 * r = 2 ^ k ∧ u % 2 = 1) then u + 1 else u
    | .stochastic d => if d < r * 65536 / 2 ^ k then u + 1 else u

/-- Exponent of the last digit that a format gives a magnitude. -/
def Fmt.lastDigit (f : Fmt) (m : Nat) (e : Int) : Int := max f.tiny ((Nat.log2 m : Int) + e - (f.mbits : Int))

/-- Pattern of `u` units of 2^q, with `u` at most 2^(mbits + 1); none above the largest finite value. -/
def Fmt.pattern (f : Fmt) (u : Nat) (q : Int) : Option Nat :=
  if u = 0 then some 0
  else
    let l := Nat.log2 u
    let v :=
      if l < f.mbits then u
      else ((q - f.tiny).toNat + (l - f.mbits) + 1) * 2 ^ f.mbits + (u / 2 ^ (l - f.mbits) - 2 ^ f.mbits)
    if v ≤ f.maxBits then some v else none

/-- A finite magnitude rounded once to a format; none when it overflows. Toward zero never overflows (R120). -/
def Fmt.roundFin (f : Fmt) (md : Round) (m : Nat) (e : Int) : Option Nat :=
  if m = 0 then some 0
  else
    let q := f.lastDigit m e
    match f.pattern (roundMag md q m e) q with
    | some v => some v
    | none => if md = .zero then some f.maxBits else none

/-- An operation's exact result in a lane or FP32 format, nearest-even, with infinities on overflow (R114, R123). -/
def Fmt.encode (f : Fmt) (x : Num) : Nat :=
  match x with
  | .nan => f.nanBits
  | .inf n => f.signed n f.infBits
  | .fin n m e => f.signed n ((f.roundFin .even m e).getD f.infBits)

/-! Exact arithmetic. -/

/-- The integer value of a finite number in units of 2^q, for q at or below its exponent. -/
def unitsOf (n : Bool) (m : Nat) (e q : Int) : Int :=
  let v : Int := (m * 2 ^ (e - q).toNat : Nat)
  if n then -v else v

/-- A sum of integer units as a number. -/
def ofUnits (i : Int) (q : Int) (zeroNeg : Bool) : Num :=
  if i = 0 then .fin zeroNeg 0 q else .fin (decide (i < 0)) i.natAbs q

/-- Exact sum; −0 + −0 is −0, any other exact zero is +0 (R114). -/
def Num.add (a b : Num) : Num :=
  match a, b with
  | .nan, _ => .nan
  | _, .nan => .nan
  | .inf x, .inf y => if x = y then .inf x else .nan
  | .inf x, _ => .inf x
  | _, .inf y => .inf y
  | .fin n m e, .fin n' m' e' =>
    let q := min e e'
    ofUnits (unitsOf n m e q + unitsOf n' m' e' q) q (n && n' && m == 0 && m' == 0)

/-- Negation. -/
def Num.neg (a : Num) : Num :=
  match a with
  | .nan => .nan
  | .inf x => .inf (!x)
  | .fin n m e => .fin (!n) m e

/-- Magnitude. -/
def Num.abs (a : Num) : Num :=
  match a with
  | .nan => .nan
  | .inf _ => .inf false
  | .fin _ m e => .fin false m e

/-- Exact product; infinity times zero is NaN. -/
def Num.mul (a b : Num) : Num :=
  match a, b with
  | .nan, _ => .nan
  | _, .nan => .nan
  | .inf x, .inf y => .inf (x != y)
  | .inf x, .fin n m _ => if m = 0 then .nan else .inf (x != n)
  | .fin n m _, .inf y => if m = 0 then .nan else .inf (n != y)
  | .fin n m e, .fin n' m' e' => .fin (n != n') (m * m') (e + e')

/-- Integer square root of `n` below 2^(2 × steps), bit by bit. -/
def isqrt (n : Nat) : Nat → Nat → Nat
  | 0, r => r
  | k + 1, r => if (r + 2 ^ k) * (r + 2 ^ k) ≤ n then isqrt n k (r + 2 ^ k) else isqrt n k r

/-- 1 / a to more digits than any format, with the remainder kept as a last digit that breaks ties (RECIP). -/
def Num.recip (a : Num) : Num :=
  match a with
  | .nan => .nan
  | .inf x => .fin x 0 0
  | .fin n m e =>
    if m = 0 then .inf n
    else .fin n (2 * (2 ^ 96 / m) + b2n (2 ^ 96 % m != 0)) (-97 - e)

/-- 1 / √a likewise (RSQRT): negative a gives NaN, +0 gives +inf, −0 gives −inf. -/
def Num.rsqrt (a : Num) : Num :=
  match a with
  | .nan => .nan
  | .inf x => if x then .nan else .fin false 0 0
  | .fin n m e =>
    if m = 0 then .inf n
    else if n then .nan
    else
      let odd := e % 2 != 0
      let mm := if odd then 2 * m else m
      let ee := if odd then (e - 1) / 2 else e / 2
      let q := 2 ^ 200 / mm
      let r := isqrt q 101 0
      .fin false (2 * r + b2n (r * r != q || 2 ^ 200 % mm != 0)) (-101 - ee)

/-- Key of a pattern under totalOrder (R123). -/
def Fmt.orderKey (f : Fmt) (v : Nat) : Nat :=
  let h := 2 ^ (f.ebits + f.mbits)
  if v / h % 2 = 0 then h + v % h else h - 1 - v % h

/-- A pattern is NaN. -/
def Fmt.isNan (f : Fmt) (v : Nat) : Bool := f.decode v == .nan

/-- `a` is greater than `b` under R123: any NaN is greater than every number. -/
def Fmt.greater (f : Fmt) (a b : Nat) : Bool :=
  if f.isNan b then false else f.isNan a || decide (f.orderKey b < f.orderKey a)

/-- Maximum; NaN if either is. -/
def Fmt.max (f : Fmt) (a b : Nat) : Nat :=
  if f.isNan a || f.isNan b then f.nanBits else if f.greater b a then b else a

/-- Minimum; NaN if either is. -/
def Fmt.min (f : Fmt) (a b : Nat) : Nat :=
  if f.isNan a || f.isNan b then f.nanBits else if f.greater a b then b else a

/-! The random stream (R139). -/

/-- One round of Philox4x32. -/
def philoxRound (c : Nat × Nat × Nat × Nat) (k0 k1 : Nat) : Nat × Nat × Nat × Nat :=
  let p0 := 0xD2511F53 * c.1
  let p1 := 0xCD9E8D57 * c.2.2.1
  ((p1 / 2 ^ 32) ^^^ c.2.1 ^^^ k0, p1 % 2 ^ 32, (p0 / 2 ^ 32) ^^^ c.2.2.2 ^^^ k1, p0 % 2 ^ 32)

/-- Ten rounds. -/
def philox : Nat → Nat × Nat × Nat × Nat → Nat → Nat → Nat × Nat × Nat × Nat
  | 0, c, _, _ => c
  | n + 1, c, k0, k1 => philox n (philoxRound c k0 k1) ((k0 + 0x9E3779B9) % 2 ^ 32) ((k1 + 0xBB67AE85) % 2 ^ 32)

/-- Draw `n` of the stream of a seed and a lane. -/
def draw (seed lane n : Nat) : Nat :=
  let b := n / 8
  let o := philox 10 (b % 2 ^ 32, b / 2 ^ 32 % 2 ^ 32, 0, 0) (seed % 2 ^ 32) ((seed / 2 ^ 32 + lane) % 2 ^ 32)
  let v := o.1 + o.2.1 * 2 ^ 32 + o.2.2.1 * 2 ^ 64 + o.2.2.2 * 2 ^ 96
  bits v (16 * (n % 8) + 15) (16 * (n % 8))

/-! The conversion word (R117 to R122). -/

/-- SFMT. -/
def cvSfmt (w : Nat) : Nat := bits w 31 28
/-- DFMT. -/
def cvDfmt (w : Nat) : Nat := bits w 27 24
/-- SHIFT. -/
def cvShift (w : Nat) : Int := sbits w 23 16
/-- RND. -/
def cvRnd (w : Nat) : Nat := bits w 15 14
/-- SATF. -/
def cvSat (w : Nat) : Bool := bit w 13
/-- DSGN. -/
def cvSigned (w : Nat) : Bool := bit w 12

/-- A conversion word without reserved codes or bits (R117). -/
def cvOk (w : Nat) : Bool :=
  decide (cvSfmt w ≤ 5) && decide (cvDfmt w ≤ 10) && decide (cvRnd w ≤ 2) && bits w 11 0 == 0 &&
  (!cvSigned w || cvDfmt w == 0 || cvDfmt w == 1 || cvDfmt w == 10)

/-- An exact accumulator of 96 bits as a value on grid Q (R107, R108). -/
def exactNum (q : Nat) (v : Nat) : Num :=
  if bit v 95 then
    if bits v 94 2 ≠ 0 then .nan
    else match v % 4 with
      | 1 => .inf false
      | 2 => .inf true
      | _ => .nan
  else ofUnits (signed 95 v) (-(q : Int)) false

/-- The source value of a conversion (Table 4-8). SFMT names the format of whatever stands there: an entry of an accumulator
store under 4h or 5h too, and a lane under any code (R117 and R134 make no fault of it; DEDUCED, log 139). -/
def cvSource (w v : Nat) : Num :=
  match cvSfmt w with
  | 0 => ofUnits (signed 32 v) 0 false
  | 1 => fp32.decode v
  | 2 => exactNum 32 v
  | 3 => exactNum 64 v
  | 4 => bf16.decode v
  | _ => fp32.decode v

/-- The value after SHIFT (R118). -/
def Num.scale (x : Num) (k : Int) : Num :=
  match x with
  | .fin n m e => .fin n m (e + k)
  | _ => x

/-- Bits per element of a destination. -/
def cvWidth (w : Nat) : Nat :=
  match cvDfmt w with
  | 1 => 4
  | 7 => 16
  | 8 => 16
  | 9 => 32
  | 10 => 32
  | _ => 8

/-- Range of an integer destination (R121). -/
def cvRange (w : Nat) : Int × Int :=
  match cvDfmt w, cvSigned w with
  | 0, true => (-128, 127)
  | 0, false => (0, 255)
  | 1, true => (-8, 7)
  | 1, false => (0, 15)
  | _, _ => (-2147483648, 2147483647)

/-- The floating format of a destination. -/
def cvFmt (d : Nat) : Fmt :=
  match d with
  | 2 => e4m3
  | 5 => e4m3
  | 3 => e5m2
  | 6 => e5m2
  | 7 => bf16
  | 8 => fp16
  | _ => fp32

/-- A value as an integer destination: the pattern, and whether it saturated or came from a NaN (Table 4-9, R121). -/
def toInteger (md : Round) (lo hi : Int) (x : Num) : Int × Bool :=
  match x with
  | .nan => (0, true)
  | .inf n => (if n then lo else hi, true)
  | .fin n m e =>
    let u : Int := roundMag md 0 m e
    let v := if n then -u else u
    (limit lo hi v, decide (v < lo) || decide (hi < v))

/-- A value as a floating destination: the pattern, and whether it overflowed or was replaced (Table 4-9). An infinite source
that becomes 7Fh of E4M3 counts as overflow, which R121 does not say (DEDUCED, log 139). -/
def toFloat (f : Fmt) (sat : Bool) (md : Round) (x : Num) : Nat × Bool :=
  match x with
  | .nan => (if f.ocp then 0x7F else f.nanBits, false)
  | .inf n =>
    if f.ocp then (if sat then (f.signed n f.maxBits, true) else (0x7F, true)) else (f.signed n f.infBits, false)
  | .fin n m e =>
    match f.roundFin md m e with
    | some v => (f.signed n v, false)
    | none =>
      if sat then (f.signed n f.maxBits, true)
      else if f.ocp then (0x7F, true) else (f.signed n f.infBits, true)

/-- The rounding of element `n` of a stream. -/
def cvRound (w seed lane n : Nat) : Round :=
  match cvRnd w with
  | 0 => .even
  | 1 => .zero
  | _ => .stochastic (draw seed lane n)

/-- A conversion to a destination other than MX. -/
def convert (w : Nat) (md : Round) (x : Num) : Nat × Bool :=
  let x := x.scale (cvShift w)
  match cvDfmt w with
  | 0 => let r := toInteger md (cvRange w).1 (cvRange w).2 x; (wrap 8 r.1, r.2)
  | 1 => let r := toInteger md (cvRange w).1 (cvRange w).2 x; (wrap 4 r.1, r.2)
  | 10 => let r := toInteger md (cvRange w).1 (cvRange w).2 x; (wrap 32 r.1, r.2)
  | d => toFloat (cvFmt d) (cvSat w) md x

/-- A destination is a block format of R122. -/
def cvIsMx (w : Nat) : Bool := within (cvDfmt w) 4 6
where within (a lo hi : Nat) : Bool := decide (lo ≤ a) && decide (a ≤ hi)

/-- floor(log2) of a finite magnitude that is not 0. -/
def Num.log2 (x : Num) : Option Int :=
  match x with
  | .fin _ m e => if m = 0 then none else some ((Nat.log2 m : Int) + e)
  | _ => none

/-- One block of 32 values (R122): scale byte, elements, and how many saturated. `md i` rounds element `i`. -/
def mxBlock (w : Nat) (md : Nat → Round) (xs : List Num) : Nat × List Nat × Nat :=
  let xs := xs.map (fun x => x.scale (cvShift w))
  if xs.any (fun x => match x with | .fin _ _ _ => false | _ => true) then (0xFF, xs.map (fun _ => 0), 0)
  else
    match (xs.filterMap Num.log2) with
    | [] => (0, xs.map (fun _ => 0), 0)
    | l :: ls =>
      let top := ls.foldl max l
      let emax : Int := match cvDfmt w with | 4 => 0 | 5 => 8 | _ => 15
      let e := limit (-127) 127 (top - emax)
      let one := fun (i : Nat) (x : Num) =>
        let y := x.scale (-e)
        if cvDfmt w = 4 then
          let r := toInteger (md i) (-127) 127 (y.scale 6)
          (wrap 8 r.1, r.2)
        else toFloat (cvFmt (cvDfmt w)) true (md i) y
      let rs := xs.zipIdx.map (fun p => one p.2 p.1)
      ((e + 127).toNat, rs.map Prod.fst, (rs.filter (fun r => r.2)).length)

end Sys2Proof.Machine
end

