-- ==== Sys2Proof/Machine/Arrays.lean ====
section
/-! DEFINITION. The matrix arrays: pass descriptors, their checks, the column sums, and the writes of a pass cycle by
cycle (03, 04). -/
namespace Sys2Proof.Machine

/-! Pass descriptor (Tables 3-5 to 3-8). -/

/-- N. -/
def Pass.n (p : Pass) : Nat := bits p.w0 63 48 + 1
/-- TRAP. -/
def Pass.trap (p : Pass) : Nat := bits p.w0 47 44
/-- SEM. -/
def Pass.sem (p : Pass) : Nat := bits p.w0 43 38
/-- DONE. -/
def Pass.done (p : Pass) : Bool := bit p.w0 37
/-- WSRC = tile scratchpad. -/
def Pass.fromTs (p : Pass) : Bool := bit p.w0 36
/-- WKEEP. -/
def Pass.keep (p : Pass) : Bool := bit p.w0 35
/-- SAT. -/
def Pass.sat (p : Pass) : Bool := bit p.w0 34
/-- ACCM. -/
def Pass.accm (p : Pass) : Nat := bits p.w0 33 32
/-- Overwrite. -/
def Pass.overwrites (p : Pass) : Bool := p.accm == 1
/-- WSGN. -/
def Pass.wsgn (p : Pass) : Bool := bit p.w0 31
/-- ASGN. -/
def Pass.asgn (p : Pass) : Bool := bit p.w0 30
/-- WFMT. -/
def Pass.wfmt (p : Pass) : Nat := bits p.w0 29 26
/-- AFMT. -/
def Pass.afmt (p : Pass) : Nat := bits p.w0 25 22
/-- The format pair. -/
def Pass.fmts (p : Pass) : Nat := bits p.w0 29 22
/-- HALF: 0 whole, 1 L, 2 R. -/
def Pass.half (p : Pass) : Nat := bits p.w0 19 18
/-- ARR. -/
def Pass.arr (p : Pass) : Nat := bits p.w0 17 17
/-- INN. -/
def Pass.inn (p : Pass) : Nat := bits p.w1 39 29 + 1
/-- TAG. -/
def Pass.tag (p : Pass) : Nat := bits p.w2 47 32
/-- Integer formats. -/
def Pass.isInt (p : Pass) : Bool := decide (p.afmt ≤ 1)
/-- MX formats. -/
def Pass.isMx (p : Pass) : Bool := decide (4 ≤ p.afmt) && decide (p.afmt ≤ 6)
/-- Exact accumulation. -/
def Pass.isExact (p : Pass) : Bool := decide (2 ≤ p.afmt) && decide (p.afmt ≤ 6)
/-- Grid of an exact accumulation (R108). -/
def Pass.grid (p : Pass) : Nat := if p.isMx then 64 else 32
/-- Columns of the pass. -/
def Pass.cols (p : Pass) : Nat := if p.half = 0 then 256 else 128
/-- Bytes of the weight block (Table 3-4). -/
def Pass.blockBytes (p : Pass) : Nat := p.cols * (if p.isMx then 264 else 256)
/-- Cycles between vectors: every cycle, or every second one in split mode (R81). -/
def Pass.period (p : Pass) : Nat := if p.half = 0 then 1 else 2

/-- a(j), s(j) and r(j) of R92. -/
def Pass.aAt (p : Pass) (j : Nat) : Int :=
  (bits p.w1 10 0 : Int) + ((j % p.inn : Nat) : Int) * sbits p.w1 51 40 + ((j / p.inn : Nat) : Int) * sbits p.w1 63 52
/-- MX scale word of vector `j`. -/
def Pass.sAt (p : Pass) (j : Nat) : Int :=
  (bits p.w1 26 11 : Int) + ((j % p.inn : Nat) : Int) * sbits p.w1 51 40 + ((j / p.inn : Nat) : Int) * sbits p.w1 63 52
/-- Accumulator row of vector `j`. -/
def Pass.rAt (p : Pass) (j : Nat) : Int :=
  (bits p.w2 9 0 : Int) + ((j % p.inn : Nat) : Int) * sbits p.w2 20 10 + ((j / p.inn : Nat) : Int) * sbits p.w2 31 21

/-- Rows that vector `j` writes. -/
def Pass.rows (p : Pass) (j : Nat) : List Nat :=
  let r := (p.rAt j).toNat
  if p.isExact then [r, r + 1, r + 2] else [r]

/-! Arrays of the module. -/

/-- Array `n` = 2·core + array. -/
def State.array (s : State) (n : Nat) : ArrUnit := tget (fun _ => {}) s.arrays n
/-- Replace it. -/
def State.setArray (s : State) (n : Nat) (x : ArrUnit) : State := { s with arrays := tset (fun _ => {}) s.arrays n x }
/-- Half 0 (L or whole) or 1 (R). -/
def ArrUnit.half (a : ArrUnit) (h : Nat) : HalfUnit := if h = 1 then a.r else a.l
/-- Replace a half. -/
def ArrUnit.setHalf (a : ArrUnit) (h : Nat) (x : HalfUnit) : ArrUnit := if h = 1 then { a with r := x } else { a with l := x }
/-- A half of array `n`. -/
def State.half (s : State) (n h : Nat) : HalfUnit := (s.array n).half h
/-- Replace a half of array `n`. -/
def State.setHalf (s : State) (n h : Nat) (x : HalfUnit) : State := s.setArray n ((s.array n).setHalf h x)
/-- The half that a pass goes to. -/
def Pass.halfIx (p : Pass) : Nat := if p.half = 2 then 1 else 0
/-- 2410h subindex of array `n`. -/
def kArr (sub n : Nat) : Nat := key 0x2410 (sub + n)

/-- Spans of stack memory held by a job (R27, 07 Table 7-3): its working memory and its halo channels, its image and its model,
and its lane's wide area (R214). -/
def State.heldSpans (s : State) (k : Nat) : List (Nat × Nat) :=
  let j := ctxJob k
  ((s.allots.filter (fun a => a.owner == ownJob j || a.owner == ownHalo j)).map (fun a => (a.base, a.size))) ++
    (match s.imageEntry j with | some e => [(e.base, e.size)] | none => []) ++
    (if ozjModel (s.image j) = 0 then [] else
      match s.modelEntry (ozjModel (s.image j)) with | some e => [(e.base, e.size)] | none => []) ++
    (if s.reg (key 0x2500 0x27) = 1 then [(s.poolBase 1 + (s.ctx k).core * 2 ^ 25, 2 ^ 25)] else [])

/-- Line buffers of the streams of a job's domain, which its shunters may read (R26, R27). -/
def State.lineSpans (s : State) (k : Nat) : List (Nat × Nat) :=
  (s.allots.filter (fun a => a.pool == 0 &&
    some (s.field' (key (0x2200 + (a.owner - 0x100)) 1) 25 24) == s.jobDom (ctxJob k))).map (fun a => (a.base, a.size))

/-- [a, a + n) lies in one of the spans. -/
def inSpans (spans : List (Nat × Nat)) (a n : Nat) : Bool :=
  spans.any (fun x => decide (x.1 ≤ a) && decide (a + n ≤ x.1 + x.2))

/-- The weights that a pass with WKEEP would compute with: those of the pass before it in the queue, or the active ones
(R79, R96): context, incarnation, formats. -/
def HalfUnit.prospect (u : HalfUnit) : Option (Nat × Nat × Nat) :=
  match u.queue.getLast? with
  | some p => some (p.ctx, p.inc, p.fmts)
  | none => u.active.map (fun w => (w.ctx, w.inc, w.fmts))

/-- A pass descriptor is a descriptor fault (R93); `x` is the issuing context. -/
def State.passFault (s : State) (n : Nat) (x : Ctx) (p : Pass) : Bool :=
  let nonInt := !p.isInt
  let units := x.tsRows
  let js := List.range p.n
  -- 1. reserved fields and codes
  bits p.w0 21 20 != 0 || bits p.w0 16 8 != 0 || p.half == 3 || decide (2 ≤ p.accm) || decide (9 ≤ p.afmt) ||
  decide (9 ≤ p.wfmt) || (nonInt && (p.sat || p.wsgn || p.asgn)) || bits p.w1 28 27 != 0 ||
  (!p.isMx && bits p.w1 26 11 != 0) || bits p.w2 63 48 != 0 || bits p.w3 63 22 != 0 ||
  (p.fromTs && bits p.w3 21 11 != 0) || (p.keep && bits p.w3 21 0 != 0) ||
  -- 2. format pair
  !(p.afmt == p.wfmt || (within p.afmt 2 3 && within p.wfmt 2 3) || (within p.afmt 5 6 && within p.wfmt 5 6)) ||
  -- 3. absent array
  !gArray s.grade n ||
  -- 4. WKEEP
  (p.keep && (s.half n p.halfIx).prospect != some (p.ctx, p.inc, p.fmts)) ||
  -- 5. activation and scale addresses
  js.any (fun j => decide (p.aAt j < 0) || decide ((units : Int) ≤ p.aAt j)) ||
  (p.isMx && js.any (fun j => decide (p.sAt j < 0) || decide ((units * 32 : Nat) ≤ p.sAt j))) ||
  -- 6. weight block
  (!p.keep && (if p.fromTs then decide (units * 256 < bits p.w3 10 0 * 256 + p.blockBytes)
               else !inSpans (s.heldSpans p.ctx) (bits p.w3 21 0 * 128) p.blockBytes)) ||
  -- 7. rows
  js.any (fun j => decide (p.rAt j < 0) ||
    decide ((x.accRows : Int) < p.rAt j + (if p.isExact then 3 else 1))) ||
  -- 8. exact accumulation
  (p.isExact && (decide (1021 < bits p.w2 9 0) || sbits p.w2 20 10 % 3 != 0 || sbits p.w2 31 21 % 3 != 0)) ||
  -- 9. split mode flag
  (p.half != 0 && !bit (ozjFlags (s.image (ctxJob p.ctx))) 1)

/-! Column sums (R101 to R114). -/

/-- A column sum. -/
inductive Col where
  | int (v : Int)
  | exact (v : Int) (loss ovf : Bool)
  | special (code : Nat)
  | float (v : Nat)
  deriving DecidableEq, Repr

/-- A byte as a signed or unsigned integer. -/
def byteInt (sg : Bool) (b : Nat) : Int := if sg then signed 8 b else b
/-- A nibble likewise. -/
def nibInt (sg : Bool) (b : Nat) : Int := if sg then signed 4 b else ((b % 16 : Nat) : Int)

/-- Sum of integer products (R101, R102). -/
def intSum (p : Pass) (as ws : List Nat) : Int :=
  if p.afmt = 0 then (as.zipWith (fun a w => byteInt p.asgn a * byteInt p.wsgn w) ws).foldl (· + ·) 0
  else (as.zipWith (fun a w => nibInt p.asgn (a % 16) * nibInt p.wsgn (w % 16)
      + nibInt p.asgn (a / 16) * nibInt p.wsgn (w / 16)) ws).foldl (· + ·) 0

/-- The special value of products: NaN over infinities (R110). -/
def specialOf (ps : List Num) : Option Nat :=
  if ps.any (· == .nan) || (ps.any (· == .inf false) && ps.any (· == .inf true)) then some 0
  else if ps.any (· == .inf false) then some 1
  else if ps.any (· == .inf true) then some 2
  else none

/-- Exact integer sum of finite products in units of 2^q. -/
def sumUnits (q : Int) (ps : List Num) : Int :=
  ps.foldl (fun t x => match x with | .fin n m e => t + unitsOf n m e q | _ => t) 0

/-- An element of an 8-bit floating or MX format. -/
def element (f b : Nat) : Num :=
  match f with
  | 2 => e4m3.decode b
  | 5 => e4m3.decode b
  | 4 => ofUnits (signed 8 b) (-6) false
  | _ => e5m2.decode b

/-- Exact column sum of an FP8 pair (R109 step 1, R110). -/
def fp8Sum (p : Pass) (as ws : List Nat) : Col :=
  let ps := as.zipWith (fun a w => (element p.afmt a).mul (element p.wfmt w)) ws
  match specialOf ps with
  | some c => .special c
  | none => .exact (sumUnits (-32) ps) false false

/-- A block term of an MX pair in units of 2^-64, truncated toward zero, with the loss of bits (R109 step 2). -/
def blockTerm (q : Int) (b : Int) (x : Int) : Int × Bool :=
  let sh := q + x + 64
  if 0 ≤ sh then (b * ((2 ^ sh.toNat : Nat) : Int), false)
  else
    let d : Nat := 2 ^ (-sh).toNat
    let m := b.natAbs / d
    (if b < 0 then -(m : Int) else m, b.natAbs % d != 0)

/-- Exact column sum of an MX pair (R105, R106, R109, R110); scales by block. -/
def mxSum (p : Pass) (as ws : List Nat) (sa sw : List Nat) : Col :=
  let q : Int := if p.afmt = 4 then -12 else -32
  let ps := as.zipWith (fun a w => (element p.afmt a).mul (element p.wfmt w)) ws
  let nanScale := (upTo 8).any (fun b => sa.getD b 0 == 0xFF || sw.getD b 0 == 0xFF)
  match (if nanScale then some 0 else specialOf ps) with
  | some c => .special c
  | none =>
    let ts := (upTo 8).map (fun b =>
      blockTerm q (sumUnits q ((ps.drop (32 * b)).take 32)) ((sa.getD b 0 : Int) + (sw.getD b 0 : Int) - 254))
    .exact (ts.foldl (fun t x => t + x.1) 0) (ts.any (fun x => x.2))
      (ts.any (fun x => decide (x.1 < -((2 ^ 94 : Nat) : Int)) || decide (((2 ^ 94 : Nat) : Int) ≤ x.1)))

/-- Exact sum of a list of values: infinities and NaN as IEEE 754, a zero sum as +0. -/
def sumNums (xs : List Num) : Num :=
  match specialOf xs with
  | some 0 => .nan
  | some 1 => .inf false
  | some _ => .inf true
  | none =>
    let q := xs.foldl (fun q x => match x with | .fin _ _ e => min q e | _ => q) 0
    ofUnits (sumUnits q xs) q false

/-- One segment of an FP32 column sum: the eight products and the partial sum, rounded once; a sum that rounds to zero
is +0 (R113, R114). -/
def segment (g : Nat) (ps : List Num) : Nat :=
  let v := fp32.encode (sumNums (fp32.decode g :: ps))
  if v = 0x80000000 then 0 else v

/-- FP32 column sum over 16 segments of 8 channels. -/
def floatSum (p : Pass) (as ws : List Nat) : Nat :=
  let f := if p.afmt = 7 then bf16 else fp16
  let aa := as.toArray
  let wa := ws.toArray
  let ch := fun (xs : Array Nat) (k : Nat) => f.decode (xs.getD (2 * k) 0 + 256 * xs.getD (2 * k + 1) 0)
  (upTo 16).foldl (fun g sgm => segment g ((upTo 8).map (fun i => (ch aa (8 * sgm + i)).mul (ch wa (8 * sgm + i))))) 0

/-- The column sum of one vector in column `c` of the pass's block. -/
def colSum (p : Pass) (as sa : List Nat) (blk : Array Byte) (c : Nat) : Col :=
  let ws := (upTo 256).map (fun i => (blk.getD (p.cols * i + c) 0).toNat)
  if p.isInt then .int (intSum p as ws)
  else if p.isMx then
    mxSum p as ws sa ((upTo 8).map (fun b => (blk.getD (p.cols * 256 + p.cols * b + c) 0).toNat))
  else if p.isExact then fp8Sum p as ws
  else .float (floatSum p as ws)

/-- Conditions of Table 4-6, in its order. -/
structure Conds where
  range : Bool := false
  ovf   : Bool := false
  nan   : Bool := false
  inf   : Bool := false
  loss  : Bool := false
  deriving DecidableEq, Repr

/-- Conditions of several columns. -/
def Conds.join (a b : Conds) : Conds :=
  ⟨a.range || b.range, a.ovf || b.ovf, a.nan || b.nan, a.inf || b.inf, a.loss || b.loss⟩

/-- A special or finite exact accumulator: NaN 0, +inf 1, −inf 2. -/
def exactSpecial (v : Nat) : Option Nat :=
  if bit v 95 then (if bits v 94 2 ≠ 0 then some 0 else match v % 4 with | 1 => some 1 | 2 => some 2 | _ => some 0) else none

/-- Table 4-5. -/
def joinSpecial (a b : Option Nat) : Option Nat :=
  match a, b with
  | none, x => x
  | x, none => x
  | some x, some y => if x = y then some x else some 0

/-- What A2 stores for one column, and the conditions it raises; `prev` is the previous entry, 32 or 96 bits. -/
def accumulate (p : Pass) (prev : Nat) (c : Col) : Nat × Conds :=
  match c with
  | .int v =>
    let t := if p.overwrites then v else signed 32 prev + v
    let out := decide (t < -2147483648) || decide (2147483647 < t)
    (if p.sat then wrap 32 (limit (-2147483648) 2147483647 t) else wrap 32 t, { range := out })
  | .float g =>
    let v := if p.overwrites then g else fp32.encode ((fp32.decode prev).add (fp32.decode g))
    let was := fp32.decode prev
    let now := fp32.decode v
    let isInf := now == .inf false || now == .inf true
    let fin := match was with | .fin _ _ _ => true | _ => false
    (v, { nan := now == .nan && (p.overwrites || was != .nan), inf := isInf && (p.overwrites || fin) })
  | .special k =>
    let old := if p.overwrites then none else exactSpecial prev
    let new := (joinSpecial old (some k)).getD 0
    (2 ^ 95 + new, { nan := new == 0 && (p.overwrites || old != some 0), inf := new != 0 && (p.overwrites || old.isNone) })
  | .exact v loss ovf =>
    let old := if p.overwrites then none else exactSpecial prev
    match old with
    | some k => (2 ^ 95 + k, { ovf := ovf, loss := loss })
    | none =>
      let t := if p.overwrites then v else signed 95 prev + v
      let top : Int := ((2 ^ 94 : Nat) : Int)
      (wrap 95 t, { ovf := ovf || decide (t < -top) || decide (top ≤ t), loss := loss })

/-! Vectors (R71 to R73, R87 to R89). -/

/-- Columns of a half of the accumulator store: first column and count. -/
def Pass.firstCol (p : Pass) : Nat := if p.half = 2 then 128 else 0

/-- Column halves that a pass writes. -/
def Pass.colHalves (p : Pass) : List Nat := if p.half = 0 then [0, 1] else if p.half = 1 then [0] else [1]

/-- Set or clear the flags of the rows that a vector writes. -/
def State.flagRows (s : State) (c a : Nat) (base : Nat) (p : Pass) (j : Nat) (b : Bool) : State :=
  forEach (p.rows j) s (fun r s => forEach p.colHalves s (fun h s => s.setValid c a h (base + r) b))

/-- Some row that a vector accumulates into is invalid. -/
def State.rowsInvalid (s : State) (c a base : Nat) (p : Pass) (j : Nat) : Bool :=
  !p.overwrites && (p.rows j).any (fun r => p.colHalves.any (fun h => !s.isValid c a h (base + r)
    || s.acc.bad.any (fun w => w / 128 == accAt c a ((base + r) * 1024 + 512 * h) / 512)))

/-- Vectors that the feeder has read. -/
def Flight.nextRead (f : Flight) : Nat := f.done + f.acts.length

/-- The last vector's entry cycle t, unless a later read is lost; the pass is complete in t + 22 (R72). -/
def Flight.lastEntry (f : Flight) : Nat := f.next + f.pass.period * (f.pass.n - f.nextRead) - f.pass.period

/-- Address of vector `j`'s activations in the tile scratchpads. -/
def Pass.actAt (p : Pass) (n : Nat) (x : Ctx) (j : Nat) : Nat := tsAt (n / 2) (n % 2) (x.tsBase * 256 + 256 * (p.aAt j).toNat)

/-- The feeder's read of vector `j`. -/
def State.readAct (s : State) (n : Nat) (x : Ctx) (p : Pass) (j : Nat) : Act :=
  let o := p.actAt n x j
  let sc := tsAt (n / 2) (n % 2) (x.tsBase * 256 + 8 * (p.sAt j).toNat)
  { data := (s.ts.bytes o 256).map (·.toNat)
    scales := if p.isMx then (s.ts.bytes sc 8).map (·.toNat) else []
    bad := s.ts.tainted 8 o 256 || (p.isMx && s.ts.tainted 8 sc 8) }

/-- The read of stage A1 for vector `j` (R87): nothing in overwrite mode. -/
def State.accRead (s : State) (n : Nat) (x : Ctx) (p : Pass) (j : Nat) : AccRead :=
  let c := n / 2
  let a := n % 2
  if p.overwrites then { invalid := false, prev := [] }
  else
    let rows := (p.rows j).map (fun r =>
      (s.acc.bytes (accAt c a ((x.accBase + r) * 1024 + 4 * p.firstCol)) (4 * p.cols)).toArray)
    let entry := fun (i : Nat) (b : Array Byte) =>
      leNat [b.getD (4 * i) 0, b.getD (4 * i + 1) 0, b.getD (4 * i + 2) 0, b.getD (4 * i + 3) 0]
    { invalid := s.rowsInvalid c a x.accBase p j
      prev := (upTo p.cols).map (fun i => rows.foldr (fun b v => entry i b + v * 2 ^ 32) 0) }

/-- What a vector brings to A2: results and conditions; none when an operand is poisoned (with the cause). -/
def Flight.vectorOut (f : Flight) (v : Act) (r : AccRead) : Option Nat × List Nat × Conds :=
  let p := f.pass
  let badW := match f.wts with | some w => w.bad | none => false
  if v.bad then (some 2, [], {})
  else if badW then (some 3, [], {})
  else if r.invalid then (some 5, [], {})
  else
    let blk := match f.wts with | some w => w.block.toArray | none => #[]
    let prev := r.prev.toArray
    let outs := (upTo p.cols).map (fun i => accumulate p (prev.getD i 0) (colSum p v.data v.scales blk i))
    (none, outs.map Prod.fst, outs.foldl (fun t o => t.join o.2) {})

/-- A condition that is trapped. -/
def Conds.trapped (k : Conds) (t : Nat) : Bool := (k.range && bit t 3) || (k.ovf && bit t 2) || (k.nan && bit t 1) || (k.inf && bit t 0)

/-- The conditions whose TRAP bit is clear are counted, once per vector (R115, R116). -/
def State.countConds (s : State) (k : Conds) (t : Nat) : State :=
  let s := if k.range && !bit t 3 then s.count 0x2901 3 else s
  let s := if k.ovf && !bit t 2 then s.count 0x2901 4 else s
  let s := if k.nan && !bit t 1 then s.count 0x2901 5 else s
  let s := if k.inf && !bit t 0 then s.count 0x2901 6 else s
  if k.loss then s.count 0x2901 7 else s

/-- Record poison or a trap that awaits its registration; of one cause and context the earliest stands (Table 3-10). -/
def State.wound (s : State) (n h cause c : Nat) (p : Pass) : State :=
  let u := s.half n h
  if u.wounds.any (fun w => w.1 == cause && w.2.2.ctx == p.ctx && w.2.2.inc == p.inc) then s
  else s.setHalf n h { u with wounds := u.wounds ++ [(cause, c, p)] }

/-- Entries of a row of an accumulator store are written from `o` on; their errors are gone. -/
def State.putEntries (s : State) (o : Nat) (bs : Bytes) : State :=
  { s with acc := Store.putAll bs o { s.acc with
      bad := s.acc.bad.filter (fun w => !(decide (o / 4 ≤ w) && decide (4 * w < o + bs.length))) } }

/-- A2 of vector `j` in cycle `c2` (R87 to R89, R110, R111, R115): written, marked invalid, or suppressed by its own trap;
the second component says that the flight is cut there. -/
def State.runVector (s : State) (n h : Nat) (x : Ctx) (f : Flight) (j c2 : Nat) (v : Act) (r : AccRead) : State × Bool :=
  let p := f.pass
  let c := n / 2
  let a := n % 2
  match f.vectorOut v r with
  | (some _, _, _) => (s.flagRows c a x.accBase p j false, false)
  | (none, vs, k) =>
    let s := s.countConds k p.trap
    if k.trapped p.trap then ((s.flagRows c a x.accBase p j false).wound n h 6 c2 p, true)
    else
      let s := forEach ((p.rows j).zipIdx) s (fun r s =>
        s.putEntries (accAt c a ((x.accBase + r.1) * 1024 + 4 * p.firstCol))
          (vs.flatMap (fun v => leBytes 4 (v / 2 ^ (32 * r.2)))))
      (if p.overwrites then s.flagRows c a x.accBase p j true else s, false)

/-- A flight still has vectors to bring to A2, and its context is there. -/
def State.flies (s : State) (f : Flight) : Bool := decide (f.done < f.pass.n) && f.cut.isNone && (s.ctx? f.pass.ctx).isSome

/-! The feeder (R71, R73, R74, R133, R195). -/

/-- The first feeder slot behind the passes that have become current (R74). -/
def HalfUnit.slot (u : HalfUnit) : Nat := u.flights.foldl (fun m f => max m (f.lastEntry + f.pass.period)) u.slotFrom

/-- The first cycle in which a pass may enter: 4 cycles after its issue (R133) and behind the pass that feeds (R74). From it on
its weight-wait cycles count (R78; DEDUCED, log 140). -/
def HalfUnit.mayEnter (u : HalfUnit) (p : Pass) : Nat := max (p.at_ + 4) u.slot

/-- The pass whose weights the port loads next: the earliest queued one with WKEEP = 0. -/
def HalfUnit.wants (u : HalfUnit) : Option Pass := u.queue.find? (fun p => !p.keep)

/-- Cycles from the last read of a load to the cycle at whose end the shadow is complete, counted from the cycle of a next
read (R76). -/
def Pass.loadTail (p : Pass) : Nat := if p.fromTs then 2 else 13

/-- The cycle at whose end the load in progress for a pass is complete, once all of its block has been read. -/
def HalfUnit.loadEnd (u : HalfUnit) (p : Pass) : Option Nat :=
  if u.loadAt.isSome && decide (p.blockBytes ≤ u.loaded.length) then some (u.loadNext + p.loadTail) else none

/-- The cycle at whose end the weights of a pass stand ready, if it is known: 0 with WKEEP (R78, R79). -/
def HalfUnit.readyAt (u : HalfUnit) (p : Pass) : Option Nat :=
  if p.keep then some 0
  else match u.shadow with
    | some (_, d) => some (d + 1)
    | none => (u.loadEnd p).map (· + 1)

/-- The first feeder slot of a half from cycle `c` on: in split mode the cycles of its own array phase (R81). -/
def State.slotAt (s : State) (n h c : Nat) : Nat := if (s.array n).split && s.cclkPhase c % 2 != h then c + 1 else c

/-- The cycle in which the first queued pass enters the feeder, as far as it is known (R78). -/
def State.planned (s : State) (n h : Nat) : Option Nat :=
  let u := s.half n h
  match u.queue with
  | [] => none
  | p :: _ => (u.readyAt p).map (fun r => s.slotAt n h (max (u.mayEnter p) r) + p.period * u.late)

/-- Vectors that the feeder reads before the first one enters: its data take 3 cycles (R195). -/
def Pass.lead (p : Pass) : Nat := min p.n ((2 + p.period) / p.period)

/-- What the feeder of a half reads next: pass, vector, cycle of the read. The first queued pass is read ahead. -/
def State.feedNext (s : State) (n h : Nat) : Option (Pass × Nat × Nat) :=
  let u := s.half n h
  match u.flights.find? (fun f => s.flies f && decide (f.nextRead < f.pass.n)) with
  | some f => some (f.pass, f.nextRead, f.next - 3)
  | none =>
    match u.queue, s.planned n h with
    | p :: _, some e =>
      if u.ahead.length < p.lead ∧ (s.ctx? p.ctx).isSome then some (p, u.ahead.length, e + p.period * u.ahead.length - 3) else none
    | _, _ => none

/-- The request of a feeder in cycle `t`: a row of the tile scratchpad, across all its banks (R192, Table 7-2). -/
def State.feedAsk (s : State) (n h t : Nat) : List Ask :=
  match s.feedNext n h with
  | some (p, j, c) =>
    if c ≤ t then
      let o := p.actAt n (s.ctx p.ctx) j
      [{ who := .feeder n h, ctx := p.ctx, rank := h, ports := tsPorts false o 256, reads := [spanOf 1 8 o 256] }]
    else []
  | none => []

/-- The first flight of a half that still reads, changed. -/
def HalfUnit.onReading (u : HalfUnit) (g : Flight → Flight) : List Flight → List Flight
  | [] => []
  | f :: fs => if f.nextRead < f.pass.n ∧ f.cut.isNone then g f :: fs else f :: HalfUnit.onReading u g fs

/-- The feeder of a half reads its next vector. -/
def State.feedRead (s : State) (n h : Nat) : State :=
  match s.feedNext n h with
  | none => s
  | some (p, j, _) =>
    let x := s.ctx p.ctx
    let v := s.readAct n x p j
    let s := if v.bad then s.noticeBad 1 8 (p.actAt n x j) 256 else s
    let u := s.half n h
    match u.flights.find? (fun f => s.flies f && decide (f.nextRead < f.pass.n)) with
    | some f =>
      let s := s.setHalf n h { u with flights := u.onReading (fun f => { f with
        acts := f.acts ++ [{ v with at_ := f.next }], next := f.next + p.period }) u.flights }
      if v.bad then s.wound n h 2 f.next p else s
    | none => s.setHalf n h { u with ahead := u.ahead ++ [v] }

/-- A feeder slot is lost: it delays every later vector and is counted (R73). -/
def State.feedLost (s : State) (n h : Nat) : State :=
  let u := s.half n h
  let s := s.addReg (kArr 0x50 n) 1
  if u.flights.any (fun f => s.flies f && decide (f.nextRead < f.pass.n)) then
    s.setHalf n h { u with flights := u.onReading (fun f => { f with next := f.next + f.pass.period }) u.flights }
  else s.setHalf n h { u with late := u.late + 1 }

/-! The accumulate stages (R71, R87 to R89). -/

/-- A2 of the vector whose cycle has come by cycle `t`. -/
def State.a2Flight (s : State) (n h t : Nat) (f : Flight) : State × Flight :=
  match s.ctx? f.pass.ctx, f.acts, f.a1 with
  | some x, v :: vs, some r =>
    if s.flies f ∧ v.at_ + 21 ≤ t then
      let o := s.runVector n h x f f.done (v.at_ + 21) v r
      (o.1, { f with done := f.done + 1, acts := vs, a1 := none, cut := if o.2 then some (v.at_ + 21) else none })
    else (s, f)
  | _, _, _ => (s, f)

/-- A1 of the vector whose cycle has come by cycle `t`: it sees what A2 writes in its cycle (R87). -/
def State.a1Flight (s : State) (n h t : Nat) (f : Flight) : State × Flight :=
  match s.ctx? f.pass.ctx, f.acts, f.a1 with
  | some x, v :: _, none =>
    if s.flies f ∧ v.at_ + 20 ≤ t then
      let r := s.accRead n x f.pass f.done
      let s := forEach (if f.pass.overwrites then [] else f.pass.rows f.done) s (fun r s =>
        s.noticeBad 2 4 (accAt (n / 2) (n % 2) ((x.accBase + r) * 1024 + 4 * f.pass.firstCol)) (4 * f.pass.cols))
      (if r.invalid then s.wound n h 5 (v.at_ + 20) f.pass else s, { f with a1 := some r })
    else (s, f)
  | _, _, _ => (s, f)

/-- Apply an operation to the flights of a half, in order. -/
def State.eachFlight (s : State) (n h : Nat) (g : State → Flight → State × Flight) : State :=
  let r := (s.half n h).flights.foldl (fun (t : State × List Flight) f => let o := g t.1 f; (o.1, t.2 ++ [o.2])) (s, [])
  if (s.half n h).flights.isEmpty then s else r.1.setHalf n h { r.1.half n h with flights := r.2 }

/-- Stages A2 and A1 of a half in cycle `t`. -/
def State.accHalf (s : State) (n h t : Nat) : State :=
  s.eachFlight n h (fun s f => let o := s.a2Flight n h t f; o.1.a1Flight n h t o.2)

/-- The entries that A2 of a half writes in cycle `t`. -/
def State.a2Spans (s : State) (n h t : Nat) : List Span :=
  (s.half n h).flights.flatMap (fun f =>
    match f.acts, f.a1 with
    | v :: _, some _ =>
      if s.flies f ∧ v.at_ + 21 ≤ t then
        (f.pass.rows f.done).map (fun r => spanOf 2 4
          (accAt (n / 2) (n % 2) (((s.ctx f.pass.ctx).accBase + r) * 1024 + 4 * f.pass.firstCol)) (4 * f.pass.cols))
      else []
    | _, _ => [])

/-- The next cycle in which a flight is at A1 or A2. -/
def State.flightDue (s : State) (f : Flight) : Option Nat :=
  match f.acts with
  | v :: _ => if s.flies f then some (if f.a1.isSome then v.at_ + 21 else v.at_ + 20) else none
  | [] => none

/-! The weight port (R76, R77, R92). -/

/-- Bytes that the port reads in one cycle, and the cycles from one read to the next (R76). -/
def Pass.rowBytes (p : Pass) : Nat := if p.fromTs then p.cols else 128
/-- Cycles between reads. -/
def Pass.rowPeriod (p : Pass) : Nat := if !p.fromTs && p.half != 0 then 2 else 1

/-- The read of the load in progress: pass and cycle. -/
def State.loadNext? (s : State) (n h : Nat) : Option (Pass × Nat) :=
  let u := s.half n h
  match u.loadAt, u.wants with
  | some _, some p => if u.loaded.length < p.blockBytes ∧ (s.ctx? p.ctx).isSome then some (p, u.loadNext) else none
  | _, _ => none

/-- Where the port reads next: a byte of the tile scratchpads or of stack memory. -/
def State.loadFrom (s : State) (n h : Nat) (p : Pass) : Nat :=
  let o := (s.half n h).loaded.length
  if p.fromTs then tsAt (n / 2) (n % 2) ((s.ctx p.ctx).tsBase * 256 + bits p.w3 10 0 * 256) + o else bits p.w3 21 0 * 128 + o

/-- The request of a weight port in cycle `t`: a row of the scratchpad or half of one, or a row of stack memory in the slice
that falls to it (R76, R193, R204, R205). -/
def State.loadAsk (s : State) (n h t : Nat) : List Ask :=
  match s.loadNext? n h with
  | some (p, c) =>
    if c ≤ t then
      let o := s.loadFrom n h p
      let a : Ask := { who := .weights n h, ctx := p.ctx, rank := 2 + h }
      [if p.fromTs then { a with ports := tsPorts false o p.rowBytes, reads := [spanOf 1 8 o p.rowBytes] }
       else { a with slices := [s.streamSlice (n / 2) t (o / 128)], reads := [spanOf 3 128 o 128] }]
    else []
  | none => []

/-- The port reads the next row of the block, as it stands in this cycle `t` (R77). A poisoned word reaches the shadow 3 or
14 cycles later (R195, R206). -/
def State.loadRow (s : State) (n h t : Nat) : State :=
  match s.loadNext? n h with
  | none => s
  | some (p, _) =>
    let o := s.loadFrom n h p
    let m := if p.fromTs then s.ts else s.stack
    let bad := m.tainted 8 o p.rowBytes
    let u := s.half n h
    let s := s.setHalf n h { u with
      loaded := u.loaded ++ m.bytes o p.rowBytes, loadBad := u.loadBad || bad, loadNext := t + p.rowPeriod }
    if bad then
      (s.noticeBad (if p.fromTs then 1 else 3) 8 o p.rowBytes).wound n h 3 (t + if p.fromTs then 3 else 14) p
    else s

/-- A refused read lengthens the load by one cycle (R194, R205). -/
def State.loadLost (s : State) (n h t : Nat) : State := s.setHalf n h { s.half n h with loadNext := t + 1 }

/-! Drains (R95, R96). -/

/-- The first pass boundary of a half at or after cycle `c`, of the passes that are current or were last (R94). -/
def HalfUnit.boundary (u : HalfUnit) (c : Nat) : Option Nat :=
  ((u.bound :: u.flights.map Flight.lastEntry).filter (fun b => decide (c ≤ b))).min?

/-- A pass has a write that a fault suppresses: a trap has cut it, or poison of its context reaches a boundary before its
last write is made (R94, R95). -/
def HalfUnit.spoiled (u : HalfUnit) (f : Flight) : Bool :=
  f.cut.isSome || u.wounds.any (fun w => w.2.2.ctx == f.pass.ctx && w.2.2.inc == f.pass.inc &&
    (match u.boundary w.2.1 with | some b => decide (b < f.lastEntry + 21) | none => false))

/-- A pass is not wholly written, or has a write that a fault suppresses. -/
def HalfUnit.unfinished (u : HalfUnit) (f : Flight) : Bool := decide (f.done < f.pass.n) || u.spoiled f

/-- The passes that a half holds: those that are current and not wholly written, then the queued ones. -/
def HalfUnit.passes (u : HalfUnit) : List Pass := (u.flights.filter u.unfinished).map Flight.pass ++ u.queue

/-- Rows of the vectors of a flight that have entered the feeder by cycle `c` and are not written become invalid, in that cycle
(R95; DEDUCED, log 125). -/
def State.suppress (s : State) (n c : Nat) (f : Flight) : State :=
  match s.ctx? f.pass.ctx with
  | none => s
  | some x =>
    forEach (f.acts.zipIdx.filter (fun v => decide (v.1.at_ ≤ c))) s (fun v s =>
      s.flagRows (n / 2) (n % 2) x.accBase f.pass (f.done + v.2) false)

/-- Weight-wait cycles of the first queued pass up to cycle `c`: free feeder slots while its weights are not ready (R78). -/
def HalfUnit.waited (u : HalfUnit) (c : Nat) : Nat :=
  match u.queue with
  | p :: _ => if p.keep then 0 else (min c ((u.readyAt p).getD c) - u.mayEnter p) / p.period
  | [] => 0

/-- From cycle `c` + 1 a half drains the passes of a context: nothing more of it is written, its queued passes are
discarded, and of every other pass that has not entered the feeder the weights are loaded anew (R95, R96). A pass that is
wholly written stays, to complete. -/
def State.drainHalf (s : State) (n h k inc c : Nat) : State :=
  let u := s.half n h
  let mine := fun (p : Pass) => p.ctx == k && p.inc == inc
  let stops := fun (f : Flight) => mine f.pass && u.unfinished f
  let s := s.addReg (kArr 0x40 n) (if u.queue.head?.any mine then u.waited c else 0)
  let s := forEach (u.flights.filter stops) s (fun f s => s.suppress n c f)
  let u := s.half n h
  let feeding := u.flights.find? (fun f => !mine f.pass && decide (f.e ≤ c) && decide (c ≤ f.lastEntry))
  s.setHalf n h { u with
    queue := u.queue.filter (fun p => !mine p)
    flights := u.flights.filter (fun f => !stops f)
    ahead := []
    late := 0
    slotFrom := max u.slotFrom (c + 1)
    loadAt := none
    loaded := []
    loadBad := false
    shadow := none
    active := feeding.bind (fun f => f.wts)
    freeAt := c + 1
    clearAt := c + 22
    wounds := u.wounds.filter (fun w => !mine w.2.2) }

/-- A half has work of a context. -/
def HalfUnit.serves (u : HalfUnit) (k inc : Nat) : Bool := u.passes.any (fun p => p.ctx == k && p.inc == inc)

/-- The first queued pass with WKEEP that has no valid weights: the pass before it, or the active weights, are not of its
own context (R96). -/
def orphan : Option (Nat × Nat × Nat) → List Pass → Option Pass
  | _, [] => none
  | w, p :: ps =>
    if p.keep && w != some (p.ctx, p.inc, p.fmts) then some p else orphan (some (p.ctx, p.inc, p.fmts)) ps

/-- A fault of a half is recorded in 2410h, which shows nothing of an absent array, and counted (R94, R95, R99). -/
def State.recordArrayFault (s : State) (n h cause tag : Nat) : State :=
  let r := kArr 0x10 n
  let s :=
    if !gArray s.grade n then s
    else if h = 1 then ((s.setField r 31 28 cause).setBit r 9 true).setField (kArr 0x20 n) 31 16 tag
    else ((s.setField r 27 24 cause).setBit r 8 true).setField (kArr 0x20 n) 15 0 tag
  s.count 0x2901 1 (tag * 2 ^ 16 + cause * 2 ^ 8 + n)

end Sys2Proof.Machine
end

