-- ==== Sys2Proof/Machine/Vectors.lean ====
section
/-! DEFINITION. The vector unit: descriptors, their checks, the operations, and the steps of a descriptor cycle by
cycle (05 R134 to R139, 04 R117 to R123). -/
namespace Sys2Proof.Machine

/-- Vector unit of core `c`. -/
def State.vec (s : State) (c : Nat) : VecUnit := tget (fun _ => {}) s.vectors c
/-- Replace it. -/
def State.setVec (s : State) (c : Nat) (x : VecUnit) : State := { s with vectors := tset (fun _ => {}) s.vectors c x }

/-! Descriptor fields (Table 5-4). -/

/-- Word `i` of a descriptor. -/
def Desc.w (d : Desc) (i : Nat) : Nat := d.ws.getD i 0
/-- Steps N. -/
def Desc.steps (d : Desc) : Nat := bits (d.w 0) 63 48 + 1
/-- OCV. -/
def Desc.ocv (d : Desc) : Bool := bit (d.w 0) 38
/-- DSK. -/
def Desc.dsk (d : Desc) : Nat := bits (d.w 0) 37 36
/-- Kinds of sources A, B, C (0, 1, 2). -/
def Desc.kind (d : Desc) (i : Nat) : Nat :=
  match i with
  | 0 => bits (d.w 0) 29 27
  | 1 => bits (d.w 0) 32 30
  | _ => bits (d.w 0) 35 33
/-- TBL. -/
def Desc.tbl (d : Desc) : Nat := bits (d.w 0) 19 18
/-- LFMT = FP32 lane pairs. -/
def Desc.wide (d : Desc) : Bool := bits (d.w 0) 17 16 == 1
/-- VOP. -/
def Desc.vop (d : Desc) : Nat := bits (d.w 0) 12 8
/-- OCONV. -/
def Desc.oconv (d : Desc) : Nat := bits (d.w 6) 63 32
/-- ICONV. -/
def Desc.iconv (d : Desc) : Nat := bits (d.w 6) 31 0
/-- TAG of a vector descriptor. -/
def Desc.vtag (d : Desc) : Nat := bits (d.w 7) 63 48
/-- Lane format. -/
def Desc.fmt (d : Desc) : Fmt := if d.wide then fp32 else bf16
/-- Lanes per step. -/
def Desc.lanes (d : Desc) : Nat := if d.wide then 256 else 512
/-- Bytes of a lane element. -/
def Desc.esize (d : Desc) : Nat := if d.wide then 4 else 2

/-- Number of sources of an operation (Table 5-5); none for reserved codes. -/
def vopSources (v : Nat) : Option Nat :=
  match v with
  | 0x00 => some 1
  | 0x01 => some 2
  | 0x02 => some 2
  | 0x03 => some 2
  | 0x04 => some 3
  | 0x05 => some 2
  | 0x06 => some 2
  | 0x07 => some 1
  | 0x08 => some 1
  | 0x09 => some 3
  | 0x0A => some 3
  | 0x0B => some 1
  | 0x0C => some 1
  | 0x0D => some 1
  | 0x10 => some 1
  | 0x11 => some 1
  | 0x12 => some 1
  | 0x13 => some 1
  | 0x14 => some 1
  | 0x15 => some 1
  | _ => none

/-- SSUM, SMAX, SMIN. -/
def isStepRed (v : Nat) : Bool := within v 0x10 0x12
/-- LSUM, LMAX, LMIN. -/
def isLaneRed (v : Nat) : Bool := within v 0x13 0x15

/-- ADDR and STR of a stream operand word. -/
def strAddr (w j : Nat) : Int := (bits w 19 0 : Int) + (j : Int) * sbits w 51 20

/-- Bytes that a converted group of `n` elements takes. -/
def cvBytes (w n : Nat) : Nat := (n * cvWidth w + 7) / 8

/-- Bytes that a step writes at the destination stream. -/
def Desc.outBytes (d : Desc) : Nat :=
  let n := if isLaneRed d.vop then 1 else d.lanes
  if d.ocv then cvBytes d.oconv n else n * d.esize

/-- Address of a step's destination: reductions over steps ignore STR; lane reductions advance by the lane element
(R134, R136, log 123). -/
def Desc.outAddr (d : Desc) (j : Nat) : Int :=
  if isStepRed d.vop then (bits (d.w 5) 19 0 : Int)
  else if isLaneRed d.vop then (bits (d.w 5) 19 0 : Int) + (j : Int) * (d.esize : Int)
  else strAddr (d.w 5) j

/-- Scale bytes of one step for an MX destination. -/
def Desc.scales (d : Desc) : Nat := d.lanes / 32

/-- A range of context bytes lies in one tile scratchpad's window. -/
def inOneTs (x : Ctx) (a : Int) (n : Nat) : Bool :=
  decide (0 ≤ a) &&
  (decide (a + n ≤ (x.tsRows * 256 : Nat)) ||
   (decide ((tsBytes : Int) ≤ a) && decide (a + n ≤ (tsBytes + x.tsRows * 256 : Nat))))

/-- Rows that an accumulator source reads at each step. -/
def Desc.accRowsOf (d : Desc) : Nat := if cvSfmt d.iconv = 2 ∨ cvSfmt d.iconv = 3 then 3 else 1
/-- Row of step `j` of an accumulator stream. -/
def Desc.accRow (d : Desc) (j : Nat) : Int := (bits (d.w 1) 10 1 : Int) + (j : Int) * sbits (d.w 1) 21 11

/-- An operand word without nonzero reserved bits for its kind. -/
def operandOk (kind w : Nat) (wide : Bool) : Bool :=
  match kind with
  | 0 => w == 0
  | 1 => bits w 63 52 == 0
  | 2 => bits w 63 4 == 0
  | 3 => bits w 63 32 == 0 && (wide || bits w 31 16 == 0)
  | 4 => bits w 63 22 == 0
  | _ => false

/-- A vector descriptor is a descriptor fault (R132, R134, R136). -/
def vectorFault (x : Ctx) (d : Desc) : Bool :=
  let srcs := (vopSources d.vop).getD 4
  let js := List.range d.steps
  let stream := fun (i : Nat) => d.kind i == 1 && js.any (fun j =>
    let a := strAddr (d.w (1 + i)) j
    !inOneTs x a 1024 || a % (d.esize : Int) != 0)
  let accA := d.kind 0 == 4
  (vopSources d.vop).isNone || bits (d.w 0) 47 39 != 0 || decide (2 ≤ d.dsk) || decide (2 ≤ bits (d.w 0) 17 16) ||
  bits (d.w 0) 15 13 != 0 || (d.tbl != 0 && d.vop != 0x0B) || bits (d.w 4) 63 8 != 0 || bits (d.w 4) 7 0 != 0xFF ||
  (!d.ocv && d.oconv != 0) || (!accA && d.iconv != 0) || bits (d.w 7) 47 20 != 0 ||
  (bits (d.w 7) 19 0 != 0 && !(d.ocv && cvIsMx d.oconv)) ||
  (upTo 3).any (fun i => (decide (i < srcs) == (d.kind i == 0)) || !operandOk (d.kind i) (d.w (1 + i)) d.wide) ||
  d.kind 1 == 4 || d.kind 2 == 4 || !operandOk (if d.dsk = 0 then 1 else 2) (d.w 5) d.wide ||
  (accA && (!d.wide || !cvOk d.iconv || cvDfmt d.iconv != 9)) ||
  (d.ocv && (!cvOk d.oconv || d.dsk == 1)) ||
  (upTo 3).any stream ||
  (accA && js.any (fun j => decide (d.accRow j < 0) || decide ((x.accRows : Int) < d.accRow j + d.accRowsOf))) ||
  (d.dsk == 0 && (if isStepRed d.vop then [0] else js).any (fun j =>
    !inOneTs x (d.outAddr j) d.outBytes || d.outAddr j % (d.esize : Int) != 0)) ||
  (d.ocv && cvIsMx d.oconv && js.any (fun j => !inOneTs x (bits (d.w 7) 19 0 + j * d.scales : Nat) d.scales)) ||
  (isLaneRed d.vop && d.dsk == 1 && decide (d.lanes < d.steps))

/-! Sources. -/

/-- Split bytes into lane patterns. -/
def lanesOf (e : Nat) : Nat → Bytes → List Nat
  | 0, _ => []
  | n + 1, bs => leNat (bs.take e) :: lanesOf e n (bs.drop e)

/-- What the unit reads of source `i` of step `j` in a cycle of the step: bytes `o` to `o` + 255 of a stream, or the whole
of a register or of the rows of an accumulator stream, each byte with its poison mark (R135, R138, 07 R224). -/
def State.sourceBytes (s : State) (x : Ctx) (d : Desc) (i j o : Nat) : List Marked :=
  let w := d.w (1 + i)
  match d.kind i with
  | 1 =>
    let a := (strAddr w j).toNat
    s.ts.read 8 (tsAt x.core (a / tsBytes) (x.tsBase * 256 + a % tsBytes) + o) 256
  | 2 => Store.read { cells := x.vregs, poison := x.vbad } 2 (bits w 3 0 * 1024) 1024
  | 4 =>
    (upTo d.accRowsOf).flatMap (fun i =>
      let b := accAt x.core (w % 2) ((x.accBase + (d.accRow j).toNat + i) * 1024)
      (s.acc.bytes b 1024).zipIdx.map (fun v => (v.1, s.accInvalid (b + v.2))))
  | _ => []

/-- The lane vector of source `i` from what has been read of it: patterns, draws and conversions clipped; an accumulator
stream is converted under ICONV and may draw (R135). -/
def State.sourceLanes (s : State) (k : Nat) (x : Ctx) (d : Desc) (i : Nat) (xs : List Marked) : List Nat × Nat × Nat :=
  let bs := xs.map Prod.fst
  match d.kind i with
  | 1 => (lanesOf d.esize d.lanes bs, 0, 0)
  | 2 => (lanesOf d.esize d.lanes bs, 0, 0)
  | 3 => (List.replicate d.lanes (bits (d.w (1 + i)) 31 0 % 2 ^ (8 * d.esize)), 0, 0)
  | 4 =>
    let cols := (upTo d.accRowsOf).map (fun r => (lanesOf 4 256 (bs.drop (1024 * r))).toArray)
    let img := s.image (ctxJob k)
    let one := fun (c : Nat) =>
      let v := cols.foldr (fun b t => b.getD c 0 + t * 2 ^ 32) 0
      convert d.iconv (cvRound d.iconv (ozjSeed img) (ctxLane k) (x.draws + c)) (cvSource d.iconv v)
    let rs := (upTo 256).map one
    (rs.map Prod.fst, if cvRnd d.iconv = 2 then 256 else 0, (rs.filter (fun r => r.2)).length)
  | _ => (List.replicate d.lanes 0, 0, 0)

/-! Operations (Table 5-5, R123, R137). -/

/-- Segment of a lookup table for a lane pattern: c1 and c0. -/
def Ctx.segmentOf (x : Ctx) (d : Desc) (a : Nat) : Nat × Nat :=
  let g := if d.wide then bits a 31 21 else bits a 15 5
  let o := d.tbl * 16384 + 8 * g
  let bs := expandFrom 8 o (x.luts.dropWhile (fun c => decide (c.1 < o)))
  (leNat (bs.take 4), leNat (bs.drop 4))

/-- The segment of a lane pattern holds poisoned data. -/
def Ctx.segmentBad (x : Ctx) (d : Desc) (a : Nat) : Bool :=
  let g := if d.wide then bits a 31 21 else bits a 15 5
  let w := (d.tbl * 16384 + 8 * g) / 4
  hasKey x.lbad w || hasKey x.lbad (w + 1)

/-- One lane of an operation that is no reduction. -/
def laneOp (x : Ctx) (d : Desc) (a b c : Nat) : Nat :=
  let f := d.fmt
  let na := f.decode a
  let nb := f.decode b
  let nc := f.decode c
  match d.vop with
  | 0x00 => if f.isNan a then f.nanBits else a
  | 0x01 => f.encode (na.add nb)
  | 0x02 => f.encode (na.add nb.neg)
  | 0x03 => f.encode (na.mul nb)
  | 0x04 => f.encode ((na.mul nb).add nc)
  | 0x05 => f.max a b
  | 0x06 => f.min a b
  | 0x07 => f.encode na.abs
  | 0x08 => f.encode na.neg
  | 0x09 => let v := if f.greater a 0 then b else c; if f.isNan v then f.nanBits else v
  | 0x0A => f.min (f.max a b) c
  | 0x0B =>
    if f.isNan a then f.nanBits
    else
      let sg := x.segmentOf d a
      f.encode (((fp32.decode sg.1).mul na).add (fp32.decode sg.2))
  | 0x0C => f.encode na.recip
  | _ => f.encode na.rsqrt

/-- One combining step of a reduction. -/
def combine (d : Desc) (a b : Nat) : Nat :=
  let f := d.fmt
  match d.vop with
  | 0x10 => f.encode ((f.decode a).add (f.decode b))
  | 0x13 => f.encode ((f.decode a).add (f.decode b))
  | 0x11 => f.max a b
  | 0x14 => f.max a b
  | _ => f.min a b

/-- Combine a list in ascending order. -/
def combineAll (d : Desc) : List Nat → Nat
  | [] => 0
  | a :: as => as.foldl (combine d) a

/-! Destinations. -/

/-- Pack patterns of a width into bytes, least significant first. -/
def packBits (w : Nat) (vs : List Nat) : Bytes :=
  if w = 4 then
    let rec go : List Nat → Bytes
      | [] => []
      | [a] => [BitVec.ofNat 8 (a % 16)]
      | a :: b :: t => BitVec.ofNat 8 (a % 16 + 16 * (b % 16)) :: go t
    go vs
  else vs.flatMap (fun v => leBytes (w / 8) v)

/-- Converted blocks of 32: scale bytes, elements, clipped, for elements numbered from `n`. -/
def mxBlocks (w : Nat) (md : Nat → Round) : Nat → Nat → List Num → List Nat × List Nat × Nat
  | 0, _, _ => ([], [], 0)
  | k + 1, n, xs =>
    let b := mxBlock w (fun i => md (n + i)) (xs.take 32)
    let r := mxBlocks w md k (n + 32) (xs.drop 32)
    (b.1 :: r.1, b.2.1 ++ r.2.1, b.2.2 + r.2.2)

/-- The output conversion of one step: bytes, scale bytes, draws, clipped. A lane is taken as the format that SFMT names (R117;
DEDUCED, log 139). -/
def convertOut (s : State) (k : Nat) (x : Ctx) (d : Desc) (vs : List Nat) : Bytes × Bytes × Nat × Nat :=
  let img := s.image (ctxJob k)
  let md := fun (i : Nat) => cvRound d.oconv (ozjSeed img) (ctxLane k) (x.draws + i)
  let xs := vs.map (cvSource d.oconv)
  let draws := if cvRnd d.oconv = 2 then xs.length else 0
  if cvIsMx d.oconv then
    let r := mxBlocks d.oconv md ((xs.length + 31) / 32) 0 xs
    (packBits 8 r.2.1, r.1.map (BitVec.ofNat 8), draws, r.2.2)
  else
    let rs := xs.zipIdx.map (fun p => convert d.oconv (md p.2) p.1)
    (packBits (cvWidth d.oconv) (rs.map Prod.fst), [], draws, (rs.filter (fun r => r.2)).length)

/-- Put marked bytes into a context's vector registers. -/
def Ctx.putReg (x : Ctx) (a : Nat) (bs : List Marked) : Ctx :=
  let m := Store.write { cells := x.vregs, poison := x.vbad } 2 a bs
  { x with vregs := m.cells, vbad := m.poison }

/-! Timing (R138). -/

/-- A context byte address lies in tile scratchpad `t`. -/
def inTs (t : Nat) (a : Int) : Bool := a.toNat / tsBytes == t

/-- Step `j` writes: a reduction over steps does after its last alone (R136). -/
def Desc.writesIn (d : Desc) (j : Nat) : Bool := !isStepRed d.vop || j + 1 == d.steps

/-- Bytes that step `j` moves at tile scratchpad `t`. -/
def Desc.tsTraffic (d : Desc) (t j : Nat) : Nat :=
  ((upTo 3).filter (fun i => d.kind i == 1 && inTs t (strAddr (d.w (1 + i)) j))).length * 1024 +
  (if d.writesIn j then
    (if d.dsk == 0 && inTs t (d.outAddr j) then d.outBytes else 0) +
    (if d.ocv && cvIsMx d.oconv && inTs t (bits (d.w 7) 19 0 + j * d.scales : Nat) then d.scales else 0) else 0)

/-- Step time t_j. -/
def Desc.stepTime (d : Desc) (j : Nat) : Nat :=
  max 1 (max ((d.tsTraffic 0 j + 255) / 256) ((d.tsTraffic 1 j + 255) / 256))

/-- The cycle of step `j`, counted from s_j, in which source `i` is read first: the streams of one scratchpad follow each
other, 256 bytes in a cycle. -/
def Desc.turnOf (d : Desc) (i j : Nat) : Nat :=
  if d.kind i = 1 then
    4 * ((upTo i).filter (fun k => d.kind k == 1 &&
      (strAddr (d.w (1 + k)) j).toNat / tsBytes == (strAddr (d.w (1 + i)) j).toNat / tsBytes)).length
  else 0

/-- Sources read in cycle `q` of step `j`, each with the first byte of what is read of it. -/
def Desc.readsIn (d : Desc) (j q : Nat) : List (Nat × Nat) :=
  (upTo 3).filterMap (fun i =>
    let t := d.turnOf i j
    if d.kind i = 1 then (if t ≤ q ∧ q < t + 4 then some (i, 256 * (q - t)) else none)
    else if q = 0 then some (i, 0) else none)

/-- Cycles of step `j` that read. -/
def Desc.readTime (d : Desc) (j : Nat) : Nat :=
  (upTo 3).foldl (fun m i => max m (if d.kind i = 1 then d.turnOf i j + 4 else 1)) 1

/-- Cut bytes for a destination into pieces of 256. -/
def cutPieces : Nat → Nat → List Marked → List (Nat × List Marked)
  | 0, _, _ => []
  | n + 1, a, xs => if xs.isEmpty then [] else (a, xs.take 256) :: cutPieces n (a + 256) (xs.drop 256)

/-- The write cycles of a step whose last falls in cycle `w`: 256 bytes at a scratchpad in each (R138, Table 7-2). -/
def spreadWrites (w : Nat) (regs : List (Nat × List Marked)) (ts : List (Nat × List Marked)) : List StepOut :=
  let ps := ts.flatMap (fun r => cutPieces (r.2.length / 256 + 1) r.1 r.2)
  let at_ := fun (t : Nat) => ps.filter (fun p => p.1 / tsBytes == t)
  let n := max 1 (max (at_ 0).length (at_ 1).length)
  (upTo n).map (fun q =>
    let of := fun (t : Nat) => ((at_ t)[q + (at_ t).length - n]?.toList).filter (fun _ => decide (n ≤ q + (at_ t).length))
    { at_ := w + 1 + q - n, regs := if q + 1 = n then regs else [], ts := of 0 ++ of 1 })

/-- What a step whose last write falls in cycle `w` writes at its destination (R135, R136), the draws it takes and the
conversions clipped. -/
def stepOut (s : State) (k : Nat) (x : Ctx) (d : Desc) (j w : Nat) (vs : List Nat) (bad : Bool) : List StepOut × Nat × Nat :=
  let mark := fun (bs : Bytes) => bs.map (fun b => (b, bad))
  if d.dsk = 1 then
    let a := bits (d.w 5) 3 0 * 1024 + (if isLaneRed d.vop then j * d.esize else 0)
    (spreadWrites w [(a, mark (packBits (8 * d.esize) vs))] [], 0, 0)
  else if d.ocv then
    let r := convertOut s k x d vs
    let sc := if cvIsMx d.oconv then [(bits (d.w 7) 19 0 + j * d.scales, mark r.2.1)] else []
    (spreadWrites w [] (((d.outAddr j).toNat, mark r.1) :: sc), r.2.2.1, r.2.2.2)
  else (spreadWrites w [] [((d.outAddr j).toNat, mark (packBits (8 * d.esize) vs))], 0, 0)

/-- An infinity or a NaN. -/
def Desc.isOdd (d : Desc) (v : Nat) : Bool := match d.fmt.decode v with | .fin _ _ _ => false | _ => true

/-- A unit begins the descriptor at its head, if there is one, which counts from its issue or from the cycle after the last
write of the one before (R138, log 124). -/
def VecUnit.open (u : VecUnit) : VecUnit :=
  match u.queue with
  | d :: _ => { u with start := max u.start d.at_, reads := 0, next := max u.start d.at_ + 1, sub := 0, got := [], pend := []
                       acc := [], bad := false, specials := false, clipped := 0 }
  | [] => u

/-- The head descriptor of a vector unit whose context is there, and the context. -/
def State.vecRuns (s : State) (c : Nat) : Option (Desc × Ctx) :=
  match (s.vec c).queue with
  | d :: _ => (s.ctx? d.ctx).map (fun x => (d, x))
  | [] => none

/-- The next step of the head descriptor has read its operands; its results wait for their write cycles, the last of them
`w`. A reduction over steps writes after its last step alone. -/
def State.computeStep (s : State) (c : Nat) (d : Desc) (x : Ctx) (w : Nat) : State :=
  let u := s.vec c
  let j := u.reads
  let of := fun (x : Ctx) (i : Nat) => s.sourceLanes d.ctx x d i (u.got.getD i [])
  let a := of x 0
  let x := { x with draws := x.draws + a.2.1 }
  let b := of x 1
  let e := of x 2
  let here := u.got.any (fun xs => xs.any (fun v => v.2)) || (d.vop == 0x0B && !x.lbad.isEmpty && a.1.any (x.segmentBad d))
  let bad := u.bad || here
  let acc := if isStepRed d.vop then
      (if j = 0 then (if d.steps = 1 then a.1.map (fun v => if d.fmt.isNan v then d.fmt.nanBits else v) else a.1)
       else u.acc.zipWith (combine d) a.1) else []
  let vs :=
    if isStepRed d.vop then acc
    else if isLaneRed d.vop then [combineAll d a.1]
    else (a.1.zip (b.1.zip e.1)).map (fun p => laneOp x d p.1 p.2.1 p.2.2)
  let shown := d.writesIn j
  let o := if shown then stepOut s d.ctx x d j w vs (if isStepRed d.vop then bad else here) else ([], 0, 0)
  (s.setCtx d.ctx { x with draws := x.draws + o.2.1 }).setVec c { u with
    reads := j + 1, sub := 0, got := [], pend := u.pend ++ o.1, acc := acc, bad := bad
    clipped := u.clipped + a.2.2 + o.2.2, specials := u.specials || (shown && vs.any d.isOdd) }

/-- The request of a vector unit that reads in cycle `t` (Table 7-2, R201). -/
def State.vecReadAsk (s : State) (c t : Nat) : List Ask :=
  match s.vecRuns c with
  | some (d, x) =>
    let u := s.vec c
    if u.reads < d.steps ∧ u.next ≤ t then
      let rs := d.readsIn u.reads u.sub
      let ts := (rs.filter (fun r => d.kind r.1 == 1)).map (fun r =>
        let a := (strAddr (d.w (1 + r.1)) u.reads).toNat
        tsAt x.core (a / tsBytes) (x.tsBase * 256 + a % tsBytes) + r.2)
      let acc := (rs.filter (fun r => d.kind r.1 == 4)).flatMap (fun r => (upTo d.accRowsOf).map (fun i =>
        accAt x.core (d.w (1 + r.1) % 2) ((x.accBase + (d.accRow u.reads).toNat + i) * 1024)))
      [{ who := .vecRead c, ctx := d.ctx, rank := 8
         ports := ts.flatMap (fun o => tsPorts false o 256) ++ acc.flatMap (fun o => accPorts false o 1024)
         reads := ts.map (fun o => spanOf 1 8 o 256) ++ acc.map (fun o => spanOf 2 4 o 1024) }]
    else []
  | none => []

/-- The vector unit of a core reads in cycle `t`: a cycle of the next step. -/
def State.vecRead (s : State) (c t : Nat) : State :=
  match s.vecRuns c with
  | some (d, x) =>
    let u := s.vec c
    let got := (upTo 3).map (fun i =>
      u.got.getD i [] ++ (((d.readsIn u.reads u.sub).filter (fun r => r.1 == i)).flatMap (fun r => s.sourceBytes x d i u.reads r.2)))
    let u' := { u with got := got }
    let s := forEach ((s.vecReadAsk c t).flatMap Ask.reads) s (fun x s => s.noticeSpan x)
    let ends := t + (d.stepTime u.reads - u.sub)
    if u.sub + 1 < d.readTime u.reads then s.setVec c { u' with sub := u.sub + 1, next := t + 1 }
    else (s.setVec c { u' with next := ends }).computeStep c d x (ends + 7)
  | none => s

/-- The request of a vector unit that writes in cycle `t`. -/
def State.vecWriteAsk (s : State) (c t : Nat) : List Ask :=
  match s.vecRuns c, (s.vec c).pend with
  | some (d, _), o :: _ =>
    if o.at_ ≤ t then
      [{ who := .vecWrite c, ctx := d.ctx, rank := 8, ports := o.ts.flatMap (fun r => s.ctxPorts true d.ctx r.1 r.2.length)
         writes := o.ts.flatMap (fun r => s.ctxSpans d.ctx r.1 r.2.length) }]
    else []
  | _, _ => []

/-- The vector unit of a core writes in cycle `t`. The descriptor's last write is followed by its completion, in the next
cycle, and by the next descriptor. -/
def State.vecWrite (s : State) (c t : Nat) : State :=
  match s.vecRuns c, (s.vec c).pend with
  | some (d, x), o :: os =>
    let s := s.setVec c { s.vec c with pend := os }
    let s := s.setCtx d.ctx (o.regs.foldl (fun x r => x.putReg r.1 r.2) x)
    let s := forEach o.ts s (fun r s => s.writeTs d.ctx r.1 r.2)
    let u := s.vec c
    if os.isEmpty && decide (d.steps ≤ u.reads) then
      let f : Done := { desc := d, at_ := t + 1, bad := u.bad, specials := u.specials, clipped := decide (0 < u.clipped) }
      s.setVec c ({ u with queue := u.queue.drop 1, start := t + 1, finish := u.finish ++ [f] } : VecUnit).open
    else s
  | _, _ => s

/-- A refused cycle lengthens the step (R138, R194): the reads to come, and after a refused write the writes too. One that a
feeder took is counted. -/
def State.vecLost (s : State) (c : Nat) (write feeder : Bool) : State :=
  let u := s.vec c
  let s := s.setVec c { u with
    next := u.next + 1, pend := if write then u.pend.map (fun o => { o with at_ := o.at_ + 1 }) else u.pend }
  if feeder then s.addReg (kCore c 8) 1 else s

/-- The next cycle in which a vector unit reads or writes. -/
def State.vecDue (s : State) (c : Nat) : Option Nat :=
  match s.vecRuns c with
  | some (d, _) =>
    let u := s.vec c
    ((if u.reads < d.steps then [u.next] else []) ++ (u.pend.head?.map (fun o => o.at_)).toList).min?
  | none => none

end Sys2Proof.Machine
end

