-- ==== Sys2Proof/Machine/Shunters.lean ====
section
/-! DEFINITION. Shunters: descriptors, their checks, the walk, and the reads and writes of a descriptor's parts cycle
by cycle (05 R140 to R143, 07 R219, 08 R229 to R236). -/
namespace Sys2Proof.Machine

/-- Shunter `n` of core `c`. -/
def State.shunter (s : State) (c n : Nat) : ShuntUnit := tget (fun _ => {}) s.shunters (8 * c + n)
/-- Replace it. -/
def State.setShunter (s : State) (c n : Nat) (x : ShuntUnit) : State :=
  { s with shunters := tset (fun _ => {}) s.shunters (8 * c + n) x }

/-- Add bytes to a register that counts KB. -/
def State.addKB (s : State) (k n : Nat) : State :=
  let t := tget (fun _ => 0) s.kbRest k + n
  ({ s with kbRest := tset (fun _ => 0) s.kbRest k (t % 1024) }).addReg k (t / 1024)

/-! Descriptor fields (Table 5-7). -/

/-- ISH. -/
def Desc.ish (d : Desc) : Nat := bits (d.w 0) 39 36
/-- SCAT. -/
def Desc.scat (d : Desc) : Bool := bit (d.w 0) 35
/-- GATH. -/
def Desc.gath (d : Desc) : Bool := bit (d.w 0) 34
/-- SEM. -/
def Desc.ssem (d : Desc) : Nat := bits (d.w 0) 33 28
/-- DONE. -/
def Desc.sdone (d : Desc) : Bool := bit (d.w 0) 27
/-- DIR = descending. -/
def Desc.down (d : Desc) : Bool := bit (d.w 0) 26
/-- HOPS. -/
def Desc.hops (d : Desc) : Nat := bits (d.w 0) 25 23
/-- DSP. -/
def Desc.dsp (d : Desc) : Nat := bits (d.w 0) 22 19
/-- SSP. -/
def Desc.ssp (d : Desc) : Nat := bits (d.w 0) 18 15
/-- SHN. -/
def Desc.shn (d : Desc) : Nat := bits (d.w 0) 10 8
/-- TAG of a shunter descriptor. -/
def Desc.stag (d : Desc) : Nat := bits (d.w 3) 63 48
/-- Inner count I. -/
def Desc.inner (d : Desc) : Nat := bits (d.w 3) 27 16 + 1
/-- Outer count J. -/
def Desc.outer (d : Desc) : Nat := bits (d.w 3) 39 28 + 1
/-- Run length. -/
def Desc.run (d : Desc) : Nat := bits (d.w 3) 15 0 + 1
/-- Runs. -/
def Desc.runs (d : Desc) : Nat := d.inner * d.outer
/-- Write cycles of a run. -/
def Desc.partsOf (d : Desc) : Nat := (d.run + 63) / 64
/-- U: write cycles of the descriptor. -/
def Desc.total (d : Desc) : Nat := d.runs * d.partsOf
/-- Port number. -/
def Desc.port (d : Desc) : Nat := bits (d.w 2) 39 32
/-- Index table. -/
def Desc.idxa (d : Desc) : Nat := bits (d.w 7) 19 0

/-- Start of run `k` on one side of the walk (R140). -/
def Desc.walk (d : Desc) (base strides : Nat) (k : Nat) : Int :=
  (base : Int) + ((k % d.inner : Nat) : Int) * sbits strides 31 0 + ((k / d.inner : Nat) : Int) * sbits strides 63 32

/-- idx[k], read from the tile scratchpads. -/
def State.index (s : State) (d : Desc) (k : Nat) : Nat :=
  leNat (((s.readTs d.ctx (d.idxa + 4 * k) 4).getD []).map Prod.fst)

/-- Source address of run `k`, with idx[k] = `ix`. -/
def Desc.srcOf (d : Desc) (k ix : Nat) : Int :=
  if d.gath then ((bits (d.w 1) 39 0 + ix * 2 ^ d.ish : Nat) : Int) else d.walk (bits (d.w 1) 39 0) (d.w 5) k

/-- Destination address of run `k`, with idx[k] = `ix`. -/
def Desc.dstOf (d : Desc) (k ix : Nat) : Int :=
  if d.scat then ((bits (d.w 2) 39 0 + ix * 2 ^ d.ish : Nat) : Int) else d.walk (bits (d.w 2) 39 0) (d.w 6) k

/-- The walk uses an index table. -/
def Desc.indexed (d : Desc) : Bool := d.gath || d.scat

/-- Ports of R143 and their record sizes; a result stream takes its walk as one message. -/
def portRecord (p : Nat) : Option Nat :=
  if p = 0x00 ∨ within p 0x20 0x2B = true ∨ p = 0x30 ∨ p = 0x32 then some 32
  else if p = 0x31 then some 288
  else if p = 0x33 then some 64
  else if within p 0x10 0x1F then some 0
  else none

/-- The core and lane that a remote destination names; none if the job has no lane there. -/
def State.remoteLane (s : State) (k : Nat) (hops : Nat) (down : Bool) : Option Nat :=
  let x := s.ctx k
  let m := s.cores
  let c := if down then (x.core + m - hops % m) % m else (x.core + hops) % m
  let i := (s.job (ctxJob k)).cores.idxOf c
  if i < (s.job (ctxJob k)).cores.length then some (ctxKey (ctxJob k) i) else none

/-- Areas of external memory that belong to bank `b`, while READY: entries and words. -/
def State.bankSpans (s : State) (b : Nat) : List (Nat × Nat) :=
  let k := key (0x2B00 + b)
  let n := s.reg (k 2) * 2 ^ s.field' (k 1) 3 0
  if s.reg (k 5) = 1 then [(s.reg (k 6), 256 * n), (s.reg (k 7), 4 * n)] else []

/-- External memory that a job may read: its region, the banks its image names, and the sample areas of the intake
streams, where their descriptors lie. -/
def State.extSpans (s : State) (k : Nat) (write : Bool) : List (Nat × Nat) :=
  (match tfind s.regions (ctxJob k) with | some r => [r] | none => []) ++
    (if write then [] else (ozjBanks (s.image (ctxJob k))).flatMap s.bankSpans)

/-- A run of `n` bytes at an address of a space lies where the context may read or write (R141, Table 5-8). -/
def State.spaceOk (s : State) (k : Nat) (d : Desc) (write : Bool) (sp : Nat) (a : Int) (n : Nat) : Bool :=
  decide (0 ≤ a) &&
  (let a := a.toNat
   match sp with
   | 0 => s.tsInside k a n
   | 1 =>
     let w := (s.ctx k).accRows * 1024
     decide (a + n ≤ w) || (decide (accBytes ≤ a) && decide (a + n ≤ accBytes + w))
       || (decide (w = accBytes) && decide (a + n ≤ 2 * accBytes))
   | 2 => inSpans (s.heldSpans k ++ if write then [] else s.lineSpans k) a n
   | 3 => inSpans (s.extSpans k write) a n
   | 4 =>
     match s.remoteLane k d.hops d.down with
     | some t => if (s.ctx? t).isSome then s.tsInside t a n else decide (a + n ≤ 2 * tsBytes)
     | none => false
   | _ => true)

/-- A shunter descriptor is a descriptor fault of cause 1h (R132, R141). -/
def State.shunterMalformed (s : State) (d : Desc) : Bool :=
  let lanes := ozjLanes (s.image (ctxJob d.ctx))
  let remote := d.dsp == 4
  bits (d.w 0) 63 40 != 0 || bits (d.w 0) 14 11 != 0 || bits (d.w 1) 63 40 != 0 || bits (d.w 2) 63 40 != 0 ||
  bits (d.w 3) 47 40 != 0 || bits (d.w 4) 63 8 != 0 || bits (d.w 4) 7 0 != 0xFF ||
  (!d.gath && !d.scat && d.ish != 0) || (!remote && d.hops != 0) ||
  !(decide (d.ssp ≤ 3) || d.ssp == 6) || decide (6 ≤ d.dsp) || (d.gath && d.scat) ||
  (remote && (d.hops == 0 || decide (lanes ≤ d.hops))) ||
  (d.ssp == 6 && (d.gath || d.scat || d.w 1 != 0)) ||
  (d.ssp != 6 && (if d.gath || d.scat then bits (d.w 7) 63 20 != 0 else d.w 7 != 0)) ||
  (d.dsp == 5 && (portRecord d.port).isNone)

/-- A shunter descriptor is an address fault found in its issue cycle (R141): a walk on either side, or the index
table. -/
def State.shunterStray (s : State) (d : Desc) : Bool :=
  let ks := List.range d.runs
  ((d.gath || d.scat) && !s.tsInside d.ctx d.idxa (4 * d.runs)) ||
  (!d.gath && d.ssp != 6 && ks.any (fun k => !s.spaceOk d.ctx d false d.ssp (d.walk (bits (d.w 1) 39 0) (d.w 5) k) d.run)) ||
  (!d.scat && d.dsp != 5 && ks.any (fun k => !s.spaceOk d.ctx d true d.dsp (d.walk (bits (d.w 2) 39 0) (d.w 6) k) d.run))

/-- idx[k] = `ix` gives an address outside its space (R141). -/
def State.indexStray (s : State) (d : Desc) (k ix : Nat) : Bool :=
  (d.gath && !s.spaceOk d.ctx d false d.ssp (d.srcOf k ix) d.run) ||
  (d.scat && d.dsp != 5 && !s.spaceOk d.ctx d true d.dsp (d.dstOf k ix) d.run)

/-- Credits that a context holds on every link of a descriptor's path. -/
def State.pathCredits (s : State) (k : Nat) (hops : Nat) (down : Bool) : Nat :=
  let x := s.ctx k
  match (s.pathLinks x.core hops down).map x.creditsOn with
  | [] => 0
  | n :: ns => ns.foldl min n

/-- Remote descriptors of a core's shunters that are active: begun and not complete (R150). -/
def State.activeRemotes (s : State) (c : Nat) : List Desc :=
  (upTo 8).flatMap (fun n =>
    let u := s.shunter c n
    (if u.begun then u.queue.take 1 else []) ++ u.finish.map Done.desc)

/-- A remote descriptor has a credit free for it on every link of its path; every other descriptor may begin (R150). -/
def State.mayBegin (s : State) (d : Desc) : Bool :=
  d.dsp != 4 ||
    (let x := s.ctx d.ctx
     let links := s.pathLinks x.core d.hops d.down
     let uses := (s.activeRemotes x.core).filter (fun e => e.ctx == d.ctx && e.inc == d.inc && e.dsp == 4)
     links.all (fun l => decide ((uses.filter (fun e => (s.pathLinks x.core e.hops e.down).contains l)).length < x.creditsOn l)))

/-! Reads from the gather engine (R229, R232, R234, R236). -/

/-- The bank whose area holds an external address, with its word-table flag and the offset in the area. -/
def State.bankAt (s : State) (a : Nat) : Option (Nat × Bool × Nat) :=
  (upTo 16).findSome? (fun b =>
    match s.bankSpans b with
    | [e, w] =>
      if e.1 ≤ a ∧ a < e.1 + e.2 then some (b, false, a - e.1)
      else if w.1 ≤ a ∧ a < w.1 + w.2 then some (b, true, a - w.1) else none
    | _ => none)

/-- Bytes of one cell in a bank's entry area or word table. -/
def State.cellBytes (s : State) (b : Nat) (words : Bool) : Nat :=
  2 ^ s.field' (key (0x2B00 + b) 1) 3 0 * (if words then 4 else 256)

/-- Bytes of the hot cells in a bank's entry area or word table. -/
def State.hotBytes (s : State) (b : Nat) (words : Bool) : Nat := s.reg (key (0x2B00 + b) 3) * s.cellBytes b words

/-- Where the hot cells' entries or words lie in stack memory: the two parts of the bank's hot allotment (R228). -/
def State.hotBase (s : State) (b : Nat) (words : Bool) : Option Nat :=
  (s.allotOf (ownHot b)).map (fun a => if words then a.base + roundUp (s.hotBytes b false) kb64 else a.base)

/-- The hot copy that serves a run of `n` bytes in a bank: one that lies wholly in hot cells (R234). -/
def State.hotRun (s : State) (b : Nat) (words : Bool) (o n : Nat) : Option Nat :=
  if o + n ≤ s.hotBytes b words then s.hotBase b words else none

/-- A part of `n` bytes at `a`, of a run of `len` bytes from `r`, as external memory `ext` or the gather engine delivers it.
Poison from a bank is recorded with its cell (R236). -/
def State.readExt (s : State) (ext : Store) (r len a n : Nat) : List Marked × State :=
  match s.bankAt r with
  | none => (ext.read 32 a n, s.noticeBad 4 32 a n)
  | some (b, words, o) =>
    let k := key (0x2B00 + b)
    let s := s.addKB (k 0x0D) n
    let hot := s.hotRun b words o len
    let xs := match hot with
      | some h => s.stack.read 8 (h + o + (a - r)) n
      | none => ext.read 32 a n
    let s := match hot with | some h => s.noticeBad 3 8 (h + o + (a - r)) n | none => s
    (xs, match xs.zipIdx.find? (fun x => x.1.2) with
      | some x =>
        ((s.setReg (key 0x2500 0x36) (badLocation 4 ((a + x.2) / 32 * 32))).setReg (k 0x0C)
          ((o + (a - r) + x.2) / max 1 (s.cellBytes b words))).count 0x2902 0x0D
      | none => s)

/-! Reserved slots of external memory (10 R290). -/

/-- Controller and channel of a transaction as one number (R216). -/
def channelOf (a : Nat) : Nat := a / 256 % 4 * 8 + a / 1024 % 8

/-- The first count from `r` on at which core `c` has a slot for a channel. -/
def slotFrom (c ch r : Nat) : Nat :=
  let at_ := fun (f m : Nat) => f * 96 + 3 * (64 * c + 32 * m + 4 * (ch % 8) + ch / 8) / 16
  let f := r / 96
  (([at_ f 0, at_ f 1, at_ (f + 1) 0, at_ (f + 1) 1].filter (fun x => decide (r ≤ x))).min?).getD r

/-- External transactions of a requester, or of all, outstanding in cycle `t`. -/
def State.outstanding (s : State) (t : Nat) (who : Option Nat) : Nat :=
  (s.extBusy.filter (fun b => decide (t < b.2) && (who == none || who == some b.1))).length

/-- A transaction at `a` takes core `c`'s next slot of its channel in cycle `t` or later: the cycle in which it completes,
216 CCLK after its slot. -/
def State.takeSlot (s : State) (c who t a : Nat) : Nat × State :=
  let k := 32 * c + channelOf a
  let n := slotFrom c (channelOf a) (max (t - s.alignC) (tget (fun _ => 0) s.slots k))
  let done := s.alignC + n + 216
  let busy := s.extBusy.filter (fun (b : Nat × Nat) => decide (t < b.2))
  let s := { s with slots := tset (fun _ => 0) s.slots k (n + 1), extBusy := busy ++ [(who, done)] }
  (done, s.setReg (key 0x2500 0x3F) (max (s.reg (key 0x2500 0x3F)) (s.outstanding t none)))

/-- The transactions of 64 bytes that `n` bytes at `a` touch take their slots; the cycle in which the last completes. -/
def State.takeSlots (s : State) (c who t a n : Nat) : Nat × State :=
  (wordsOf 64 a n).foldl (fun (r : Nat × State) w => let o := r.2.takeSlot c who t (64 * w); (max r.1 o.1, o.2)) (t, s)

/-- A requester has room for two more transactions (R219): of a shunter 64, of the gather engine 512, of all 4,096. -/
def State.extRoom (s : State) (who t : Nat) : Bool :=
  decide (s.outstanding t (some who) + 2 ≤ if who = 64 then 512 else 64) && decide (s.outstanding t none + 2 ≤ 4096)

/-- Whose transactions the reads of a run are: the gather engine's in a bank (08 R232), else the shunter's. -/
def State.extWho (s : State) (c n r : Nat) : Nat := if (s.bankAt r).isSome then 64 else 8 * c + n

/-! Parts. -/

/-- Part `o` bytes into run `k` from the source space. External memory shows a shunter its own outstanding writes (R219). -/
def State.readPart (s : State) (d : Desc) (sent : List (Nat × (Nat × List Marked))) (k ix o n : Nat) : List Marked × State :=
  let r := (d.srcOf k ix).toNat
  let a := r + o
  match d.ssp with
  | 0 => ((s.readTs d.ctx a n).getD [], forEach (s.ctxSpans d.ctx a n) s (fun x s => s.noticeSpan x))
  | 1 => ((List.range n).filterMap (fun i => (s.accSpot d.ctx (a + i)).map s.peek),
          match s.accSpot d.ctx a with | some (.acc o) => s.noticeBad 2 4 o n | _ => s)
  | 2 => (s.stack.read 8 a n, s.noticeBad 3 8 a n)
  | 3 => s.readExt (sent.foldl (fun m w => m.write 32 w.2.1 w.2.2) s.ext) r d.run a n
  | _ => (clean ((List.range n).map (fun i => BitVec.ofNat 8 (d.w 7 / 2 ^ (8 * ((o + i) % 8))))), s)

/-- Cycles from the read of a part to its write, where the source fixes them (R140, R142). -/
def Desc.srcDelay (d : Desc) : Nat := match d.ssp with | 6 => 0 | 1 => 2 | 0 => 3 | _ => 14

/-- L_s (R142). -/
def Desc.latency (d : Desc) : Nat := d.srcDelay + (if d.indexed then 3 else 0)

/-- The reads have their cycles: the source is not external memory, or external memory has reserved slots. -/
def State.paced (s : State) (d : Desc) : Bool := d.ssp != 3 || s.det

/-- Its timing is fixed on both sides: the destination is no external memory without reserved slots and no port other than
00h (R142, 10 R290). -/
def State.fixed (s : State) (d : Desc) : Bool := s.paced d && (d.dsp != 3 || s.det) && !(d.dsp == 5 && d.port != 0)

/-- Cycle in which part `u` is read by a descriptor that counts from cycle `i` and has lost `l` cycles (R142). -/
def Desc.readCycle (d : Desc) (i l u : Nat) : Nat := i + 2 + (if d.indexed then 3 else 0) + u + l

/-- Cycle in which idx[k] is read: L_s cycles before the first write cycle of run `k` (R141). -/
def Desc.indexCycle (d : Desc) (i l k : Nat) : Nat := i + 2 + k * d.partsOf + l

/-- Runs whose index has been read. -/
def ShuntUnit.indexed (u : ShuntUnit) (d : Desc) : Nat := u.parts / d.partsOf + u.idx.length
/-- Parts that have been read. -/
def ShuntUnit.reads (u : ShuntUnit) : Nat := u.parts + u.held.length
/-- The index of a run that is under way. -/
def ShuntUnit.index (u : ShuntUnit) (d : Desc) (k : Nat) : Nat := u.idx.getD (k - u.parts / d.partsOf) 0

/-- An index is to be read next, for run `indexed`. -/
def ShuntUnit.wantsIndex (u : ShuntUnit) (d : Desc) : Bool :=
  u.begun && d.indexed && u.stray.isNone && decide (u.indexed d < d.runs)

/-- A part can be read next: there is one, and its address is known. -/
def ShuntUnit.wantsPart (u : ShuntUnit) (d : Desc) : Bool :=
  u.begun && decide (u.reads < d.total) && (!d.indexed || decide (u.reads / d.partsOf < u.indexed d))

/-- The part that a shunter reads next: its source address and length. -/
def ShuntUnit.nextRead (u : ShuntUnit) (d : Desc) : Nat × Nat :=
  let k := u.reads / d.partsOf
  let o := u.reads % d.partsOf * 64
  ((d.srcOf k (u.index d k)).toNat + o, min 64 (d.run - o))

/-- The part that a shunter writes next: its destination address. -/
def ShuntUnit.nextWrite (u : ShuntUnit) (d : Desc) : Nat :=
  (d.dstOf (u.parts / d.partsOf) (u.index d (u.parts / d.partsOf))).toNat + u.parts % d.partsOf * 64

/-- The word idx[k] is poisoned. -/
def State.indexBad (s : State) (d : Desc) (k : Nat) : Bool :=
  ((s.readTs d.ctx (d.idxa + 4 * k) 4).getD []).any (fun v => v.2)

/-- The head of a shunter reads an index. One that strays stops the walk before its run (R141); a poisoned one is followed as it
reads, and its run is written poisoned (07 R224; DEDUCED, log 141). -/
def State.takeIndex (s : State) (c n t : Nat) (d : Desc) : State :=
  let u := s.shunter c n
  let k := u.indexed d
  let ix := s.index d k
  let bad := s.indexBad d k
  let s := forEach (s.ctxSpans d.ctx (d.idxa + 4 * k) 4) s (fun x s => s.noticeSpan x)
  s.setShunter c n (if s.indexStray d k ix then { u with stray := some t }
    else { u with idx := u.idx ++ [ix], tainted := if bad then u.tainted ++ [k] else u.tainted })

/-- The stack memory from which the next part of a gather run of hot cells is read (08 R234); deterministic mode reads it in the
core's own phase (10 Table 10-3). -/
def State.hotPart (s : State) (u : ShuntUnit) (d : Desc) : Option Nat :=
  let k := u.reads / d.partsOf
  let r := (d.srcOf k (u.index d k)).toNat
  if d.ssp = 3 ∧ s.det then
    match s.bankAt r with
    | some (b, words, o) => (s.hotRun b words o d.run).map (fun h => h + o + u.reads % d.partsOf * 64)
    | none => none
  else none

/-- The head of a shunter reads a part in cycle `t`, which is written when the source has delivered it. -/
def State.takePart (s : State) (c n t : Nat) (d : Desc) : State :=
  let u := s.shunter c n
  let k := u.reads / d.partsOf
  let o := u.reads % d.partsOf * 64
  let a := u.nextRead d
  let r := s.readPart d u.sent k (u.index d k) o a.2
  let q := if d.ssp = 3 ∧ s.det ∧ s.hotPart u d = none then r.2.takeSlots c (s.extWho c n (a.1 - o)) t a.1 a.2 else (t + d.srcDelay, r.2)
  let due := max q.1 (match u.held.getLast? with | some x => x.1 + 1 | none => 0)
  let xs := if u.tainted.contains k then r.1.map (fun v => (v.1, true)) else r.1
  q.2.setShunter c n { u with held := u.held ++ [(due, xs)] }

/-! Ports (R143). -/

/-- A record of a context's walk to a port, written in cycle `t`, on its way: fire orders and records of sensor-control
channels cross to SCLK (10 R286), a batch record reaches the scheduler 8 cycles later (09 R278), and the others arrive as the
cycle closes, those of one cycle in ascending order of their cores. -/
def State.sendRecord (s : State) (core t : Nat) (d : Desc) (bs : List Marked) : State :=
  let e : Effect := .port core d.port d.ctx d.inc bs
  if d.port = 0 ∨ within d.port 0x20 0x2B = true then s.opens (s.toSclk t) e
  else if d.port = 0x32 then s.opensC (t + 8) core e
  else s.closesC t core e

/-- The whole records that a stream of bytes begins with, and the bytes after them. -/
def wholeRecords (sz : Nat) (xs : List Marked) : List (List Marked) × List Marked :=
  if sz = 0 then ([], xs)
  else ((upTo (xs.length / sz)).map (fun i => (xs.drop (sz * i)).take sz), xs.drop (sz * (xs.length / sz)))

/-- The whole records of a stream of bytes of a descriptor, written in cycle `t`, are sent to its port. -/
def State.sendRecords (s : State) (core t : Nat) (d : Desc) (xs : List Marked) : State :=
  forEach (wholeRecords ((portRecord d.port).getD 0) xs).1 s (fun bs s => s.sendRecord core t d bs)

/-- A shunter has begun a descriptor that writes to the verdict port, whose records must cross in time. -/
def State.carries (s : State) : Bool :=
  (upTo 48).any (fun m =>
    let u := s.shunter (m / 8) (m % 8)
    u.begun && (match u.queue with | d :: _ => d.dsp == 5 && d.port == 0 | [] => false))

/-- While that is so, the units are brought up to the present every four cycles: a crossing takes five (10 R286). -/
def State.carryOn (s : State) : State :=
  if s.carries && !s.later.any (fun l => l.act == .carry) then s.opensC (s.cclk + 4) 0 .carry else s

/-- The link by which a remote write arrives: the last of its path. -/
def State.lastLink (s : State) (d : Desc) : Nat := ((s.pathLinks (s.ctx d.ctx).core d.hops d.down).getLast?).getD 0

/-- Write one part at the destination in cycle `t`. A remote write arrives 6 cycles per hop later, and external memory shows
a write in a reserved slot 216 cycles after it (R142, 10 R290). -/
def State.writePart (s : State) (c n t : Nat) (d : Desc) (a : Nat) (xs : List Marked) : State :=
  match d.dsp with
  | 0 => s.writeTs d.ctx a xs
  | 1 => match s.accSpot d.ctx a with | some p => s.poke p xs | none => s
  | 2 => s.poke (.stack a) xs
  | 3 =>
    if s.det then
      let q := s.takeSlots c (8 * c + n) t a xs.length
      let u := q.2.shunter c n
      q.2.setShunter c n { u with sent := u.sent ++ [(q.1, (a, xs))] }
    else s.poke (.ext a) xs
  | 4 =>
    match s.remoteLane d.ctx d.hops d.down with
    | some k => { s with arrivals := s.arrivals ++ [{ came := t + 6 * d.hops - 1, due := t + 6 * d.hops - 1, core := c, shn := n
                                                      link := s.lastLink d, ctx := k, addr := a, data := xs }] }
    | none => s
  | _ =>
    let u := s.shunter c n
    let ys := u.stream ++ xs
    if d.port = 0 then (s.setShunter c n { u with stream := (wholeRecords 32 ys).2 }).sendRecords c t d ys
    else s.setShunter c n { u with stream := ys }

/-- Cycle in which the completion of a descriptor of fixed timing is signalled (R142); `last` is its last write. A fire order
enters its queue in the SCLK cycle after its crossing, and that cycle crosses back (14 R372). -/
def State.signalAt (s : State) (u : ShuntUnit) (d : Desc) (last : Nat) : Nat :=
  match d.dsp with
  | 2 => last + 2
  | 3 => u.sent.foldl (fun m w => max m w.1) (last + 1)
  | 4 => last + 6 * d.hops
  | 5 => s.toCclk (s.toSclk last + 1)
  | _ => last + 1

/-- The head of a shunter begins, counting from cycle `i`. -/
def ShuntUnit.begin (u : ShuntUnit) (i : Nat) : ShuntUnit :=
  { u with begun := true, start := i, slip := 0, parts := 0, held := [], idx := [], tainted := [], stray := none, stream := [] }

/-- The head of a shunter begins where it may: in its issue cycle, or in the cycle after the last write of the one before it
(R142, R150). -/
def State.beginNext (s : State) (c n : Nat) : State :=
  let u := s.shunter c n
  match u.queue with
  | d :: _ => if !u.begun && s.mayBegin d then (s.setShunter c n (u.begin (max u.start d.at_))).carryOn else s
  | [] => s

/-- The head of a shunter has made its last write, in cycle `last`: it waits for its completion, and the next one begins. -/
def State.shunterLeaves (s : State) (c n last : Nat) (d : Desc) : State :=
  let u := s.shunter c n
  (s.setShunter c n { queue := u.queue.drop 1, start := last + 1, sent := u.sent, acceptAt := u.acceptAt
                      finish := u.finish ++ [{ desc := d, at_ := s.signalAt u d last, stream := u.stream }] }).beginNext c n

/-- The head of a shunter writes a part that it has read, in cycle `t`. -/
def State.putPart (s : State) (c n t : Nat) (d : Desc) : State :=
  let u := s.shunter c n
  match u.held with
  | x :: rest =>
    let ends := d.indexed && (u.parts + 1) % d.partsOf == 0
    let s := s.setShunter c n { u with parts := u.parts + 1, held := rest, idx := if ends then u.idx.drop 1 else u.idx }
    s.writePart c n t d (u.nextWrite d) x.2
  | [] => s

/-! Requests (R193, R194, R201, R204). -/

/-- The head of a shunter that has begun, with its context there. -/
def State.shuntHead (s : State) (c n : Nat) : Option Desc :=
  match (s.shunter c n).queue with
  | d :: _ => if (s.shunter c n).begun && (s.ctx? d.ctx).isSome then some d else none
  | [] => none

/-- The ports of a range of an accumulator store of a context. -/
def State.accRange (s : State) (write : Bool) (k a n : Nat) : List Nat :=
  match s.accSpot k a with | some (.acc o) => accPorts write o n | _ => []

/-- The head reads its next index in cycle `t`. -/
def State.indexDue (s : State) (c n t : Nat) (d : Desc) : Bool :=
  let u := s.shunter c n
  s.paced d && u.wantsIndex d && decide (d.indexCycle u.start u.slip (u.indexed d) ≤ t)

/-- The head reads its next part in cycle `t`. -/
def State.partDue (s : State) (c n t : Nat) (d : Desc) : Bool :=
  let u := s.shunter c n
  s.paced d && u.wantsPart d && decide (d.readCycle u.start u.slip u.reads ≤ t)

/-- The head writes its next part in cycle `t`. -/
def State.putDue (s : State) (c n t : Nat) (d : Desc) : Bool :=
  match (s.shunter c n).held with
  | x :: _ => s.fixed d && decide (x.1 ≤ t)
  | [] => false

/-- A shunter stalls in cycle `t` for want of an outstanding transaction, or before a full buffer of remote arrivals. -/
def State.shuntStalls (s : State) (c n t : Nat) (d : Desc) (write : Bool) : Bool :=
  if write then
    (d.dsp == 3 && !s.extRoom (8 * c + n) t) ||
    (d.dsp == 4 && decide (16 ≤ (s.arrivals.filter (fun a => a.link == s.lastLink d && decide (a.came ≤ t))).length))
  else d.ssp == 3 && (s.hotPart (s.shunter c n) d).isNone && !s.extRoom (s.extWho c n ((s.shunter c n).nextRead d).1) t

/-- The requests of a shunter in cycle `t`. -/
def State.shuntAsks (s : State) (c n t : Nat) : List Ask :=
  match s.shuntHead c n with
  | none => []
  | some d =>
    let u := s.shunter c n
    let ask := fun (w : Requester) => ({ who := w, ctx := d.ctx, rank := w.rank } : Ask)
    (if s.indexDue c n t d then [{ ask (.index c n) with ports := s.ctxPorts false d.ctx (d.idxa + 4 * u.indexed d) 4 }] else []) ++
    (if s.partDue c n t d && !s.shuntStalls c n t d false then
      let a := u.nextRead d
      [match d.ssp with
       | 0 => { ask (.shuntRead c n) with ports := s.ctxPorts false d.ctx a.1 a.2 }
       | 1 => { ask (.shuntRead c n) with ports := s.accRange false d.ctx a.1 a.2 }
       | 2 => { ask (.shuntRead c n) with slices := [s.streamSlice c t (a.1 / 128)] }
       | _ => match s.hotPart u d with
         | some h => { ask (.gather c n) with slices := [s.streamSlice c t (h / 128)] }
         | none => ask (.shuntRead c n)] else []) ++
    (if s.putDue c n t d && !s.shuntStalls c n t d true then
      let a := u.nextWrite d
      let m := (u.held.head?.map (fun x => x.2.length)).getD 0
      [match d.dsp with
       | 0 => { ask (.shuntWrite c n) with ports := s.ctxPorts true d.ctx a m, writes := s.ctxSpans d.ctx a m }
       | 1 => { ask (.shuntWrite c n) with
                ports := s.accRange true d.ctx a m
                writes := match s.accSpot d.ctx a with | some (.acc o) => [spanOf 2 4 o m] | _ => [] }
       | 2 => { ask (.shuntWrite c n) with slices := slicesOf a m, writes := [spanOf 3 128 a m] }
       | _ => ask (.shuntWrite c n)] else [])

/-- The reads of a shunter that are granted in cycle `t`. -/
def State.shuntRead (s : State) (c n t : Nat) (ok : Requester → Bool) : State :=
  match s.shuntHead c n with
  | none => s
  | some d =>
    let index := s.indexDue c n t d && ok (.index c n)
    let part := s.partDue c n t d && (ok (.shuntRead c n) || ok (.gather c n))
    let s := if part then s.takePart c n t d else s
    if index then s.takeIndex c n t d else s

/-- The write of a shunter that is granted in cycle `t`; after the last the descriptor leaves the queue. -/
def State.shuntWrite (s : State) (c n t : Nat) (ok : Requester → Bool) : State :=
  match s.shuntHead c n with
  | none => s
  | some d =>
    if s.putDue c n t d && ok (.shuntWrite c n) then
      let s := s.putPart c n t d
      if d.total ≤ (s.shunter c n).parts then s.shunterLeaves c n t d else s
    else s

/-- A refused or stalled cycle delays what a shunter still has to read, and a refused write what it has read too (R142,
R194, R205). -/
def State.shuntLost (s : State) (c n : Nat) (write : Bool) : State :=
  let u := s.shunter c n
  s.setShunter c n { u with slip := u.slip + 1, held := if write then u.held.map (fun x => (x.1 + 1, x.2)) else u.held }

/-- The writes that external memory shows in cycle `t`. -/
def State.shuntShows (s : State) (c n t : Nat) : State :=
  let u := s.shunter c n
  match u.sent.filter (fun w => decide (w.1 ≤ t)) with
  | [] => s
  | ws =>
    forEach ws (s.setShunter c n { u with sent := u.sent.filter (fun w => decide (t < w.1)) }) (fun w s =>
      s.poke (.ext w.2.1) w.2.2)

/-! Remote arrivals (R194). -/

/-- The arrivals that ask in cycle `t`: the oldest of each shunter. -/
def State.arrivalHeads (s : State) (t : Nat) : List Arrival :=
  (s.arrivals.filter (fun a => decide (a.due ≤ t))).foldl
    (fun hs a => if hs.any (fun h => h.core == a.core && h.shn == a.shn) then hs else hs ++ [a]) []

/-- Their requests, in the order of links. -/
def State.arrivalAsks (s : State) (t : Nat) : List Ask :=
  (s.arrivalHeads t).map (fun a =>
    { who := .arrival a.core a.shn, ctx := a.ctx, rank := 16 + a.link
      ports := s.ctxPorts true a.ctx a.addr a.data.length, writes := s.ctxSpans a.ctx a.addr a.data.length })

/-- The arrivals granted in cycle `t` are written. -/
def State.arriveRemote (s : State) (t : Nat) (ok : Requester → Bool) : State :=
  forEach ((s.arrivalHeads t).filter (fun a => ok (.arrival a.core a.shn))) s (fun a s =>
    ({ s with arrivals := s.arrivals.erase a } : State).writeTs a.ctx a.addr a.data)

/-- The arrivals of a shunter wait a cycle. -/
def State.arrivalLost (s : State) (c n t : Nat) : State :=
  { s with arrivals := s.arrivals.map (fun a => if a.core = c ∧ a.shn = n ∧ a.due ≤ t + 1 then { a with due := a.due + 1 } else a) }

/-- The next cycle in which a shunter reads or writes. -/
def State.shuntDue (s : State) (c n : Nat) : Option Nat :=
  let u := s.shunter c n
  let own := match s.shuntHead c n with
    | some d =>
      (if s.paced d && u.wantsIndex d then [d.indexCycle u.start u.slip (u.indexed d)] else []) ++
      (if s.paced d && u.wantsPart d then [d.readCycle u.start u.slip u.reads] else []) ++
      (match u.held with | x :: _ => if s.fixed d then [x.1] else [] | [] => [])
    | none => []
  (own ++ u.sent.map Prod.fst).min?

/-- Read what is left of the head descriptor's source, part by part, as far as its indices lead. -/
def State.readRest (c n t : Nat) (d : Desc) : Nat → State → State
  | 0, s => s
  | m + 1, s =>
    let u := s.shunter c n
    let s := if u.wantsIndex d && decide (u.indexed d ≤ u.reads / d.partsOf) then s.takeIndex c n t d else s
    let u := s.shunter c n
    if u.wantsPart d then State.readRest c n t d m (s.takePart c n t d) else s

/-- Write the parts that have been read. -/
def State.writeRest (c n t : Nat) (d : Desc) : Nat → State → State
  | 0, s => s
  | m + 1, s => if (s.shunter c n).held.isEmpty then s else State.writeRest c n t d m (s.putPart c n t d)

/-- Copy what is left of the head descriptor in cycle `t`: one whose timing is not fixed, or the runs before one whose index
strays. -/
def State.copyRest (s : State) (c n t : Nat) (d : Desc) : State :=
  State.writeRest c n t d (d.total + 1) (State.readRest c n t d (d.total + 1) s)

/-- Before a write to a bank the gather runs of descriptors under way are served: they arrived first (08 R235, log 126). -/
def State.serveRuns (s : State) : State :=
  forEach (upTo 48) s (fun m s =>
    match s.shuntHead (m / 8) (m % 8) with
    | some d => if s.paced d then s else State.readRest (m / 8) (m % 8) s.cclk d (d.total + 1) s
    | none => s)

end Sys2Proof.Machine
end

