-- ==== Sys2Proof/Machine/Topk.lean ====
section
/-! DEFINITION. The top-k units: commands, candidate rows, lists, and their reads and writes cycle by cycle (08 R239 to
R242). -/
namespace Sys2Proof.Machine

/-- Top-k unit of core `c`. -/
def State.topk (s : State) (c : Nat) : TopkUnit := tget (fun _ => {}) s.topks c
/-- Replace it. -/
def State.setTopk (s : State) (c : Nat) (x : TopkUnit) : State := { s with topks := tset (fun _ => {}) s.topks c x }

/-- Word `i` of a command. -/
def TopkCmd.w (t : TopkCmd) (i : Nat) : Nat := leAt t.rec_ (8 * i) 8
/-- Queries Q. -/
def TopkCmd.q (t : TopkCmd) : Nat := bits (t.w 0) 47 40 + 1
/-- k. -/
def TopkCmd.k (t : TopkCmd) : Nat := bits (t.w 0) 39 36 + 1
/-- CSH. -/
def TopkCmd.csh (t : TopkCmd) : Nat := bits (t.w 0) 35 32
/-- METRIC 1. -/
def TopkCmd.l2 (t : TopkCmd) : Bool := bit (t.w 0) 12
/-- MERGE. -/
def TopkCmd.merge (t : TopkCmd) : Bool := bit (t.w 0) 11
/-- RCNT as a count of rows. -/
def TopkCmd.rows (t : TopkCmd) : Nat := bits (t.w 1) 20 10
/-- RBASE. -/
def TopkCmd.rbase (t : TopkCmd) : Nat := bits (t.w 1) 9 0
/-- IADR, WADR, RADR, QNADR. -/
def TopkCmd.iadr (t : TopkCmd) : Nat := bits (t.w 2) 39 20
/-- WADR. -/
def TopkCmd.wadr (t : TopkCmd) : Nat := bits (t.w 2) 19 0
/-- RADR. -/
def TopkCmd.radr (t : TopkCmd) : Nat := bits (t.w 3) 39 20
/-- QNADR. -/
def TopkCmd.qnadr (t : TopkCmd) : Nat := bits (t.w 3) 19 0
/-- Bytes of the lists. -/
def TopkCmd.listBytes (t : TopkCmd) : Nat := 8 * t.k * t.q

/-- A list record: key, ID, poison. -/
abbrev Ranked := Int × Nat × Bool

/-- Order of R240. -/
def rankBefore (a b : Ranked) : Bool := decide (a.1 < b.1) || (a.1 == b.1 && decide (a.2.1 < b.2.1))

/-- Insert a candidate into an ordered list unless it is there. -/
def rankInsert (a : Ranked) : List Ranked → List Ranked
  | [] => [a]
  | b :: bs =>
    if rankBefore a b then a :: b :: bs
    else if a.1 = b.1 ∧ a.2.1 = b.2.1 then b :: bs
    else b :: rankInsert a bs

/-- A 32-bit word of the tile scratchpads with its poison mark. -/
def State.tsWord (s : State) (k a : Nat) : Nat × Bool :=
  let xs := (s.readTs k a 4).getD []
  (leNat (xs.map Prod.fst), xs.any (fun b => b.2))

/-- An accumulator entry as an integer, with whether it is invalid or poisoned. -/
def State.accWord (s : State) (k arr row col : Nat) : Int × Bool :=
  match s.accSpot k (arr * 2 ^ 20 + row * 1024 + 4 * col) with
  | some (.acc a) => (signed 32 (leNat (s.acc.bytes a 4)), s.accInvalid a)
  | _ => (0, true)

/-- The key of a row for query `q`. -/
def State.topkKey (s : State) (t : TopkCmd) (q j norm : Nat) : Int × Bool :=
  let d := (s.accWord t.ctx (bits (t.w 0) 10 10) (t.rbase + j) q).1
  if t.l2 then
    let n := s.tsWord t.ctx (t.qnadr + 4 * q)
    (limit (-2147483648) 2147483647 ((n.1 : Int) + norm - 2 * d), n.2)
  else (limit (-2147483648) 2147483647 (-d), false)

/-- What the unit makes of row `j` (R239). -/
def State.topkRow (s : State) (t : TopkCmd) (j : Nat) : TopkSeen :=
  let w := s.tsWord t.ctx (t.wadr + 4 * j)
  let arr := bits (t.w 0) 10 10
  if w.2 then .discarded
  else if bit w.1 31 = false then .void
  else if (upTo t.q).any (fun q => (s.accWord t.ctx arr (t.rbase + j) q).2) then .discarded
  else
    let c := s.tsWord t.ctx (t.iadr + 4 * (j / 2 ^ t.csh))
    .row ((upTo t.q).map (fun q =>
      let k := s.topkKey t q j (bits w.1 22 0)
      (k.1, (c.1 * 2 ^ t.csh + j % 2 ^ t.csh) % 2 ^ 32, c.2 || k.2)))

/-- The record of an old list at byte `o` of the lists: key, ID, poison; an empty one is absent (R241). -/
def oldRecord (old : List Marked) (o : Nat) : Option Ranked :=
  let xs := (old.drop o).take 8
  let id := leNat ((xs.take 4).map Prod.fst)
  let key := leNat ((xs.drop 4).map Prod.fst)
  if key = 0x7FFFFFFF ∧ id = 0xFFFFFFFF then none else some (signed 32 key, id, xs.any (fun b => b.2))

/-- The members of the old list of query `q`, and whether a poisoned record was discarded. -/
def TopkCmd.oldList (t : TopkCmd) (old : List Marked) (q : Nat) : List Ranked × Bool :=
  if t.merge then
    let rs := (upTo t.k).map (fun i => 8 * (t.k * q + i))
    let bad := fun (o : Nat) => ((old.drop o).take 8).any (fun b => b.2)
    ((rs.filter (fun o => !bad o)).filterMap (oldRecord old), rs.any bad)
  else ([], false)

/-- The new list of query `q`, completed with empty records (R240, R241). -/
def TopkCmd.newList (t : TopkCmd) (old : List Marked) (seen : List TopkSeen) (q : Nat) : List Marked × Bool :=
  let o := t.oldList old q
  let cands := seen.filterMap (fun r => match r with | .row ks => ks[q]? | _ => none)
  let l := ((cands.foldl (fun l c => rankInsert c l) (o.1.foldl (fun l c => rankInsert c l) [])).take t.k)
  let full := l.map (fun r => (r.2.1, wrap 32 r.1, r.2.2)) ++ List.replicate (t.k - l.length) (0xFFFFFFFF, 0x7FFFFFFF, false)
  (full.flatMap (fun r => (leBytes 4 r.1 ++ leBytes 4 r.2.1).map (fun b => (b, r.2.2))), o.2)

/-- Lists and status word (R241). -/
def TopkCmd.results (t : TopkCmd) (old : List Marked) (seen : List TopkSeen) : List Marked :=
  let lists := (upTo t.q).map (t.newList old seen)
  let void := (seen.filter (fun r => r == .void)).length
  let bad := (seen.filter (fun r => r == .discarded)).length
  let inc := decide (0 < bad) || lists.any (fun l => l.2)
  lists.flatMap (fun l => l.1) ++ clean (leBytes 8 (b2n inc * 2 ^ 63 + min void 65535 * 2 ^ 16 + min bad 65535))

/-! Timing (R242). -/

/-- M: cycles that read the old lists. -/
def TopkCmd.merges (t : TopkCmd) : Nat := if t.merge then (t.listBytes + 255) / 256 else 0
/-- W: cycles that write. -/
def TopkCmd.writes (t : TopkCmd) : Nat := (t.listBytes + 8 + 255) / 256
/-- First write cycle of a command started in cycle `a`. -/
def TopkCmd.writeAt (t : TopkCmd) (a : Nat) : Nat := a + t.merges + t.rows + 4

/-- Cycles from a command's start to its completion (R242). -/
def TopkCmd.time (t : TopkCmd) : Nat :=
  t.merges + t.rows + 4 + t.writes

/-- The running command of a unit, its start, and its context's presence. -/
def State.topkRuns (s : State) (c : Nat) : Option (TopkCmd × Nat) :=
  match (s.topk c).queue, (s.topk c).started with
  | t :: _, some a => if (s.ctx? t.ctx).isSome then some (t, a) else none
  | _, _ => none

/-- Cycles of reading that have passed. -/
def TopkUnit.turns (u : TopkUnit) : Nat := (u.old.length + 255) / 256 + u.seen.length

/-- The top-k unit of a core has a read in cycle `t`. -/
def State.topReads (s : State) (c t : Nat) : Option (TopkCmd × Nat) :=
  match s.topkRuns c with
  | some (cmd, a) =>
    let u := s.topk c
    if u.turns < cmd.merges + cmd.rows ∧ a + u.turns ≤ t then some (cmd, u.turns) else none
  | none => none

/-- The top-k unit of a core has a write in cycle `t`. -/
def State.topWrites (s : State) (c t : Nat) : Option (TopkCmd × Nat) :=
  match s.topkRuns c with
  | some (cmd, a) =>
    let u := s.topk c
    if cmd.merges + cmd.rows ≤ u.turns ∧ u.wrote < cmd.writes ∧ cmd.writeAt a + u.wrote ≤ t then some (cmd, u.wrote) else none
  | none => none

/-- Bytes of the old lists that a merge cycle reads. -/
def TopkCmd.oldBytes (t : TopkCmd) (i : Nat) : Nat := min 256 (t.listBytes - 256 * i)

/-- The requests of a top-k unit in cycle `t` (R194, R201): 256 bytes of the old lists, or a candidate row with its word and
its ID; a piece of the lists. Its reads of a scratchpad ask behind the vector unit's (log 57). -/
def State.topkAsks (s : State) (c t : Nat) : List Ask :=
  (match s.topReads c t with
   | some (cmd, i) =>
     let ask : Ask := { who := .topRead c, ctx := cmd.ctx, rank := 9 }
     if i < cmd.merges then
       [{ ask with ports := s.ctxPorts false cmd.ctx (cmd.radr + 256 * i) (cmd.oldBytes i)
                   reads := s.ctxSpans cmd.ctx (cmd.radr + 256 * i) (cmd.oldBytes i) }]
     else
       let j := i - cmd.merges
       let iw := cmd.iadr + 4 * (j / 2 ^ cmd.csh)
       [{ ask with ports := s.accRange false cmd.ctx (bits (cmd.w 0) 10 10 * 2 ^ 20 + (cmd.rbase + j) * 1024) (4 * cmd.q) ++
                     s.ctxPorts false cmd.ctx (cmd.wadr + 4 * j) 4 ++ s.ctxPorts false cmd.ctx iw 4
                   reads := s.ctxSpans cmd.ctx (cmd.wadr + 4 * j) 4 ++ s.ctxSpans cmd.ctx iw 4 ++
                     (match s.accSpot cmd.ctx (bits (cmd.w 0) 10 10 * 2 ^ 20 + (cmd.rbase + j) * 1024) with
                      | some (.acc o) => [spanOf 2 4 o (4 * cmd.q)]
                      | _ => []) }]
   | none => []) ++
  (match s.topWrites c t with
   | some (cmd, i) =>
     let m := min 256 (cmd.listBytes + 8 - 256 * i)
     [{ who := .topWrite c, ctx := cmd.ctx, rank := 9, ports := s.ctxPorts true cmd.ctx (cmd.radr + 256 * i) m
        writes := s.ctxSpans cmd.ctx (cmd.radr + 256 * i) m }]
   | none => [])

/-- The top-k unit of a core reads in cycle `t`: 256 bytes of the old lists, then one candidate row in each cycle. -/
def State.topkRead (s : State) (c t : Nat) : State :=
  match s.topReads c t with
  | some (cmd, i) =>
    let s := forEach (((s.topkAsks c t).filter (fun a => a.who == .topRead c)).flatMap Ask.reads) s (fun x s => s.noticeSpan x)
    let u := s.topk c
    if i < cmd.merges then
      let m := cmd.oldBytes i
      s.setTopk c { u with old := u.old ++ (s.readTs cmd.ctx (cmd.radr + 256 * i) m).getD (List.replicate m (0, true)) }
    else s.setTopk c { u with seen := u.seen ++ [s.topkRow cmd u.seen.length] }
  | none => s

/-- The top-k unit of a core writes in cycle `t`: 256 bytes in each cycle. -/
def State.topkWrite (s : State) (c t : Nat) : State :=
  match s.topWrites c t with
  | some (cmd, i) =>
    let u := s.topk c
    let out := if i = 0 then cmd.results u.old u.seen else u.out
    let s := s.setTopk c { u with out := out.drop 256, wrote := i + 1 }
    s.writeTs cmd.ctx (cmd.radr + 256 * i) (out.take 256)
  | none => s

/-- A refused read or write lengthens the command by one cycle (R242). -/
def State.topkLost (s : State) (c : Nat) : State :=
  let u := s.topk c
  s.setTopk c { u with started := u.started.map (· + 1) }

/-- The next cycle in which a top-k unit reads or writes. -/
def State.topkDue (s : State) (c : Nat) : Option Nat :=
  match s.topkRuns c with
  | some (cmd, a) =>
    let u := s.topk c
    if u.turns < cmd.merges + cmd.rows then some (a + u.turns)
    else if u.wrote < cmd.writes then some (cmd.writeAt a + u.wrote)
    else none
  | none => none

/-! Step tables, which are written in the top-k unit's place (09 R280). -/

/-- The step table that is written to a context of core `c` in cycle `t`: the oldest that is due. -/
def State.tableDue (s : State) (c t : Nat) : Option TableWrite := s.tables.find? (fun w => w.core == c && decide (w.due ≤ t))

/-- Its request: 256 bytes. -/
def State.tableAsk (s : State) (c t : Nat) : List Ask :=
  match s.tableDue c t with
  | some w =>
    let m := min 256 w.data.length
    [{ who := .table c, ctx := w.ctx, rank := 9, ports := s.ctxPorts true w.ctx w.addr m, writes := s.ctxSpans w.ctx w.addr m }]
  | none => []

/-- The step table of core `c` is written on in cycle `t`; after its last bytes it is done. -/
def State.tableWrite (s : State) (c t : Nat) : State :=
  match s.tableDue c t with
  | some w =>
    let rest : TableWrite := { w with addr := w.addr + 256, data := w.data.drop 256, due := t + 1 }
    ({ s with tables := if rest.data.isEmpty then s.tables.erase w else s.tables.map (fun v => if v = w then rest else v) } : State).writeTs
      w.ctx w.addr (clean (w.data.take 256))
  | none => s

/-- A refused write comes a cycle later. -/
def State.tableLost (s : State) (c t : Nat) : State :=
  match s.tableDue c t with
  | some w => { s with tables := s.tables.map (fun v => if v = w then { v with due := t + 1 } else v) }
  | none => s

end Sys2Proof.Machine
end

