-- ==== Sys2Proof/Machine/Clocks.lean ====
section
/-! DEFINITION. Removed frames (10 R287): in a frame that is removed on a core its clock stands still, so that whatever its
units have still to do falls later by the length of the frame. With die-wide removal the count of R284 stands still too, and
with it all that is timed by it. -/
namespace Sys2Proof.Machine

/-! What a stop of `d` cycles does to the times that a unit holds. -/

/-- A pass. -/
def Pass.delay (d : Nat) (p : Pass) : Pass := { p with at_ := p.at_ + d }
/-- A vector of a pass. -/
def Act.delay (d : Nat) (a : Act) : Act := { a with at_ := a.at_ + d }
/-- A flight. -/
def Flight.delay (d : Nat) (f : Flight) : Flight :=
  { f with pass := f.pass.delay d, e := f.e + d, next := f.next + d, acts := f.acts.map (Act.delay d), cut := f.cut.map (· + d) }

/-- A half of an array. -/
def HalfUnit.delay (d : Nat) (u : HalfUnit) : HalfUnit :=
  { u with
    queue := u.queue.map (Pass.delay d), flights := u.flights.map (Flight.delay d), ahead := u.ahead.map (Act.delay d)
    slotFrom := u.slotFrom + d, bound := u.bound + d, loadAt := u.loadAt.map (· + d), loadNext := u.loadNext + d
    shadow := u.shadow.map (fun w => (w.1, w.2 + d)), freeAt := u.freeAt + d
    wounds := u.wounds.map (fun w => (w.1, w.2.1 + d, w.2.2.delay d)), clearAt := u.clearAt + d, acceptAt := u.acceptAt.map (· + d) }

/-- An array. -/
def ArrUnit.delay (d : Nat) (u : ArrUnit) : ArrUnit := { u with l := u.l.delay d, r := u.r.delay d }

/-- A descriptor. -/
def Desc.delay (d : Nat) (x : Desc) : Desc := { x with at_ := x.at_ + d }
/-- A descriptor written whole. -/
def Done.delay (d : Nat) (x : Done) : Done := { x with desc := x.desc.delay d, at_ := x.at_ + d }

/-- A vector unit. -/
def VecUnit.delay (d : Nat) (u : VecUnit) : VecUnit :=
  { u with
    queue := u.queue.map (Desc.delay d), start := u.start + d, next := u.next + d
    pend := u.pend.map (fun o => { o with at_ := o.at_ + d }), finish := u.finish.map (Done.delay d)
    acceptAt := u.acceptAt.map (· + d) }

/-- A shunter. -/
def ShuntUnit.delay (d : Nat) (u : ShuntUnit) : ShuntUnit :=
  { u with
    queue := u.queue.map (Desc.delay d), start := u.start + d, held := u.held.map (fun h => (h.1 + d, h.2))
    sent := u.sent.map (fun h => (h.1 + d, h.2)), finish := u.finish.map (Done.delay d), stray := u.stray.map (· + d)
    acceptAt := u.acceptAt.map (· + d) }

/-- A top-k unit. -/
def TopkUnit.delay (d : Nat) (u : TopkUnit) : TopkUnit :=
  { u with queue := u.queue.map (fun c => { c with at_ := c.at_ + d }), started := u.started.map (· + d), freeAt := u.freeAt + d }

/-- The move of a context between its windows and staging. -/
def Ctx.delayMove (d : Nat) (x : Ctx) : Ctx :=
  match x.move with
  | some (m, c) => if m = .unload ∨ m = .load then { x with moveNext := max c x.moveNext + d } else x
  | none => x

/-- A context, whose times are counts of R284. -/
def Ctx.delay (d : Nat) (x : Ctx) : Ctx :=
  { x with
    move := x.move.map (fun m => (m.1, m.2 + d)), moveNext := x.moveNext + d
    leftAt := if x.leftAt = 0 then 0 else x.leftAt + d
    residentAt := x.residentAt + d, blockedAt := x.blockedAt + d, ref := x.ref + d, dueAt := x.dueAt.map (· + d)
    issuedAt := x.issuedAt + d, timer := x.timer.map (· + d), satAt := x.satAt.map (· + d), holdDue := x.holdDue.map (· + d)
    quietAt := x.quietAt + d, graceAt := x.graceAt.map (· + d), evicted := x.evicted.map (fun e => (e.1, e.2 + d))
    swapFrom := x.swapFrom.map (· + d) }

/-- A partition. -/
def PartUnit.delay (d : Nat) (x : PartUnit) : PartUnit := { x with origin := x.origin.map (· + d), lastAt := x.lastAt + d }

/-! Removed frames. -/

/-- A frame of 96 cycles from `t` is removed on the cores `stops`: their units stand still, and a remote write that would
arrive meanwhile waits. -/
def State.stopCores (s : State) (stops : Nat → Bool) (t : Nat) : State :=
  let at_ := fun {α : Type} (core : Nat → Nat) (f : α → α) (xs : List (Nat × α)) =>
    xs.map (fun e => if stops (core e.1) then (e.1, f e.2) else e)
  let ghosts := s.ghosts.map (fun g => if stops g.core then { g with until_ := g.until_ + 96 } else g)
  let s := { s with
    arrays := at_ (· / 2) (ArrUnit.delay 96) s.arrays
    vectors := at_ id (VecUnit.delay 96) s.vectors
    shunters := at_ (· / 8) (ShuntUnit.delay 96) s.shunters
    topks := at_ id (TopkUnit.delay 96) s.topks
    arrivals := s.arrivals.map (fun a => if stops a.core then { a with due := if a.due < t + 96 then t + 96 else a.due } else a)
    tables := s.tables.map (fun w => if stops w.core then { w with due := w.due + 96 } else w)
    ctxs := if s.det then s.ctxs else s.ctxs.map (fun e => if stops e.2.core then (e.1, e.2.delayMove 96) else e)
    ghosts := ghosts }
  forEach ghosts s (fun g s => if stops g.core then s.opensC g.until_ 0 .stir else s)

/-- A frame removed from all cores: the count of R284 stands still as well, with all that is timed by it. -/
def State.stopCount (s : State) : State :=
  { s with
    ctxs := s.ctxs.map (fun e => (e.1, e.2.delay 96))
    hubOps := s.hubOps.map (fun o => { o with due := o.due + 96 })
    laneSigs := s.laneSigs.map (fun o => { o with due := o.due + 96 })
    parts := s.parts.map (fun e => (e.1, e.2.delay 96))
    slots := s.slots.map (fun e => (e.1, e.2 + 96))
    extBusy := s.extBusy.map (fun e => (e.1, e.2 + 96)) }

/-- The most frames that are removed on any core in every window of 16. -/
def State.mostRemoved (s : State) : Nat := (upTo s.cores).foldl (fun n c => max n (s.removedFrames c)) 0

/-- The frame boundary from which the next frame is removed on some core, among those that have not been taken account of. -/
def State.nextRemoved (s : State) : Option Nat :=
  let n := s.mostRemoved
  if n = 0 then none
  else
    let f := (s.limits.frozen - s.alignC + 95) / 96
    let g := if f % 16 + n < 16 then f / 16 * 16 + (16 - n) else f
    some (s.alignC + 96 * g)

/-- The frame that begins in cycle `t` is removed on the cores that limit it. -/
def State.removeFrame (s : State) (t : Nat) : State :=
  let i := (t - s.alignC) / 96 % 16
  let s := s.stopCores (fun c => decide (16 ≤ i + s.removedFrames c)) t
  let s := if s.det then s.stopCount else s
  { s with limits := { s.limits with frozen := t + 1 } }

end Sys2Proof.Machine
end

