-- ==== Sys2Proof/Machine/Cycles.lean ====
section
/-! DEFINITION. The units of all cores cycle by cycle up to the present one: in a cycle the requests of every unit are
granted or refused (R193 to R205); every read granted sees what stood before the cycle (R195, R206), then come A2 and A1 of
the arrays (R87, R88), then the writes granted; a refused unit asks again in the next cycle. -/
namespace Sys2Proof.Machine

/-! The staging transfer (09 R253). -/

/-- W: window bytes of a context. -/
def Ctx.windowBytes (x : Ctx) : Nat := 512 * x.tsRows + 2048 * x.accRows

/-- Transfers of 512 bytes that a move between the windows and staging takes. -/
def Ctx.transfers (x : Ctx) : Nat := (x.windowBytes + 511) / 512

/-- The moves that a core's staging transfer still has to make, in the order of their contexts: context, whether it unloads,
the cycle of its next transfer. -/
def State.stagingMoves (s : State) (c : Nat) : List (Nat × Bool × Nat) :=
  s.ctxs.filterMap (fun e =>
    let x := e.2
    if x.core ≠ c ∨ x.transfers ≤ x.moved then none
    else match x.move with
      | some (.unload, c0) => some (e.1, true, max c0 x.moveNext)
      | some (.load, c0) => some (e.1, false, max c0 x.moveNext)
      | _ => none)

/-- The ports of transfer `i` of a move: a row of both tile scratchpads, then half a row of both accumulator stores. -/
def Ctx.movePorts (x : Ctx) (write : Bool) (i : Nat) : List Nat :=
  if i < x.tsRows then
    [0, 1].flatMap (fun a => tsPorts write (tsAt x.core a ((x.tsBase + i) * 256)) 256)
  else
    let m := (i - x.tsRows) / 2
    [0, 1].flatMap (fun a => accPorts write (accAt x.core a ((x.accBase + m / 2) * 1024 + 512 * (m % 2))) 512)

/-- The request of a core's staging transfer in cycle `t`, with the four slices that the core owns. -/
def State.stagingAsk (s : State) (c t : Nat) : List Ask :=
  match s.stagingMoves c with
  | (k, out, d) :: _ =>
    if d ≤ t then
      [{ who := .staging c, ctx := 1000000, rank := 200, ports := (s.ctx k).movePorts (!out) (s.ctx k).moved
         slices := (upTo 32).filter (s.ownsSlice c t) }]
    else []
  | [] => []

/-- A transfer of the move is made in cycle `t`, or refused. -/
def State.stagingTurn (s : State) (c t : Nat) (granted : Bool) : State :=
  match s.stagingMoves c with
  | (k, _, _) :: _ => s.onCtx k (fun x => { x with moved := x.moved + b2n granted, moveNext := t + 1 })
  | [] => s

/-! One cycle. -/

/-- The halves of the arrays. -/
def allHalves : List (Nat × Nat) := (upTo 24).map (fun i => (i / 2, i % 2))
/-- The shunters. -/
def allShunters : List (Nat × Nat) := (upTo 48).map (fun i => (i / 8, i % 8))

/-- Every request of cycle `t`. -/
def State.asks (s : State) (t : Nat) : List Ask :=
  allHalves.flatMap (fun a => s.feedAsk a.1 a.2 t ++ s.loadAsk a.1 a.2 t) ++
  (upTo 6).flatMap (fun c => s.vecReadAsk c t ++ s.vecWriteAsk c t ++ s.topkAsks c t ++ s.tableAsk c t ++ s.stagingAsk c t) ++
  s.arrivalAsks t ++ allShunters.flatMap (fun a => s.shuntAsks a.1 a.2 t)

/-- The reads that are granted in cycle `t`. -/
def State.readers (s : State) (t : Nat) (ok : Requester → Bool) : State :=
  let s := forEach allHalves s (fun a s =>
    let s := if ok (.feeder a.1 a.2) then s.feedRead a.1 a.2 else s
    if ok (.weights a.1 a.2) then s.loadRow a.1 a.2 t else s)
  let s := forEach (upTo 6) s (fun c s =>
    let s := if ok (.vecRead c) then s.vecRead c t else s
    let s := if ok (.topRead c) then s.topkRead c t else s
    if ok (.staging c) then s.stagingTurn c t true else s)
  forEach allShunters s (fun a s => s.shuntRead a.1 a.2 t ok)

/-- The stages A2 and A1 in cycle `t`, and the writes that are granted. -/
def State.writers (s : State) (t : Nat) (ok : Requester → Bool) : State :=
  let s := forEach allHalves s (fun a s => s.accHalf a.1 a.2 t)
  let s := forEach (upTo 6) s (fun c s =>
    let s := if ok (.vecWrite c) then s.vecWrite c t else s
    let s := if ok (.topWrite c) then s.topkWrite c t else s
    if ok (.table c) then s.tableWrite c t else s)
  let s := s.arriveRemote t ok
  forEach allShunters s (fun a s => (s.shuntWrite a.1 a.2 t ok).shuntShows a.1 a.2 t)

/-- What a refused request delays, but of a shunter or a vector unit (R194, R201, R205, R242). -/
def State.deny (s : State) (t : Nat) (w : Requester) : State :=
  match w with
  | .feeder n h => s.feedLost n h
  | .weights n h => s.loadLost n h t
  | .topRead c => s.topkLost c
  | .topWrite c => s.topkLost c
  | .table c => s.tableLost c t
  | .arrival c n => s.arrivalLost c n t
  | .staging c => s.stagingTurn c t false
  | _ => s

/-- The vector units and shunters with a refused request lose the cycle (R138, R142); `fed` holds the ports that feeders took,
whose loss a vector unit counts. -/
def State.delayUnits (s : State) (no : List Ask) (fed : List Nat) : State :=
  let lost := fun (w : Requester) => no.any (fun a => a.who == w)
  let s := forEach (upTo 6) s (fun c s =>
    if lost (.vecRead c) || lost (.vecWrite c) then
      s.vecLost c (lost (.vecWrite c)) (no.any (fun a => a.who == .vecRead c && a.ports.any (fun p => fed.contains p)))
    else s)
  forEach allShunters s (fun a s =>
    if lost (.index a.1 a.2) || lost (.shuntRead a.1 a.2) || lost (.gather a.1 a.2) || lost (.shuntWrite a.1 a.2) then
      s.shuntLost a.1 a.2 (lost (.shuntWrite a.1 a.2))
    else s)

/-- A shunter that stalls for want of a transaction or of buffer space loses the cycle (R194, R219). -/
def State.stallAll (s : State) (t : Nat) : State :=
  forEach allShunters s (fun a s =>
    match s.shuntHead a.1 a.2 with
    | some d =>
      if s.putDue a.1 a.2 t d && s.shuntStalls a.1 a.2 t d true then s.shuntLost a.1 a.2 true
      else if s.partDue a.1 a.2 t d && s.shuntStalls a.1 a.2 t d false then s.shuntLost a.1 a.2 false
      else s
    | none => s)

/-- The events of withheld writes are counted: beside an engine's read of the same word or row, or an A2 write of the same
entry (R88, R196, R208). -/
def State.countWithheld (s : State) (g : Grants) : State :=
  ((s.countMany g.words.length 0x2902 9).countMany g.rows.length 0x2902 0x0A).countMany g.entries.length 0x2901 2

/-- The entries that A2 of every array writes in cycle `t`. -/
def State.a2All (s : State) (t : Nat) : List Span := allHalves.flatMap (fun a => s.a2Spans a.1 a.2 t)

/-- The outcome of cycle `t`. -/
def State.cycleGrants (s : State) (t : Nat) : Grants := s.grants t (s.asks t) (s.a2All t) (s.takenIn t)

/-- One cycle of every unit. -/
def State.cycle (s : State) (t : Nat) : State :=
  let asks := s.asks t
  let g := s.cycleGrants t
  let ok := fun (w : Requester) => g.ok.contains w
  let no := asks.filter (fun a => !ok a.who)
  let fed := (asks.filter (fun a => a.who.isFeeder && ok a.who)).flatMap Ask.ports
  let s := (s.stallAll t).take t g.taken
  let s := (s.readers t ok).writers t ok
  let s := { s with refusals := s.refusals.filter (fun r => !ok r.1) }
  let s := (forEach no s (fun a s => (s.noteDenial a.who).deny t a.who)).delayUnits no fed
  s.countWithheld g

/-- The cycles in which a unit has its next read or write. -/
def State.dues (s : State) : List Nat :=
  allHalves.flatMap (fun a =>
    let u := s.half a.1 a.2
    (if u.queue.isEmpty && u.flights.isEmpty then [] else
      ((s.feedNext a.1 a.2).map (fun r => r.2.2)).toList ++ ((s.loadNext? a.1 a.2).map Prod.snd).toList ++
      u.flights.filterMap s.flightDue)) ++
  (upTo 6).flatMap (fun c => (s.vecDue c).toList ++ (s.topkDue c).toList ++ ((s.stagingMoves c).map (fun m => m.2.2)).take 1) ++
  allShunters.filterMap (fun a => s.shuntDue a.1 a.2) ++ s.arrivals.map Arrival.due ++ s.tables.map TableWrite.due

/-- Cycles in which a unit has something to do, in order, before cycle `stop`, with the removal of the frames that begin
before the next of them and no later than the present cycle. -/
def State.cycles (stop : Nat) : Nat → State → State
  | 0, s => s
  | m + 1, s =>
    let t := s.dues.min?.getD stop
    match s.nextRemoved.filter (fun f => decide (f ≤ min t s.cclk)) with
    | some f => State.cycles stop m (s.removeFrame f)
    | none => if t < stop then State.cycles stop m (s.cycle t) else s

/-- Every unit up to cycle `stop`: each cycle of work lies from the first one due on, and each frame to be removed from the
first that has not been taken account of. -/
def State.catchTo (s : State) (stop : Nat) : State :=
  State.cycles stop (s.dues.min?.elim 0 (stop - ·) + s.nextRemoved.elim 0 (stop + 1 - ·)) s

/-- Every unit that reads or writes memory, up to the present cycle: what a command of this cycle sees. -/
def State.catchUp (s : State) : State := s.catchTo s.cclk

/-- Every unit, the present cycle included: what a command's own write of this cycle comes after. -/
def State.catchAll (s : State) : State := s.catchTo (s.cclk + 1)

end Sys2Proof.Machine
end

