-- ==== Sys2Proof/Machine/Jobs.lean ====
section
/-! DEFINITION. The life of a job's contexts: starting lanes, quiescence and yield points, moves, leaving, teardown and
core faults (05 R152, R159; 09 R249 to R272). -/
namespace Sys2Proof.Machine

/-! Windows and starts (R199, R251, R270). -/

/-- Windows taken on a core: in place, being loaded, or left by a context that has been torn down (R269). -/
def State.windows (s : State) (core : Nat) (acc : Bool) : List (Nat × Nat) :=
  (s.coreCtxs core).filterMap (fun k =>
    let x := s.ctx k
    let used := x.place == .inPlace || (match x.move with | some (.load, _) => true | _ => false)
    if used then some (if acc then (x.accBase, x.accRows) else (x.tsBase, x.tsRows)) else none) ++
  (s.coreGhosts core).map (fun g => if acc then (g.accBase, g.accRows) else (g.tsBase, g.tsRows))

/-- The lowest row at which `n` rows overlap no window; an accumulator row is a multiple of 3. -/
def fitRows (ws : List (Nat × Nat)) (n total step : Nat) : Option Nat :=
  let cs := (0 :: ws.map (fun w => w.1 + w.2)).map (fun v => roundUp v step)
  match cs.filter (fun b => decide (b + n ≤ total) && freeSpan ws b n) with
  | [] => none
  | b :: bs => some (bs.foldl min b)

/-- Window bases for a context of a core, if both fit in place. -/
def State.fitWindows (s : State) (core tsRows accRows : Nat) : Option (Nat × Nat) :=
  match fitRows (s.windows core false) tsRows 1536 1, fitRows (s.windows core true) accRows 1024 3 with
  | some a, some b => some (a, b)
  | _, _ => none

/-- The cells of bytes that are not 0. -/
def cellsOf (bs : Bytes) (o : Nat) : List Host.Cell :=
  ((bs.zipIdx o).filter (fun p => p.1 != 0#8)).map (fun p => (p.2, p.1))

/-- The lookup tables of a lane. -/
def lutsOf (img : Bytes) (l : Nat) : List Host.Cell :=
  (upTo 4).flatMap (fun t => cellsOf (ozjTable img l t) (16384 * t))

/-- The initial semaphore counts of a lane. -/
def semsOf (img : Bytes) (l : Nat) : List (Nat × Sem) :=
  match ozjFind img 5 l with
  | none => []
  | some sec => (upTo 56).foldl (fun t i =>
      tset (fun _ => {}) t i { count := leAt img (sec.off + 2 * i) 2, stamp := 0 }) []

/-- Zero a context's windows or its image, and clear the valid flags of its rows. -/
def State.clearWindows (s : State) (k : Nat) : State :=
  match s.ctx? k with
  | none => s
  | some x =>
    match x.place, x.slot with
    | .inPlace, _ =>
      let s := { s with ts := (s.ts.zero 8 (tsAt x.core 0 (x.tsBase * 256)) (x.tsRows * 256)).zero 8
                                (tsAt x.core 1 (x.tsBase * 256)) (x.tsRows * 256) }
      { s with valid := s.valid.filter (fun v =>
          !(v / 4096 == x.core && decide (x.accBase ≤ v % 1024) && decide (v % 1024 < x.accBase + x.accRows))) }
    | .staged, some n => { s with stack := s.stack.zero 8 (s.staging x.core n) sidingBytes }
    | _, _ => { s with ext := s.ext.zero 32 (sidingBase k) (3 * 2 ^ 20) }

/-- Initial tile-scratchpad contents (section 0007h). -/
def State.initTs (s : State) (k : Nat) (img : Bytes) : State :=
  forEach ((ozjSections img).filter (fun c => c.type == 7 && c.lane == ctxLane k)) s (fun c s =>
    s.writeTs k c.param (clean (ozjBytes img c)))

/-- Header of a siding image (Table 9-4). -/
def State.sidingHeader (s : State) (k : Nat) (x : Ctx) : Bytes :=
  [0x4F#8, 0x5A#8, 0x53#8, 0x31#8, 1#8, 0#8] ++ leBytes 1 (ctxJob k) ++ leBytes 1 (ctxLane k) ++
    leBytes 4 (s.reg (kJob (ctxJob k) 5)) ++ leBytes 4 x.saves ++ leBytes 2 x.tsRows ++ leBytes 2 x.accRows

/-- Pending of Table 9-5. -/
def Ctx.pendingCode (x : Ctx) : Nat :=
  match x.waiting with
  | .none => 0
  | .wait => 1
  | .credit => 2
  | .yield => 3

/-- The sequencer state of a siding image (Table 9-5) in cycle `c`. -/
def Ctx.seqBytes (x : Ctx) (c : Nat) : Bytes :=
  leBytes 4 x.entry ++ leBytes 4 x.dueLeft ++ (upTo 4).flatMap (fun i => leBytes 2 (tget (fun _ => 0) x.loops i)) ++
  leBytes 8 x.draws ++ leBytes 4 (match x.timer with | some d => d - c | none => 0) ++ leBytes 1 x.pendingCode ++
  leBytes 3 0 ++ (upTo 56).flatMap (fun i => leBytes 2 (x.sem i).count) ++
  (upTo 56).flatMap (fun i => leBytes 8 (x.sem i).stamp)

/-- Where the slot registers lie in a siding image (Table 9-4). -/
def slotImage : Nat := 4096 + 2 * tsBytes + 2 * accBytes

/-- The siding image of a context that starts in cycle `c` is complete, in its staging allotment or its siding: header, lookup
tables and sequencer state beside the initial contents of its windows (R255). -/
def State.startImage (s : State) (k c : Nat) (x : Ctx) : State :=
  match x.place, x.slot with
  | .inPlace, _ => s
  | .staged, some n =>
    let b := s.staging x.core n
    let m := (s.stack.write 8 b (clean (s.sidingHeader k x))).paste 8 (b + slotImage + 16384) 65536 (x.luts, [])
    { s with stack := m.write 8 (b + slotImage + 81920) (clean (x.seqBytes c)) }
  | _, _ =>
    let b := sidingBase k
    let m := (s.ext.write 32 b (clean (s.sidingHeader k x))).paste 32 (b + slotImage + 16384) 65536 (x.luts, [])
    { s with ext := m.write 32 (b + slotImage + 81920) (clean (x.seqBytes c)) }

/-- A lane of a job starts as a fresh context on a core in cycle `c`: in a free slot, in place where its windows fit,
otherwise staged; with no free slot it starts in its siding (log 32). -/
def State.startLane (s : State) (j l core c : Nat) : State :=
  let k := ctxKey j l
  let img := s.image j
  let tsRows := s.reg (kJob j 3)
  let accRows := s.reg (kJob j 4)
  let fit := s.fitWindows core tsRows accRows
  let slot := s.freeSlot core
  let n := tget (fun _ => 0) s.incs k + 1
  let place := match slot, fit with
    | some _, some _ => Place.inPlace
    | some _, none => Place.staged
    | none, _ => Place.siding
  let x : Ctx :=
    { core := core, inc := n, slot := slot, place := place, residentAt := c, ref := c, tsRows := tsRows,
      accRows := accRows, tsBase := (fit.getD (0, 0)).1, accBase := (fit.getD (0, 0)).2,
      sems := semsOf img l, luts := lutsOf img l }
  let s := ({ s with incs := tput s.incs k n }).setCtx k x
  ((s.catchAll.clearWindows k).initTs k img).startImage k c x

/-- The address of a relocation base for a lane (R155, 08 R230). -/
def State.relocBase (s : State) (j : Nat) (core : Nat) (b : Nat) : Nat :=
  let img := s.image j
  if b = 0 then
    (match (if ozjModel img = 0 then s.imageEntry j else s.modelEntry (ozjModel img)) with | some e => e.base | none => 0)
  else if b = 1 then
    (if s.reg (key 0x2500 0x27) = 1 then s.poolBase 1 + core * 2 ^ 25
     else match s.allotOf (ownJob j) with | some a => a.base | none => s.poolBase 2)
  else if b = 2 then (match tfind s.regions j with | some r => r.1 | none => 0)
  else if b = 3 then (match s.allotOf (ownHalo j) with | some a => a.base | none => s.poolBase 3)
  else if b < 0x20 then s.reg (key (0x2B00 + (b - 0x10)) 6)
  else s.reg (key (0x2B00 + (b - 0x20)) 7)

/-- The job's image and model as they stand in stack memory: weights placed, relocations applied (R155, R274). -/
def State.fillCache (s : State) (j : Nat) : State :=
  let s := s.catchAll
  let img := s.image j
  let cores := (s.job j).cores
  let s := match s.imageEntry j with
    | some e => { s with stack := s.stack.write 8 e.base
                          (clean (ozjLoaded img (fun l b => s.relocBase j (cores.getD l 0) b))) }
    | none => s
  match (if ozjModel img = 0 then none else s.modelEntry (ozjModel img)) with
  | some e =>
    match s.models.find? (fun m => m.id == e.id) with
    | some m => { s with stack := s.stack.write 8 e.base (clean m.payload) }
    | none => s
  | none => s

/-- The lanes of a job start, its cache entries being loaded. -/
def State.launch (s : State) (j c : Nat) : State :=
  let s := s.fillCache j
  let s := forEach ((s.job j).cores.zipIdx) s (fun p s =>
    if (s.ctx? (ctxKey j p.2)).isNone && !(s.job j).ended.contains p.2 then s.startLane j p.2 p.1 c else s)
  s.stir c

/-! Leaving (R271, R272). -/

/-- The live sequences of a job are freed and counted as lost (R270, R277). -/
def State.loseSeqs (s : State) (j : Nat) : State :=
  let u := s.job j
  let live := fun (q : Nat × Seq) => q.2.state == 1 || q.2.state == 2
  ((s.setJob j { u with seqs := u.seqs.filter (fun q => !live q) }).addReg (kJob j 0x17) (u.seqs.filter live).length).setReg
    (kJob j 0x10) 0

/-- The use of a job's cache entries ends now (R275); in wide mode an entry that no other job uses is gone (07 R214). -/
def State.endUse (s : State) (j : Nat) : State :=
  let m := ozjModel (s.image j)
  let mine := fun (e : CacheEntry) => (e.img && e.id == j) || (!e.img && m != 0 && e.id == m)
  let shared : Bool := (upTo 64).any (fun i => i != j && s.active (fJob i) && ozjModel (s.image i) == m)
  if s.reg (key 0x2500 0x27) = 1 then { s with cache := s.cache.filter (fun e => !mine e || (!e.img && shared)) }
  else { s with cache := s.cache.map (fun e => if mine e then { e with lastUse := s.time } else e) }

/-- What a job that has left RUNNING or STOPPING releases (R212, R272). -/
def State.releaseJob (s : State) (j : Nat) : State :=
  let s := (((s.loseSeqs j).endUse j).unallot (ownJob j)).unallot (ownHalo j)
  (({ s with regions := terase s.regions j }).setReg (kJob j 9) 0).setJob j {}

/-- With no context left, a STOPPING job enters STOPPED, and a FAULTED one releases what it held. -/
def State.jobGone (s : State) (j : Nat) : State :=
  if (s.jobCtxs j).isEmpty && (s.job j).leaving then
    let s := s.releaseJob j
    if s.fn (fJob j) = .stopping then s.setFn (fJob j) .stopped else s
  else s

/-- The amounts a context consumed of shared semaphores return to the hub (R269). -/
def State.returnHeld (s : State) (k : Nat) (x : Ctx) (c : Nat) : State :=
  forEach x.held s (fun h s => s.raiseHub (s.jobPart (ctxJob k)) h.1 h.2 none c)

/-- Waits of a context are withdrawn from the hub. What the hub had taken for one whose outcome is still on its way returns
(log 129). -/
def State.withdraw (s : State) (k : Nat) : State :=
  let ws := s.hubWaits.filter (fun w => w != k)
  let granted := s.hubOps.filter (fun o => o.ctx == k && o.act == .outcome && s.isCtx k o.inc)
  let os := s.hubOps.filter (fun o => !(o.ctx == k && (o.act == .test || o.act == .outcome)))
  forEach granted { s with hubWaits := ws, hubOps := os } (fun o s =>
    let w := (s.ctx k).word
    if waitKeep w then s else s.raiseHub o.part o.sem (waitVal w) none s.cclk)

/-- A vector unit after the descriptors `mine` have left it in cycle `c`. -/
def VecUnit.drop (v : VecUnit) (mine : Desc → Bool) (c : Nat) : VecUnit :=
  let q := v.queue.filter (fun d => !mine d)
  let f := v.finish.filter (fun d => !mine d.desc)
  if v.queue.head?.any mine then ({ queue := q, finish := f, start := c, acceptAt := v.acceptAt } : VecUnit).open
  else { v with queue := q, finish := f }

/-- A shunter after the descriptors `mine` have left it; what external memory has taken of them is still written. -/
def ShuntUnit.drop (u : ShuntUnit) (mine : Desc → Bool) : ShuntUnit :=
  let q := u.queue.filter (fun d => !mine d)
  let f := u.finish.filter (fun d => !mine d.desc)
  if u.queue.head?.any mine then { queue := q, finish := f, sent := u.sent, acceptAt := u.acceptAt }
  else { u with queue := q, finish := f }

/-- A top-k unit after the commands `mine` have left it in cycle `c`. -/
def TopkUnit.drop (t : TopkUnit) (mine : TopkCmd → Bool) (c : Nat) : TopkUnit :=
  if t.queue.any mine then
    (if t.queue.head?.any mine then { queue := t.queue.filter (fun d => !mine d), started := none, freeAt := c }
     else { t with queue := t.queue.filter (fun d => !mine d) })
  else t

/-- Descriptors of an incarnation leave the vector unit, the shunters and the top-k unit of a core. -/
def State.discardWork (s : State) (core k inc c : Nat) : State :=
  let mine := fun (d : Desc) => d.ctx == k && d.inc == inc
  let s := s.setVec core ((s.vec core).drop mine c)
  let s := forEach (upTo 8) s (fun n s => s.setShunter core n ((s.shunter core n).drop mine))
  let u := (tget (fun _ => {}) s.topks core).drop (fun d => d.ctx == k && d.inc == inc) c
  { s with topks := tset (fun _ => {}) s.topks core u, tables := s.tables.filter (fun w => !(w.ctx == k && w.inc == inc)) }

/-- A context is gone in cycle `c`: its holdings return, its work is discarded, its slot and windows fall free. -/
def State.removeCtx (s : State) (k c : Nat) : State :=
  match s.ctx? k with
  | none => s
  | some x =>
    let s := s.catchAll
    let s := (s.returnCredits x).returnHeld k x c
    let s := forEach [2 * x.core, 2 * x.core + 1] s (fun n s =>
      forEach [0, 1] s (fun h s => if (s.half n h).serves k x.inc then s.drainHalf n h k x.inc c else s))
    (((s.withdraw k).discardWork x.core k x.inc c).dropCtx k).closesC c 0 .creditGrant

/-- Records that a context's shunters have written to ports and that are still on their way are delivered (R272). -/
def State.deliverFlight (s : State) (k : Nat) (x : Ctx) : State :=
  forEach (upTo 8) s.catchUp (fun n s =>
    let u := s.shunter x.core n
    let mine := fun (d : Desc) => d.ctx == k && d.inc == x.inc && d.dsp == 5
    let done := (u.finish.filter (fun f => mine f.desc)).map (fun f => (f.desc, f.stream))
    let head := match u.queue with | d :: _ => if u.begun && mine d then [(d, u.stream)] else [] | [] => []
    forEach (done ++ head) s (fun p s => s.sendRecords x.core s.cclk p.1 p.2))

/-- A context of a job that is leaving stops at once when it is blocked or away (R272). -/
def State.leaveOne (s : State) (k c : Nat) : State :=
  match s.ctx? k with
  | none => s
  | some x => if !x.pos || s.blocked k x then (s.deliverFlight k x).removeCtx k c else s

/-- The contexts of every leaving job that may stop. -/
def State.leaveAll (s : State) (c : Nat) : State :=
  let ks := (s.ctxs.map Prod.fst).filter (fun k => (s.job (ctxJob k)).leaving)
  let s := forEach ks s (fun k s => s.leaveOne k c)
  forEach (ks.map ctxJob) s (fun j s => s.jobGone j)

/-- A job's contexts are ordered to leave in cycle `c` (R266, R267, R272). -/
def State.orderLeave (s : State) (j c : Nat) : State :=
  let s := s.setJob j { s.job j with leaving := true, restarts := [], loading := false }
  let grace := s.reg (key 0x2500 (0x0D + s.jobPart j))
  let s := forEach (s.jobCtxs j) s (fun k s => s.onCtx k (fun x => { x with graceAt := some (c + grace) }))
  ((s.leaveAll c).jobGone j).stir c

/-! Moves (R253, R257, R263, R264). -/

/-- The wait or acquisition of a context is cancelled (R257). -/
def State.cancelWait (s : State) (k : Nat) : State :=
  match s.ctx? k with
  | none => s
  | some x =>
    match x.waiting with
    | .wait => (s.withdraw k).setCtx k { x with cancelled := true }
    | .credit => s.setCtx k { x with cancelled := true }
    | _ => s

/-- A context leaves its running position for a pre-emption or a move in cycle `c`, with DUE (R258). A position given up by a
marked context waits for the targets (R263), and the context ranks again from the next cycle (R266). -/
def State.giveUp (s : State) (k c : Nat) : State :=
  match s.ctx? k with
  | none => s
  | some x =>
    let due := s.dueOf k x
    let y := if x.pos then x.leave c else { x with graceAt := none, forced := false }
    let s := if x.pos ∧ x.graceAt.isSome then s.setKept x.core (s.keptFor x.core + 1) else s
    (s.setCtx k { y with away := true, dueLeft := due - max x.quietAt x.ref }).opensC (c + 1) 0 .stir

/-- The move that a resident context begins in cycle `c`, once it holds nothing: an unload from its place, or a save
when it is staged. -/
def State.beginEvict (s : State) (k c : Nat) : State :=
  match s.ctx? k with
  | none => s
  | some x =>
    if x.holds || x.move.isSome || x.work != 0 || (x.pos && !s.blocked k x) then s
    else
      let s := (s.cancelWait k).giveUp k c
      s.onCtx k (fun x => x.startMove (if x.place = .inPlace then .unload else .save) c)

/-- Evictions that were deferred begin once their contexts hold nothing (R264). -/
def State.evictDeferred (s : State) (c : Nat) : State :=
  forEach (s.ctxs.map Prod.fst) s (fun k s => if (s.ctx k).evicted.isSome then s.beginEvict k c else s)

/-- Everything that a change of contexts may set going in cycle `c`. -/
def State.tidy (s : State) (c : Nat) : State := ((s.leaveAll c).evictDeferred c).stir c

/-! Yield points and quiescence (R152, R266, R267). -/

/-- SURR of a yield. -/
def yieldSurr (w : Nat) : Bool := bit w 8

/-- A context whose yield is issued is quiescent in cycle `c`. -/
def State.yieldPoint (s : State) (k c : Nat) : State :=
  match s.ctx? k with
  | none => s
  | some x =>
    if x.holds then (s.setCtx k (x.complete c (x.entry + 1))).count 0x2901 0x0D
    else if (s.job (ctxJob k)).leaving then (s.removeCtx k c).jobGone (ctxJob k)
    else if x.graceAt.isSome || yieldSurr x.word then
      let s := if x.graceAt.isSome then s.addReg (kJob (ctxJob k) 0x0B) 1 else s
      s.giveUp k c
    else s.setCtx k (x.complete c (x.entry + 1))

/-- A forced pre-emption takes effect in the cycle of quiescence. -/
def State.forcedOut (s : State) (k c : Nat) : State :=
  if (s.job (ctxJob k)).leaving then (s.removeCtx k c).jobGone (ctxJob k) else s.giveUp k c

/-- A context that holds nothing is pre-empted by force in cycle `c` (R267). -/
def State.forceOut (s : State) (k c : Nat) : State :=
  let s := (s.cancelWait k).addReg (kJob (ctxJob k) 0x0C) 1
  let s := s.onCtx k (fun x => { x with forced := true })
  (if (s.ctx k).work = 0 then s.forcedOut k c else s).tidy c

/-- A halted context that is to hold no position is pre-empted by force, or marked while it holds something (19 R480). -/
def State.rehalt (s : State) (k c : Nat) : State :=
  match s.ctx? k with
  | none => s
  | some x =>
    if x.halted && x.pos && !x.stepOne && !x.forced then
      (if x.holds then s.onCtx k (fun x => { x with graceAt := some (x.graceAt.getD c) }) else s.forceOut k c)
    else s

/-- A descriptor of a context has completed in cycle `c`. -/
def State.endWork (s : State) (k inc c : Nat) : State :=
  if s.isCtx k inc then
    let x := s.ctx k
    let x' := { x with work := x.work - 1, quietAt := if x.work ≤ 1 then c else x.quietAt }
    let s := s.setCtx k x'
    let s :=
      if x'.work = 0 then
        (if x'.forced then s.forcedOut k c
         else if x'.waiting = .yield ∧ x'.pos then s.yieldPoint k c else s)
      else s
    s.tidy c
  else s

/-! Teardown and core faults (R159, R269, R270). -/

/-- The fault status of a core (Table 5-16); `entry` is the timetable entry whose issue faulted. -/
def State.recordCoreFault (s : State) (k : Nat) (x : Ctx) (cause tag entry : Nat) : State :=
  let r := kCore x.core 3
  let s := (((s.setField r 23 20 cause).setField r 19 18 (x.slot.getD 0)).setField r 17 12 (ctxJob k)).setField r 11 9 (ctxLane k)
  let s := ((s.setBit r 8 true).setReg (kCore x.core 4) (entry % 2 ^ 24)).setReg (kCore x.core 5) tag
  s.count 0x2901 0x0A (tag * 2 ^ 16 + cause * 2 ^ 8 + x.core)

/-- The cycle in which the last descriptor of a context that is torn down in cycle `c` stops: the last vector that its passes
have fed reaches A2 (R95), and other descriptors stop at their next write (R159). -/
def State.lastStop (s : State) (x : Ctx) (k c : Nat) : Nat :=
  let mine := fun (d : Desc) => d.ctx == k && d.inc == x.inc
  let passes := [2 * x.core, 2 * x.core + 1].flatMap (fun n => [0, 1].flatMap (fun h =>
    (s.half n h).flights.flatMap (fun f =>
      if f.pass.ctx == k && f.pass.inc == x.inc then (f.acts.filter (fun v => decide (v.at_ ≤ c))).map (fun v => v.at_ + 21) else [])))
  let v := s.vec x.core
  let vector := if v.queue.head?.any mine then (v.pend.head?.map StepOut.at_).toList else []
  let shunters := (upTo 8).flatMap (fun n =>
    let u := s.shunter x.core n
    if u.queue.head?.any mine then (u.held.head?.map Prod.fst).toList else [])
  (passes ++ vector ++ shunters).foldl max c

/-- The slot and the windows of a context that is torn down in cycle `c` fall free when its last descriptor stops (R269). -/
def State.haunt (s : State) (k : Nat) (x : Ctx) (c : Nat) : State :=
  let e := s.lastStop x k c
  match x.slot with
  | some n =>
    if c < e then
      let g : Ghost := { core := x.core, slot := n, tsBase := x.tsBase, tsRows := x.tsRows, accBase := x.accBase
                         accRows := x.accRows, until_ := e }
      ({ s with ghosts := s.ghosts.filter (fun (g : Ghost) => decide (c < g.until_)) ++ [g] } : State).opensC e 0 .stir
    else s
  | none => s

/-- A context is torn down in cycle `c` (R269); TDM of its job selects what follows (R270). -/
def State.tearDown (s : State) (k c : Nat) : State :=
  match s.ctx? k with
  | none => s
  | some x =>
    let j := ctxJob k
    let s := s.catchAll
    let s := forEach [2 * x.core, 2 * x.core + 1] s (fun n s => forEach [0, 1] s (fun h s =>
      let u := s.half n h
      match u.passes.find? (fun p => p.ctx == k && p.inc == x.inc) with
      | some p => s.recordArrayFault n h 7 p.tag
      | none => s))
    let s := (((s.haunt k x c).removeCtx k c).addReg (kJob j 0x0D) 1).loseSeqs j
    let s :=
      if s.running (fJob j) then
        if s.bit' (kJob j 1) 9 then (s.enterFaulted (fJob j)).orderLeave j c
        else s.setJob j { s.job j with restarts := addKey (s.job j).restarts (ctxLane k) }
      else s
    (s.jobGone j).tidy c

/-- A fault of Table 5-17 against a context by a descriptor of timetable entry `entry` (R159). -/
def State.coreFaultAt (s : State) (k cause tag entry : Nat) : State :=
  match s.ctx? k with
  | none => s
  | some x => (s.recordCoreFault k x cause tag entry).tearDown k s.cclk

/-- A fault of Table 5-17 against a context at its present entry. -/
def State.coreFault (s : State) (k cause tag : Nat) : State := s.coreFaultAt k cause tag (s.ctx k).entry

/-- An END entry discards its context; the last one brings the job to STOPPED (R271). -/
def State.endLane (s : State) (k c : Nat) : State :=
  let j := ctxJob k
  let s := s.removeCtx k c
  let s := s.setJob j { s.job j with ended := addKey (s.job j).ended (ctxLane k) }
  let s :=
    if s.running (fJob j) ∧ (s.job j).ended.length = (s.job j).cores.length then
      (s.releaseJob j).setFn (fJob j) .stopped
    else s
  (s.jobGone j).tidy c

end Sys2Proof.Machine
end

