-- ==== Sys2Proof/Machine/Sequencer.lean ====
section
/-! DEFINITION. Entries that the sequencer itself executes: loops, ends, semaphores, waits, credits, yields and
deadlines, with the hub and the signals between lanes (05 R126 to R132, R144 to R153). -/
namespace Sys2Proof.Machine

/-- The stack memory that fetch reads for a context's next entry: the timetable word, and the slots of its descriptor. -/
def State.fetchSpans (s : State) (k : Nat) (x : Ctx) : List (Nat × Nat) :=
  let img := s.image (ctxJob k)
  match s.imageEntry (ctxJob k), ozjFind img 1 (ctxLane k), ozjFind img 2 (ctxLane k) with
  | some e, some tt, some dt =>
    let a := e.base + tt.off + 8 * x.entry
    (a, 8) :: (match (s.fetch k x).2 with
      | .issue _ ws => [(e.base + dt.off + 32 * bits (s.stackWord a) 23 0, 8 * ws.length)]
      | _ => [])
  | _, _, _ => []

/-- The fetch of core `c` may be granted slice `sl` in cycle `t`: in the core's phase, in phase 7 and that of an absent core,
and outside deterministic mode in every phase (R203, R204). -/
def State.fetchServed (s : State) (c t sl : Nat) : Bool :=
  let p := s.slicePhase t sl
  !s.det || p == c || p == 7 || (p != 6 && decide (s.cores ≤ p))

/-- Fetch has read an entry (R130): it takes the slices concerned before every other request of the cycle (R204, log 57), and an
uncorrectable word that it meets is found (R207). -/
def State.fetched (s : State) (k : Nat) (x : Ctx) : State :=
  let rs := s.fetchSpans k x
  let ss := (rs.flatMap (fun r => slicesOf r.1 r.2)).filter (s.fetchServed x.core s.cclk)
  forEach rs (s.take s.cclk (ss.map sliceKey)) (fun r s => s.noticeBad 3 8 r.1 r.2)

/-- An entry of the context in a slot is issued, if it may be and is of the command's kind: a timetable fault is
registered whichever kind the command names. -/
def State.issue (s : State) (core slot : Nat) (mine : Fetched → Bool) (f : State → Nat → Ctx → Fetched → State) : State :=
  match s.slotCtx core slot with
  | none => s
  | some (k, x) =>
    if s.canIssue k x then
      match (s.fetch k x).2 with
      | .fault => (s.fetched k x).coreFault k 6 0
      | e => if mine e then (f (s.fetched k x) k x e).rehalt k s.cclk else s
    else s

/-- A lower slot of the core has an entry of this kind to issue in the present cycle, and is served first (R126). -/
def State.lowerFirst (s : State) (core slot : Nat) (mine : Fetched → Bool) : Bool :=
  (upTo (slot % 4)).any (fun n =>
    match s.slotCtx core n with
    | some (k, x) => s.canIssue k x && mine (s.fetch k x).2
    | none => false)

/-- A descriptor of OP `op` whose word 0 passes `t`. -/
def isOp (op : Nat) (t : Nat → Bool) : Fetched → Bool
  | .issue o ws => o == op && t (ws.getD 0 0)
  | _ => false

/-- Words of a fetched descriptor. -/
def Fetched.words : Fetched → List Nat
  | .issue _ ws => ws
  | _ => []

/-- Words from the first on that must be 0. -/
def zeroFrom (ws : List Nat) (i : Nat) : Bool := (ws.drop i).all (· == 0)

/-! LOOP and END. -/

/-- The context after a LOOP entry (R129). -/
def Ctx.loop (x : Ctx) (lc count tgt c : Nat) : Ctx :=
  if count = 0 then x.complete c tgt
  else
    let n := tget (fun _ => 0) x.loops lc + 1
    if n < count then { x with loops := tset (fun _ => 0) x.loops lc n }.complete c tgt
    else { x with loops := tset (fun _ => 0) x.loops lc 0 }.complete c (x.entry + 1)

/-- A LOOP entry. -/
def isLoop : Fetched → Bool
  | .loop _ _ _ => true
  | _ => false

/-- Effect of a LOOP entry (R129). -/
def State.loopEntry (s : State) (k : Nat) (x : Ctx) : Fetched → State
  | .loop lc count tgt => ((s.countIssue k x).onCtx k (fun x => x.loop lc count tgt s.cclk)).tidy s.cclk
  | _ => s

/-- An END entry. -/
def isStop (e : Fetched) : Bool := e == .stop

/-- Effect of an END entry (R129). -/
def State.stopEntry (s : State) (k : Nat) (x : Ctx) (_ : Fetched) : State := (s.countIssue k x).endLane k s.cclk

/-! Semaphore descriptors (Table 5-9, R144 to R149). -/

/-- ACT. -/
def semAct (w : Nat) : Nat := bits w 15 14
/-- LANE. -/
def semLane (w : Nat) : Nat := bits w 34 32

/-- A semaphore descriptor is a descriptor fault (R132, R147). -/
def State.semMalformed (s : State) (k : Nat) (ws : List Nat) : Bool :=
  let w := ws.getD 0 0
  bits w 63 35 != 0 || !zeroFrom ws 1 || semAct w == 3 ||
  (if semAct w = 2 then semLane w == ctxLane k || decide ((s.job (ctxJob k)).cores.length ≤ semLane w) || decide (56 ≤ waitSem w)
   else semLane w != 0)

/-- An entry of this ACT; a reserved ACT is a fault whichever command names it. -/
def isSem (act : Nat) : Fetched → Bool := isOp 0x40 (fun w => semAct w == act || (semAct w == 3 && act == 0))

/-- The entry of a context completes in cycle `c` and the next follows. -/
def State.passOn (s : State) (k c : Nat) : State := s.onCtx k (fun x => x.complete c (x.entry + 1))

/-- Effect of a semaphore entry whose act is `f`. -/
def State.semDo (f : State → Nat → Ctx → Nat → State) (s : State) (k : Nat) (x : Ctx) (e : Fetched) : State :=
  if (s.countIssue k x).semMalformed k e.words then (s.countIssue k x).coreFault k 1 0
  else (f ((s.countIssue k x).passOn k s.cclk) k x (e.words.getD 0 0)).tidy s.cclk

/-- A semaphore entry whose act is `f`. -/
def State.semEntry (s : State) (core slot act : Nat) (f : State → Nat → Ctx → Nat → State) : State :=
  s.issue core slot (isSem act) (State.semDo f)

/-- The act of an add. -/
def State.semAdd (s : State) (k : Nat) (x : Ctx) (w : Nat) : State :=
  if waitSem w < 56 then s.signalCtx k (waitSem w) (waitVal w) none
  else s.sendHub k x.inc (waitSem w) s.cclk (.add (waitVal w))

/-- The act of a set. -/
def State.semSet (s : State) (k : Nat) (x : Ctx) (w : Nat) : State :=
  if waitSem w < 56 then s.onCtx k (fun x => x.setSem (waitSem w) { x.sem (waitSem w) with count := waitVal w })
  else s.sendHub k x.inc (waitSem w) s.cclk (.set (waitVal w))

/-- Hops from one core to another by the shorter way. -/
def State.ringHops (s : State) (a b : Nat) : Nat :=
  let m := s.cores
  min ((b + m - a) % m) ((a + m - b) % m)

/-- The act of an add to another lane. -/
def State.semLaneAdd (s : State) (k : Nat) (x : Ctx) (w : Nat) : State :=
  let dest := (s.job (ctxJob k)).cores.getD (semLane w) 0
  { s with laneSigs := s.laneSigs ++ [{ due := s.cclk + 6 * s.ringHops x.core dest, ctx := ctxKey (ctxJob k) (semLane w),
                                        sem := waitSem w, amount := waitVal w }] }

/-! The hub (R144, R148). -/

/-- One operation in the hub, or an outcome at its context. -/
def State.hubStep (s : State) (o : HubOp) : State :=
  match o.act with
  | .add n => (s.addHub o.part o.sem n none).endHolding o.ctx o.inc o.sem o.due
  | .set v => (s.setHub o.part o.sem { s.hubSem o.part o.sem with count := v }).endHolding o.ctx o.inc o.sem o.due
  | .test => if s.isCtx o.ctx o.inc then { s with hubWaits := addKey s.hubWaits o.ctx } else s
  | .outcome =>
    if s.isCtx o.ctx o.inc && !(s.ctx o.ctx).inTime o.due then
      (if waitKeep (s.ctx o.ctx).word then s else s.addHub o.part o.sem (waitVal (s.ctx o.ctx).word) none)
    else if s.isCtx o.ctx o.inc then
      s.onCtx o.ctx (fun x =>
        let v := waitVal x.word
        let x' := if waitKeep x.word then x
          else { x with held := tput x.held o.sem (tget (fun _ => 0) x.held o.sem + v) }
        (x'.complete o.due (x.entry + 1)).holdFrom (s.holdTime o.ctx) o.due x.holds)
    else s

/-- Order of operations of one cycle: changes of counts first, then tests, then outcomes. -/
def HubOp.rank (o : HubOp) : Nat :=
  match o.act with
  | .add _ => 0
  | .set _ => 0
  | .test => 1
  | .outcome => 2

/-- The waits in the hub are granted as cycle `c` closes; at once when it has closed. -/
def State.grantsHub (s : State) (c : Nat) : State := if c < s.cclk then s.grantAllHub c else s.closesC c 0 .hubGrant

/-! WAIT (R148, R257). -/

/-- TMO of a wait. -/
def waitTmo (w : Nat) : Nat := bits w 63 32

/-- The timer with which a wait or acquisition is issued: loaded now, or what the cancelled one has left. -/
def State.timerFor (s : State) (x : Ctx) (tmo : Nat) : Option Nat :=
  if x.cancelled then x.timer else if tmo = 0 then none else some (s.cclk + tmo)

/-- A wait or acquisition reaches its timeout in cycle `d`: it completes and is counted, or faults (R148, R151). -/
def State.expire (s : State) (k : Nat) (completes : Bool) (d : Nat) : State :=
  if completes then
    (((s.withdraw k).onCtx k (fun x => x.complete d (x.entry + 1))).count 0x2901 0x0C).tidy s.cclk
  else s.coreFault k 4 0

/-- A context begins to wait on word `w` in cycle `c`, its timer loaded. -/
def Ctx.begin (x : Ctx) (r : Waiting) (w c : Nat) (tm : Option Nat) : Ctx :=
  { x with waiting := r, cancelled := false, word := w, issuedAt := c, blockedAt := c, timer := tm, satAt := none }

/-- The timer that a cancelled wait has left has run out by cycle `c`. -/
def Ctx.late (x : Ctx) (tm : Option Nat) (c : Nat) : Bool :=
  match tm with
  | some d => x.cancelled && decide (d ≤ c)
  | none => false

/-- The count was satisfied before the timer ran out. -/
def Ctx.arrived (x : Ctx) (tm : Option Nat) : Bool :=
  match tm, x.satAt with
  | some d, some a => decide (a ≤ d)
  | _, _ => false

/-- Effect of a WAIT entry (R148, R257). -/
def State.waitEntry (s : State) (k : Nat) (x : Ctx) (e : Fetched) : State :=
  let c := s.cclk
  let w := e.words.getD 0 0
  let tm := s.timerFor x (waitTmo w)
  if !zeroFrom e.words 1 then (s.countIssue k x).coreFault k 1 0
  else if x.late tm c && !x.arrived tm then (s.countIssue k x).expire k (bit w 15) c
  else
    let s := (s.countIssue k x).onCtx k (fun y => y.begin .wait w c (if x.late tm c then none else tm))
    (if waitSem w < 56 then s else s.sendHub k x.inc (waitSem w) c .test).tidy c

/-! Credits (R150, R151). -/

/-- TACT of a credit descriptor. -/
def creditTact (w : Nat) : Bool := bit w 48
/-- TMO of a credit descriptor. -/
def creditTmo (w : Nat) : Nat := bits w 47 16
/-- ACT = release. -/
def creditRel (w : Nat) : Bool := bit w 8

/-- A credit descriptor is a descriptor fault (R132, Table 5-10). -/
def creditMalformed (ws : List Nat) : Bool :=
  let w := ws.getD 0 0
  bits w 63 49 != 0 || !zeroFrom ws 1 || creditN w == 0 || decide (4 < creditN w) || creditHops w == 0 ||
    decide (5 < creditHops w)

/-- Effect of an entry that acquires credits (R151, R257). -/
def State.acquireEntry (s : State) (k : Nat) (x : Ctx) (e : Fetched) : State :=
  let c := s.cclk
  let w := e.words.getD 0 0
  let tm := s.timerFor x (creditTmo w)
  if creditMalformed e.words then (s.countIssue k x).coreFault k 1 0
  else if x.late tm c then (s.countIssue k x).expire k (creditTact w) c
  else (((s.countIssue k x).onCtx k (fun x => x.begin .credit w c tm)).closesC c 0 .creditGrant).tidy c

/-- A context returns `n` credits on each of some links and goes on. -/
def Ctx.release (x : Ctx) (ls : List Nat) (n hold c : Nat) : Ctx :=
  let cs := ls.foldl (fun t l => tset (fun _ => 0) t l (tget (fun _ => 0) t l - n)) x.credits
  ({ x with credits := cs }.complete c (x.entry + 1)).holdFrom hold c x.holds

/-- Effect of an entry that releases credits (R151). -/
def State.releaseEntry (s : State) (k : Nat) (x : Ctx) (e : Fetched) : State :=
  let c := s.cclk
  let w := e.words.getD 0 0
  let ls := s.pathLinks x.core (creditHops w) (creditDown w)
  if creditMalformed e.words || ls.any (fun l => decide (x.creditsOn l < creditN w)) then (s.countIssue k x).coreFault k 1 0
  else
    let s := forEach ls (s.countIssue k x) (fun l s => s.setLink l (s.linkUsed l - creditN w))
    (((s.holdChecked k c).onCtx k (fun x => x.release ls (creditN w) (s.holdTime k) c)).closesC c 0 .creditGrant).tidy c

/-! Yields (R152, R266). -/

/-- Effect of a yield entry: it waits for quiescence, which may have come already. -/
def State.yieldDo (s : State) (k : Nat) (x : Ctx) (e : Fetched) : State :=
  let w := e.words.getD 0 0
  if bits w 63 9 ≠ 0 ∨ zeroFrom e.words 1 = false then (s.countIssue k x).coreFault k 1 0
  else
    let u := (s.countIssue k x).onCtx k (fun x => { x with waiting := .yield, word := w, issuedAt := s.cclk })
    (if x.work = 0 then u.yieldPoint k s.cclk else u).tidy s.cclk

/-- A yield entry whose SURR is `surr`. -/
def State.yieldEntry (s : State) (core slot : Nat) (surr : Bool) : State :=
  s.issue core slot (isOp 0x42 (fun w => yieldSurr w == surr)) State.yieldDo

/-! Deadlines (R153). -/

/-- SRC of a deadline descriptor. -/
def deadSrc (w : Nat) : Nat := bits w 9 8

/-- A deadline descriptor is a descriptor fault (R132, Table 5-11). -/
def deadMalformed (ws : List Nat) : Bool :=
  let w := ws.getD 0 0
  let o := ws.getD 1 0
  let a := ws.getD 2 0
  bits w 63 16 != 0 || deadSrc w == 3 || (deadSrc w != 1 && bits w 15 10 != 0) ||
  bits o 63 48 != (if bit o 47 then 0xFFFF else 0) || bits a 63 20 != 0 ||
  (if deadSrc w = 2 then bits a 2 0 != 0 else a != 0) || !zeroFrom ws 3

/-- A publication of context `k` crosses to SCLK (10 R286), unless a lower lane of its job has published in this cycle. -/
def State.publish (s : State) (k : Nat) (v : Option Nat) : State :=
  let j := ctxJob k
  let c := s.cclk
  let lower := match (s.job j).pubAt with | some (c', l) => c' == c && decide (l < ctxLane k) | none => false
  if lower then s
  else
    (s.setJob j { s.job j with pubAt := some (c, ctxLane k) }).opens (s.toSclk c) (.publish j v)

/-- The published deadline of job `j`, or its clearing, has reached the signal box. -/
def State.published (s : State) (j : Nat) (v : Option Nat) : State :=
  match v with
  | some d => if s.active (fJob j) then (s.setReg (kJob j 7) d).setBit (kJob j 8) 31 true else s
  | none => s.setBit (kJob j 8) 31 false

/-- The base that a deadline names: the stamp of a semaphore, or a word of the tile scratchpads; a poisoned word leaves
it open. -/
def State.deadBase (s : State) (k : Nat) (x : Ctx) (ws : List Nat) : Nat × State :=
  let n := bits (ws.getD 0 0) 15 10
  if deadSrc (ws.getD 0 0) = 1 then
    (if n < 56 then (x.sem n).stamp else (s.hubSem (s.jobPart (ctxJob k)) n).stamp, s)
  else
    let xs := (s.readTs k (bits (ws.getD 2 0) 19 0) 8).getD []
    if xs.any (fun b => b.2) then s.fresh (2 ^ 48) else (leNat (xs.map Prod.fst) % 2 ^ 48, s)

/-- Effect of an entry that publishes a deadline. -/
def State.publishEntry (s : State) (k : Nat) (x : Ctx) (e : Fetched) : State :=
  let u := (s.countIssue k x).catchAll
  let ws := e.words
  if deadMalformed ws then u.coreFault k 1 0
  else if deadSrc (ws.getD 0 0) = 2 ∧ u.tsInside k (bits (ws.getD 2 0) 19 0) 8 = false then u.coreFault k 2 0
  else
    let b := u.deadBase k x ws
    ((b.2.publish k (some (posAdd b.1 (signed 48 (ws.getD 1 0))))).passOn k s.cclk).tidy s.cclk

/-- Effect of an entry that clears the deadline. -/
def State.unpublishEntry (s : State) (k : Nat) (x : Ctx) (e : Fetched) : State :=
  let u := s.countIssue k x
  if deadMalformed e.words then u.coreFault k 1 0
  else ((u.publish k none).passOn k s.cclk).tidy s.cclk

end Sys2Proof.Machine
end

