-- ==== Sys2Proof/Machine/ArrayEntries.lean ====
section
/-! DEFINITION. What the commands of the matrix arrays do: issue of passes, weights, starts and boundaries of passes,
changes between whole and split mode, faults (03 R72 to R83, R93 to R96; 05 R131, R133). -/
namespace Sys2Proof.Machine

/-- The pass of a fetched descriptor. -/
def passOf (k : Nat) (x : Ctx) (c : Nat) (ws : List Nat) : Pass :=
  { ctx := k, inc := x.inc, w0 := ws.getD 0 0, w1 := ws.getD 1 0, w2 := ws.getD 2 0, w3 := ws.getD 3 0, at_ := c, entry := x.entry }

/-- Passes in the queue of a half, the one that feeds included until its last vector has entered (R74). -/
def HalfUnit.held (u : HalfUnit) (c : Nat) : Nat :=
  u.queue.length + (u.flights.filter (fun f => decide (c ≤ f.lastEntry))).length

/-- A fault of a half in cycle `c` against the context of a pass: record, drain, teardown (R94, R95). A queued pass that is
left without its weights faults in the next cycle (R96). -/
def State.arrayFault (s : State) (n h cause : Nat) (p : Pass) : State :=
  let c := s.cclk
  let s := (s.recordArrayFault n h cause p.tag).drainHalf n h p.ctx p.inc c
  let u := s.half n h
  let s := if (orphan (u.active.map (fun w => (w.ctx, w.inc, w.fmts))) u.queue).isSome then s.opensC (c + 1) 0 (.orphan n h) else s
  match s.ctx? p.ctx with
  | some x => if x.inc = p.inc then (s.recordCoreFault p.ctx x 8 0 p.entry).tearDown p.ctx c else s
  | none => s

/-- A queued pass without valid weights faults with cause 1h against its own context (R96). -/
def State.orphanFault (s : State) (n h : Nat) : State :=
  let s := s.catchAll
  let u := s.half n h
  match orphan (u.active.map (fun w => (w.ctx, w.inc, w.fmts))) u.queue with
  | some p => s.arrayFault n h 1 p
  | none => s

/-- The half of array `n` takes no pass in cycle `c`: the array is in the other mode, or its queue is full (R83, R131). -/
def State.passWaits (s : State) (n : Nat) (p : Pass) (c : Nat) : Bool :=
  (decide (p.half < 3) && ((s.array n).split != (p.half != 0)) && gArray s.grade n) ||
    decide (4 ≤ (s.half n p.halfIx).held c) || (s.half n p.halfIx).acceptAt == some c

/-- A pass enters the queue of its half in cycle `c`. -/
def State.passQueue (s : State) (n : Nat) (p : Pass) (c : Nat) : State :=
  s.setHalf n p.halfIx { s.half n p.halfIx with queue := (s.half n p.halfIx).queue ++ [p], acceptAt := some c }

/-- A half takes a sound pass; the others are a fault of the array (R93, R94). -/
def State.passTake (s : State) (n k : Nat) (x : Ctx) (p : Pass) (c : Nat) : State :=
  if s.passFault n x p then s.arrayFault n p.halfIx 1 p else ((s.passQueue n p c).goOn k c).tidy c

/-- An entry of the half of `p`. -/
def forHalf (p : Pass) (e : Fetched) : Bool :=
  isOp 0x10 (fun _ => true) e && (let q := { p with w0 := e.words.getD 0 0 }; q.arr == p.arr && q.halfIx == p.halfIx)

/-- A pass is issued, unless its half has to wait or serves a lower slot in this cycle (05 R126). A pass with a fault waits for
the change of mode as every other does (DESIGN CHOICE, log 130): R83 holds its issue back, and R93 judges it when issued. -/
def State.passEntry (s : State) (k : Nat) (x : Ctx) (e : Fetched) : State :=
  let p := passOf k x s.cclk e.words
  if s.passWaits (2 * x.core + p.arr) p s.cclk || s.lowerFirst x.core (x.slot.getD 0) (forHalf p) then s
  else ((s.countIssue k x).catchAll).passTake (2 * x.core + p.arr) k x p s.cclk

/-! Weights (R76 to R79). -/

/-- The feeder slot of a half: in split mode the cycles of its own array phase (R81). -/
def State.feedSlot (s : State) (n h : Nat) : Bool := s.slotAt n h s.cclk == s.cclk

/-- The first queued pass becomes current in the present cycle with weights `w`: a front starts unless it keeps those it
finds, and the vectors read ahead enter in their slots (R74, R75, R78). -/
def State.startPass (s : State) (n h : Nat) (p : Pass) (w : Weights) : State :=
  let c := s.cclk
  let u := s.half n h
  let acts := u.ahead.zipIdx.map (fun v => { v.1 with at_ := c + p.period * v.2 })
  let f : Flight := { pass := p, e := c, next := c + p.period * acts.length, wts := some w, acts := acts }
  let s := s.addReg (kArr 0x40 n) (u.waited c)
  let u := s.half n h
  let s := s.setHalf n h { u with
    queue := u.queue.drop 1, flights := u.flights ++ [f], ahead := [], late := 0
    shadow := if p.keep then u.shadow else none
    freeAt := if p.keep then u.freeAt else c + 17
    active := some w }
  match acts.find? (fun v => v.bad) with
  | some v => s.wound n h 2 v.at_ p
  | none => s

/-! Faults (R94 to R96). -/

/-- What a half has to register for a cause: the cycle it arose in and the pass. -/
def State.woundOf (s : State) (n h cause : Nat) : Option (Nat × Pass) :=
  ((s.half n h).wounds.find? (fun w => w.1 == cause)).map Prod.snd

/-- A pass boundary of the half has come at or after cycle `c`. Where no pass follows, the fault is registered 65,558 cycles
after (DESIGN CHOICE, log 122): the longest pass, its feeder reads and its pipeline. -/
def State.boundaryAfter (s : State) (n h c : Nat) : Bool :=
  (match (s.half n h).boundary c with | some b => decide (b ≤ s.cclk) | none => false) || decide (c + 65558 ≤ s.cclk)

/-- Code of a cause (Table 3-10). -/
def arrayCauseCode : ArrayCause → Nat
  | .poisonedActivation => 2
  | .poisonedWeight => 3
  | .weightParity => 4
  | .poisonedAccumulator => 5
  | .trap => 6
  | .teardown => 7

/-- A half is empty (R83). -/
def HalfUnit.empty (u : HalfUnit) (c : Nat) : Bool :=
  u.queue.isEmpty && u.loadAt.isNone && u.flights.all (fun f => decide (f.lastEntry + 21 < c))

/-- A running slot of the core holds a due pass for the other mode of an array. -/
def State.wantsMode (s : State) (core array : Nat) (split : Bool) : Bool :=
  (upTo 4).any (fun slot =>
    match s.slotCtx core slot with
    | some (k, x) =>
      s.canIssue k x &&
      (match (s.fetch k x).2 with
       | .issue op ws =>
         let p := passOf k x 0 ws
         op == 0x10 && p.arr == array && decide (p.half < 3) && ((p.half != 0) == split)
       | _ => false)
    | none => false)

end Sys2Proof.Machine
end

