-- ==== Sys2Proof/Machine/Scheduler.lean ====
section
/-! DEFINITION. Slice boundaries, pre-emption, hold timers, the moves of contexts, ordered teardowns and the model cache
(09 R253 to R276, 10 R294). -/
namespace Sys2Proof.Machine

/-! Partitions (R247, R261). -/

/-- Hidden state of partition `p`. -/
def State.part (s : State) (p : Nat) : PartUnit := tget (fun _ => {}) s.parts p
/-- Replace it. -/
def State.setPart (s : State) (p : Nat) (x : PartUnit) : State := { s with parts := tset (fun _ => {}) s.parts p x }
/-- Partition of a logical core. -/
def State.corePart (s : State) (c : Nat) : Nat := s.reg (key 0x2500 (1 + c))
/-- Cores of partition `p`. -/
def State.partCores (s : State) (p : Nat) : List Nat := (upTo s.cores).filter (fun c => s.corePart c == p)
/-- Jobs of partition `p`. -/
def State.partJobs (s : State) (p : Nat) : List Nat := (upTo 64).filter (fun j => s.jobPart j == p)
/-- The slice of partition `p` (Table 9-2). -/
def State.sliceCfg (s : State) (p : Nat) : Nat := s.reg (key 0x2500 (7 + p))

/-- The latest SCLK cycle whose events have crossed to CCLK by now (10 R285); with frames removed die-wide that may be many
cycles ago. -/
def State.crossedSclk (s : State) : Nat :=
  s.sclk - (((List.range 700).find? (fun i => decide (s.toCclk (s.sclk - i) ≤ s.cclk))).getD 700)

/-- HPOS of a domain as its advances have crossed to CCLK (R261, 10 R285). -/
def State.hposCrossed (s : State) (d : Nat) : Nat := s.hposAt d s.crossedSclk

/-- A boundary of partition `p` has come (R261). `counts` holds HPOS at the last boundary that advances brought. -/
def State.boundaryDue (s : State) (p : Nat) : Bool :=
  let u := s.part p
  let w := s.sliceCfg p
  let len := bits w 28 0
  (s.partJobs p).any (fun j => s.active (fJob j)) && u.origin.isSome &&
  (if bit w 31 then
     decide ((len : Int) ≤ posDiff (s.hposCrossed (bits w 30 29)) u.counts) || decide (u.lastAt + 16777216 ≤ s.cclk)
   else decide (u.lastAt + len ≤ s.cclk))

/-- The boundary is taken: with UNIT = 0 at the latest multiple of LEN cycles, with UNIT = 1 in the present cycle, where the
advances are those up to the latest multiple of LEN; a boundary that the lapse of time brought leaves their count. -/
def State.passBoundary (s : State) (p : Nat) : State :=
  let u := s.part p
  let w := s.sliceCfg p
  let len := max 1 (bits w 28 0)
  if bit w 31 then
    let n := (posDiff (s.hposCrossed (bits w 30 29)) u.counts).toNat / len * len
    s.setPart p { u with lastAt := s.cclk, counts := posAdd u.counts n }
  else s.setPart p { u with lastAt := u.lastAt + (s.cclk - u.lastAt) / len * len }

/-! Slice boundaries (R263). -/

/-- The targets of a core: as many of the highest-ranked ready contexts as there are running positions. -/
def State.targets (s : State) (core : Nat) : List Nat :=
  (s.ranked ((s.coreCtxs core).filter (fun k => s.ready k (s.ctx k)))).take s.positions

/-- Context `a` is evicted rather than `b` (R263 step 3). -/
def State.evictBefore (s : State) (a b : Nat) : Bool :=
  let xa := s.ctx a
  let xb := s.ctx b
  let ba := s.blocked a xa
  let bb := s.blocked b xb
  let tie := decide (xa.residentAt < xb.residentAt) ||
    (xa.residentAt == xb.residentAt && decide (xb.slot.getD 0 < xa.slot.getD 0))
  if ba != bb then ba
  else if ba then decide (xa.blockedAt < xb.blockedAt) || (xa.blockedAt == xb.blockedAt && tie)
  else s.above b a

/-- The context of a list that is evicted first. -/
def State.victim (s : State) : List Nat → Option Nat
  | [] => none
  | k :: ks => some (ks.foldl (fun m a => if s.evictBefore a m then a else m) k)

/-- A context is torn down by order of the scheduler (R269): the fault is recorded in its core while it is resident. -/
def State.orderTeardown (s : State) (k : Nat) : State :=
  if (s.ctx k).slot.isSome then s.coreFault k 8 0 else s.tearDown k s.cclk

/-- The hold timer of a context expires: the overrun is counted, and with a forced pre-emption or a move pending the context
is torn down (R268). -/
def State.holdOverrun (s : State) (k : Nat) : State :=
  let x := s.ctx k
  let t := s.count 0x2901 0x11
  if x.evicted.isSome || (match x.graceAt with | some g => decide (g < s.cclk) | none => false) then t.orderTeardown k
  else t.setCtx k { x with overrun := x.holds }

/-- An eviction or unload of a context is decided in cycle `c`: it begins now, waits until the context holds nothing, or
finds an overrun and tears the context down (R264, R268). -/
def State.evict (s : State) (k target c : Nat) : State :=
  let x := s.ctx k
  if x.holds && (x.overrun || s.holdTime k == 0) then s.orderTeardown k
  else (s.onCtx k (fun x => { x with evicted := some (target, c) })).beginEvict k c

/-- Step 2: ready contexts that hold a position and are no targets are marked (R266). -/
def State.markOthers (s : State) (p core c : Nat) (ts : List Nat) : State :=
  forEach (s.coreCtxs core) s (fun k s =>
    let x := s.ctx k
    if x.pos && s.ready k x && !ts.contains k && x.graceAt.isNone then
      s.setCtx k { x with graceAt := some (c + s.reg (key 0x2500 (0x0D + p))) }
    else s)

/-- A context leaves for target `t`. -/
def State.roomAwaited (s : State) (core t : Nat) : Bool :=
  (s.coreCtxs core).any (fun k => match (s.ctx k).evicted with | some e => e.1 == t | none => false)

/-- Step 3: one context makes room for a target that is in its siding and for which none leaves already. -/
def State.makeRoom (s : State) (core c : Nat) (ts : List Nat) : State :=
  match ts.find? (fun k => (s.ctx k).slot.isNone && !s.roomAwaited core k), s.freeSlot core with
  | some t, none =>
    match s.victim ((s.coreCtxs core).filter (fun k =>
        let x := s.ctx k
        x.slot.isSome && !ts.contains k && x.move.isNone && x.evicted.isNone)) with
    | some v => s.evict v t c
    | none => s
  | _, _ => s

/-- Step 5: the positions that targets do not hold wait for them, those given up since the boundary too. -/
def State.setTargets (s : State) (core : Nat) (ts : List Nat) : State :=
  { s with tgts := tset (fun _ => []) s.tgts core ts, kept := tset (fun _ => 0) s.kept core 0 }

/-- A staged context is loaded if its windows fit (R251, R253). -/
def State.beginLoad (s : State) (k c : Nat) : State :=
  match s.ctx? k with
  | none => s
  | some x =>
    if x.place == .staged && x.move.isNone && x.slot.isSome then
      match s.fitWindows x.core x.tsRows x.accRows with
      | some (a, b) => s.setCtx k ({ x with tsBase := a, accBase := b }.startMove .load c)
      | none => s
    else s

/-- Contexts in place of a core that are no targets and stand in the way of a target's windows, in the order of
eviction: the fewest that make them fit. -/
def State.inTheWay (core t : Nat) (ts : List Nat) : Nat → State → List Nat
  | 0, _ => []
  | n + 1, s =>
    let x := s.ctx t
    if (s.fitWindows core x.tsRows x.accRows).isSome then []
    else
      match s.victim ((s.coreCtxs core).filter (fun k => (s.ctx k).place == .inPlace && !ts.contains k)) with
      | none => []
      | some v => v :: State.inTheWay core t ts n (s.onCtx v (fun x => { x with place := .staged }))

/-- Step 4: a staged target is loaded; contexts whose windows stand in its way are unloaded first. -/
def State.placeTarget (s : State) (core c : Nat) (ts : List Nat) (t : Nat) : State :=
  let x := s.ctx t
  if x.place == .staged && x.move.isNone then
    let vs := State.inTheWay core t ts 4 s
    let s := forEach vs s (fun v s => if (s.ctx v).move.isNone then s.evict v t c else s)
    s.beginLoad t c
  else s

/-- Lanes of a job that wait to start again do so (R270). -/
def State.restartLanes (s : State) (j c : Nat) : State :=
  let u := s.job j
  if u.restarts.isEmpty || u.loading then s
  else
    let s := s.setJob j { u with restarts := [] }
    forEach u.restarts s (fun l s => (s.startLane j l (u.cores.getD l 0) c).addReg (kJob j 0x0E) 1)

/-! Pre-emption by force and hold timers (R267, R268). -/

/-! Moves (R253 to R258, Tables 9-3 to 9-5). -/

/-- The valid flags of a context in place, as the siding image holds them: 256 bytes per array, 128 per column half. -/
def State.flagBytes (s : State) (x : Ctx) : Bytes :=
  (upTo 4).flatMap (fun g => (upTo 128).map (fun i =>
    BitVec.ofNat 8 ((upTo 8).foldl (fun v b =>
      let r := 8 * i + b
      if r < x.accRows && s.isValid x.core (g / 2) (g % 2) (x.accBase + r) then v + 2 ^ b else v) 0)))

/-- Set the flags of a context in place from its image. -/
def State.putFlags (s : State) (x : Ctx) (bs : Bytes) : State :=
  forEach (upTo 4) s (fun g s => forEach (upTo x.accRows) s (fun r s =>
    s.setValid x.core (g / 2) (g % 2) (x.accBase + r) (bit ((bs.getD (128 * g + r / 8) 0).toNat) (r % 8))))

/-- Words as groups of `m`: a group is poisoned when one of its words is. -/
def groupWords (m : Nat) (ks : List Nat) : List Nat := ks.foldl (fun t k => addKey t (k / m)) []

/-- The windows of a context are copied to its staging allotment, behind the image's header; the rest of the image is zero
(R254, R255). -/
def State.unloadData (s : State) (k : Nat) (x : Ctx) (n : Nat) : State :=
  let b := s.staging x.core n
  let w := x.tsRows * 256
  let r := x.accRows * 1024
  let m := (s.stack.zero 8 b sidingBytes)
  let ts := fun (a : Nat) => s.ts.cut 8 (tsAt x.core a (x.tsBase * 256)) w
  let ac := fun (a : Nat) => s.acc.cut 4 (accAt x.core a (x.accBase * 1024)) r
  let s := forEach [0, 1] s (fun a s =>
    (s.noticeBad 1 8 (tsAt x.core a (x.tsBase * 256)) w).noticeBad 2 4 (accAt x.core a (x.accBase * 1024)) r)
  let m := (m.paste 8 (b + 4096) w (ts 0)).paste 8 (b + 4096 + tsBytes) w (ts 1)
  let o := b + 4096 + 2 * tsBytes
  let m := (m.paste 8 o r ((ac 0).1, groupWords 2 (ac 0).2)).paste 8 (o + accBytes) r ((ac 1).1, groupWords 2 (ac 1).2)
  { s with stack := (m.write 8 b (clean (s.sidingHeader k x))).write 8 (b + 512) (clean (s.flagBytes x)) }

/-- The staging image of a context is copied to its windows. A poisoned word of an accumulator row clears the row's flag
(R89, R254). -/
def State.loadData (s : State) (x : Ctx) (n : Nat) : State :=
  let b := s.staging x.core n
  let w := x.tsRows * 256
  let r := x.accRows * 1024
  let o := b + 4096 + 2 * tsBytes
  let t := (s.ts.paste 8 (tsAt x.core 0 (x.tsBase * 256)) w (s.stack.cut 8 (b + 4096) w)).paste 8
      (tsAt x.core 1 (x.tsBase * 256)) w (s.stack.cut 8 (b + 4096 + tsBytes) w)
  let a0 := s.stack.cut 8 o r
  let a1 := s.stack.cut 8 (o + accBytes) r
  let m := (s.acc.paste 4 (accAt x.core 0 (x.accBase * 1024)) r (a0.1, [])).paste 4
      (accAt x.core 1 (x.accBase * 1024)) r (a1.1, [])
  let flags := s.stack.bytes (b + 512) 512
  let s := forEach [(b + 512, 512), (b + 4096, w), (b + 4096 + tsBytes, w), (o, r), (o + accBytes, r)] s (fun p s =>
    s.noticeBad 3 8 p.1 p.2)
  let s := { s with ts := t, acc := m }
  let s := s.putFlags x flags
  let bad := fun (a : Nat) (ks : List Nat) (s : State) =>
    forEach ks s (fun k s => s.setValid x.core a (k * 8 / 512 % 2) (x.accBase + k * 8 / 1024) false)
  bad 1 a1.2 (bad 0 a0.2 s)

/-- A target has come into place: the swap time is recorded (2570h.07, .08). -/
def State.noteSwap (s : State) (k : Nat) : State :=
  match (s.ctx k).swapFrom with
  | some c1 =>
    let v := s.cclk - c1
    let s := (s.setReg (key 0x2570 7) v).setReg (key 0x2570 8) (max v (s.reg (key 0x2570 8)))
    s.onCtx k (fun x => { x with swapFrom := none })
  | none => s

/-- The slot registers of a context are copied into its staging allotment: vector registers, lookup tables, sequencer state in
cycle `c` (R253, Table 9-4). Poisoned data travels as poisoned words. -/
def State.saveSlot (s : State) (x : Ctx) (n c : Nat) : State :=
  let o := s.staging x.core n + slotImage
  let m := s.stack.paste 8 o 16384 (x.vregs, groupWords 4 x.vbad)
  let m := m.paste 8 (o + 16384) 65536 (x.luts, groupWords 2 x.lbad)
  { s with stack := m.write 8 (o + 81920) (clean (x.seqBytes c)) }

/-- The words of `m` smaller units that words hold. -/
def splitWords (m : Nat) (ks : List Nat) : List Nat := ks.flatMap (fun k => (upTo m).map (fun i => m * k + i))

/-- A context with the sequencer state that the bytes of Table 9-5 hold. The scheduler keeps its timer, and the word of a wait
comes from its entry (R257). -/
def Ctx.withSeq (x : Ctx) (bs : Bytes) : Ctx :=
  let w := match leAt bs 28 1 with | 1 => Waiting.wait | 2 => .credit | 3 => .yield | _ => .none
  { x with
    entry := leAt bs 0 4, dueLeft := leAt bs 4 4, draws := leAt bs 16 8
    loops := (upTo 4).foldl (fun t i => tset (fun _ => 0) t i (leAt bs (8 + 2 * i) 2)) []
    waiting := w, cancelled := w == .wait || w == .credit
    sems := (upTo 56).foldl (fun t i =>
      tset (fun _ => {}) t i { count := leAt bs (32 + 2 * i) 2, stamp := leAt bs (144 + 8 * i) 6 }) [] }

/-- The slot registers of a context are copied back from its siding image (R253); its marks of poison travel with them. -/
def State.restoreSlot (s : State) (k : Nat) : State :=
  let o := sidingBase k + slotImage
  let v := s.ext.cut 32 o 16384
  let l := s.ext.cut 32 (o + 16384) 65536
  s.onCtx k (fun x =>
    { x.withSeq (s.ext.bytes (o + 81920) 1024) with
      vregs := v.1, vbad := splitWords 16 v.2, luts := l.1, lbad := splitWords 8 l.2 })

/-- A word of the sequencer state in the siding image of a context is poisoned. No state can be restored from it: the restore
fails as one that R294 refuses (DESIGN CHOICE, log 131). -/
def State.seqPoisoned (s : State) (k : Nat) : Bool := s.ext.tainted 32 (sidingBase k + slotImage + 81920) 592

/-- The siding image of a context is its own (R294). -/
def State.sidingOk (s : State) (k : Nat) : Bool :=
  let h := s.ext.bytes (sidingBase k) 12
  h.take 4 == [0x4F#8, 0x5A#8, 0x53#8, 0x31#8] && leAt h 4 2 == 1 && leAt h 6 1 == ctxJob k && leAt h 7 1 == ctxLane k
    && leAt h 8 4 == s.reg (kJob (ctxJob k) 5)

/-- The pending record of a context is added to its semaphores (R256). -/
def State.applyRecord (s : State) (k : Nat) : State :=
  let r := (s.ctx k).record
  let s := s.onCtx k (fun x => { x with record := [] })
  forEach r s (fun p s => s.signalCtx k p.1 p.2.1 p.2.2)

/-! The model cache (R273 to R276). -/

/-- A function is on its way to RUNNING: it waits for copies, for its beat or for the barrier. -/
def State.entering (s : State) (f : Nat) : Bool :=
  s.launches.any (fun l => l.fns.contains f) || (s.barrier.armed && s.barrier.fns.contains f) ||
    s.later.any (fun l => match l.act with | .enter fs => fs.contains f | _ => false)

/-- Job `j` uses its cache entries: from its restart until it leaves RUNNING or STOPPING (R275). -/
def State.usesCache (s : State) (j : Nat) : Bool := s.active (fJob j) || s.entering (fJob j)

/-- A job uses a cache entry. -/
def State.entryUsed (s : State) (e : CacheEntry) : Bool :=
  if e.img then s.usesCache e.id else (upTo 64).any (fun j => s.usesCache j && ozjModel (s.image j) == e.id)

/-- Wide mode is on. -/
def State.wide (s : State) : Bool := s.reg (key 0x2500 0x27) == 1

/-- An entry that may be evicted; in wide mode none is (07 R214). -/
def State.evictable (s : State) (e : CacheEntry) : Bool :=
  !s.wide && !s.entryUsed e && !(!e.img && s.pins.contains e.id)

/-- Remove an entry from the cache. -/
def State.dropEntry (s : State) (e : CacheEntry) : State := { s with cache := s.cache.filter (fun d => d.base != e.base) }

/-- Place an entry, evicting the least recently used entries while it does not fit (R275); `keep` lists entries that the
present request needs. -/
def State.placeEntry (keep : List (Bool × Nat)) : Nat → State → CacheEntry → Option State
  | 0, _, _ => none
  | n + 1, s, e =>
    let size := roundUp (max 1 e.size) kb64
    match lowestFit (s.poolSpans 1) (s.poolBase 1) (min (s.poolEnd 1) stackBytes) size with
    | some b => some { s with cache := s.cache ++ [{ e with base := b, size := size }] }
    | none =>
      match s.cache.filter (fun d => s.evictable d && !keep.contains (d.img, d.id)) with
      | [] => none
      | d :: ds =>
        let v := ds.foldl (fun m a => if a.lastUse < m.lastUse then a else m) d
        State.placeEntry keep n ((s.dropEntry v).addReg (key 0x2560 9) 1) e

/-- The cache entries that a job needs, with their sizes. -/
def State.jobEntries (s : State) (j : Nat) : List CacheEntry :=
  let img := s.image j
  let m := ozjModel img
  { img := true, id := j, version := ozjCrc img, base := 0, size := ozjExtent img } ::
    (if m = 0 then [] else
      match s.models.find? (fun x => x.id == m) with
      | some x => [{ img := false, id := m, version := x.version, base := 0, size := x.payload.length }]
      | none => [])

/-- The store holds what a job needs (R275). -/
def State.modelThere (s : State) (j : Nat) : Bool :=
  let img := s.image j
  ozjModel img == 0 || s.models.any (fun x => x.id == ozjModel img && x.version == ozjModelVersion img)

/-- Place the entries of a job that are not cached, counting hits and misses; none if they cannot be placed. Those of the jobs
among `set`, which start with it, are used too. -/
def State.placeJob (s : State) (set : List Nat) (j : Nat) : Option State :=
  let es := s.jobEntries j
  let keep := ((upTo 64).filter (fun i => i == j || set.contains (fJob i))).flatMap (fun i =>
    (s.jobEntries i).map (fun e => (e.img, e.id)))
  es.foldl (fun t e =>
    t.bind (fun s =>
      if s.cache.any (fun d => d.img == e.img && d.id == e.id && d.loaded) then some (s.addReg (key 0x2560 7) 1)
      else if s.cache.any (fun d => d.img == e.img && d.id == e.id) then some s
      else (State.placeEntry keep (s.cache.length + 1) s e).map (fun s => s.addReg (key 0x2560 8) 1))) (some s)

/-- Every cache entry that a job uses is loaded. -/
def State.jobCached (s : State) (j : Nat) : Bool :=
  (s.jobEntries j).all (fun e => s.cache.any (fun d => d.img == e.img && d.id == e.id && d.loaded))

/-- The entries of a job stand in the cache (R275). -/
def State.markLoaded (s : State) (j : Nat) : State :=
  let es := s.jobEntries j
  let mine := fun (d : CacheEntry) => es.any (fun e => d.img == e.img && d.id == e.id)
  let new := es.filter (fun e => s.cache.any (fun d => d.img == e.img && d.id == e.id && !d.loaded))
  let n := new.foldl (fun t e => t + e.size) 0
  let s := { s with cache := s.cache.map (fun d => if mine d then { d with loaded := true } else d) }
  (s.addKB (key 0x2560 0x0A) n).setJob j { s.job j with loading := false }

/-- A model is placed and loaded (PIN, PRELOAD); none if there is no such model or no room. -/
def State.loadModel (s : State) (id : Nat) : Option State :=
  match s.models.find? (fun m => m.id == id) with
  | none => none
  | some m =>
    if (s.modelEntry id).isSome then some s
    else
      let e : CacheEntry := { img := false, id := id, version := m.version, base := 0, size := m.payload.length, loaded := true }
      (State.placeEntry [] (s.cache.length + 1) s.catchAll e).map (fun s =>
        match s.modelEntry id with
        | some e => ({ s with stack := s.stack.write 8 e.base (clean m.payload) }).addKB (key 0x2560 0x0A) m.payload.length
        | none => s)

/-- What PIN and PRELOAD load. In wide mode nothing is cached or pinned, and they load nothing (DESIGN CHOICE, log 128). -/
def State.pinModel (s : State) (id : Nat) : Option State :=
  if s.wide then (if s.models.any (fun m => m.id == id) then some s else none) else s.loadModel id

/-- A job that uses model `id` runs or stops. -/
def State.modelUsed (s : State) (id : Nat) : Bool :=
  (upTo 64).any (fun j => s.active (fJob j) && ozjModel (s.image j) == id)

/-- FLUSH. -/
def State.flushCache (s : State) : State :=
  let gone := s.cache.filter s.evictable
  ({ s with cache := s.cache.filter (fun e => !s.evictable e) }).addReg (key 0x2560 9) gone.length

/-- When the cache restarts with wide mode off, pinned models are loaded again in ascending ID (R276). -/
def State.repin (s : State) : State :=
  if s.wide then s
  else forEach s.pins s (fun id s =>
    if s.models.any (fun m => m.id == id) then (s.loadModel id).getD (s.addReg (key 0x2560 0x0B) 1) else s)

end Sys2Proof.Machine
end

