-- ==== Sys2Proof/Machine/Banks.lean ====
section
/-! DEFINITION. Reference banks: creation and deletion, enrolment and bulk loading, and the top-k units (08). -/
namespace Sys2Proof.Machine

/-- 2B00h + b, subindex `sub`. -/
def kBank (b sub : Nat) : Nat := key (0x2B00 + b) sub
/-- Hidden state of bank `b`. -/
def State.bank (s : State) (b : Nat) : BankUnit := tget (fun _ => {}) s.banks b
/-- Replace it. -/
def State.setBank (s : State) (b : Nat) (x : BankUnit) : State := { s with banks := tset (fun _ => {}) s.banks b x }
/-- READY. -/
def State.bankReady (s : State) (b : Nat) : Bool := s.reg (kBank b 5) == 1
/-- Entries of a cell. -/
def State.cellSize (s : State) (b : Nat) : Nat := 2 ^ s.field' (kBank b 1) 3 0
/-- Cells. -/
def State.cellCount (s : State) (b : Nat) : Nat := s.reg (kBank b 2)
/-- Entries. -/
def State.entryCount (s : State) (b : Nat) : Nat := s.cellCount b * s.cellSize b

/-- Jobs that name bank `b` (R230, R231). -/
def State.bankJobs (s : State) (b : Nat) : List Nat := (upTo 64).filter (fun j => (ozjBanks (s.image j)).contains b)
/-- Every job that names the bank is STOPPED or OFF. -/
def State.bankFree (s : State) (b : Nat) : Bool := (s.bankJobs b).all (fun j => s.idle (fJob j))

/-! External memory (R228, R255, R363). -/

/-- End of the model store. -/
def State.storeEnd (s : State) : Nat := 0x48000000 + s.reg (key 0x2560 1) * 2 ^ 20

/-- Bytes of an intake stream's ring. -/
def State.ringBytes (s : State) (i : Nat) : Nat := s.reg (key (0x2A00 + i) 5) * s.reg (key (0x2A00 + i) 0x13)

/-- Spans of the network ports: receive buffers, transmit queues and the inbox, while placed. -/
def State.netSpans (s : State) : List (Nat × Nat) :=
  [0, 1].flatMap (fun n => [(s.reg (key (0x2700 + n) 0x0D), s.reg (key (0x2700 + n) 8) * 2 ^ 20),
                            (s.reg (key (0x2700 + n) 0x0E), s.reg (key (0x2700 + n) 9) * 2 ^ 20)]) ++
  [(s.reg (key 0x2730 5), s.reg (key 0x2730 2) * s.reg (key 0x2730 3))]

/-- Spans of external memory in use above the model store: regions of jobs, banks, rings of intake streams, network
ports. -/
def State.extUsed (s : State) : List (Nat × Nat) :=
  s.regions.map Prod.snd ++ (upTo 16).flatMap s.bankSpans ++
  (upTo 16).flatMap (fun b => match (s.bank b).creating with
    | some (_, e, w) => [(e, 256 * s.entryCount b), (w, 4 * s.entryCount b)]
    | none => []) ++
  ((upTo 16).filter (fun i => s.reg (key (0x2A00 + i) 0x12) != 0)).map (fun i => (s.reg (key (0x2A00 + i) 0x12), s.ringBytes i)) ++
  s.netSpans.filter (fun x => x.1 != 0)

/-! CREATE and DELETE (R228). -/

/-- The places of a bank's two areas. -/
def State.bankPlaces (s : State) (b : Nat) : Option (Nat × Nat) :=
  let n := s.entryCount b
  match highestFit s.extUsed s.storeEnd extBytes (256 * n) with
  | none => none
  | some e =>
    match highestFit ((e, 256 * n) :: s.extUsed) s.storeEnd extBytes (4 * n) with
    | some w => some (e, w)
    | none => none

/-- The hot allotment of a bank, if it has one: one allotment of two parts. -/
def State.allotHot (s : State) (b : Nat) : Option State :=
  if s.hotBytes b false = 0 then some s
  else s.allot 5 (ownHot b) (roundUp (s.hotBytes b false) kb64 + roundUp (s.hotBytes b true) kb64)

/-- CREATE: none where it is refused as unsatisfiable (R225, R228). -/
def State.createBank (s : State) (b : Nat) : Option State :=
  let total := (upTo 16).foldl (fun t i =>
    if i = b ∨ s.bankReady i ∨ (s.bank i).creating.isSome then t + s.entryCount i else t) 0
  if 375000000 < total then none
  else
    match s.bankPlaces b with
    | none => none
    | some (e, w) => (s.allotHot b).map (fun s => s.setBank b { creating := some (s.cclk, e, w) })

/-- DELETE frees a bank's areas. -/
def State.deleteBank (s : State) (b : Nat) : State :=
  let s := forEach [5, 6, 7, 8, 9] (s.unallot (ownHot b)) (fun i s => s.setReg (kBank b i) 0)
  s.setBank b {}

/-! Writes to a bank (R227, R229, R243, R246). -/

/-- Write bytes at an offset of an area in both copies where the cell is hot. -/
def State.bankWrite (s : State) (b : Nat) (words : Bool) (o : Nat) (bs : Bytes) : State :=
  let s := { s with ext := s.ext.write 32 (s.reg (kBank b (if words then 7 else 6)) + o) (clean bs) }
  match s.hotRun b words o bs.length with
  | some a => { s with stack := s.stack.write 8 (a + o) (clean bs) }
  | none => s

/-- NORM of an entry. -/
def normOf (bs : Bytes) : Nat := bs.foldl (fun t b => t + (signed 8 b.toNat).natAbs ^ 2) 0

/-- The word of entry `n`, from the hot copy where its cell is hot (R229). -/
def State.entryWord (s : State) (b n : Nat) : Nat :=
  match s.hotRun b true (4 * n) 4 with
  | some a => leNat (s.stack.bytes (a + 4 * n) 4)
  | none => leNat (s.ext.bytes (s.reg (kBank b 7) + 4 * n) 4)

/-- A level without the poison of a word. -/
def Store.heal (m : Store) (w : Nat) : Store := { m with poison := dropKey m.poison w, bad := dropKey m.bad w }

/-- Every one of the `m` entries whose words share a memory word with that of entry `n` has been renewed. -/
def allRenewed (ks : List Nat) (m n : Nat) : Bool := (upTo m).all (fun i => hasKey ks (m * (n / m) + i))

/-- The word of entry `n` has been rewritten. A memory word of the table that is poisoned stays so until the words of all
entries in it have been rewritten since (R236, log 132). -/
def State.renew (s : State) (b n : Nat) : State :=
  let e := (s.reg (kBank b 7) + 4 * n) / 32
  let h := (s.hotRun b true (4 * n) 4).map (fun a => (a + 4 * n) / 8)
  let hot := match h with | some w => s.stack.dirty w | none => false
  if !s.ext.dirty e && !hot then
    if (s.bank b).renewed.isEmpty then s
    else s.setBank b { s.bank b with renewed := (s.bank b).renewed.filter (fun k => k / 8 != n / 8) }
  else
    let ks := addKey (s.bank b).renewed n
    let s := s.setBank b { s.bank b with renewed := ks }
    let s := if allRenewed ks 8 n then { s with ext := s.ext.heal e } else s
    match h with
    | some w => if allRenewed ks 2 n then { s with stack := s.stack.heal w } else s
    | none => s

/-- Write a word; the count of valid entries follows. -/
def State.putWord (s : State) (b n v : Nat) : State :=
  let was := bit (s.entryWord b n) 31
  let s := (s.bankWrite b true (4 * n) (leBytes 4 v)).renew b n
  s.setReg (kBank b 9) (s.reg (kBank b 9) + b2n (bit v 31) - b2n was)

/-- A record of enrolment or loading is dropped. -/
def State.dropEnrol (s : State) : State := s.count 0x2903 0x0E

/-- One enrolment record of 288 bytes (R243, R244). -/
def State.enrolRecord (s : State) (bs : Bytes) : State :=
  let b := leAt bs 0 1
  let op := leAt bs 1 1
  let n := leAt bs 4 4
  let tag := leAt bs 8 4
  let done := fun (s : State) (id : Nat) =>
    s.report { type := 4, what := op * 256 + b, data := tag * 2 ^ 32 + id }
  if 16 ≤ b || leAt bs 2 2 != 0 || (slice bs 12 20).any (· != 0#8) || !s.bankReady b then s.dropEnrol
  else if op = 1 then
    if s.cellCount b ≤ n then s.dropEnrol
    else
      let cs := s.cellSize b
      match (upTo cs).find? (fun i => !bit (s.entryWord b (n * cs + i)) 31) with
      | none => (s.addReg (kBank b 0x0B) 1).dropEnrol
      | some i =>
        let id := n * cs + i
        let e := slice bs 32 256
        let s := ((s.catchAll.serveRuns.bankWrite b false (256 * id) e).putWord b id (2 ^ 31 + normOf e)).addReg (kBank b 0x0A) 1
        done s id
  else if op = 2 then
    if s.entryCount b ≤ n then s.dropEnrol else done (s.catchAll.serveRuns.putWord b n 0) n
  else s.dropEnrol

/-- One cell of a bulk load: entries, then words with NORM computed. -/
def State.loadCell (s : State) (b cell : Nat) (bs : Bytes) : State :=
  let cs := s.cellSize b
  let s := s.bankWrite b false (256 * cs * cell) (slice bs 0 (256 * cs))
  forEach (upTo cs) s (fun i s =>
    let given := leAt bs (256 * cs + 4 * i) 4
    let norm := normOf (slice bs (256 * i) 256)
    let s := if bits given 22 0 = norm then s else s.addReg (kBank b 0x0E) 1
    s.putWord b (cell * cs + i) (if bit given 31 then 2 ^ 31 + norm else norm))

/-- Bytes of the cells of a load record. -/
def State.loadBytes (s : State) (bs : Bytes) : Nat := leAt bs 8 4 * 260 * s.cellSize (leAt bs 0 1 % 16)

/-- A load record (R246). -/
def State.loadRecord (s : State) (bs : Bytes) : State :=
  let b := leAt bs 0 1
  let first := leAt bs 4 4
  let n := leAt bs 8 4
  if 16 ≤ b || leAt bs 1 1 != 3 || leAt bs 2 2 != 0 || leAt bs 12 4 != 0 || !s.bankReady b || !s.bankFree b ||
      decide (s.cellCount b < first + n) || bs.length != 16 + s.loadBytes bs then s.dropEnrol
  else
    let cb := 260 * s.cellSize b
    forEach (upTo n) s.catchAll.serveRuns (fun i s => s.loadCell b (first + i) (slice bs (16 + i * cb) cb))

/-! The top-k unit (Table 8-2, R238 to R242). -/

/-- A command is dropped (R238). -/
def State.topkRefuses (s : State) (t : TopkCmd) : Bool :=
  bits (t.w 0) 31 20 != 0 || bits (t.w 0) 9 8 != 0 || bits (t.w 0) 7 0 != 1 || bits (t.w 1) 63 21 != 0 ||
  bits (t.w 2) 63 40 != 0 || bits (t.w 3) 63 40 != 0 || (!t.l2 && t.qnadr != 0) || !within t.csh 4 7 ||
  !within t.rows 1 1024 || decide (1024 < t.rbase + t.rows) || decide ((s.ctx t.ctx).accRows < t.rbase + t.rows) ||
  !s.tsInside t.ctx t.wadr (4 * t.rows) || !s.tsInside t.ctx t.iadr (4 * ((t.rows + 2 ^ t.csh - 1) / 2 ^ t.csh)) ||
  !s.tsInside t.ctx t.radr (t.listBytes + 8) || (t.l2 && !s.tsInside t.ctx t.qnadr (4 * t.q))

/-- A record reaches the unit of core `c`: none while its queue is full, when the record waits. -/
def State.topkArrive (s : State) (c k inc : Nat) (bs : Bytes) : Option State :=
  let u := s.topk c
  if 4 ≤ u.queue.length then none
  else
    let t : TopkCmd := { ctx := k, inc := inc, rec_ := bs, at_ := s.cclk }
    if s.topkRefuses t then some (s.count 0x2901 0x0F)
    else some ((s.setTopk c { u with queue := u.queue ++ [t] }).beginWork k)

end Sys2Proof.Machine
end

