-- ==== Sys2Proof/Machine/Signals.lean ====
section
/-! DEFINITION. Block completion and other external signals, named by the unit that raises them (05 R146). -/
namespace Sys2Proof.Machine

/-- A signal field of a unit: enable, job and semaphore bits as the unit's table places them. -/
def State.signalIf (s : State) (on : Bool) (j sem stamp : Nat) : State :=
  if on then s.externalSignal j sem stamp else s

end Sys2Proof.Machine
end

