-- ==== Sys2Proof/Machine/Valves.lean ====
section
/-! DEFINITION. Fire records, the frame of the valve bus, and groups that enter or stop (14). -/
namespace Sys2Proof.Machine

/-- A record of this kind reaches the router: an ORDER with a verdict, an ORDER without, or a DECIDE (Table 14-1). -/
inductive RecKind where
  | decided
  | undecided
  | decide
  deriving DecidableEq, Repr

/-- The kind of a record. -/
def FireRec.kind (r : FireRec) : RecKind :=
  if r.isDecide then .decide else if r.verd = 0 then .undecided else .decided

/-- A record of a kind, sent by a job on a core to port 00h (R372). A record of another kind is another command. -/
def State.fireRecord (s : State) (k : RecKind) (core job : Nat) (bs : Bytes) : State :=
  if (fireRec bs).kind = k then s.routeRec s.sclk core (s.jobDom job) (fireRec bs) else s

/-- A frame of the channel has shifted all its bits by now (R383). -/
def State.frameDone (s : State) (c : Nat) : Bool :=
  match (s.chan c).shift with
  | some f => !f.complete && decide (f.start + 10 * s.frameLen c ≤ s.sclk)
  | none => false

/-- A group leaves STOPPING (R389): its queue empties, its stop timer ends, its channel keeps it until the strobe. -/
def State.groupStops (s : State) (g : Nat) : State :=
  let c := s.groupCh g
  let s := if s.groupTgt g = 0 then s.setChan c { s.chan c with leaving := (s.chan c).leaving ++ [g] } else s
  ((s.setGroup g {}).setFn (fGroup g) .stopped).causes s.sclk

/-- The stop timer of a STOPPING group has run out (R389, R63). -/
def State.stopExpired (s : State) (g : Nat) : Bool :=
  s.fn (fGroup g) == .stopping && (match (s.group g).stopDue with | some m => decide (m < s.sclk) | none => false)

/-- The stop timer of a group expires: its positions are strobed off, and the group is stopped (R389 step 4). -/
def State.stopOverdue (s : State) (g : Nat) : State := (s.countIn (s.groupDom g) 0x2900 0x10).groupStops g

/-- A group enters STOPPING in cycle `now` (R389): entries not yet reached are discarded, the stop timer is loaded. -/
def State.groupStopping (s : State) (g : Nat) : State :=
  let u := s.group g
  let h := s.hposBy (s.groupDom g) s.passed
  let s := s.setGroup g { u with entries := u.entries.filter (fun e => reached h e.fpos),
                                 stopDue := some (s.sclk + micros (s.reg (kGroup g 6))) }
  (s.setFn (fGroup g) .stopping).causes s.sclk

/-- A STOPPING group has no valve open (R389). -/
def State.groupClosed (s : State) (g : Nat) : Bool := s.openBy g s.passed == 0

/-- A group enters RUNNING (R388): its queue is empty and its positions are 0. -/
def State.groupEnters (s : State) (g : Nat) : State :=
  ((s.setGroup g {}).setFn (fGroup g) .running).causes s.sclk

end Sys2Proof.Machine
end

