-- ==== Sys2Proof/Machine/FieldIo.lean ====
section
/-! DEFINITION. The field section and its link: inputs, veto, OUT_EN_N, outputs, field supply (15). -/
namespace Sys2Proof.Machine

/-- 2640h, subindex `sub`. -/
def kField (sub : Nat) : Nat := key 0x2640 sub

/-- The veto input as the signal box takes it (R396): the debounced level, or active while the link is lost and
LOSTV = 1. Each rise is counted. -/
def State.takeVeto (s : State) : State :=
  let v := s.field.veto || (s.field.lost && s.bit' (kField 0x13) 17)
  let s := if v && !s.field.vetoTaken then s.addReg (kField 0x1B) 1 else s
  let s := { s with field := { s.field with vetoTaken := v } }
  (s.setBit (kField 2) 2 v).markAll

/-- The debounce time of input `d`, the veto being 16, in SCLK (Table 15-6). -/
def State.debounce (s : State) (d : Nat) : Nat :=
  let w := s.reg (kField (3 + d))
  bits w 15 0 * (if bit w 16 then 500 else 5)

/-- A change of the debounced level of input `d` may be registered now (R393, R394): the input has shown the new level for the
debounce time since the level last changed. 40 SCLK after a write of DB that time counts from the write, whose first sample
begins it. -/
def State.mayChange (s : State) (d : Nat) : Bool :=
  match tfind s.field.bounce d with
  | none => true
  | some (last, start) =>
    decide (s.sclk < start + 40) || (decide (last + s.debounce d ≤ s.sclk) && decide (start + s.debounce d + 35 ≤ s.sclk))

/-- The debounced level of input `d` has changed (R393). -/
def State.noteChange (s : State) (d : Nat) : State :=
  let start := match tfind s.field.bounce d with | some x => x.2 | none => 0
  { s with field := { s.field with bounce := tput s.field.bounce d (s.sclk, start) } }

/-- A write of DB restarts the count of its input (R393, R395). -/
def State.restartCount (s : State) (d : Nat) : State :=
  if d = 16 ∨ d < 8 then
    let last := match tfind s.field.bounce d with | some x => x.1 | none => 0
    { s with field := { s.field with bounce := tput s.field.bounce d (last, s.sclk) } }
  else { s with field := { s.field with pulsed := terase s.field.pulsed d } }

/-- A debounced level of DI `d` takes a value: its edge event in this cycle (R391, R394). -/
def State.diLevel (s : State) (d : Nat) (on : Bool) : State :=
  if s.bit' (kField 1) d = on then s
  else (s.setBit (kField 1) d on).raise (if on then evRise d else evFall d)

/-- OUT_EN_N is registered high or low (R402): each rise is counted. -/
def State.outEn (s : State) (high : Bool) : State :=
  if s.field.outEnHigh = high then s
  else
    let s := { s with field := { s.field with outEnHigh := high } }
    let s := s.setBit (kField 2) 3 (!high)
    if high then s.addReg (kField 0x1A) 1 else s

/-- One sample of a pulsed input (R395): the debounced level changes after DB consecutive samples that show another. -/
def State.pulseOne (s : State) (d : Nat) (on : Bool) : State :=
  let n := tget (fun _ => 0) s.field.pulsed d
  let put := fun (s : State) (n : Nat) => { s with field := { s.field with pulsed := tset (fun _ => 0) s.field.pulsed d n } }
  if s.bit' (kField 1) d = on then put s 0
  else if bits (s.reg (kField (3 + d))) 15 0 ≤ n + 1 then (put s 0).diLevel d on
  else put s (n + 1)

/-- An output is on at its driver: latched on, enabled, supplied, and not switched off by an overload (R400, R401, R403, R405). -/
def State.driverOn (s : State) (d : Nat) : Bool :=
  bit s.field.latches d && !s.field.outPin && !s.field.under && !bit s.field.tripped d

/-- The levels at which the latches freeze: those at the end of the last frame received whole, 100 SCLK before the loss is
registered (R391, R403). -/
def FieldUnit.frozen (f : FieldUnit) (now : Nat) : Nat :=
  match f.before.find? (fun p => decide (now < p.1 + 100)) with
  | some p => p.2
  | none => f.latches

end Sys2Proof.Machine
end

