-- ==== Sys2Proof/Machine/Ports.lean ====
section
/-! DEFINITION. Sensor streams and their ports: which stream holds a port, the pairing of triggers with lines and
frames, fill lines, and the parts that go to the image front end (11 R304 to R322). -/
namespace Sys2Proof.Machine

/-- 2200h + p, subindex `sub`. -/
def kPort (p sub : Nat) : Nat := key (0x2200 + p) sub

/-- Ports of the gang that a configuration of stream `p` names: 1, 2 or 4 (Table 11-7). -/
def State.gangSize (s : State) (p : Nat) : Nat :=
  match s.field' (kPort p 1) 23 22 with
  | 1 => 2
  | 2 => 4
  | _ => 1

/-- The stream that holds port `p`, by its lowest port (R304): a gang whose stream is not OFF, or the port's own. -/
def State.streamOf (s : State) (p : Nat) : Nat :=
  let q4 := p / 4 * 4
  let q2 := p / 2 * 2
  if s.gangSize q4 = 4 ∧ s.fn (fStream q4) ≠ .off then q4
  else if s.gangSize q2 = 2 ∧ s.fn (fStream q2) ≠ .off then q2
  else p

/-- The ports of the stream with lowest port `q`. -/
def State.gangPorts (s : State) (q : Nat) : List Nat := (upTo (s.gangSize q)).map (q + ·)

/-- Line domain of a stream. -/
def State.streamDom (s : State) (q : Nat) : Nat := s.field' (kPort q 1) 25 24
/-- MODE = FRAME. -/
def State.frameMode (s : State) (q : Nat) : Bool := s.bit' (kPort q 1) 11
/-- STAMP = ARRIVAL. -/
def State.arrival (s : State) (q : Nat) : Bool := s.bit' (kPort q 1) 10
/-- Configured width of a part. -/
def State.partWidth (s : State) (q : Nat) : Nat := s.reg (kPort q 2)
/-- Pixel width W in bits. -/
def State.pixelBits (s : State) (q : Nat) : Nat := 8 + 2 * min 4 (s.field' (kPort q 1) 15 12)
/-- Data pairs L. -/
def State.lanes (s : State) (q : Nat) : Nat := 2 ^ min 2 (s.field' (kPort q 1) 19 18)

/-- Show the depth of a port's pairing queue in PEND. -/
def State.showPend (s : State) (p : Nat) : State := s.setField (kPort p 0x0C) 8 4 (s.port p).queue.length

/-- A line of width `w` filled with the fill value. -/
def State.fillPixels (s : State) (q : Nat) : List Nat :=
  List.replicate (s.partWidth q) (s.reg (kPort q 6) % 2 ^ s.pixelBits q)

/-- The counts of a part that is delivered (R314). -/
def State.countPart (s : State) (q : Nat) (x : LinePart) : State :=
  let s := if x.reason = 0 ∨ x.reason = 3 ∨ x.reason = 5 then s.addReg (kPort q 0x11) 1 else s
  if x.reason = 0 then s
  else (s.addReg (kPort q 0x12) 1).countIn (s.streamDom q) 0x2903 5 x.reason

/-- Deliver a part of port `p` to the image front end of stream `q`, with the counts of R314. -/
def State.deliver (s : State) (q p : Nat) (x : LinePart) : State :=
  (s.setPort p { s.port p with fifo := (s.port p).fifo ++ [{ x with frame := s.reg (kPort q 0x0E) - 1 }] }).countPart q x

/-- A fill line of a reason (R314); in FRAME mode an entry that leaves unpaired fills every row of its frame. -/
def State.fillLine (s : State) (q p v reason : Nat) : State :=
  let rows := if s.frameMode q then s.reg (kPort q 3) else 1
  forEach (upTo rows) s (fun r s =>
    s.deliver q p { stamp := v, row := r, reason := reason, tags := s.reg (kPort q 0x10), pixels := s.fillPixels q })

/-- Marked entries at the head of a queue leave at once as fill lines of reason 1 (R316). -/
def State.drainMarked : Nat → State → Nat → Nat → State
  | 0, s, _, _ => s
  | n + 1, s, q, p =>
    match (s.port p).queue with
    | e :: es =>
      if e.missed then
        State.drainMarked n ((s.setPort p { s.port p with queue := es }).fillLine q p e.pos 1) q p
      else s
    | [] => s

/-- A trigger's position enters the pairing queue of one port (R315, R316). -/
def State.enterPair (s : State) (q p v : Nat) (missed : Bool) : State :=
  let s :=
    match (s.port p).queue with
    | e :: es => if 16 ≤ es.length + 1 then (s.setPort p { s.port p with queue := es }).fillLine q p e.pos 2 else s
    | [] => s
  let s := s.setPort p { s.port p with queue := (s.port p).queue ++ [{ pos := v, at_ := s.sclk, missed := missed }] }
  (State.drainMarked 17 s q p).showPend p

/-- The stream's lines are indexed by position: LINE mode, TRIGGERED, generator without WGATE (R319). -/
def State.indexed (s : State) (q : Nat) : Bool :=
  !s.frameMode q && !s.arrival q && !s.bit' (key (0x2190 + q) 1) 9

/-- Index of the line at position `v` (R319). -/
def State.lineIndex (s : State) (q v : Nat) : Nat :=
  (v - s.reg (key (0x2190 + q) 3)) / max 1 (s.reg (key (0x2190 + q) 2))

/-- Block length BL. -/
def State.blockLen (s : State) (q : Nat) : Nat := max 1 (s.reg (kPort q 4))

/-- Lines of the first block whose positions precede the first trigger are written as fill lines of reason 6 (R322). -/
def State.fillBefore (s : State) (q v : Nat) : State :=
  if s.indexed q && !(s.port q).triggered then
    let n := s.lineIndex q v % s.blockLen q
    let pitch := s.reg (key (0x2190 + q) 2)
    let s := s.setPort q { s.port q with triggered := true }
    forEach (upTo n) s (fun i s =>
      forEach (s.gangPorts q) s (fun p s => s.fillLine q p (v - (n - i) * pitch) 6))
  else s

/-- A position passed by the generator of stream `q` (R49, R315, R316): every port of the gang queues it. -/
def State.portTrigger (s : State) (q v : Nat) (missed : Bool) : State :=
  if s.running (fStream q) && !s.arrival q then
    forEach (s.gangPorts q) (s.fillBefore q v) (fun p s => s.enterPair q p v missed)
  else s

/-- Entries whose window has run out leave as fill lines of reason 2 (R315, R63). -/
def State.expirePairs : Nat → State → Nat → Nat → State
  | 0, s, _, _ => s
  | n + 1, s, q, p =>
    match (s.port p).queue with
    | e :: es =>
      if e.at_ + s.reg (kPort q 8) < s.sclk then
        let s := (s.setPort p { s.port p with queue := es }).fillLine q p e.pos 2
        State.expirePairs n (State.drainMarked 17 s q p) q p
      else s
    | [] => s

/-- The stamp that a start registered now takes (R315, R317): none when it is untriggered. -/
def State.pairStart (s : State) (q p : Nat) : Option Nat × State :=
  if s.arrival q then (some (s.lpos (s.streamDom q)), s)
  else
    let s := State.expirePairs 17 s q p
    match (s.port p).queue with
    | e :: es =>
      if e.at_ + s.reg (kPort q 7) ≤ s.sclk then
        (some e.pos, (State.drainMarked 17 (s.setPort p { s.port p with queue := es }) q p).showPend p)
      else (none, s.showPend p)
    | [] => (none, s.showPend p)

/-- A start without an eligible entry is dropped whole and counted (R315). -/
def State.dropUntriggered (s : State) (q : Nat) : State := (s.addReg (kPort q 0x13) 1).countIn (s.streamDom q) 0x2903 6

/-! Tracked settings (R331, R332). -/

/-- The tag of a class at the present frame and line: the latest completed record whose index is reached. -/
def tagOf (ts : List Track) (old cls frame line : Nat) : Nat :=
  ts.foldl (fun t x => if x.cls = cls ∧ x.index ≤ (if x.lines then line else frame) then x.tag else t) old

/-- The tag vector at a line start of stream `q`. -/
def State.formTags (s : State) (q : Nat) : State :=
  let u := s.port q
  let old := s.reg (kPort q 0x10)
  let f := s.reg (kPort q 0x0E) - 1
  let l := s.reg (kPort q 0x0F) - 1
  let v := (upTo 4).foldl (fun v c => v + tagOf u.tracks (bits old (16 * c + 15) (16 * c)) c f l * 2 ^ (16 * c)) 0
  s.setReg (kPort q 0x10) v

/-! Bits to pixels (R308). -/

/-- The bit stream of a line: pair i of edge e is bit L e + i. -/
def lineBits (l : Nat) (edges : List (BitVec 4)) : List Bool :=
  edges.flatMap (fun e => (upTo l).map (fun i => e.getLsbD i))

/-- The bits of one pixel as a number; `msb` takes the first bit as the most significant. -/
def pixelOf (msb : Bool) (bs : List Bool) : Nat :=
  if msb then bs.foldl (fun v b => 2 * v + b2n b) 0 else bs.foldr (fun b v => b2n b + 2 * v) 0

/-- Whole pixels of `w` bits. -/
def pixelsOf (w : Nat) (msb : Bool) : Nat → List Bool → List Nat
  | 0, _ => []
  | n + 1, bs => pixelOf msb (bs.take w) :: pixelsOf w msb n (bs.drop w)

/-- The pixels that a line delivers: floor(L E / W). -/
def State.received (s : State) (q : Nat) (edges : List (BitVec 4)) : List Nat :=
  let bs := lineBits (s.lanes q) edges
  pixelsOf (s.pixelBits q) (s.bit' (kPort q 1) 6) (bs.length / s.pixelBits q) bs

/-- The first `n` pixels, then the fill value up to the configured width. -/
def State.padLine (s : State) (q n : Nat) (px : List Nat) : List Nat :=
  (px.take n ++ s.fillPixels q).take (s.partWidth q)

end Sys2Proof.Machine
end

