-- ==== Sys2Proof/Machine/LineTime.lean ====
section
/-! DEFINITION. Encoders, line domains, triggers, compare channels, windows and timers: what a count brings about, and
when (02). -/
namespace Sys2Proof.Machine

/-! Compare channels (R54 to R56, R510). -/

/-- 2120h + n, subindex `sub`. -/
def kCmp (n sub : Nat) : Nat := key (0x2120 + n) sub
/-- Line domain of a compare channel. -/
def State.cmpDom (s : State) (n : Nat) : Nat := s.field' (kCmp n 1) 1 0
/-- ARMED. -/
def State.cmpArmed (s : State) (n : Nat) : Bool := s.bit' (kCmp n 5) 0

/-- The registers of a compare channel at a match (R54, R55): count, LPOS, LATE, the increment, or disarming. -/
def State.matchRegs (s : State) (n : Nat) (late : Bool) : State :=
  let inc := s.reg (kCmp n 3)
  let s := (s.setReg (kCmp n 7) (s.lpos (s.cmpDom n))).addReg (kCmp n 6) 1
  let s := (s.setBit (kCmp n 5) 1 late).setBit (kCmp n 5) 0 (inc != 0)
  if inc = 0 then s else s.setReg (kCmp n 2) (posAdd (s.reg (kCmp n 2)) inc)

/-- What a match of channel `n` makes known beside its event (R54, R56): a late match is counted, then an EVQ record and a
signal. -/
def State.matchTell (s : State) (n : Nat) : State :=
  let cfg := s.reg (kCmp n 1)
  let d := s.cmpDom n
  let s := if bit cfg 3 then s.report { type := 2, what := evMatch n, lpos := some (d, s.lpos d) } else s
  if bit cfg 4 then s.externalSignal (bits cfg 10 5) (bits cfg 16 11) (s.lpos d) else s

/-- Channel `n` is armed with a value that HPOS reached by the end of cycle `c - 1`, and has not matched in cycle `c`. -/
def State.cmpDue (s : State) (n c : Nat) : Bool :=
  s.cmpArmed n && (s.cmp n).matchAt != some c && reached (s.hposAt (s.cmpDom n) (c - 1)) (s.reg (kCmp n 2))

/-- The match of channel `n` in cycle `c`, if its value is reached (R54 to R56). A periodic channel whose next value is
reached too, as after an ARM that came late, matches again in the next cycle (R55). -/
def State.judgeCmp (s : State) (n c : Nat) (late : Bool) : State :=
  if s.cmpDue n c then
    let s := ((s.matchRegs n late).setCmp n { matchAt := some c }).raiseAt (evMatch n) c late
    if late && s.cmpArmed n && reached (s.hposAt (s.cmpDom n) (c - 1)) (s.reg (kCmp n 2)) then
      s.closes (c + 1) 0 (.cmpJudge n true)
    else s
  else s

/-- ARM, or a value written to an armed channel, takes effect as cycle `c` opens: a value already reached matches late in
this cycle (R56). -/
def State.armCmp (s : State) (n c : Nat) : State :=
  let s := s.setBit (kCmp n 5) 0 true
  if reached (s.hpos (s.cmpDom n)) (s.reg (kCmp n 2)) then s.closes c 0 (.cmpJudge n true) else s

/-- DISARM. -/
def State.disarmCmp (s : State) (n : Nat) : State := s.setBit (kCmp n 5) 0 false

/-- ARST for a compare channel (R510): values already passed raise nothing. -/
def State.arstCmp (s : State) (n : Nat) : State :=
  let v := s.reg (kCmp n 2)
  let inc := s.reg (kCmp n 3)
  let h := s.hpos (s.cmpDom n)
  if reached h v then
    if inc = 0 then s.disarmCmp n
    else (s.setReg (kCmp n 2) (posAdd v (inc * ((posDiff h v).toNat / inc + 1) : Nat))).setBit (kCmp n 5) 0 true
  else s.setBit (kCmp n 5) 0 true

/-- ARST for a window in cycle `c` (R510). What becomes of an empty window the rule does not say: it is closed and counted
as ARM does (DESIGN CHOICE, log 119). -/
def State.arstWin (s : State) (w c : Nat) : State :=
  let st := s.reg (key (0x2140 + w) 2)
  let en := s.reg (key (0x2140 + w) 3)
  let pitch := s.reg (key (0x2140 + w) 4)
  let h := s.hpos (s.winDom w)
  let arm := fun (s : State) (a b : Nat) =>
    let s := ((s.setReg (key (0x2140 + w) 2) a).setReg (key (0x2140 + w) 3) b).setWin w
      { start := a, fin := b, armedAt := some c }
    if reached h a then s.openWin w false else s.setWinState w 1 false
  if posDiff en st ≤ 0 then
    ((s.setWin w { start := st, fin := en, armedAt := some c }).setWinState w 3 false).emptyWin w c
  else if reached h en then
    if pitch = 0 then
      (s.setWin w { start := st, fin := en, armedAt := some c, closedAt := some c }).setWinState w 3 false
    else
      let k : Nat := pitch * ((posDiff h en).toNat / pitch + 1)
      arm s (posAdd st k) (posAdd en k)
  else arm s st en

/-! Entering RUNNING (R42, R44 to R46, R510). -/

/-- A line domain enters RUNNING in cycle `c`. -/
def State.domainEnters (s : State) (d c : Nat) : State :=
  let k := key (0x2108 + d)
  let pload := s.bit' (k 1) 7
  let s := s.setFn (fDomain d) .running
  let s :=
    if pload then
      let s := ((s.setReg (k 2) (s.reg (k 3))).setReg (k 0x0B) (s.reg (k 3))).setReg (k 5) 0
      let s := s.setBit (k 0x0A) 2 false
      let s := forEach (upTo 32) s (fun n s => if s.cmpDom n = d then s.disarmCmp n else s)
      forEach (upTo 64) s (fun w s => if s.winDom w = d then s.disarmWin w else s)
    else s.setReg (k 0x0B) (s.reg (k 2))
  let s := s.setDomain d { stallDue := some (c + micros (s.reg (k 9))), genStart := c }
  let s := ((s.setReg (k 7) 0xFFFFFFFF).setReg (k 8) 0).setReg (k 0x0A) (s.reg (k 0x0A) &&& 6)
  let s := forEach (upTo 32) s (fun n s => if s.cmpDom n = d && s.bit' (kCmp n 1) 2 then s.arstCmp n else s)
  forEach (upTo 64) s (fun w s => if s.winDom w = d && s.bit' (key (0x2140 + w) 1) 2 then s.arstWin w c else s)

/-! Triggers (R47 to R51). -/

/-- 2190h + p, subindex `sub`. -/
def kTrig (p sub : Nat) : Nat := key (0x2190 + p) sub

/-- The generator's condition holds at position `v` (R47, R51); the condition is registered in cycle `c`. -/
def State.trigCond (s : State) (p v c : Nat) : Bool :=
  let cfg := s.reg (kTrig p 1)
  let pitch := s.reg (kTrig p 2)
  let ph := s.reg (kTrig p 3)
  bit cfg 0 && s.running (fStream p) && decide (0 < pitch) && decide ((v + pitch - ph % pitch) % pitch = 0)
  && (!bit cfg 9 || s.inside (bits cfg 15 10) v c)

/-- A trigger condition registered in cycle `c`: the trigger waits out its delay, or is counted as an overrun and
passed on as missed (R48). -/
def State.conditionTrig (s : State) (p v c : Nat) : State :=
  let u := s.trig p
  let begin_ := c + 1 + s.reg (kTrig p 5)
  let full := 4 ≤ (u.waiting.filter (fun t => !t.missed)).length
  let overlong := match u.lastBegin with
    | some b => decide (begin_ < b + s.reg (kTrig p 4))
    | none => false
  if full || overlong then
    (s.setTrig p { u with waiting := u.waiting ++ [{ pos := v, due := begin_, missed := true }] }).count 0x2900 4 p
      (some (s.streamDom p, s.lpos (s.streamDom p)))
  else
    s.setTrig p { u with waiting := u.waiting ++ [{ pos := v, due := begin_, missed := false }], lastBegin := some begin_ }

/-! What reaching a position brings about in the next cycle (R42, Table 2-1). -/

/-- ec timers of domain `d` count an advance of HPOS in cycle `c` (R65). -/
def State.countTimers (s : State) (d c : Nat) : State :=
  forEach (upTo 16) s (fun t s =>
    let cfg := s.timerCfg t
    let u := s.timer t
    if bit cfg 29 && bits cfg 28 27 == d && u.running && u.zeroAt.isNone && decide (u.loadedAt < c) then
      s.setTimer t { u with left := u.left - 1, zeroAt := if u.left ≤ 1 then some c else none }
    else s)

/-- Every window of domain `d` takes its transitions in cycle `c`. -/
def State.moveWins (s : State) (d h c : Nat) : State :=
  forEach (upTo 64) s (fun w s => if s.winDom w = d then s.moveWin w h c else s)

/-- VALUES_REACHED: in the cycle `c` after a count every scheduled value that HPOS has reached by that count is registered
as reached. -/
def State.valuesReached (s : State) (d c : Nat) : State :=
  let h := s.hposAt d (c - 1)
  let s := (s.countTimers d c).moveWins d h c
  let s := forEach (upTo 36) s (fun p s =>
    if s.streamDom p = d && s.trigCond p h c then s.conditionTrig p h c else s)
  let s := forEach (upTo 32) s (fun n s => if s.cmpDom n = d then s.judgeCmp n c false else s)
  s.groupsReached d c

/-! Events with reports of their own (R53, R54, R66). -/

/-- What the expiry of timer `t` makes known beside its event (R66). -/
def State.timerTell (s : State) (t : Nat) : State :=
  let d := bits (s.timerCfg t) 28 27
  let s := s.count 0x2900 7 t (some (d, s.lpos d))
  if bit (s.timerCfg t) 26 then s.report { type := 2, what := evTimer t, lpos := some (d, s.lpos d) } else s

/-- The event of source `src` of the present cycle: its consumers, then its reports. -/
def State.deliverEvent (s : State) (src : Nat) (late : Bool) : State :=
  let s := s.event src s.sclk
  if within src 0x040 0x05F then
    let n := src - 0x040
    let s := if late then s.count 0x2900 5 0 (some (s.cmpDom n, s.lpos (s.cmpDom n))) else s
    s.matchTell n
  else if within src 0x0E0 0x0EF then s.timerTell (src - 0x0E0)
  else s

/-! Counts (R33, R41 to R46). -/

/-- Mean of the last 2^AVG intervals, rounded down (R46). -/
def meanOf (xs : List Nat) : Nat := xs.foldl (· + ·) 0 / max 1 xs.length

/-- The stall time of a RUNNING domain has run out (R46, R509, R63). -/
def State.stallDue (s : State) (d : Nat) : Bool :=
  s.running (fDomain d) && (match (s.domain d).stallDue with | some m => decide (m < s.sclk) | none => false)

/-- A stall is registered (R46): STALL set, no speed reported, the stall event. -/
def State.stalls (s : State) (d : Nat) : State :=
  let k := key (0x2108 + d)
  let s := s.setDomain d { s.domain d with stallDue := none }
  (((s.setBit (k 0x0A) 0 true).setReg (k 7) 0xFFFFFFFF).setReg (k 8) 0).raise (evStall d)

/-- The domain's speed after an applied count in cycle `c` (R46): the mean of the intervals since the measurement
restarted, which a count that clears STALL does. A mean above FFFFFFFFh is shown as FFFFFFFFh, and so is a rate
(DESIGN CHOICE, log 120). -/
def State.speedOf (s : State) (d c : Nat) : State :=
  let k := key (0x2108 + d)
  let u := s.domain d
  let stalled := s.bit' (k 0x0A) 0
  let n := 2 ^ min 8 (s.field' (k 1) 11 8)
  let ints := if stalled then [] else
    match u.lastAt with
    | some l => ((16 * (c - l)) :: u.intervals).take n
    | none => []
  let per := if ints.isEmpty then 0xFFFFFFFF else min 0xFFFFFFFF (meanOf ints)
  let rate := if ints.isEmpty then 0 else min 0xFFFFFFFF (8000000000 / max 1 per)
  let s := s.setDomain d { u with intervals := ints, lastAt := some c, stallDue := some (c + micros (s.reg (k 9))) }
  ((s.setReg (k 7) per).setReg (k 8) rate).setBit (k 0x0A) 0 false

/-- A count applied in cycle `c` finds a stall time that ran out before it expired (R63), and is measured. -/
def State.measure (s : State) (d c : Nat) : State := (if s.stallDue d then s.stalls d else s).speedOf d c

/-- HPOS and LPOS advance by one count in cycle `c`; WRAP at the wrap to 0 (R45). -/
def State.advance (s : State) (d c : Nat) (hold : Bool) : State × Bool :=
  let k := key (0x2108 + d)
  let l := posAdd (s.reg (k 2)) 1
  let h := s.reg (k 0x0B)
  let s := s.setReg (k 2) l
  let s := if l = 0 then s.setBit (k 0x0A) 3 true else s
  if hold || !reached h l then
    let u := s.domain d
    ((s.setDomain d { u with advances := ((c, h) :: u.advances).take 4 }).setReg (k 0x0B) l, true)
  else (s, false)

/-- A reverse count is added to the reversal count of each open window of the domain (R59). -/
def State.countReversals (s : State) (d : Nat) : State :=
  forEach (upTo 64) s (fun w s => if s.winDom w = d && s.winState w == 2 then s.addReg (key (0x2140 + w) 0x0A) 1 else s)

/-- The domain applies counts in cycle `c`: RUNNING, STOPPING for at most 2 SCLK, or FAULTED by a fault registered in that
same cycle (R43). -/
def State.appliesCounts (s : State) (d c : Nat) : Bool :=
  s.running (fDomain d) ||
  (s.fn (fDomain d) == .stopping && (match (s.domain d).stopAt with | some m => decide (c ≤ m + 2) | none => true)) ||
  (s.fn (fDomain d) == .faulted && (s.domain d).faultAt == some c)

/-- A registered count is applied to a domain (R41, R42); the answer says whether HPOS advanced. -/
def State.applyCount (s : State) (d c : Nat) (rev : Bool) : State × Bool :=
  let k := key (0x2108 + d)
  let track := s.bit' (k 1) 6
  let s := (s.measure d c).setBit (k 0x0A) 1 rev
  if rev then
    let s := (s.closes c 0 (.tally (k 6))).countReversals d
    if track then (s.setReg (k 2) (posAdd (s.reg (k 2)) (-1)), false)
    else
      let s := if s.reg (k 5) = 0xFFFFFFFF then s.count 0x2900 3 0 (some (d, s.lpos d)) else s.addReg (k 5) 1
      (s.setBit (k 0x0A) 2 true, false)
  else if !track && decide (0 < s.reg (k 5)) then
    let s := s.setReg (k 5) (s.reg (k 5) - 1)
    (s.setBit (k 0x0A) 2 (decide (0 < s.reg (k 5))), false)
  else s.advance d c (!track)

/-- Domains whose source is `src` and that apply counts. -/
def State.fedBy (s : State) (src c : Nat) : List Nat :=
  (upTo 4).filter (fun d => s.field' (key (0x2108 + d) 1) 2 0 == src && s.appliesCounts d c)

/-- A count is applied to every domain of its source, with its event; what the advances reach is registered in the next
cycle (Table 2-1). -/
def State.countDomains (s : State) (src c : Nat) (rev : Bool) (ev : Option Nat) : State :=
  let s := forEach (s.fedBy src c) s (fun d s =>
    let y := s.applyCount d c rev
    if y.2 then y.1.closes (c + 1) (1 + d) (.reach d) else y.1)
  match ev with | some e => s.raiseAt e c | none => s

/-! Encoders (R33 to R38). -/

/-- 2100h + e, subindex `sub`. -/
def kEnc (e sub : Nat) : Nat := key (0x2100 + e) sub

/-- The configuration in force: a write takes effect in the cycle after it is registered (R38). -/
def State.encCfg (s : State) (e : Nat) : Nat :=
  match (s.enc e).cfgAt with
  | some c => if s.sclk ≤ c then (s.enc e).oldCfg else s.reg (kEnc e 1)
  | none => s.reg (kEnc e 1)

/-- What the decoder makes of new filtered levels (R33, R35). -/
inductive Decoded where
  | nothing
  | illegal
  | count (reverse : Bool)
  deriving DecidableEq, Repr

/-- The decoder (R33): `a0 b0` are the filtered levels before, `a b` the new ones. -/
def decodeAB (cfg : Nat) (a0 b0 a b : Bool) : Decoded :=
  let mode := bits cfg 2 0
  let dinv := bit cfg 8
  if mode = 4 then
    if !a0 && a then .count (b ^^ dinv) else .nothing
  else if mode = 1 ∨ mode = 2 ∨ mode = 3 then
    if a0 != a && b0 != b then .illegal
    else if a0 == a && b0 == b then .nothing
    else
      let rev := (if a0 != a then a == b else a != b) ^^ dinv
      if mode = 3 then .count rev
      else if a0 == a then .nothing
      else if mode = 2 then .count rev
      else if a != rev then .count rev else .nothing
  else .nothing

/-- The filtered levels of A and B take new values; the cycle in which each changed is kept (R34). -/
def State.setLevels (s : State) (e : Nat) (a b : Bool) : State :=
  let u := s.enc e
  let u := { u with aAt := if s.bit' (kEnc e 6) 0 = a then u.aAt else some s.sclk,
                    bAt := if s.bit' (kEnc e 6) 1 = b then u.bAt else some s.sclk }
  ((s.setEnc e u).setBit (kEnc e 6) 0 a).setBit (kEnc e 6) 1 b

/-- The count period of encoder `e` at a count in cycle `c` (R33), and overspeed. 16 times a period of exactly 2^28 SCLK
does not fit its 32 bits: it is shown as FFFFFFFFh (DESIGN CHOICE, log 120). Until two counts are registered it keeps its reset value. -/
def State.countPeriod (s : State) (e c : Nat) : State :=
  match (s.enc e).lastCount with
  | none => s
  | some l =>
    let s := s.setReg (kEnc e 5) (min 0xFFFFFFFF (16 * (c - l)))
    if c - l < 25 then (s.setBit (kEnc e 6) 6 true).count 0x2900 0x12 e else s

/-- A registered count of encoder `e` (R33): raw count and DIR. -/
def State.rawCount (s : State) (e : Nat) (rev : Bool) : State :=
  (s.setReg (kEnc e 2) (s.reg (kEnc e 2) + (if rev then 0xFFFFFFFF else 1))).setBit (kEnc e 6) 3 rev

/-- Cycle `c` becomes that of the encoder's last count. -/
def State.markCount (s : State) (e c : Nat) : State := s.setEnc e { s.enc e with lastCount := some c }

/-- A registered count of encoder `e` (R33): raw count, DIR, count period, overspeed, the domains. -/
def State.encoderCounts (s : State) (e : Nat) (rev : Bool) : State :=
  (((s.rawCount e rev).countPeriod e s.sclk).markCount e s.sclk).countDomains e s.sclk rev (some (evCount e))

/-- The Z period in force (R38). -/
def State.zPeriod (s : State) (e : Nat) : Nat :=
  match (s.enc e).cfgAt with
  | some c => if s.sclk ≤ c then (s.enc e).oldPer else s.reg (kEnc e 7)
  | none => s.reg (kEnc e 7)

/-- Raw count at the Z edge to compare one of this cycle against: none after a write has taken effect (R36). -/
def State.zBefore (s : State) (e : Nat) : Option Nat :=
  match (s.enc e).prevZ, (s.enc e).cfgAt with
  | some (z, at_), some c => if s.sclk ≤ c ∨ c < at_ then some z else none
  | some (z, _), none => some z
  | none, _ => none

/-- The counts between two Z edges differ from the counts per revolution (R36). -/
def State.zBad (s : State) (e : Nat) : Bool :=
  match s.zBefore e with
  | some z => decide (0 < s.zPeriod e) && decide ((signed 32 (s.reg (kEnc e 2) + 2 ^ 32 - z)).natAbs ≠ s.zPeriod e)
  | none => false

/-- A registered Z edge takes the raw count and is counted (R36). -/
def State.takeZ (s : State) (e : Nat) : State :=
  ((s.setReg (kEnc e 3) (s.reg (kEnc e 2))).incReg (kEnc e 4)).setEnc e
    { s.enc e with prevZ := some (s.reg (kEnc e 2), s.sclk) }

/-- A registered Z edge (R36). -/
def State.zRegistered (s : State) (e : Nat) : State :=
  (if s.zBad e then ((s.takeZ e).setBit (kEnc e 6) 5 true).count 0x2900 2 else s.takeZ e).raise (evZ e)

/-! Glitch filters (R34). -/

/-- FILT in force. -/
def State.filtOf (s : State) (e : Nat) : Nat := bits (s.encCfg e) 13 9

/-- A filtered level that last changed in cycle `at_` may change now: the new level has been held for FILT + 1 samples. -/
def State.settled (s : State) (e : Nat) (at_ : Option Nat) : Bool :=
  match at_ with
  | some c => decide (c + s.filtOf e < s.sclk)
  | none => true

/-- Levels `a b` may stand on A and B of encoder `e` in this cycle: each channel that would change is settled. -/
def State.filterPasses (s : State) (e : Nat) (a b : Bool) : Bool :=
  (s.bit' (kEnc e 6) 0 == a || s.settled e (s.enc e).aAt) && (s.bit' (kEnc e 6) 1 == b || s.settled e (s.enc e).bAt)

/-- A RUNNING domain fed by encoder `e` becomes FAULTED (R43). -/
def State.faultDomain (s : State) (e d : Nat) : State :=
  if s.field' (key (0x2108 + d) 1) 2 0 = e ∧ s.running (fDomain d) then
    (s.setDomain d { s.domain d with faultAt := some s.sclk }).enterFaulted (fDomain d)
  else s

/-- An encoder reports an input fault (15 R398, 02 R43). -/
def State.inputFault (s : State) (e : Nat) : State :=
  let k := key 0x2640 0x18
  forEach (upTo 4) (((s.setBit k e true).setBit k (8 + e) true).count 0x2900 8) (fun d s => s.faultDomain e d)

/-- The cycle in which the generator produces its next count: its accumulator, started at entry into RUNNING, crosses
the next multiple of the period (R40). -/
def State.genDue (s : State) (d : Nat) : Nat :=
  let u := s.domain d
  u.genStart + ((u.genCounts + 1) * s.reg (key (0x2108 + d) 4) + 65535) / 65536

/-- A timer has run out by now (R63). -/
def State.timerExpired (s : State) (t : Nat) : Bool :=
  s.timerOn t && ((match (s.timer t).owed with | some m => decide (m < s.sclk) | none => false) ||
    ((s.timer t).running && !s.timerLive t s.sclk))

/-- The expiry of a timer is registered (R66): the run that has run out ends, with its event. An earlier run comes first,
and leaves the present one. -/
def State.expireTimer (s : State) (t : Nat) : State :=
  let u := s.timer t
  (s.setTimer t (if u.owed.isSome then { u with owed := none } else {})).raise (evTimer t)

/-- Slack of a published deadline `dl` in domain `d` (R68). -/
def State.slackOf (s : State) (d dl : Nat) : Nat :=
  let k := key (0x2108 + d)
  if s.bit' (k 0x0A) 0 then 0xFFFFFFFF
  else if reached (s.hpos d) dl then 0
  else min 0xFFFFFFFF ((dl + 2 ^ 48 - s.hpos d) % 2 ^ 48 * s.reg (k 7) / 16)

/-- Slack is refreshed every 64 SCLK (R68). -/
def State.slackDue (s : State) : Bool := match s.slackAt with | some c => decide (c + 64 ≤ s.sclk) | none => true

/-- The slack of every job (R68). -/
def State.refreshSlack (s : State) : State :=
  forEach (upTo 64) { s with slackAt := some s.sclk } (fun j s =>
    let k := key (0x2510 + j)
    if s.bit' (k 8) 31 then
      match s.jobDom j with
      | some d => s.setReg (k 6) (s.slackOf d (s.reg (k 7)))
      | none => s
    else s.setReg (k 6) 0xFFFFFFFF)

end Sys2Proof.Machine
end

