-- ==== Sys2Proof/Machine/Batch.lean ====
section
/-! DEFINITION. Continuous batching: batch records, joins, leaves and steps (09 R277 to R280). -/
namespace Sys2Proof.Machine

/-- A sequence slot of job `j`. -/
def State.seq (s : State) (j n : Nat) : Seq := tget (fun _ => {}) (s.job j).seqs n
/-- Replace it. -/
def State.setSeq (s : State) (j n : Nat) (x : Seq) : State :=
  s.setJob j { s.job j with seqs := tset (fun _ => {}) (s.job j).seqs n x }
/-- LIVE or JOINED. -/
def Seq.live (q : Seq) : Bool := q.state == 1 || q.state == 2

/-- A batch record of job `j` is dropped (R278 to R280). -/
def State.dropBatch (s : State) (j : Nat) : State := (s.addReg (kJob j 0x18) 1).count 0x2901 0x10

/-- A join enters the queue of its target (R279). -/
def State.joinRecord (s : State) (j : Nat) (bs : Bytes) : State :=
  let w := leAt bs 0 8
  let t := bits w 39 34
  let u := s.job t
  if bits w 47 40 ≠ 0 ∨ bits w 33 8 ≠ 0 ∨ s.running (fJob t) = false ∨ s.jobDom t ≠ s.jobDom j then s.dropBatch j
  else if 64 ≤ u.joins.length then (s.addReg (kJob t 0x15) 1).setJob t { u with dropped := u.dropped + 1 }
  else
    let v := leAt bs 8 8
    s.setJob t { u with joins := u.joins ++ [{ pos := bits v 47 0, claimKey := bits v 63 48, payload := slice bs 16 16 }] }

/-- A leave is recorded against its slot (R279). -/
def State.leaveRecord (s : State) (j : Nat) (bs : Bytes) : State :=
  let w := leAt bs 0 8
  let n := bits w 47 40
  let q := s.seq j n
  if bits w 39 8 ≠ 0 ∨ leAt bs 12 4 ≠ 0 ∨ (bs.drop 16).any (· != 0#8) ∨ q.live = false ∨ q.num ≠ leAt bs 8 4 then
    s.dropBatch j
  else s.setSeq j n { q with leave := true }

/-! STEP (R280). -/

/-- Step 1: slots with a recorded leave are freed; those freed a step ago are FREE, those joined are LIVE. -/
def State.freeSeqs (s : State) (j : Nat) : State :=
  forEach (upTo 256) s (fun n s =>
    let q := s.seq j n
    if q.leave && q.live then s.setSeq j n { q with state := 3, leave := false }
    else if q.state = 3 then s.setSeq j n {}
    else if q.state = 2 then s.setSeq j n { q with state := 1 }
    else s)

/-- Order of joins: position, key, arrival. -/
def joinBefore (a b : Join) : Bool :=
  decide (posDiff a.pos b.pos < 0) || (a.pos == b.pos && decide (a.claimKey < b.claimKey))

/-- Insert a join behind those that are not after it. -/
def joinInsert (a : Join) : List Join → List Join
  | [] => [a]
  | b :: bs => if joinBefore a b then a :: b :: bs else b :: joinInsert a bs

/-- The lowest slot that a join may take. -/
def State.freeSeq (s : State) (j : Nat) : Option Nat := (upTo 256).find? (fun n => !(s.seq j n).live)

/-- Steps 2 to 5 for one eligible join: placed, or pending and late. -/
def State.placeJoin (s : State) (j : Nat) (a : Join) : State :=
  let late := a.late || (match (s.job j).lastStep with | some p => reached p a.pos | none => false)
  match s.freeSeq j with
  | some n =>
    let num := s.reg (kJob j 0x11)
    let s := s.setSeq j n { state := 2, late := late, num := num, pos := a.pos, claimKey := a.claimKey, payload := a.payload }
    let s := (s.setReg (kJob j 0x11) (num + 1)).addReg (kJob j 0x13) 1
    if late then s.addReg (kJob j 0x14) 1 else s
  | none => s.setJob j { s.job j with joins := (s.job j).joins ++ [{ a with late := true }] }

/-- The step table (Table 9-8). -/
def State.stepTable (s : State) (j pos joined left late : Nat) : Bytes :=
  let u := s.job j
  leBytes 4 (s.reg (kJob j 0x12)) ++ leBytes 2 (s.reg (kJob j 0x10)) ++ leBytes 2 joined ++ leBytes 2 left ++
  leBytes 2 u.joins.length ++ leBytes 2 late ++ leBytes 2 0 ++ leBytes 8 pos ++ leBytes 4 u.dropped ++
  List.replicate 36 0#8 ++
  (upTo 256).flatMap (fun n =>
    let q := s.seq j n
    leBytes 1 q.state ++ leBytes 1 (b2n q.late) ++ leBytes 2 0 ++ leBytes 4 q.num ++
    leBytes 8 (q.pos + q.claimKey * 2 ^ 48) ++ slice q.payload 0 16)

/-- A step of the context `k` is applied (R280): it is registered in this cycle, with the joins and leaves of the cycle before
it. Its table is written in 33 cycles, the first of them 9 cycles later. -/
def State.stepRecord (s : State) (k inc : Nat) (bs : Bytes) : State :=
  let j := ctxJob k
  let w := leAt bs 0 8
  let pos := leAt bs 8 8
  let adr := leAt bs 16 8
  let u := s.job j
  let stale := match u.lastStep with | some p => !decide (0 < posDiff pos p) | none => false
  if bits w 47 20 ≠ 0 ∨ bits w 12 8 ≠ 0 ∨ bits pos 63 48 ≠ 0 ∨ bits adr 63 20 ≠ 0 ∨ adr % 64 ≠ 0 ∨
      (bit w 13 = false ∧ bits w 19 14 ≠ 0) ∨ leAt bs 24 8 ≠ 0 ∨ stale = true ∨ s.tsInside k adr 8256 = false then s.dropBatch j
  else
    let left := ((upTo 256).filter (fun n => (s.seq j n).leave && (s.seq j n).live)).length
    let s := s.freeSeqs j
    let due := (s.job j).joins.filter (fun a => reached pos a.pos)
    let s := s.setJob j { s.job j with joins := (s.job j).joins.filter (fun a => !reached pos a.pos) }
    let before := s.reg (kJob j 0x11)
    let s := forEach (due.foldl (fun l a => joinInsert a l) []) s (fun a s => s.placeJoin j a)
    let fresh := (upTo 256).filter (fun n => (s.seq j n).state == 2)
    let late := (fresh.filter (fun n => (s.seq j n).late)).length
    let s := (s.setReg (kJob j 0x10) ((upTo 256).filter (fun n => (s.seq j n).live)).length).incReg (kJob j 0x12)
    let s := s.addReg (kJob j 0x16) left
    let table : TableWrite := { core := (s.ctx k).core, ctx := k, inc := inc, addr := adr, due := s.cclk + 9
                                data := s.stepTable j pos (s.reg (kJob j 0x11) - before) left late }
    let s := { s with tables := s.tables ++ [table] }
    let s := s.setJob j { s.job j with lastStep := some pos, dropped := 0 }
    if bit w 13 then s.opensC (s.cclk + 42) 0 (.tableDone k inc (bits w 19 14)) else s

/-- A context's step tables have been written, and its semaphore is signalled; while one is still being written the signal waits
(R280). -/
def State.tableSignal (s : State) (k inc sem : Nat) : State :=
  let s := s.catchUp
  if s.tables.any (fun w => w.ctx == k && w.inc == inc) then s.opensC (s.cclk + 1) 0 (.tableDone k inc sem)
  else if s.isCtx k inc then s.signalOwn k inc sem s.cclk
  else s

/-- A batch record of context `k`. A STEP is applied as the cycle closes, behind every join and leave of the cycle (R279). -/
def State.batchRecord (s : State) (k inc : Nat) (bs : Bytes) : State :=
  match leAt bs 0 1 with
  | 1 => s.closesC s.cclk 8 (.step k inc bs)
  | 2 => s.leaveRecord (ctxJob k) bs
  | 3 => s.joinRecord (ctxJob k) bs
  | _ => s.dropBatch (ctxJob k)

/-- A batch record with command `cmd` of the context in a slot. -/
def State.batchFrom (s : State) (core slot cmd : Nat) (bs : Bytes) : State :=
  match s.slotCtx core slot with
  | some (k, x) => if leAt bs 0 1 = cmd ∨ 3 < leAt bs 0 1 ∨ leAt bs 0 1 = 0 then s.batchRecord k x.inc bs else s
  | none => s

end Sys2Proof.Machine
end

