-- ==== Sys2Proof/Machine/Ife.lean ====
section
/-! DEFINITION. The image front end: the chain of stages, the line write, statistics, blocks and their signals, and the
copy of the flat-field table (11 R318 to R325, 12 R333 to R350). -/
namespace Sys2Proof.Machine

/-- 2300h + q, subindex `sub`. -/
def kIfe (q sub : Nat) : Nat := key (0x2300 + q) sub
/-- Front end of the stream with lowest port `q`. -/
def State.ife (s : State) (q : Nat) : IfeUnit := tget (fun _ => {}) s.ifes q
/-- Replace it. -/
def State.setIfe (s : State) (q : Nat) (x : IfeUnit) : State := { s with ifes := tset (fun _ => {}) s.ifes q x }

/-! Configuration (Tables 12-8, 12-9). -/

/-- PAT. -/
def State.pat (s : State) (q : Nat) : Nat := s.field' (kIfe q 1) 31 28
/-- NROW. -/
def State.nrow (s : State) (q : Nat) : Nat := s.field' (kIfe q 1) 23 22 + 1
/-- SPLIT. -/
def State.split (s : State) (q : Nat) : Bool := s.bit' (kIfe q 1) 21
/-- RAW. It bears on patterns; the parts of MULTI stay channels (log 41). -/
def State.raw (s : State) (q : Nat) : Bool := s.bit' (kIfe q 1) 20
/-- FFC. -/
def State.ffc (s : State) (q : Nat) : Nat := s.field' (kIfe q 1) 18 17
/-- OFMT. -/
def State.ofmt (s : State) (q : Nat) : Nat := s.field' (kIfe q 2) 3 2
/-- Element size in bytes. -/
def State.elem (s : State) (q : Nat) : Nat := if s.ofmt q = 0 then 1 else 2
/-- GDIST. -/
def State.gdist (s : State) (q : Nat) : Nat := s.field' (kPort q 1) 21 20
/-- Pattern period P. -/
def period (pat : Nat) : Nat := match pat with | 0 => 1 | 1 => 2 | 2 => 2 | 3 => 2 | 4 => 4 | _ => 1

/-- Number of parts of a line: ports of a gang, or segments. -/
def State.partCount (s : State) (q : Nat) : Nat := if s.split q then s.nrow q else s.gangSize q
/-- Part width Wp. -/
def State.wp (s : State) (q : Nat) : Nat := if s.split q then s.partWidth q / s.nrow q else s.partWidth q
/-- The parts are rows of a sensor: LINES or SPLIT. -/
def State.byRows (s : State) (q : Nat) : Bool := s.split q || (decide (1 < s.gangSize q) && s.gdist q == 2)
/-- Assembled width Wa, and output width Wo. -/
def State.wo (s : State) (q : Nat) : Nat := if s.byRows q then s.wp q else s.gangSize q * s.partWidth q

/-- Colour of a cell by channel number (Table 12-3): the place of its colour in the channel order. -/
def cellChannel (pat y x : Nat) : Nat :=
  match pat, y, x with
  | 1, 0, 0 => 0 | 1, 1, 1 => 2 | 1, _, _ => 1
  | 2, 0, 0 => 0 | 2, 1, 1 => 2 | 2, _, _ => 1
  | 3, 0, 0 => 0 | 3, 0, _ => 1 | 3, _, 0 => 3 | 3, _, _ => 2
  | 4, 0, 0 => 2 | 4, 0, 2 => 0 | 4, 2, 0 => 0 | 4, 2, 2 => 2
  | 4, 1, 1 => 3 | 4, 1, 3 => 3 | 4, 3, 1 => 3 | 4, 3, 3 => 3
  | 4, _, _ => 1
  | _, _, _ => 0

/-- Colours of a pattern. -/
def patColours (pat nrow : Nat) : Nat :=
  match pat with | 0 => 1 | 1 => 3 | 2 => 3 | 3 => 4 | 4 => 4 | _ => nrow

/-- Output channels C. -/
def State.channels (s : State) (q : Nat) : Nat :=
  if s.pat q = 5 then s.nrow q else if s.raw q then 1 else patColours (s.pat q) 1

/-- LP (Table 12-4). -/
def State.pitchOf (s : State) (q : Nat) : Nat :=
  if s.bit' (kIfe q 2) 1 then s.channels q * roundUp (s.wo q * s.elem q) 128
  else roundUp (s.wo q * s.channels q * s.elem q) 128

/-- Row delay D_k. -/
def State.rowDelay (s : State) (q k : Nat) : Nat := s.field' (kIfe q 4) (8 * k + 5) (8 * k)

/-- Bytes of the flat-field table that FFC needs. -/
def State.ffcBytes (s : State) (q : Nat) : Nat :=
  match s.ffc q with
  | 1 => max (s.nrow q) (s.partCount q) * s.wp q * 4
  | 2 => s.reg (kPort q 3) * s.wo q * 4
  | _ => 0

/-- Sizes of the areas of an allotment, in order: data ring, header ring, delay store, flat-field table, statistics. -/
def State.areaSizes (s : State) (q : Nat) : List Nat :=
  let nl := s.reg (kIfe q 3)
  let dl := (upTo (s.nrow q)).foldl (fun t k => t + s.rowDelay q k) 0 * s.wp q * 2
  [nl * s.pitchOf q, (nl + 2) * 32, dl, s.ffcBytes q, if s.bit' (kIfe q 2) 0 then 64 * 1152 else 0].map (fun n => roundUp n 4096)

/-- Base of area `i` of an allotment at `base`. -/
def State.areaBase (s : State) (q base i : Nat) : Nat := ((s.areaSizes q).take i).foldl (· + ·) base

/-- The base of a stream's allotment. -/
def State.ifeBase (s : State) (q : Nat) : Nat := match s.allotOf (ownStream q) with | some a => a.base | none => 0

/-! Stages 1 to 4 (R334 to R338). -/

/-- Knot `i` of a table. -/
def knot (tab : Bytes) (i : Nat) : Nat := leAt tab (2 * i) 2

/-- T(u) (R334). -/
def mapKnots (tab : Array Byte) (u : Nat) : Nat :=
  let kn := fun (i : Nat) => (tab.getD (2 * i) 0).toNat + 256 * (tab.getD (2 * i + 1) 0).toNat
  let sg := u / 64
  let d : Int := (kn (sg + 1) : Int) - kn sg
  ((kn sg : Int) + (d * ((u % 64 : Nat) : Int) + 32) / 64).toNat % 65536

/-- Phase of a pixel (R336). -/
def State.phase (s : State) (q k y x : Nat) : Nat :=
  let p := s.pat q
  if p = 5 then k
  else if p = 0 then 0
  else ((y + s.field' (kIfe q 1) 27 26) % period p) * period p + (x + s.field' (kIfe q 1) 25 24) % period p

/-- Column of the assembled line of pixel `x` of part `k`. -/
def State.column (s : State) (q k x : Nat) : Nat :=
  if s.byRows q then x else if s.gdist q = 1 then s.gangSize q * x + k else k * s.partWidth q + x

/-- Byte offset in the flat-field table. -/
def State.ffcAt (s : State) (q k y x : Nat) : Nat :=
  if s.ffc q = 2 then 4 * (y * s.wo q + s.column q k x) else 4 * (k * s.wp q + x)

/-- Stages 1 to 3 of one pixel: its value, and whether the table word was poisoned. -/
def State.linear (s : State) (q : Nat) (lin : Array Byte) (blk : Bytes) (tb k y x code : Nat) : Nat × Bool :=
  let u := code * 2 ^ (16 - s.pixelBits q) % 65536
  let l := if s.bit' (kIfe q 1) 15 then mapKnots lin u else u
  let b0 : Int := (l : Int) - leAt blk (2 * s.phase q k y (s.column q k x)) 2
  if s.ffc q = 0 then (limit 0 65535 b0 |>.toNat, false)
  else
    let a := tb + s.ffcAt q k y x
    let e := leNat (s.stack.bytes a 4)
    let c := ((b0 - sbits e 15 0) * ((bits e 31 16 : Nat) : Int) + 8192) / 16384
    (limit 0 65535 c |>.toNat, s.stack.tainted 8 a 4)

/-- The defect list: (Y, X) of every entry. -/
def defects (bs : Bytes) : List (Nat × Nat) :=
  (upTo (bs.length / 4)).map (fun i => (leAt bs (4 * i + 2) 2, leAt bs (4 * i) 2))

/-- Nearest neighbour on one side that is not listed, among `xs`, the columns to try. -/
def neighbour (px : Array (Nat × Bool)) (listed : List Nat) (xs : List (Option Nat)) : Option (Nat × Bool) :=
  xs.findSome? (fun x? => match x? with
    | some x => if x < px.size ∧ !listed.contains x then some (px.getD x (0, false)) else none
    | none => none)

/-- Stage 4 over one line: pixels, and whether a listed pixel found no neighbour. -/
def replaceDefects (h : Nat) (listed : List Nat) (px : List (Nat × Bool)) : List (Nat × Bool) × Nat :=
  let a := px.toArray
  let fix := fun (x : Nat) (v : Nat × Bool) =>
    if listed.contains x then
      let lo := neighbour a listed ([1, 2, 3, 4].map (fun j => if j * h ≤ x then some (x - j * h) else none))
      let hi := neighbour a listed ([1, 2, 3, 4].map (fun j => some (x + j * h)))
      match lo, hi with
      | some l, some r => ((((l.1 + r.1 + 1) / 2), l.2 || r.2), 0)
      | some l, none => (l, 0)
      | none, some r => (r, 0)
      | none, none => (v, 1)
    else (v, 0)
  let r := px.zipIdx.map (fun p => fix p.2 p.1)
  (r.map Prod.fst, (r.map Prod.snd).foldl (· + ·) 0)

/-- The pixels of a gang line by part. -/
def State.partsOf (s : State) (q : Nat) (xs : List LinePart) : List (List Nat) :=
  if s.split q then
    match xs with
    | x :: _ => (upTo (s.nrow q)).map (fun k => (x.pixels.drop (k * s.wp q)).take (s.wp q))
    | [] => []
  else xs.map (fun x => x.pixels)

/-- Stages 1 to 4 of a gang line: the line as it goes on, and the defects left as they were. In FRAME mode the defect list
names pixels of the assembled line, in LINE mode pixels of a part. -/
def State.correct (s : State) (q : Nat) (xs : List LinePart) : IfeLine × Nat :=
  let head := xs.headD { stamp := 0, row := 0, reason := 0, tags := 0, pixels := [] }
  let lin := (s.dom (kIfe q 6)).toArray
  let blk := s.dom (kIfe q 5)
  let tb := s.areaBase q (s.ifeBase q) 3
  let top := 2 ^ s.pixelBits q - 1
  let ps := s.partsOf q xs
  let vals := ps.zipIdx.map (fun p => p.1.zipIdx.map (fun c => s.linear q lin blk tb p.2 head.row c.2 c.1))
  let dl := defects (s.dom (kIfe q 9))
  let on := s.bit' (kIfe q 1) 16
  let h := period (s.pat q)
  let fixed :=
    if !on then vals.map (fun v => (v, 0))
    else if s.frameMode q then
      let wa := s.wo q
      let flat := (vals.zipIdx.flatMap (fun p => p.1.zipIdx.map (fun c => (s.column q p.2 c.2, c.1))))
      let arr := flat.foldl (fun (a : Array (Nat × Bool)) c => a.setIfInBounds c.1 c.2) (Array.replicate wa (0, false))
      let r := replaceDefects h ((dl.filter (fun d => d.1 == head.row)).map Prod.snd) arr.toList
      let ra := r.1.toArray
      vals.zipIdx.map (fun p => (p.1.zipIdx.map (fun c => ra.getD (s.column q p.2 c.2) (0, false)),
                                 if p.2 = 0 then r.2 else 0))
    else vals.zipIdx.map (fun p => replaceDefects h ((dl.filter (fun d => d.1 == p.2)).map Prod.snd) p.1)
  ({ parts := fixed.map Prod.fst,
     reasons := if s.split q then List.replicate (s.nrow q) head.reason else xs.map (fun x => x.reason),
     clips := ps.map (fun p => p.any (· == top)),
     defects := fixed.map (fun f => decide (0 < f.2)),
     stamp := head.stamp, row := head.row, tags := head.tags, frame := head.frame },
   fixed.foldl (fun t f => t + f.2) 0)

/-! Stage 5 (R348). -/

/-- Add one at place `i`. -/
def bump (xs : List Nat) (i n : Nat) : List Nat := xs.zipIdx.map (fun p => if p.2 = i then p.1 + n else p.1)

/-- Statistics of a line join those of its block: values after stage 4 and the raw codes. -/
def State.measureLine (s : State) (q : Nat) (r : StatRec) (l : IfeLine) (raw : List (List Nat)) : StatRec :=
  let top := 2 ^ s.pixelBits q - 1
  let pat := s.pat q
  let chan := fun (k x : Nat) =>
    if pat = 5 then k
    else cellChannel pat ((l.row + s.field' (kIfe q 1) 27 26) % period pat)
      ((s.column q k x + s.field' (kIfe q 1) 25 24) % period pat)
  let all := l.parts.zipIdx.flatMap (fun p =>
    (p.1.zip (raw.getD p.2 [])).zipIdx.map (fun c => (chan p.2 c.2, c.1.1.1, decide (c.1.2 = top))))
  all.foldl (fun r e =>
    { clip := if e.2.2 then bump r.clip e.1 1 else r.clip, px := bump r.px e.1 1,
      hist := tset (fun _ => 0) r.hist (64 * e.1 + e.2.1 / 1024) (tget (fun _ => 0) r.hist (64 * e.1 + e.2.1 / 1024) + 1) }) r

/-! Blocks (R319). -/

/-- Blocks of one frame. -/
def State.frameBlocks (s : State) (q : Nat) : Nat := (s.reg (kPort q 3) + s.blockLen q - 1) / s.blockLen q

/-- Block number of a line: `n` counts lines, `f` frames, since the stream entered RUNNING. -/
def State.blockOf (s : State) (q n f : Nat) (l : IfeLine) : Nat :=
  if s.frameMode q then f * s.frameBlocks q + l.row / s.blockLen q
  else if s.indexed q then s.lineIndex q l.stamp / s.blockLen q
  else n / s.blockLen q

/-- The line is the last of its block. -/
def State.lastOfBlock (s : State) (q n : Nat) (l : IfeLine) : Bool :=
  let bl := s.blockLen q
  if s.frameMode q then l.row % bl == bl - 1 || l.row + 1 == s.reg (kPort q 3)
  else if s.indexed q then s.lineIndex q l.stamp % bl == bl - 1
  else n % bl == bl - 1

/-- Lines of a block up to and with line `l`. -/
def State.blockLines (s : State) (q : Nat) (l : IfeLine) : Nat :=
  if s.frameMode q then l.row % s.blockLen q + 1 else s.blockLen q

/-! Stages 6 to 9. -/

/-- Stage 6 (R339): parts delayed by whole lines; a part that has not come yet is a fill part of reason 6. -/
def State.align (s : State) (q : Nat) (l : IfeLine) (older : List IfeLine) : IfeLine :=
  if s.frameMode q || s.nrow q == 1 then l
  else
    let fill := (s.correct q ((upTo (s.gangSize q)).map (fun _ =>
      { stamp := l.stamp, row := 0, reason := 6, tags := 0, pixels := s.fillPixels q }))).1
    let src := fun (k : Nat) =>
      let d := s.rowDelay q k
      if d = 0 then (l, none) else match older[d - 1]? with | some o => (o, none) | none => (fill, some 6)
    let ks := upTo l.parts.length
    { l with
      parts := ks.map (fun k => (src k).1.parts.getD k [])
      reasons := ks.map (fun k => ((src k).2).getD ((src k).1.reasons.getD k 0))
      clips := ks.map (fun k => (src k).1.clips.getD k false)
      defects := ks.map (fun k => (src k).1.defects.getD k false) }

/-- The assembled line of one row. -/
def State.assemble (s : State) (q : Nat) (l : IfeLine) : Array (Nat × Bool) :=
  (l.parts.zipIdx.flatMap (fun p => p.1.zipIdx.map (fun c => (s.column q p.2 c.2, c.1)))).foldl
    (fun (a : Array (Nat × Bool)) c => a.setIfInBounds c.1 c.2) (Array.replicate (s.wo q) (0, false))

/-- Pixels of colour `c` in the window of radius `r`, inside the frame: squared distance and value; none when one lies in
a row that has not come. -/
def State.window (s : State) (q h : Nat) (rows : Array (Array (Nat × Bool))) (c y x r : Nat) :
    Option (List (Nat × (Nat × Bool))) :=
  let pat := s.pat q
  let per := period pat
  let py := s.field' (kIfe q 1) 27 26
  let px := s.field' (kIfe q 1) 25 24
  let cand := (upTo (2 * r + 1)).flatMap (fun i => (upTo (2 * r + 1)).filterMap (fun j =>
    if r ≤ y + i ∧ r ≤ x + j ∧ y + i - r < h ∧ x + j - r < s.wo q ∧
        cellChannel pat ((y + i - r + py) % per) ((x + j - r + px) % per) = c then
      some (y + i - r, x + j - r, (i - r) * (i - r) + (r - i) * (r - i) + (j - r) * (j - r) + (r - j) * (r - j))
    else none))
  if cand.all (fun e => decide (e.1 < rows.size)) then
    some (cand.map (fun e => (e.2.2, (rows.getD e.1 #[]).getD e.2.1 (0, false))))
  else none

/-- Channel `c` at a pixel (R341). -/
def State.channelAt (s : State) (q h : Nat) (rows : Array (Array (Nat × Bool))) (c y x : Nat) : Option (Nat × Bool) :=
  let per := period (s.pat q)
  let own := cellChannel (s.pat q) ((y + s.field' (kIfe q 1) 27 26) % per) ((x + s.field' (kIfe q 1) 25 24) % per)
  if own = c then some ((rows.getD y #[]).getD x (0, false))
  else
    let r := if per = 4 then 2 else 1
    let mean := fun (w : List (Nat × (Nat × Bool))) =>
      let m := w.foldl (fun m e => min m e.1) (w.headD (0, (0, false))).1
      let near := w.filter (fun e => e.1 == m)
      let sum := near.foldl (fun t e => t + e.2.1) 0
      ((2 * sum + near.length) / (2 * near.length), near.any (fun e => e.2.2))
    match s.window q h rows c y x r with
    | none => none
    | some (e :: es) => some (mean (e :: es))
    | some [] =>
      match s.window q h rows c y x (2 * r) with
      | none => none
      | some [] => some (0, false)
      | some es => some (mean es)

/-- Stage 8 (R342). -/
def State.irSub (s : State) (q : Nat) (vs : List (Nat × Bool)) : List (Nat × Bool) :=
  if s.bit' (kIfe q 1) 19 && s.pat q == 4 && !s.raw q then
    let ir := vs.getD 3 (0, false)
    vs.zipIdx.map (fun p =>
      if p.2 < 3 then
        (p.1.1 - (s.field' (kIfe q 0x0A) (8 * p.2 + 7) (8 * p.2) * ir.1 + 128) / 256, p.1.2 || ir.2)
      else p.1)
  else vs

/-- The channels of every pixel of a row that can be output; none when a row it needs has not come. -/
def State.reconstruct (s : State) (q : Nat) (l : IfeLine) (rows : List IfeLine) : Option (List (List (Nat × Bool))) :=
  if s.pat q = 5 then
    some ((upTo (s.wo q)).map (fun x => l.parts.map (fun p => p.getD x (0, false))))
  else if s.pat q = 0 ∨ s.raw q then some ((s.assemble q l).toList.map (fun v => [v]))
  else
    let h := s.reg (kPort q 3)
    let r := if s.pat q = 4 then 2 else 1
    let grid := (rows.map (s.assemble q)).toArray
    if grid.size < min h (l.row + r + 1) then none
    else (upTo (s.wo q)).mapM (fun x =>
      ((upTo (s.channels q)).mapM (fun c => s.channelAt q h grid c l.row x)).map (s.irSub q))

/-- Stage 9 (R343): the bytes of one value. -/
def State.toOutput (s : State) (q : Nat) (tab : Array Byte) (v : Nat × Bool) : List Marked :=
  (match s.ofmt q with
   | 0 => [BitVec.ofNat 8 (min ((mapKnots tab v.1 + 128) / 256) 255)]
   | 1 => leBytes 2 v.1
   | _ => leBytes 2 (bf16.encode (ofUnits v.1 (-16) false))).map (fun b => (b, v.2))

/-- The line as it is written: LP bytes, what lies beyond the pixels 0 (log 42). -/
def State.lineBytes (s : State) (q : Nat) (px : List (List (Nat × Bool))) : List Marked :=
  let tab := (s.dom (kIfe q 7)).toArray
  let pad := fun (xs : List Marked) (m : Nat) => xs ++ List.replicate (roundUp xs.length m - xs.length) (0#8, false)
  if s.bit' (kIfe q 2) 1 then
    (upTo (s.channels q)).flatMap (fun c => pad (px.flatMap (fun p => s.toOutput q tab (p.getD c (0, false)))) 128)
  else pad (px.flatMap (fun p => p.flatMap (s.toOutput q tab))) 128

/-! The line write (R345). -/

/-- The header of Table 12-5. -/
def headerBytes (n : Nat) (frameMode : Bool) (l : IfeLine) (poison : Bool) : Bytes :=
  leBytes 4 n ++ leBytes 2 (l.reasons.zipIdx.foldl (fun v p => v + p.1 * 2 ^ (4 * p.2)) 0) ++
  leBytes 2 (if frameMode then l.row else 0) ++ leBytes 8 l.stamp ++ leBytes 8 l.tags ++
  leBytes 4 (if frameMode then l.frame else 0) ++
  leBytes 2 (b2n poison + 2 * b2n (l.clips.any id) + 4 * b2n (l.defects.any id)) ++ leBytes 2 0

/-- The statistics record of a block (Table 12-6). -/
def statBytes (block lines stamp : Nat) (r : StatRec) : Bytes :=
  leBytes 4 block ++ leBytes 4 lines ++ leBytes 8 stamp ++ r.clip.flatMap (leBytes 4) ++ r.px.flatMap (leBytes 4) ++
  List.replicate 80 0#8 ++ (upTo 256).flatMap (fun i => leBytes 4 (tget (fun _ => 0) r.hist i))

/-- Write line `n` of a stream into its ring, with its header. -/
def State.writeLine (s : State) (q n : Nat) (l : IfeLine) (px : List (List (Nat × Bool))) : State :=
  let base := s.ifeBase q
  let slot := n % max 1 (s.reg (kIfe q 3))
  let hb := s.areaBase q base 1
  let data := s.lineBytes q px
  let bad := data.any (fun b => b.2)
  let m := if n = 0 then
      s.stack.write 8 hb (clean (leBytes 8 l.stamp ++ leBytes 8 (if s.indexed q then s.lineIndex q l.stamp else 0) ++
        List.replicate 48 0#8))
    else s.stack
  let m := m.write 8 (base + slot * s.pitchOf q) data
  let m := m.write 8 (hb + 64 + 32 * slot) (clean (headerBytes n (s.frameMode q) l bad))
  let s := ({ s with stack := m }).setReg (kIfe q 0x10) n
  if l.clips.any id then s.addReg (kIfe q 0x14) 1 else s

/-! Block signals (R320, R321). -/

/-- Streams of the block group of stream `q`. -/
def State.groupMembers (s : State) (q : Nat) : List Nat :=
  let w := s.reg (kPort q 5)
  (upTo (gPorts s.grade)).filter (fun m =>
    let v := s.reg (kPort m 5)
    bit v 13 && bit v 12 && bits v 11 0 == bits w 11 0 && s.streamOf m == m && !s.idle (fStream m)
      || m == q)

/-- The lowest member counts an abandoned block, unless it has counted it as broken off by its own stop. -/
def State.abandon (s : State) (lowest b : Nat) : State :=
  if (s.ife lowest).broken = some b then s
  else (s.addReg (kPort lowest 0x16) 1).countIn (s.streamDom lowest) 0x2903 7

/-- Stream `q` completes block `b` with stamp `v`. -/
def State.blockComplete (s : State) (q b v : Nat) : State :=
  let w := s.reg (kPort q 5)
  if bit w 12 = false then s
  else if bit w 13 = false then
    (s.addReg (kPort q 0x15) 1).externalSignal (bits w 11 6) (bits w 5 0) v
  else
    let s := s.setIfe q { s.ife q with finished := addKey (s.ife q).finished b }
    let ms := s.groupMembers q
    let lacking := (ms.flatMap (fun m => (s.ife m).finished)).filter (fun a =>
      decide (a < b) && !(s.ife q).finished.contains a)
    let gone := lacking.foldl addKey []
    let s := forEach gone s (fun a s => s.abandon (ms.headD q) a)
    let s := forEach ms s (fun m s =>
      s.setIfe m { s.ife m with finished := (s.ife m).finished.filter (fun a => !gone.contains a) })
    if ms.all (fun m => (s.ife m).finished.contains b) then
      let s := forEach ms s (fun m s =>
        (s.setIfe m { s.ife m with finished := dropKey (s.ife m).finished b }).addReg (kPort m 0x15) 1)
      s.externalSignal (bits w 11 6) (bits w 5 0) v
    else s

/-! The command. -/

/-- Take one line of every port of the gang into the chain, if each has one: stages 1 to 6. -/
def State.enterChain (s : State) (q : Nat) : Option State :=
  let ps := s.gangPorts q
  let xs := ps.filterMap (fun p => (s.port p).fifo.head?)
  if xs.length = ps.length then
    let s := forEach ps s (fun p s => s.setPort p { s.port p with fifo := (s.port p).fifo.drop 1 })
    let u := s.ife q
    let r := s.correct q xs
    let l := r.1
    let f := if l.row = 0 ∧ s.frameMode q then u.frames + 1 else u.frames
    let b := s.blockOf q u.entered (f - 1) l
    let stats := if s.bit' (kIfe q 2) 0 then
        tput u.stats b (s.measureLine q (tget (fun _ => {}) u.stats b) l (s.partsOf q xs)) else u.stats
    let out := s.align q l u.hist
    let badTable := l.parts.any (fun p => p.any (fun v => v.2))
    let s := s.setIfe q { u with entered := u.entered + 1, frames := f, stats := stats,
                                 hist := if s.frameMode q then [] else (l :: u.hist).take 63, rows := u.rows ++ [out] }
    let s := if 0 < r.2 then (s.addReg (kIfe q 0x13) r.2).setBit (kIfe q 0x11) 2 true else s
    let s := if badTable then
        let tb := s.areaBase q (s.ifeBase q) 3
        let s := if s.ffc q = 2 then s.noticeBad 3 8 (tb + 4 * l.row * s.wo q) (4 * s.wo q) else s.noticeBad 3 8 tb (s.ffcBytes q)
        ((s.addReg (kIfe q 0x12) 1).setBit (kIfe q 0x11) 1 true).countIn (s.streamDom q) 0x2903 0x0A
      else s
    some s
  else none

/-- Line `n` leaves the chain: written, and with a block's last line its statistics and its completion. -/
def State.leaveChain (s : State) (q : Nat) (l : IfeLine) (px : List (List (Nat × Bool))) : State :=
  let u := s.ife q
  let n := u.written
  let s := s.writeLine q n l px
  let b := s.blockOf q n (u.frames - 1) l
  let lastRow := !s.frameMode q || l.row + 1 == s.reg (kPort q 3)
  let wholeFrame := s.frameMode q && s.pat q != 0 && !s.raw q
  let s := s.setIfe q { s.ife q with
    written := n + 1, rows := if wholeFrame then (if lastRow then [] else (s.ife q).rows) else (s.ife q).rows.drop 1 }
  if s.lastOfBlock q n l then
    let s := if s.bit' (kIfe q 2) 0 then
        let at_ := s.areaBase q (s.ifeBase q) 4 + b % 64 * 1152
        let rec_ := statBytes b (s.blockLines q l) l.stamp (tget (fun _ => {}) u.stats b)
        let s := { s with stack := s.stack.write 8 at_ (clean rec_) }
        s.setIfe q { s.ife q with stats := terase (s.ife q).stats b }
      else s
    s.blockComplete q b l.stamp
  else s

/-- The next line that leaves the chain: the first whose row has not been written. -/
def State.nextOut (s : State) (q : Nat) : Option IfeLine :=
  let u := s.ife q
  if s.frameMode q && s.pat q != 0 && !s.raw q then
    u.rows[u.written % max 1 (s.reg (kPort q 3))]?
  else u.rows.head?

/-- Enter lines until one can leave. -/
def State.chain (q : Nat) : Nat → State → Option State
  | 0, _ => none
  | n + 1, s =>
    match (match s.nextOut q with
      | some l => (s.reconstruct q l (s.ife q).rows).map (fun px => s.leaveChain q l px)
      | none => none) with
    | some t => some t
    | none => (s.enterChain q).bind (State.chain q n)

/-! Start and stop. -/

/-- The front end starts with its stream (R345, R348, R349): 0Bh to 0Fh show the areas. -/
def State.ifeEnters (s : State) (q : Nat) : State :=
  let base := s.ifeBase q
  let s := s.setIfe q {}
  let s := ((s.setReg (kIfe q 0x0B) base).setReg (kIfe q 0x0C) (s.pitchOf q)).setReg (kIfe q 0x0D) (s.areaBase q base 1)
  let s := s.setReg (kIfe q 0x0E) (if s.bit' (kIfe q 2) 0 then s.areaBase q base 4 else 0)
  (s.setReg (kIfe q 0x0F) (match s.allotOf (ownStream q) with | some a => a.size / 1024 | none => 0)).setReg
    (kIfe q 0x10) 0xFFFFFFFF

/-- The flat-field table is copied into its area (R349). -/
def State.copyTable (s : State) (q : Nat) : State :=
  let tb := s.areaBase q (s.ifeBase q) 3
  ({ s with stack := s.stack.write 8 tb (clean ((s.dom (kIfe q 8)).take (s.ffcBytes q))) }).setBit (kIfe q 0x11) 0 true

/-- What a stream that leaves RUNNING or STOPPING releases (R28, R212). -/
def State.ifeLeaves (s : State) (q : Nat) : State :=
  let s := forEach [0x0B, 0x0D, 0x0E, 0x0F] (s.unallot (ownStream q)) (fun i s => s.setReg (kIfe q i) 0)
  s.setBit (kIfe q 0x11) 0 false

/-- The block that a stop leaves incomplete is counted (R322). -/
def State.breakBlock (s : State) (q : Nat) : State :=
  let u := s.ife q
  let open_ : Bool :=
    if s.frameMode q then false
    else if s.indexed q then decide (0 < u.written) && !(match u.hist with | l :: _ => s.lastOfBlock q (u.written - 1) l | [] => true)
    else decide (u.written % s.blockLen q ≠ 0)
  if open_ then
    let b := match u.hist with | l :: _ => s.blockOf q (u.written - 1) 0 l | [] => 0
    ((s.setIfe q { s.ife q with broken := some b }).addReg (kPort q 0x16) 1).countIn (s.streamDom q) 0x2903 7
  else s

end Sys2Proof.Machine
end

