-- ==== Sys2Proof/Machine/Intake.lean ====
section
/-! DEFINITION. Sample intake: submissions, checks, decoding and budgets, augmentation, records, their commit and their
release, regions of interest (13 R353 to R371). -/
namespace Sys2Proof.Machine

/-- 2A00h + i, subindex `sub`. -/
def kIn (i sub : Nat) : Nat := key (0x2A00 + i) sub
/-- Intake stream `i`. -/
def State.intake (s : State) (i : Nat) : IntakeUnit := tget (fun _ => {}) s.intakes i
/-- Replace it. -/
def State.setIntake (s : State) (i : Nat) (x : IntakeUnit) : State :=
  { s with intakes := tset (fun _ => {}) s.intakes i x }

/-! Configuration (Tables 13-5, 13-6). -/

/-- Line domain. -/
def State.inDom (s : State) (i : Nat) : Nat := s.field' (kIn i 1) 25 24
/-- CHAN. -/
def State.inChan (s : State) (i : Nat) : Nat := s.field' (kIn i 1) 9 8 + 1
/-- ROI. -/
def State.inRoi (s : State) (i : Nat) : Bool := s.bit' (kIn i 1) 18
/-- AUG. -/
def State.inAug (s : State) (i : Nat) : Bool := s.bit' (kIn i 1) 17
/-- CROP, part of augmentation. -/
def State.inCrop (s : State) (i : Nat) : Bool := s.inAug i && s.bit' (kIn i 1) 16
/-- V. -/
def State.variants (s : State) (i : Nat) : Nat := if s.inAug i then s.field' (kIn i 0x0C) 23 20 + 1 else 1
/-- CW. -/
def State.cropW (s : State) (i : Nat) : Nat := s.field' (kIn i 0x0D) 15 0
/-- CH. -/
def State.cropH (s : State) (i : Nat) : Nat := s.field' (kIn i 0x0D) 31 16
/-- OFMT. -/
def State.inFmt (s : State) (i : Nat) : Nat := s.field' (kIn i 1) 23 22
/-- e of Table 13-4. -/
def State.inElem (s : State) (i : Nat) : Nat := if s.inFmt i = 0 then 1 else 2

/-- The slot size (2A00h+i.13). -/
def State.slotSize (s : State) (i : Nat) : Nat :=
  let n := if s.inRoi i then s.cropW i * s.cropH i * s.field' (kIn i 1) 15 12
    else if s.inCrop i then s.cropW i * s.cropH i else s.reg (kIn i 4)
  64 + roundUp (n * s.inChan i * s.inElem i) 64

/-- Slots that no committed record occupies (2A00h+i.14). -/
def State.freeSlots (s : State) (i : Nat) : Nat := s.reg (kIn i 5) - (s.intake i).occupied

/-- A stream can take a submission: V slots are free beside those that its accepted samples will take (R354). -/
def State.roomFor (s : State) (i : Nat) : Bool :=
  let u := s.intake i
  let owed := u.samples.length * s.variants i - u.variants
  decide (u.occupied + owed + s.variants i ≤ s.reg (kIn i 5))

/-! The check of R357. -/

/-- Header field. -/
def hdr (h : Bytes) (o n : Nat) : Nat := leAt h o n

/-- A RAW header that breaks no format rule. -/
def rawFormatOk (h : Bytes) : Bool :=
  within (hdr h 36 1) 1 4 && within (hdr h 37 1) 8 16 && decide (hdr h 38 1 ≤ 2) &&
  (hdr h 38 1 != 0 || hdr h 37 1 == 8)

/-- Reserved header fields are 0. -/
def headerClean (h : Bytes) : Bool :=
  hdr h 2 2 == 0 && hdr h 22 2 == 0 && (slice h 39 25).all (· == 0#8) &&
  (hdr h 1 1 != 2 || (slice h 32 7).all (· == 0#8))

/-- Declared width, height and channels; 0 where they cannot be read. -/
def declared (h data : Bytes) : Nat × Nat × Nat :=
  if hdr h 1 1 = 2 then match Config.jlsShape data with | some (w, y, c, _) => (w, y, c) | none => (0, 0, 0)
  else (hdr h 32 2, hdr h 34 2, hdr h 36 1)

/-- Status of the check: 0 when the sample passes, 82h for its shape, 83h for its format. -/
def State.checkSample (s : State) (i : Nat) (h data : Bytes) : Nat :=
  let kind := hdr h 1 1
  let known := (kind == 1 && s.bit' (kIn i 1) 19) || (kind == 2 && s.bit' (kIn i 1) 20)
  let readable := if kind = 2 then (Config.jlsShape data).isSome && Config.jlsSupported data else rawFormatOk h
  let (w, y, c) := declared h data
  if !known || !headerClean h || !readable then 0x83
  else if w = 0 ∨ y = 0 ∨ s.reg (kIn i 2) < w ∨ s.reg (kIn i 3) < y ∨ s.reg (kIn i 4) < w * y ∨ c ≠ s.inChan i then 0x82
  else 0

/-! Regions of interest (R366 to R368). -/

/-- `n` crop origins from 48 bytes. -/
def origins (bs : Bytes) (n : Nat) : List (Int × Int) :=
  (upTo n).map (fun c => (signed 16 (leAt bs (4 * c) 2), signed 16 (leAt bs (4 * c + 2) 2)))

/-- The initial set. -/
def State.initialRoi (s : State) (i : Nat) : List (Int × Int) :=
  let d := s.dom (kIn i 0x0F)
  origins (d.drop 8) (min 12 (leAt d 0 1))

/-- The next sample to dispatch. -/
def IntakeUnit.head (u : IntakeUnit) : Option Sample := u.samples.find? (fun x => !x.sent && x.done.isNone)

/-- Index of the next sample to dispatch, accepted or not. -/
def State.dispatchIndex (s : State) (i : Nat) : Nat :=
  match (s.intake i).head with | some x => x.index | none => s.reg (kIn i 0x11)

/-- Change the sample with an index. -/
def IntakeUnit.onSample (u : IntakeUnit) (ix : Nat) (f : Sample → Sample) : IntakeUnit :=
  { u with samples := u.samples.map (fun x => if x.index = ix then f x else x) }

/-- The crops with which a sample would be dispatched now, if it need not wait. -/
def State.cropsFor (s : State) (i : Nat) (x : Sample) : Option (List (Int × Int)) :=
  if s.inRoi i then
    if x.roiLate then some (s.intake i).lastRoi
    else if x.index = s.reg (kIn i 6) then some (s.initialRoi i)
    else tfind (s.intake i).rois x.index
  else some []

/-- A sample that becomes the next to dispatch and has to wait loads the ROI timer. -/
def State.armRoi (s : State) (i : Nat) : State :=
  let u := s.intake i
  match u.head with
  | some x =>
    if (s.cropsFor i x).isSome then s.setIntake i { u with roiDue := none }
    else if u.roiDue.isNone then s.setIntake i { u with roiDue := some (s.cclk + s.reg (kIn i 0x10)) }
    else s
  | none => s.setIntake i { u with roiDue := none }

/-- The ROI timer has run out: the waiting sample goes on with the crops of the last bound record (R368, R63). -/
def State.roiOverdue (s : State) (i : Nat) : State :=
  let u := s.intake i
  match u.head, u.roiDue with
  | some x, some d =>
    if d < s.cclk then
      (s.setIntake i { u.onSample x.index (fun x => { x with roiLate := true }) with roiDue := none }).addReg (kIn i 0x1A) 1
    else s
  | _, _ => s

/-! Submissions (R354, R361). -/

/-- Declared bytes of a RAW sample. -/
def rawBytes (h : Bytes) : Nat :=
  let n := hdr h 32 2 * hdr h 34 2 * hdr h 36 1
  match hdr h 38 1 with | 0 => n | 1 => 2 * n | _ => (n * hdr h 37 1 + 7) / 8

/-- The status, flags and cycles of a placeholder. -/
def placeholder (status flags cycles : Nat) : Nat × Nat × Nat := (status, flags, cycles)

/-- An intake stream takes a submission of header `h` and data. -/
def State.takeSubmission (s : State) (i : Nat) (h data : Bytes) : State :=
  let ix := hdr h 8 8
  let next := s.reg (kIn i 0x11)
  if ix = next then
    let v := s.checkSample i h data
    let d := declared h data
    let x : Sample := { index := ix, header := h, data := if v = 0 then data else [], verdict := v, width := d.1,
                        height := d.2.1, done := if v = 0 then none else some (placeholder v 0 0) }
    let s := s.setIntake i { s.intake i with samples := (s.intake i).samples ++ [x] }
    (s.setReg (kIn i 0x11) (next + 1)).armRoi i
  else if ix < next then s.addReg (kIn i 0x19) 1
  else (s.addReg (kIn i 0x18) 1).report { type := 6, what := i, data := next }

/-! Decoding (R355 to R360). -/

/-- Values of a RAW sample, in order, as 16-bit quantities, as far as its data goes. -/
def rawValues (h data : Bytes) : List Nat :=
  let n := hdr h 32 2 * hdr h 34 2 * hdr h 36 1
  let b := hdr h 37 1
  let sh := 2 ^ (16 - b)
  let d := data.toArray
  let byte := fun (k : Nat) => (d.getD k 0).toNat
  let have_ := match hdr h 38 1 with | 0 => d.size | 1 => d.size / 2 | _ => 8 * d.size / b
  (upTo (min n have_)).map (fun k =>
    (match hdr h 38 1 with
     | 0 => byte k
     | 1 => (byte (2 * k) + 256 * byte (2 * k + 1)) % 2 ^ b
     | _ =>
       let o := b * k
       (byte (o / 8) + 256 * byte (o / 8 + 1) + 65536 * byte (o / 8 + 2)) / 2 ^ (o % 8) % 2 ^ b) * sh % 65536)

/-- Values that a sample's data yields. -/
def Sample.values (x : Sample) : List Nat :=
  if hdr x.header 1 1 = 2 then
    let p := match Config.jlsShape x.data with | some (_, _, _, p) => p | none => 16
    (Config.jlsValues x.data).map (fun v => v * 2 ^ (16 - p) % 65536)
  else rawValues x.header x.data

/-- Values that the output needs: all, or up to the last one that some crop reads. -/
def State.needed (s : State) (i : Nat) (x : Sample) : Nat :=
  let ch := s.inChan i
  if s.inRoi i then
    x.crops.foldl (fun (m : Nat) (c : Int × Int) =>
      let x1 : Int := min (c.1 + (s.cropW i : Int)) (x.width : Int)
      let y1 : Int := min (c.2 + (s.cropH i : Int)) (x.height : Int)
      if 0 < x1 ∧ 0 < y1 ∧ c.1 < (x.width : Int) ∧ c.2 < (x.height : Int) then
        max m ((((y1 - 1) * x.width + x1) * ch).toNat) else m) 0
  else x.width * x.height * ch

/-- Engine cycles that a sample takes (R359). -/
def State.engineCycles (s : State) (i : Nat) (x : Sample) : Nat :=
  let n := s.needed i x
  if hdr x.header 1 1 = 2 then Config.jlsCycles x.data n
  else
    let bytes := match hdr x.header 38 1 with | 0 => n | 1 => 2 * n | _ => (n * hdr x.header 37 1 + 7) / 8
    (min bytes x.data.length + 63) / 64

/-- The budget B (R360). -/
def State.budget (s : State) (i : Nat) (x : Sample) : Nat :=
  s.reg (kIn i 0x0A) + (s.reg (kIn i 9) * (x.width * x.height * s.inChan i) + 15) / 16

/-! Output (R366, R369, R370). -/

/-- An image: width, height, channels, its values in raster order. -/
structure Image where
  w : Nat
  h : Nat
  c : Nat
  v : Array Nat

/-- Value at a place, or the fill value outside. -/
def Image.at (m : Image) (fill : Nat) (y x : Int) (c : Nat) : Nat :=
  if 0 ≤ y ∧ 0 ≤ x ∧ y < (m.h : Int) ∧ x < (m.w : Int) then m.v.getD ((y.toNat * m.w + x.toNat) * m.c + c) fill else fill

/-- An image given by its places. -/
def Image.of (w h c : Nat) (f : Nat → Nat → Nat → Nat) : Image :=
  ⟨w, h, c, ((upTo h).flatMap (fun y => (upTo w).flatMap (fun x => (upTo c).map (fun k => f y x k)))).toArray⟩

/-- t(d) (R370). -/
def tDraw (d : Nat) : Int := (d : Int) - 32768

/-- One variant of a decoded image (R369, R370). -/
def State.variant (s : State) (i : Nat) (ix v : Nat) (m : Image) : Image :=
  let cfg := s.reg (kIn i 0x0C)
  let fill := s.reg (kIn i 8)
  let seed := s.reg (kIn i 0x0B)
  let k0 := seed % 2 ^ 32
  let k1 := seed / 2 ^ 32
  let y := philox 10 (ix % 2 ^ 32, ix / 2 ^ 32 % 2 ^ 32, v, 0) k0 k1
  let plain := bit cfg 19 && v == 0
  let cw := s.cropW i
  let ch := s.cropH i
  let ox := if plain then 0 else if cw < m.w then bits y.1 31 16 * (m.w - cw + 1) / 65536 else 0
  let oy := if plain then 0 else if ch < m.h then bits y.2.1 15 0 * (m.h - ch + 1) / 65536 else 0
  let c0 := if s.inCrop i then Image.of cw ch m.c (fun a b k => m.at fill ((oy + a : Nat) : Int) ((ox + b : Nat) : Int) k) else m
  if plain then c0
  else
    let fh := bit cfg 16 && bit y.1 0
    let fv := bit cfg 17 && bit y.1 1
    let g0 := Image.of c0.w c0.h c0.c (fun a b k =>
      c0.at fill ((if fv then c0.h - 1 - a else a : Nat) : Int) ((if fh then c0.w - 1 - b else b : Nat) : Int) k)
    let q := if bit cfg 18 then (if g0.w = g0.h then bits y.1 3 2 else bits y.1 3 2 / 2 * 2) else 0
    let rot := match q with
      | 0 => g0
      | 1 => Image.of g0.w g0.h g0.c (fun a b k => g0.at fill ((g0.w - 1 - b : Nat) : Int) (a : Int) k)
      | 2 => Image.of g0.w g0.h g0.c (fun a b k => g0.at fill ((g0.h - 1 - a : Nat) : Int) ((g0.w - 1 - b : Nat) : Int) k)
      | _ => Image.of g0.w g0.h g0.c (fun a b k => g0.at fill (b : Int) ((g0.w - 1 - a : Nat) : Int) k)
    let gain : Int := 256 + ((bits cfg 31 24 : Int) * tDraw (bits y.2.1 31 16)) / 32768
    let off : Int := ((bits cfg 15 0 : Int) * tDraw (bits y.2.2.1 15 0)) / 32768
    let namp : Int := s.reg (kIn i 0x0E)
    let noise := fun (k : Nat) =>
      let o := philox 10 (ix % 2 ^ 32, ix / 2 ^ 32 % 2 ^ 32, v, 1 + k / 8) k0 k1
      let w := match k % 8 / 2 with | 0 => o.1 | 1 => o.2.1 | 2 => o.2.2.1 | _ => o.2.2.2
      namp * tDraw (w / 2 ^ (16 * (k % 2)) % 65536) / 32768
    let vals := rot.v.toList.zipIdx.map (fun p =>
      let a := limit 0 65535 (((p.1 : Int) * gain + 128) / 256)
      let b := limit 0 65535 (a + off)
      (limit 0 65535 (b + noise p.2)).toNat)
    { rot with v := vals.toArray }

/-- One value under OFMT. -/
def State.inValue (s : State) (i v : Nat) : Bytes :=
  match s.inFmt i with
  | 0 => [BitVec.ofNat 8 (min ((v + 128) / 256) 255)]
  | 1 => leBytes 2 v
  | _ => leBytes 2 (bf16.encode (ofUnits v (-16) false))

/-- The header of Table 13-2. -/
def State.recordHeader (s : State) (i : Nat) (x : Sample) (w h v status flags crops cycles : Nat) : Bytes :=
  leBytes 8 x.index ++ leBytes 8 (hdr x.header 16 6) ++ slice x.header 24 8 ++ leBytes 2 w ++ leBytes 2 h ++
  leBytes 1 (s.inChan i) ++ leBytes 1 (s.inFmt i) ++ leBytes 1 v ++ leBytes 1 status ++ leBytes 2 flags ++
  leBytes 2 crops ++ leBytes 2 x.width ++ leBytes 2 x.height ++ leBytes 4 cycles ++ leBytes 4 (hdr x.header 4 4) ++
  List.replicate 16 0#8

/-- The record of variant `v` of a decoded sample: header and data. -/
def State.recordBytes (s : State) (i : Nat) (x : Sample) (v : Nat) (r : Nat × Nat × Nat) : Bytes :=
  let (status, flags, cycles) := r
  if 0x80 ≤ status then s.recordHeader i x 0 0 v status flags 0 cycles
  else
    let fill := s.reg (kIn i 8)
    let n := x.width * x.height * s.inChan i
    let vs := x.values
    let m : Image := ⟨x.width, x.height, s.inChan i, (vs.take n ++ List.replicate (n - vs.length) fill).toArray⟩
    if s.inRoi i then
      let cw := s.cropW i
      let ch := s.cropH i
      let data := x.crops.flatMap (fun c =>
        (Image.of cw ch m.c (fun a b k => m.at fill (c.2 + a) (c.1 + b) k)).v.toList)
      s.recordHeader i x cw (x.crops.length * ch) v status flags x.crops.length cycles ++ data.flatMap (s.inValue i)
    else
      let o := if s.inAug i then s.variant i x.index v m else m
      s.recordHeader i x o.w o.h v status flags 0 cycles ++ o.v.toList.flatMap (s.inValue i)

/-- Outcome of a decoded sample: status, flags, cycles (R358, R366). -/
def State.outcome (s : State) (i : Nat) (x : Sample) (cycles : Nat) : Nat × Nat × Nat :=
  let need := s.needed i x
  let short := decide (x.values.length < need)
  let malf := short && hdr x.header 1 1 == 2 && Config.jlsMalformed x.data
  let outside := x.crops.any (fun c => decide (c.1 < 0) || decide (c.2 < 0) ||
    decide ((x.width : Int) < c.1 + s.cropW i) || decide ((x.height : Int) < c.2 + s.cropH i))
  let flags := b2n malf + 2 * b2n x.roiLate + 4 * b2n (s.inRoi i && outside)
  (if short then (if s.bit' (kIn i 1) 21 then 0x81 else 1) else 0, flags, cycles)

/-! The commands. -/

/-- A stream has a sample that an engine can take. -/
def State.readySample (s : State) (i : Nat) : Option (Sample × List (Int × Int)) :=
  if s.active (fIntake i) then
    (s.intake i).head.bind (fun x => (s.cropsFor i x).map (fun c => (x, c)))
  else none

/-- The sample of an engine is done with an outcome; the longest decode is noted, truncation counted. -/
def State.engineDone (s : State) (engine i ix : Nat) (r : Nat × Nat × Nat) : State :=
  let s := s.setIntake i ((s.intake i).onSample ix (fun x => { x with done := some r }))
  let s := { s with engines := terase s.engines engine }
  let s := s.setReg (kIn i 0x1C) (max (s.reg (kIn i 0x1C)) r.2.2)
  if r.1 = 1 ∨ r.1 = 0x81 then s.addReg (kIn i 0x17) 1 else s

/-- The sample of an engine. -/
def State.engineSample (s : State) (engine : Nat) : Option (Engine × Sample) :=
  (tfind s.engines engine).bind (fun e =>
    ((s.intake e.stream).samples.find? (fun x => x.index == e.index)).map (fun x => (e, x)))

/-! Port records (R365, R367, Table 13-3). -/

/-- A port record is dropped and counted. -/
def State.dropIntake (s : State) (i : Nat) : State := (s.addReg (kIn i 0x1B) 1).countIn (s.inDom i) 0x2903 0x0C

/-- A record of port 33h from job `j`. -/
def State.intakePort (s : State) (j : Nat) (bs : Bytes) : State :=
  let w := leAt bs 0 8
  let i := bits w 11 8
  let cmd := bits w 7 0
  let n := bits w 47 32
  let nr := bits w 15 12
  let u := s.intake i
  if !s.running (fIntake i) then s.count 0x2901 0x0E
  else if bits w 31 16 ≠ 0 ∨ s.jobDom j ≠ some (s.inDom i) then s.dropIntake i
  else if cmd = 1 then
    if n = 0 ∨ nr ≠ 0 ∨ (bs.drop 8).any (· != 0#8) ∨ u.occupied < n then s.dropIntake i
    else s.setIntake i { u with occupied := u.occupied - n }
  else if cmd = 2 then
    let from_ := leAt bs 8 8
    let d := s.dispatchIndex i
    if n ≠ 0 ∨ 12 < nr ∨ s.field' (kIn i 1) 15 12 < nr ∨ (bs.drop (16 + 4 * nr)).any (· != 0#8) ∨
        (tfind u.rois from_).isSome ∨ from_ < d ∨ d + 64 < from_ then s.dropIntake i
    else
      let crops := origins (bs.drop 16) nr
      let s := s.roiOverdue i
      (s.setIntake i { s.intake i with rois := tput (s.intake i).rois from_ crops, lastRoi := crops }).armRoi i
  else s.dropIntake i

/-! Start and stop (R354, R363, R371). -/

/-- An intake stream enters RUNNING. -/
def State.intakeEnters (s : State) (i : Nat) : State :=
  let s := s.setIntake i { lastRoi := s.initialRoi i }
  (s.setReg (kIn i 0x11) (s.reg (kIn i 6))).setFn (fIntake i) .running

/-- An intake stream has nothing accepted left. -/
def State.intakeDrained (s : State) (i : Nat) : Bool := (s.intake i).samples.isEmpty

/-- What it releases. -/
def State.intakeLeaves (s : State) (i : Nat) : State := s.setReg (kIn i 0x12) 0

end Sys2Proof.Machine
end

