-- ==== Sys2Proof/Machine/Network.lean ====
section
/-! DEFINITION. The serial lanes, the network ports NET0, NET1 and MLINK, messages in both directions, result streams and
the inbox (18 R440 to R457). Ports are numbered 0, 1 and 2. -/
namespace Sys2Proof.Machine

/-- 2700h + n, subindex `sub`. -/
def kNet (n sub : Nat) : Nat := key (0x2700 + n) sub
/-- 2730h, subindex `sub`. -/
def kLink (sub : Nat) : Nat := key 0x2730 sub
/-- Port `p`. -/
def State.net (s : State) (p : Nat) : NetUnit := tget (fun _ => {}) s.nets p
/-- Replace it. -/
def State.setNet (s : State) (p : Nat) (x : NetUnit) : State := { s with nets := tset (fun _ => {}) s.nets p x }

/-- Add to a counter of a NET port; MLINK has no such counter. -/
def State.netCount (s : State) (p sub : Nat) : State := if p < 2 then s.addReg (kNet p sub) 1 else s

/-- Add 1 to the upper or lower half of a counter, saturating there (2700h+n.18h, .1Ah). -/
def State.addHalf (s : State) (k : Nat) (upper : Bool) : State :=
  let lo := if upper then 16 else 0
  s.setField k (lo + 15) lo (satAdd 16 (s.field' k (lo + 15) lo) 1)

/-- The register that shows LSTATE. -/
def kLstate (p : Nat) : Nat := if p < 2 then kNet p 0x0C else kLink 6
/-- LSTATE: 0 DOWN, 1 TRAINING, 2 UP, 3 FAIL. -/
def State.lstate (s : State) (p : Nat) : Nat := s.field' (kLstate p) 1 0
/-- Lanes of a port (Table 18-1). -/
def netLanes (p : Nat) : List Nat := if p < 2 then [p] else [2, 3]
/-- SPEED: 10GBASE-R. -/
def State.slowNet (s : State) (p : Nat) : Bool := decide (p < 2) && s.bit' (kNet p 1) 0

/-! Bring-up (R441 to R443). -/

/-- Candidate `c` of lane `l`. -/
def kCand (l c : Nat) : Nat := key 0x2720 (1 + 8 * l + c)
/-- It is valid. -/
def State.candValid (s : State) (l c : Nat) : Bool := s.bit' (kCand l c) 31

/-- The trial of a candidate; a candidate with neither polarity locked has figure 0. -/
def trialOf (ts : List LaneTrial) (c : Nat) : LaneTrial :=
  (ts.find? (fun t => t.candidate == c)).getD ⟨c, 0, false⟩

/-- The better of two trials: the higher figure, and the earlier one on a tie. -/
def betterTrial (a b : LaneTrial) : LaneTrial := if a.merit < b.merit then b else a

/-- One lane is tried: its figures, the candidate it keeps, its status; the answer says whether it came up. -/
def State.tryLane (s : State) (l : Nat) (ts : List LaneTrial) : State × Bool :=
  let cs := (upTo 8).filter (s.candValid l)
  let s := forEach (upTo 8) s (fun c s =>
    s.setReg (key 0x2720 (0x2E + 8 * l + c)) (if s.candValid l c then min 256 (trialOf ts c).merit else 0xFFFF))
  match cs.map (trialOf ts) with
  | [] => (s.setReg (key 0x2720 (0x25 + l)) 0, false)
  | t :: more =>
    let k := more.foldl betterTrial t
    let up := decide (s.reg (key 0x2720 0x2D) ≤ k.merit) && decide (0 < k.merit)
    (s.setReg (key 0x2720 (0x25 + l)) (min 256 k.merit * 65536 + k.candidate * 256 + b2n k.inverted * 16 + b2n up * 8), up)

/-- Show a link state. -/
def State.setLstate (s : State) (p v : Nat) : State := s.setReg (kLstate p) v

/-- The link of a port is down and its bring-up begins in the next cycle (R443). -/
def State.linkDown (s : State) (p : Nat) : State :=
  let s := forEach (netLanes p) s (fun l s => s.setBit (key 0x2720 (0x25 + l)) 3 false)
  (s.setLstate p 0).setNet p { s.net p with train := some (s.sclk + 1), retry := none }

/-- A link loss is counted (R443, R454). -/
def State.loseLink (s : State) (p : Nat) : State :=
  (if p < 2 then s.addReg (kNet p 0x19) 1 else s.addReg (kLink 0x0B) 1).linkDown p

/-- A port serves its lanes: it is RUNNING or STOPPING, or STOPPED in SLEEP (19 R465). -/
def State.netLit (s : State) (p : Nat) : Bool := s.active (fNet p) || (s.power.state == 2 && s.fn (fNet p) == .stopped)

/-- A port that is STOPPED in SLEEP. -/
def State.netDozes (s : State) (p : Nat) : Bool := s.power.state == 2 && s.fn (fNet p) == .stopped

/-- What a port gives back when it leaves RUNNING or STOPPING: its messages, buffers and transmitters (R455, R457). -/
def State.netGone (s : State) (p : Nat) : State :=
  let s := (s.setNet p {}).setLstate p 0
  if p < 2 then
    let s := { s with netQueue := tset (fun _ => []) s.netQueue p [] }
    (s.setReg (kNet p 0x0D) 0).setReg (kNet p 0x0E) 0
  else s.setReg (kLink 5) 0

/-! Space in the receive buffer, and PAUSE (R446, R448). -/

/-- Bytes that a message reserves. -/
def InMsg.space (m : InMsg) : Nat := roundUp m.total 4096
/-- Bytes of the receive buffer in use. -/
def State.rxUsed (s : State) (p : Nat) : Nat := ((s.net p).opens ++ (s.net p).ready).foldl (fun t m => t + m.space) 0
/-- Bytes of the receive buffer. MLINK has none of its own: its messages wait for the inbox. -/
def State.rxSize (s : State) (p : Nat) : Nat := s.reg (kNet p 8) * 2 ^ 20

/-- SCLK cycles of `n` quanta of 512 bit times, rounded up (PRESUMED: the quantum of IEEE 802.3). -/
def State.quanta (s : State) (p n : Nat) : Nat :=
  if s.slowNet p then (n * 256 + 9) / 10 else (n * 1024 + 99) / 100

/-- A PAUSE frame is sent. -/
def State.sendPause (s : State) (p : Nat) : State := (s.addHalf (kNet p 0x18) true).netCount p 0x12

/-- PAUSE of quanta FFFFh or 0 as the free space of the receive buffer asks (R446). -/
def State.pauseCheck (s : State) (p : Nat) : State :=
  if p < 2 ∧ s.bit' (kNet p 1) 2 then
    let free := s.rxSize p - s.rxUsed p
    let x := s.reg (kNet p 0x0B) * 2 ^ 20
    let u := s.net p
    match u.pauseAt with
    | none => if free < x then (s.setNet p { u with pauseAt := some (s.sclk + s.quanta p 32768) }).sendPause p else s
    | some _ => if 2 * x < free then (s.setNet p { u with pauseAt := none }).sendPause p else s
  else s

/-! Transmission (R451 to R453). -/

/-- Bytes of a message in one segment. -/
def State.segBytes (s : State) (p : Nat) : Nat := if p < 2 then max 1 (s.reg (kNet p 7) - 60) else Config.mlinkSegment + 1

/-- The next hop to an address. -/
def State.hop (s : State) (p a : Nat) : Nat :=
  let m := s.reg (kNet p 4)
  if a &&& m = s.reg (kNet p 3) &&& m then a else s.reg (kNet p 5)

/-- The hardware address of the next hop is known. -/
def State.resolved (s : State) (p a : Nat) : Bool := decide (2 ≤ p) || (tfind (s.net p).arp (s.hop p a)).isSome

/-- The resolver asks for a next hop that it does not know, once until it is answered. -/
def State.askHop (s : State) (p a : Nat) : State :=
  let u := s.net p
  if s.resolved p a ∨ hasKey u.asked (s.hop p a) then s
  else (s.setNet p { u with asked := addKey u.asked (s.hop p a) }).netCount p 0x12

/-- The next sequence of a class and stream. -/
def State.nextSeq (s : State) (p cls stream : Nat) : Nat × State :=
  let u := s.net p
  let k := 256 * cls + stream
  let n := tget (fun _ => 0) u.seqs k
  (n, s.setNet p { u with seqs := tset (fun _ => 0) u.seqs k ((n + 1) % 2 ^ 32) })

/-- The 32 bytes of a verdict record (R453). -/
def verdictBytes (r : VerdRec) : Bytes := leBytes 8 r.a ++ leBytes 8 r.b ++ leBytes 8 r.mask ++ leBytes 4 r.t32 ++ leBytes 4 r.num

/-- Configuration of result stream `i` (R451). -/
def State.resultCfg (s : State) (i : Nat) : Nat := s.reg (kNet (i / 8) (0x20 + i % 8))

/-- The VERDICT message of the oldest records, when the port next chooses it (R453). -/
def State.formVerdict (s : State) (p : Nat) : State :=
  let q := tget (fun _ => []) s.netQueue p
  let n := s.segBytes p / 32
  let i := 8 * p + s.field' (kNet p 0x0F) 2 0
  let r := s.nextSeq p 5 i
  let s := { r.2 with netQueue := tset (fun _ => []) r.2.netQueue p (q.drop n) }
  let cfg := s.resultCfg i
  let m : OutMsg := { cls := 5, stream := i, seq := r.1, stamp := s.t32, addr := bits cfg 63 32, udp := bits cfg 31 16,
                      data := (q.take n).flatMap verdictBytes }
  s.setNet p { s.net p with verdict := some m }

/-- The port chooses what to send next (R452). A message whose next hop is not known waits for the resolver. -/
def State.choose (s : State) (p : Nat) : State :=
  let u := s.net p
  let q := tget (fun _ => []) s.netQueue p
  let go := fun (s : State) k => s.setNet p { s.net p with tx := some k }
  let ready := fun (s : State) (m : Option OutMsg) => match m with | some m => s.resolved p m.addr | none => false
  if u.tx.isSome || u.paused.isSome || s.lstate p != 2 || !(s.running (fNet p) || s.netDozes p) then s
  else if 0 < u.ptpOut then go s .ptp
  else if u.results.any (fun m => decide (0 < m.sent)) then go s .result
  else
    let s := match u.notices with | m :: _ => s.askHop p m.addr | [] => s
    let s := match u.results with | m :: _ => s.askHop p m.addr | [] => s
    if ready s u.notices.head? then go s .notice
    else
      let s := if u.verdict.isNone && !q.isEmpty && decide (p < 2) then s.formVerdict p else s
      let v := (s.net p).verdict
      let s := match v with | some m => s.askHop p m.addr | none => s
      if ready s v then go s .verdict
      else if ready s u.results.head? then go s .result else s

/-- A message has been sent whole. -/
def State.messageSent (s : State) (p : Nat) : State := if p < 2 then s.addReg (kNet p 0x15) 1 else s.addReg (kLink 0x0A) 1

/-- The segment in transmission is finished. -/
def State.finishSegment (s : State) (p : Nat) : State :=
  let u := s.net p
  match u.tx with
  | none => s
  | some k =>
    let s := s.netCount p 0x12
    let u := { u with tx := none }
    match k with
    | .ptp => s.setNet p { u with ptpOut := u.ptpOut - 1 }
    | .notice => (s.setNet p { u with notices := u.notices.drop 1 }).messageSent p
    | .verdict => (s.setNet p { u with verdict := none }).messageSent p
    | .result =>
      match u.results with
      | [] => s.setNet p u
      | m :: ms =>
        let m := { m with sent := m.sent + s.segBytes p }
        if m.data.length ≤ m.sent then (s.setNet p { u with results := ms }).messageSent p
        else s.setNet p { u with results := m :: ms }

/-- The port that sends result stream `i`; none for a reserved code. -/
def State.resultPort (s : State) (i : Nat) : Option Nat :=
  match bits (s.resultCfg i) 1 0 with
  | 0 => some (i / 8)
  | 1 => some 2
  | _ => none

/-- Bytes of messages in the transmit queue. -/
def State.txUsed (s : State) (p : Nat) : Nat := (s.net p).results.foldl (fun t m => t + m.data.length) 0

/-- The bytes that a descriptor has written to result stream `i` form one message (R451). -/
def State.acceptResult (s : State) (i : Nat) (xs : List Marked) : State :=
  let cfg := s.resultCfg i
  match s.resultPort i with
  | none => s.count 0x2901 0x0E
  | some p =>
    if !s.running (fNet p) || !bit cfg 2 then s.count 0x2901 0x0E
    else if xs.any (fun x => x.2) then s.count 0x2902 0x0C
    else if 16777216 < xs.length ∨ (p < 2 ∧ s.reg (kNet p 9) * 2 ^ 20 < s.txUsed p + xs.length) then
      s.addReg (kNet (i / 8) 0x16) 1
    else
      let r := s.nextSeq p 4 i
      let s := r.2
      let m : OutMsg := { cls := 4, stream := i, seq := r.1, stamp := s.t32, addr := bits cfg 63 32,
                          udp := bits cfg 31 16, data := xs.map Prod.fst }
      (s.setNet p { s.net p with results := (s.net p).results ++ [m] }).choose p

/-! Frames (R444 to R446). -/

/-- A frame is discarded and counted. -/
def State.discardFrame (s : State) (p : Nat) : State := s.netCount p 0x11

/-- The resolver learns a hardware address for 60 s; a full cache of 64 gives up the entry nearest its end. -/
def State.learn (s : State) (p a mac : Nat) : State :=
  let u := s.net p
  let arp := if (tfind u.arp a).isSome ∨ u.arp.length < 64 then u.arp
    else match u.arp with
      | [] => []
      | e :: es => terase u.arp (es.foldl (fun (m : Nat × (Nat × Nat)) x => if x.2.2 < m.2.2 then x else m) e).1
  (s.setNet p { u with arp := tput arp a (mac, s.sclk + 30000000000), asked := dropKey u.asked a }).choose p

/-! Segments (R447 to R450). -/

/-- A segment header without a wrong or reserved field, whose part lies within its message. -/
def State.segmentOk (s : State) (p : Nat) (bs : Bytes) : Bool :=
  decide (32 ≤ bs.length) && leAt bs 0 2 == 0x534F && leAt bs 2 1 == 1 && within (leAt bs 3 1) 1 6 && leAt bs 5 3 == 0 &&
  leAt bs 22 2 == 0 && leAt bs 28 4 == 0 && decide (0 < leAt bs 12 4) && decide (0 < leAt bs 20 2) &&
  (decide (2 ≤ p) || decide (leAt bs 20 2 ≤ s.segBytes p)) && bs.length == 32 + leAt bs 20 2 &&
  decide (leAt bs 16 4 + leAt bs 20 2 ≤ leAt bs 12 4)

/-- Two messages have one key. -/
def InMsg.sameKey (a b : InMsg) : Bool := a.addr == b.addr && a.udp == b.udp && a.cls == b.cls && a.stream == b.stream

/-- A message is discarded: counted, with a notice of its reason to the sender (R450). -/
def State.discardMessage (s : State) (p : Nat) (m : InMsg) (reason : Nat) : State :=
  let s := s.netCount p 0x14
  if p < 2 then
    let r := s.nextSeq p 6 0
    let s := r.2
    let data : Bytes := leBytes 4 (m.cls + 256 * m.stream) ++ leBytes 4 m.seq ++ leBytes 8 reason
    let n : OutMsg := { cls := 6, stream := 0, seq := r.1, stamp := s.t32, addr := m.addr, udp := m.udp, data := data }
    ((s.setNet p { s.net p with notices := (s.net p).notices ++ [n] }).choose p).pauseCheck p
  else s

/-- The bytes of a complete message. -/
def InMsg.bytes (m : InMsg) : Bytes := m.got.map Prod.snd

/-- A complete message is malformed (R450): the DLEN or the stream of a submission, or a BANK message that is not a whole
number of records. -/
def State.badPayload (s : State) (m : InMsg) : Bool :=
  let bs := m.bytes
  match m.cls with
  | 1 => decide (m.total < 64) || leAt bs 4 4 != m.total - 64 || leAt bs 0 1 != m.stream
  | 2 => if leAt bs 1 1 = 3 then m.total != 16 + s.loadBytes bs else m.total % 288 != 0
  | _ => false

/-- The consumer of a message accepts its class from this port and is RUNNING (R449). -/
def State.takesClass (s : State) (p : Nat) (m : InMsg) : Bool :=
  match m.cls with
  | 1 =>
    let ports := s.field' (kIn m.stream 1) 1 0
    decide (p < 2) && decide (m.stream < 16) && s.running (fIntake m.stream) && (ports == 2 || ports == p)
  | 2 => decide (p < 2)
  | 3 => decide (p < 2)
  | 4 => p == 2
  | _ => false

/-- A message leaves the messages under reassembly. -/
def State.closeOpen (s : State) (p : Nat) (m : InMsg) : State :=
  s.setNet p { s.net p with opens := (s.net p).opens.filter (fun x => !x.sameKey m) }

/-- A message whose reassembly timer has run out is discarded (R448 step 4, R63). -/
def State.reassemblyOver (s : State) (p : Nat) (m : InMsg) : State :=
  if m.due < s.sclk then (s.closeOpen p m).discardMessage p m 2 else s

/-- A message is complete: it waits for its consumer, or is discarded. -/
def State.complete (s : State) (p : Nat) (m : InMsg) : State :=
  let s := s.closeOpen p m
  if s.badPayload m then s.discardMessage p m 5
  else if !s.takesClass p m then s.discardMessage p m 6
  else s.setNet p { s.net p with ready := (s.net p).ready ++ [m] }

/-- The bytes of a part that have not been received yet enter a message, and its timer is loaded. -/
def State.fill (s : State) (p : Nat) (m : InMsg) (off : Nat) (bs : Bytes) : State :=
  let got := (bs.zip (List.range bs.length)).foldl (fun (g : List Host.Cell) (b : Byte × Nat) =>
    if (tfind g (off + b.2)).isSome then g else tput g (off + b.2) b.1) m.got
  let us := if p < 2 then s.reg (kNet p 0x0A) else Config.mlinkTimeout
  let m := { m with got := got, due := s.sclk + micros us }
  if got.length = m.total then s.complete p m
  else s.setNet p { s.net p with opens := (s.net p).opens.map (fun x => if x.sameKey m then m else x) }

/-- A segment opens a message (R448 step 1). -/
def State.openMessage (s : State) (p : Nat) (m : InMsg) (bs : Bytes) : State :=
  let s := match (s.net p).opens.find? (fun x => x.sameKey m) with
    | some old => (s.closeOpen p old).discardMessage p old 4
    | none => s
  if 256 ≤ (s.net p).opens.length then s.discardMessage p m 3
  else if p < 2 ∧ s.rxSize p < s.rxUsed p + m.space then s.discardMessage p m 1
  else
    ((s.setNet p { s.net p with opens := (s.net p).opens ++ [m] }).fill p m (leAt bs 16 4) (bs.drop 32)).pauseCheck p

/-- A waiting message leaves the receive buffer. -/
def State.dropReady (s : State) (p : Nat) (m : InMsg) : State :=
  (s.setNet p { s.net p with ready := (s.net p).ready.erase m }).pauseCheck p

/-- A SAMPLE message is taken by its stream (R354, R449). -/
def State.handSample (s : State) (p : Nat) (m : InMsg) : State :=
  let s := (s.dropReady p m).netCount p 0x13
  s.takeSubmission m.stream (slice m.bytes 0 64) (m.bytes.drop 64)

/-- The records of a BANK message of port `p` arrive in order, behind those of the cores and of a lower port (R243, R246). -/
def State.bankMessage (s : State) (p : Nat) (bs : Bytes) : State :=
  if leAt bs 1 1 = 3 then s.loadRecord bs
  else forEach (upTo (bs.length / 288)) s (fun i s => s.closesC s.cclk (6 + p) (.enrol (slice bs (288 * i) 288)))

/-- A message on MLINK is written into the inbox (R455): header of FFFFFFFFh, message, header with its number. -/
def State.inboxWrite (s : State) (m : InMsg) : State :=
  let size := s.reg (kLink 3)
  let s := s.dropReady 2 m
  if size < 32 + m.total then s.addReg (kLink 9) 1
  else
    let s := (s.addReg (kLink 8) 1).catchAll
    let k := (s.net 2).inbox
    let a := s.reg (kLink 5) + k % max 1 (s.reg (kLink 2)) * size
    let hd : Bytes := leBytes 4 k ++ leBytes 4 m.stream ++ leBytes 4 m.total ++ leBytes 4 m.stamp ++ List.replicate 16 0
    let s := { s with ext := (s.ext.write 32 a (clean (hd ++ m.bytes))) }
    let s := s.setNet 2 { s.net 2 with inbox := (k + 1) % 2 ^ 32 }
    let sig := s.reg (kLink 4)
    if bit sig 12 then
      let j := bits sig 11 6
      match s.jobDom j with
      | some d => s.externalSignal j (bits sig 5 0) (s.lpos d)
      | none => s
    else s

/-! Starting and stopping (R455 to R457). -/

/-- A port enters RUNNING, its buffers having been placed: sequences start at 0 and bring-up begins. -/
def State.netEnters (s : State) (p : Nat) : State :=
  let s := (s.setNet p { train := some (s.sclk + 1) }).setLstate p 0
  let s := if p < 2 then
      let q := tset (fun _ => []) s.netQueue p []
      { s with netQueue := q, netNext := tset (fun _ => 0) s.netNext p 0 }
    else s
  s.setFn (fNet p) .running

/-- The lanes of a port that is STOPPED in SLEEP are brought up; of one that is STOPPED otherwise its transmitters are off
(19 R465, R457). -/
def State.doze (s : State) (p : Nat) : State :=
  if s.netDozes p then (s.setNet p { train := some (s.sclk + 1) }).setLstate p 0
  else if s.idle (fNet p) then s.netGone p else s

/-- A port enters STOPPING (R457): its transmit queue is discarded, counting each message, with every received one. -/
def State.netStopping (s : State) (p : Nat) : State :=
  let u := s.net p
  let s := forEach u.results s (fun m s => s.addReg (kNet (m.stream / 8) 0x16) 1)
  (s.setNet p { tx := u.tx }).setFn (fNet p) .stopping

/-- A STOPPING port enters STOPPED. -/
def State.netStops (s : State) (p : Nat) : State := ((s.finishSegment p).netGone p).setFn (fNet p) .stopped

end Sys2Proof.Machine
end

