-- ==== Sys2Proof/Machine/SensorControl.lean ====
section
/-! DEFINITION. Sensor-control channels: the acceptance of records, their starts, their ends and the tracked settings
(11 R326 to R331). -/
namespace Sys2Proof.Machine

/-- 2230h + k, subindex `sub`. -/
def kScc (k sub : Nat) : Nat := key (0x2230 + k) sub

/-! Fields of a record (Table 11-5). -/

/-- RLEN. -/
def SccRec.rlen (r : SccRec) : Nat := bits r.w0 57 53
/-- WLEN. -/
def SccRec.wlen (r : SccRec) : Nat := bits r.w0 52 48
/-- DONE. -/
def SccRec.done (r : SccRec) : Bool := bit r.w0 24
/-- ALIGN. -/
def SccRec.aligned (r : SccRec) : Bool := bit r.w0 11
/-- PORT. -/
def SccRec.portIx (r : SccRec) : Nat := bits r.w0 9 8
/-- CMD. -/
def SccRec.cmd (r : SccRec) : Nat := bits r.w0 7 0
/-- A job's record that writes a result. -/
def SccRec.hasResult (r : SccRec) : Bool := decide (0 < r.rlen) || r.done

/-- The record of 32 bytes. -/
def sccRecord (bs : Bytes) (ctx : Option (Nat × Nat)) : SccRec :=
  { w0 := leAt bs 0 8, w1 := leAt bs 8 8, w2 := leAt bs 16 8, w3 := leAt bs 24 8, ctx := ctx }

/-- A record is dropped on arrival (R327, R328), as is every record of a channel that the grade lacks (00 R6, log 121). -/
def State.sccRefuses (s : State) (k : Nat) (r : SccRec) : Bool :=
  let proto := s.field' (kScc k 1) 1 0
  let suits := if r.cmd = 1 ∨ r.cmd = 2 then proto == 1 else if r.cmd = 3 then proto == 2 else false
  decide (gScc s.grade ≤ k) || decide (16 ≤ (s.scc k).queue.length) || !suits || bits r.w0 63 58 != 0 || r.portIx == 3 ||
  bits r.w1 63 20 != 0 || (if r.hasResult && r.ctx.isSome then bits r.w1 2 0 != 0 else r.w1 != 0) ||
  (r.ctx.isNone && (r.done || bits r.w0 23 18 != 0)) || decide (8 < r.rlen) || decide (16 < r.wlen) ||
  (r.cmd == 3 && (bits r.w0 31 25 != 0 || decide (r.wlen < r.rlen)))

/-- A record reaches its channel: queued, or dropped and counted. The first component says whether it was queued. -/
def State.sccArrive (s : State) (k : Nat) (r : SccRec) : Bool × State :=
  if s.sccRefuses k r then (false, (s.addReg (kScc k 0x0A) 1).count 0x2903 8)
  else
    let u := s.scc k
    let s := s.setScc k { u with queue := u.queue ++ [r], headAt := if u.queue.isEmpty then s.sclk else u.headAt }
    (true, match r.ctx with
      | some (x, _) => if r.hasResult then s.beginWork x else s
      | none => s)

/-- The align timer of an aligned head has expired (R329, 02 R63, R509). -/
def State.alignOver (s : State) (k : Nat) (r : SccRec) : Bool :=
  r.aligned && decide ((s.scc k).headAt + micros (s.reg (kScc k 2)) < s.sclk)

/-- Some stream that holds a port of the channel runs (R327). -/
def State.sccOpen (s : State) (k : Nat) : Bool := (upTo 3).any (fun i => s.running (fStream (s.streamOf (3 * k + i))))

/-- A job's record at port 20h + k. -/
def State.sccPort (s : State) (k x inc : Nat) (bs : Bytes) : State :=
  if s.sccOpen k then (s.sccArrive k (sccRecord bs (some (x, inc)))).2 else s.count 0x2901 0x0E

/-- A record of the job of the context in a slot. -/
def State.sccFromSlot (s : State) (k core slot : Nat) (bs : Bytes) : State :=
  match s.slotCtx core slot with
  | some (x, c) => s.sccPort k x c.inc bs
  | none => s

/-- The head record ends with a status: its result, its counts, its signal and its tracking (R330, R331). An SPI transfer
keeps the last bytes shifted in (R327). -/
def State.sccEnd (s : State) (k : Nat) (r : SccRec) (status : Nat) (read : Bytes) : State :=
  let u := s.scc k
  let p := 3 * k + r.portIx
  let q := s.streamOf p
  let n := min r.rlen read.length
  let got := if r.cmd = 3 then read.drop (read.length - n) else read.take n
  let lo := leNat (got ++ List.replicate (8 - n) 0#8)
  let hi := bits r.w0 47 32 + status * 2 ^ 16 + n * 2 ^ 24 + s.reg (kPort q 0x0E) % 2 ^ 32 * 2 ^ 32
  let s := s.setScc k { queue := u.queue.drop 1, started := false, headAt := s.sclk }
  let s := ((s.setReg (kScc k 5) lo).setReg (kScc k 6) hi).addReg (kScc k 8) 1
  let s := if status ≠ 0 then (s.addReg (kScc k 9) 1).count 0x2903 9 status else s
  let s :=
    if bit r.w0 10 ∧ status ≤ 2 then
      let lines := bit r.w0 12
      let started := if lines then (s.port q).lineAt else (s.port q).frameAt
      let total := s.reg (kPort q (if lines then 0x0F else 0x0E))
      let cnt := if started = some s.sclk then total - 1 else total
      s.setPort q { s.port q with tracks := (s.port q).tracks ++
        [{ cls := bits r.w0 17 16, tag := bits r.w0 47 32, lines := lines, index := cnt + bits r.w0 15 13 - 1 }] }
    else s
  match r.ctx with
  | some (x, inc) =>
    if r.hasResult then
      s.opensC (s.toCclk s.sclk) 0 (.sccResult x inc (bits r.w1 19 0) (leBytes 8 lo ++ leBytes 8 hi)
        (if r.done then some (bits r.w0 23 18) else none))
    else s
  | none => s

/-- A result reaches the context that issued its record; that of a context torn down is discarded (R330). -/
def State.sccArrived (s : State) (x inc a : Nat) (bs : Bytes) (sem : Option Nat) : State :=
  if s.isCtx x inc then
    let s := s.catchAll.writeTs x a (clean bs)
    let s := match sem with | some n => s.signalOwn x inc n s.cclk | none => s
    s.endWork x inc s.cclk
  else s

end Sys2Proof.Machine
end

