-- ==== Sys2Proof/Machine/ShunterEntries.lean ====
section
/-! DEFINITION. The issue of shunter descriptors, their completion, and the delivery of a walk to a port (05 R140 to R143,
R150). -/
namespace Sys2Proof.Machine

/-- The shunter takes no descriptor in cycle `c` (R131). -/
def ShuntUnit.full (u : ShuntUnit) (c : Nat) : Bool := decide (4 ≤ u.queue.length) || u.acceptAt == some c

/-- A descriptor enters a shunter's queue in cycle `c`. -/
def State.shunterQueue (s : State) (core n : Nat) (d : Desc) (c : Nat) : State :=
  s.setShunter core n { s.shunter core n with queue := (s.shunter core n).queue ++ [d], acceptAt := some c }

/-- A shunter takes a sound descriptor and begins it where it may; the others are a fault of the core, found in this cycle
(R131, R141, R150). -/
def State.shunterTake (s : State) (core k : Nat) (d : Desc) (c : Nat) : State :=
  if s.shunterMalformed d then s.coreFault k 1 d.stag
  else if d.dsp = 4 ∧ s.pathCredits k d.hops d.down = 0 then s.coreFault k 5 d.stag
  else if s.shunterStray d then s.coreFault k 2 d.stag
  else ((((s.catchUp).shunterQueue core d.shn d c).goOn k c).beginNext core d.shn).tidy c

/-- The descriptor of a fetched entry of a shunter. -/
def shuntDesc (k : Nat) (x : Ctx) (c : Nat) (ws : List Nat) : Desc := { ctx := k, inc := x.inc, ws := ws, at_ := c, entry := x.entry }

/-- An entry of shunter `n`. -/
def forShunter (n : Nat) : Fetched → Bool := isOp 0x30 (fun w => bits w 10 8 == n)

/-- A shunter descriptor is issued, unless its shunter has no room or serves a lower slot in this cycle (R126). -/
def State.shunterEntry (core : Nat) (s : State) (k : Nat) (x : Ctx) (e : Fetched) : State :=
  let d := shuntDesc k x s.cclk e.words
  if (s.shunter core d.shn).full s.cclk || s.lowerFirst core (x.slot.getD 0) (forShunter d.shn) then s
  else (s.countIssue k x).shunterTake core k d s.cclk

/-- A shunter descriptor whose GATH and SCAT pass `t` is issued. -/
def State.shunterIssue (s : State) (core slot : Nat) (t : Bool → Bool → Bool) : State :=
  s.issue core slot (isOp 0x30 (fun w => t (bit w 34) (bit w 35))) (State.shunterEntry core)

/-! Ports (R143, R224). -/

/-- A record with its poison marks arrives at port `p` from a context of a core. A poisoned one is dropped and counted
(07 R224); the top-k unit is asked for room before a record leaves for it. -/
def State.recordArrives (s : State) (core p k inc : Nat) (xs : List Marked) : State :=
  let bs := xs.map Prod.fst
  if xs.any (fun x => x.2) then s.count 0x2902 0x0C
  else if p = 0x00 then s.routeRec s.sclk core (s.jobDom (ctxJob k)) (fireRec bs)
  else if within p 0x20 0x2B then s.sccPort (p - 0x20) k inc bs
  else if p = 0x30 then (s.topkArrive core k inc bs).getD s
  else if p = 0x31 then s.enrolRecord bs
  else if p = 0x32 then s.batchRecord k inc bs
  else if p = 0x33 then s.intakePort (ctxJob k) bs
  else s

/-- Records are taken by the top-k unit in order while it has room; the bytes that remain. -/
def State.topkRecords (core : Nat) (d : Desc) : Nat → State → List Marked → State × List Marked
  | 0, s, xs => (s, xs)
  | m + 1, s, xs =>
    if xs.length < 32 then (s, xs)
    else if (s.topk core).queue.length < 4 ∨ (xs.take 32).any (fun x => x.2) = true then
      State.topkRecords core d m (s.recordArrives core 0x30 d.ctx d.inc (xs.take 32)) (xs.drop 32)
    else (s, xs)

/-- The walk `xs` of a descriptor is delivered to its port; the answer holds the bytes that have not been taken, if the port
has no room yet. -/
def State.deliverPort (s : State) (core : Nat) (d : Desc) (xs : List Marked) : State × Option (List Marked) :=
  if within d.port 0x10 0x1F then (s.acceptResult (d.port - 0x10) xs, none)
  else
    let sz := (portRecord d.port).getD 32
    let r := if d.port = 0x30 then State.topkRecords core d (xs.length / 32) s xs
      else (s.sendRecords core s.cclk d xs, (wholeRecords sz xs).2)
    let s := r.1
    if sz ≤ r.2.length then (s, some r.2)
    else (if r.2.isEmpty then s else s.count 0x2901 0x0E, none)

/-- A descriptor has been copied whole and is visible in cycle `c`: bytes are counted, the semaphore is signalled. -/
def State.shunterDone (s : State) (core : Nat) (d : Desc) (c : Nat) : State :=
  let s := s.addKB (kCore core 9) (d.runs * d.run)
  let s := if d.sdone then s.signalOwn d.ctx d.inc d.ssem c else s
  s.endWork d.ctx d.inc c

/-- The oldest descriptor of a shunter that has made its last write completes once its cycle has come. -/
def State.shunterFinish (s : State) (core n : Nat) (f : Done) : State :=
  if f.at_ ≤ s.cclk then
    let u := s.shunter core n
    let s := s.setShunter core n { u with finish := u.finish.drop 1 }
    (if f.desc.dsp = 5 then (s.deliverPort core f.desc f.stream).1 else s).shunterDone core f.desc f.at_
  else s

/-- The head of a shunter whose index strayed stops: the runs before are copied whole, and the context faults (R141). -/
def State.shunterStops (s : State) (core n : Nat) (d : Desc) : State :=
  (s.copyRest core n s.cclk d).coreFaultAt d.ctx 2 d.stag d.entry

/-- The head of a shunter whose timing is not fixed has been copied in the present cycle, as far as a port has taken it. -/
def State.shunterCopied (s : State) (core n : Nat) (d : Desc) : State :=
  let s := s.copyRest core n s.cclk d
  let u := s.shunter core n
  if u.stray.isSome ∧ u.parts < d.total then s.coreFaultAt d.ctx 2 d.stag d.entry
  else
    let s := if d.ssp = 3 ∨ d.dsp = 3 then { s with extOpen := true } else s
    let r := if d.dsp = 5 then s.deliverPort core d (s.shunter core n).stream else (s, none)
    let s := r.1
    match r.2 with
    | none =>
      let u := s.shunter core n
      ((s.setShunter core n { queue := u.queue.drop 1, start := s.cclk + 1, sent := u.sent, finish := u.finish
                              acceptAt := u.acceptAt }).shunterDone core d s.cclk).beginNext core n
    | some xs => s.setShunter core n { s.shunter core n with stream := xs }

end Sys2Proof.Machine
end

