-- ==== Sys2Proof/Machine/Restart.lean ====
section
/-! DEFINITION. Restart validation: the checks that START makes of a function's own objects, against other functions, and
the placing of its resources (16 R413, R414, and the rules of each chapter that it names). -/
namespace Sys2Proof.Machine

/-- A refusal: its abort code and the object that it names (16 Table 16-12, R415). -/
structure Abort where
  code : Nat
  ix   : Nat
  sub  : Nat
  deriving DecidableEq, Repr

/-- Inconsistent configuration: 0800 00A0h, naming an entry by its key. -/
def inconsistent (k : Nat) : Abort := ⟨0x080000A0, k / 256, k % 256⟩
/-- Resource that cannot be satisfied: 0800 00A2h. -/
def unsatisfied (k : Nat) : Abort := ⟨0x080000A2, k / 256, k % 256⟩

/-- The first condition of a list that holds names the refusal. -/
def firstBad : List (Bool × Nat) → Option Abort
  | [] => none
  | (b, k) :: t => if b then some (inconsistent k) else firstBad t

/-- A function counts as present beside the one validated: RUNNING, STOPPING, or a member of the same set command. -/
def State.beside (s : State) (set : List Nat) (f : Nat) : Bool := s.active f || set.contains f

/-! Line domains (02 R44, R52, Tables 2-3 to 2-5, 2-10; 15 R398). -/

/-- An encoder configuration holds a reserved encoding (Table 2-3). -/
def encReserved (v : Nat) : Bool := bits v 7 6 == 3 || decide (2 ≤ bits v 5 4) || decide (5 ≤ bits v 2 0)

/-- Own objects of domain `d`. -/
def State.domainOwn (s : State) (d : Nat) : Option Abort :=
  let cfg := s.reg (key (0x2108 + d) 1)
  let src := bits cfg 2 0
  let enc := decide (src < 4)
  (firstBad [(enc && encReserved (s.reg (key (0x2100 + src) 1)), key (0x2100 + src) 1),
             (src == 5 || src == 6 || decide (8 < bits cfg 11 8), key (0x2108 + d) 1),
             (src == 4 && decide (s.reg (key (0x2108 + d) 4) < 25 * 65536), key (0x2108 + d) 4)]).or <|
  (firstBad ((upTo 64).map (fun w =>
    (s.winDom w == d && !evValid s.grade (s.field' (key (0x2140 + w) 1) 12 3), key (0x2140 + w) 1)))).or <|
  (firstBad ((upTo 16).map (fun t =>
    let c := s.timerCfg t
    (bits c 28 27 == d && (bits c 31 30 == 3 || !evValid s.grade (bits c 19 10) || !evValid s.grade (bits c 9 0)),
     key 0x2180 (1 + t))))).or <|
  firstBad [(enc && s.bit' (key 0x2640 0x18) src, key 0x2640 0x18)]

/-- Every sensor stream, job and output group of a domain is STOPPED or OFF (R44). Functions that start together with it
are, as the barrier start of 10 Table 10-8 shows. -/
def State.domainQuiet (s : State) (d : Nat) : Bool :=
  allFns.all (fun f =>
    let mine := match fnOf f with
      | some (.stream p) => s.streamDom p == d
      | some (.job j) => s.jobDom j == some d
      | some (.group g) => s.groupDom g == d
      | _ => false
    !mine || s.idle f)

/-- Job `j` belongs to another domain than `d`. -/
def State.foreign (s : State) (j d : Nat) : Bool := match s.jobDom j with | some x => x != d | none => false

/-- Domain `d` against other functions: its preset load, and its compare channels that signal jobs. -/
def State.domainOthers (s : State) (set : List Nat) (d : Nat) : Option Abort :=
  (firstBad [(s.bit' (key (0x2108 + d) 1) 7 && !s.domainQuiet d, key (0x2108 + d) 3)]).or <|
  firstBad ((upTo 32).map (fun n =>
    let c := s.reg (key (0x2120 + n) 1)
    let j := bits c 10 5
    (bits c 1 0 == d && bit c 4 && s.beside set (fJob j) && s.foreign j d, key (0x2120 + n) 1)))

/-! Sensor streams (02 R51, Table 2-7; 11 R305, R321; 12 R351; 07 R213). -/

/-- Defect entries rise strictly and lie within parts of the line, or within the frame. -/
def State.defectsOk (s : State) (q : Nat) : Bool :=
  let ds := defects (s.dom (kIfe q 9))
  let ys := if s.frameMode q then s.reg (kPort q 3) else s.partCount q
  let xs := if s.frameMode q then s.wo q else s.wp q
  decide (ds.length ≤ 16384) && ds.all (fun e => decide (e.1 < ys) && decide (e.2 < xs)) &&
  (ds.zip (ds.drop 1)).all (fun e => decide (e.1.1 < e.2.1) || (e.1.1 == e.2.1 && decide (e.1.2 < e.2.2)))

/-- Own objects of stream `q`, in ascending index. -/
def State.streamOwn (s : State) (q : Nat) : Option Abort :=
  let t := s.reg (key (0x2190 + q) 1)
  let c := s.reg (kPort q 1)
  let i := s.reg (kIfe q 1)
  let frame := s.frameMode q
  let pat := s.pat q
  let gang := decide (1 < s.gangSize q)
  let nrow := s.nrow q
  (firstBad [(bit t 9 && s.winDom (bits t 15 10) != s.streamDom q, key (0x2190 + q) 1),
             (decide (s.reg (key (0x2190 + q) 2) ≤ s.reg (key (0x2190 + q) 3)), key (0x2190 + q) 3),
             (s.reg (key (0x2190 + q) 4) == 0, key (0x2190 + q) 4)]).or <|
  (firstBad [(bits c 23 22 == 3 || bits c 21 20 == 3 || bits c 19 18 == 3 || decide (5 ≤ bits c 15 12) ||
              decide (q % s.gangSize q ≠ 0) || decide (gPorts s.grade < q + s.gangSize q), kPort q 1),
             (decide (s.reg (kPort q 8) < s.reg (kPort q 7)), kPort q 7)]).or <|
  firstBad [(decide (6 ≤ pat) || bits i 18 17 == 3 || (within pat 1 4 && !frame) || (pat == 5 && frame) ||
             (decide (1 < nrow) && pat != 5) || (pat == 5 && nrow == 1) ||
             (gang && s.gdist q == 2 && nrow != s.gangSize q) ||
             (s.split q && (gang || decide (s.partWidth q % nrow ≠ 0))) ||
             (s.ffc q == 2 && !frame) || (bit i 19 && pat != 4), kIfe q 1),
            (s.ofmt q == 3, kIfe q 2),
            (decide (s.reg (kIfe q 3) % s.blockLen q ≠ 0) || decide (s.reg (kIfe q 3) < 2 * s.blockLen q), kIfe q 3),
            ((upTo 4).any (fun k => s.rowDelay q k != 0 && (frame || decide (nrow ≤ k))), kIfe q 4),
            (s.ffc q != 0 && (s.dom (kIfe q 8)).length != s.ffcBytes q, kIfe q 8),
            (!s.defectsOk q, kIfe q 9)]

/-- A member of stream `q`'s block group differs in DOM, MODE, block length, pitch or phase (R321). -/
def State.groupDiffers (s : State) (set : List Nat) (q : Nat) : Bool :=
  let sig := s.reg (kPort q 5)
  bit sig 13 && (upTo 36).any (fun p =>
    p != q && s.beside set (fStream p) && (s.reg (kPort p 5)) % 4096 == sig % 4096 && s.bit' (kPort p 5) 13 &&
    (s.streamDom p != s.streamDom q || s.frameMode p != s.frameMode q || s.blockLen p != s.blockLen q ||
     s.reg (key (0x2190 + p) 2) != s.reg (key (0x2190 + q) 2) || s.reg (key (0x2190 + p) 3) != s.reg (key (0x2190 + q) 3)))

/-- Stream `q` against other functions. -/
def State.streamOthers (s : State) (set : List Nat) (q : Nat) : Option Abort :=
  let sig := s.reg (kPort q 5)
  firstBad [((s.gangPorts q).any (fun p => p != q && s.fn (fStream p) != .off), kPort q 1),
            ((bit sig 12 && s.foreign (bits sig 11 6) (s.streamDom q)) || s.groupDiffers set q, kPort q 5),
            (s.reg (key 0x2500 0x27) == 1, key 0x2500 0x27)]

/-! Intake streams (13 R371). -/

/-- Intake stream `i`. -/
def State.intakeOwn (s : State) (i : Nat) : Option Abort :=
  let c := s.reg (kIn i 1)
  let crop := bit c 18 || bit c 16
  let sig := s.reg (kIn i 7)
  firstBad [(bits c 1 0 == 3 || bits c 23 22 == 3 || decide (13 ≤ bits c 15 12) || (bit c 18 && bit c 17) ||
             (bit c 18 && bits c 15 12 == 0), kIn i 1),
            (decide (s.reg (kIn i 5) < s.variants i), kIn i 5),
            (bit sig 12 && s.foreign (bits sig 11 6) (s.inDom i), kIn i 7),
            (crop && (s.cropW i == 0 || s.cropH i == 0), kIn i 0x0D)]

/-! Output groups (14 R388). -/

/-- Two spans of at least one place overlap. -/
def spansMeet (a n b m : Nat) : Bool := decide (a < b + m) && decide (b < a + n)

/-- Own objects of group `g`. -/
def State.groupOwn (s : State) (g : Nat) : Option Abort :=
  firstBad [(decide (2 ≤ s.groupTgt g), kGroup g 1),
            (if s.groupTgt g = 1 then decide (16 < s.tBase g + s.vcnt g)
             else decide (s.frameLen (s.groupCh g) < s.tBase g + s.vcnt g), kGroup g 4)]

/-- Group `g` against other groups: machine valves, then outputs. -/
def State.groupOthers (s : State) (set : List Nat) (g : Nat) : Option Abort :=
  let os := (upTo 16).filter (fun h => h != g && s.beside set (fGroup h))
  firstBad [(os.any (fun h => spansMeet (s.mvBase g) (s.vcnt g) (s.mvBase h) (s.vcnt h)), kGroup g 3),
            (os.any (fun h => s.groupTgt g == s.groupTgt h && (s.groupTgt g == 1 || s.groupCh g == s.groupCh h) &&
              spansMeet (s.tBase g) (s.vcnt g) (s.tBase h) (s.vcnt h)), kGroup g 5)]

/-! Network ports (18 R456, Table 18-3). -/

/-- A netmask is contiguous: ones above zeros. -/
def contiguous (m : Nat) : Bool := (upTo 33).any (fun n => m == 2 ^ 32 - 2 ^ n)

/-- Own objects of port `p`. -/
def State.netOwn (s : State) (p : Nat) : Option Abort :=
  let lanes := (netLanes p).map (fun l => (!(upTo 8).any (s.candValid l), kCand l 0))
  if p < 2 then
    let c := s.reg (kNet p 1)
    (firstBad ([(bit c 0 && bit c 1, kNet p 1), (s.reg (kNet p 3) == 0, kNet p 3),
                (!contiguous (s.reg (kNet p 4)), kNet p 4), (!within (s.reg (kNet p 7)) 1500 9000, kNet p 7)] ++
      (upTo 8).map (fun i =>
        let r := s.reg (kNet p (0x20 + i))
        (decide (2 ≤ bits r 1 0) || (bit r 2 && bits r 1 0 == 0 && bits r 63 32 == 0), kNet p (0x20 + i))) ++ lanes))
  else firstBad lanes

/-! Jobs (00 R7, 05 R156, 08 R230, 09 R248, R249, R275, 10 R288). -/

/-- The cores of partition `p` in ring order from the start of their run; none if they are not consecutive. -/
def State.coreRun (s : State) (p : Nat) : Option (List Nat) :=
  let n := s.cores
  let cs := s.partCores p
  if cs.isEmpty ∨ cs.length = n then some cs
  else match cs.filter (fun c => !cs.contains ((c + n - 1) % n)) with
    | [a] => some ((upTo cs.length).map (fun i => (a + i) % n))
    | _ => none

/-- The cores of a job's lanes (R249): from BASE around the run. -/
def State.laneCores (s : State) (j : Nat) : List Nat :=
  let c := s.reg (kJob j 1)
  match s.coreRun (bits c 2 0) with
  | some cs => (cs.dropWhile (· != bits c 8 6) ++ cs.takeWhile (· != bits c 8 6)).take (ozjLanes (s.image j))
  | none => []

/-- Arrays present on cores. -/
def State.arraysOn (s : State) (cs : List Nat) : Nat :=
  cs.foldl (fun t c => t + b2n (gArray s.grade (2 * c)) + b2n (gArray s.grade (2 * c + 1))) 0

/-- Own objects of job `j`: reserved codes, the image, the grade's counts. -/
def State.jobOwn (s : State) (j : Nat) : Option Abort :=
  let c := s.reg (kJob j 1)
  let img := s.image j
  (firstBad [(decide (6 ≤ bits c 8 6) || decide (6 ≤ bits c 2 0), kJob j 1)]).or <|
  if !ozjValid img then some ⟨0x080000A3, 0x2510 + j, 2⟩
  else if s.cores < ozjLanes img then some (unsatisfied (key 0x2000 3))
  else if gArrays s.grade < ozjArrays img then some (unsatisfied (key 0x2000 4))
  else none

/-- Job `j` against other functions and the module's modes. -/
def State.jobOthers (s : State) (set : List Nat) (j : Nat) : Option Abort :=
  let c := s.reg (kJob j 1)
  let img := s.image j
  let d := ozjDomain img
  let cs := s.laneCores j
  (firstBad [(bit (ozjFlags img) 0 && s.reg (key 0x2010 1) == 0, key 0x2010 1)]).or <|
  (firstBad ((upTo 32).map (fun n =>
    let x := s.reg (key (0x2120 + n) 1)
    (bit x 4 && bits x 10 5 == j && bits x 1 0 != d && s.beside set (fDomain (bits x 1 0)), key (0x2120 + n) 1)))).or <|
  (firstBad ((upTo 36).map (fun p =>
    let x := s.reg (kPort p 5)
    (bit x 12 && bits x 11 6 == j && s.streamDom p != d && s.beside set (fStream p), kPort p 5)))).or <|
  (firstBad [((s.coreRun (bits c 2 0)).isNone, key 0x2500 1),
             (!(s.partCores (bits c 2 0)).contains (bits c 8 6) ||
              decide ((s.partCores (bits c 2 0)).length < ozjLanes img) ||
              decide (s.arraysOn cs < ozjArrays img), kJob j 1),
             (!s.modelThere j, kJob j 2)]).or <|
  (firstBad ((upTo 16).map (fun i =>
    let x := s.reg (kIn i 7)
    (bit x 12 && bits x 11 6 == j && s.inDom i != d && s.beside set (fIntake i), kIn i 7)))).or <|
  firstBad ((ozjBanks img).map (fun b => (!s.bankReady b, key (0x2B00 + b) 5)))

/-! Resources (07 R210 to R214, 09 R255, R275, 13 R363, 18 R455). -/

/-- A place of `n` bytes in external memory above the model store (09 R255, R212). -/
def State.extPlace (s : State) (n : Nat) : Option Nat := lowestFit s.extUsed s.storeEnd extBytes n

/-- Place an allotment of `n` bytes; on failure the pool's size subindex is named. -/
def State.needAllot (s : State) (pool owner n sub : Nat) : Except Abort State :=
  if n = 0 then .ok s
  else match s.allot pool owner (roundUp n kb64) with
    | some t => .ok t
    | none => .error (unsatisfied (key 0x2500 sub))

/-- Working stack memory of a job: an allotment, or in wide mode part of the wide areas (R214). What an armed barrier holds
for the job stays. -/
def State.placeWorking (s : State) (j : Nat) : Except Abort State :=
  let n := ozjWorking (s.image j)
  if (s.allotOf (ownJob j)).isSome then .ok s
  else if s.reg (key 0x2500 0x27) = 1 then
    if 2 ^ 25 < n then .error (unsatisfied (key 0x2500 0x22)) else .ok s
  else s.needAllot 2 (ownJob j) n 0x22

/-- Halo channels of a job whose image relocates to them: the size is the image's, in a field that the spec does not give
(log 31). -/
def State.placeHalo (s : State) (j : Nat) : Except Abort State :=
  if (s.allotOf (ownHalo j)).isSome then .ok s else s.needAllot 3 (ownHalo j) (ozjHalo (s.image j)) 0x23

/-- The external region of a job. -/
def State.placeRegion (s : State) (j : Nat) : Except Abort State :=
  let n := ozjExternal (s.image j) * 2 ^ 20
  if n = 0 ∨ (tfind s.regions j).isSome then .ok s
  else match s.extPlace n with
    | some b => .ok ({ s with regions := tput s.regions j (b, n) }.setReg (kJob j 9) b)
    | none => .error (unsatisfied (kJob j 2))

/-- The cache entries of a job. -/
def State.placeEntries (s : State) (set : List Nat) (j : Nat) : Except Abort State :=
  match s.placeJob set j with
  | some t => .ok t
  | none => .error (unsatisfied (key 0x2500 0x21))

/-- A buffer of external memory whose base a register shows; on failure the entry that sizes it is named. -/
def State.placeBuffer (s : State) (base size named : Nat) : Except Abort State :=
  match s.extPlace size with
  | some b => .ok (s.setReg base b)
  | none => .error (unsatisfied named)

/-- Place what a function of a set needs, in the order stack memory, external memory, model cache (R413 stage 3). -/
def State.placeFor (s : State) (set : List Nat) (f : Nat) : Except Abort State :=
  match fnOf f with
  | some (.stream q) => s.needAllot 0 (ownStream q) ((s.areaSizes q).foldl (· + ·) 0) 0x20
  | some (.intake i) =>
    let t := s.setReg (kIn i 0x13) (s.slotSize i)
    t.placeBuffer (kIn i 0x12) (t.ringBytes i) (kIn i 5)
  | some (.job j) =>
    match s.placeWorking j with
    | .error a => .error a
    | .ok t =>
      match t.placeHalo j with
      | .error a => .error a
      | .ok t =>
        match t.placeRegion j with
        | .error a => .error a
        | .ok t => t.placeEntries set j
  | some (.net 2) => s.placeBuffer (kLink 5) (s.reg (kLink 2) * s.reg (kLink 3)) (kLink 2)
  | some (.net n) =>
    match s.placeBuffer (kNet n 0x0D) (s.reg (kNet n 8) * 2 ^ 20) (kNet n 8) with
    | .error a => .error a
    | .ok t => t.placeBuffer (kNet n 0x0E) (t.reg (kNet n 9) * 2 ^ 20) (kNet n 9)
  | _ => .ok s

/-- Give back what `placeFor` placed for a function that does not start after all. -/
def State.unplace (s : State) (f : Nat) : State :=
  match fnOf f with
  | some (.stream q) => s.unallot (ownStream q)
  | some (.intake i) => s.setReg (kIn i 0x12) 0
  | some (.job j) => ({ (s.unallot (ownJob j)).unallot (ownHalo j) with regions := terase s.regions j }).setReg (kJob j 9) 0
  | some (.net 2) => s.setReg (kLink 5) 0
  | some (.net n) => (s.setReg (kNet n 0x0D) 0).setReg (kNet n 0x0E) 0
  | _ => s

/-! The three stages (R413). -/

/-- Stage 1. -/
def State.checkOwn (s : State) (f : Nat) : Option Abort :=
  match fnOf f with
  | some (.domain d) => s.domainOwn d
  | some (.stream q) => s.streamOwn q
  | some (.intake i) => s.intakeOwn i
  | some (.job j) => s.jobOwn j
  | some (.group g) => s.groupOwn g
  | some (.net n) => s.netOwn n
  | none => none

/-- Stage 2, with wide mode (R213) and the sizes of the pools, which every restart checks (R211). -/
def State.checkOthers (s : State) (set : List Nat) (f : Nat) : Option Abort :=
  let own := match fnOf f with
    | some (.domain d) => s.domainOthers set d
    | some (.stream q) => s.streamOthers set q
    | some (.intake _) => firstBad [(s.reg (key 0x2500 0x27) == 1, key 0x2500 0x27)]
    | some (.job j) => s.jobOthers set j
    | some (.group g) => s.groupOthers set g
    | _ => none
  own.or (firstBad [(decide (512 < (upTo 6).foldl (fun t i => t + s.poolMB i) 0) || decide (384 < s.poolMB 1),
                     key 0x2500 0x20)])

/-- A function passes the three stages, and its resources are placed; `set` lists the members of a set command. -/
def State.validate (s : State) (set : List Nat) (f : Nat) : Except Abort State :=
  match (s.checkOwn f).or (s.checkOthers set f) with
  | some a => .error a
  | none => s.placeFor set f

/-- The functions of a list pass in order, each with the resources of those before it placed. -/
def State.validateAll (set : List Nat) : List Nat → State → Except Abort State
  | [], s => .ok s
  | f :: fs, s =>
    match s.validate set f with
    | .error a => .error a
    | .ok t => State.validateAll set fs t

end Sys2Proof.Machine
end

