-- ==== Sys2Proof/Machine/Sensor.lean ====
section
/-! DEFINITION. What happens at the sensor ports: line and frame starts and ends, stream faults, deskew, and streams that
enter or stop (11 R308 to R322). -/
namespace Sys2Proof.Machine

/-- A line start of port `p` counts for its stream and forms the tag vector; in a gang the lowest port counts (R331,
R332). -/
def State.countLineStart (s : State) (q p : Nat) : State :=
  if p = q then
    (((s.incReg (kPort q 0x0F)).setPort q { s.port q with lineAt := some s.sclk })).formTags q
  else s

/-- A line start registered on a port of a RUNNING stream (R311, R315, R317). -/
def State.lineStarts (s : State) (q p : Nat) (fval : Bool) : State :=
  let s := s.countLineStart q p
  let tags := s.reg (kPort q 0x10)
  if s.frameMode q then
    match (s.port p).frame with
    | none => s.addReg (kPort q 0x13) 1
    | some f =>
      let s' := s.setPort p { s.port p with frame := some { f with rows := f.rows + 1, tags := tags } }
      if !f.taken then s'
      else if s.reg (kPort q 3) ≤ f.rows then s'.addReg (kPort q 0x13) 1
      else s'.setPort p { s'.port p with line := some { stamp := f.stamp, row := f.rows, tags := tags } }
  else if s.bit' (kPort q 1) 9 && !fval then s.addReg (kPort q 0x13) 1
  else
    match s.pairStart q p with
    | (some v, s) => s.setPort p { s.port p with line := some { stamp := v, row := 0, tags := tags } }
    | (none, s) => s.dropUntriggered q

/-- The line in progress on port `p` ends (R309, R311, R312): the event and the part, short, long or cut as it is. -/
def State.lineEnds (s : State) (q p : Nat) (l : CurLine) (edges : List (BitVec 4)) (ovf : Option Nat) : State :=
  let px := s.received q edges
  let w := s.partWidth q
  let s := s.setPort p { s.port p with line := none }
  let s := if s.running (fStream q) then s.raise (evLine p) else s
  let (n, reason) := match ovf with
    | some i => (min i w, 5)
    | none => if px.length < w then (px.length, 3) else (w, 0)
  let s := match ovf with
    | some _ => (s.setBit (kPort p 0x0C) 11 true).countIn (s.streamDom q) 0x2903 1 p
    | none => s
  let s := if reason = 3 then s.countIn (s.streamDom q) 0x2903 3 else s
  let s := if w < px.length then s.countIn (s.streamDom q) 0x2903 4 else s
  s.deliver q p { stamp := l.stamp, row := l.row, reason := reason, tags := l.tags, pixels := s.padLine q n px }

/-- A frame start on a port of a RUNNING stream in FRAME mode (R311, R315, R331). -/
def State.frameStarts (s : State) (q p : Nat) : State :=
  let s := if p = q then
    (s.incReg (kPort q 0x0E)).setPort q { s.port q with frameAt := some s.sclk } else s
  match s.pairStart q p with
  | (some v, s) => s.setPort p { s.port p with frame := some { taken := true, stamp := v, rows := 0, tags := s.reg (kPort q 0x10) } }
  | (none, s) =>
    (s.dropUntriggered q).setPort p { s.port p with frame := some { taken := false, stamp := 0, rows := 0, tags := s.reg (kPort q 0x10) } }

/-- A short frame's missing rows become fill lines of reason 4; short and long frames are counted (R313). -/
def State.frameEnds (s : State) (q p : Nat) (f : CurFrame) : State :=
  let h := s.reg (kPort q 3)
  let s := s.setPort p { s.port p with frame := none }
  let k := kPort q 0x14
  if !f.taken then s
  else if f.rows < h then
    let s := if p = q then s.setField k 15 0 (satAdd 16 (s.field' k 15 0) 1) else s
    forEach (upTo (h - f.rows)) s (fun i s =>
      s.deliver q p { stamp := f.stamp, row := f.rows + i, reason := 4, tags := f.tags, pixels := s.fillPixels q })
  else if h < f.rows && p == q then s.setField k 31 16 (satAdd 16 (s.field' k 31 16) 1)
  else s

/-- A stream faults (R322): its queues are gone, its function is FAULTED. -/
def State.streamFaults (s : State) (q : Nat) : State :=
  (forEach (s.gangPorts q) s (fun p s =>
    (s.setPort p { s.port p with queue := [], line := none, frame := none }).showPend p)).enterFaulted (fStream q)

/-! Deskew (R310). -/

/-- The longest run of passing taps: start and length; the lowest of equals. -/
def longestRun : List Bool → Nat → Nat × Nat → Nat × Nat → Nat × Nat
  | [], _, cur, best => if best.2 < cur.2 then cur else best
  | b :: bs, i, cur, best =>
    if b then longestRun bs (i + 1) (if cur.2 = 0 then (i, 1) else (cur.1, cur.2 + 1)) best
    else longestRun bs (i + 1) (0, 0) (if best.2 < cur.2 then cur else best)

/-- One pair's delay after a deskew: the centre of its longest run of 20 taps or more, rounded down. -/
def State.deskewPair (s : State) (p i : Nat) (taps : List Bool) : State :=
  let r := longestRun (taps.take 128) 0 (0, 0) (0, 0)
  if r.2 < 20 then s.setBit (kPort p 0x0C) 13 true
  else s.setField (kPort p 9) (8 * i + 6) (8 * i) ((2 * r.1 + r.2 - 1) / 2)

/-! Starting and stopping (R322). -/

/-- A stream enters RUNNING: queues, lines and counts start empty; tags and tracked tags stay. -/
def State.streamEnters (s : State) (q : Nat) : State :=
  let s := forEach (s.gangPorts q) s (fun p s =>
    (s.setPort p { s.port p with queue := [], line := none, frame := none, fifo := [], triggered := false,
                                 lineAt := none, frameAt := none, tracks := [], stopAt := none }).showPend p)
  let s := (s.setReg (kPort q 0x0E) 0).setReg (kPort q 0x0F) 0
  let s := forEach (s.gangPorts q) s (fun p s => s.setTrig p {})
  s.setFn (fStream q) .running

/-- A stream enters STOPPING: the queues are discarded; a line in progress is completed, and the missing rows of a
frame in progress are filled. -/
def State.streamStopping (s : State) (q : Nat) : State :=
  let s := s.setFn (fStream q) .stopping
  forEach (s.gangPorts q) s (fun p s =>
    let u := s.port p
    let s := (s.setPort p { u with queue := [], stopAt := some s.sclk }).showPend p
    match u.frame, u.line with
    | some f, none => s.frameEnds q p f
    | _, _ => s)

end Sys2Proof.Machine
end

