-- ==== Sys2Proof/Machine/Functions.lean ====
section
/-! DEFINITION. Functions and their states: the commands of Table 16-4, set commands, refusals and where they are recorded,
entering and leaving RUNNING (16 R410 to R417). -/
namespace Sys2Proof.Machine

/-- OWNER code of a route (Table 16-3). -/
def routeCode : Route → Nat
  | .ethercat => 1
  | .hostPort => 2

/-- What a write or command answers: the state, its refusal if it is refused, and what its response waits for. -/
structure Reply where
  s     : State
  no    : Option Abort := none
  await : Await := .ready

/-- Record a refusal for a route (R415): `cmd` is the subindex of 2020h commanded, FFh for a set command, 00h for none. -/
def State.noteRefusal (s : State) (r : Route) (a : Abort) (cmd : Nat) : State :=
  s.setReg (key 0x2020 (match r with | .ethercat => 0xF0 | .hostPort => 0xF1))
    (a.code * 2 ^ 32 + a.ix * 65536 + a.sub * 256 + cmd)

/-- Refuse with an abort. -/
def State.refuse (s : State) (r : Route) (a : Abort) (cmd : Nat) : Reply := { s := s.noteRefusal r a cmd, no := some a }

/-! Entering RUNNING. -/

/-- A job enters RUNNING in CCLK cycle `c` (09 R249, R261, R275, R277): its contexts start once its cache entries stand. -/
def State.jobEnters (s : State) (j c : Nat) : State :=
  let p := s.jobPart j
  let s :=
    if (s.partJobs p).any (fun i => s.active (fJob i)) then s
    else s.setPart p { origin := some c, lastAt := c, counts := s.hposCrossed (bits (s.sliceCfg p) 30 29) }
  let s := (((s.setFn (fJob j) .running).setReg (kJob j 6) 0xFFFFFFFF).setBit (kJob j 8) 31 false).setReg (kJob j 0x10) 0
  let s := (s.setReg (kJob j 0x11) 1).setReg (kJob j 0x12) 0
  let s := s.setJob j { cores := s.laneCores j, loading := !s.jobCached j }
  if (s.job j).loading then s else s.launch j c

/-- Function `f` enters RUNNING in SCLK cycle `n`, a job in CCLK cycle `c`. -/
def State.enterFn (s : State) (n c f : Nat) : State :=
  match fnOf f with
  | some (.domain d) => s.domainEnters d n
  | some (.stream q) => (s.ifeEnters q).streamEnters q
  | some (.intake i) => s.intakeEnters i
  | some (.job j) => s.jobEnters j c
  | some (.group g) => s.groupEnters g
  | some (.net p) => s.netEnters p
  | none => s

/-- SCLK cycle in which the next beat begins (10 R284). -/
def State.nextBeat (s : State) : Nat := s.alignS + 5 * ((s.sclk - s.alignS) / 5 + 1)

/-- A function waits for a preparatory copy: a stream for its flat-field table, a member of a set for its cache entries. -/
def State.preparing (s : State) (set : Bool) (f : Nat) : Bool :=
  match fnOf f with
  | some (.stream q) => (s.ife q).copying
  | some (.job j) => set && (s.job j).loading
  | _ => false

/-- Functions enter RUNNING now. -/
def State.enterNow (s : State) (fs : List Nat) : State :=
  forEach fs s (fun f s => (s.enterFn s.sclk s.cclk f).setPend f false)

/-- The functions of a launch enter RUNNING: a set at the start of the next beat (R417), a single one now. -/
def State.enterAll (s : State) (l : Launch) : State :=
  if l.set then s.opens s.nextBeat (.enter l.fns) else s.enterNow l.fns

/-- Launches whose copies are complete enter. -/
def State.tryLaunches (s : State) : State :=
  let go := s.launches.filter (fun l => !l.fns.any (s.preparing l.set))
  let s := { s with launches := s.launches.filter (fun l => l.fns.any (s.preparing l.set)) }
  forEach go s (fun l s => s.enterAll l)

/-- Begin the preparatory copies of a launch. -/
def State.prepare (s : State) (set : Bool) (f : Nat) : State :=
  let s := s.setPend f true
  match fnOf f with
  | some (.stream q) => if s.ffc q = 0 then s else s.setIfe q { s.ife q with copying := true }
  | some (.job j) => if set && !s.jobCached j then s.setJob j { cores := s.laneCores j, loading := true } else s
  | _ => s

/-- Validated functions start: at once, or after their copies. -/
def State.startAll (s : State) (set : Bool) (fs : List Nat) : State :=
  let s := forEach fs s (fun f s => s.prepare set f)
  let s := { s with launches := s.launches ++ [Launch.mk fs set] }
  s.tryLaunches

/-! Leaving RUNNING. -/

/-- Submissions that wait for an intake stream are discarded and counted (13 R371). -/
def State.discardWaiting (s : State) (i : Nat) : State :=
  forEach [0, 1, 2] s (fun p s =>
    forEach ((s.net p).ready.filter (fun m => m.cls == 1 && m.stream == i)) s (fun m s =>
      (s.dropReady p m).countIn (s.inDom i) 0x2903 0x0D))

/-- Function `f` enters STOPPING under its own rules. -/
def State.stopFn (s : State) (f : Nat) : State :=
  match fnOf f with
  | some (.domain d) => (s.setFn f .stopping).setDomain d { s.domain d with stopAt := some s.sclk }
  | some (.stream q) => s.streamStopping q
  | some (.intake i) => (s.setFn f .stopping).discardWaiting i
  | some (.job j) => (s.setFn f .stopping).orderLeave j s.cclk
  | some (.group g) => s.groupStopping g
  | some (.net p) => s.netStopping p
  | none => s

/-- The front end of a stopping stream has written what it had, or the pairing window has run out (11 R322). -/
def State.streamDrained (s : State) (q : Nat) : Bool :=
  (s.gangPorts q).all (fun p =>
    let u := s.port p
    (u.fifo.isEmpty && u.line.isNone && u.frame.isNone) ||
    (match u.stopAt with | some c => decide (c + s.reg (kPort q 8) ≤ s.sclk) | none => false))

/-- A STOPPING function completes its own rules and enters STOPPED; otherwise it stays as it is. -/
def State.finishStop (s : State) (f : Nat) : State :=
  match fnOf f with
  | some (.domain _) => s.setFn f .stopped
  | some (.stream q) => if s.streamDrained q then ((s.breakBlock q).ifeLeaves q).setFn f .stopped else s
  | some (.intake i) => if s.intakeDrained i then (s.intakeLeaves i).setFn f .stopped else s
  | some (.job j) => s.jobGone j
  | some (.group g) => if s.stopExpired g then s.stopOverdue g else if s.groupClosed g then s.groupStops g else s
  | some (.net p) => s.netStops p
  | none => s

/-! Commands (R410, R411, R416). -/

/-- The command codes of Table 16-3. -/
inductive FnCmd where
  | enable
  | disable
  | start
  | stop
  | clear
  | claim
  | release
  deriving DecidableEq, Repr

/-- The command of a CMD code; none for 0h and the codes that are refused. -/
def fnCmdOf (c : Nat) : Option FnCmd :=
  match c with
  | 1 => some .enable
  | 2 => some .disable
  | 3 => some .start
  | 4 => some .stop
  | 5 => some .clear
  | 6 => some .claim
  | 7 => some .release
  | _ => none

/-- CMD code of a command. -/
def FnCmd.code : FnCmd → Nat
  | .enable => 1
  | .disable => 2
  | .start => 3
  | .stop => 4
  | .clear => 5
  | .claim => 6
  | .release => 7

/-- Table 16-4 lists the command for a state. -/
def FnCmd.allowed (c : FnCmd) (x : FnState) : Bool :=
  match c with
  | .enable => x == .off
  | .disable => x == .stopped
  | .start => x == .stopped
  | .stop => x == .running || x == .stopping
  | .clear => x == .faulted
  | .claim => true
  | .release => true

/-- A function state is permitted in a power state (19 Table 19-2); FAULTED counts as RUNNING. -/
def permitted (power f : Nat) (x : FnState) : Bool :=
  let idle := x == .off || x == .stopped
  match power, fnOf f with
  | 0, _ => true
  | 1, some (.intake _) => idle
  | 1, some (.job _) => idle
  | 1, _ => true
  | 2, some (.domain _) => true
  | 2, some (.net _) => idle
  | _, _ => x == .off

/-- The power state that function commands obey: the target while a transition is in progress (19 R466). -/
def State.powerNow (s : State) : Nat := s.power.target.getD s.power.state

/-- The target forbids the state that a command leads to. -/
def State.powerForbids (s : State) (c : FnCmd) (f : Nat) : Bool :=
  match c with
  | .enable => !permitted s.powerNow f .stopped
  | .start => !permitted s.powerNow f .running
  | _ => false

/-- Checks 4 to 7 of R408 for a function command; the entry itself is named. -/
def State.checkCmd (s : State) (r : Route) (c : FnCmd) (f : Nat) : Option Abort :=
  let no := fun (code : Nat) => some (⟨code, 0x2020, f⟩ : Abort)
  if c = .enable ∧ !fnPresent s.grade f then no 0x06090030
  else if s.owner f ≠ 0 ∧ s.owner f ≠ routeCode r then no 0x080000A4
  else if s.pend f then no 0x080000A8
  else if !c.allowed (s.fn f) then no 0x08000022
  else if s.powerForbids c f then no 0x080000A7
  else none

/-- A restart that the lifecycle forbids: in RETIRED no job starts (19 Table 19-7). -/
def State.lifeForbids (s : State) (f : Nat) : Option Abort :=
  match fnOf f with
  | some (.job _) => if s.fuses.lifecycle = 3 then some ⟨0x080000A6, 0x2020, f⟩ else none
  | _ => none

/-- Validation of a START, with the lifecycle before it. -/
def State.passes (s : State) (fs : List Nat) : Except Abort State :=
  match fs.findSome? s.lifeForbids with
  | some a => .error a
  | none => State.validateAll fs fs s

/-- No function is FAULTED any more: the emergency with error code 0000h is due (20 R494). -/
def State.allClear (s : State) : State :=
  if s.anyFaulted then s else { s with emergencies := s.emergencies ++ [{ type := 0, what := 0 }] }

/-- The effect of an accepted command. -/
def State.doCmd (s : State) (r : Route) (c : FnCmd) (f : Nat) : Reply :=
  match c with
  | .enable => { s := s.setPend f true, await := .fn f }
  | .disable =>
    let s := s.setFn f .off
    match fnOf f with
    | some (.stream q) => { s := forEach (s.gangPorts q) s (fun p s =>
        (s.setBit (kPort p 0x0C) 15 false).setReg (kPort p 0x0D) 0) }
    | some (.net p) => { s := s.doze p }
    | _ => { s := s }
  | .start =>
    match s.passes [f] with
    | .error a => s.refuse r a f
    | .ok t => { s := t.startAll false [f], await := .fn f }
  | .stop => { s := if s.running f then s.stopFn f else s }
  | .clear => { s := (s.setFn f .stopped).allClear }
  | .claim => { s := s.setField (key 0x2020 f) 5 4 (routeCode r) }
  | .release => { s := s.setField (key 0x2020 f) 5 4 0 }

/-- A function command (R408, R410). -/
def State.fnCommand (s : State) (r : Route) (c : FnCmd) (f : Nat) : Reply :=
  match s.checkCmd r c f with
  | some a => s.refuse r a f
  | none => s.doCmd r c f

/-- A write to a function entry acts through CMD alone (Table 16-3). -/
def State.fnWrite (s : State) (r : Route) (f v : Nat) : Reply :=
  match bits v 11 8 with
  | 0 => { s := s }
  | c =>
    match fnCmdOf c with
    | some x => s.fnCommand r x f
    | none => s.refuse r ⟨0x06090030, 0x2020, f⟩ f

/-! Set commands (R417). -/

/-- The members of a set command and its kind; none for another length, code or member list. -/
def setMembers (data : Bytes) : Option (FnCmd × List Nat) :=
  let fs := (data.drop 1).map (fun b => b.toNat)
  let c := leAt data 0 1
  if within data.length 2 65 && (c == 3 || c == 4) && fs.all (fun f => (fnOf f).isSome) && decide fs.Nodup then
    some (if c = 3 then .start else .stop, fs)
  else none

/-- A set command. -/
def State.setCommand (s : State) (r : Route) (data : Bytes) : Reply :=
  match setMembers data with
  | none => s.refuse r ⟨0x06090030, 0x2020, 0xF2⟩ 0xFF
  | some (c, fs) =>
    match fs.findSome? (fun f => s.checkCmd r c f) with
    | some a => s.refuse r a 0xFF
    | none =>
      if c = .stop then { s := forEach fs s (fun f s => if s.running f then s.stopFn f else s) }
      else
        match s.passes fs with
        | .error a => s.refuse r a 0xFF
        | .ok t => { s := t.startAll true fs, await := .set fs }

end Sys2Proof.Machine
end

