-- ==== Sys2Proof/Machine/Barrier.lean ====
section
/-! DEFINITION. The barrier on MSYNC (10 R298 to R303). -/
namespace Sys2Proof.Machine

/-- The present beat, counted from the last alignment (10 R284). -/
def State.beat (s : State) : Nat := (s.sclk - s.alignS) / 5

/-- The CCLK count of R284, less the cycles of frames removed from all cores (10 R287). -/
def State.cclkCount (s : State) : Nat :=
  let n := if s.det then s.removedFrames 0 else 0
  s.ccount - s.limits.lost - (cyclesCut s.ccount n - cyclesCut (s.limits.upto - s.alignC) n)

/-- MPART. -/
def State.participant (s : State) : Bool := s.bit' (kLink 0x10) 0

/-- The functions in the masks: line domains, then jobs. -/
def State.masked (s : State) : List Nat :=
  ((upTo 4).filter (fun d => s.bit' (kLink 0x17) d)).map fDomain ++ ((upTo 64).filter (fun j => s.bit' (kLink 0x16) j)).map fJob

/-- The barrier protects the RWS objects of function `f` (R300). -/
def State.barrierHolds (s : State) (f : Nat) : Bool := s.barrier.armed && s.barrier.fns.contains f

/-- The armed state ends: MSYNC is held low again, and what was placed for functions that did not start is given back. -/
def State.endArmed (s : State) : State :=
  let s := forEach (s.barrier.fns.filter s.idle) s (fun f s => s.unplace f)
  { s with barrier := {} }

/-- The validation of ARM (R300). -/
def State.armCheck (s : State) : Except Abort State :=
  let fs := s.masked
  match fs.find? (fun f => s.fn f != .stopped) with
  | some f => .error ⟨0x08000022, 0x2020, f⟩
  | none =>
    if s.bit' (kLink 0x10) 2 ∧ !(upTo 64).all (fun j => s.idle (fJob j)) then .error ⟨0x08000022, 0x2730, 0x11⟩
    else match fs.findSome? s.lifeForbids with
      | some a => .error a
      | none => State.validateAll fs fs s

/-- ARM (R298, R300, R301). A module with MPART = 0 takes no part. -/
def State.arm (s : State) : Except Abort State :=
  let s := s.endArmed
  match s.armCheck with
  | .error a => .error a
  | .ok t =>
    if s.participant then
      let us := s.reg (kLink 0x13)
      let b : BarrierUnit := { armed := true, since := s.beat, fns := s.masked, due := if us = 0 then none else some (s.beat + 100 * us) }
      .ok ({ t with barrier := b }.setBit (kLink 0x14) 3 false)
    else .ok s

/-- The barrier command of 2730h.11h. -/
def State.barrierCommand (s : State) (r : Route) (v : Nat) : Reply :=
  match v with
  | 1 =>
    match s.arm with
    | .ok t => { s := t }
    | .error a => s.refuse r a 0
  | 2 => { s := s.endArmed }
  | _ => s.refuse r ⟨0x06090030, 0x2730, 0x11⟩ 0

/-- MSYNC has been high for the 100 beats before, as far as an armed participant can have let it. -/
def State.hundredHigh (s : State) : Bool :=
  s.barrier.armed && s.barrier.at_.isNone && decide (s.barrier.since + 100 ≤ s.beat)

/-- With REALIGN = 1 the counts become 0 in SCLK cycle `n`, CCLK cycle `c` (R302). -/
def State.realign (s : State) (n c : Nat) : State :=
  let s := { s with alignS := n, alignC := c, limits := { s.limits with lost := 0, upto := c, frozen := c } }
  (s.incReg (key 0x2010 6)).setBit (key 0x2010 2) 2 true

end Sys2Proof.Machine
end

