-- ==== Sys2Proof/Machine/Power.lean ====
section
/-! DEFINITION. Power states, power-on, reset sources, and limiting (19 R464 to R471, 20 R483 to R488, 21 R500, R501). -/
namespace Sys2Proof.Machine

/-- 2800h, subindex `sub`. -/
def kPower (sub : Nat) : Nat := key 0x2800 sub
/-- 29F0h, subindex `sub`. -/
def kReset (sub : Nat) : Nat := key 0x29F0 sub
/-- 2810h, subindex `sub`. -/
def kSec (sub : Nat) : Nat := key 0x2810 sub
/-- 2820h, subindex `sub`. -/
def kDebug (sub : Nat) : Nat := key 0x2820 sub

/-! Reset (R487, R488). -/

/-- Default debug level of a lifecycle (19 Table 19-13). -/
def defaultLevel (lc : Nat) : Nat := if lc = 2 then 0 else 1

/-- What Jatuwick keeps through every source but power-on: 2810h, 2800h.04h, 29F0h.02h, 03h and 05h. -/
def keptKeys : List Nat := [kPower 4, kSec 0x0C, kSec 0x0D, kReset 2, kReset 3, kReset 5]

/-- The beat whose REFCLK edge released the compute die in step 5 (R284, 20 Table 20-1): steps 6 to 8 took at most
301.001 ms after it, and the spec fixes no more of their length, so that the time since is a free value (log 133). -/
def State.releaseBeat (s : State) : Nat := s.time / 60 - Config.freeValue s.freeCount % 30100101

/-- The module with everything reset but the fuses, Jatuwick's flash, and the field section, whose latches hold
(15 R403). -/
def State.wiped (s : State) : State :=
  { State.reset with
    time := s.time, grade := s.grade, pending := s.pending, freeCount := s.freeCount + 1
    events := [], emergencies := []
    fuses := s.fuses, flash := s.flash, power := s.power
    field := { latches := s.field.latches, under := s.field.under, awaiting := s.field.awaiting, outPin := s.field.outPin,
               tripped := s.field.tripped }
    tap := { renewed := s.tap.renewed + 1 }
    ptp := { t32At := s.sclk }
    alignC := 12 * s.releaseBeat, alignS := 5 * s.releaseBeat
    limits := { upto := s.cclk, frozen := s.cclk } }

/-- A module reset: everything is wiped but what Jatuwick keeps; the debug level is the lifecycle's default. -/
def State.cleared (s : State) : State :=
  let t := forEach keptKeys s.wiped (fun k t => t.setReg k (s.reg k))
  let t := t.setReg (kPower 5) (s.reg (kPower 5))
  t.setReg (kDebug 2) (defaultLevel s.fuses.lifecycle)

/-- The record of a completed step 8, after reset source `code` (20 Table 20-5). -/
def State.bootRec (s : State) (code : Nat) : EvRec := { type := 8, what := code, data := s.reg (kReset 5) }

/-- Step 8 is complete: the module is up, and the reset record is queued (R483). Cause `wake` shows in 2800h.08h. -/
def State.comeUp (s : State) (code wake : Nat) : State :=
  let t := s.cleared
  let p := { t.power with stage := .up, holder := 0, resetDue := none, target := none, wake := none, first := false }
  let t := { t with power := { p with state := 0, began := some s.time } }
  let t := t.setReg (kPower 8) wake
  if t.power.recovery then t else t.report (t.bootRec code)

/-- The module rests in STANDBY. -/
def State.rest (s : State) : State :=
  let t := s.cleared
  { t with power := { t.power with stage := .standby, holder := 0, resetDue := none, target := none } }

/-- The sequence fails with a code (R485). -/
def State.failBringUp (s : State) (code : Nat) : State := (s.rest).setReg (kReset 5) code

/-- The sequence goes on from step 2: with the main supply out of range it fails there (R485). A firmware container that has
been verified and a reset end recovery (19 R472). -/
def State.resume (s : State) (code wake : Nat) : State :=
  let s := if s.power.recovery && s.flash.fresh then
      { s with flash := { s.flash with bank := 1 - s.flash.bank, fresh := false }, power := { s.power with recovery := false } }
    else s
  if s.power.main then s.comeUp code wake else s.failBringUp 1

/-- A reset source is registered (R486): its code is recorded and the resets are counted. -/
def State.registerReset (s : State) (code : Nat) : State := (s.setReg (kReset 2) code).addReg (kReset 3) 1

/-! Booting (19 R472). -/

/-- Jatuwick boots: a newly written bank becomes active; if the active bank fails, the other becomes active and the
fallback is counted; if neither verifies, Jatuwick enters recovery. -/
def State.boot (s : State) (b : BankCheck) : State :=
  let bank := if s.flash.fresh then 1 - s.flash.bank else s.flash.bank
  let s := { s with flash := { s.flash with bank := bank, fresh := false } }
  if b.activeOk then { s with power := { s.power with recovery := false } }
  else if b.otherOk then
    let s := { s with flash := { s.flash with bank := 1 - bank }, power := { s.power with recovery := false } }
    s.addReg (kSec 0x0D) 1
  else { s with power := { s.power with recovery := true } }

/-- POWER_ON (R483): the standby rail rises. What Jatuwick keeps through other sources starts anew. -/
def State.powerOn (s : State) (mainPresent : Bool) (b : BankCheck) : State :=
  let s := { s with regs := [], power := { stage := .standby, main := mainPresent },
                    flash := { s.flash with usable := true } }
  let s := s.boot b
  if mainPresent then s.comeUp 0 0
  else
    let t := s.rest
    { t with power := { t.power with first := true } }

/-! Reset sources (R486). -/

/-- A reset command with this code is due. -/
def State.resetReady (s : State) (code : Nat) : Bool :=
  s.power.stage == .up && (match s.power.resetDue with | some (c, at_) => c == code && decide (at_ ≤ s.time) | none => false)

/-! Wake sources (19 R470, 20 R488). -/

/-- An enabled wake source with a cause: after a thermal trip it is held until the die has cooled. -/
def State.wakeBy (s : State) (cause : Nat) : State :=
  if s.power.hot then { s with power := { s.power with wake := some cause } }
  else s.resume (s.reg (kReset 2)) cause

/-! Power states (19 R464 to R469). -/

/-- The first function whose state a target does not permit (R466). -/
def State.blocker (s : State) (target : Nat) : Option Nat := allFns.find? (fun f => !permitted target f (s.fn f))

/-- Unit data of the compute and SRAM dies is gone or zero (R469 step 2, 07 R199). -/
def State.zeroDies (s : State) : State :=
  { s with ts := {}, acc := {}, stack := {}, valid := [], writebacks := [], walkers := [], vectors := [], arrays := [],
           shunters := [], topks := [], arrivals := [], tables := [], ghosts := [] }

/-- Hot cells of READY banks are copied back from external memory (R469 step 4). -/
def State.refillHot (s : State) : State :=
  forEach (upTo 16) s (fun b s =>
    if s.bankReady b then
      let put := fun (s : State) (words : Bool) =>
        match s.hotBase b words with
        | some a => { s with stack := s.stack.write 8 a (s.ext.read 32 (s.reg (kBank b (if words then 7 else 6))) (s.hotBytes b words)) }
        | none => s
      put (put s false) true
    else s)

/-- The cache restarts empty and pinned models are loaded again (R469 step 5, 09 R276). -/
def State.restartCache (s : State) : State := ({ s with cache := [] }).repin

/-- An accepted power request begins a transition. -/
def State.beginPower (s : State) (target : Nat) : State :=
  let s := (s.setReg (kPower 1) target).setReg (kPower 2) (0x80 + target)
  { s with power := { s.power with target := some target } }

/-- Level 0 is sent for every direct output, and frames that carry it are received where the link is good (R470 step 1). -/
def State.zeroOutputs (s : State) : State :=
  if s.field.link then { s with field := { s.field with latches := 0 } } else s

/-- A transition to a target is complete (R467 to R470). -/
def State.finishPower (s : State) (from_ target : Nat) : State :=
  let s := s.addReg (kPower 7) 1
  let s := { s with power := { s.power with target := none, state := target } }
  if target = 3 then
    let t := (s.zeroOutputs).rest
    let t := { t with power := { t.power with wake := none } }
    match s.power.wake with
    | some c => t.wakeBy c
    | none => t
  else
    let s := if target = 2 then s.setReg (key 0x2500 0x27) 0 else s
    let s := if target = 2 ∨ from_ = 2 then forEach [0, 1, 2] s (fun p s => s.doze p) else s
    let s := if from_ = 2 ∧ target < 2 then s.zeroDies.refillHot else s
    let s := s.setReg (kPower 2) target
    if from_ = 2 ∧ target < 2 then s.restartCache else s

end Sys2Proof.Machine
end

