-- ==== Sys2Proof/Machine/Security.lean ====
section
/-! DEFINITION. Lifecycle commands, containers and their verification, the model store, and the handing on of received
messages (19 R472 to R477, 09 R273, 18 R449). -/
namespace Sys2Proof.Machine

/-! Keys (R472). -/

/-- The digest of an installed, unrevoked owner key. -/
def State.ownerKey (s : State) (slot : Nat) : Option Bytes :=
  if s.fuses.revoked.contains slot then none else tfind s.fuses.owner slot

/-- A signature verifies under the key of a signer: 0 the Steldagen root, 1 to 4 an owner slot. -/
def State.signedBy (s : State) (signer : Nat) (msg sig : Bytes) : Bool :=
  match if signer = 0 then some Config.rootDigest else s.ownerKey signer with
  | some d => Config.signatureOk d msg sig
  | none => false

/-- The content key of a slot, while the keys are usable. -/
def State.contentKey (s : State) (slot : Nat) : Option Bytes := if s.flash.usable then tfind s.flash.content slot else none

/-- All bytes of a range are 0. -/
def zeroBytes (bs : Bytes) (o n : Nat) : Bool := (slice bs o n).all (· == 0#8)

/-! The store and the cache (09 R273). -/

/-- Bytes of flat-field tables, which the store holds (12 R349). -/
def State.flatUse (s : State) : Nat := (upTo 36).foldl (fun t p => t + (s.dom (key (0x2300 + p) 8)).length) 0

/-- Bytes held by images, containers and flat-field tables. -/
def State.storeUse (s : State) : Nat :=
  s.images.foldl (fun t x => t + x.2.length) 0 + s.models.foldl (fun t m => t + 256 + m.payload.length) 0 + s.flatUse

/-- Bytes of the store. -/
def State.storeSize (s : State) : Nat := s.reg (key 0x2560 1) * 2 ^ 20

/-- A job's image leaves the store and the cache. -/
def State.dropImage (s : State) (j : Nat) : State :=
  let keep := s.cache.filter (fun e => !(e.img && e.id == j))
  let s := { s with images := terase s.images j, imgFrom := terase s.imgFrom j, cache := keep }
  (s.setReg (kJob j 5) 0).setDom (kJob j 2) []

/-- A model leaves the store and the cache. -/
def State.dropModel (s : State) (id : Nat) : State :=
  { s with models := s.models.filter (fun m => m.id != id), cache := s.cache.filter (fun e => e.img || e.id != id) }

/-- Stored containers that pass a test on their origin are removed (Table 19-7). -/
def State.removeStored (s : State) (t : Origin → Bool) : State :=
  let js := (s.images.map Prod.fst).filter (fun j => t ((tfind s.imgFrom j).getD {}))
  let ms := (s.models.filter (fun m => t { signed := m.signed, slot := m.slot })).map (fun m => m.id)
  forEach ms (forEach js s (fun j s => s.dropImage j)) (fun m s => s.dropModel m)

/-- Everything in the store is removed. -/
def State.emptyStore (s : State) : State :=
  forEach (upTo 36) (s.removeStored (fun _ => true)) (fun p s => s.setDom (key (0x2300 + p) 8) [])

/-! Verification (R475, R476). -/

/-- What verification finds: a failure with its reason and abort code, or the origin and the plaintext. -/
inductive Verified where
  | bad (reason abort : Nat)
  | good (o : Origin) (payload : Bytes)

/-- Minimum security version of a container type. -/
def State.minVersion (s : State) (type : Nat) : Nat :=
  match type with
  | 1 => s.flash.minOzj
  | 2 => s.flash.minOzm
  | _ => s.flash.minFw.getD Config.minFirmware.toNat

/-- Magic, reserved fields and size of an envelope are correct, and its type is the one wanted (Table 19-8). -/
def envelopeOk (bs : Bytes) (want : Nat) : Bool :=
  let signed := leAt bs 5 1 % 2 == 1
  let enc := leAt bs 5 1 / 2 % 2 == 1
  let id := leAt bs 16 4
  decide (256 ≤ bs.length) && leAt bs 0 4 == 0x31455A4F && leAt bs 4 1 == want && decide (leAt bs 5 1 < 4) &&
  bs.length == 256 + leAt bs 8 4 &&
  (if signed then true else leAt bs 6 1 == 0xFF && zeroBytes bs 160 96) &&
  (if enc then decide (leAt bs 7 1 < 4) else leAt bs 7 1 == 0xFF && zeroBytes bs 32 12 && zeroBytes bs 48 16) &&
  (if want = 2 then within id 1 0xFFFFFEFF else id == 0 && leAt bs 20 4 == 0) &&
  zeroBytes bs 24 8 && zeroBytes bs 44 4 && zeroBytes bs 112 48

/-- The steps of Table 19-9, for an object or traffic class that carries type `want`. -/
def State.verify (s : State) (want : Nat) (bs : Bytes) : Verified :=
  let type := leAt bs 4 1
  let signed := leAt bs 5 1 % 2 == 1
  let enc := leAt bs 5 1 / 2 % 2 == 1
  let signer := leAt bs 6 1
  let lc := s.fuses.lifecycle
  let key := s.contentKey (leAt bs 7 1)
  let payload := bs.drop 256
  let plain := if enc then Config.gcmPlain (key.getD []) (slice bs 32 12) payload else payload
  if lc = 3 ∧ type ≠ 3 then .bad 9 0x080000A6
  else if !envelopeOk bs want then .bad 1 0x080000A5
  else if !signed && !(lc == 0 && type != 3) then .bad 2 0x080000A6
  else if signed && !(if type = 3 then signer == 0 else (s.ownerKey signer).isSome && signer != 0) then .bad 3 0x080000A5
  else if signed && !s.signedBy signer (bs.take 160) (slice bs 160 96) then .bad 4 0x080000A5
  else if leAt bs 12 4 < s.minVersion type then .bad 5 0x080000A5
  else if enc && (lc == 0 || key.isNone) then .bad 6 0x080000A5
  else if enc && !Config.gcmOk (key.getD []) (slice bs 32 12) (bs.take 32) payload (slice bs 48 16) then .bad 7 0x080000A5
  else if Config.sha384 plain != slice bs 64 48 then .bad 8 0x080000A5
  else .good { signed := signed, slot := if enc then some (leAt bs 7 1) else none } plain

/-- A failed verification is recorded in 2810h.0Ch and counted (R476, R477). -/
def State.noteFailure (s : State) (reason type index : Nat) : State :=
  (s.setReg (kSec 0x0C) (reason * 2 ^ 24 + type * 2 ^ 16 + index % 2 ^ 16)).addReg (kSec 0x0D) 1

/-! Containers written (R477, 09 R273). -/

/-- A container is refused in SLEEP. -/
def State.asleep (s : State) : Bool := decide (2 ≤ s.power.state)

/-- A verified OZJ container is stored as the image of job `j`; its old entry leaves the cache. -/
def State.putImage (s : State) (j : Nat) (o : Origin) (payload : Bytes) : State :=
  let s := s.dropImage j
  ({ s with images := tput s.images j payload, imgFrom := tput s.imgFrom j o }).setReg (kJob j 5) (ozjCrc payload)

/-- A write of 2510h+j.02h. -/
def State.storeImage (s : State) (r : Route) (j : Nat) (bs : Bytes) : Reply :=
  let no := fun (s : State) (code : Nat) => s.refuse r ⟨code, 0x2510 + j, 2⟩ 0
  if s.asleep then no s 0x080000A7
  else match s.verify 1 bs with
    | .bad reason code => no (s.noteFailure reason (leAt bs 4 1) (0x2510 + j)) code
    | .good o payload =>
      if s.storeSize < (s.dropImage j).storeUse + payload.length then no s 0x080000A2
      else { s := (s.putImage j o payload).setDom (kJob j 2) bs }

/-- A verified OZM container is stored; it replaces the stored version, and a pinned one is loaded again. -/
def State.putModel (s : State) (o : Origin) (bs payload : Bytes) : State :=
  let id := leAt bs 16 4
  let s := s.dropModel id
  let m : Model := { id := id, version := leAt bs 20 4, payload := payload, signed := o.signed, slot := o.slot }
  let s := { s with models := s.models ++ [m] }
  if s.pins.contains id ∧ s.reg (key 0x2500 0x27) = 0 then (s.loadModel id).getD (s.addReg (key 0x2560 0x0B) 1) else s

/-- The store has room for a model. -/
def State.modelFits (s : State) (bs payload : Bytes) : Bool :=
  decide ((s.dropModel (leAt bs 16 4)).storeUse + 256 + payload.length ≤ s.storeSize)

/-- A model container written through the host port, in an object `index` that the spec does not name (log 142). -/
def State.hostModel (s : State) (index : Nat) (bs : Bytes) : Reply :=
  let no := fun (s : State) (code : Nat) => s.refuse .hostPort ⟨code, index, 0⟩ 0
  if s.asleep then no s 0x080000A7
  else match s.verify 2 bs with
    | .bad reason code => no (s.noteFailure reason (leAt bs 4 1) index) code
    | .good o payload =>
      if s.modelUsed (leAt bs 16 4) then no (s.count 0x2901 0x13) 0x080000A9
      else if !s.modelFits bs payload then no s 0x080000A2
      else { s := s.putModel o bs payload }

/-- A model container of traffic class 03h: stored, or refused with the reason of its notice, or failed (R477, R273). -/
def State.netModel (s : State) (bs : Bytes) : State × Option Nat :=
  match s.verify 2 bs with
  | .bad reason _ =>
    let s := s.noteFailure reason (leAt bs 4 1) 0
    (s.report { type := 7, what := s.reg (kSec 0x0C) }, none)
  | .good o payload =>
    if s.modelUsed (leAt bs 16 4) then (s.count 0x2901 0x13, some 6)
    else if !s.modelFits bs payload then (s, some 1)
    else (s.putModel o bs payload, none)

/-- A write of 2810h.0Bh: the container goes to the inactive bank. -/
def State.storeFirmware (s : State) (r : Route) (bs : Bytes) : Reply :=
  let no := fun (s : State) (code : Nat) => s.refuse r ⟨code, 0x2810, 0x0B⟩ 0
  if s.asleep then no s 0x080000A7
  else match s.verify 3 bs with
    | .bad reason code => no (s.noteFailure reason (leAt bs 4 1) 0x2810) code
    | .good _ _ =>
      { s := { s with flash := { s.flash with versions := tput s.flash.versions (1 - s.flash.bank) (leAt bs 12 4 % 2 ^ 28),
                                              fresh := true } } }

/-! Messages handed on (18 R449). -/

/-- The oldest message of a port that its consumer takes now: a submission waits while its stream lacks free slots. -/
def State.takeable (s : State) (p : Nat) : Option InMsg :=
  (s.net p).ready.find? (fun m => m.cls != 1 || (s.running (fIntake m.stream) && s.roomFor m.stream))

/-- A complete message of model traffic on NET port `p`: in SLEEP external memory takes none (19 R465), and a container that
is refused is discarded with the notice of its reason (R273, R450). -/
def State.handModel (s : State) (p : Nat) (m : InMsg) (bs : Bytes) : State :=
  if s.asleep then s.discardMessage p m 6
  else match s.netModel bs with
    | (t, some reason) => t.discardMessage p m reason
    | (t, none) => t.netCount p 0x13

/-! Lifecycle commands (R473, R474). -/

/-- The command record. -/
def State.lifeRecord (s : State) : Bytes := s.dom (key 0x2810 3)

/-- The record names this command and this module. -/
def State.recordOk (s : State) (code : Nat) : Bool :=
  let b := s.lifeRecord
  b.length == 512 && leAt b 0 4 == 0x314B5A4F && leAt b 4 1 == code && slice b 8 12 == slice Config.serial 0 12

/-- The signature that Table 19-7 requires is there. -/
def State.commandSigned (s : State) (code : Nat) : Bool :=
  let b := s.lifeRecord
  let signer := leAt b 5 1
  let target := leAt b 6 1
  let lc := s.fuses.lifecycle
  let by_ := s.signedBy signer (b.take 256) (slice b 256 96)
  let owner := by_ && signer != 0
  match code with
  | 1 => if lc = 0 then target == 1 else owner
  | 2 => owner && signer != target
  | 3 => owner && (lc == 1 || lc == 2)
  | 4 => owner
  | 5 => owner && lc == 1
  | 6 => lc == 0 || (owner && lc != 3)
  | _ => if target = 3 then by_ && signer == 0 else owner

/-- The target and value of the record suit the command. -/
def State.targetOk (s : State) (code : Nat) : Bool :=
  let b := s.lifeRecord
  let target := leAt b 6 1
  match code with
  | 1 => within target 1 4 && (tfind s.fuses.owner target).isNone
  | 2 => (tfind s.fuses.owner target).isSome
  | 3 => decide (target < 4)
  | 4 => decide (target < 4)
  | 7 => within target 1 3 && decide (s.minVersion target < leAt b 32 4)
  | _ => true

/-- The lifecycle enters a state: the debug level falls if it exceeds the new default (R481). -/
def State.enterLife (s : State) (lc : Nat) : State :=
  let s := { s with fuses := { s.fuses with lifecycle := lc }, tap := { s.tap with token := 0 } }
  if defaultLevel lc < s.reg (kDebug 2) then s.setReg (kDebug 2) (defaultLevel lc) else s

/-- RETIRE erases the content keys, the model store and every image. -/
def State.retireAll (s : State) : State :=
  let s := s.emptyStore
  ({ s with flash := { s.flash with content := [] }, cache := [] }).enterLife 3

/-- The minimum version of a container type is raised. -/
def Flash.raise (f : Flash) (type v : Nat) : Flash :=
  match type with
  | 1 => { f with minOzj := v }
  | 2 => { f with minOzm := v }
  | _ => { f with minFw := some v }

/-- The effect of a lifecycle command (Table 19-7); the content key of INSTALL CONTENT KEY has been unwrapped. -/
def State.lifeEffect (s : State) (code : Nat) (unwrapped : Bytes) : State :=
  let b := s.lifeRecord
  let target := leAt b 6 1
  match code with
  | 1 =>
    let first := s.fuses.lifecycle == 0
    let s := { s with fuses := { s.fuses with owner := tput s.fuses.owner target (Config.sha384 (slice b 64 96)) } }
    if first then (s.removeStored (fun o => !o.signed)).enterLife 1 else s
  | 2 => { s with fuses := { s.fuses with revoked := addKey s.fuses.revoked target } }
  | 3 => { s with flash := { s.flash with content := tput s.flash.content target unwrapped } }
  | 4 => ({ s with flash := { s.flash with content := terase s.flash.content target } }).removeStored (fun o => o.slot == some target)
  | 5 => s.enterLife 2
  | 6 => s.retireAll
  | _ => { s with flash := s.flash.raise target (leAt b 32 4) }

/-- A write of 2810h.02h. -/
def State.lifeCommand (s : State) (r : Route) (code : Nat) : Reply :=
  let no := fun (c : Nat) => s.refuse r ⟨c, 0x2810, 2⟩ 0
  let b := s.lifeRecord
  let key := if code = 3 then Config.unwrapKey (slice b 64 96) (slice b 160 40) else some []
  let idle := (upTo 64).all (fun j => s.idle (fJob j)) && (upTo 16).all (fun i => s.idle (fIntake i))
  if !within code 1 7 then no 0x06090030
  else if !idle then no 0x08000022
  else if !s.recordOk code || !s.commandSigned code then no 0x080000A6
  else if !s.targetOk code then no 0x06090030
  else match key with
    | none => no 0x080000A6
    | some k => { s := s.lifeEffect code k }

end Sys2Proof.Machine
end

