-- ==== Sys2Proof/Machine/Debug.lean ====
section
/-! DEFINITION. Debug levels, tokens, and the instructions of the TAP (19 R478 to R482). -/
namespace Sys2Proof.Machine

/-! Levels and tokens (R481). -/

/-- The highest level that a lifecycle permits without a token (Table 19-13). -/
def freeLevel (lc : Nat) : Nat :=
  match lc with
  | 1 => 1
  | 2 => 0
  | _ => 3

/-- A container in the store or the cache came encrypted: the protected images and models. -/
def State.secretImages (s : State) : List Nat :=
  (s.images.map Prod.fst).filter (fun j => ((tfind s.imgFrom j).getD {}).slot.isSome)
/-- Models that came encrypted. -/
def State.secretModels (s : State) : List Nat := (s.models.filter (fun m => m.slot.isSome)).map (fun m => m.id)

/-- A cache entry came from an encrypted container. -/
def State.secretEntry (s : State) (e : CacheEntry) : Bool :=
  if e.img then s.secretImages.contains e.id else s.secretModels.contains e.id

/-- Every job that uses a protected image or model is STOPPED or OFF. -/
def State.secretsIdle (s : State) : Bool :=
  (upTo 64).all (fun j => s.idle (fJob j) || !(s.secretImages.contains j || s.secretModels.contains (ozjModel (s.image j))))

/-- Bytes as zeros of the same number. -/
def zeroed (bs : Bytes) : Bytes := List.replicate bs.length 0#8

/-- LEVEL_3_ERASE (R480): every protected word is zeroed, and the content keys are unusable until the next power-on. -/
def State.eraseSecrets (s : State) : State :=
  let s := s.catchAll
  let gone := s.cache.filter (fun e => s.secretEntry e)
  let stack := gone.foldl (fun m e => m.zero 8 e.base (roundUp e.size 8)) s.stack
  let js := s.secretImages
  let s := forEach js s (fun j s => (s.setReg (kJob j 5) 0).setDom (kJob j 2) (zeroed (s.dom (kJob j 2))))
  { s with
    stack := stack
    images := s.images.map (fun x => if js.contains x.1 then (x.1, zeroed x.2) else x)
    models := s.models.map (fun m => if m.slot.isSome then { m with payload := zeroed m.payload } else m)
    flash := { s.flash with usable := false }
    tap := { s.tap with erased := true } }

/-- A write of 2820h.01h. -/
def State.requestLevel (s : State) (r : Route) (v : Nat) : Reply :=
  let no := fun (c : Nat) => s.refuse r ⟨c, 0x2820, 1⟩ 0
  let lc := s.fuses.lifecycle
  let take := fun (s : State) => { s := (s.setReg (kDebug 1) v).setReg (kDebug 2) v : Reply }
  if 3 < v then no 0x06090030
  else if freeLevel lc < v ∧ s.tap.token < v then no 0x080000A6
  else if v = 3 ∧ (lc = 1 ∨ lc = 2) then (if s.secretsIdle then take s.eraseSecrets else no 0x08000022)
  else take s

/-- A debug token is valid (Table 19-12): its level. -/
def State.tokenLevel (s : State) (b : Bytes) : Option Nat :=
  let level := leAt b 4 1
  let signer := leAt b 5 1
  let msg := b.take 64
  let root := s.signedBy 0 msg (slice b 160 96)
  let ok := b.length == 256 && leAt b 0 4 == 0x31445A4F && within level 1 3 && within signer 1 4 && leAt b 6 2 == 0 &&
    slice b 8 12 == slice Config.serial 0 12 && zeroBytes b 20 12 && slice b 32 32 == slice (Config.challenge s.tap.renewed) 0 32 &&
    s.signedBy signer msg (slice b 64 96) &&
    (if level = 3 ∧ s.fuses.lifecycle = 2 then root else root || zeroBytes b 160 96)
  if ok then some level else none

/-- A write of 2820h.04h: an accepted token renews the challenge. -/
def State.takeToken (s : State) (r : Route) (b : Bytes) : Reply :=
  match s.tokenLevel b with
  | some n => { s := { s with tap := { s.tap with token := n, renewed := s.tap.renewed + 1 } } }
  | none => s.refuse r ⟨0x080000A6, 0x2820, 4⟩ 0

/-! The TAP (R478). -/

/-- The level held, which reads 0 while Jatuwick serves the TAP. -/
def State.debugLevel (s : State) : Nat := if s.power.stage = .standby then 0 else s.reg (kDebug 2)

/-- The TAP is powered. -/
def State.tapOn (s : State) : Bool := s.power.stage != .off

/-- Select an instruction with what it captures; the outputs are released. -/
def State.select (s : State) (code data : Nat) : State := { s with tap := { s.tap with instr := code, data := data, holds := none } }

/-- An instruction that is not permitted selects BYPASS, and the selection is counted. -/
def State.selectBypass (s : State) : State :=
  let s := s.select 0xFF 0
  if s.up then s.addReg (kDebug 7) 1 else s

/-- An instruction of the TAP whose lowest level is `need`; `still` is set for those that act only while every function is
OFF. Beside IDCODE and BYPASS, Jatuwick serves none. -/
def State.tap' (s : State) (need : Nat) (still : Bool) (f : State → State) : State :=
  if !s.tapOn then s
  else if need ≤ s.debugLevel && (need == 0 || s.power.stage == .up) && (!still || allFns.all (fun x => s.fn x == .off)) then f s
  else s.selectBypass


/-- The word of IDCODE (Table 19-11). -/
def State.idWord (s : State) : Nat :=
  bits Config.stepping.toNat 11 8 * 2 ^ 28 + gHex s.grade * 2 ^ 12 + Config.jep106.toNat * 2 + 1

/-! DBGACC (R479, R480). -/

/-- The memory that a space of Table 5-8 names, with the physical address of a word in it; none outside. -/
def State.debugSpot (s : State) (space core a : Nat) : Option Spot :=
  if a % 8 ≠ 0 then none
  else match space with
    | 0 => if core < s.cores ∧ a < 2 * tsBytes then some (.ts (tsAt core 0 a)) else none
    | 1 => if core < s.cores ∧ a < 2 * accBytes then some (.acc (accAt core 0 a)) else none
    | 2 => if a < stackBytes then some (.stack a) else none
    | 3 => if a < extBytes then some (.ext a) else none
    | _ => none

/-- The word after `n` bytes at a spot. -/
def Spot.plus (p : Spot) (n : Nat) : Spot :=
  match p with
  | .ts a => .ts (a + n)
  | .acc a => .acc (a + n)
  | .stack a => .stack (a + n)
  | .ext a => .ext (a + n)

/-- A spot lies in the area of the model store. -/
def State.inStore (s : State) (p : Spot) : Bool :=
  match p with
  | .ext a => decide (0x48000000 ≤ a) && decide (a < 0x48000000 + s.reg (key 0x2560 1) * 2 ^ 20)
  | _ => false

/-- A read of a word is protected at level 2: a cache entry from an encrypted container; in the store, whose layout the spec
does not give, it is left free which words belong to such a container (log 143). -/
def State.protected_ (s : State) (p : Spot) : Bool × State :=
  if s.debugLevel ≠ 2 then (false, s)
  else match p with
    | .stack a => (s.cache.any (fun e => s.secretEntry e && decide (e.base < a + 8) && decide (a < e.base + e.size)), s)
    | _ =>
      if s.inStore p && !(s.secretImages.isEmpty && s.secretModels.isEmpty) then
        let r := s.fresh 2
        (r.1 == 1, r.2)
      else (false, s)

/-- What DBGACC captures. -/
def dbgWord (write : Bool) (space core status a d : Nat) : Nat :=
  b2n write * 2 ^ 127 + space % 8 * 2 ^ 124 + core % 16 * 2 ^ 120 + status * 2 ^ 112 + a % 2 ^ 40 * 2 ^ 64 + d % 2 ^ 64

/-- A debug operation is performed. -/
def State.debugged (s : State) : State := s.addReg (kDebug 6) 1

/-- The 8 bytes at a spot with their marks. -/
def State.peek8 (s : State) (p : Spot) : List Marked := (upTo 8).map (fun i => s.peek (p.plus i))

/-- A read of a word by DBGACC. -/
def State.debugRead (s : State) (space core a : Nat) : State :=
  let say := fun (s : State) status d => s.select 0x10 (dbgWord false space core status a d)
  match s.debugSpot space core a with
  | none =>
    let r := s.fresh (2 ^ 72)
    r.2.select 0x10 (dbgWord false space core (r.1 / 2 ^ 64) a r.1)
  | some p =>
    if s.asleep then say s 1 0
    else
      let x := s.protected_ p
      if x.1 then (say x.2 2 0).addReg (kDebug 7) 1
      else
        let s := x.2.catchAll
        let xs := s.peek8 p
        let free := s.fresh (2 ^ 64)
        let s := match p with
          | .ts b => s.noticeBad 1 8 b 8
          | .acc b => s.noticeBad 2 4 b 8
          | .stack b => s.noticeBad 3 8 b 8
          | .ext b => s.noticeBad 4 32 b 8
        if xs.any (fun y => y.2) then
          let s := { s with freeCount := free.2.freeCount }
          (say s 4 free.1).debugged
        else if s.inStore p then
          let s := { s with freeCount := free.2.freeCount }
          (say s 0 free.1).debugged
        else (say s 0 (leNat (xs.map Prod.fst))).debugged

/-- A write of a word by DBGACC, as a transfer writes. -/
def State.debugWrite (s : State) (space core a d : Nat) : State :=
  let say := fun (s : State) status => s.select 0x10 (dbgWord true space core status a d)
  if s.debugLevel < 3 then say s 3
  else match s.debugSpot space core a with
    | none =>
      let r := s.fresh 256
      say r.2 r.1
    | some p =>
      if s.asleep then say s 1
      else (say (s.catchAll.poke p (clean (leBytes 8 d))) 0).debugged

/-! DBGCTRL (R480). -/

/-- What DBGCTRL captures. -/
def ctrlWord (op job lane status : Nat) : Nat := op * 2 ^ 24 + job % 64 * 2 ^ 18 + lane % 8 * 2 ^ 15 + status

/-- A control operation on a context: it is performed if the context is there and, for RESUME and STEP, halted. -/
def State.debugCtrl (s : State) (op : Nat) (job lane : Nat) (needHalt : Bool) (f : Nat → Ctx → State → State) : State :=
  let k := ctxKey job lane
  let say := fun (s : State) status => s.select 0x12 (ctrlWord op job lane status)
  match if lane < 6 then s.ctx? k else none with
  | none => say s 1
  | some x => if needHalt && !x.halted then say s 2 else (say (f k x s) 0).debugged

/-- HALT: a forced pre-emption under R267 and R268; the context then takes no running position. -/
def State.haltCtx (s : State) (k : Nat) (x : Ctx) : State :=
  let s := (s.catchAll).onCtx k (fun x => { x with halted := true, stepOne := false })
  if x.pos && x.holds && (x.overrun || s.holdTime k == 0) then s.orderTeardown k else s.rehalt k s.cclk

end Sys2Proof.Machine
end

