-- ==== Sys2Proof/Machine/Memory.lean ====
section
/-! DEFINITION. The drone and the patrol of external memory, the pools of stack memory, wide mode, the determinism bit,
refresh and limiting (07 R210 to R222, 10 R287, R288, 21 R500). -/
namespace Sys2Proof.Machine

/-- 2500h, subindex `sub`. -/
def kMem (sub : Nat) : Nat := key 0x2500 sub

/-! The drone (R220 to R222). -/

/-- Number of a level in 2500h.36h. -/
def levelNum : Level → Nat
  | .scratchpad => 1
  | .accumulator => 2
  | .stack => 3
  | .external => 4

/-- The arrays whose memories the drone's agent of core `c` walks: A, then B (Table 1-1, R220). -/
def State.walkedArrays (s : State) (c : Nat) : List Nat := [2 * c, 2 * c + 1].filter (gArray s.grade)

/-- Reads of an agent in one pass: words of a core's scratchpads, entries of its accumulator stores, rows of a slice, 32-byte
halves of a controller. -/
def State.passReads (s : State) (l : Level) (agent : Nat) : Nat :=
  match l with
  | .scratchpad => (s.walkedArrays agent).length * (tsBytes / 8)
  | .accumulator => (s.walkedArrays agent).length * (accBytes / 4)
  | .stack => 131072
  | .external => 2 ^ 30

/-- The word that an agent's read number `i` is about, in the level's own word size, or the first word of the row that it reads
(R192, R202, R216). -/
def State.droneWord (s : State) (l : Level) (agent i : Nat) : Nat :=
  let inArray := fun (n : Nat) => (s.walkedArrays agent).getD (i / n) 0 * n + i % n
  match l with
  | .scratchpad => inArray (tsBytes / 8)
  | .accumulator => inArray (accBytes / 4)
  | .stack => (32 * i + agent % 32) * 16
  | .external => i / 8 * 32 + agent % 4 * 8 + i % 8

/-- Bytes of a level's word. -/
def wordSize : Level → Nat
  | .scratchpad => 8
  | .accumulator => 4
  | .stack => 8
  | .external => 32

/-- One level's memory. -/
def State.store (s : State) : Level → Store
  | .scratchpad => s.ts
  | .accumulator => s.acc
  | .stack => s.stack
  | .external => s.ext

/-- Replace one level's memory. -/
def State.setStore (s : State) (l : Level) (m : Store) : State :=
  match l with
  | .scratchpad => { s with ts := m }
  | .accumulator => { s with acc := m }
  | .stack => { s with stack := m }
  | .external => { s with ext := m }

/-- Subindex of a level's pass time. -/
def passSub : Level → Nat
  | .scratchpad => 0x38
  | .accumulator => 0x39
  | .stack => 0x3A
  | .external => 0x3D

/-- The pass time of a level in SCLK. -/
def State.passTime (s : State) (l : Level) : Nat := s.reg (kMem (passSub l)) * 500000000

/-- Key of an agent's place; the key after it holds 1 + the SCLK cycle in which its pass began, the one after that 1 + the
CCLK cycle of its last access. -/
def walkKey (l : Level) (agent : Nat) : Nat := 4 * (64 * levelNum l + agent)

/-- A number of an agent. -/
def State.walker (s : State) (k : Nat) : Nat := tget (fun _ => 0) s.walkers k
/-- Replace a number of an agent. -/
def State.setWalker (s : State) (k v : Nat) : State := { s with walkers := tset (fun _ => 0) s.walkers k v }

/-- An agent's next read is due: its reads are spaced over the pass time, and a pass begins when the time of the one before
it has run out (R220). -/
def State.walkDue (s : State) (l : Level) (agent : Nat) : Bool :=
  let k := walkKey l agent
  let n := s.passReads l agent
  let i := if s.walker k = 0 then n else s.walker k
  s.walker (k + 1) == 0 || decide ((s.walker (k + 1) - 1) * n + i * s.passTime l ≤ s.sclk * n)

/-- An agent goes on to its next word: a pass that takes longer than its time sets its class's LAG bit, is counted at its
end, and a pass within its time clears the bit (R220). -/
def State.walkOn (s : State) (l : Level) (agent : Nat) : State :=
  let k := walkKey l agent
  let i := s.walker k
  let s := if i = 0 then s.setWalker (k + 1) (s.sclk + 1) else s
  let late := decide (s.walker (k + 1) + s.passTime l < s.sclk + 1)
  let lag := fun (s : State) b => s.setBit (kMem 0x3B) (levelNum l - 1) b
  let s := if late then lag s true else s
  if i + 1 < s.passReads l agent then s.setWalker k (i + 1)
  else
    let s := s.setWalker k 0
    if late then s.count 0x2902 0x0B else lag s false

/-- The ports or the slice that an access to a word needs. -/
def dronePorts (l : Level) (write : Bool) (w : Nat) : List Nat :=
  match l with
  | .scratchpad => tsPorts write (8 * w) 8
  | .accumulator => accPorts write (4 * w) 4
  | .stack => [sliceKey (w / 16 % 32)]
  | .external => []

/-- The slot that an agent's access needs is idle in the present cycle: no request is granted its port or its slice, and the
slice has not served the agent already (R220). A write to an accumulator store may take an idle array write instead (R200). -/
def State.droneIdle (s : State) (l : Level) (agent : Nat) (write : Bool) (w : Nat) : Bool :=
  let s := s.catchUp
  let t := s.cclk
  let ps := dronePorts l write w
  let array := write && l == .accumulator &&
    !((s.a2All t).flatMap (fun x => accPorts true (4 * x.lo) (4 * (x.hi - x.lo)))).any (fun p => ps.contains p)
  (l != .stack || s.walker (walkKey l agent + 2) != t + 1) && (array || !ps.any (fun p => (s.cycleGrants t).taken.contains p))

/-- An agent's read finds a word clean, correctable or uncorrectable (R221, R222). A corrected word is counted once and waits
for its write-back. A poisoned word counts no new error (R223), and an uncorrectable one stays so until a write replaces it. -/
def State.finding (s : State) (l : Level) (w : Nat) (f : ReadFinding) : State :=
  let m := s.store l
  let b := Writeback.mk (levelNum l) w
  if hasKey m.poison w then s
  else if hasKey m.bad w ∨ f = .uncorrectable then
    (s.setStore l { m with bad := addKey m.bad w }).foundBad (levelNum l) (w * wordSize l)
  else if f = .correctable ∧ !s.writebacks.contains b then
    ({ s with writebacks := s.writebacks ++ [b] }).count 0x2902 (levelNum l)
  else s

/-- The words of one read of an agent: a row of a slice has 16. -/
def droneSpan (l : Level) : Nat := if l = .stack then 16 else 1

/-- The read of an agent whose memory is powered (19 R467), whose pass is on and whose read is due, in an idle slot; `word`
chooses the word of a row that the finding is about. -/
def State.agentRead (s : State) (l : Level) (agent word : Nat) (f : ReadFinding) : State :=
  let s := s.catchUp
  let w := s.droneWord l agent (s.walker (walkKey l agent))
  if s.power.state < 2 ∧ 0 < s.passTime l ∧ s.walkDue l agent ∧ s.droneIdle l agent false w then
    let s := forEach (upTo (droneSpan l)) s (fun i s =>
      s.finding l (w + i) (if i = word % droneSpan l then f else .clean))
    (s.walkOn l agent).setWalker (walkKey l agent + 2) (s.cclk + 1)
  else s

/-- The memory of an agent exists. -/
def State.hasAgent (s : State) (l : Level) (agent : Nat) : Bool :=
  match l with
  | .scratchpad => decide (agent < s.cores)
  | .accumulator => decide (agent < s.cores)
  | .stack => decide (agent < 32)
  | .external => false

/-- The agent that holds a word. -/
def agentOf (l : Level) (w : Nat) : Nat :=
  match l with
  | .scratchpad => w / (tsBytes / 4)
  | .accumulator => w / (accBytes / 2)
  | .stack => w / 16 % 32
  | .external => w / 8 % 4

/-- A correctable word that another reader found is passed to the agent that holds it (R207, R221). -/
def State.passWord (s : State) (l : Level) (agent : Nat) : Option Nat → State
  | some w => if agentOf l w = agent then s.catchUp.finding l w .correctable else s
  | none => s

/-- The agent's oldest corrected word is written back in an idle write slot, or its write-back is discarded because a newer
value stands; either way the word keeps the value that it reads as (R221). -/
def State.agentWrite (s : State) (l : Level) (agent : Nat) : State :=
  match s.writebacks.find? (fun b => b.level == levelNum l && agentOf l b.word == agent) with
  | some b =>
    if s.droneIdle l agent true b.word then
      ({ s with writebacks := s.writebacks.erase b }).setWalker (walkKey l agent + 2) (s.cclk + 1)
    else s
  | none => s

/-! Pools and wide mode (R210 to R214). -/

/-- Every job is STOPPED or OFF. -/
def State.jobsIdle (s : State) : Bool := (upTo 64).all (fun j => s.idle (fJob j))
/-- Every sensor stream is STOPPED or OFF. -/
def State.streamsIdle (s : State) : Bool := (upTo 36).all (fun p => s.idle (fStream p))
/-- Every intake stream is STOPPED or OFF. -/
def State.intakesIdle (s : State) : Bool := (upTo 16).all (fun i => s.idle (fIntake i))

/-- A pool gets another size: the model cache is emptied, and pinned models are loaded again (R211, 09 R276). The hot
allotments of READY banks stay where they are although the bases of the pools move: the spec is silent on them (DESIGN CHOICE,
log 127). -/
def State.resizePool (s : State) (sub v : Nat) : State :=
  if s.reg (kMem sub) = v then s else ({ (s.setReg (kMem sub) v) with cache := [] }).repin

/-- The model-cache pool holds a wide area for each core (R214). -/
def State.wideFits (s : State) : Bool := decide (32 * s.cores ≤ s.poolMB 1)

/-- Wide mode is entered or left (R213). -/
def State.setWide (s : State) (on : Bool) : State :=
  let s := { s.catchAll with cache := [] }
  if on then
    ({ s with stack := s.stack.zero 8 (s.poolBase 1) (s.cores * 2 ^ 25) }).setReg (kMem 0x27) 1
  else (s.setReg (kMem 0x27) 0).repin

/-! Determinism and limiting (10 R287, R288, 21 R500). -/

/-- Frames removed up to now enter 2010h.05h, and with die-wide removal the CCLK count has stood still for them. -/
def State.settleLimits (s : State) : State :=
  let s := s.catchUp
  let a := s.limits.upto - s.alignC
  let gone := fun (n : Nat) => framesCut (s.ccount / 96) n - framesCut (a / 96) n
  let frames := if s.det then gone (s.removedFrames 0)
    else (upTo s.cores).foldl (fun t c => t + gone (s.removedFrames c)) 0
  let n := s.removedFrames 0
  let lost := if s.det then cyclesCut s.ccount n - cyclesCut a n else 0
  let s := if s.power.state < 2 then s.addReg (key 0x2010 5) frames else s
  { s with limits := { s.limits with lost := s.limits.lost + lost, upto := s.cclk, frozen := s.cclk + 1 } }

/-- The determinism bit is written (R288). -/
def State.setDeterminism (s : State) (v : Nat) : State :=
  let s := s.settleLimits
  (s.setReg (key 0x2010 1) v).setBit (key 0x2010 2) 0 (v == 1)

/-- A demand after a reading: up by 1 above `hi`, to 12 at most, down by 1 below `lo`. -/
def demand (n : Nat) (x lo hi : Int) : Nat := if hi < x then min 12 (n + 1) else if x < lo then n - 1 else n

/-- The new demands of R500. -/
def LimitUnit.update (l : LimitUnit) (det : Bool) (cores : Nat) (r : ThermalReadings) (hottest : Int) : LimitUnit :=
  let zero := fun (_ : Nat) => 0
  { l with
    cores := if det then l.cores
      else (upTo cores).foldl (fun t c => tset zero t c (demand (tget zero l.cores c) (r.cores.getD c 0) 980 1000)) l.cores
    die := if det then demand l.die hottest 980 1000 else l.die
    power := demand l.power r.power 1160 1200 }

/-- The hottest core sensor. -/
def hottestOf : List Int → Int
  | [] => 0
  | x :: xs => xs.foldl max x

end Sys2Proof.Machine
end

