-- ==== Sys2Proof/Machine/NetTime.lean ====
section
/-! DEFINITION. Network time: the second boundaries, PTP messages and their stamps, and the servo (18 R458 to R462). -/
namespace Sys2Proof.Machine

/-- 2710h, subindex `sub`. -/
def kTime (sub : Nat) : Nat := key 0x2710 sub

/-- EN of 2710h.01h. -/
def State.ptpOn (s : State) : Bool := s.bit' (kTime 1) 7
/-- ARMED: a next boundary has been written since the last roll. -/
def State.rollArmed (s : State) : Bool := s.bit' (kTime 0x0E) 8
/-- portState, coded as IEEE 1588-2019 codes it. -/
def State.portState (s : State) : Nat := s.field' (kTime 0x0E) 3 0
/-- Show a portState. -/
def State.setPortState (s : State) (v : Nat) : State := s.setField (kTime 0x0E) 3 0 v

/-- Nanoseconds of T32 since the present second began. -/
def State.sinceBoundary (s : State) : Nat := (s.t32 + 2 ^ 32 - s.reg (kTime 4)) % 2 ^ 32

/-- NEXTB_WRITE (R459): Jatuwick writes LASTB + 10^9 and sets ARMED. -/
def State.writeNext (s : State) : State :=
  (s.setReg (kTime 5) ((s.reg (kTime 4) + 1000000000) % 2 ^ 32)).setBit (kTime 0x0E) 8 true

/-- T32 has reached NEXTB under the signed comparison over 32 bits. -/
def State.atNext (s : State) : Bool := decide (0 ≤ signed 32 (s.t32 + 2 ^ 32 - s.reg (kTime 5)))

/-- A second rolls (R459). -/
def State.roll (s : State) : State :=
  (((s.incReg (kTime 3)).setReg (kTime 4) (s.reg (kTime 5)))).setBit (kTime 0x0E) 8 false

/-! Messages (R460, R461). -/

/-- A PTP message is to be sent. -/
def State.queuePtp (s : State) (p : Nat) : State := (s.setNet p { s.net p with ptpOut := (s.net p).ptpOut + 1 }).choose p

/-- The PTP port: NET0, NET1 or MLINK. -/
def State.ptpPort (s : State) : Nat := s.field' (kTime 1) 3 2

/-- The PTP port can exchange messages. -/
def State.ptpReachable (s : State) : Bool := s.netLit s.ptpPort && s.lstate s.ptpPort == 2

/-- A captured T32 in 2^-16 ns, corrected by the lane's path latency and the carrier delay, in 2^-16 ps (R461). -/
def State.corrected (s : State) (p : Nat) (captured : Nat) (outgoing : Bool) : Int :=
  let carrier := s.reg (kTime (0x14 + p))
  let t := (captured : Int) * 1000 + Config.pathLatency p (s.slowNet p) outgoing * 1000
  if outgoing then t + (bits carrier 31 16 : Int) * 65536 else t - (bits carrier 15 0 : Int) * 65536

/-- Take a corrected stamp. -/
def State.takeStamp (s : State) (p : Nat) (captured : Nat) (outgoing : Bool) : State :=
  let t := s.corrected p captured outgoing
  { s with ptp := if outgoing then { s.ptp with txStamp := t } else { s.ptp with rxStamp := t } }

/-- One-step Sync is suppressed: ARMED is 0 and the second has run out (R459). -/
def State.syncSuppressed (s : State) : Bool :=
  s.bit' (kTime 1) 5 && !s.rollArmed && decide (1000000000 ≤ s.sinceBoundary)

/-- An Announce of another clock is received: the best master clock algorithm decides. -/
def State.takeAnnounce (s : State) (grandmaster : Nat) (utc : Int) : State :=
  if Config.ptpMaster (s.reg (kTime 1)) grandmaster && !s.bit' (kTime 1) 6 then s.setPortState 6
  else
    let s := (s.setReg (kTime 0x0F) grandmaster).setReg (kTime 0x10) (wrap 16 utc)
    if s.portState = 9 then s else s.setPortState 8

/-- 2710h.01h is written: PTP starts listening, or ends. -/
def State.ptpSwitched (s : State) : State := s.setPortState (if s.ptpOn then 4 else 3)

/-! The servo (R462). -/

/-- The limit of RATE and ACC: 500 ppm. -/
def rateLimit : Int := 2147484

/-- A quotient by 2^32; where it is not whole, one of the two neighbours, left free. -/
def State.scaled (s : State) (x : Int) : Int × State :=
  let q := x / 4294967296
  if x % 4294967296 = 0 then (q, s)
  else
    let r := s.fresh 2
    (q + (r.1 : Int), r.2)

/-- A step of phase by the whole ns of `o` (R462). -/
def State.phaseStep (s : State) (o : Int) : State :=
  let ns := Int.tdiv o 65536
  let add := fun (s : State) (k : Nat) (d : Int) => s.setReg k (wrap 32 ((s.reg k : Int) + d))
  let s := (add (add s (kTime 4) ns) (kTime 5) ns).addReg (kTime 0x24) 1
  if signed 32 (s.t32 + 2 ^ 32 - s.reg (kTime 4)) < 0 then
    let s := s.setReg (kTime 3) (wrap 48 ((s.reg (kTime 3) : Int) - 1))
    add (add s (kTime 4) (-1000000000)) (kTime 5) (-1000000000)
  else s

/-- RATE changes: T32 goes on from what it is now at the new rate. -/
def State.setRate (s : State) (r : Int) : State :=
  let s := { s with ptp := { s.ptp with t32 := s.t32Fine, t32At := s.sclk } }
  s.setReg (kTime 7) (wrap 32 r)

/-- KP and KI as an offset of this cycle takes them: those before the writes of the cycle (R462). -/
def State.gains (s : State) : Nat × Nat :=
  match s.ptp.gains with
  | some (c, kp, ki) => if c = s.sclk then (kp, ki) else (s.reg (kTime 9), s.reg (kTime 0x0A))
  | none => (s.reg (kTime 9), s.reg (kTime 0x0A))

/-- KP or KI has been written in the state `before`: its offsets of this cycle still take the gains before it (R462). -/
def State.holdGains (s before : State) : State :=
  { s with ptp := { s.ptp with gains := some (before.sclk, before.gains) } }

/-- A correction of rate (R462). -/
def State.rateStep (s : State) (o : Int) : State :=
  let g := s.gains
  let a := s.scaled ((g.2 : Int) * o)
  let s := a.2
  let acc := limit (-rateLimit) rateLimit (signed 32 (s.reg (kTime 8)) + a.1)
  let p := s.scaled ((g.1 : Int) * o)
  let s := p.2
  (s.setReg (kTime 8) (wrap 32 acc)).setRate (limit (-rateLimit) rateLimit (-(p.1 + acc)))

/-- The servo takes an offset from the master in 2^-16 ns (R462). -/
def State.applyOffset (s : State) (o : Int) : State :=
  let s := (s.setReg (kTime 0x0C) (wrap 64 o)).addReg (kTime 0x26) 1
  if (s.reg (kTime 0x0B) : Int) * 65536 ≤ (o.natAbs : Int) then s.phaseStep o else s.rateStep o

end Sys2Proof.Machine
end

