-- ==== Sys2Proof/Machine/Readings.lean ====
section
/-! DEFINITION. Reading the object dictionary: entries that show the present state of a unit, and the read of any entry
(16 R406, R408, R409). -/
namespace Sys2Proof.Machine

/-! Identity. -/

/-- Decimal digits of a number below 10^`n`, without leading zeros. -/
def decimal : Nat → Nat → Bytes
  | 0, _ => []
  | n + 1, v => (if v < 10 then [] else decimal n (v / 10)) ++ [BitVec.ofNat 8 (48 + v % 10)]

/-- Device name, hardware version and software version (Table 16-1). -/
def State.text (s : State) (ix : Nat) : Bytes :=
  let st := Config.stepping.toNat
  if ix = 0x1008 then [0x4F#8, 0x5A#8, 0x2D#8] ++ decimal 5 s.grade
  else if ix = 0x1009 then decimal 3 (st / 256) ++ [0x2E#8] ++ decimal 3 (st % 256)
  else if ix = 0x100A then Config.firmwareVersion
  else slice Config.serial 0 12

/-- 1018h. -/
def State.read1018 (s : State) (sub : Nat) : Option Nat :=
  match sub with
  | 1 => some 0xE74
  | 2 => some (gHex s.grade)
  | 3 => some (Config.stepping.toNat * 65536 + Config.firmwareRevision.toNat)
  | 4 => some (crc32 (slice Config.serial 0 12))
  | _ => none

/-- 2000h (00 Table 0-2). -/
def State.read2000 (s : State) (sub : Nat) : Option Nat :=
  match sub with
  | 1 => some s.grade
  | 2 => some Config.stepping.toNat
  | 3 => some (gCores s.grade)
  | 4 => some (gArrays s.grade)
  | 5 => some (gPorts s.grade)
  | 6 => some (gScc s.grade)
  | 7 => some 384
  | 8 => some 1024
  | 9 => some 512
  | 10 => some 131072
  | 11 => some 4
  | 12 => some 16
  | 13 => some 64
  | _ => none

/-! Cores and arrays (03, 05). -/

/-- Slots of a core whose context passes a test, as a mask. -/
def State.slotMask (s : State) (c : Nat) (t : Nat → Ctx → Bool) : Nat :=
  (upTo 4).foldl (fun m n => match s.slotCtx c n with | some (k, x) => m + b2n (t k x) * 2 ^ n | none => m) 0

/-- A context waits: for a semaphore, a credit, the quiescence of a yield, or past its due cycle for a full queue. -/
def State.waits (s : State) (k : Nat) (x : Ctx) : Bool :=
  x.waiting != .none || (s.canIssue k x && decide (s.dueOf k x < s.cclk))

/-- 2400h + c (Tables 5-14 to 5-16). -/
def State.readCore (s : State) (c sub : Nat) : Option Nat :=
  match sub with
  | 1 => some (s.slotMask c (fun _ _ => true) + s.slotMask c (fun _ x => x.pos) * 16 + s.slotMask c s.waits * 256 +
      (if s.reg (kMem 0x27) = 1 then 4096 else 0))
  | 2 => some ((upTo 4).foldl (fun v n =>
      v + (match s.slotCtx c n with | some (k, _) => ctxLane k / 2 * 64 + ctxJob k | none => 0xFF) * 256 ^ n) 0)
  | 3 => some (withBits (s.reg (kCore c 3)) 7 4 (s.slotMask c (fun k _ => ctxLane k % 2 == 1)))
  | _ => none

/-- State code of an array half (Table 3-12). -/
def State.halfCode (s : State) (n h : Nat) : Nat :=
  let u := s.half n h
  if s.cclk < u.clearAt then 3
  else if u.flights.any (fun f => decide (s.cclk < f.lastEntry + 22)) then 2
  else if !u.queue.isEmpty || s.wantsMode (n / 2) (n % 2) (!(s.array n).split) then 1 else 0

/-- The ascending lists of `n` members of a list. -/
def choices : Nat → List Nat → List (List Nat)
  | 0, _ => [[]]
  | _ + 1, [] => []
  | n + 1, x :: xs => (choices n xs).map (x :: ·) ++ choices (n + 1) xs

/-- Physical cores of the enabled cores, by logical number: some ascending choice out of six (00 R4). -/
def physicalCores (g : Nat) : List Nat :=
  let all := choices (gCores g) (upTo 6)
  (all[Config.coreChoice % all.length]?).getD []

/-- Physical core of a logical core; 7 for none (Table 3-11). -/
def physicalCore (g c : Nat) : Nat := (physicalCores g)[c]?.getD 7

/-- Array `a` of logical core `c` is enabled: both, but one of C4's and C5's in an OZ-7348 (00 R5). -/
def physicalArray (g c a : Nat) : Bool := gArray g (2 * c + 1) || decide (a = b2n (Config.arrayChoice c))

/-- 2410h.01h: bit 2p + a for array a of physical core p. -/
def arrayFuses (g : Nat) : Nat :=
  (upTo (gCores g)).foldl (fun m c =>
    m + b2n (physicalArray g c 0) * 2 ^ (2 * physicalCore g c) + b2n (physicalArray g c 1) * 2 ^ (2 * physicalCore g c + 1)) 0

/-- 2410h.02h: three bits for each logical core. -/
def coreFuses (g : Nat) : Nat := (upTo 6).foldl (fun m c => m + physicalCore g c * 8 ^ c) 0

/-- 2410h (Tables 3-11 and 3-12). -/
def State.read2410 (s : State) (sub : Nat) : Option Nat :=
  if sub = 1 then some (arrayFuses s.grade)
  else if sub = 2 then some (coreFuses s.grade)
  else if sub = 3 then some ((upTo 12).foldl (fun m n => m + b2n (gArray s.grade n) * 2 ^ n) 0)
  else if within sub 0x10 0x1B then
    let n := sub - 0x10
    if gArray s.grade n then
      let split := (s.array n).split
      let l := s.halfCode n 0
      let r := if split then s.halfCode n 1 else l
      some (withBits (s.reg (key 0x2410 sub)) 7 0 (r * 64 + l * 16 + b2n split * 2 + 1))
    else some 0
  else none

/-! Memory, partitions, jobs and the model cache (07, 09). -/

/-- Jobs, contexts resident and contexts in sidings of a partition, with its cores (Table 9-1). -/
def State.partStatus (s : State) (p : Nat) : Nat :=
  let js := s.partJobs p
  let xs := s.ctxs.filter (fun x => js.contains (ctxJob x.1))
  let sided := (xs.filter (fun x => x.2.place == .siding)).length
  (s.partCores p).length * 2 ^ 24 + (js.filter (fun j => s.running (fJob j))).length % 256 * 2 ^ 16 +
    (xs.length - sided) % 256 * 2 ^ 8 + sided % 256

/-- KB that allotments hold in a pool. -/
def State.poolUse (s : State) (i : Nat) : Nat :=
  (if i = 4 then s.poolMB 4 * 2 ^ 20 else (s.poolSpans i).foldl (fun t x => t + x.2) 0) / 1024

/-- 2500h (Tables 7-4 and 9-1). -/
def State.read2500 (s : State) (sub : Nat) : Option Nat :=
  if within sub 1 6 then (if sub - 1 < s.cores then none else some 0xFF)
  else if within sub 0x13 0x18 then some (s.partStatus (sub - 0x13))
  else if sub = 0x24 then some (s.poolMB 4)
  else if sub = 0x26 then some (512 - (upTo 6).foldl (fun t i => t + s.poolMB i) 0)
  else if within sub 0x28 0x2D then some (s.poolBase (sub - 0x28) % 2 ^ 32)
  else if within sub 0x30 0x35 then some (s.poolUse (sub - 0x30))
  else if sub = 0x37 then some Config.repairedRows.toNat
  else none

/-- State of a lane (Table 9-11). -/
def State.laneCode (s : State) (j l : Nat) : Nat :=
  if !s.active (fJob j) then 0
  else if (s.job j).ended.contains l then 0xF
  else if (s.job j).loading ∧ l < (s.job j).cores.length then 9
  else match s.ctx? (ctxKey j l) with
    | none => 0
    | some x =>
      let b := b2n (s.blocked (ctxKey j l) x)
      if x.move.isSome then 8
      else if x.pos then 1
      else match x.place with
        | .inPlace => 2 + b
        | .staged => 4 + b
        | .siding => 6 + b

/-- 2510h + j. -/
def State.readJob (s : State) (j sub : Nat) : Option Nat :=
  if sub = 8 then
    some (withBits (s.reg (kJob j 8)) 23 0 ((upTo 6).foldl (fun v l => v + s.laneCode j l * 16 ^ l) 0))
  else if sub = 9 then (if s.running (fJob j) then none else some 0)
  else none

/-- Cache entries by rising address. -/
def State.cacheList (s : State) : List CacheEntry :=
  s.cache.foldl (fun t e => t.takeWhile (fun d => decide (d.base < e.base)) ++ e :: t.dropWhile (fun d => decide (d.base < e.base))) []

/-- 2560h (Table 9-6). -/
def State.read2560 (s : State) (sub : Nat) : Option Nat :=
  if sub = 3 then some (roundUp s.storeUse (2 ^ 20) / 2 ^ 20)
  else if sub = 6 then some (s.cache.length % 256)
  else if within sub 0x10 0x4F then
    match s.cacheList[sub - 0x10]? with
    | some e => some ((if e.img then 0xFFFFFF00 + e.id else e.id) * 2 ^ 32 + e.version)
    | none => some 0
  else if within sub 0x50 0x8F then
    match s.cacheList[sub - 0x50]? with
    | some e => some (b2n (!e.img && s.pins.contains e.id) * 2 ^ 31 + b2n (s.entryUsed e) * 2 ^ 30 + b2n e.img * 2 ^ 29 +
        b2n (!e.loaded) * 2 ^ 28 + roundUp e.size kb64 / kb64)
    | none => some 0
  else none

/-! Ports, groups and networks. -/

/-- 2200h + p: the upper ports of a gang show no stream of their own (11 R304). -/
def State.readPort (s : State) (p sub : Nat) : Option Nat :=
  if s.streamOf p ≠ p ∧ (within sub 1 8 ∨ within sub 0x0E 0x16) then some 0 else none

/-- 2610h + g. -/
def State.readGroup (s : State) (g sub : Nat) : Option Nat :=
  if sub = 7 then some (s.group g).entries.length
  else if sub = 0x0F then
    some (b2n (s.vetoActive g) * 4 + b2n (s.openBy g s.passed != 0) * 2 + b2n (decide (1024 ≤ (s.group g).entries.length)))
  else none

/-- Link state of a port: bring-up that has begun shows as TRAINING. -/
def State.shownLstate (s : State) (p : Nat) : Nat :=
  match (s.net p).train with
  | some c => if c ≤ s.sclk then 1 else s.lstate p
  | none => s.lstate p

/-- 2620h + c (Table 14-9): SHIFT. -/
def State.readChan (s : State) (c sub : Nat) : Option Nat :=
  if sub = 2 then some (withBit (s.reg (kChan c 2)) 0 (s.shifting c)) else none

/-- 2700h + n. -/
def State.readNet (s : State) (n sub : Nat) : Option Nat :=
  if sub = 2 then some (Config.mac n).toNat
  else if sub = 0x0C then some (s.shownLstate n)
  else if sub = 0x1B then some (roundUp (s.rxUsed n) (2 ^ 20) / 2 ^ 20)
  else none

/-- 2710h. -/
def State.read2710 (s : State) (sub : Nat) : Option Nat := if sub = 6 then some (s.t32Fine / 2 ^ 15 % 2 ^ 48) else none

/-- 2730h. -/
def State.read2730 (s : State) (sub : Nat) : Option Nat :=
  if sub = 6 then some (s.shownLstate 2)
  else if sub = 0x14 then
    some (withBits (s.reg (kLink 0x14)) 1 0
      (if !s.participant then 3 else if s.barrier.at_.isSome then 2 else if s.barrier.armed then 1 else 0))
  else none

/-! Security and debug (19). -/

/-- 2810h (Table 19-10). -/
def State.read2810 (s : State) (sub : Nat) : Option Nat :=
  match sub with
  | 1 => some s.fuses.lifecycle
  | 4 => some ((upTo 4).foldl (fun v i => v + b2n (s.fuses.revoked.contains (i + 1)) * 2 ^ (4 + i) +
      b2n (tfind s.fuses.owner (i + 1)).isSome * 2 ^ i) 0)
  | 5 => some ((upTo 4).foldl (fun v i => v + b2n (tfind s.flash.content i).isSome * 2 ^ i) 0)
  | 7 => some (s.minVersion 1)
  | 8 => some (s.minVersion 2)
  | 9 => some (s.minVersion 3)
  | 0x0A => some (b2n s.power.recovery * 2 ^ 29 + s.flash.bank % 2 * 2 ^ 28 +
      (tfind s.flash.versions s.flash.bank).getD (Config.bankVersion s.flash.bank).toNat % 2 ^ 28)
  | _ => none

/-- 2820h (Table 19-14). -/
def State.read2820 (s : State) (sub : Nat) : Option Nat :=
  if sub = 5 then
    some (s.tap.instr * 256 + b2n s.tap.erased * 8 + b2n (s.ctxs.any (fun x => x.2.halted)) * 4 + s.debugLevel)
  else none

/-! Reading an entry. -/

/-- What an entry that shows the present state of its unit reads as; none for one that reads as it is stored. -/
def State.reading (s : State) (ix sub : Nat) : Option Nat :=
  if ix = 0x1018 then s.read1018 sub
  else if ix = 0x2000 then s.read2000 sub
  else if ix = 0x2010 then (if sub = 3 then some s.cclkCount else if sub = 4 then some (s.sclk - s.alignS) else none)
  else if ix = 0x2180 then
    (if within sub 0x21 0x30 then
      let t := sub - 0x21
      let u := s.timer t
      some (if !u.running then 0 else if bit (s.timerCfg t) 29 then u.left else u.due - s.sclk)
    else none)
  else if within ix 0x2200 0x2223 then s.readPort (ix - 0x2200) sub
  else if within ix 0x2230 0x223B then (if sub = 7 then some (s.scc (ix - 0x2230)).queue.length else none)
  else if within ix 0x2400 0x2405 then s.readCore (ix - 0x2400) sub
  else if ix = 0x2410 then s.read2410 sub
  else if ix = 0x2500 then s.read2500 sub
  else if within ix 0x2510 0x254F then s.readJob (ix - 0x2510) sub
  else if ix = 0x2560 then s.read2560 sub
  else if within ix 0x2610 0x261F then s.readGroup (ix - 0x2610) sub
  else if within ix 0x2620 0x2623 then s.readChan (ix - 0x2620) sub
  else if ix = 0x2630 then (if sub = 1 then some s.ownedDo else none)
  else if within ix 0x2700 0x2701 then s.readNet (ix - 0x2700) sub
  else if ix = 0x2710 then s.read2710 sub
  else if ix = 0x2730 then s.read2730 sub
  else if ix = 0x2810 then s.read2810 sub
  else if ix = 0x2820 then s.read2820 sub
  else if within ix 0x2A00 0x2A0F then
    (if sub = 0x13 then some (s.slotSize (ix - 0x2A00)) else if sub = 0x14 then some (s.freeSlots (ix - 0x2A00)) else none)
  else if within ix 0x6000 0x60FF then (if sub = 0 then none else some (tget (fun _ => 0) s.ec.image (key ix sub)))
  else none

/-- A DOMAIN value as it reads (14 Table 14-9, 19 Tables 19-10 and 19-14). -/
def State.readDom (s : State) (ix sub : Nat) : Bytes :=
  if within ix 0x2620 0x2623 then leBytes 64 (s.chan (ix - 0x2620)).latched
  else if ix = 0x2810 then slice Config.deviceKey 0 96
  else if ix = 0x2820 then slice (Config.challenge s.tap.renewed) 0 32
  else s.dom (key ix sub)

/-- A number, with the state that its reading leaves: an RC entry clears, and what is measured or counted outside the model
is free (2801h.07h, 2500h.3Fh). -/
def State.readNum (s : State) (ix sub : Nat) (e : Entry) : Nat × State :=
  if ix = 0x2801 ∧ sub = 7 then s.fresh 65536
  else if ix = 0x2500 ∧ sub = 0x3F ∧ s.extOpen then ({ s.setReg (kMem 0x3F) 0 with extOpen := false }).fresh 4097
  else if e.acc = .rc then s.readClear (key ix sub)
  else ((s.reading ix sub).getD (s.reg (key ix sub)), s)

/-- Objects that the ROM image of recovery answers (19 R472). -/
def recoveryServes (ix : Nat) : Bool := within ix 0x1000 0x1018 || ix == 0x2000 || ix == 0x2800 || ix == 0x2810

/-- The module refuses an access outside what recovery serves. -/
def State.recoveryRefuses (s : State) (ix : Nat) : Bool := s.power.recovery && !recoveryServes ix

/-- The read of an entry: its bytes and what it leaves, or an abort code (R406, R408, R16). -/
def State.readEntry (s : State) (ix sub : Nat) : Except Nat (Bytes × State) :=
  if s.recoveryRefuses ix then .error 0x080000A6
  else if !hasIndex s.grade ix then .error 0x06020000
  else match entryOf ix sub with
    | none => .error 0x06090011
    | some e =>
      if e.acc = .wo then .error 0x06010001
      else match e.type with
        | .num n =>
          let r := s.readNum ix sub e
          .ok (leBytes n r.1, r.2)
        | .str => .ok (s.text ix, s)
        | .dom => .ok (s.readDom ix sub, s)

/-- The object has a DOMAIN subindex (R419). -/
def hasDomain (ix : Nat) : Bool :=
  (upTo 256).any (fun sub => match entryOf ix sub with | some e => e.type == .dom | none => false)

/-- Subindices of an object from `sub` up. -/
def subsFrom (ix sub : Nat) : List Nat := (upTo 256).filter (fun i => decide (sub ≤ i) && (entryOf ix i).isSome)

/-- A complete-access read from subindex 0 or 1 (R406): subindex 0 takes two bytes. PRESUMED: CiA 301 and ETG.1000.6 pad
subindex 0 to 16 bits. A write-only entry refuses it. -/
def State.readComplete (s : State) (ix sub : Nat) : Except Nat (Bytes × State) :=
  if s.recoveryRefuses ix then .error 0x080000A6
  else if !hasIndex s.grade ix then .error 0x06020000
  else if 1 < sub then .error 0x06090011
  else if hasDomain ix then .error 0x06010000
  else (subsFrom ix sub).foldl (fun acc i =>
    match acc with
    | .error c => .error c
    | .ok (bs, s) =>
      match s.readEntry ix i with
      | .error c => .error c
      | .ok (xs, s) => .ok (bs ++ (if i = 0 then slice xs 0 2 else xs), s)) (.ok ([], s))

end Sys2Proof.Machine
end

