-- ==== Sys2Proof/Machine/ProcessData.lean ====
section
/-! DEFINITION. EtherCAT process data and the AL state: mapping, the input snapshot, the outputs and what they do, SYNC0,
and emergency messages (16 R421 to R428, 20 R494). -/
namespace Sys2Proof.Machine

/-! Mapping (R423). -/

/-- 1C33h, subindex `sub`. -/
def kSm (sub : Nat) : Nat := key 0x1C33 sub

/-- Objects assigned by 1C12h or 1C13h. -/
def State.assigned (s : State) (obj : Nat) : List Nat :=
  (upTo (min 4 (s.reg (key obj 0)))).map (fun i => s.reg (key obj (i + 1)))

/-- The entries that a mapping object holds: index, subindex, bits. -/
def State.mapOf (s : State) (obj : Nat) : List (Nat × Nat × Nat) :=
  (upTo (min 64 (s.reg (key obj 0)))).map (fun i =>
    let v := s.reg (key obj (i + 1))
    (v / 65536, v / 256 % 256, v % 256))

/-- The entries mapped into the inputs (1C13h) or the outputs (1C12h), in order. -/
def State.mapped (s : State) (obj : Nat) : List (Nat × Nat × Nat) := (s.assigned obj).flatMap s.mapOf

/-- Bytes of a list of mapped entries. -/
def mapBytes (xs : List (Nat × Nat × Nat)) : Nat := xs.foldl (fun t x => t + x.2.2 / 8) 0

/-- A mapping entry may stand in a mapping object (R423): inputs in TxPDOs, outputs in RxPDOs, each entry whole. -/
def mapEntryOk (tx : Bool) (v : Nat) : Bool :=
  let ix := v / 65536
  let area := if tx then within ix 0x6000 0x60FF else within ix 0x7000 0x70FF
  area && (match entryOf ix (v / 256 % 256) with | some ⟨.num n, _, _, _⟩ => v % 256 == 8 * n | _ => false)

/-- Every assigned object exists. -/
def State.assignOk (s : State) (obj lo : Nat) : Bool := (s.assigned obj).all (fun x => within x lo (lo + 3))

/-! The snapshot (R425, R426). -/

/-- Record slots that the inputs map, a slot being mapped when either word is. -/
def State.slotsMapped (s : State) : Nat :=
  let xs := s.mapped 0x1C13
  ((upTo 16).filter (fun r => xs.any (fun x => x.1 == 0x6010 && (x.2.1 == 2 * r + 1 || x.2.1 == 2 * r + 2)))).length

/-- Functions in a state, saturating at FFh. -/
def State.tally (s : State) (x : FnState) : Nat := min 255 (allFns.filter (fun f => s.fn f == x)).length

/-- Veto bits active (6020h.03h). -/
def State.vetoBits (s : State) : Nat := (upTo 16).foldl (fun m g => m + b2n (s.vetoActive g) * 2 ^ g) 0

/-- The values of 6000h to 6020h in this cycle, with the records that the snapshot takes. -/
def State.imageOf (s : State) (first : Nat) (rs : List VerdRec) : List (Nat × Nat) :=
  let put := fun (t : List (Nat × Nat)) (k v : Nat) => tset (fun _ => 0) t k v
  let t := (upTo 4).foldl (fun t d => put t (key 0x6000 (d + 1)) (s.lpos d)) []
  let t := put (put (put t (key 0x6001 1) first) (key 0x6001 2) rs.length) (key 0x6001 3) (s.reg (key 0x6001 3))
  let t := (upTo rs.length).foldl (fun t i =>
    match rs[i]? with
    | some r => put (put t (key 0x6010 (2 * i + 1)) r.a) (key 0x6010 (2 * i + 2)) r.b
    | none => t) t
  let t := put t (key 0x6020 1) (s.tally .faulted * 2 ^ 24 + s.tally .running * 2 ^ 16)
  let t := put (put t (key 0x6020 2) (s.reg (key 0x2640 1))) (key 0x6020 3) s.vetoBits
  put (put t (key 0x6020 4) ((s.sclk - s.alignS) % 2 ^ 32)) (key 0x6020 5) (s.reg (key 0x6020 5))

/-- Form a snapshot in this cycle. The number of the first record is left open where it takes none. -/
def State.form (s : State) : State :=
  let rs := s.pdQueue.take s.slotsMapped
  let x := match rs with
    | r :: _ => (r.num, s)
    | [] => s.fresh (2 ^ 32)
  let s := x.2
  { s with ec := { s.ec with image := s.imageOf x.1 rs, prev := (s.ec.first, s.ec.taken), first := x.1,
                             taken := rs.length, snapAt := s.sclk, awaited := false } }

/-- DC SYNC0 mode (1C33h.01h = 02h). -/
def State.syncMode (s : State) : Bool := s.reg (kSm 1) == 2

/-- SCLK cycles of the shift time. -/
def State.shiftCycles (s : State) : Nat := s.reg (kSm 3) / 2

/-- A frame start in frame-synchronous mode: frames closer than 50 µs are counted and take no snapshot (R428). -/
def State.frameSnapshot (s : State) : State :=
  let close : Bool := match s.ec.frameAt with | some c => decide (s.sclk < c + 25000) | none => false
  let s := { s with ec := { s.ec with frameAt := some s.sclk } }
  if close then s.addReg (kSm 0x0C) 1 else s.form

/-- The snapshot of the latest SYNC0 is due. -/
def State.snapshotDue (s : State) : Bool :=
  s.ec.awaited && (match s.ec.syncAt with | some c => decide (c + s.shiftCycles ≤ s.sclk) | none => false)

/-- The records that the frame now ending has read: in SYNC0 mode a read that began before the image was complete has read
the image before it. A byte takes 40 SCLK. -/
def State.recordsRead (s : State) : Nat × Nat :=
  if s.syncMode && decide (s.sclk < s.ec.snapAt + 400 + 40 * mapBytes (s.mapped 0x1C13)) then s.ec.prev
  else (s.ec.first, s.ec.taken)

/-! Outputs (R427). -/

/-- Take the veto bits of 7000h.01h. -/
def State.takeVetoBits (s : State) : State :=
  ({ s with pdVeto := s.reg (key 0x7000 1) }).markAll.causes s.sclk

/-- The fire-order record of a forced-eject slot; a reserved bit of the slot stands in a reserved bit of the record. -/
def ejectRec (a b : Nat) : FireRec :=
  { w0 := 1 + bits a 53 48 * 2 ^ 32 + 2 * 2 ^ 38 + bits a 55 54 * 2 ^ 40, w1 := bits a 47 0 + bits b 63 48 * 2 ^ 48, w2 := bits b 47 32, w3 := bits b 31 0 }

/-- A forced-eject slot is executed when its SEQ differs from the value last taken. -/
def State.takeEject (s : State) (i : Nat) : State :=
  let a := s.reg (key 0x7010 (2 * i + 1))
  let b := s.reg (key 0x7010 (2 * i + 2))
  let seq := bits a 63 56
  if seq = tget (fun _ => 0) s.ec.seqs i then s
  else
    let s := { s with ec := { s.ec with seqs := tset (fun _ => 0) s.ec.seqs i seq } }
    s.routeRec s.sclk 0x10 none (ejectRec a b)

/-- Remember an EtherCAT write for R418: those of earlier cycles matter only while the host port has a transfer open. -/
def State.noteEc (s : State) (index : Nat) (fns owners : List Nat) : State :=
  let old := if s.hsp.xfer.isSome then s.ec.wrote else s.ec.wrote.filter (fun w => w.at_ == s.sclk)
  { s with ec := { s.ec with wrote := old ++ [EcWrite.mk s.sclk index fns owners] } }

/-- The command of a command slot: an EtherCAT write of CMD to the entry named. -/
def State.slotCommand (s : State) (v : Nat) : Reply :=
  let f := bits v 23 16
  let s := s.noteEc 0x2020 [f] []
  if bits v 15 4 ≠ 0 ∨ !within (bits v 3 0) 1 7 then s.refuse .ethercat ⟨0x06090030, 0x2020, f⟩ f
  else if (fnOf f).isNone then s.refuse .ethercat ⟨0x06090011, 0x2020, f⟩ f
  else s.fnWrite .ethercat f (bits v 3 0 * 256)

/-- The command slot is executed when its SEQ differs from the value last taken, and its result reported. -/
def State.takeCommand (s : State) : State :=
  let v := s.reg (key 0x7020 1)
  let seq := bits v 31 24
  if seq = s.ec.cmdSeq then s
  else
    let s := { s with ec := { s.ec with cmdSeq := seq } }
    let r := s.slotCommand v
    r.s.setReg (key 0x6020 5) (seq * 2 ^ 56 + bits v 23 16 * 2 ^ 48 + (match r.no with | some a => a.code | none => 0))

/-- What 7000h to 7020h hold acts, in this cycle (R424, R427). -/
def State.takeOutputs (s : State) : State := (forEach (upTo 4) s.takeVetoBits (fun i s => s.takeEject i)).takeCommand

/-- The bytes of a buffer go to the entries mapped. -/
def State.fillOutputs (s : State) (image : Bytes) : State :=
  ((s.mapped 0x1C12).foldl (fun (x : State × Bytes) e =>
    (x.1.setReg (key e.1 e.2.1) (leNat (x.2.take (e.2.2 / 8))), x.2.drop (e.2.2 / 8))) (s, image)).1

/-! AL states (R421, R422). -/

/-- AL code of a state. -/
def alCode : AlState → Nat
  | .init => 1
  | .preop => 2
  | .boot => 3
  | .safeop => 4
  | .op => 8
  | .other => 0

/-- The functions that EtherCAT has claimed are free again. -/
def State.endClaims (s : State) (r : Route) : State :=
  forEach allFns s (fun f s => if s.owner f = routeCode r then s.setField (key 0x2020 f) 5 4 0 else s)

/-- Records are numbered from 0 on entry into SAFEOP, and 6001h.03h counts from there (R426). -/
def State.renumber (s : State) : State :=
  let n := s.pdQueue.length
  let q := (upTo n).filterMap (fun i => (s.pdQueue[i]?).map (fun r => { r with num := i }))
  { (s.setReg (key 0x6001 3) 0) with pdQueue := q, pdNext := n, ec := { s.ec with taken := 0, prev := (0, 0) } }

/-- The AL state becomes `a` with a status code. -/
def State.enterAl (s : State) (a code : Nat) : State :=
  let was := s.ec.al
  let s := { s with ec := { s.ec with al := a, code := code } }
  let s := if was = 8 ∧ a ≠ 8 then ({ s with pdVeto := 0 }).markAll.causes s.sclk else s
  let s := if a = 4 ∧ was ≠ 4 then s.renumber else s
  if a = 1 then { (s.endClaims .ethercat) with ec := { s.ec with down := none } } else s

/-- The cycle time suits R428. -/
def cycleOk (ns : Nat) : Bool := within ns 50000 100000000 && ns % 10 == 0

/-- The AL status code that refuses PREOP to SAFEOP; 0 where nothing does. -/
def State.safeopCode (s : State) (sm2 sm3 sync0Cycle : Nat) : Nat :=
  if !s.assignOk 0x1C13 0x1A00 then 0x0024
  else if !s.assignOk 0x1C12 0x1600 then 0x0025
  else if sm2 ≠ mapBytes (s.mapped 0x1C12) then 0x001D
  else if sm3 ≠ mapBytes (s.mapped 0x1C13) then 0x001E
  else if s.syncMode ∧ sync0Cycle = 0 then 0x0030
  else if sync0Cycle ≠ 0 ∧ !cycleOk sync0Cycle then 0x0035
  else if s.syncMode ∧ sync0Cycle < s.reg (kSm 3) + 1000 then 0x0030
  else 0

/-- A transition of the EtherCAT state machine is one that exists: up one step at a time, down at will. -/
def alAllowed (was want : Nat) : Bool :=
  decide (want ≤ was) || (was == 1 && want == 2) || (was == 2 && want == 4) || (was == 4 && want == 8)

/-! SYNC0 (R428, 18 R463). -/

/-! Emergency messages (20 R494). -/

/-- The emergency message of a record; a record of TYPE 00h stands for the end of the last fault. -/
def State.emergencyOf (s : State) (r : EvRec) : Bytes :=
  if r.type = 0 then List.replicate 8 0#8
  else
    let code := if r.type = 1 then 0xFF80 + (r.what / 65536 - 0x2900) else 0xFF00 + r.type
    leBytes 2 code ++ leBytes 1 (b2n s.anyFaulted + 0x80) ++ leBytes 2 r.what ++
      leBytes 3 (match r.lpos with | some x => x.2 | none => 0)

/-! Holdoff timers (20 R493). -/

end Sys2Proof.Machine
end

