-- ==== Sys2Proof/Machine/Dictionary.lean ====
section
/-! DEFINITION. Writing the object dictionary: the checks of R408 in their order, contention between the routes, and what
a write to each entry does (16 R406 to R418, and the tables of every chapter). -/
namespace Sys2Proof.Machine

/-! Owners (R412, R416). -/

/-- Functions that a test selects. -/
def fnsWhere (n : Nat) (f : Nat → Nat) (t : Nat → Bool) : List Nat := ((upTo n).filter t).map f

/-- Line domains fed by source `src`. -/
def State.sourceOwners (s : State) (src : Nat) : List Nat := fnsWhere 4 fDomain (fun d => s.field' (key (0x2108 + d) 1) 2 0 == src)

/-- Streams that hold the ports of sensor-control channel `k`. -/
def State.sccOwners (s : State) (k : Nat) : List Nat := ((upTo 3).map (fun i => fStream (s.streamOf (3 * k + i)))).eraseDups

/-- Functions that own the RWS entry at an index and subindex, as its chapter names them. -/
def State.ownersOf (s : State) (ix sub : Nat) : List Nat :=
  if within ix 0x2100 0x2103 then s.sourceOwners (ix - 0x2100)
  else if within ix 0x2108 0x210B then [fDomain (ix - 0x2108)]
  else if within ix 0x2120 0x213F then [fDomain (s.cmpDom (ix - 0x2120))]
  else if within ix 0x2140 0x217F then [fDomain (s.winDom (ix - 0x2140))]
  else if ix = 0x2180 then [fDomain (bits (s.timerCfg (sub - 1)) 28 27)]
  else if within ix 0x2190 0x21B3 then [fStream (s.streamOf (ix - 0x2190))]
  else if within ix 0x2200 0x2223 then [fStream (s.streamOf (ix - 0x2200))]
  else if within ix 0x2230 0x223B then s.sccOwners (ix - 0x2230)
  else if within ix 0x2300 0x2323 then [fStream (s.streamOf (ix - 0x2300))]
  else if within ix 0x2510 0x254F then [fJob (ix - 0x2510)]
  else if within ix 0x2610 0x261F then [fGroup (ix - 0x2610)]
  else if within ix 0x2620 0x2623 then fnsWhere 16 fGroup (fun g => s.groupTgt g == 0 && s.groupCh g == ix - 0x2620)
  else if within ix 0x2700 0x2701 then [fNet (ix - 0x2700)]
  else if ix = 0x2720 then [fNet (min 2 ((if sub < 0x21 then (sub - 1) / 8 else sub - 0x21)))]
  else if ix = 0x2730 then [fNet 2]
  else if within ix 0x2A00 0x2A0F then [fIntake (ix - 0x2A00)]
  else if within ix 0x2B00 0x2B0F then (s.bankJobs (ix - 0x2B00)).map fJob
  else []

/-- A function's RWS entries may be written (R16, 10 R300). -/
def State.writable (s : State) (f : Nat) : Bool := s.idle f && !s.barrierHolds f

/-! Lengths (R406). -/

/-- The length of a value that must be `n` bytes. -/
def exactly (n k : Nat) : Option Nat := if k = n then none else if n < k then some 0x06070012 else some 0x06070013

/-- The length of a DOMAIN value, where its chapter fixes it. -/
def domLength (ix sub k : Nat) : Option Nat :=
  if within ix 0x2230 0x223B then exactly 32 k
  else if within ix 0x2300 0x2323 then
    if sub = 5 then exactly 32 k
    else if sub = 6 ∨ sub = 7 then exactly 2050 k
    else if sub = 9 then (if k % 4 ≠ 0 then some 0x06070010 else if 65536 < k then some 0x06070012 else none)
    else none
  else if within ix 0x2A00 0x2A0F then exactly 56 k
  else if ix = 0x2810 ∧ sub = 3 then exactly 512 k
  else if ix = 0x2820 then exactly 256 k
  else none

/-- The length of a write to an entry. -/
def lengthBad (e : Entry) (ix sub k : Nat) : Option Nat :=
  match e.type with
  | .num n => exactly n k
  | .str => none
  | .dom => domLength ix sub k

/-! Ranges (R408 step 4). -/

/-- Line time (02). -/
def State.rangeLine (s : State) (ix sub v : Nat) : Bool :=
  if within ix 0x2108 0x210B then sub ≠ 9 || 1 ≤ v
  else if within ix 0x2120 0x213F then sub ≠ 4 || within v 1 2
  else if within ix 0x2140 0x217F then
    let span := posDiff (s.reg (key ix 3)) (s.reg (key ix 2))
    let pitch := s.reg (key ix 4)
    sub ≠ 5 || (within v 1 2 && !(v == 1 && decide (0 < pitch) && decide ((pitch : Int) < span)))
  else if ix = 0x2180 then !within sub 0x11 0x20 || decide (1 ≤ v)
  else if within ix 0x2190 0x21B3 then (if sub = 2 then within v 1 16777215 else sub ≠ 5 || decide (v ≤ 16777215))
  else true

/-- Sensor ports, sensor control, image front end (11, 12). -/
def State.rangeSensor (s : State) (ix sub v : Nat) : Bool :=
  if within ix 0x2200 0x2223 then
    match sub with
    | 2 => within v 1 16384
    | 3 => decide (1 ≤ v)
    | 4 => within v 1 1024
    | 8 => decide (1 ≤ v)
    | 0x0B => v == 1
    | _ => true
  else if within ix 0x2230 0x223B then
    match sub with
    | 1 =>
      let some_ := (s.sccOwners (ix - 0x2230)).any s.idle
      !some_ || (bits v 1 0 != 3 && bits v 21 20 != 3 && decide (bits v 23 22 ≤ 1) && decide (4 ≤ bits v 19 12))
    | 2 => within v 1 4294967
    | 3 => decide (1 ≤ v)
    | _ => true
  else if within ix 0x2300 0x2323 then sub ≠ 3 || 2 ≤ v
  else true

/-- Memory, partitions, jobs, the model cache, banks (07, 08, 09, 10). -/
def State.rangeCompute (s : State) (ix sub v : Nat) : Bool :=
  if ix = 0x2010 then sub ≠ 1 || v ≤ 1
  else if ix = 0x2500 then
    if within sub 1 6 then decide (v ≤ 5) && decide (sub - 1 < s.cores)
    else if within sub 7 0x0C then decide (0 < bits v 28 0)
    else if within sub 0x0D 0x12 then decide (1 ≤ v)
    else if sub = 0x21 then decide (v ≤ 384)
    else if sub = 0x27 then decide (v ≤ 1) && (v == 0 || s.wideFits)
    else true
  else if within ix 0x2510 0x254F then (if sub = 3 then within v 1 1536 else sub ≠ 4 || within v 3 1024)
  else if ix = 0x2560 then sub ≠ 4 || within v 1 5
  else if within ix 0x2B00 0x2B0F then
    let ready := s.bankReady (ix - 0x2B00) || (s.bank (ix - 0x2B00)).creating.isSome
    match sub with
    | 1 => within (bits v 3 0) 4 7 && !ready
    | 2 => decide (v ≤ 23437500) && !ready
    | 3 => decide (v ≤ s.reg (key ix 2)) && !ready
    | 4 => within v 1 2
    | _ => true
  else true

/-- Groups, valve bus, field section (14, 15). -/
def rangeField (ix sub v : Nat) : Bool :=
  if within ix 0x2610 0x261F then
    match sub with
    | 2 => within v 1 1048575
    | 4 => within v 1 512
    | 6 => decide (1 ≤ v)
    | _ => true
  else if within ix 0x2620 0x2623 then sub ≠ 1 || (within (bits v 9 0) 1 512 && 1 ≤ bits v 23 16)
  else if ix = 0x2640 then
    if within sub 0x0B 0x12 then within (bits v 15 0) 1 65
    else if within sub 3 0x13 then decide ((if bit v 16 then 1 else 10) ≤ bits v 15 0)
    else true
  else true

/-- Networks, power, security, debug, intake, events (13, 18, 19, 20). -/
def rangeRest (ix sub v : Nat) : Bool :=
  if within ix 0x2700 0x2701 then
    match sub with
    | 8 => within v 16 16384
    | 9 => within v 16 4096
    | 0x0A => decide (1 ≤ v)
    | _ => true
  else if ix = 0x2710 then
    sub ≠ 1 || (decide (bits v 31 24 ≤ 127) && bits v 3 2 != 3 && (bits v 3 2 != 2 || bit v 1))
  else if ix = 0x2720 then sub ≠ 0x2D || within v 1 256
  else if ix = 0x2730 then
    match sub with
    | 2 => decide (1 ≤ v)
    | 3 => within v 64 16777280 && v % 64 == 0
    | 0x11 => within v 1 2
    | 0x12 => decide (16 ≤ v)
    | _ => true
  else if ix = 0x2800 then sub ≠ 1 || v ≤ 3
  else if ix = 0x29F0 then sub ≠ 1 || within v 1 2
  else if within ix 0x2A00 0x2A0F then
    if sub = 4 then within v 1 268435456
    else if sub = 2 ∨ sub = 3 ∨ sub = 5 ∨ sub = 9 ∨ sub = 0x10 then decide (1 ≤ v)
    else true
  else true

/-- Mapping and sync managers (16). -/
def rangePdo (ix sub v : Nat) : Bool :=
  if within ix 0x1600 0x1603 || within ix 0x1A00 0x1A03 then sub ≠ 0 || v ≤ 64
  else if ix = 0x1C12 ∨ ix = 0x1C13 then sub ≠ 0 || v ≤ 4
  else if ix = 0x1C32 then (if sub = 1 then v == 1 else sub ≠ 3 || v == 0)
  else if ix = 0x1C33 then sub ≠ 1 || within v 1 2
  else true

/-- The value is in the entry's own range. -/
def State.inRange (s : State) (ix sub v : Nat) : Bool :=
  s.rangeLine ix sub v && s.rangeSensor ix sub v && s.rangeCompute ix sub v && rangeField ix sub v && rangeRest ix sub v &&
  rangePdo ix sub v

/-! Conditions of the chapters (R408 steps 7 and 8). -/

/-- Every job of partition `p` is STOPPED or OFF. -/
def State.partIdle (s : State) (p : Nat) : Bool := (s.partJobs p).all (fun j => s.idle (fJob j))

/-- An object of PDO mapping or assignment. -/
def isPdoObject (ix : Nat) : Bool := within ix 0x1600 0x1603 || within ix 0x1A00 0x1A03 || ix == 0x1C12 || ix == 0x1C13

/-- The mappings that a write leaves (R423). -/
def State.mappingBad (s : State) (ix sub v : Nat) : Option Nat :=
  let t := s.setReg (key ix sub) v
  let entry := (within ix 0x1600 0x1603 || within ix 0x1A00 0x1A03) && sub != 0
  if entry && !mapEntryOk (decide (0x1A00 ≤ ix)) v then some 0x06040041
  else if 1024 < mapBytes (t.mapped 0x1C12) ∨ 1024 < mapBytes (t.mapped 0x1C13) then some 0x06040042
  else none

/-- Writes of memory and partition entries need these to be still. -/
def State.stillFor (s : State) (sub v : Nat) : Bool :=
  if within sub 1 6 then s.partIdle (s.reg (key 0x2500 sub)) && s.partIdle v
  else if within sub 7 0x12 then s.partIdle ((sub - 7) % 6)
  else if within sub 0x20 0x25 then s.streamsIdle && s.jobsIdle
  else if sub = 0x27 then s.streamsIdle && s.intakesIdle && s.jobsIdle
  else true

/-- The state that an entry's chapter asks for, beside that of its owners; an abort code where it does not hold. -/
def State.condition (s : State) (ix sub v : Nat) : Option Nat :=
  let need := fun (b : Bool) => if b then none else some 0x08000022
  if ix = 0x2010 then need (sub != 1 || (s.jobsIdle && s.intakesIdle))
  else if within ix 0x2200 0x2223 then
    need (sub != 0x0B || s.fn (fStream (s.streamOf (ix - 0x2200))) == .stopped)
  else if ix = 0x2500 then need (s.stillFor sub v)
  else if ix = 0x2560 then need (sub != 1 || s.jobsIdle)
  else if ix = 0x2600 then
    need (!within sub 1 0x40 || (s.idle (fGroup (s.field' (key ix sub) 3 0)) && s.idle (fGroup (bits v 3 0))))
  else if ix = 0x2710 then
    if sub = 1 ∨ sub = 2 then need (!s.ptpOn || (sub == 1 && !bit v 7))
    else need (sub != 0x27 || !s.ptpOn)
  else if ix = 0x2730 then need (sub != 0x10 || !s.barrier.armed)
  else if within ix 0x2B00 0x2B0F then
    let b := ix - 0x2B00
    need (sub != 4 || (s.bankFree b && (v != 1 || (!s.bankReady b && (s.bank b).creating.isNone))))
  else if isPdoObject ix then (if s.ec.al ≠ 2 then some 0x08000022 else s.mappingBad ix sub v)
  else if ix = 0x1C32 ∨ ix = 0x1C33 then need (s.ec.al == 2)
  else if within ix 0x7000 0x70FF then
    need (s.ec.al != 8 || !(s.mapped 0x1C12).any (fun x => x.1 == ix && x.2.1 == sub))
  else none

/-! The checks (R408). -/

/-- A function other than that of the route has claimed an owner. -/
def State.claimed (s : State) (r : Route) (fs : List Nat) : Bool := fs.any (fun f => s.owner f != 0 && s.owner f != routeCode r)

/-- Checks of access code and length, which need the entry alone. -/
def accessBad (ix sub k : Nat) (e : Entry) : Option Nat :=
  if e.acc = .ro ∨ e.acc = .rc then some 0x06010002 else lengthBad e ix sub k

/-- Steps 4 to 8 for an entry that is not a function command. -/
def State.stateBad (s : State) (r : Route) (ix sub : Nat) (e : Entry) (data : Bytes) : Option Nat :=
  let v := leNat data
  let os := if e.acc = .rws then s.ownersOf ix sub else []
  if e.type ≠ .dom ∧ !s.inRange ix sub v then some 0x06090030
  else if s.claimed r os then some 0x080000A4
  else if !os.all s.writable then some 0x08000022
  else s.condition ix sub v

/-- The first check that fails; function commands make their own from step 4 on. -/
def State.check (s : State) (r : Route) (ix sub : Nat) (data : Bytes) : Option Nat :=
  if s.recoveryRefuses ix then some 0x080000A6
  else if !hasIndex s.grade ix then some 0x06020000
  else match entryOf ix sub with
    | none => some 0x06090011
    | some e =>
      match accessBad ix sub data.length e with
      | some c => some c
      | none => if ix = 0x2020 then none else s.stateBad r ix sub e data

/-! Effects. -/

/-- The bits of an entry that a write sets take its value; the others stay. -/
def State.putMasked (s : State) (k m v : Nat) : State := s.setReg k ((s.reg k &&& ((2 ^ 64 - 1) ^^^ m)) ||| (v &&& m))

/-- Writing 1 to a bit of `m` clears it; cause fields go with their flags (Tables 3-12 and 5-16). -/
def State.clearBits (s : State) (ix sub m v : Nat) : State :=
  let k := key ix sub
  let s := s.setReg k (s.reg k &&& ((2 ^ 64 - 1) ^^^ (v &&& m)))
  if ix = 0x2410 then
    let s := if bit v 8 then s.setField k 27 24 0 else s
    if bit v 9 then s.setField k 31 28 0 else s
  else if within ix 0x2400 0x2405 ∧ bit v 8 then s.setField k 23 20 0
  else s

/-- A write to encoder `e` (02 R38). -/
def State.actEncoder (s : State) (e sub m v : Nat) : State :=
  (s.setEnc e { s.enc e with oldCfg := s.encCfg e, oldPer := s.zPeriod e, cfgAt := some s.sclk }).putMasked (kEnc e sub) m v

/-- A write of `v` to a compare channel (02 R56): a command, or the value of an armed channel, takes effect in the next
cycle. -/
def State.actCompare (s : State) (n sub m v : Nat) : State :=
  if sub = 4 then (s.putMasked (kCmp n 4) m v).opens (s.sclk + 1) (if v = 1 then .cmpArm n else .cmpDisarm n)
  else if sub = 2 ∧ s.cmpArmed n then s.opens (s.sclk + 1) (.cmpValue n v)
  else s.putMasked (kCmp n sub) m v

/-- A window after a write of `v` to `sub` has been stored (02 R58, R61). -/
def State.afterWindow (s : State) (w sub v : Nat) : State :=
  if sub = 5 then s.opens (s.sclk + 1) (if v = 1 then .winArm w else .winDisarm w)
  else if sub = 2 then s.setWin w { s.win w with startWritten := true }
  else if sub = 3 then s.setWin w { s.win w with endWritten := true }
  else s

/-- The timers after a write to `sub` of 2180h has been stored (02 R65). -/
def State.afterTimer (s : State) (sub : Nat) : State :=
  if within sub 0x11 0x20 then s.opens (s.sclk + 1) (.timerLoad (sub - 0x11)) else s

/-- A command of 2560h.04h. -/
def State.cacheCommand (s : State) (r : Route) (v : Nat) : Reply :=
  let id := s.reg (key 0x2560 5)
  let no := fun (c : Nat) => s.refuse r ⟨c, 0x2560, 4⟩ 0
  match v with
  | 1 =>
    match s.pinModel id with
    | some t => { s := { t with pins := addKey t.pins id } }
    | none => no 0x080000A2
  | 2 => { s := { s with pins := dropKey s.pins id } }
  | 3 =>
    match s.pinModel id with
    | some t => { s := t }
    | none => no 0x080000A2
  | 4 => if s.modelUsed id then no 0x080000A9 else { s := s.dropModel id }
  | _ => { s := s.flushCache }

/-- A command of 2B00h+b.04h. -/
def State.bankCommand (s : State) (r : Route) (b v : Nat) : Reply :=
  if v = 1 then
    match s.createBank b with
    | some t => { s := t }
    | none => s.refuse r ⟨0x080000A2, 0x2B00 + b, 2⟩ 0
  else { s := s.deleteBank b }

/-- A power request (19 R466). -/
def State.powerCommand (s : State) (r : Route) (v : Nat) : Reply :=
  let no := fun (s : State) => s.refuse r ⟨0x08000022, 0x2800, 1⟩ 0
  if s.power.target.isSome then no s
  else match s.blocker v with
    | some f => no (s.setReg (kPower 3) f)
    | none => { s := s.beginPower v, await := .power }

/-- A flat-field table, which the model store holds (12 R349). -/
def State.putFlat (s : State) (r : Route) (ix : Nat) (data : Bytes) : Reply :=
  let t := s.setDom (key ix 8) data
  if t.storeSize < t.storeUse ∧ (s.dom (key ix 8)).length < data.length then s.refuse r ⟨0x080000A2, ix, 8⟩ 0 else { s := t }

/-- A sensor-control record of the dictionary (11 R327, R328). -/
def State.sccCommand (s : State) (r : Route) (ix : Nat) (data : Bytes) : Reply :=
  let x := s.sccArrive (ix - 0x2230) (sccRecord data none)
  if x.1 then { s := x.2 } else x.2.refuse r ⟨0x06090030, ix, 4⟩ 0

/-- A DOMAIN write. -/
def State.actDom (s : State) (r : Route) (ix sub : Nat) (data : Bytes) : Reply :=
  if within ix 0x2510 0x254F then s.storeImage r (ix - 0x2510) data
  else if within ix 0x2230 0x223B then s.sccCommand r ix data
  else if ix = 0x2810 ∧ sub = 0x0B then s.storeFirmware r data
  else if ix = 0x2820 then s.takeToken r data
  else if within ix 0x2300 0x2323 && sub == 8 then s.putFlat r ix data
  else { s := s.setDom (key ix sub) data }

/-- A number written to an entry that is a command, or whose value acts beside being stored. -/
def State.actNum (s : State) (r : Route) (ix sub m v : Nat) : Reply :=
  let k := key ix sub
  let put := s.putMasked k m v
  if within ix 0x2100 0x2103 then { s := s.actEncoder (ix - 0x2100) sub m v }
  else if within ix 0x2120 0x213F then { s := s.actCompare (ix - 0x2120) sub m v }
  else if within ix 0x2140 0x217F then { s := put.afterWindow (ix - 0x2140) sub v }
  else if ix = 0x2180 then { s := put.afterTimer sub }
  else if within ix 0x2200 0x2223 && sub == 0x0B then { s := s.setBit (kPort (ix - 0x2200) 0x0C) 14 true }
  else if ix = 0x2010 then { s := s.setDeterminism v }
  else if ix = 0x2500 ∧ within sub 0x20 0x25 = true then { s := s.resizePool sub v }
  else if ix = 0x2500 ∧ sub = 0x27 then { s := if s.reg k = v then s else s.setWide (v == 1) }
  else if ix = 0x2560 ∧ sub = 1 then { s := if s.reg k = v then s else put.emptyStore }
  else if ix = 0x2560 ∧ sub = 4 then s.cacheCommand r v
  else if within ix 0x2B00 0x2B0F && sub == 4 then s.bankCommand r (ix - 0x2B00) v
  else if ix = 0x2630 then { s := put.causes s.sclk }
  else if ix = 0x2640 ∧ sub = 0x13 then { s := (put.restartCount 16).takeVeto.causes s.sclk }
  else if ix = 0x2640 ∧ within sub 3 0x12 then { s := put.restartCount (sub - 3) }
  else if ix = 0x2710 ∧ sub = 1 then { s := put.ptpSwitched }
  else if ix = 0x2710 ∧ within sub 9 0x0A then { s := put.holdGains s }
  else if ix = 0x2710 ∧ sub = 0x27 then { s := s.applyOffset (signed 64 v) }
  else if ix = 0x2730 ∧ sub = 0x11 then s.barrierCommand r v
  else if ix = 0x2800 ∧ sub = 1 then s.powerCommand r v
  else if ix = 0x2810 ∧ sub = 2 then s.lifeCommand r v
  else if ix = 0x2820 ∧ sub = 1 then s.requestLevel r v
  else if ix = 0x29F0 ∧ sub = 1 then { s := { s with power := { s.power with resetDue := some (v + 1, s.time + 600000) } } }
  else if within ix 0x7000 0x70FF then { s := put.takeOutputs }
  else { s := put }

/-- What an accepted write does. -/
def State.act (s : State) (r : Route) (ix sub : Nat) (data : Bytes) : Reply :=
  if ix = 0x2020 then (if sub = 0xF2 then s.setCommand r data else s.fnWrite r sub (leNat data))
  else match entryOf ix sub with
    | none => { s := s }
    | some e =>
      if e.type = .dom then s.actDom r ix sub data
      else if e.acc = .w1c then { s := s.clearBits ix sub e.mask (leNat data) }
      else s.actNum r ix sub e.mask (leNat data)

/-! Contention (R418). -/

/-- Functions that a write commands. -/
def commanded (ix sub : Nat) (data : Bytes) : List Nat :=
  if ix = 0x2020 then (if sub = 0xF2 then (data.drop 1).map (fun b => b.toNat) else [sub]) else []

/-- Two lists share a member. -/
def shares (xs ys : List Nat) : Bool := xs.any (fun x => ys.contains x)

/-- An EtherCAT write contends with a host-port write. -/
def EcWrite.meets (w : EcWrite) (ix : Nat) (fns owners : List Nat) : Bool :=
  w.index == ix || shares w.fns owners || shares w.owners fns || shares w.fns fns

/-- Functions that own an entry if it is RWS. -/
def State.rwsOwners (s : State) (ix sub : Nat) : List Nat :=
  match entryOf ix sub with
  | some e => if e.acc = .rws then s.ownersOf ix sub else []
  | none => []

/-- The EtherCAT writes that a host-port write meets: those of this cycle, those during its transfer, an open download. -/
def State.rivals (s : State) : List EcWrite :=
  (if s.hsp.xfer.isSome then s.ec.wrote else s.ec.wrote.filter (fun w => w.at_ == s.sclk)) ++
  (match s.ec.down with
   | some d => [EcWrite.mk s.sclk d.index (if d.ca then [] else commanded d.index d.sub []) (s.rwsOwners d.index d.sub)]
   | none => [])

/-- A host-port write loses to EtherCAT. -/
def State.loses (s : State) (ix sub : Nat) (data : Bytes) : Bool :=
  s.rivals.any (fun w => w.meets ix (commanded ix sub data) (s.rwsOwners ix sub))

/-! Writes (R407, R415). -/

/-- Last byte of 2020h.F0h or F1h for a write (Table 16-2). -/
def cmdByte (ix sub : Nat) : Nat := if ix = 0x2020 then (if sub = 0xF2 then 0xFF else sub) else 0

/-- A route takes part only while it can: EtherCAT not in INIT (Table 16-5). -/
def State.mute (s : State) (r : Route) : Bool := r == .ethercat && s.ec.al == 1

/-- What a write leaves before it is checked: an EtherCAT write is remembered for contention. -/
def State.arrive (s : State) (r : Route) (ix sub : Nat) (data : Bytes) : State :=
  if r = .ethercat then s.noteEc ix (commanded ix sub data) (s.rwsOwners ix sub) else s

/-- A write of one entry. -/
def State.write (s : State) (r : Route) (ix sub : Nat) (data : Bytes) : Reply :=
  if s.mute r then { s := s }
  else if r = .hostPort ∧ s.loses ix sub data then s.refuse r ⟨0x080000A1, ix, sub⟩ (cmdByte ix sub)
  else
    let t := s.arrive r ix sub data
    match t.check r ix sub data with
    | some c => t.refuse r ⟨c, ix, sub⟩ (cmdByte ix sub)
    | none => t.act r ix sub data

/-! Complete access (R406, R408). -/

/-- Bytes of an entry in complete access. -/
def caBytes (ix sub : Nat) : Nat :=
  if sub = 0 then 2 else match entryOf ix sub with | some ⟨.num n, _, _, _⟩ => n | _ => 0

/-- The data of a complete access, cut by subindex. -/
def caSplit (ix : Nat) : List Nat → Bytes → List (Nat × Bytes)
  | [], _ => []
  | i :: is, bs => (i, if i = 0 then bs.take 1 else bs.take (caBytes ix i)) :: caSplit ix is (bs.drop (caBytes ix i))

/-- The first failure of a complete-access write: the subindex concerned and the abort code. -/
def State.caBad (s : State) (r : Route) (ix sub : Nat) (data : Bytes) : Option (Nat × Nat) :=
  let is := subsFrom ix sub
  let n := is.foldl (fun t i => t + caBytes ix i) 0
  if s.recoveryRefuses ix then some (sub, 0x080000A6)
  else if !hasIndex s.grade ix then some (sub, 0x06020000)
  else if 1 < sub then some (sub, 0x06090011)
  else if hasDomain ix then some (sub, 0x06010000)
  else match is.find? (fun i => match entryOf ix i with | some e => e.acc == .ro || e.acc == .rc | none => true) with
    | some i => some (i, 0x06010003)
    | none =>
      if data.length ≠ n then some (sub, 0x06070010)
      else (caSplit ix is data).findSome? (fun x => (s.check r ix x.1 x.2).map (fun c => (x.1, c)))

/-- Process-data outputs written together act once (R424). -/
def State.caAct (s : State) (r : Route) (ix : Nat) (xs : List (Nat × Bytes)) : State :=
  if within ix 0x7000 0x70FF then (forEach xs s (fun x s => s.setReg (key ix x.1) (leNat x.2))).takeOutputs
  else forEach xs s (fun x s => (s.act r ix x.1 x.2).s)

/-- A complete-access write from subindex 0 or 1. -/
def State.writeComplete (s : State) (r : Route) (ix sub : Nat) (data : Bytes) : Reply :=
  if s.mute r then { s := s }
  else if r = .hostPort ∧ s.loses ix sub data then s.refuse r ⟨0x080000A1, ix, sub⟩ 0
  else
    let t := s.arrive r ix sub data
    match t.caBad r ix sub data with
    | some x => t.refuse r ⟨x.2, ix, x.1⟩ 0
    | none => { s := t.caAct r ix (caSplit ix (subsFrom ix sub) data) }

/-- A write, of one entry or by complete access. -/
def State.writeAny (s : State) (r : Route) (ix sub : Nat) (complete : Bool) (data : Bytes) : Reply :=
  if complete then s.writeComplete r ix sub data else s.write r ix sub data

end Sys2Proof.Machine
end

