-- ==== Sys2Proof/Machine/EtherCat.lean ====
section
/-! DEFINITION. SDO downloads over EtherCAT (16 R407, R419, R420). -/
namespace Sys2Proof.Machine

/-- The space that a DOMAIN entry may take, where it is limited (R420, 09 R273, 12 R349). -/
def State.space (s : State) (ix sub : Nat) : Option Nat :=
  if within ix 0x2510 0x254F && sub == 2 then some (256 + s.storeSize - (s.dropImage (ix - 0x2510)).storeUse)
  else if within ix 0x2300 0x2323 && sub == 8 then some (s.storeSize - (s.setDom (key ix 8) []).storeUse)
  else none

/-- `n` bytes exceed the space of an entry. -/
def State.tooLarge (s : State) (ix sub n : Nat) : Bool := match s.space ix sub with | some m => decide (m < n) | none => false

/-- What a write over a route leaves; the outcome of an SDO exchange is kept. -/
def Reply.sentOver (x : Reply) (r : Route) : State :=
  match r with
  | .ethercat => { x.s with ec := { x.s.ec with abort := match x.no with | some a => a.code | none => 0 } }
  | .hostPort => x.s

/-- A write through a route. -/
def State.through (s : State) (r : Route) (ix sub : Nat) (data : Bytes) : State :=
  if s.mute r then s else (s.write r ix sub data).sentOver r

/-- An SDO exchange ends with an abort code, and an open download with it. -/
def State.sdoAbort (s : State) (code : Nat) : State := { s with ec := { s.ec with down := none, abort := code } }

/-- The segment timer (R420): 2 s. -/
def sdoTime : Nat := 1000000000

/-- The segment timer of an open download that has run out aborts it (R420, R63). -/
def State.sdoOverdue (s : State) : State :=
  match s.ec.down with
  | some d => if d.due < s.sclk then s.sdoAbort 0x05040000 else s
  | none => s

/-- The last segment of a download registers its write. -/
def State.sdoFinish (s : State) (d : SdoDown) (data : Bytes) : State :=
  let s := { s with ec := { s.ec with down := none } }
  if (match d.size with | some n => n != data.length | none => false) then
    (s.refuse .ethercat ⟨0x06070010, d.index, d.sub⟩ (cmdByte d.index d.sub)).sentOver .ethercat
  else (s.writeAny .ethercat d.index d.sub d.ca data).sentOver .ethercat

end Sys2Proof.Machine
end

