-- ==== Sys2Proof/Machine/HostPort.lean ====
section
/-! DEFINITION. The host serial port: its transactions, requests and responses, transfers, the status word, the event queue
and attention (17). -/
namespace Sys2Proof.Machine

/-! Requests (R433, Table 17-3). -/

/-- A request record. -/
structure HspReq where
  op    : Nat
  seq   : Nat
  index : Nat
  sub   : Nat
  flags : Nat
  dlen  : Nat
  size  : Nat
  rsvd  : Nat
  data  : Bytes

/-- The fields of a request as its bytes give them. -/
def hspReq (bs : Bytes) : HspReq :=
  { op := leAt bs 0 1, seq := leAt bs 1 1, index := leAt bs 2 2, sub := leAt bs 4 1, flags := leAt bs 5 1,
    dlen := leAt bs 6 2, size := leAt bs 8 4, rsvd := leAt bs 12 4, data := slice bs 16 (leAt bs 6 2) }

/-- Complete access. -/
def HspReq.ca (q : HspReq) : Bool := bit q.flags 0

/-- The port status that refuses a request before it is acted on; 0 for none (Table 17-6). -/
def reqStatus (bs : Bytes) : Nat :=
  let q := hspReq bs
  if bs.length ≠ 20 + q.dlen then 2
  else if crc32 (bs.take (16 + q.dlen)) ≠ leAt bs (16 + q.dlen) 4 then 1
  else if !within q.op 1 5 || bits q.flags 7 1 != 0 || q.rsvd != 0 || 4096 < q.dlen || ((q.op == 1 || q.op == 5) && q.size != 0) then 3
  else 0

/-- The response to a request: a readable header is echoed (Table 17-4). -/
def HspReq.answer (q : HspReq) (pstat abort size : Nat) (data : Bytes) : HspResp :=
  { pstat := pstat, seq := q.seq, index := q.index, sub := q.sub, abort := abort, size := size, data := data }

/-- The bytes of a response with its CRC. -/
def HspResp.bytes (a : HspResp) : Bytes :=
  let body := leBytes 1 a.pstat ++ leBytes 1 a.seq ++ leBytes 2 a.index ++ leBytes 1 a.sub ++ [0#8] ++ leBytes 2 a.data.length ++
    leBytes 4 a.abort ++ leBytes 4 a.size ++ leBytes 4 0 ++ a.data
  body ++ leBytes 4 (crc32 body)

/-! The port. -/

/-- Replace the port. -/
def State.setHsp (s : State) (h : HspUnit) : State := { s with hsp := h }

/-- HRDY is high (R434, R438). -/
def HspUnit.hrdy (h : HspUnit) : Bool := h.busy.isNone && h.pulse.isNone

/-- A transaction begins: an attention pulse ends, and the next idle time starts anew. -/
def State.chipSelect (s : State) : State := s.setHsp { s.hsp with pulse := none, last := none, seen := 0 }

/-- A framing error (R433). -/
def State.framing (s : State) : State := (s.setHsp { s.hsp with frerr := true }).count 0x2904 2

/-- A request is in progress with its response to come. -/
def State.inProgress (s : State) (w : Await) (a : HspResp) : State := s.setHsp { s.hsp with busy := some (w, a) }

/-- The transfer timer (R436): 2 s. -/
def xferTime : Nat := 1000000000

/-- An open transfer is closed by another and counted (R436). -/
def State.closeXfer (s : State) : State :=
  if s.hsp.xfer.isSome then (s.setHsp { s.hsp with xfer := none }).count 0x2904 4 else s

/-- A transfer opens; the EtherCAT writes of earlier cycles do not concern it. -/
def State.openXfer (s : State) (x : Transfer) : State :=
  let s := s.setHsp { s.hsp with xfer := some x, timed := false }
  { s with ec := { s.ec with wrote := s.ec.wrote.filter (fun w => w.at_ == s.sclk) } }

/-- The response to a write. -/
def State.answerWrite (x : Reply) (q : HspReq) (size : Nat) : State :=
  match x.no with
  | some a => x.s.inProgress .ready (q.answer 0 a.code size [])
  | none => x.s.inProgress x.await (q.answer 0 0 size [])

/-- UPLOAD: the value is taken once (R436). -/
def State.hspUpload (s : State) (q : HspReq) : State :=
  let s := s.closeXfer
  match (if q.ca then s.readComplete q.index q.sub else s.readEntry q.index q.sub) with
  | .error c => s.inProgress .ready (q.answer 0 c 0 [])
  | .ok (bs, t) =>
    let t := if bs.length ≤ 4096 then t
      else t.openXfer { down := false, index := q.index, sub := q.sub, ca := q.ca, size := bs.length, data := bs, off := 4096,
                        due := t.sclk + xferTime }
    t.inProgress .ready (q.answer 0 0 bs.length (bs.take 4096))

/-- DOWNLOAD: a value that comes whole is written now; otherwise a transfer opens (R436). -/
def State.hspDownload (s : State) (q : HspReq) : State :=
  let s := s.closeXfer
  let no := fun (c : Nat) => State.answerWrite (s.refuse .hostPort ⟨c, q.index, q.sub⟩ (cmdByte q.index q.sub)) q 0
  if s.tooLarge q.index q.sub q.size then no 0x080000A2
  else if q.size < q.dlen then no 0x06070010
  else if q.size = q.dlen then State.answerWrite (s.writeAny .hostPort q.index q.sub q.ca q.data) q 0
  else
    let t := s.openXfer { down := true, index := q.index, sub := q.sub, ca := q.ca, size := q.size, data := q.data,
                          due := s.sclk + xferTime }
    t.inProgress .ready (q.answer 0 0 0 [])

/-- The timer of an open transfer that has run out closes it (R436, R63). -/
def State.xferOverdue (s : State) : State :=
  match s.hsp.xfer with
  | some x =>
    if x.due < s.sclk then (s.setHsp { s.hsp with xfer := none, timed := true, tmo := true }).count 0x2904 1 else s
  | none => s

/-- A segment that fits no open transfer (Table 17-6). -/
def State.badSegment (s : State) (q : HspReq) : State :=
  let p := if s.hsp.timed ∧ s.hsp.xfer.isNone then 5 else 4
  (s.setHsp { s.hsp with xfer := none, timed := false }).inProgress .ready (q.answer p 0 0 [])

/-- DOWNLOAD SEGMENT: the segment that completes the value registers its write. -/
def State.hspDownSegment (s : State) (q : HspReq) : State :=
  match s.hsp.xfer with
  | none => s.badSegment q
  | some x =>
    let all := x.data ++ q.data
    if !x.down || q.size != x.data.length || decide (x.size < all.length) then s.badSegment q
    else if all.length = x.size then
      let r := s.writeAny .hostPort x.index x.sub x.ca all
      State.answerWrite { r with s := r.s.setHsp { r.s.hsp with xfer := none } } q q.size
    else
      let s := s.setHsp { s.hsp with xfer := some { x with data := all, due := s.sclk + xferTime } }
      s.inProgress .ready (q.answer 0 0 q.size [])

/-- UPLOAD SEGMENT: the next part of the value; the last one ends the transfer. -/
def State.hspUpSegment (s : State) (q : HspReq) : State :=
  match s.hsp.xfer with
  | none => s.badSegment q
  | some x =>
    if x.down || q.size != x.off then s.badSegment q
    else
      let bs := (x.data.drop x.off).take 4096
      let off := x.off + bs.length
      let next := if off < x.size then some { x with off := off, due := s.sclk + xferTime } else none
      (s.setHsp { s.hsp with xfer := next }).inProgress .ready (q.answer 0 0 q.size bs)

/-- ABORT TRANSFER. -/
def State.hspAbort (s : State) (q : HspReq) : State :=
  match s.hsp.xfer with
  | none => s.badSegment q
  | some _ => (s.setHsp { s.hsp with xfer := none }).inProgress .ready (q.answer 0 0 0 [])

/-- Act on a request that has passed the checks of the port. -/
def State.actOn (s : State) (q : HspReq) : State :=
  let s := s.xferOverdue
  let s := s.setHsp { s.hsp with seq := q.seq }
  match q.op with
  | 1 => s.hspUpload q
  | 2 => s.hspDownload q
  | 3 => s.hspDownSegment q
  | 4 => s.hspUpSegment q
  | _ => s.hspAbort q

/-- A segment request that cannot be acted on leaves SEQ of the status word (Tables 17-5 and 17-6). -/
def State.keepSeq (s t : State) : State :=
  match t.hsp.busy with
  | some (_, a) => if a.pstat = 0 then t else t.setHsp { t.hsp with seq := s.hsp.seq }
  | none => t

/-- A WRITE transaction ends (R434): ignored while a request is in progress; otherwise the response held is discarded. -/
def State.hspWrite (s : State) (bs : Bytes) : State :=
  let s := s.chipSelect
  if s.hsp.busy.isSome then (s.setHsp { s.hsp with busyw := true }).count 0x2904 3
  else
    let s := s.setHsp { s.hsp with resp := none }
    let q := if 16 ≤ bs.length then hspReq bs else { hspReq bs with seq := 0, index := 0, sub := 0 }
    match reqStatus bs with
    | 0 => s.keepSeq (s.actOn q)
    | 2 => s.framing.inProgress .ready (q.answer 2 0 0 [])
    | p => s.inProgress .ready (q.answer p 0 0 [])

/-! Responses (R434, R435). -/

/-- What a response waits for has come (16 R411, 19 R466). -/
def State.awaitDone (s : State) : Await → Bool
  | .ready => true
  | .fn f => !s.pend f
  | .set fs => fs.all (fun f => !s.pend f)
  | .power => s.power.target.isNone

/-! Status, events, reset (R431, R437, R439). -/

/-- The status word (Table 17-5). -/
def State.statusWord (s : State) : Nat :=
  let h := s.hsp
  h.seq * 2 ^ 48 + s.events.length * 2 ^ 32 + b2n h.resp.isSome * 2 ^ 15 + b2n h.busy.isSome * 2 ^ 14 + b2n h.xfer.isSome * 2 ^ 13 +
  b2n s.evOverflow * 2 ^ 12 + b2n h.busyw * 2 ^ 11 + b2n h.frerr * 2 ^ 10 + b2n h.tmo * 2 ^ 9 + b2n h.rst * 2 ^ 8

/-- The 32 bytes of an event record (20 Table 20-4). -/
def EvRec.bytes (r : EvRec) : Bytes :=
  let d := match r.lpos with | some x => x | none => (0, 0)
  leBytes 1 r.type ++ leBytes 1 (b2n r.lpos.isSome * 128 + b2n r.late * 64 + d.1) ++ leBytes 2 r.rep ++ leBytes 4 r.what ++
    leBytes 4 r.ns ++ leBytes 6 r.sec ++ leBytes 6 d.2 ++ leBytes 8 r.data

/-! Attention (R438). -/

/-- The port is idle: no request in progress, and no response that has not been read. -/
def HspUnit.idle (h : HspUnit) : Bool := h.busy.isNone && (match h.resp with | some a => a.read | none => true)

/-- A pulse is due: the first since the port became idle, one for a record that has entered since the last, or the repeat. -/
def State.pulseDue (s : State) : Bool :=
  let h := s.hsp
  h.idle && !s.events.isEmpty &&
  (match h.last with
   | none => true
   | some c => decide (h.seen < s.events.length) || (h.pulse.isNone && decide (c + 500000 ≤ s.sclk)))

end Sys2Proof.Machine
end

