-- ==== Sys2Proof/Machine/VectorEntries.lean ====
section
/-! DEFINITION. The issue of vector descriptors: their checks, the queue, and what each operation takes (05 R131 to
R134). -/
namespace Sys2Proof.Machine

/-- A fetched descriptor of the vector unit. -/
def descOf (k : Nat) (x : Ctx) (c : Nat) (ws : List Nat) : Desc := { ctx := k, inc := x.inc, ws := ws, at_ := c, entry := x.entry }

/-- A descriptor enters the queue in cycle `c`; an empty unit begins it. -/
def VecUnit.take (u : VecUnit) (d : Desc) (c : Nat) : VecUnit :=
  if u.queue.isEmpty then ({ u with queue := [d], start := max c u.start, acceptAt := some c } : VecUnit).open
  else { u with queue := u.queue ++ [d], acceptAt := some c }

/-- The unit takes no descriptor in cycle `c` (R131). -/
def VecUnit.full (u : VecUnit) (c : Nat) : Bool := decide (4 ≤ u.queue.length) || u.acceptAt == some c

/-- The vector unit of a core takes a sound descriptor; the others are a fault of the core. -/
def State.vectorTake (s : State) (core k : Nat) (x : Ctx) (d : Desc) (c : Nat) : State :=
  if vectorFault x d then s.coreFault k 1 d.vtag
  else (((s.catchAll).setVec core (((s.catchAll).vec core).take d c)).goOn k c).tidy c

/-- An entry of the vector unit. -/
def forVector : Fetched → Bool := isOp 0x20 (fun _ => true)

/-- A vector descriptor is issued, unless the unit has no room or serves a lower slot in this cycle (R126). -/
def State.vectorEntry (core : Nat) (s : State) (k : Nat) (x : Ctx) (e : Fetched) : State :=
  if (s.vec core).full s.cclk || s.lowerFirst core (x.slot.getD 0) forVector then s
  else (s.countIssue k x).vectorTake core k x (descOf k x s.cclk e.words) s.cclk

/-- A vector descriptor with operation `v` is issued; one with a reserved operation is found by whichever command. -/
def State.vectorIssue (s : State) (core slot v : Nat) : State :=
  s.issue core slot (isOp 0x20 (fun w => bits w 12 8 == v || (vopSources (bits w 12 8)).isNone)) (State.vectorEntry core)

end Sys2Proof.Machine
end

