-- ==== Sys2Proof/Machine/Passage.lean ====
section
/-! DEFINITION. The passage of time: the effects that fall in later cycles than their commands are carried out in their
cycles, in order, before the next command is registered. -/
namespace Sys2Proof.Machine

/-- Carry out an effect in the present cycle. -/
def State.perform (s : State) : Effect → State
  | .source src late => s.deliverEvent src late
  | .reach d => s.valuesReached d s.sclk
  | .cmpArm n => s.armCmp n s.sclk
  | .cmpDisarm n => s.disarmCmp n
  | .cmpValue n v =>
    let s := s.setReg (kCmp n 2) v
    if s.cmpArmed n then s.armCmp n s.sclk else s
  | .cmpJudge n late => s.judgeCmp n s.sclk late
  | .winArm w => s.armWin w s.sclk
  | .winDisarm w => s.disarmWin w
  | .winEnter w => s.winEnter w s.sclk
  | .timerLoad t => if s.timerOn t then s.loadTimer t s.sclk else s
  | .orphan n h => s.orphanFault n h
  | .enter fs => s.enterNow fs
  | .tally k => s.addReg k 1
  | .overheld k inc => if s.isCtx k inc then s.holdOverrun k else s
  | .stir => s.tidy s.cclk
  | .hubGrant => (s.grantAllHub s.cclk).tidy s.cclk
  | .creditGrant => (s.grantCredits s.cclk).tidy s.cclk
  | .external j sem stamp => s.externalArrives j sem stamp
  | .sccResult x inc a bs sem => s.sccArrived x inc a bs sem
  | .publish j v => s.published j v
  | .port core p ctx inc bs => s.recordArrives core p ctx inc bs
  | .fire src dom w0 w1 w2 w3 => s.enterRec src dom { w0 := w0, w1 := w1, w2 := w2, w3 := w3 }
  | .enrol bs => s.enrolRecord bs
  | .step ctx inc bs => s.stepRecord ctx inc bs
  | .tableDone ctx inc sem => s.tableSignal ctx inc sem
  | .judge => s.judged
  | .drive v => s.driveDo v
  | .strobe c late => s.strobe c late
  | .carry => s.catchUp.carryOn

/-- Carry out every effect that comes before a command at tick `t`. -/
def State.passTo (t : Nat) : Nat → State → State
  | 0, s => s
  | n + 1, s =>
    match s.later with
    | [] => s
    | l :: ls =>
      if 2 * l.tick + b2n l.close < 2 * t + 1 then
        State.passTo t n ((({ s with later := ls }).atTime (max s.time l.tick)).perform l.act)
      else s

/-- A bound of the effects that a time of `dt` ticks may see: those waiting, and those that arise, of which one cycle has
fewer than 1024. -/
def State.passFuel (s : State) (dt : Nat) : Nat := s.later.length + 1024 * (dt / 5 + 2)

/-- Time passes before a command is registered: later effects come due (log 119). Nothing of them changes the grade, the
queue or a fuse. -/
def State.wait (s : State) (dt : Nat) : State :=
  (s.sealed (State.passTo (s.time + dt) (s.passFuel dt) s)).atTime (s.time + dt)

/-! What commands leave. -/

/-- A command of a unit: time passes, and it has its effect while the module is up. -/
def State.during (s : State) (dt : Nat) (f : State → State) : State := (s.wait dt).live (f (s.wait dt))

/-- A command of the field section. -/
def State.inField (s : State) (dt : Nat) (f : State → State) : State := (s.wait dt).fieldLive (f (s.wait dt))

/-- A command through a route. -/
def State.via (s : State) (r : Route) (dt : Nat) (f : State → State) : State := (s.wait dt).routed r (f (s.wait dt))

/-- A command of power, reset or the TAP, which acts in every stage. -/
def State.sealing (s : State) (dt : Nat) (f : State → State) : State := (s.wait dt).sealed (f (s.wait dt))

end Sys2Proof.Machine
end

