-- ==== Sys2Proof/Machine/ArrayCommands.lean ====
section
/-! DEFINITION. The commands of the matrix arrays (03). -/
namespace Sys2Proof.Machine

/-- PASS_ISSUE (R83, R93, R131, R133, R157). -/
def execPassIssue (dt : Nat) (core slot : Nat) (s : State) : Out State :=
  .next (s.during dt (fun s => s.issue core slot (isOp 0x10 (fun _ => true)) State.passEntry))

/-- WEIGHT_LOAD_START (R77): the shadow is free and a pass that needs weights has been queued. -/
def execWeightLoadStart (dt : Nat) (core array half : Nat) (s : State) : Out State :=
  .next (s.during dt (fun s =>
    let n := 2 * core + array
    let u := s.half n half
    match u.wants with
    | some p =>
      if u.loadAt.isNone && u.shadow.isNone && decide (u.freeAt ≤ s.cclk) && decide (p.at_ < s.cclk) then
        let s := s.catchUp
        s.setHalf n half { s.half n half with loadAt := some s.cclk, loadNext := s.cclk, loaded := [], loadBad := false }
      else s
    | none => s))

/-- WEIGHT_LOAD_COMPLETE (R76, R92): the shadow holds the block once all of it has been read and has arrived. -/
def execWeightLoadComplete (dt : Nat) (core array half : Nat) (s : State) : Out State :=
  .next (s.during dt (fun s =>
    let n := 2 * core + array
    let s := s.catchUp
    let u := s.half n half
    match u.wants with
    | some p =>
      match u.loadEnd p with
      | some d =>
        if d ≤ s.cclk then
          let w : Weights := { ctx := p.ctx, inc := p.inc, fmts := p.fmts, block := u.loaded, bad := u.loadBad }
          s.setHalf n half { u with loadAt := none, loaded := [], loadBad := false, shadow := some (w, d) }
        else s
      | none => s
    | none => s))

/-- PASS_START: the first vector of the earliest queued pass enters the feeder (R74, R75, R78, R79), its first reads made
ahead of it (R133, R195). -/
def execPassStart (dt : Nat) (core array half : Nat) (s : State) : Out State :=
  .next (s.during dt (fun s =>
    let n := 2 * core + array
    let s := s.catchUp
    let u := s.half n half
    match u.queue with
    | [] => s
    | p :: _ =>
      if decide (u.mayEnter p ≤ s.cclk) && s.feedSlot n half then
        if p.keep then
          match u.active with
          | some w =>
            if w.ctx = p.ctx ∧ w.inc = p.inc ∧ w.fmts = p.fmts then
              (if p.lead ≤ u.ahead.length then s.startPass n half p w else s)
            else (s.catchAll).arrayFault n half 1 p
          | none => (s.catchAll).arrayFault n half 1 p
        else
          match u.shadow with
          | some (w, d) => if d < s.cclk ∧ p.lead ≤ u.ahead.length then s.startPass n half p w else s
          | none => s
      else s))

/-- ARRAY_FAULT: poison at a pass boundary, a trap in its A2 cycle, a parity error while a front installs weights, an
order of the scheduler (R94). -/
def execArrayFault (dt : Nat) (core array half : Nat) (cause : ArrayCause) (s : State) : Out State :=
  .next (s.during dt (fun s =>
    let s := s.catchAll
    let n := 2 * core + array
    let code := arrayCauseCode cause
    match cause with
    | .weightParity =>
      match (s.half n half).flights.find? (fun f => !f.pass.keep && decide (f.e < s.cclk) && decide (s.cclk ≤ f.e + 16)) with
      | some f => (s.arrayFault n half 4 f.pass)
      | none => s
    | .teardown =>
      match (s.half n half).passes with
      | p :: _ => (s.arrayFault n half 7 p)
      | [] => s
    | _ =>
      match s.woundOf n half code with
      | some (c, p) =>
        if (code = 6 ∧ c ≤ s.cclk) ∨ (code ≠ 6 ∧ s.boundaryAfter n half c) then (s.arrayFault n half code p) else s
      | none => s))

/-- PASS_COMPLETE: results visible, the completion counted and signalled (R72). A pass with a suppressed write does not
complete (R95). -/
def execPassComplete (dt : Nat) (core array half : Nat) (s : State) : Out State :=
  .next (s.during dt (fun s =>
    let n := 2 * core + array
    let s := s.catchUp
    let u := s.half n half
    match u.flights with
    | [] => s
    | f :: fs =>
      if f.done = f.pass.n ∧ f.lastEntry + 22 ≤ s.cclk ∧ u.spoiled f = false then
        let p := f.pass
        let c := f.lastEntry + 22
        let s := s.setHalf n half { u with
          flights := fs, slotFrom := max u.slotFrom (f.lastEntry + p.period), bound := max u.bound f.lastEntry }
        let s := s.addReg (kArr 0x30 n) 1
        let s := if p.done then s.signalOwn p.ctx p.inc p.sem c else s
        s.endWork p.ctx p.inc c
      else s))

/-- MODE_CHANGE (R83). -/
def execModeChange (dt : Nat) (core array : Nat) (s : State) : Out State :=
  .next (s.during dt (fun s =>
    let n := 2 * core + array
    let a := s.array n
    if gArray s.grade n && a.l.empty s.cclk && a.r.empty s.cclk && s.wantsMode core array (!a.split) then
      let s := s.catchAll
      let a := s.array n
      let clear := fun (u : HalfUnit) => { u with active := none, shadow := none, freeAt := s.cclk, ahead := [], late := 0 }
      (s.setArray n { split := !a.split, l := clear a.l, r := clear a.r })
    else s))

end Sys2Proof.Machine
end

