-- ==== Sys2Proof/Machine/BankCommands.lean ====
section
/-! DEFINITION. The commands of the reference banks (08). -/
namespace Sys2Proof.Machine

/-- CREATE_COMPLETE: the word table is zero and the bank is READY. -/
def execCreateComplete (dt : Nat) (b : Fin 16) (s : State) : Out State :=
  .next (s.during dt (fun s =>
    match (s.bank b).creating with
    | none => s
    | some (_, e, w) =>
      let s := s.catchAll
      let n := s.entryCount b
      let s := { s with ext := s.ext.zero 32 w (roundUp (4 * n) 32) }
      let hot := s.hotBase b false
      let s := match s.hotBase b true with
        | some a => { s with stack := s.stack.zero 8 a (roundUp (s.hotBytes b true) kb64) }
        | none => s
      let s := ((s.setReg (kBank b 6) e).setReg (kBank b 7) w).setReg (kBank b 8) (hot.getD 0)
      (((s.setReg (kBank b 5) 1).setReg (kBank b 9) 0).setBank b {})))

/-- ENROL: an enrolment record reaches the gather engine from core `src`, or from NET0 (6) or NET1 (7); the records of a cycle are
executed as it closes, in that order (R243). -/
def execEnrol (dt : Nat) (src : Fin 8) (record : Bytes) (s : State) : Out State :=
  .next (s.during dt (fun s =>
    if leAt record 1 1 = 2 then s else s.closesC s.cclk src.val (.enrol record)))

/-- VOID: as ENROL. -/
def execVoid (dt : Nat) (src : Fin 8) (record : Bytes) (s : State) : Out State :=
  .next (s.during dt (fun s =>
    if leAt record 1 1 = 2 then s.closesC s.cclk src.val (.enrol record) else s))

/-- LOAD. -/
def execLoadRecord (dt : Nat) (record : Bytes) (s : State) : Out State :=
  .next (s.during dt (fun s => s.loadRecord record))

/-- TOPK_COMMAND: a command record of the context in a slot arrives at the unit of its core. -/
def execTopkCommand (dt : Nat) (core slot : Nat) (record : Bytes) (s : State) : Out State :=
  .next (s.during dt (fun s =>
    match s.slotCtx core slot with
    | some (k, x) => ((s.topkArrive core k x.inc record).getD s)
    | none => s))

/-- TOPK_START (R242). -/
def execTopkStart (dt : Nat) (core : Nat) (s : State) : Out State :=
  .next (s.during dt (fun s =>
    let u := s.topk core
    match u.queue with
    | t :: _ =>
      if u.started.isNone ∧ t.at_ < s.cclk ∧ u.freeAt < s.cclk then
        (s.setTopk core { u with started := some s.cclk })
      else s
    | [] => s))

/-- TOPK_COMPLETE (R239 to R242): lists and status word stand at RADR and the semaphore is signalled. -/
def execTopkComplete (dt : Nat) (core : Nat) (s : State) : Out State :=
  .next (s.during dt (fun s =>
    let s := s.catchUp
    let u := s.topk core
    match u.queue, u.started with
    | t :: q, some a =>
      if a + t.time ≤ s.cclk then
        let c := a + t.time
        let s := s.setTopk core { queue := q, started := none, freeAt := c - 1 }
        let s := if bit (t.w 0) 13 then s.signalOwn t.ctx t.inc (bits (t.w 0) 19 14) c else s
        (s.endWork t.ctx t.inc c)
      else s
    | _, _ => s))

end Sys2Proof.Machine
end

