-- ==== Sys2Proof/Machine/DebugCommands.lean ====
section
/-! DEFINITION. The commands of the TAP (19). -/
namespace Sys2Proof.Machine

/-- EXTEST. The cells hold what was preloaded, which no section of the spec describes. -/
def execExtest (dt : Nat) (s : State) : Out State :=
  .next (s.sealing dt (fun s => s.tap' 1 true (fun s =>
    let r := s.fresh (2 ^ 128)
    let t := r.2.select 0 r.1
    { t with tap := { t.tap with holds := some 0 } })))

/-- IDCODE. -/
def execIdcode (dt : Nat) (s : State) : Out State :=
  .next (s.sealing dt (fun s => s.tap' 0 false (fun s => s.select 1 s.idWord)))

/-- SAMPLE/PRELOAD: the cells capture the pins, whose levels and order the spec does not describe. -/
def execSamplePreload (dt : Nat) (s : State) : Out State :=
  .next (s.sealing dt (fun s => s.tap' 1 false (fun s =>
    let r := s.fresh (2 ^ 128)
    r.2.select 2 r.1)))

/-- CLAMP. -/
def execTapClamp (dt : Nat) (s : State) : Out State :=
  .next (s.sealing dt (fun s => s.tap' 1 true (fun s =>
    let t := s.select 4 0
    { t with tap := { t.tap with holds := some 4 } })))

/-- HIGHZ. -/
def execHighz (dt : Nat) (s : State) : Out State :=
  .next (s.sealing dt (fun s => s.tap' 1 true (fun s =>
    let t := s.select 5 0
    { t with tap := { t.tap with holds := some 5 } })))

/-- BYPASS: FFh, or a code that names no instruction, which selects BYPASS too. -/
def execBypass (dt : Nat) (code : Byte) (s : State) : Out State :=
  .next (s.sealing dt (fun s =>
    if !s.tapOn then s else if code = 0xFF#8 then s.select 0xFF 0 else s.selectBypass))

/-- DBGACC with WRITE = 0. -/
def execDbgaccRead (dt : Nat) (space : BitVec 3) (core : BitVec 4) (address : BitVec 40) (s : State) : Out State :=
  .next (s.sealing dt (fun s => s.tap' 2 false (fun s => s.debugRead space.toNat core.toNat address.toNat)))

/-- DBGACC with WRITE = 1, which requires level 3. -/
def execDbgaccWrite (dt : Nat) (space : BitVec 3) (core : BitVec 4) (address : BitVec 40) (data : BitVec 64) (s : State) :
    Out State :=
  .next (s.sealing dt (fun s => s.tap' 2 false (fun s => s.debugWrite space.toNat core.toNat address.toNat data.toNat)))

/-- DBGCTRL HALT. -/
def execHalt (dt : Nat) (job : BitVec 6) (lane : BitVec 3) (s : State) : Out State :=
  .next (s.sealing dt (fun s => s.tap' 3 false (fun s =>
    s.debugCtrl 1 job.toNat lane.toNat false (fun k x s => s.haltCtx k x))))

/-- DBGCTRL RESUME. -/
def execResume (dt : Nat) (job : BitVec 6) (lane : BitVec 3) (s : State) : Out State :=
  .next (s.sealing dt (fun s => s.tap' 3 false (fun s =>
    s.debugCtrl 2 job.toNat lane.toNat true (fun k _ s =>
      (s.onCtx k (fun x => { x with halted := false, stepOne := false })).stir s.cclk))))

/-- DBGCTRL STEP: the context may take a running position for one entry. -/
def execDbgctrlStep (dt : Nat) (job : BitVec 6) (lane : BitVec 3) (s : State) : Out State :=
  .next (s.sealing dt (fun s => s.tap' 3 false (fun s =>
    s.debugCtrl 3 job.toNat lane.toNat true (fun k _ s =>
      (s.onCtx k (fun x => { x with stepOne := true })).stir s.cclk))))

end Sys2Proof.Machine
end

