-- ==== Sys2Proof/Machine/FieldCommands.lean ====
section
/-! DEFINITION. The commands of fire orders, the valve bus and the field inputs and outputs (14, 15). -/
namespace Sys2Proof.Machine

/-- VETO_CHANGE (R381, R393, R396): the veto input's debounced level is registered over a good link. -/
def execVetoChange (dt : Nat) (active : Bool) (s : State) : Out State :=
  .next (s.during dt (fun s =>
    if s.field.link && s.field.veto != active && s.mayChange 16 then
      let s := s.noteChange 16
      (({ s with field := { s.field with veto := active } }.takeVeto).causes s.sclk)
    else s))

/-- FIELD_LINK_LOSS (R391, R396, R403): the loss is registered, the latches freeze, the veto follows LOSTV. -/
def execFieldLinkLoss (dt : Nat) (s : State) : Out State :=
  .next (s.during dt (fun s =>
    if s.field.lost then s
    else
      let s := { s with field := { s.field with link := false, lost := true, latches := s.field.frozen s.sclk, before := [] } }
      let s := ((s.setBit (kField 2) 6 true).setBit (kField 2) 5 false).addReg (kField 0x19) 1
      let s := s.count 0x2900 9
      (s.takeVeto.causes s.sclk)))

/-- FIELD_LINK_RESTORED (R391, R403): each side takes the levels the other sends; differences raise their edges. -/
def execFieldLinkRestored (dt : Nat) (levels : BitVec 16) (veto outEnHigh : Bool) (s : State) : Out State :=
  .next (s.during dt (fun s =>
    let f := { s.field with link := true, lost := false, awaiting := false, veto := veto, outPin := outEnHigh, bounce := [] }
    let s := { s with field := { f with latches := s.reg (key 0x2630 3) % 65536 } }
    let s := s.setBit (kField 2) 5 true
    let s := forEach (upTo 16) s (fun d s => s.diLevel d (levels.getLsbD d))
    ((s.outEn outEnHigh).takeVeto.causes s.sclk)))

/-- DI_EDGE (R393, R394): a debounced level of DI0 to DI7 changes. -/
def execDiEdge (dt : Nat) (d : Fin 8) (on : Bool) (s : State) : Out State :=
  .next (s.during dt (fun s =>
    if s.field.link && s.bit' (kField 1) d != on && s.mayChange d then (s.noteChange d).diLevel d on else s))

/-- PULSED_SAMPLE (R395): DI8 to DI15 are sampled together, once in every 1 ms. -/
def execPulsedSample (dt : Nat) (levels : BitVec 8) (s : State) : Out State :=
  .next (s.during dt (fun s =>
    let early := match s.field.sampled with | some c => decide (s.sclk < c + 500000) | none => false
    if s.field.link && !early then
      forEach (upTo 8) { s with field := { s.field with sampled := some s.sclk } } (fun i s => s.pulseOne (8 + i) (levels.getLsbD i))
    else s))

/-- OUT_EN_N_CHANGE (R401, R402): the pin acts in the field section in every stage; the logic side registers it over the
link. -/
def execOutEnNChange (dt : Nat) (high : Bool) (s : State) : Out State :=
  .next (s.inField dt (fun s =>
    let s := { s with field := { s.field with outPin := high } }
    if s.field.link then ((s.outEn high).causes s.sclk) else s))

/-- OUTPUT_OVERLOAD (R400): the output switches off and sets its bit; a thermal shutdown shows while it lasts. -/
def execOutputOverload (dt : Nat) (d : Fin 16) (thermal : Bool) (s : State) : Out State :=
  .next (s.during dt (fun s =>
    let s := { s with field := { s.field with tripped := s.field.tripped ||| 2 ^ d.val } }
    let s := (s.setBit (kField 0x14) d true).count 0x2900 0x0B
    (if thermal then s.setBit (kField 0x16) d true else s)))

/-- OVERLOAD_RESTART (R400): the output has cooled and follows its commanded level again. -/
def execOverloadRestart (dt : Nat) (d : Fin 16) (s : State) : Out State :=
  .next (s.during dt (fun s =>
    ({ s with field := { s.field with tripped := s.field.tripped &&& (65535 ^^^ 2 ^ d.val) } }).setBit (kField 0x16) d false))

/-- OPEN_LOAD (R400): an output that is on carries less than 3 mA. -/
def execOpenLoad (dt : Nat) (d : Fin 16) (s : State) : Out State :=
  .next (s.during dt (fun s =>
    if s.driverOn d then ((s.setBit (kField 0x15) d true).count 0x2900 0x0C) else s))

/-- FIELD_UNDERVOLTAGE (R405): every driver is off, the latches are kept. -/
def execFieldUndervoltage (dt : Nat) (level : BitVec 16) (s : State) : Out State :=
  .next (s.inField dt (fun s =>
    if s.field.under then s
    else
      let s := { s with field := { s.field with under := true } }
      let s := ((s.setBit (kField 2) 4 true).setBit (kField 2) 7 true).setReg (kField 0x17) level.toNat
      (s.count 0x2900 0x0A)))

/-- FIELD_SUPPLY_RECOVERY (R405): the drivers resume their latched levels. -/
def execFieldSupplyRecovery (dt : Nat) (level : BitVec 16) (s : State) : Out State :=
  .next (s.inField dt (fun s =>
    let s := { s with field := { s.field with under := false } }
    ((s.setBit (kField 2) 4 false).setReg (kField 0x17) level.toNat)))

/-- FIELD_SECTION_RESET (R405): every latch is 0 until the first valid frame after recovery. -/
def execFieldSectionReset (dt : Nat) (s : State) : Out State :=
  .next (s.inField dt (fun s =>
    { s with field := { s.field with latches := 0, awaiting := true, pulsed := [], sampled := none, bounce := [], before := [], tripped := 0 } }))

/-- ORDER_DECIDED (R375, R378). -/
def execOrderDecided (dt : Nat) (core : Fin 6) (job : Fin 64) (bs : Bytes) (s : State) : Out State :=
  .next (s.during dt (fun s => s.fireRecord .decided core job bs))

/-- ORDER_UNDECIDED (R375). -/
def execOrderUndecided (dt : Nat) (core : Fin 6) (job : Fin 64) (bs : Bytes) (s : State) : Out State :=
  .next (s.during dt (fun s => s.fireRecord .undecided core job bs))

/-- DECIDE (R375). -/
def execDecide (dt : Nat) (core : Fin 6) (job : Fin 64) (bs : Bytes) (s : State) : Out State :=
  .next (s.during dt (fun s => s.fireRecord .decide core job bs))

/-- NEXT_CHANGE_FRAME_START (R384 rule 2): with no shift, LAT inactive and nothing to shift at HPOS, the frame for P* starts once
HPOS reaching P* − Lmin was registered two cycles before. -/
def execNextChangeFrameStart (dt : Nat) (c : Fin 4) (s : State) : Out State :=
  .next (s.during dt (fun s =>
    match (s.chan c).shift, (s.chan c).latEnd, s.nextChange c s.passed with
    | none, none, some (d, p) =>
      if s.chanNow c s.passed = (s.chan c).latched ∧ (s.chan c).freeAt ≤ s.sclk
          ∧ s.reachedBy d (s.sclk - 2) (posAdd p (-(s.leastLead c : Int))) then
        ((s.forgetPast c).startFrame c false d p (s.chanAt c d p s.passed) s.sclk)
      else s
    | _, _, _ => s))

/-- VALVE_FRAME_COMPLETE (R383, R384): an immediate frame is strobed in the next cycle; the frame for P* waits for its
position, or is strobed in the next cycle, late, when P* was registered as reached before this cycle. -/
def execValveFrameComplete (dt : Nat) (c : Fin 4) (s : State) : Out State :=
  .next (s.during dt (fun s =>
    match (s.chan c).shift with
    | some f =>
      if s.frameDone c then
        let s := (s.addReg (kChan c 3) 1).setShift c (some { f with complete := true })
        if f.immediate then s.strobes c (s.sclk + 1) false
        else if s.reachedBy f.dom s.passed f.pos then s.strobes c (s.sclk + 1) true
        else s
      else s
    | none => s))

/-- LATCH_PULSE_END (R383): LAT falls; the next frame may start in the cycle after. -/
def execLatchPulseEnd (dt : Nat) (c : Fin 4) (s : State) : Out State :=
  .next (s.during dt (fun s =>
    match (s.chan c).latEnd with
    | some m =>
      if m ≤ s.sclk then
        ((s.setChan c { s.chan c with latEnd := none, freeAt := s.sclk + 1 }).seekFrame c s.passed (s.sclk + 1))
      else s
    | none => s))

/-- STOP_TIMEOUT (R389): counted, and the group's positions are strobed off by an immediate frame. -/
def execStopTimeout (dt : Nat) (g : Fin 16) (s : State) : Out State :=
  .next (s.during dt (fun s =>
    if s.stopExpired g then s.stopOverdue g else s))

end Sys2Proof.Machine
end

