-- ==== Sys2Proof/Machine/FunctionCommands.lean ====
section
/-! DEFINITION. The commands of functions and of the barrier (10, 16). -/
namespace Sys2Proof.Machine

/-- LEADER_DRIVE (R299): the leader has sampled high for 100 beats and drives MSYNC low. -/
def execLeaderDrive (dt : Nat) (s : State) : Out State :=
  .next (s.during dt (fun s =>
    if s.hundredHigh && s.bit' (kLink 0x10) 1 then
      ({ s with barrier := { s.barrier with drive := true } }).setBit (kLink 0x14) 2 true
    else s))

/-- BARRIER_REGISTERED (R299, R301, R303): a barrier in the beat in which the timer reaches zero is an arrival. -/
def execBarrierRegistered (dt : Nat) (s : State) : Out State :=
  .next (s.during dt (fun s =>
    let inTime : Bool := match s.barrier.due with | some d => decide (s.beat ≤ d) | none => true
    if s.hundredHigh && inTime then
      let s := { s with barrier := { s.barrier with at_ := some s.beat } }
      (s.setReg (kLink 0x15) (s.cclkCount - s.ccount % 12)).setBit (kLink 0x14) 2 false
    else s))

/-- BARRIER_ACTION (R302): beat b + DB. -/
def execBarrierAction (dt : Nat) (s : State) : Out State :=
  .next (s.during dt (fun s =>
    match s.barrier.at_ with
    | none => s
    | some b =>
      let go := b + s.reg (kLink 0x12)
      if go ≤ s.beat then
        let n := s.alignS + 5 * go
        let c := s.alignC + 12 * go
        let s := if s.bit' (kLink 0x10) 2 then s.realign n c else s
        let s := forEach (s.barrier.fns.filter (fun f => s.fn f == .stopped)) s (fun f s => s.enterFn n c f)
        s.endArmed.addReg (kLink 0x18) 1
      else s))

/-- BARRIER_TIMEOUT (R301). -/
def execBarrierTimeout (dt : Nat) (s : State) : Out State :=
  .next (s.during dt (fun s =>
    match s.barrier.armed, s.barrier.at_, s.barrier.due with
    | true, none, some d =>
      if d < s.beat then
        let s := (s.endArmed.setBit (kLink 0x14) 3 true).addReg (kLink 0x19) 1
        s.count 0x2904 7
      else s
    | _, _, _ => s))

/-- FUNCTION_STOPPED (R410). -/
def execFunctionStopped (dt : Nat) (f : Nat) (s : State) : Out State :=
  .next (s.during dt (fun t =>
    if t.fn f = .stopping then t.finishStop f else t))

/-- PORT_CLOCK_LOSS (11 R322): the detector falls; a RUNNING stream enters FAULTED and gives its allotment back. -/
def execPortClockLoss (dt : Nat) (p : Fin 36) (s : State) : Out State :=
  .next (s.during dt (fun s =>
    if s.bit' (kPort p 0x0C) 15 then
      let s := (s.setBit (kPort p 0x0C) 15 false).setReg (kPort p 0x0D) 0
      let q := s.streamOf p
      if s.running (fStream q) then (s.ifeLeaves q).streamFaults q else s
    else s))

/-- FLAT_FIELD_COPY_COMPLETE (12 R349). -/
def execFlatFieldCopyComplete (dt : Nat) (p : Fin 36) (s : State) : Out State :=
  .next (s.during dt (fun s =>
    if (s.ife p).copying then
      let s := s.catchAll
      ((s.copyTable p).setIfe p { s.ife p with copying := false }).tryLaunches
    else s))

/-- MODEL_ENTRY_LOADED (09 R274, R275): the job's contexts start, or a set that waits for it enters. -/
def execModelEntryLoaded (dt : Nat) (job : Fin 64) (s : State) : Out State :=
  .next (s.during dt (fun s =>
    if (s.job job).loading then
      let s := (s.catchAll).markLoaded job
      if s.running (fJob job) then s.launch job s.cclk else s.tryLaunches
    else s))

/-- ENABLE_COMPLETE (R411). -/
def execEnableComplete (dt : Nat) (f : Nat) (s : State) : Out State :=
  .next (s.during dt (fun s =>
    if s.fn f = .off ∧ s.pend f then
      let s := (s.setFn f .stopped).setPend f false
      match fnOf f with
      | some (.net p) => s.doze p
      | _ => s
    else s))

end Sys2Proof.Machine
end

