-- ==== Sys2Proof/Machine/HostCommands.lean ====
section
/-! DEFINITION. The commands of the host port, of EtherCAT and of process data (16, 17). -/
namespace Sys2Proof.Machine

/-- SDO_DOWNLOAD_INITIATE: a download opens, in place of one still open; it is refused where the size indicated is too
large. -/
def execSdoDownloadInitiate (dt : Nat) (index : BitVec 16) (sub : BitVec 8) (complete : Bool) (size : Option Nat) (s : State) :
    Out State :=
  .next (s.via .ethercat dt (fun s =>
    let ix := index.toNat
    if s.mute .ethercat then s
    else if (match size with | some n => s.tooLarge ix sub.toNat n | none => false) then
      (({ s with ec := { s.ec with down := none } }).refuse .ethercat ⟨0x080000A2, ix, sub.toNat⟩ (cmdByte ix sub.toNat)).sentOver .ethercat
    else
      let d : SdoDown := { index := ix, sub := sub.toNat, ca := complete, size := size, due := s.sclk + sdoTime }
      { s with ec := { s.ec with down := some d, abort := 0 } }))

/-- SDO_DOWNLOAD_SEGMENT: the toggle bit starts at 0 and alternates; a segment beyond the entry's space ends the download. -/
def execSdoDownloadSegment (dt : Nat) (toggle final : Bool) (data : Bytes) (s : State) : Out State :=
  .next (s.via .ethercat dt (fun s =>
    let s := s.sdoOverdue
    if s.mute .ethercat then s
    else match s.ec.down with
      | none => s.sdoAbort 0x05040001
      | some d =>
        let all := d.data ++ data
        if toggle ≠ d.toggle then s.sdoAbort 0x05030000
        else if s.tooLarge d.index d.sub all.length then
          ((s.sdoAbort 0).refuse .ethercat ⟨0x080000A2, d.index, d.sub⟩ (cmdByte d.index d.sub)).sentOver .ethercat
        else if final then s.sdoFinish d all
        else
          let d := { d with data := all, toggle := !toggle, due := s.sclk + sdoTime }
          { s with ec := { s.ec with down := some d } }))

/-- SDO_SEGMENT_TIMEOUT (R63). -/
def execSdoSegmentTimeout (dt : Nat) (s : State) : Out State :=
  .next (s.via .ethercat dt (fun s => s.sdoOverdue))

/-- UPLOAD (R436). The record says what it asks; a record with another OP is acted on as that. -/
def execUpload (dt : Nat) (frame : Bytes) (s : State) : Out State := .next (s.via .hostPort dt (fun s => s.hspWrite frame))

/-- DOWNLOAD (R436). -/
def execDownload (dt : Nat) (frame : Bytes) (s : State) : Out State := .next (s.via .hostPort dt (fun s => s.hspWrite frame))

/-- DOWNLOAD_SEGMENT (R436). -/
def execDownloadSegment (dt : Nat) (frame : Bytes) (s : State) : Out State :=
  .next (s.via .hostPort dt (fun s => s.hspWrite frame))

/-- UPLOAD_SEGMENT (R436). -/
def execUploadSegment (dt : Nat) (frame : Bytes) (s : State) : Out State :=
  .next (s.via .hostPort dt (fun s => s.hspWrite frame))

/-- ABORT_TRANSFER (R436). -/
def execAbortTransfer (dt : Nat) (frame : Bytes) (s : State) : Out State :=
  .next (s.via .hostPort dt (fun s => s.hspWrite frame))

/-- RESPONSE_READY: HRDY goes high. -/
def execResponseReady (dt : Nat) (s : State) : Out State :=
  .next (s.via .hostPort dt (fun s =>
    match s.hsp.busy with
    | some (w, a) => if s.awaitDone w then s.setHsp { s.hsp with busy := none, resp := some a } else s
    | none => s))

/-- READ. -/
def execRead (dt : Nat) (s : State) : Out State :=
  .next (s.via .hostPort dt (fun s =>
    let s := s.chipSelect
    match s.hsp.busy, s.hsp.resp with
    | some (_, a), _ =>
      let busy : HspResp := { pstat := 6, seq := a.seq, index := a.index, sub := a.sub }
      s.setHsp { s.hsp with out := busy.bytes }
    | none, some a => s.setHsp { s.hsp with out := a.bytes, resp := some { a with read := true } }
    | none, none =>
      let held : HspResp := { pstat := 7, seq := 0 }
      s.setHsp { s.hsp with out := held.bytes }))

/-- STATUS: its sticky bits clear. -/
def execStatus (dt : Nat) (s : State) : Out State :=
  .next (s.via .hostPort dt (fun s =>
    let s := s.chipSelect
    let s := s.setHsp { s.hsp with out := leBytes 8 s.statusWord, busyw := false, frerr := false, tmo := false, rst := false }
    { s with evOverflow := false }))

/-- EVENT: the records of which all bytes were clocked out leave the queue. -/
def execEvent (dt : Nat) (clockedOut : Nat) (s : State) : Out State :=
  .next (s.via .hostPort dt (fun s =>
    let s := s.chipSelect
    let n := (clockedOut + 31) / 32
    let bs := (s.events.take n).flatMap EvRec.bytes
    let out := bs.take clockedOut ++ List.replicate (clockedOut - bs.length) 0#8
    { s.setHsp { s.hsp with out := out } with events := s.events.drop (clockedOut / 32) }))

/-- RESET_TRANSACTION. -/
def execResetTransaction (dt : Nat) (second : Byte) (s : State) : Out State :=
  .next (s.via .hostPort dt (fun s =>
    let s := s.chipSelect
    if second = 0x5A#8 then
      (s.setHsp { s.hsp with xfer := none, timed := false, resp := none, rst := true }).endClaims .hostPort
    else s.framing))

/-- TRANSACTION_TIMEOUT (R432): a transaction has outlasted its timer and is ignored. -/
def execTransactionTimeout (dt : Nat) (s : State) : Out State :=
  .next (s.via .hostPort dt (fun s =>
    let s := s.chipSelect
    (s.setHsp { s.hsp with tmo := true }).count 0x2904 1))

/-- TRANSFER_TIMEOUT (R436, R63). -/
def execTransferTimeout (dt : Nat) (s : State) : Out State :=
  .next (s.via .hostPort dt (fun s => s.xferOverdue))

/-- ATTENTION_PULSE. -/
def execAttentionPulse (dt : Nat) (s : State) : Out State :=
  .next (s.via .hostPort dt (fun s =>
    if s.pulseDue then s.setHsp { s.hsp with pulse := some s.sclk, last := some s.sclk, seen := s.events.length } else s))

/-- ATTENTION_PULSE_END. -/
def execAttentionPulseEnd (dt : Nat) (s : State) : Out State :=
  .next (s.via .hostPort dt (fun s =>
    match s.hsp.pulse with
    | some c => if c + 125 ≤ s.sclk then s.setHsp { s.hsp with pulse := none } else s
    | none => s))

/-- SNAPSHOT (R425). -/
def execSnapshot (dt : Nat) (s : State) : Out State :=
  .next (s.during dt (fun s =>
    if s.syncMode then (if s.snapshotDue then s.form else s) else s.frameSnapshot))

/-- SM3_READ (R426): inputs are sent in SAFEOP and OP. -/
def execSm3Read (dt : Nat) (s : State) : Out State :=
  .next (s.during dt (fun s =>
    let x := s.recordsRead
    let gone := (upTo x.2).map (fun i => (x.1 + i) % 2 ^ 32)
    if 4 ≤ s.ec.al then { s with pdQueue := s.pdQueue.filter (fun r => !gone.contains r.num) } else s))

/-- SM2_OUTPUTS_TAKEN: outputs are taken in OP, from a buffer of the mapped length. -/
def execSm2OutputsTaken (dt : Nat) (image : Bytes) (s : State) : Out State :=
  .next (s.during dt (fun s =>
    if s.ec.al = 8 ∧ image.length = mapBytes (s.mapped 0x1C12) then (s.fillOutputs image).takeOutputs else s))

/-- AL_STATE_REQUEST. `sm2` and `sm3` are the sizes set in the sync managers, `sync0Cycle` is in ns, 0 while not activated. -/
def execAlStateRequest (dt : Nat) (target : AlState) (sm2 sm3 : Nat) (mailboxOk : Bool) (sync0Cycle : Nat) (s : State) :
    Out State :=
  .next (s.during dt (fun s =>
    let no := fun (c : Nat) => { s with ec := { s.ec with code := c } }
    let was := s.ec.al
    let want := alCode target
    match target with
    | .other => no 0x0012
    | .boot => no 0x0011
    | _ =>
      if !alAllowed was want then no 0x0011
      else if was = 1 ∧ want = 2 ∧ !mailboxOk then no 0x0016
      else
        let c := if was = 2 ∧ want = 4 then s.safeopCode sm2 sm3 sync0Cycle else 0
        if c ≠ 0 then no c else s.enterAl want 0))

/-- SM2_WATCHDOG (R422). -/
def execSm2Watchdog (dt : Nat) (s : State) : Out State :=
  .next (s.during dt (fun s =>
    if s.ec.al = 8 then s.enterAl 4 0x001B else s))

/-- SYNC0. -/
def execSync0 (dt : Nat) (s : State) : Out State :=
  .next (s.during dt (fun s =>
    { (s.setReg (kTime 0x23) s.t32) with ec := { s.ec with syncAt := some s.sclk, awaited := true } }))

/-- SYNC0_MISSED: the cycle time of 1C33h.02h has run out, with the 4 SCLK in which a SYNC0 may be registered. -/
def execSync0Missed (dt : Nat) (s : State) : Out State :=
  .next (s.during dt (fun s =>
    match s.ec.syncAt with
    | some c =>
      if s.syncMode ∧ 0 < s.reg (kSm 2) ∧ c + s.reg (kSm 2) / 2 + 4 < s.sclk then
        (s.setReg (kSm 0x20) 1).setReg (key 0x1C32 0x20) 1
      else s
    | none => s))

/-- EMERGENCY_SEND: the oldest record is sent while the AL state is PREOP, SAFEOP or OP. -/
def execEmergencySend (dt : Nat) (s : State) : Out State :=
  .next (s.during dt (fun s =>
    match s.emergencies with
    | r :: rs =>
      if 2 ≤ s.ec.al then { s with emergencies := rs, ec := { s.ec with sent := s.emergencyOf r } } else s
    | [] => s))

/-- HOLDOFF_EXPIRY: one record for the increments folded, and the timer is loaded again; with none folded it stops. -/
def execHoldoffExpiry (dt : Nat) (counter : Nat) (s : State) : Out State :=
  .next (s.during dt (fun s =>
    match s.holdoff counter with
    | some h =>
      if h.due < s.sclk then
        let x := s.holdoffEnds counter h
        x.2.foldl (fun t d => State.countFuel 3 t d 0 none) x.1
      else s
    | none => s))

/-- RC_READ: an entry that clears on reading is read through a route (R408). -/
def execRcRead (dt : Nat) (r : Route) (index : BitVec 16) (sub : BitVec 8) (s : State) : Out State :=
  .next (s.via r dt (fun t =>
    if r = .ethercat ∧ t.ec.al = 1 then t
    else match t.readEntry index.toNat sub.toNat with
      | .ok x => x.2
      | .error _ => t))

end Sys2Proof.Machine
end

