-- ==== Sys2Proof/Machine/ImageCommands.lean ====
section
/-! DEFINITION. The commands of the image front ends and of sample intake (12, 13). -/
namespace Sys2Proof.Machine

/-- LINE_WRITE_COMPLETE: the front end of the stream that holds port `p` writes its next line (R345, R347). -/
def execLineWriteComplete (dt : Nat) (p : Fin 36) (s : State) : Out State :=
  .next (s.during dt (fun s =>
    let q := s.streamOf p
    if s.active (fStream q) then
      let s := s.catchAll
      match State.chain q ((s.port q).fifo.length + 2) s with
      | some t => t
      | none => s
    else s))

/-- DECODE_DISPATCH (R359, R367): a free engine takes the next ready sample in rotating order. A sample whose record
names no crop is not decoded. -/
def execDecodeDispatch (dt : Nat) (engine : Nat) (s : State) : Out State :=
  .next (s.during dt (fun s =>
    let s := forEach (upTo 16) s (fun i s => s.roiOverdue i)
    if (tfind s.engines engine).isSome then s
    else
      match ((upTo 16).map (fun n => (s.lastIntake + 1 + n) % 16)).find? (fun i => (s.readySample i).isSome) with
      | none => s
      | some i =>
        match s.readySample i with
        | none => s
        | some (x, crops) =>
          let u := (s.intake i).onSample x.index (fun x => { x with sent := true, crops := crops })
          let u := { u with roiDue := none }
          let s := { s.setIntake i u with lastIntake := i }
          if s.inRoi i && crops.isEmpty then
            ((s.setIntake i (u.onSample x.index (fun x => { x with done := some (0, 2 * b2n x.roiLate, 0) }))).armRoi i)
          else
            ({ s with engines := tput s.engines engine { stream := i, index := x.index, start := s.cclk } }.armRoi i)))

/-- DECODE_COMPLETE (R358 to R360): the engine's cycles have passed within the budget. -/
def execDecodeComplete (dt : Nat) (engine : Nat) (s : State) : Out State :=
  .next (s.during dt (fun s =>
    match s.engineSample engine with
    | some (e, x) =>
      let n := s.engineCycles e.stream x
      if e.start + n ≤ s.cclk ∧ n ≤ s.budget e.stream x then
        (s.engineDone engine e.stream e.index (s.outcome e.stream x n))
      else s
    | none => s))

/-- BUDGET_EXPIRY (R360, R63). -/
def execBudgetExpiry (dt : Nat) (engine : Nat) (s : State) : Out State :=
  .next (s.during dt (fun s =>
    match s.engineSample engine with
    | some (e, x) =>
      let b := s.budget e.stream x
      if b < s.engineCycles e.stream x ∧ e.start + b < s.cclk then
        (s.engineDone engine e.stream e.index (placeholder 0x84 (2 * b2n x.roiLate) b))
      else s
    | none => s))

/-- RECORD_COMMIT (R361 to R364): the next record in the order of index and variant is committed and signalled. -/
def execRecordCommit (dt : Nat) (i : Fin 16) (s : State) : Out State :=
  .next (s.during dt (fun s =>
    let u := s.intake i
    match u.samples with
    | [] => s
    | x :: xs =>
      match x.done with
      | none => s
      | some r =>
        let v := u.variants
        let ns := max 1 (s.reg (kIn i 5))
        let a := s.reg (kIn i 0x12) + u.commits % ns * s.slotSize i
        let s := { s.catchAll with ext := s.catchAll.ext.write 32 a (clean (s.recordBytes i x v r)) }
        let last := decide (s.variants i ≤ v + 1)
        let u := { u with samples := if last then xs else u.samples, variants := if last then 0 else v + 1,
                          commits := u.commits + 1, occupied := u.occupied + 1 }
        let s := (s.setIntake i u).addReg (kIn i 0x15) 1
        let s := if 0x80 ≤ r.1 then (s.addReg (kIn i 0x16) 1).countIn (s.inDom i) 0x2903 0x0B x.index else s
        let w := s.reg (kIn i 7)
        (if bit w 12 then s.externalSignal (bits w 11 6) (bits w 5 0) (hdr x.header 16 6) else s)))

/-- ROI_TIMEOUT (R368): the waiting sample goes on with the crops of the last bound record. -/
def execRoiTimeout (dt : Nat) (i : Fin 16) (s : State) : Out State :=
  .next (s.during dt (fun s => s.roiOverdue i))

/-- INTAKE_RELEASE (R365). -/
def execIntakeRelease (dt : Nat) (core slot : Nat) (record : Bytes) (s : State) : Out State :=
  .next (s.during dt (fun s =>
    match s.slotCtx core slot with
    | some (k, _) => if leAt record 0 1 = 2 then s else (s.intakePort (ctxJob k) record)
    | none => s))

/-- ROI (R367). -/
def execRoi (dt : Nat) (core slot : Nat) (record : Bytes) (s : State) : Out State :=
  .next (s.during dt (fun s =>
    match s.slotCtx core slot with
    | some (k, _) => if leAt record 0 1 = 2 then (s.intakePort (ctxJob k) record) else s
    | none => s))

end Sys2Proof.Machine
end

