-- ==== Sys2Proof/Machine/LineCommands.lean ====
section
/-! DEFINITION. The commands of line time (02). -/
namespace Sys2Proof.Machine

/-- ENCODER_COUNT (R33): the filtered levels change, and the decoder registers the count they make, if any. Levels that
the glitch filters cannot yet deliver do not come about (R34), so at most one count is registered in a cycle. -/
def execEncoderCount (dt : Nat) (e : Fin 4) (a b : Bool) (s : State) : Out State :=
  .next (s.during dt (fun s =>
    if s.filterPasses e a b then
      match decodeAB (s.encCfg e) (s.bit' (kEnc e 6) 0) (s.bit' (kEnc e 6) 1) a b with
      | .illegal => s
      | .nothing => s.setLevels e a b
      | .count rev => (s.setLevels e a b).encoderCounts e rev
    else s))

/-- ILLEGAL_TRANSITION (R35): no count, ILL set and counted, and the new levels become the reference. -/
def execIllegalTransition (dt : Nat) (e : Fin 4) (a b : Bool) (s : State) : Out State :=
  .next (s.during dt (fun s =>
    match decodeAB (s.encCfg e) (s.bit' (kEnc e 6) 0) (s.bit' (kEnc e 6) 1) a b with
    | .illegal => if s.filterPasses e a b then ((s.setBit (kEnc e 6) 4 true).setLevels e a b).count 0x2900 1 e else s
    | _ => s))

/-- Z_EDGE (R36): the filtered Z level changes; an edge of the polarity that ZMODE chooses is registered. -/
def execZEdge (dt : Nat) (e : Fin 4) (rising : Bool) (s : State) : Out State :=
  .next (s.during dt (fun s =>
    if s.settled e (s.enc e).zAt then
      let z := bits (s.encCfg e) 7 6
      let s := (s.setEnc e { s.enc e with zAt := some s.sclk }).setBit (kEnc e 6) 2 rising
      if (z = 1 ∧ rising) ∨ (z = 2 ∧ !rising) then s.zRegistered e else s
    else s))

/-- ENCODER_INPUT_FAULT (15 R398): an encoder with MODE off never reports one. -/
def execEncoderInputFault (dt : Nat) (e : Fin 4) (s : State) : Out State :=
  .next (s.during dt (fun s =>
    if bits (s.encCfg e) 2 0 = 0 ∨ s.bit' (key 0x2640 0x18) e then s else (s.inputFault e)))

/-- ENCODER_FAULT_END (15 Table 15-4): the encoder reports no fault any more; ENCF stays. -/
def execEncoderFaultEnd (dt : Nat) (e : Fin 4) (s : State) : Out State :=
  .next (s.during dt (fun s => s.setBit (key 0x2640 0x18) e false))

/-- GENERATOR_COUNT (R40): one forward count, when the accumulator has crossed. -/
def execGeneratorCount (dt : Nat) (d : Fin 4) (s : State) : Out State :=
  .next (s.during dt (fun s =>
    if s.field' (key (0x2108 + d) 1) 2 0 = 4 ∧ s.appliesCounts d s.sclk ∧ s.genDue d ≤ s.sclk then
      let s := s.setDomain d { s.domain d with genCounts := (s.domain d).genCounts + 1 }
      let y := s.applyCount d s.sclk false
      if y.2 then y.1.closes (s.sclk + 1) (1 + d) (.reach d) else y.1
    else s))

/-- STALL (R46). -/
def execStall (dt : Nat) (d : Fin 4) (s : State) : Out State :=
  .next (s.during dt (fun s => if s.stallDue d then s.stalls d else s))

/-- TRIGGER_ISSUED (R47, R49): the delay of the oldest waiting trigger has run out, TRIG goes active and the port takes
the position. -/
def execTriggerIssued (dt : Nat) (p : Fin 36) (s : State) : Out State :=
  .next (s.during dt (fun s =>
    match (s.trig p).waiting with
    | t :: ts =>
      if !t.missed && decide (t.due ≤ s.sclk) then
        let s := s.setTrig p { s.trig p with waiting := ts, pulseEnd := some (s.sclk + s.reg (kTrig p 4)) }
        let s := (s.setReg (kTrig p 6) t.pos).raise (evTrig p)
        (s.portTrigger p t.pos false)
      else s
    | [] => s))

/-- TRIGGER_PULSE_END (R47): TRIG returns to its inactive level. -/
def execTriggerPulseEnd (dt : Nat) (p : Fin 36) (s : State) : Out State :=
  .next (s.during dt (fun s =>
    match (s.trig p).pulseEnd with
    | some m => if m ≤ s.sclk then (s.setTrig p { s.trig p with pulseEnd := none }) else s
    | none => s))

/-- MISSED_TRIGGER (R48): the position of an overrun reaches the port in the cycle in which its pulse would have
begun. -/
def execMissedTrigger (dt : Nat) (p : Fin 36) (s : State) : Out State :=
  .next (s.during dt (fun s =>
    match (s.trig p).waiting with
    | t :: ts =>
      if t.missed && decide (t.due ≤ s.sclk) then
        ((s.setTrig p { s.trig p with waiting := ts }).portTrigger p t.pos true)
      else s
    | [] => s))

/-- TIMER_EXPIRY (R66): the event, the count, the EVQ record; the timer stops. -/
def execTimerExpiry (dt : Nat) (t : Fin 16) (s : State) : Out State :=
  .next (s.during dt (fun s => if s.timerExpired t then s.expireTimer t else s))

/-- COMMIT_DEADLINE (R67, 14 R377): every undecided claim of fire LPOS `f` in group `g` whose deadline was reached in an
earlier cycle takes the default. -/
def execCommitDeadline (dt : Nat) (g : Fin 16) (f : BitVec 48) (s : State) : Out State :=
  .next (s.during dt (fun s =>
    let s := s.defaultAll g (s.sclk - 1) (fun e => e.fpos == f.toNat)
    (s.causes s.sclk)))

/-- SLACK_REFRESH (R68): the slack of every job, 64 SCLK after the last refresh. -/
def execSlackRefresh (dt : Nat) (s : State) : Out State :=
  .next (s.during dt (fun s => if s.slackDue then s.refreshSlack else s))

end Sys2Proof.Machine
end

