-- ==== Sys2Proof/Machine/MemoryCommands.lean ====
section
/-! DEFINITION. The commands of the memories (07). -/
namespace Sys2Proof.Machine

/-- DRONE_READ. -/
def execDroneRead (dt : Nat) (level : Level) (agent : Nat) (word : Fin 16) (finding : ReadFinding) (s : State) : Out State :=
  .next (s.during dt (fun s =>
    if s.hasAgent level agent then s.agentRead level agent word finding else s))

/-- PATROL_READ (R222). -/
def execPatrolRead (dt : Nat) (controller : Fin 4) (finding : ReadFinding) (s : State) : Out State :=
  .next (s.during dt (fun s => s.agentRead .external controller 0 finding))

/-- DRONE_WRITEBACK (R221): `passed` is a correctable word that another reader found (R207). -/
def execDroneWriteback (dt : Nat) (level : Level) (agent : Nat) (passed : Option Nat) (s : State) : Out State :=
  .next (s.during dt (fun s => (s.passWord level agent passed).agentWrite level agent))

/-- REFRESH_RATE_CHANGE (R217, Table 7-4). -/
def execRefreshRateChange (dt : Nat) (multiplier : Fin 3) (hot : Bool) (s : State) : Out State :=
  .next (s.during dt (fun s =>
    if s.power.state < 2 then (s.setField (kMem 0x3E) 3 2 multiplier).setBit (kMem 0x3E) 0 hot else s))

/-- LIMIT_UPDATE (R500, Table 21-4). -/
def execLimitUpdate (dt : Nat) (r : ThermalReadings) (s : State) : Out State :=
  .next (s.during dt (fun s =>
    let s := s.settleLimits
    let hot := hottestOf (r.cores.take s.cores)
    let l := s.limits.update s.det s.cores r hot
    let nth := if s.det then l.die else (upTo s.cores).foldl (fun t c => max t (tget (fun _ => 0) l.cores c)) 0
    let powers := (r.power :: s.power.powers).take 100
    let s := { s with limits := l, power := { s.power with powers := powers } }
    let m := fun (sub : Nat) => key 0x2801 sub
    let sleeping := decide (2 ≤ s.power.state)
    let s := (s.setReg (m 1) (wrap 16 hot)).setReg (m 2) (if sleeping then 0x8000 else wrap 16 r.sram)
    let s := ((s.setReg (m 3) (wrap 16 r.io)).setReg (m 4) (wrap 16 r.board))
    let s := s.setReg (m 5) (l.power * 256 + nth * 16 + b2n (decide (0 < l.power)) * 2 + b2n (decide (0 < nth)))
    let s := if signed 16 (s.reg (m 6)) < hot then s.setReg (m 6) (wrap 16 hot) else s
    let s := if 0 < l.power ∨ 0 < nth then s.addReg (m 8) 1 else s
    s.setReg (key 0x2800 6) (powers.foldl (fun t p => t + p) 0 / powers.length)))

end Sys2Proof.Machine
end

