-- ==== Sys2Proof/Machine/NetworkCommands.lean ====
section
/-! DEFINITION. The commands of the network ports and of network time (18). -/
namespace Sys2Proof.Machine

/-- SECOND_ROLL (R459): a boundary still to be written is written first; then the second rolls if T32 has reached it. -/
def execSecondRoll (dt : Nat) (s : State) : Out State :=
  .next (s.during dt (fun s =>
    let s := if s.rollArmed then s else s.writeNext
    if s.atNext then s.roll else s))

/-- PTP_MESSAGE (R460, R461). Sync and Delay_Req are event messages and are stamped; the others carry no stamp. -/
def execPtpMessage (dt : Nat) (port : Fin 3) (m : PtpMessage) (captured : Nat) (outgoing : Bool) (s : State) : Out State :=
  .next (s.during dt (fun s =>
    if s.ptpOn && s.ptpReachable && port.val == s.ptpPort then
      match m with
      | .sync => s.takeStamp port captured outgoing
      | .delayReq =>
        let s := s.takeStamp port captured outgoing
        if !outgoing && s.portState == 6 then s.queuePtp port else s
      | .delayResp => s
      | .announce g utc => if outgoing then s else s.takeAnnounce g utc
      | .management => if outgoing then s else s.netCount port 0x11
    else s))

/-- PTP_TIMER_EXPIRY (R460): a master announces and syncs, any other port of the chosen mechanism requests its delay, and
a port that hears no master becomes one, or listens if it may never be master. -/
def execPtpTimerExpiry (dt : Nat) (t : PtpTimer) (s : State) : Out State :=
  .next (s.during dt (fun s =>
    if s.ptpOn then
      let p := s.ptpPort
      let x := s.portState
      match t with
      | .announceInterval => if x = 6 then s.queuePtp p else s
      | .syncInterval =>
        if x ≠ 6 then s
        else if s.syncSuppressed then s.addReg (kTime 0x25) 1
        else s.queuePtp p
      | .delayReqInterval => if x = 8 ∨ x = 9 ∨ s.bit' (kTime 1) 4 then s.queuePtp p else s
      | .announceReceipt =>
        if x = 6 then s
        else if s.bit' (kTime 1) 6 then s.setPortState 4
        else (s.setPortState 6).setReg (kTime 0x0F) Config.clockIdentity.toNat
    else s))

/-- SERVO_OFFSET (R462): the PTP firmware gives an offset; a port that was synchronising is a slave from then on. -/
def execServoOffset (dt : Nat) (offset : Int) (meanPathDelay : Int) (s : State) : Out State :=
  .next (s.during dt (fun s =>
    if s.ptpOn then
      let s := (s.setReg (kTime 0x0D) (wrap 64 meanPathDelay)).applyOffset offset
      if s.portState = 8 then s.setPortState 9 else s
    else s))

/-- LANE_BRING_UP (R442): the lanes of a port whose bring-up has begun are tried with the outcomes that the command
gives. On MLINK the markers name the lanes and the link. -/
def execLaneBringUp (dt : Nat) (port : Nat) (trials : List (List LaneTrial)) (m : LaneMarkers) (s : State) :
    Out State :=
  .next (s.during dt (fun s =>
    let u := s.net port
    match u.train with
    | none => s
    | some c =>
      if s.netLit port ∧ c ≤ s.sclk then
        let r := ((netLanes port).zip (List.range 2)).foldl (fun (x : State × Bool) (l : Nat × Nat) =>
          let y := x.1.tryLane l.1 (trials.getD l.2 [])
          (y.1, x.2 && y.2)) (s, true)
        let s := r.1
        if r.2 then
          let s := (s.setNet port { s.net port with train := none }).setLstate port 2
          if port < 2 then (s.addHalf (kNet port 0x1A) false)
          else
            let inv := fun l => b2n (s.bit' (key 0x2720 (0x25 + l)) 4)
            let s := s.setReg (kLink 7) (b2n m.reversed * 4 + inv 3 * 2 + inv 2)
            let s := s.setReg (kLink 0x0C) (min 32 m.deskew)
            if m.identity ≠ s.reg (kLink 1) ∨ 32 < m.deskew then (s.loseLink port) else s
        else
          let s := (s.setNet port { s.net port with train := none, retry := some (s.sclk + 500000000) }).setLstate port 3
          (if port < 2 then s.addHalf (kNet port 0x1A) true else s)
      else s))

/-- BRING_UP_RETRY (R442): one second after a failed bring-up it starts again. -/
def execBringUpRetry (dt : Nat) (port : Nat) (s : State) : Out State :=
  .next (s.during dt (fun s =>
    match (s.net port).retry with
    | some c =>
      if c ≤ s.sclk then ((s.setNet port { s.net port with retry := none, train := some s.sclk }).setLstate port 1)
      else s
    | none => s))

/-- LINK_LOSS (R443). -/
def execLinkLoss (dt : Nat) (port : Nat) (s : State) : Out State :=
  .next (s.during dt (fun s =>
    if s.lstate port = 2 ∧ s.netLit port then (s.loseLink port) else s))

/-- PLL_LOCK_FAILURE (R457): the port enters FAULTED. -/
def execPllLockFailure (dt : Nat) (port : Nat) (s : State) : Out State :=
  .next (s.during dt (fun s =>
    if s.active (fNet port) then ((s.netGone port).enterFaulted (fNet port)) else s))

/-- PAUSE_REPEAT (R446). -/
def execPauseRepeat (dt : Nat) (n : Nat) (s : State) : Out State :=
  .next (s.during dt (fun s =>
    let u := s.net n
    match u.pauseAt with
    | some c =>
      if c ≤ s.sclk then
        let s := s.setNet n { u with pauseAt := some (s.sclk + s.quanta n 32768) }
        if s.rxSize n - s.rxUsed n < s.reg (kNet n 0x0B) * 2 ^ 20 then (s.sendPause n) else s
      else s
    | none => s))

/-- SEGMENT_TRANSMITTED (R452): the segment finishes and the port chooses again. A port that had not chosen yet chooses
first. -/
def execSegmentTransmitted (dt : Nat) (port : Nat) (s : State) : Out State :=
  .next (s.during dt (fun s => ((s.choose port).finishSegment port).choose port))

/-- PAUSE_EXPIRY (R446). -/
def execPauseExpiry (dt : Nat) (n : Nat) (s : State) : Out State :=
  .next (s.during dt (fun s =>
    let u := s.net n
    match u.paused with
    | some c => if c ≤ s.sclk then ((s.setNet n { u with paused := none }).choose n) else s
    | none => s))

/-- FRAME_RECEIVED (R445, R446). Replies leave at once as frames of their own. -/
def execFrameReceived (dt : Nat) (n : Nat) (kind : FrameKind) (s : State) : Out State :=
  .next (s.during dt (fun s =>
    if (s.running (fNet n) ∨ s.netDozes n) ∧ s.lstate n = 2 then
      let s := s.netCount n 0x10
      match kind with
      | .badFcs => (s.discardFrame n)
      | .tagged => (s.discardFrame n)
      | .filtered => (s.discardFrame n)
      | .fragment => (s.discardFrame n)
      | .badChecksum => (s.discardFrame n)
      | .arpRequest a mac => ((s.learn n a mac).netCount n 0x12)
      | .arpReply a mac => (s.learn n a mac)
      | .echoRequest => (s.netCount n 0x12)
      | .pause q =>
        if s.bit' (kNet n 1) 2 then
          let s := s.addHalf (kNet n 0x18) false
          if q = 0 then ((s.setNet n { s.net n with paused := none }).choose n)
          else (s.setNet n { s.net n with paused := some (s.sclk + s.quanta n (q % 65536)) })
        else (s.discardFrame n)
      | .ptp => s
      | .udp => s
    else s))

/-- ARP_ENTRY_EXPIRY (R445). -/
def execArpEntryExpiry (dt : Nat) (n : Nat) (address : Nat) (s : State) : Out State :=
  .next (s.during dt (fun s =>
    let u := s.net n
    match tfind u.arp address with
    | some (_, c) => if c ≤ s.sclk then (s.setNet n { u with arp := terase u.arp address }) else s
    | none => s))

/-- SEGMENT_RECEIVED (R447, R448). A segment finds the messages whose timers have run out discarded. -/
def execSegmentReceived (dt : Nat) (port : Nat) (address udpPort : Nat) (payload : Bytes) (s : State) : Out State :=
  .next (s.during dt (fun s =>
    if (s.running (fNet port) ∨ s.netDozes port) ∧ s.lstate port = 2 then
      if s.segmentOk port payload then
        let m : InMsg := { addr := address, udp := udpPort, cls := leAt payload 3 1, stream := leAt payload 4 1,
                           seq := leAt payload 8 4, total := leAt payload 12 4, stamp := leAt payload 24 4 }
        let s := forEach (s.net port).opens s (fun x s => s.reassemblyOver port x)
        if s.netDozes port then (s.discardMessage port m 6)
        else match (s.net port).opens.find? (fun x => x.sameKey m && x.seq == m.seq) with
        | some x =>
          if leAt payload 16 4 + leAt payload 20 2 ≤ x.total then
            ((s.fill port x (leAt payload 16 4) (payload.drop 32)).pauseCheck port)
          else (s.discardFrame port)
        | none =>
          if (s.net port).ready.any (fun x => x.sameKey m && x.seq == m.seq) then s
          else (s.openMessage port m payload)
      else (s.discardFrame port)
    else s))

/-- REASSEMBLY_TIMEOUT (R448, R63). -/
def execReassemblyTimeout (dt : Nat) (port : Nat) (address udpPort : Nat) (cls stream : Byte) (s : State) : Out State :=
  .next (s.during dt (fun s =>
    match (s.net port).opens.find? (fun x => x.addr == address && x.udp == udpPort && x.cls == cls.toNat && x.stream == stream.toNat) with
    | some m => s.reassemblyOver port m
    | none => s))

/-- SUBMISSION_TAKEN (R354): stream `i` with room takes the oldest submission that waits for it. -/
def execSubmissionTaken (dt : Nat) (i : Nat) (s : State) : Out State :=
  .next (s.during dt (fun s =>
    let mine := fun p => ((s.net p).ready.find? (fun m => m.cls == 1 && m.stream == i)).map (fun m => (p, m))
    if s.running (fIntake i) ∧ s.roomFor i then
      match mine 0, mine 1 with
      | some (p, m), _ => (s.handSample p m)
      | none, some (p, m) => (s.handSample p m)
      | none, none => s
    else s))

/-- INBOX_WRITE (R455): the oldest message received on MLINK. -/
def execInboxWrite (dt : Nat) (s : State) : Out State :=
  .next (s.during dt (fun s =>
    match (s.net 2).ready with
    | m :: _ => (s.inboxWrite m)
    | [] => s))

end Sys2Proof.Machine
end

