-- ==== Sys2Proof/Machine/PowerCommands.lean ====
section
/-! DEFINITION. The commands of power, reset and security (19, 20). -/
namespace Sys2Proof.Machine

/-- POWER_ON. It acts from OFF: `State.reset` is the module after a power-on. -/
def execPowerOn (dt : Nat) (mainPresent : Bool) (banks : BankCheck) (s : State) : Out State :=
  .next (s.sealing dt (fun s =>
    if s.power.stage = .off then s.powerOn mainPresent banks else s))

/-- BRING_UP_FAILURE (R485): a step of a sequence begun within the last 1.48 s, with every function OFF, does not
complete. -/
def execBringUpFailure (dt : Nat) (stage : Fin 3) (s : State) : Out State :=
  .next (s.sealing dt (fun t =>
    let recent : Bool := match t.power.began with | some b => decide (t.time ≤ b + 8880000000) | none => false
    (if t.power.stage = .up ∧ recent ∧ allFns.all (fun f => t.fn f == .off) then t.failBringUp (stage.val + 1) else t)))

/-- RESET_N: the module is held until the pin is high again. -/
def execResetN (dt : Nat) (s : State) : Out State :=
  .next (s.sealing dt (fun t =>
    (if t.power.stage = .up then
        let t := (t.registerReset 1).cleared
        { t with power := { t.power with stage := .held, holder := 1, resetDue := none, target := none } }
      else t)))

/-- RESET_N_RELEASE: the sequence resumes at step 2. -/
def execResetNRelease (dt : Nat) (s : State) : Out State :=
  .next (s.sealing dt (fun t =>
    (if t.power.stage = .held ∧ t.power.holder = 1 then t.resume 1 3 else t)))

/-- MODULE_RESET: 100 µs after the response to the write of 01h to 29F0h.01h. -/
def execModuleReset (dt : Nat) (s : State) : Out State :=
  .next (s.sealing dt (fun t =>
    (if t.resetReady 2 then (t.registerReset 2).resume 2 3 else t)))

/-- MODULE_RESET_REBOOT. -/
def execModuleResetReboot (dt : Nat) (banks : BankCheck) (s : State) : Out State :=
  .next (s.sealing dt (fun t =>
    (if t.resetReady 3 then ((t.registerReset 3).boot banks).resume 3 3 else t)))

/-- IO_DIE_WATCHDOG. -/
def execIoDieWatchdog (dt : Nat) (banks : BankCheck) (s : State) : Out State :=
  .next (s.sealing dt (fun t =>
    (if t.power.stage = .up then ((t.registerReset 4).boot banks).resume 4 3 else t)))

/-- MAIN_SUPPLY_LOSS (19 R471): a reset that comes to rest in STANDBY. `level` is in units of 10 mV. -/
def execMainSupplyLoss (dt : Nat) (level : BitVec 16) (s : State) : Out State :=
  .next (s.sealing dt (fun t =>
    if level.toNat < 1080 then
      let t := { t with power := { t.power with main := false } }
      let t := t.setReg (kPower 5) level.toNat
      (if t.power.stage = .up then (t.registerReset 5).rest else t)
    else t))

/-- THERMAL_TRIP (21 R501): a wake is then honoured only once the die has cooled. -/
def execThermalTrip (dt : Nat) (s : State) : Out State :=
  .next (s.sealing dt (fun t =>
    (if t.power.stage = .up then
        let t := (t.registerReset 6).rest
        { t with power := { t.power with hot := true, wake := none } }
      else t)))

/-- CLOCK_FAILURE: the sequence resumes once REFCLK has been present for 1 ms. -/
def execClockFailure (dt : Nat) (s : State) : Out State :=
  .next (s.sealing dt (fun t =>
    (if t.power.stage = .up then
        let t := (t.registerReset 7).cleared
        { t with power := { t.power with stage := .held, holder := 7, resetDue := none, target := none } }
      else t)))

/-- REFCLK_RESTORED. -/
def execRefclkRestored (dt : Nat) (s : State) : Out State :=
  .next (s.sealing dt (fun t =>
    (if t.power.stage = .held ∧ t.power.holder = 7 then t.resume 7 3 else t)))

/-- STANDBY_RAIL_LOSS (19 R464): OFF, Jatuwick included. -/
def execStandbyRailLoss (dt : Nat) (s : State) : Out State :=
  .next (s.sealing dt (fun s =>
    let t := s.wiped
    { t with power := { stage := .off, main := s.power.main, began := none } }))

/-- WAKE_N. A low level that begins while entry into STANDBY is in progress is taken once the entry is complete. -/
def execWakeN (dt : Nat) (s : State) : Out State :=
  .next (s.sealing dt (fun t =>
    (if t.bit' (kPower 4) 0 then
        if t.power.stage = .standby then t.wakeBy 1
        else if t.power.stage = .up ∧ t.power.target = some 3 then { t with power := { t.power with wake := some 1 } }
        else t
      else t)))

/-- MAIN_SUPPLY_RISE: the supply rises into its range after having been absent. -/
def execMainSupplyRise (dt : Nat) (level : BitVec 16) (s : State) : Out State :=
  .next (s.sealing dt (fun t =>
    if 1080 ≤ level.toNat ∧ level.toNat ≤ 1320 then
      let was := t.power.main
      let t := { t with power := { t.power with main := true } }
      let t := t.setReg (kPower 5) level.toNat
      (if t.power.stage = .standby ∧ !was then
          if t.power.first then t.comeUp 0 0
          else if t.bit' (kPower 4) 1 then t.wakeBy 2 else t
        else t)
    else t))

/-- TRIP_TEMPERATURE_FALL: the die has cooled by 10 K, and a held wake is honoured. -/
def execTripTemperatureFall (dt : Nat) (s : State) : Out State :=
  .next (s.sealing dt (fun t =>
    let t := { t with power := { t.power with hot := false } }
    (match t.power.stage, t.power.wake with
      | .standby, some c => t.wakeBy c
      | _, _ => t)))

/-- POWER_TRANSITION_COMPLETE. -/
def execPowerTransitionComplete (dt : Nat) (s : State) : Out State :=
  .next (s.during dt (fun s =>
    match s.power.target with
    | some target => s.finishPower s.power.state target
    | none => s))

/-- MODEL_CONTAINER (09 R273): through the host port, or as the message of a NET port that listens. EtherCAT carries none. -/
def execModelContainer (dt : Nat) (source : ModelSource) (container : Bytes) (s : State) : Out State :=
  .next (s.during dt (fun s =>
    match source with
    | .hostPort =>
      let i := s.fresh 65536
      (i.2.hostModel i.1 container).s
    | .ethercat => s
    | .net p a u stream seq =>
      if s.running (fNet p) || s.netDozes p then
        s.handModel p { addr := a, udp := u, cls := 3, stream := stream.toNat, seq := seq, total := container.length } container
      else s))

/-- MESSAGE_HANDED_ON. -/
def execMessageHandedOn (dt : Nat) (port : Nat) (s : State) : Out State :=
  .next (s.during dt (fun s =>
    match s.takeable port with
    | none => s
    | some m =>
      if 2 ≤ port then s.inboxWrite m
      else match m.cls with
        | 1 => s.handSample port m
        | 2 => ((s.dropReady port m).netCount port 0x13).bankMessage port m.bytes
        | _ => (s.dropReady port m).handModel port m m.bytes))

end Sys2Proof.Machine
end

