-- ==== Sys2Proof/Machine/SchedulerCommands.lean ====
section
/-! DEFINITION. The commands of the scheduler and the batch step (09). -/
namespace Sys2Proof.Machine

/-- STEP. -/
def execStep (dt : Nat) (core slot : Nat) (record : Bytes) (s : State) : Out State :=
  .next (s.during dt (fun s => s.batchFrom core slot 1 record))
/-- JOIN. -/
def execJoin (dt : Nat) (core slot : Nat) (record : Bytes) (s : State) : Out State :=
  .next (s.during dt (fun s => s.batchFrom core slot 3 record))
/-- LEAVE. -/
def execLeave (dt : Nat) (core slot : Nat) (record : Bytes) (s : State) : Out State :=
  .next (s.during dt (fun s => s.batchFrom core slot 2 record))

/-- SLICE_BOUNDARY (R261, R263). -/
def execSliceBoundary (dt : Nat) (p : Nat) (s : State) : Out State :=
  .next (s.during dt (fun s =>
    if s.boundaryDue p then
      let s := (s.passBoundary p).addReg (key 0x2500 (0x19 + p)) 1
      let c := s.cclk
      let s := forEach (s.partJobs p) s (fun j s => s.restartLanes j c)
      let s := forEach (s.partCores p) s (fun core s =>
        let ts := s.targets core
        let s := ((s.markOthers p core c ts).makeRoom core c ts).setTargets core ts
        forEach ts s (fun t s => s.placeTarget core c ts t))
      (s.tidy c)
    else s))

/-- FORCED_PREEMPTION: a marked context has reached no yield point within the grace. -/
def execForcedPreemption (dt : Nat) (core slot : Nat) (s : State) : Out State :=
  .next (s.during dt (fun s =>
    match s.slotCtx core slot with
    | none => s
    | some (k, x) =>
      match x.graceAt with
      | none => s
      | some g =>
        if g < s.cclk ∧ x.forced = false then
          if x.holds then
            if x.overrun ∨ s.holdTime k = 0 then (s.orderTeardown k) else s
          else
            (s.catchAll).forceOut k s.cclk
        else s))

/-- HOLD_TIMEOUT: a context has held for its job's maximum hold time. -/
def execHoldTimeout (dt : Nat) (job lane : Nat) (s : State) : Out State :=
  .next (s.during dt (fun s =>
    let k := ctxKey job lane
    match s.ctx? k with
    | none => s
    | some x =>
      match x.holdDue with
      | none => s
      | some d =>
        if d < s.cclk ∧ x.overrun = false then s.holdOverrun k else s))

/-- CONTEXT_UNLOAD_COMPLETE: the windows are staged (R253). -/
def execContextUnloadComplete (dt : Nat) (job lane : Nat) (s : State) : Out State :=
  .next (s.during dt (fun s =>
    let s := s.catchAll
    let k := ctxKey job lane
    match s.ctx? k with
    | none => s
    | some x0 =>
      match x0.move, x0.slot with
      | some (.unload, c0), some n =>
        if x0.transfers ≤ x0.moved ∧ max c0 x0.moveNext + 3 ≤ s.cclk then
          let c := s.cclk
          let s := (s.unloadData k x0 n).addReg (key 0x2570 5) 1
          let s := s.onCtx k (fun x => { x with place := .staged, move := none })
          match x0.evicted with
          | some (t, c1) =>
            if ((s.ctx t).slot).isSome then
              let s := s.onCtx k (fun x => { x with evicted := none })
              ((s.beginLoad t c).tidy c)
            else ((s.onCtx k (fun x => { x with evicted := some (t, c1) }.startMove .save c)).tidy c)
          | none => (s.tidy c)
        else s
      | _, _ => s))

/-- CONTEXT_LOAD_COMPLETE: the context is in place (R251, R253, R258). -/
def execContextLoadComplete (dt : Nat) (job lane : Nat) (s : State) : Out State :=
  .next (s.during dt (fun s =>
    let s := s.catchAll
    let k := ctxKey job lane
    match s.ctx? k with
    | none => s
    | some x =>
      match x.move, x.slot with
      | some (.load, c0), some n =>
        if x.transfers ≤ x.moved ∧ max c0 x.moveNext + 14 ≤ s.cclk then
          let s := (s.loadData x n).addReg (key 0x2570 6) 1
          let s := s.onCtx k (fun x => { x with place := .inPlace, move := none })
          ((s.noteSwap k).tidy s.cclk)
        else s
      | _, _ => s))

/-- CONTEXT_SAVE_COMPLETE: the whole state stands in the siding and the slot falls free (R253, R255). -/
def execContextSaveComplete (dt : Nat) (job lane : Nat) (s : State) : Out State :=
  .next (s.during dt (fun s =>
    let s := s.catchAll
    let k := ctxKey job lane
    match s.ctx? k with
    | none => s
    | some x0 =>
      match x0.move, x0.slot with
      | some (.save, c0), some n =>
        if c0 + 162 ≤ s.cclk then
          let c := s.cclk
          let b := s.staging x0.core n
          let x := { x0 with saves := x0.saves + 1 }
          let s := ({ s with stack := s.stack.write 8 b (clean (s.sidingHeader k x)) } : State).saveSlot x n c
          let img := s.stack.cut 8 b sidingBytes
          let e := s.ext.paste 32 (sidingBase k) sidingBytes (img.1, groupWords 4 img.2)
          let s := ({ s with ext := e } : State).noticeBad 3 8 b sidingBytes
          let s := (s.setCtx k { x with place := .siding, slot := none, move := none, evicted := none }).addReg (key 0x2570 3) 1
          match x0.evicted with
          | some (t, c1) =>
            ((s.onCtx t (fun y => if y.slot.isNone && y.place == .siding then
              { y with slot := some n, swapFrom := some c1 }.startMove .restore c else y)).tidy c)
          | none => (s.tidy c)
        else s
      | _, _ => s))

/-- CONTEXT_RESTORE_COMPLETE: the context is staged and takes the signals it missed (R253, R256, R294). -/
def execContextRestoreComplete (dt : Nat) (job lane : Nat) (s : State) : Out State :=
  .next (s.during dt (fun s =>
    let s := s.catchAll
    let k := ctxKey job lane
    match s.ctx? k with
    | none => s
    | some x =>
      match x.move, x.slot with
      | some (.restore, c0), some n =>
        if c0 + 162 ≤ s.cclk then
          if s.sidingOk k && !s.seqPoisoned k then
            let c := s.cclk
            let img := s.ext.cut 32 (sidingBase k) sidingBytes
            let m := s.stack.paste 8 (s.staging x.core n) sidingBytes (img.1, splitWords 4 img.2)
            let s := (({ s with stack := m } : State).restoreSlot k).noticeBad 4 32 (sidingBase k) sidingBytes
            let s := s.onCtx k (fun x => { x with place := .staged, move := none, residentAt := c })
            let s := ((s.addReg (kJob job 0x0F) 1).addReg (key 0x2500 0x1F) 1).addReg (key 0x2570 4) 1
            (((s.applyRecord k).beginLoad k c).tidy c)
          else ((s.count 0x2901 0x12).coreFault k 8 0)
        else s
      | _, _ => s))

/-- TEARDOWN ordered by the scheduler (R269, R270). -/
def execTeardown (dt : Nat) (job lane : Nat) (s : State) : Out State :=
  .next (s.during dt (fun s => s.orderTeardown (ctxKey job lane)))

end Sys2Proof.Machine
end

