-- ==== Sys2Proof/Machine/SensorCommands.lean ====
section
/-! DEFINITION. The commands of the sensor ports and of sensor control (11). -/
namespace Sys2Proof.Machine

/-- LINE_START (R311): only a RUNNING stream takes a line. -/
def execLineStart (dt : Nat) (p : Fin 36) (fval : Bool) (s : State) : Out State :=
  .next (s.during dt (fun s =>
    let s := s.setBit (kPort p 0x0C) 9 true
    let q := s.streamOf p
    (if s.running (fStream q) then s.lineStarts q p fval else s)))

/-- FRAME_START (R311). -/
def execFrameStart (dt : Nat) (p : Fin 36) (s : State) : Out State :=
  .next (s.during dt (fun s =>
    let s := s.setBit (kPort p 0x0C) 10 true
    let q := s.streamOf p
    (if s.running (fStream q) && s.frameMode q then s.frameStarts q p else s)))

/-- LINE_END (R311). A line in progress when its stream left RUNNING is completed, without its event, and so is its
frame (R322). -/
def execLineEnd (dt : Nat) (p : Fin 36) (edges : List (BitVec 4)) (ovf : Option Nat) (s : State) : Out State :=
  .next (s.during dt (fun s =>
    let s := s.setBit (kPort p 0x0C) 9 false
    let q := s.streamOf p
    match (s.port p).line with
    | some l =>
      if s.running (fStream q) then (s.lineEnds q p l edges ovf)
      else if s.active (fStream q) then
        let s := s.lineEnds q p l edges ovf
        (match (s.port p).frame with | some f => s.frameEnds q p f | none => s)
      else (s.setPort p { s.port p with line := none })
    | none => s))

/-- FRAME_END (R313). -/
def execFrameEnd (dt : Nat) (p : Fin 36) (s : State) : Out State :=
  .next (s.during dt (fun s =>
    let s := s.setBit (kPort p 0x0C) 10 false
    let q := s.streamOf p
    match (s.port p).frame with
    | some f => (if s.active (fStream q) then s.frameEnds q p f else s.setPort p { s.port p with frame := none })
    | none => s))

/-- PAIRING_EXPIRY (R315): entries of the port whose window has run out leave as fill lines. -/
def execPairingExpiry (dt : Nat) (p : Fin 36) (s : State) : Out State :=
  .next (s.during dt (fun s =>
    let q := s.streamOf p
    if s.running (fStream q) then ((State.expirePairs 17 s q p).showPend p) else s))

/-- PORT_CLOCK_PRESENT (R322, R309): the detector works while the stream that holds the port is not OFF. -/
def execPortClockPresent (dt : Nat) (p : Fin 36) (kHz : BitVec 32) (s : State) : Out State :=
  .next (s.during dt (fun s =>
    if s.fn (fStream (s.streamOf p)) = .off then s
    else
      let s := (s.setBit (kPort p 0x0C) 15 true).setReg (kPort p 0x0D) kHz.toNat
      (if 750000 < kHz.toNat then (s.setBit (kPort p 0x0C) 12 true).countIn (s.streamDom (s.streamOf p)) 0x2903 2 else s)))

/-- DESKEW_COMPLETE (R310): `passing` lists, per data pair, which taps passed. -/
def execDeskewComplete (dt : Nat) (p : Fin 36) (passing : List (List Bool)) (s : State) : Out State :=
  .next (s.during dt (fun s =>
    if s.bit' (kPort p 0x0C) 14 then
      let s := s.setBit (kPort p 0x0C) 14 false
      (forEach (upTo (s.lanes (s.streamOf p))) s (fun i s => s.deskewPair p i (passing.getD i [])))
    else s))

/-- SCC_RECORD_START (R329): the head starts; an aligned one in blanking, while its align timer runs. A start that finds
the timer expired ends the record (02 R63). -/
def execSccRecordStart (dt : Nat) (k : Fin 12) (inBlanking : Bool) (s : State) : Out State :=
  .next (s.during dt (fun s =>
    let u := s.scc k
    match u.queue with
    | r :: _ =>
      if !u.started && (!r.aligned || inBlanking) then
        (if s.alignOver k r then s.sccEnd k r 4 [] else s.setScc k { u with started := true, startAt := s.sclk })
      else s
    | [] => s))

/-- ALIGN_TIMEOUT (R329, R63). -/
def execAlignTimeout (dt : Nat) (k : Fin 12) (s : State) : Out State :=
  .next (s.during dt (fun s =>
    let u := s.scc k
    match u.queue with
    | r :: _ =>
      if !u.started && s.alignOver k r then s.sccEnd k r 4 [] else s
    | [] => s))

/-- CLOCK_STRETCH_TIMEOUT (R326, R330, 02 R509): an I2C target has held the clock for `held` SCLK cycles of the record, longer
than the timeout. -/
def execClockStretchTimeout (dt : Nat) (k : Fin 12) (held : Nat) (s : State) : Out State :=
  .next (s.during dt (fun s =>
    let u := s.scc k
    match u.queue with
    | r :: _ =>
      if u.started && r.cmd != 3 && decide (u.startAt + held ≤ s.sclk) && decide (micros (s.reg (kScc k 3)) < held) then
        s.sccEnd k r 3 []
      else s
    | [] => s))

/-- SCC_RECORD_COMPLETE (R330): the stop condition or the rise of the chip select is registered. -/
def execSccRecordComplete (dt : Nat) (k : Fin 12) (outcome : BusEnd) (read : Bytes) (s : State) : Out State :=
  .next (s.during dt (fun s =>
    let u := s.scc k
    match u.queue with
    | r :: _ =>
      if u.started then
        (s.sccEnd k r (match outcome with | .done => 0 | .addressNak => 1 | .dataNak => 2) read)
      else s
    | [] => s))

end Sys2Proof.Machine
end

