-- ==== Sys2Proof/Machine/SequencerCommands.lean ====
section
/-! DEFINITION. The commands of the sequencers (05). -/
namespace Sys2Proof.Machine

/-- LOOP (R129). -/
def execLoop (dt : Nat) (core slot : Nat) (s : State) : Out State :=
  .next (s.during dt (fun s => s.issue core slot isLoop State.loopEntry))

/-- END (R129, R271). -/
def execEndEntry (dt : Nat) (core slot : Nat) (s : State) : Out State :=
  .next (s.during dt (fun s => s.issue core slot isStop State.stopEntry))

/-- SEMAPHORE_ADD (R144, R145, R149). -/
def execSemaphoreAdd (dt : Nat) (core slot : Nat) (s : State) : Out State :=
  .next (s.during dt (fun s => s.semEntry core slot 0 State.semAdd))

/-- SEMAPHORE_SET (R144, R149). -/
def execSemaphoreSet (dt : Nat) (core slot : Nat) (s : State) : Out State :=
  .next (s.during dt (fun s => s.semEntry core slot 1 State.semSet))

/-- SEMAPHORE_LANE_ADD (R147). -/
def execSemaphoreLaneAdd (dt : Nat) (core slot : Nat) (s : State) : Out State :=
  .next (s.during dt (fun s => s.semEntry core slot 2 State.semLaneAdd))

/-- LANE_SIGNAL_ARRIVAL: signals between lanes whose cycle has come are registered (R147, R256). -/
def execLaneSignalArrival (dt : Nat) (s : State) : Out State :=
  .next (s.during dt (fun s =>
    let due := s.laneSigs.filter (fun g => decide (g.due ≤ s.cclk))
    let rest := s.laneSigs.filter (fun g => !decide (g.due ≤ s.cclk))
    (forEach due { s with laneSigs := rest } (fun g s => (s.signalCtx g.ctx g.sem g.amount none).tidy g.due))))

/-- HUB_OPERATION: the operations of the earliest cycle that has come (R144, R145, R148, R149). -/
def execHubOperation (dt : Nat) (s : State) : Out State :=
  .next (s.during dt (fun s =>
    match s.hubOps with
    | [] => s
    | o :: os =>
      let c := os.foldl (fun m p => min m p.due) o.due
      if c ≤ s.cclk then
        let now := s.hubOps.filter (fun p => p.due == c)
        let s := { s with hubOps := s.hubOps.filter (fun p => p.due != c) }
        (((forEach (upTo 3) s (fun r s => forEach (now.filter (fun p => p.rank == r)) s (fun p s => s.hubStep p))).grantsHub c).tidy c)
      else s))

/-- WAIT. -/
def execWait (dt : Nat) (core slot : Nat) (s : State) : Out State :=
  .next (s.during dt (fun s => s.issue core slot (isOp 0x41 (fun _ => true)) State.waitEntry))

/-- WAIT_TIMEOUT: the timer of an issued wait has run out (R63, R148). -/
def execWaitTimeout (dt : Nat) (core slot : Nat) (s : State) : Out State :=
  .next (s.during dt (fun s =>
    match s.slotCtx core slot with
    | some (k, x) =>
      match x.waiting, x.timer with
      | .wait, some d => if !x.cancelled && decide (d < s.cclk) then (s.expire k (bit x.word 15) d) else s
      | _, _ => s
    | none => s))

/-- CREDIT_ACQUIRE (R151). -/
def execCreditAcquire (dt : Nat) (core slot : Nat) (s : State) : Out State :=
  .next (s.during dt (fun s => s.issue core slot (isOp 0x43 (fun w => !creditRel w)) State.acquireEntry))

/-- CREDIT_RELEASE (R151). -/
def execCreditRelease (dt : Nat) (core slot : Nat) (s : State) : Out State :=
  .next (s.during dt (fun s => s.issue core slot (isOp 0x43 creditRel) State.releaseEntry))

/-- CREDIT_TIMEOUT (R63, R151). -/
def execCreditTimeout (dt : Nat) (core slot : Nat) (s : State) : Out State :=
  .next (s.during dt (fun s =>
    match s.slotCtx core slot with
    | some (k, x) =>
      match x.waiting, x.timer with
      | .credit, some d =>
        if !x.cancelled && decide (d < s.cclk) then
          ((s.addReg (kCore core 0x0A) (d - x.issuedAt)).expire k (creditTact x.word) d)
        else s
      | _, _ => s
    | none => s))

/-- YIELD. -/
def execYield (dt : Nat) (core slot : Nat) (s : State) : Out State :=
  .next (s.during dt (fun s => s.yieldEntry core slot false))

/-- YIELD_SURRENDER. -/
def execYieldSurrender (dt : Nat) (core slot : Nat) (s : State) : Out State :=
  .next (s.during dt (fun s => s.yieldEntry core slot true))

/-- DEADLINE_PUBLISH. -/
def execDeadlinePublish (dt : Nat) (core slot : Nat) (s : State) : Out State :=
  .next (s.during dt (fun s => s.issue core slot (isOp 0x44 (fun w => deadSrc w != 0)) State.publishEntry))

/-- DEADLINE_CLEAR. -/
def execDeadlineClear (dt : Nat) (core slot : Nat) (s : State) : Out State :=
  .next (s.during dt (fun s => s.issue core slot (isOp 0x44 (fun w => deadSrc w == 0)) State.unpublishEntry))

end Sys2Proof.Machine
end

