-- ==== Sys2Proof/Machine/ShunterCommands.lean ====
section
/-! DEFINITION. The commands of the shunters (05). -/
namespace Sys2Proof.Machine

/-- SHUNTER_COPY (R140). -/
def execShunterCopy (dt : Nat) (core slot : Nat) (s : State) : Out State :=
  .next (s.during dt (fun s => s.shunterIssue core slot (fun g t => !g && !t)))

/-- SHUNTER_GATHER (R140). A descriptor with GATH and SCAT both set is found as a fault by this command or the next. -/
def execShunterGather (dt : Nat) (core slot : Nat) (s : State) : Out State :=
  .next (s.during dt (fun s => s.shunterIssue core slot (fun g _ => g)))

/-- SHUNTER_SCATTER (R140). -/
def execShunterScatter (dt : Nat) (core slot : Nat) (s : State) : Out State :=
  .next (s.during dt (fun s => s.shunterIssue core slot (fun _ t => t)))

/-- SHUNTER_START (R142, R150): the descriptor at the head of a queue begins in the cycle after its predecessor's last write.
One that waited for a credit begins now, and the cycles that it waited are counted. -/
def execShunterStart (dt : Nat) (core n : Nat) (s : State) : Out State :=
  .next (s.during dt (fun s =>
    let s := s.catchUp
    let u := s.shunter core n
    match u.queue with
    | d :: _ =>
      let i := max u.start d.at_
      if !u.begun && s.mayBegin d && decide (i ≤ s.cclk) then
        if d.dsp = 4 then (s.addReg (kCore core 0x0A) (s.cclk - i)).setShunter core n (u.begin s.cclk)
        else (s.setShunter core n (u.begin i)).carryOn
      else s
    | [] => s))

/-- SHUNTER_COMPLETE (R141 to R143): a descriptor of fixed timing completes in its cycle; the head of a shunter stops where
its index strayed; one of open timing has been copied. -/
def execShunterComplete (dt : Nat) (core n : Nat) (s : State) : Out State :=
  .next (s.during dt (fun s =>
    let s := s.catchUp
    let u := s.shunter core n
    match u.finish, u.queue with
    | f :: _, _ => s.shunterFinish core n f
    | [], d :: _ =>
      if u.begun then
        if u.stray.isSome then s.shunterStops core n d
        else if s.fixed d then s
        else s.catchAll.shunterCopied core n d
      else s
    | [], [] => s))

end Sys2Proof.Machine
end

