-- ==== Sys2Proof/Machine/VectorCommands.lean ====
section
/-! DEFINITION. The commands of the vector units and the top-k units (05, 08). -/
namespace Sys2Proof.Machine

/-- COPY (Table 5-5). -/
def execCopy (dt : Nat) (core slot : Nat) (s : State) : Out State :=
  .next (s.during dt (fun s => s.vectorIssue core slot 0x00))

/-- ADD (Table 5-5). -/
def execAdd (dt : Nat) (core slot : Nat) (s : State) : Out State :=
  .next (s.during dt (fun s => s.vectorIssue core slot 0x01))

/-- SUB (Table 5-5). -/
def execSub (dt : Nat) (core slot : Nat) (s : State) : Out State :=
  .next (s.during dt (fun s => s.vectorIssue core slot 0x02))

/-- MUL (Table 5-5). -/
def execMul (dt : Nat) (core slot : Nat) (s : State) : Out State :=
  .next (s.during dt (fun s => s.vectorIssue core slot 0x03))

/-- FMA (Table 5-5). -/
def execFma (dt : Nat) (core slot : Nat) (s : State) : Out State :=
  .next (s.during dt (fun s => s.vectorIssue core slot 0x04))

/-- MAX (Table 5-5). -/
def execMax (dt : Nat) (core slot : Nat) (s : State) : Out State :=
  .next (s.during dt (fun s => s.vectorIssue core slot 0x05))

/-- MIN (Table 5-5). -/
def execMin (dt : Nat) (core slot : Nat) (s : State) : Out State :=
  .next (s.during dt (fun s => s.vectorIssue core slot 0x06))

/-- ABS (Table 5-5). -/
def execAbs (dt : Nat) (core slot : Nat) (s : State) : Out State :=
  .next (s.during dt (fun s => s.vectorIssue core slot 0x07))

/-- NEG (Table 5-5). -/
def execNeg (dt : Nat) (core slot : Nat) (s : State) : Out State :=
  .next (s.during dt (fun s => s.vectorIssue core slot 0x08))

/-- SEL (Table 5-5). -/
def execSel (dt : Nat) (core slot : Nat) (s : State) : Out State :=
  .next (s.during dt (fun s => s.vectorIssue core slot 0x09))

/-- CLAMP (Table 5-5). -/
def execClamp (dt : Nat) (core slot : Nat) (s : State) : Out State :=
  .next (s.during dt (fun s => s.vectorIssue core slot 0x0A))

/-- LUT (Table 5-5). -/
def execLut (dt : Nat) (core slot : Nat) (s : State) : Out State :=
  .next (s.during dt (fun s => s.vectorIssue core slot 0x0B))

/-- RECIP (Table 5-5). -/
def execRecip (dt : Nat) (core slot : Nat) (s : State) : Out State :=
  .next (s.during dt (fun s => s.vectorIssue core slot 0x0C))

/-- RSQRT (Table 5-5). -/
def execRsqrt (dt : Nat) (core slot : Nat) (s : State) : Out State :=
  .next (s.during dt (fun s => s.vectorIssue core slot 0x0D))

/-- SSUM (Table 5-5). -/
def execSsum (dt : Nat) (core slot : Nat) (s : State) : Out State :=
  .next (s.during dt (fun s => s.vectorIssue core slot 0x10))

/-- SMAX (Table 5-5). -/
def execSmax (dt : Nat) (core slot : Nat) (s : State) : Out State :=
  .next (s.during dt (fun s => s.vectorIssue core slot 0x11))

/-- SMIN (Table 5-5). -/
def execSmin (dt : Nat) (core slot : Nat) (s : State) : Out State :=
  .next (s.during dt (fun s => s.vectorIssue core slot 0x12))

/-- LSUM (Table 5-5). -/
def execLsum (dt : Nat) (core slot : Nat) (s : State) : Out State :=
  .next (s.during dt (fun s => s.vectorIssue core slot 0x13))

/-- LMAX (Table 5-5). -/
def execLmax (dt : Nat) (core slot : Nat) (s : State) : Out State :=
  .next (s.during dt (fun s => s.vectorIssue core slot 0x14))

/-- LMIN (Table 5-5). -/
def execLmin (dt : Nat) (core slot : Nat) (s : State) : Out State :=
  .next (s.during dt (fun s => s.vectorIssue core slot 0x15))

/-- VECTOR_COMPLETE: a descriptor has made its last write; it is signalled in the cycle after it, and there its context
faults if it read poison (R138). -/
def execVectorComplete (dt : Nat) (core : Nat) (s : State) : Out State :=
  .next (s.during dt (fun s =>
    let s := s.catchUp
    let u := s.vec core
    match u.finish with
    | [] => s
    | f :: fs =>
      if f.at_ ≤ s.cclk then
        let d := f.desc
        let s := s.setVec core { u with finish := fs }
        let s := if f.specials then s.count 0x2901 9 else s
        let s := if f.clipped then s.count 0x2901 8 else s
        let s := if bit (d.w 0) 20 then s.signalOwn d.ctx d.inc (bits (d.w 0) 26 21) f.at_ else s
        if f.bad ∧ s.isCtx d.ctx d.inc then s.coreFaultAt d.ctx 3 d.vtag d.entry
        else s.endWork d.ctx d.inc f.at_
      else s))

end Sys2Proof.Machine
end

