-- ==== Sys2Proof/Machine/WriteCommands.lean ====
section
/-! DEFINITION. The commands that are writes of one dictionary entry through a route (16 R407): each writes its entry, under
the checks and with the effect of Dictionary. -/
namespace Sys2Proof.Machine

/-- A command that writes `data` to one entry through route `r`. -/
def State.put (s : State) (r : Route) (dt ix sub : Nat) (data : Bytes) : Out State :=
  .next (s.via r dt (fun s => s.through r ix sub data))

/-- DICTIONARY_WRITE (R408): one entry, or an object by complete access. -/
def execDictionaryWrite (dt : Nat) (r : Route) (index : BitVec 16) (sub : BitVec 8) (complete : Bool) (data : Bytes) (s : State) :
    Out State :=
  .next (s.via r dt (fun s =>
    if s.mute r then s else (s.writeAny r index.toNat sub.toNat complete data).sentOver r))

/-- ENCODER_CONFIG_WRITE (R38). -/
def execEncoderConfigWrite (dt : Nat) (r : Route) (e : Fin 4) (sub : Nat) (data : Bytes) (s : State) : Out State :=
  s.put r dt (0x2100 + e) sub data

/-- COMPARE_ARM (R56). -/
def execCompareArm (dt : Nat) (r : Route) (n : Fin 32) (s : State) : Out State := s.put r dt (0x2120 + n) 4 (leBytes 1 1)

/-- COMPARE_DISARM (R56). -/
def execCompareDisarm (dt : Nat) (r : Route) (n : Fin 32) (s : State) : Out State := s.put r dt (0x2120 + n) 4 (leBytes 1 2)

/-- COMPARE_VALUE_WRITE (R56). -/
def execCompareValueWrite (dt : Nat) (r : Route) (n : Fin 32) (value : BitVec 48) (s : State) : Out State :=
  s.put r dt (0x2120 + n) 2 (leBytes 6 value.toNat)

/-- WINDOW_ARM (R58). -/
def execWindowArm (dt : Nat) (r : Route) (w : Fin 64) (s : State) : Out State := s.put r dt (0x2140 + w) 5 (leBytes 1 1)

/-- WINDOW_DISARM (R58). -/
def execWindowDisarm (dt : Nat) (r : Route) (w : Fin 64) (s : State) : Out State := s.put r dt (0x2140 + w) 5 (leBytes 1 2)

/-- TIMER_LOAD_WRITE (R65). -/
def execTimerLoadWrite (dt : Nat) (r : Route) (t : Fin 16) (value : BitVec 32) (s : State) : Out State :=
  s.put r dt 0x2180 (0x11 + t) (leBytes 4 value.toNat)

/-- POOL_SIZE_WRITE (R211). -/
def execPoolSizeWrite (dt : Nat) (r : Route) (sub : Nat) (value : BitVec 16) (s : State) : Out State :=
  s.put r dt 0x2500 sub (leBytes 2 value.toNat)

/-- WIDE_MODE_ENTER (R213). -/
def execWideModeEnter (dt : Nat) (r : Route) (s : State) : Out State := s.put r dt 0x2500 0x27 (leBytes 1 1)

/-- WIDE_MODE_EXIT (R213). -/
def execWideModeExit (dt : Nat) (r : Route) (s : State) : Out State := s.put r dt 0x2500 0x27 (leBytes 1 0)

/-- DETERMINISM_WRITE (R288). -/
def execDeterminismWrite (dt : Nat) (r : Route) (value : BitVec 8) (s : State) : Out State :=
  s.put r dt 0x2010 1 (leBytes 1 value.toNat)

/-- CREATE (R228). -/
def execCreate (dt : Nat) (r : Route) (b : Fin 16) (s : State) : Out State := s.put r dt (0x2B00 + b) 4 (leBytes 1 1)

/-- DELETE (R228). -/
def execDelete (dt : Nat) (r : Route) (b : Fin 16) (s : State) : Out State := s.put r dt (0x2B00 + b) 4 (leBytes 1 2)

/-- PIN (R276), with the model ID of 2560h.05h. -/
def execPin (dt : Nat) (r : Route) (s : State) : Out State := s.put r dt 0x2560 4 (leBytes 1 1)

/-- UNPIN (R276), with the model ID of 2560h.05h. -/
def execUnpin (dt : Nat) (r : Route) (s : State) : Out State := s.put r dt 0x2560 4 (leBytes 1 2)

/-- PRELOAD (R276), with the model ID of 2560h.05h. -/
def execPreload (dt : Nat) (r : Route) (s : State) : Out State := s.put r dt 0x2560 4 (leBytes 1 3)

/-- REMOVE (R276), with the model ID of 2560h.05h. -/
def execRemove (dt : Nat) (r : Route) (s : State) : Out State := s.put r dt 0x2560 4 (leBytes 1 4)

/-- FLUSH (R276). -/
def execFlush (dt : Nat) (r : Route) (s : State) : Out State := s.put r dt 0x2560 4 (leBytes 1 5)

/-- BARRIER_ARM (R300). -/
def execBarrierArm (dt : Nat) (r : Route) (s : State) : Out State := s.put r dt 0x2730 0x11 (leBytes 1 1)

/-- BARRIER_DISARM (R298). -/
def execBarrierDisarm (dt : Nat) (r : Route) (s : State) : Out State := s.put r dt 0x2730 0x11 (leBytes 1 2)

/-- DESKEW (R310). -/
def execDeskew (dt : Nat) (r : Route) (p : Fin 36) (s : State) : Out State := s.put r dt (0x2200 + p) 0x0B (leBytes 1 1)

/-- I2C_WRITE (R326, R327): a record of the dictionary, or of the context in a slot through its port. -/
def execI2cWrite (dt : Nat) (r : Option Route) (k : Fin 12) (core : Fin 6) (slot : Fin 4) (record : Bytes) (s : State) :
    Out State :=
  match r with
  | some r => s.put r dt (0x2230 + k) 4 record
  | none => .next (s.during dt (fun s => s.sccFromSlot k core slot record))

/-- I2C_WRITE_READ (R326, R327): a record of the dictionary, or of the context in a slot through its port. -/
def execI2cWriteRead (dt : Nat) (r : Option Route) (k : Fin 12) (core : Fin 6) (slot : Fin 4) (record : Bytes) (s : State) :
    Out State :=
  match r with
  | some r => s.put r dt (0x2230 + k) 4 record
  | none => .next (s.during dt (fun s => s.sccFromSlot k core slot record))

/-- SPI_TRANSFER (R326, R327): a record of the dictionary, or of the context in a slot through its port. -/
def execSpiTransfer (dt : Nat) (r : Option Route) (k : Fin 12) (core : Fin 6) (slot : Fin 4) (record : Bytes) (s : State) :
    Out State :=
  match r with
  | some r => s.put r dt (0x2230 + k) 4 record
  | none => .next (s.during dt (fun s => s.sccFromSlot k core slot record))

/-- MANUAL_OUTPUT_WRITE (R386). -/
def execManualOutputWrite (dt : Nat) (r : Route) (value : BitVec 16) (s : State) : Out State :=
  s.put r dt 0x2630 2 (leBytes 2 value.toNat)

/-- DEBOUNCE_WRITE (R393). -/
def execDebounceWrite (dt : Nat) (r : Route) (sub : Nat) (value : BitVec 32) (s : State) : Out State :=
  s.put r dt 0x2640 sub (leBytes 4 value.toNat)

/-- ENABLE. -/
def execEnable (dt : Nat) (r : Route) (f : Nat) (s : State) : Out State := s.put r dt 0x2020 f (leBytes 4 0x100)

/-- DISABLE. -/
def execDisable (dt : Nat) (r : Route) (f : Nat) (s : State) : Out State := s.put r dt 0x2020 f (leBytes 4 0x200)

/-- START. -/
def execStart (dt : Nat) (r : Route) (f : Nat) (s : State) : Out State := s.put r dt 0x2020 f (leBytes 4 0x300)

/-- STOP. -/
def execStop (dt : Nat) (r : Route) (f : Nat) (s : State) : Out State := s.put r dt 0x2020 f (leBytes 4 0x400)

/-- CLEAR. -/
def execClear (dt : Nat) (r : Route) (f : Nat) (s : State) : Out State := s.put r dt 0x2020 f (leBytes 4 0x500)

/-- CLAIM. -/
def execClaim (dt : Nat) (r : Route) (f : Nat) (s : State) : Out State := s.put r dt 0x2020 f (leBytes 4 0x600)

/-- RELEASE. -/
def execRelease (dt : Nat) (r : Route) (f : Nat) (s : State) : Out State := s.put r dt 0x2020 f (leBytes 4 0x700)

/-- Bytes of a set command. -/
def setBytes (code : Nat) (fs : List Nat) : Bytes := leBytes 1 code ++ fs.flatMap (leBytes 1)

/-- SET_START (R417). -/
def execSetStart (dt : Nat) (r : Route) (fs : List Nat) (s : State) : Out State := s.put r dt 0x2020 0xF2 (setBytes 3 fs)

/-- SET_STOP (R417). -/
def execSetStop (dt : Nat) (r : Route) (fs : List Nat) (s : State) : Out State := s.put r dt 0x2020 0xF2 (setBytes 4 fs)

/-- EXTERNAL_OFFSET (R462). -/
def execExternalOffset (dt : Nat) (r : Route) (offset : BitVec 64) (s : State) : Out State :=
  s.put r dt 0x2710 0x27 (leBytes 8 offset.toNat)

/-- POWER_REQUEST (R466). -/
def execPowerRequest (dt : Nat) (r : Route) (value : BitVec 8) (s : State) : Out State :=
  s.put r dt 0x2800 1 (leBytes 1 value.toNat)

/-- INSTALL_OWNER_KEY (R473), with the record of 2810h.03h. -/
def execInstallOwnerKey (dt : Nat) (r : Route) (s : State) : Out State := s.put r dt 0x2810 2 (leBytes 1 1)

/-- REVOKE_OWNER_KEY (R473), with the record of 2810h.03h. -/
def execRevokeOwnerKey (dt : Nat) (r : Route) (s : State) : Out State := s.put r dt 0x2810 2 (leBytes 1 2)

/-- INSTALL_CONTENT_KEY (R473), with the record of 2810h.03h. -/
def execInstallContentKey (dt : Nat) (r : Route) (s : State) : Out State := s.put r dt 0x2810 2 (leBytes 1 3)

/-- ERASE_CONTENT_KEY (R473), with the record of 2810h.03h. -/
def execEraseContentKey (dt : Nat) (r : Route) (s : State) : Out State := s.put r dt 0x2810 2 (leBytes 1 4)

/-- LOCK (R473), with the record of 2810h.03h. -/
def execLock (dt : Nat) (r : Route) (s : State) : Out State := s.put r dt 0x2810 2 (leBytes 1 5)

/-- RETIRE (R473), with the record of 2810h.03h. -/
def execRetire (dt : Nat) (r : Route) (s : State) : Out State := s.put r dt 0x2810 2 (leBytes 1 6)

/-- RAISE_VERSION (R473), with the record of 2810h.03h. -/
def execRaiseVersion (dt : Nat) (r : Route) (s : State) : Out State := s.put r dt 0x2810 2 (leBytes 1 7)

/-- JOB_IMAGE_WRITE (R477). -/
def execJobImageWrite (dt : Nat) (r : Route) (job : Fin 64) (container : Bytes) (s : State) : Out State :=
  s.put r dt (0x2510 + job) 2 container

/-- FIRMWARE_CONTAINER_WRITE (R477). -/
def execFirmwareContainerWrite (dt : Nat) (r : Route) (container : Bytes) (s : State) : Out State :=
  s.put r dt 0x2810 0x0B container

/-- DEBUG_LEVEL_REQUEST (R481). -/
def execDebugLevelRequest (dt : Nat) (r : Route) (value : BitVec 8) (s : State) : Out State :=
  s.put r dt 0x2820 1 (leBytes 1 value.toNat)

/-- DEBUG_TOKEN (R481). -/
def execDebugToken (dt : Nat) (r : Route) (token : Bytes) (s : State) : Out State := s.put r dt 0x2820 4 token

end Sys2Proof.Machine
end

