-- ==== Sys2Proof/Machine/Dispatch.lean ====
section
/-! DEFINITION. The dispatch: one arm per command, one direct call each. -/
namespace Sys2Proof.Machine

/-- The effect of a command on everything but the queue. -/
def exec (i : Instr) (s : State) : Host.Outcome State Fault Refusal :=
  match i with
  | .powerOn dt mainPresent banks => Sys2Proof.Machine.execPowerOn dt mainPresent banks s
  | .bringUpFailure dt stage => Sys2Proof.Machine.execBringUpFailure dt stage s
  | .resetN dt => Sys2Proof.Machine.execResetN dt s
  | .moduleReset dt => Sys2Proof.Machine.execModuleReset dt s
  | .moduleResetReboot dt banks => Sys2Proof.Machine.execModuleResetReboot dt banks s
  | .ioDieWatchdog dt banks => Sys2Proof.Machine.execIoDieWatchdog dt banks s
  | .mainSupplyLoss dt level => Sys2Proof.Machine.execMainSupplyLoss dt level s
  | .thermalTrip dt => Sys2Proof.Machine.execThermalTrip dt s
  | .clockFailure dt => Sys2Proof.Machine.execClockFailure dt s
  | .limitUpdate dt r => Sys2Proof.Machine.execLimitUpdate dt r s
  | .encoderCount dt e levelA levelB => Sys2Proof.Machine.execEncoderCount dt e levelA levelB s
  | .illegalTransition dt e levelA levelB => Sys2Proof.Machine.execIllegalTransition dt e levelA levelB s
  | .zEdge dt e rising => Sys2Proof.Machine.execZEdge dt e rising s
  | .encoderInputFault dt e => Sys2Proof.Machine.execEncoderInputFault dt e s
  | .encoderConfigWrite dt r e sub data => Sys2Proof.Machine.execEncoderConfigWrite dt r e sub data s
  | .generatorCount dt d => Sys2Proof.Machine.execGeneratorCount dt d s
  | .stall dt d => Sys2Proof.Machine.execStall dt d s
  | .triggerIssued dt p => Sys2Proof.Machine.execTriggerIssued dt p s
  | .triggerPulseEnd dt p => Sys2Proof.Machine.execTriggerPulseEnd dt p s
  | .missedTrigger dt p => Sys2Proof.Machine.execMissedTrigger dt p s
  | .compareArm dt r n => Sys2Proof.Machine.execCompareArm dt r n s
  | .compareDisarm dt r n => Sys2Proof.Machine.execCompareDisarm dt r n s
  | .compareValueWrite dt r n value => Sys2Proof.Machine.execCompareValueWrite dt r n value s
  | .windowArm dt r w => Sys2Proof.Machine.execWindowArm dt r w s
  | .windowDisarm dt r w => Sys2Proof.Machine.execWindowDisarm dt r w s
  | .timerLoadWrite dt r t value => Sys2Proof.Machine.execTimerLoadWrite dt r t value s
  | .timerExpiry dt t => Sys2Proof.Machine.execTimerExpiry dt t s
  | .commitDeadline dt g f => Sys2Proof.Machine.execCommitDeadline dt g f s
  | .slackRefresh dt => Sys2Proof.Machine.execSlackRefresh dt s
  | .loop dt core slot => Sys2Proof.Machine.execLoop dt core slot s
  | .endEntry dt core slot => Sys2Proof.Machine.execEndEntry dt core slot s
  | .passIssue dt core slot => Sys2Proof.Machine.execPassIssue dt core slot s
  | .weightLoadStart dt core array half => Sys2Proof.Machine.execWeightLoadStart dt core array half s
  | .weightLoadComplete dt core array half => Sys2Proof.Machine.execWeightLoadComplete dt core array half s
  | .passStart dt core array half => Sys2Proof.Machine.execPassStart dt core array half s
  | .passComplete dt core array half => Sys2Proof.Machine.execPassComplete dt core array half s
  | .modeChange dt core array => Sys2Proof.Machine.execModeChange dt core array s
  | .arrayFault dt core array half cause => Sys2Proof.Machine.execArrayFault dt core array half cause s
  | .copy dt core slot => Sys2Proof.Machine.execCopy dt core slot s
  | .add dt core slot => Sys2Proof.Machine.execAdd dt core slot s
  | .sub dt core slot => Sys2Proof.Machine.execSub dt core slot s
  | .mul dt core slot => Sys2Proof.Machine.execMul dt core slot s
  | .fma dt core slot => Sys2Proof.Machine.execFma dt core slot s
  | .max dt core slot => Sys2Proof.Machine.execMax dt core slot s
  | .min dt core slot => Sys2Proof.Machine.execMin dt core slot s
  | .abs dt core slot => Sys2Proof.Machine.execAbs dt core slot s
  | .neg dt core slot => Sys2Proof.Machine.execNeg dt core slot s
  | .sel dt core slot => Sys2Proof.Machine.execSel dt core slot s
  | .clamp dt core slot => Sys2Proof.Machine.execClamp dt core slot s
  | .lut dt core slot => Sys2Proof.Machine.execLut dt core slot s
  | .recip dt core slot => Sys2Proof.Machine.execRecip dt core slot s
  | .rsqrt dt core slot => Sys2Proof.Machine.execRsqrt dt core slot s
  | .ssum dt core slot => Sys2Proof.Machine.execSsum dt core slot s
  | .smax dt core slot => Sys2Proof.Machine.execSmax dt core slot s
  | .smin dt core slot => Sys2Proof.Machine.execSmin dt core slot s
  | .lsum dt core slot => Sys2Proof.Machine.execLsum dt core slot s
  | .lmax dt core slot => Sys2Proof.Machine.execLmax dt core slot s
  | .lmin dt core slot => Sys2Proof.Machine.execLmin dt core slot s
  | .vectorComplete dt core => Sys2Proof.Machine.execVectorComplete dt core s
  | .shunterCopy dt core slot => Sys2Proof.Machine.execShunterCopy dt core slot s
  | .shunterGather dt core slot => Sys2Proof.Machine.execShunterGather dt core slot s
  | .shunterScatter dt core slot => Sys2Proof.Machine.execShunterScatter dt core slot s
  | .shunterStart dt core n => Sys2Proof.Machine.execShunterStart dt core n s
  | .shunterComplete dt core n => Sys2Proof.Machine.execShunterComplete dt core n s
  | .semaphoreAdd dt core slot => Sys2Proof.Machine.execSemaphoreAdd dt core slot s
  | .semaphoreSet dt core slot => Sys2Proof.Machine.execSemaphoreSet dt core slot s
  | .semaphoreLaneAdd dt core slot => Sys2Proof.Machine.execSemaphoreLaneAdd dt core slot s
  | .laneSignalArrival dt => Sys2Proof.Machine.execLaneSignalArrival dt s
  | .hubOperation dt => Sys2Proof.Machine.execHubOperation dt s
  | .wait dt core slot => Sys2Proof.Machine.execWait dt core slot s
  | .waitTimeout dt core slot => Sys2Proof.Machine.execWaitTimeout dt core slot s
  | .creditAcquire dt core slot => Sys2Proof.Machine.execCreditAcquire dt core slot s
  | .creditRelease dt core slot => Sys2Proof.Machine.execCreditRelease dt core slot s
  | .creditTimeout dt core slot => Sys2Proof.Machine.execCreditTimeout dt core slot s
  | .yield dt core slot => Sys2Proof.Machine.execYield dt core slot s
  | .yieldSurrender dt core slot => Sys2Proof.Machine.execYieldSurrender dt core slot s
  | .deadlinePublish dt core slot => Sys2Proof.Machine.execDeadlinePublish dt core slot s
  | .deadlineClear dt core slot => Sys2Proof.Machine.execDeadlineClear dt core slot s
  | .droneRead dt level agent word finding => Sys2Proof.Machine.execDroneRead dt level agent word finding s
  | .droneWriteback dt level agent passed => Sys2Proof.Machine.execDroneWriteback dt level agent passed s
  | .patrolRead dt controller finding => Sys2Proof.Machine.execPatrolRead dt controller finding s
  | .poolSizeWrite dt r sub value => Sys2Proof.Machine.execPoolSizeWrite dt r sub value s
  | .wideModeEnter dt r => Sys2Proof.Machine.execWideModeEnter dt r s
  | .wideModeExit dt r => Sys2Proof.Machine.execWideModeExit dt r s
  | .determinismWrite dt r value => Sys2Proof.Machine.execDeterminismWrite dt r value s
  | .create dt r b => Sys2Proof.Machine.execCreate dt r b s
  | .createComplete dt b => Sys2Proof.Machine.execCreateComplete dt b s
  | .delete dt r b => Sys2Proof.Machine.execDelete dt r b s
  | .topkCommand dt core slot record => Sys2Proof.Machine.execTopkCommand dt core slot record s
  | .topkStart dt core => Sys2Proof.Machine.execTopkStart dt core s
  | .topkComplete dt core => Sys2Proof.Machine.execTopkComplete dt core s
  | .enrol dt src record => Sys2Proof.Machine.execEnrol dt src record s
  | .void dt src record => Sys2Proof.Machine.execVoid dt src record s
  | .loadRecord dt record => Sys2Proof.Machine.execLoadRecord dt record s
  | .sliceBoundary dt p => Sys2Proof.Machine.execSliceBoundary dt p s
  | .forcedPreemption dt core slot => Sys2Proof.Machine.execForcedPreemption dt core slot s
  | .holdTimeout dt job lane => Sys2Proof.Machine.execHoldTimeout dt job lane s
  | .contextUnloadComplete dt job lane => Sys2Proof.Machine.execContextUnloadComplete dt job lane s
  | .contextLoadComplete dt job lane => Sys2Proof.Machine.execContextLoadComplete dt job lane s
  | .contextSaveComplete dt job lane => Sys2Proof.Machine.execContextSaveComplete dt job lane s
  | .contextRestoreComplete dt job lane => Sys2Proof.Machine.execContextRestoreComplete dt job lane s
  | .teardown dt job lane => Sys2Proof.Machine.execTeardown dt job lane s
  | .modelContainer dt source container => Sys2Proof.Machine.execModelContainer dt source container s
  | .modelEntryLoaded dt job => Sys2Proof.Machine.execModelEntryLoaded dt job s
  | .pin dt r => Sys2Proof.Machine.execPin dt r s
  | .unpin dt r => Sys2Proof.Machine.execUnpin dt r s
  | .preload dt r => Sys2Proof.Machine.execPreload dt r s
  | .remove dt r => Sys2Proof.Machine.execRemove dt r s
  | .flush dt r => Sys2Proof.Machine.execFlush dt r s
  | .step dt core slot record => Sys2Proof.Machine.execStep dt core slot record s
  | .join dt core slot record => Sys2Proof.Machine.execJoin dt core slot record s
  | .leave dt core slot record => Sys2Proof.Machine.execLeave dt core slot record s
  | .barrierArm dt r => Sys2Proof.Machine.execBarrierArm dt r s
  | .barrierDisarm dt r => Sys2Proof.Machine.execBarrierDisarm dt r s
  | .leaderDrive dt => Sys2Proof.Machine.execLeaderDrive dt s
  | .barrierRegistered dt => Sys2Proof.Machine.execBarrierRegistered dt s
  | .barrierAction dt => Sys2Proof.Machine.execBarrierAction dt s
  | .barrierTimeout dt => Sys2Proof.Machine.execBarrierTimeout dt s
  | .lineStart dt p fval => Sys2Proof.Machine.execLineStart dt p fval s
  | .lineEnd dt p edges overflowAt => Sys2Proof.Machine.execLineEnd dt p edges overflowAt s
  | .frameStart dt p => Sys2Proof.Machine.execFrameStart dt p s
  | .frameEnd dt p => Sys2Proof.Machine.execFrameEnd dt p s
  | .pairingExpiry dt p => Sys2Proof.Machine.execPairingExpiry dt p s
  | .portClockLoss dt p => Sys2Proof.Machine.execPortClockLoss dt p s
  | .deskew dt r p => Sys2Proof.Machine.execDeskew dt r p s
  | .deskewComplete dt p passing => Sys2Proof.Machine.execDeskewComplete dt p passing s
  | .i2cWrite dt r k core slot record => Sys2Proof.Machine.execI2cWrite dt r k core slot record s
  | .i2cWriteRead dt r k core slot record => Sys2Proof.Machine.execI2cWriteRead dt r k core slot record s
  | .spiTransfer dt r k core slot record => Sys2Proof.Machine.execSpiTransfer dt r k core slot record s
  | .sccRecordStart dt k inBlanking => Sys2Proof.Machine.execSccRecordStart dt k inBlanking s
  | .alignTimeout dt k => Sys2Proof.Machine.execAlignTimeout dt k s
  | .clockStretchTimeout dt k held => Sys2Proof.Machine.execClockStretchTimeout dt k held s
  | .sccRecordComplete dt k outcome read => Sys2Proof.Machine.execSccRecordComplete dt k outcome read s
  | .flatFieldCopyComplete dt p => Sys2Proof.Machine.execFlatFieldCopyComplete dt p s
  | .lineWriteComplete dt p => Sys2Proof.Machine.execLineWriteComplete dt p s
  | .submissionTaken dt n => Sys2Proof.Machine.execSubmissionTaken dt n s
  | .decodeDispatch dt engine => Sys2Proof.Machine.execDecodeDispatch dt engine s
  | .decodeComplete dt engine => Sys2Proof.Machine.execDecodeComplete dt engine s
  | .budgetExpiry dt engine => Sys2Proof.Machine.execBudgetExpiry dt engine s
  | .recordCommit dt n => Sys2Proof.Machine.execRecordCommit dt n s
  | .intakeRelease dt core slot record => Sys2Proof.Machine.execIntakeRelease dt core slot record s
  | .roi dt core slot record => Sys2Proof.Machine.execRoi dt core slot record s
  | .roiTimeout dt n => Sys2Proof.Machine.execRoiTimeout dt n s
  | .orderDecided dt core job record => Sys2Proof.Machine.execOrderDecided dt core job record s
  | .orderUndecided dt core job record => Sys2Proof.Machine.execOrderUndecided dt core job record s
  | .decide dt core job record => Sys2Proof.Machine.execDecide dt core job record s
  | .vetoChange dt active => Sys2Proof.Machine.execVetoChange dt active s
  | .nextChangeFrameStart dt c => Sys2Proof.Machine.execNextChangeFrameStart dt c s
  | .valveFrameComplete dt c => Sys2Proof.Machine.execValveFrameComplete dt c s
  | .latchPulseEnd dt c => Sys2Proof.Machine.execLatchPulseEnd dt c s
  | .manualOutputWrite dt r value => Sys2Proof.Machine.execManualOutputWrite dt r value s
  | .stopTimeout dt g => Sys2Proof.Machine.execStopTimeout dt g s
  | .fieldLinkLoss dt => Sys2Proof.Machine.execFieldLinkLoss dt s
  | .fieldLinkRestored dt levels veto outEnHigh => Sys2Proof.Machine.execFieldLinkRestored dt levels veto outEnHigh s
  | .diEdge dt d on => Sys2Proof.Machine.execDiEdge dt d on s
  | .pulsedSample dt levels => Sys2Proof.Machine.execPulsedSample dt levels s
  | .debounceWrite dt r sub value => Sys2Proof.Machine.execDebounceWrite dt r sub value s
  | .outEnNChange dt high => Sys2Proof.Machine.execOutEnNChange dt high s
  | .outputOverload dt d thermal => Sys2Proof.Machine.execOutputOverload dt d thermal s
  | .overloadRestart dt d => Sys2Proof.Machine.execOverloadRestart dt d s
  | .openLoad dt d => Sys2Proof.Machine.execOpenLoad dt d s
  | .fieldUndervoltage dt level => Sys2Proof.Machine.execFieldUndervoltage dt level s
  | .fieldSupplyRecovery dt level => Sys2Proof.Machine.execFieldSupplyRecovery dt level s
  | .fieldSectionReset dt => Sys2Proof.Machine.execFieldSectionReset dt s
  | .dictionaryWrite dt r index sub complete data => Sys2Proof.Machine.execDictionaryWrite dt r index sub complete data s
  | .rcRead dt r index sub => Sys2Proof.Machine.execRcRead dt r index sub s
  | .enable dt r f => Sys2Proof.Machine.execEnable dt r f s
  | .enableComplete dt f => Sys2Proof.Machine.execEnableComplete dt f s
  | .disable dt r f => Sys2Proof.Machine.execDisable dt r f s
  | .start dt r f => Sys2Proof.Machine.execStart dt r f s
  | .stop dt r f => Sys2Proof.Machine.execStop dt r f s
  | .functionStopped dt f => Sys2Proof.Machine.execFunctionStopped dt f s
  | .clear dt r f => Sys2Proof.Machine.execClear dt r f s
  | .claim dt r f => Sys2Proof.Machine.execClaim dt r f s
  | .release dt r f => Sys2Proof.Machine.execRelease dt r f s
  | .setStart dt r fs => Sys2Proof.Machine.execSetStart dt r fs s
  | .setStop dt r fs => Sys2Proof.Machine.execSetStop dt r fs s
  | .sdoSegmentTimeout dt => Sys2Proof.Machine.execSdoSegmentTimeout dt s
  | .alStateRequest dt target sm2 sm3 mailboxOk sync0Cycle => Sys2Proof.Machine.execAlStateRequest dt target sm2 sm3 mailboxOk sync0Cycle s
  | .sm2Watchdog dt => Sys2Proof.Machine.execSm2Watchdog dt s
  | .snapshot dt => Sys2Proof.Machine.execSnapshot dt s
  | .sm3Read dt => Sys2Proof.Machine.execSm3Read dt s
  | .sm2OutputsTaken dt image => Sys2Proof.Machine.execSm2OutputsTaken dt image s
  | .sync0 dt => Sys2Proof.Machine.execSync0 dt s
  | .emergencySend dt => Sys2Proof.Machine.execEmergencySend dt s
  | .upload dt frame => Sys2Proof.Machine.execUpload dt frame s
  | .download dt frame => Sys2Proof.Machine.execDownload dt frame s
  | .downloadSegment dt frame => Sys2Proof.Machine.execDownloadSegment dt frame s
  | .uploadSegment dt frame => Sys2Proof.Machine.execUploadSegment dt frame s
  | .abortTransfer dt frame => Sys2Proof.Machine.execAbortTransfer dt frame s
  | .responseReady dt => Sys2Proof.Machine.execResponseReady dt s
  | .read dt => Sys2Proof.Machine.execRead dt s
  | .status dt => Sys2Proof.Machine.execStatus dt s
  | .event dt clockedOut => Sys2Proof.Machine.execEvent dt clockedOut s
  | .resetTransaction dt second => Sys2Proof.Machine.execResetTransaction dt second s
  | .transactionTimeout dt => Sys2Proof.Machine.execTransactionTimeout dt s
  | .transferTimeout dt => Sys2Proof.Machine.execTransferTimeout dt s
  | .attentionPulse dt => Sys2Proof.Machine.execAttentionPulse dt s
  | .attentionPulseEnd dt => Sys2Proof.Machine.execAttentionPulseEnd dt s
  | .laneBringUp dt port trials markers => Sys2Proof.Machine.execLaneBringUp dt port trials markers s
  | .bringUpRetry dt port => Sys2Proof.Machine.execBringUpRetry dt port s
  | .linkLoss dt port => Sys2Proof.Machine.execLinkLoss dt port s
  | .pllLockFailure dt port => Sys2Proof.Machine.execPllLockFailure dt port s
  | .frameReceived dt n kind => Sys2Proof.Machine.execFrameReceived dt n kind s
  | .segmentReceived dt port address udpPort payload => Sys2Proof.Machine.execSegmentReceived dt port address udpPort payload s
  | .reassemblyTimeout dt port address udpPort cls stream => Sys2Proof.Machine.execReassemblyTimeout dt port address udpPort cls stream s
  | .messageHandedOn dt port => Sys2Proof.Machine.execMessageHandedOn dt port s
  | .segmentTransmitted dt port => Sys2Proof.Machine.execSegmentTransmitted dt port s
  | .inboxWrite dt => Sys2Proof.Machine.execInboxWrite dt s
  | .secondRoll dt => Sys2Proof.Machine.execSecondRoll dt s
  | .ptpMessage dt port m captured outgoing => Sys2Proof.Machine.execPtpMessage dt port m captured outgoing s
  | .servoOffset dt offset meanPathDelay => Sys2Proof.Machine.execServoOffset dt offset meanPathDelay s
  | .externalOffset dt r offset => Sys2Proof.Machine.execExternalOffset dt r offset s
  | .powerRequest dt r value => Sys2Proof.Machine.execPowerRequest dt r value s
  | .powerTransitionComplete dt => Sys2Proof.Machine.execPowerTransitionComplete dt s
  | .wakeN dt => Sys2Proof.Machine.execWakeN dt s
  | .mainSupplyRise dt level => Sys2Proof.Machine.execMainSupplyRise dt level s
  | .installOwnerKey dt r => Sys2Proof.Machine.execInstallOwnerKey dt r s
  | .revokeOwnerKey dt r => Sys2Proof.Machine.execRevokeOwnerKey dt r s
  | .installContentKey dt r => Sys2Proof.Machine.execInstallContentKey dt r s
  | .eraseContentKey dt r => Sys2Proof.Machine.execEraseContentKey dt r s
  | .lock dt r => Sys2Proof.Machine.execLock dt r s
  | .retire dt r => Sys2Proof.Machine.execRetire dt r s
  | .raiseVersion dt r => Sys2Proof.Machine.execRaiseVersion dt r s
  | .jobImageWrite dt r job container => Sys2Proof.Machine.execJobImageWrite dt r job container s
  | .firmwareContainerWrite dt r container => Sys2Proof.Machine.execFirmwareContainerWrite dt r container s
  | .debugLevelRequest dt r value => Sys2Proof.Machine.execDebugLevelRequest dt r value s
  | .debugToken dt r token => Sys2Proof.Machine.execDebugToken dt r token s
  | .extest dt => Sys2Proof.Machine.execExtest dt s
  | .idcode dt => Sys2Proof.Machine.execIdcode dt s
  | .samplePreload dt => Sys2Proof.Machine.execSamplePreload dt s
  | .tapClamp dt => Sys2Proof.Machine.execTapClamp dt s
  | .highz dt => Sys2Proof.Machine.execHighz dt s
  | .bypass dt code => Sys2Proof.Machine.execBypass dt code s
  | .dbgaccRead dt space core address => Sys2Proof.Machine.execDbgaccRead dt space core address s
  | .dbgaccWrite dt space core address data => Sys2Proof.Machine.execDbgaccWrite dt space core address data s
  | .halt dt job lane => Sys2Proof.Machine.execHalt dt job lane s
  | .resume dt job lane => Sys2Proof.Machine.execResume dt job lane s
  | .dbgctrlStep dt job lane => Sys2Proof.Machine.execDbgctrlStep dt job lane s
  | .holdoffExpiry dt counter => Sys2Proof.Machine.execHoldoffExpiry dt counter s
  | .encoderFaultEnd dt e => Sys2Proof.Machine.execEncoderFaultEnd dt e s
  | .portClockPresent dt p kHz => Sys2Proof.Machine.execPortClockPresent dt p kHz s
  | .resetNRelease dt => Sys2Proof.Machine.execResetNRelease dt s
  | .refclkRestored dt => Sys2Proof.Machine.execRefclkRestored dt s
  | .tripTemperatureFall dt => Sys2Proof.Machine.execTripTemperatureFall dt s
  | .standbyRailLoss dt => Sys2Proof.Machine.execStandbyRailLoss dt s
  | .arpEntryExpiry dt n address => Sys2Proof.Machine.execArpEntryExpiry dt n address s
  | .pauseRepeat dt n => Sys2Proof.Machine.execPauseRepeat dt n s
  | .pauseExpiry dt n => Sys2Proof.Machine.execPauseExpiry dt n s
  | .sync0Missed dt => Sys2Proof.Machine.execSync0Missed dt s
  | .refreshRateChange dt multiplier hot => Sys2Proof.Machine.execRefreshRateChange dt multiplier hot s
  | .sdoDownloadInitiate dt index sub complete size => Sys2Proof.Machine.execSdoDownloadInitiate dt index sub complete size s
  | .sdoDownloadSegment dt toggle final data => Sys2Proof.Machine.execSdoDownloadSegment dt toggle final data s
  | .ptpTimerExpiry dt t => Sys2Proof.Machine.execPtpTimerExpiry dt t s

end Sys2Proof.Machine
end

