-- ==== Sys2Proof/Machine/Step.lean ====
section
/-! DEFINITION. One step: the command at the front of the queue is executed with the queue's rest; an empty queue lets
one SCLK cycle pass. -/
namespace Sys2Proof.Machine

/-- The block idles for one SCLK cycle of 12 ticks (00 R13). -/
def State.idleCycle (s : State) : State := s.wait 12

/-- One step. -/
def step (s : State) : Host.Outcome State Fault Refusal :=
  match s.pending with
  | [] => .next s.idleCycle
  | c :: cs => exec c { s with pending := cs }

/-- Put the command that a word spells at the front of the queue. -/
def State.withFetchWord (s : State) (nbits w : Nat) : State :=
  match decodeTableWord nbits w with
  | some c => { s with pending := c :: s.pending }
  | none => s

end Sys2Proof.Machine
end

