-- ==== Sys2Proof/WellFormed.lean ====
section
/-! DEFINITION. Well-formed commands: the lengths and ranges of operands that the types leave open. Every command has
its meaning whether or not it is well formed; these checks say which operands the hardware can meet. -/
namespace Sys2Proof

open Machine (within fnOf errTop)

/-- A function of 2020h (16 Table 16-2). -/
def isFunction (f : Nat) : Bool := (fnOf f).isSome

/-- A list of functions, each once. -/
def functionList (fs : List Nat) : Bool := fs.all isFunction && decide fs.Nodup

/-- An agent of the drone: one for each core, for its tile scratchpads and its accumulator stores, and one for each slice of
stack memory; external memory has the controllers' patrol (01 Table 1-1, 07 R220, R222). -/
def agentOk (l : Level) (n : Nat) : Bool :=
  match l with
  | .scratchpad => decide (n < 6)
  | .accumulator => decide (n < 6)
  | .stack => decide (n < 32)
  | .external => false

/-- A counter of 2900h to 2904h, by its key (20 Table 20-6). -/
def isCounter (k : Nat) : Bool := within (k / 256) 0x2900 0x2904 && within (k % 256) 1 (errTop (k / 256 - 0x2900))

/-- The operands of a command are such as the hardware can meet. -/
def Instr.wellFormed : Instr → Bool
  | .limitUpdate _ r => r.cores.length == 6
  | .encoderConfigWrite _ _ _ x data => (x == 1 || x == 7) && data.length == 4
  | .droneRead _ l n _ _ => agentOk l n
  | .droneWriteback _ l n _ => agentOk l n || (l == .external && within n 0 3)
  | .poolSizeWrite _ _ x _ => within x 0x20 0x23 || x == 0x25
  | .topkCommand _ _ _ r => r.length == 32
  | .enrol _ _ r => r.length == 288
  | .void _ _ r => r.length == 288
  | .modelContainer _ (.net _ a u _ n) _ => a / 2 ^ 32 == 0 && u / 2 ^ 16 == 0 && n / 2 ^ 32 == 0
  | .step _ _ _ r => r.length == 32
  | .join _ _ _ r => r.length == 32
  | .leave _ _ _ r => r.length == 32
  | .i2cWrite _ _ _ _ _ r => r.length == 32
  | .i2cWriteRead _ _ _ _ _ r => r.length == 32
  | .spiTransfer _ _ _ _ _ r => r.length == 32
  | .intakeRelease _ _ _ r => r.length == 64
  | .roi _ _ _ r => r.length == 64
  | .orderDecided _ _ _ r => r.length == 32
  | .orderUndecided _ _ _ r => r.length == 32
  | .decide _ _ _ r => r.length == 32
  | .debounceWrite _ _ x _ => within x 0x03 0x0A
  | .enable _ _ f => isFunction f
  | .enableComplete _ f => isFunction f
  | .disable _ _ f => isFunction f
  | .start _ _ f => isFunction f
  | .stop _ _ f => isFunction f
  | .functionStopped _ f => isFunction f
  | .clear _ _ f => isFunction f
  | .claim _ _ f => isFunction f
  | .release _ _ f => isFunction f
  | .setStart _ _ fs => functionList fs
  | .setStop _ _ fs => functionList fs
  | .holdoffExpiry _ k => isCounter k
  | _ => true

end Sys2Proof
end

