-- ==== Sys2Proof/Safety.lean ====
section
/-! DEFINITION. What a safe run is, and the terms in which claims are stated: what a command leads to, which registers and
which memory it leaves alone. -/
namespace Sys2Proof.Machine

/-- A step of the machine from `s` answers a next state. -/
def Safe (s : State) : Prop := ∃ t, step s = .next t

/-- The command, executed in `s`, answers a next state, and that state satisfies `p`. -/
def Leads (c : Instr) (s : State) (p : State → Prop) : Prop := ∃ t, exec c s = .next t ∧ p t

/-- Ranges of register keys, both ends included. -/
abbrev Spans := List (Nat × Nat)

/-- A key lies in one of the ranges. -/
def covers (rs : Spans) (k : Nat) : Bool := rs.any (fun r => decide (r.1 ≤ k) && decide (k ≤ r.2))

/-- The range of one register. -/
def at1 (k : Nat) : Nat × Nat := (k, k)

/-- The range of the subindices `a` to `b` of the objects `i` to `j`, whole objects between them. -/
def pages (i j : Nat) : Nat × Nat := (key i 0, key j 255)

/-- No register outside the ranges differs between the two states. -/
def OnlyRegs (rs : Spans) (s t : State) : Prop := ∀ k, covers rs k = false → t.reg k = s.reg k

/-- The two states agree in every byte, every poison mark and every valid flag of the memories (07). -/
def SameMem (s t : State) : Prop :=
  t.ts = s.ts ∧ t.acc = s.acc ∧ t.stack = s.stack ∧ t.ext = s.ext ∧ t.valid = s.valid

/-! The registers that a cause may reach through its consumers. -/

/-- The counters of 2900h to 2904h. -/
def counterSpan : Nat × Nat := pages 0x2900 0x2904

/-- What an event's consumers show: windows, capture channels (Table 2-8). -/
def eventSpans : Spans := [pages 0x2140 0x217F, pages 0x2710 0x2710]

/-- What the scheduler shows of the jobs. -/
def schedSpan : Nat × Nat := pages 0x2510 0x254F

/-- What a signal shows: running positions granted, saturated semaphores (05 R146). -/
def signalSpans : Spans := [schedSpan, counterSpan]

/-- What fire orders, groups and channels show (14). -/
def verdictSpans : Spans :=
  [pages 0x2600 0x2623, pages 0x2630 0x2630, pages 0x2700 0x2701, pages 0x6001 0x6001, counterSpan]

/-- What reaching a position shows in its cycle (Table 2-1). -/
def reachSpans : Spans := [pages 0x2120 0x217F, counterSpan, pages 0x2610 0x2623]

/-- What a count shows in the domains and their windows (R41, R59). -/
def countSpans : Spans := [pages 0x2108 0x210B, pages 0x2140 0x217F, counterSpan]

/-- What sensor ports show (11). -/
def portSpans : Spans := [pages 0x2200 0x22FF, counterSpan]

/-! Effects of later instants (log 119). -/

/-- `a` is to be carried out as SCLK cycle `c` opens. -/
def State.OpensWith (t : State) (c : Nat) (a : Effect) : Prop := { tick := 12 * c, close := false, rank := 0, act := a } ∈ t.later

/-- `a` is to be carried out as SCLK cycle `c` closes. -/
def State.ClosesWith (t : State) (c rank : Nat) (a : Effect) : Prop :=
  { tick := 12 * c + 11, close := true, rank := rank, act := a } ∈ t.later

/-- `a` is to be carried out as CCLK cycle `c` opens. -/
def State.OpensC (t : State) (c rank : Nat) (a : Effect) : Prop :=
  { tick := 5 * c, close := false, rank := rank, act := a } ∈ t.later

/-- `a` is to be carried out as CCLK cycle `c` closes. -/
def State.ClosesC (t : State) (c rank : Nat) (a : Effect) : Prop :=
  { tick := 5 * c + 4, close := true, rank := rank, act := a } ∈ t.later

/-- The event `src` is registered in SCLK cycle `c` (02 R53). -/
def State.Raised (t : State) (src c : Nat) (late : Bool := false) : Prop := t.ClosesWith c (16 + src) (.source src late)

/-- No effect of `s` is dropped. -/
def KeepsLater (s t : State) : Prop := ∀ l ∈ s.later, l ∈ t.later

/-- Comes before a command registered at tick `t`. -/
def Later.due (l : Later) (t : Nat) : Prop := 2 * l.tick + b2n l.close < 2 * t + 1

/-- No job is leaving, and no context is chosen to leave its slot. -/
def Calm (s : State) : Prop := (∀ j, (s.job j).leaving = false) ∧ ∀ k, (s.ctx k).evicted = none

/-- The context `x` with key `k` in a slot of a core issues its entry `e` now (05 R128): it may, no debug command halts it,
and nothing leaves. -/
structure Issues (s : State) (core slot k : Nat) (x : Ctx) (e : Fetched) : Prop where
  slot : s.slotCtx core slot = some (k, x)
  here : s.ctx? k = some x
  may : s.canIssue k x = true
  entry : (s.fetch k x).2 = e
  fresh : x.waiting = .none
  unhalted : x.halted = false
  calm : Calm s

/-- The context goes on to its next entry in cycle `c`, with `n` descriptors more under way. -/
def Advanced (t : State) (k : Nat) (x : Ctx) (c n : Nat) : Prop :=
  ∃ y, t.ctx? k = some y ∧ y.entry = x.entry + 1 ∧ y.ref = c ∧ y.dueAt = none ∧ y.work = x.work + n ∧ y.pos = true

/-- The counters of issued entries and of slip of a core, what the scheduler shows, and the errors that fetch finds (07 R207). -/
def issueSpans (core : Nat) : Spans :=
  [at1 (kCore core 6), at1 (kCore core 7), schedSpan, counterSpan, at1 (key 0x2500 0x36)]

/-- An entry of a core has been issued: its count of issued entries has risen, no register outside `sp` and those of issue
and scheduling differs, and memory is as before. -/
def Entered (s t : State) (core : Nat) (sp : Spans) : Prop :=
  t.reg (kCore core 6) = satAdd 32 (s.reg (kCore core 6)) 1 ∧ OnlyRegs (sp ++ issueSpans core) s t ∧ SameMem s t

/-- The context `k` is there and satisfies `p`. -/
def CtxIs (t : State) (k : Nat) (p : Ctx → Prop) : Prop := ∃ y, t.ctx? k = some y ∧ p y

/-- The two states hold the same bytes in every memory (07). -/
def SameBytes (s t : State) : Prop := t.ts = s.ts ∧ t.acc = s.acc ∧ t.stack = s.stack ∧ t.ext = s.ext

/-- The context `x` with key `k` runs, waits for nothing and is not marked for pre-emption or a halt. -/
structure Runs (s : State) (k : Nat) (x : Ctx) : Prop where
  here : s.ctx? k = some x
  pos : x.pos = true
  place : x.place = .inPlace
  moves : x.move = none
  waits : x.waiting = .none
  forced : x.forced = false
  halted : x.halted = false
  calm : Calm s

/-- Registers that the units of the cores change while they work: counters of cycles lost and of errors, the location of an
error, the most transactions outstanding, the banks' counts of bytes and their poisoned cell. -/
def workSpans : Spans :=
  [counterSpan, at1 (key 0x2500 0x36), at1 (key 0x2500 0x3F), pages 0x2400 0x2405, pages 0x2410 0x2410] ++
    (upTo 16).map (fun b => (key (0x2B00 + b) 0x0C, key (0x2B00 + b) 0x0D))

/-- A forward or reverse count has been applied to line domain `d` (R41, R42); values that an advance of HPOS reaches are
registered as reached in the next cycle (Table 2-1). -/
def Counted (s t : State) (d : Nat) (rev : Bool) : Prop :=
  let debt := s.reg (key (0x2108 + d) 5)
  (if s.bit' (key (0x2108 + d) 1) 6 then
     t.lpos d = posAdd (s.lpos d) (if rev then -1 else 1)
     ∧ t.hpos d = (if rev || reached (s.hpos d) (posAdd (s.lpos d) 1) then s.hpos d else posAdd (s.lpos d) 1)
   else if rev then t.lpos d = s.lpos d ∧ t.hpos d = s.hpos d ∧ t.reg (key (0x2108 + d) 5) = satAdd 32 debt 1
   else if 0 < debt then t.lpos d = s.lpos d ∧ t.hpos d = s.hpos d ∧ t.reg (key (0x2108 + d) 5) = (debt - 1) % 2 ^ 32
   else t.lpos d = posAdd (s.lpos d) 1 ∧ t.hpos d = posAdd (s.lpos d) 1 ∧ t.reg (key (0x2108 + d) 5) = 0)
  ∧ (t.hpos d ≠ s.hpos d → t.ClosesWith (s.sclk + 1) (1 + d) (.reach d))

/-- Compare channel `n` has matched (R54, R55): it shows LPOS, counts, and disarms or goes on to its next value; its event
is registered. -/
def Matched (s t : State) (n : Nat) (late : Bool) : Prop :=
  let inc := s.reg (kCmp n 3)
  t.reg (kCmp n 7) = s.lpos (s.cmpDom n) % 2 ^ 48 ∧ t.reg (kCmp n 6) = satAdd 32 (s.reg (kCmp n 6)) 1
  ∧ t.bit' (kCmp n 5) 1 = late ∧ t.cmpArmed n = (inc != 0)
  ∧ t.reg (kCmp n 2) = (if inc = 0 then s.reg (kCmp n 2) else posAdd (s.reg (kCmp n 2)) inc)
  ∧ t.Raised (evMatch n) s.sclk late ∧ OnlyRegs [(kCmp n 2, kCmp n 7)] s t ∧ SameMem s t

/-- `s` once the context `k` has fetched and issued its entry (05 R126 to R130). -/
def State.issuing (s : State) (k : Nat) (x : Ctx) : State := (s.fetched k x).countIssue k x

/-- The context `x` with key `k` has been torn down for the core fault `cause`, which its core shows (R159). -/
def CoreFaulted (t : State) (k cause : Nat) (x : Ctx) : Prop :=
  t.bit' (kCore x.core 3) 8 = true ∧ t.field' (kCore x.core 3) 23 20 = cause ∧ t.ctx? k = none

/-- The fault `code` of half `h` of array `n` against the pass `p` of context `x` is recorded (R94), and the context has been
torn down with core fault 8 (R159). -/
def ArrayFaulted (t : State) (n h code : Nat) (p : Pass) (x : Ctx) : Prop :=
  t.bit' (kArr 0x10 n) (if h = 1 then 9 else 8) = true
  ∧ t.field' (kArr 0x10 n) (if h = 1 then 31 else 27) (if h = 1 then 28 else 24) = code
  ∧ t.field' (kArr 0x20 n) (if h = 1 then 31 else 15) (if h = 1 then 16 else 0) = p.tag
  ∧ CoreFaulted t p.ctx 8 x

/-- An agent that reads the words of its place (R220) has found word `word` of them as `f` says (R221, R222): an uncorrectable
word that is not poisoned is counted, recorded in 2500h.36h and held as such, a corrected one is counted once and waits for its
write-back, the agent goes on, and 2500h.3Bh shows a pass that is late. -/
structure Scrubbed (u t : State) (l : Level) (agent word : Nat) (f : ReadFinding) : Prop where
  counted : let x := u.droneWord l agent (u.walker (walkKey l agent))
    let bad := (upTo (droneSpan l)).filter (fun i => !hasKey (u.store l).poison (x + i) &&
      (hasKey (u.store l).bad (x + i) || (i == word % droneSpan l && f == .uncorrectable)))
    let n := key 0x2902 (4 + levelNum l)
    (bad = [] → t.reg n = u.reg n ∧ t.reg (kMem 0x36) = u.reg (kMem 0x36))
    ∧ (bad ≠ [] → t.reg n = satAdd 32 (u.reg n) bad.length ∧
        ∃ i ∈ bad, t.reg (kMem 0x36) = badLocation (levelNum l) ((x + i) * wordSize l) % 2 ^ 64)
  held : let y := u.droneWord l agent (u.walker (walkKey l agent)) + word % droneSpan l
    (t.store l).cells = (u.store l).cells ∧ (t.store l).poison = (u.store l).poison
    ∧ ∀ a, hasKey (t.store l).bad a =
        (hasKey (u.store l).bad a || (f == .uncorrectable && a == y && !hasKey (u.store l).poison y))
  others : ∀ m, m ≠ l → t.store m = u.store m
  corrected : let y := u.droneWord l agent (u.walker (walkKey l agent)) + word % droneSpan l
    let b := Writeback.mk (levelNum l) y
    let n := key 0x2902 (levelNum l)
    if f = .correctable ∧ hasKey (u.store l).poison y = false ∧ hasKey (u.store l).bad y = false ∧ b ∉ u.writebacks then
      t.writebacks = u.writebacks ++ [b] ∧ t.reg n = satAdd 32 (u.reg n) 1
    else t.writebacks = u.writebacks ∧ t.reg n = u.reg n
  goesOn : let i := u.walker (walkKey l agent)
    let late := 0 < i ∧ u.walker (walkKey l agent + 1) + u.passTime l < u.sclk + 1
    t.walker (walkKey l agent) = (if i + 1 < u.passReads l agent then i + 1 else 0)
    ∧ t.walker (walkKey l agent + 1) = (if i = 0 then u.sclk + 1 else u.walker (walkKey l agent + 1))
    ∧ (late → t.bit' (kMem 0x3B) (levelNum l - 1) = true)
    ∧ (¬late → u.passReads l agent ≤ i + 1 → t.bit' (kMem 0x3B) (levelNum l - 1) = false)
  frame : t.valid = u.valid ∧ OnlyRegs [at1 (kMem 0x36), at1 (kMem 0x3B), counterSpan] u t

/-- Registers that a fault of a unit may change beside those of the units: the job and its function. -/
def faultSpans (j : Nat) : Spans := schedSpan :: at1 (key 0x2020 (fJob j)) :: workSpans

/-- A write of one entry through a route passes every check of R408, and no other route's command contends with it
(16 R408, R418). -/
def Accepts (s : State) (r : Route) (ix sub : Nat) (data : Bytes) : Prop :=
  s.served r = true ∧ s.mute r = false ∧ ¬(r = .hostPort ∧ s.loses ix sub data = true) ∧
    (s.arrive r ix sub data).check r ix sub data = none

/-- The memory holds the bytes from an address on. -/
def Store.Holds (m : Store) (a : Nat) (bs : Bytes) : Prop := ∀ i, (h : i < bs.length) → m.get (a + i) = bs[i]

end Sys2Proof.Machine
end

