-- ==== Sys2Proof/Certificates/Slice0/Obligations.lean ====
section
/-! DEFINITION. The statements about the module, chapter by chapter. -/

open Sys2Proof Sys2Proof.Machine

/-! Steps. -/

/-- A step takes the command at the front of the queue and executes it with the queue's rest; on an empty queue one SCLK cycle
passes. Time that passes carries the waiting effects out that come before the command, each in its own instant, and nothing else.
Choices of the model in it: log 118, 119. -/
def Obligations.StepExecutesTheFrontCommand : Prop :=
  (∀ (s : State) (c : Instr) (cs : List Instr), s.pending = c :: cs → step s = exec c { s with pending := cs })
  ∧ (∀ s : State, s.pending = [] → step s = .next (s.wait 12))
  ∧ (∀ (s : State) (dt : Nat), (∀ l ∈ s.later, ¬ l.due (s.time + dt)) → s.wait dt = s.atTime (s.time + dt))
  ∧ (∀ (s : State) (dt : Nat) (l : Later) (ls : List Later), s.later = l :: ls → l.due (s.time + dt) →
    (let t := (({ s with later := ls }).atTime (max s.time l.tick)).perform l.act
     (∀ m ∈ t.later, ¬ m.due (s.time + dt)) → s.wait dt = s.sealed (t.atTime (s.time + dt))))

/-- The units of the cores work in their own cycles, up to one that a command or an instant names: of the registers they change only
those of their counts, no context enters, leaves, goes on or is signalled by it, and nothing of jobs, the hub, the links, the pools
or the other blocks changes. Choices of the model in it: log 57, 119. -/
def Obligations.UnitsWorkLeavesTheRestAlone : Prop :=
  ∀ (s t : State) (stop : Nat), t = s.catchTo stop →
    OnlyRegs workSpans s t ∧ KeepsLater s t ∧ t.time = s.time ∧ t.grade = s.grade ∧ t.pending = s.pending ∧ t.doms = s.doms
    ∧ t.ext.bad = s.ext.bad ∧ t.encs = s.encs ∧ t.domains = s.domains ∧ t.trigs = s.trigs ∧ t.wins = s.wins ∧ t.timers = s.timers
    ∧ t.cmps = s.cmps ∧ t.groups = s.groups ∧ t.chans = s.chans ∧ t.field = s.field ∧ t.ports = s.ports ∧ t.sccs = s.sccs
    ∧ t.nets = s.nets ∧ t.ptp = s.ptp ∧ t.writebacks = s.writebacks ∧ t.walkers = s.walkers ∧ t.allots = s.allots
    ∧ t.cache = s.cache ∧ t.images = s.images ∧ t.models = s.models ∧ t.pins = s.pins ∧ t.regions = s.regions ∧ t.jobs = s.jobs
    ∧ t.incs = s.incs ∧ t.tgts = s.tgts ∧ t.kept = s.kept ∧ t.hub = s.hub ∧ t.hubWaits = s.hubWaits ∧ t.linkUse = s.linkUse
    ∧ t.banks = s.banks ∧ t.ifes = s.ifes ∧ t.intakes = s.intakes ∧ t.engines = s.engines ∧ t.power = s.power ∧ t.fuses = s.fuses
    ∧ t.flash = s.flash ∧ t.tap = s.tap ∧ t.barrier = s.barrier ∧ t.hsp = s.hsp ∧ t.ec = s.ec ∧ t.launches = s.launches
    ∧ (∀ k, (t.ctx? k).isSome = (s.ctx? k).isSome)
    ∧ ∀ k x y, s.ctx? k = some x → t.ctx? k = some y →
        y.core = x.core ∧ y.inc = x.inc ∧ y.slot = x.slot ∧ y.place = x.place ∧ y.pos = x.pos ∧ y.entry = x.entry ∧ y.work = x.work
        ∧ y.waiting = x.waiting ∧ y.sems = x.sems ∧ y.held = x.held ∧ y.credits = x.credits ∧ y.forced = x.forced

/-! Line time (02). -/

/-- A change of the filtered levels that decodes to a count moves the raw count by 1, sets DIR and the levels, times the count
against the last one, and registers its event (R33); one that changes both levels in a quadrature mode registers no count, sets
ILL, is counted, and its levels become the reference (R35). Levels that the glitch filter cannot yet pass do not come about (R34).
Choices of the model in it: log 14, 120. -/
def Obligations.EncoderLevelsDecodeToCounts : Prop :=
  (∀ (s w : State) (dt : Nat) (e : Fin 4) (a b rev : Bool), w = s.wait dt → w.up = true → w.filterPasses e a b = true →
    decodeAB (w.encCfg e) (w.bit' (kEnc e 6) 0) (w.bit' (kEnc e 6) 1) a b = .count rev →
    Leads (.encoderCount dt e a b) s (fun t =>
      t.reg (kEnc e 2) = (w.reg (kEnc e 2) + (if rev then 2 ^ 32 - 1 else 1)) % 2 ^ 32
      ∧ t.bit' (kEnc e 6) 0 = a ∧ t.bit' (kEnc e 6) 1 = b ∧ t.bit' (kEnc e 6) 3 = rev
      ∧ (∀ l, (w.enc e).lastCount = some l →
          t.reg (kEnc e 5) = min 0xFFFFFFFF (16 * (w.sclk - l)) ∧ (w.sclk - l < 25 → t.bit' (kEnc e 6) 6 = true))
      ∧ t.Raised (evCount e) w.sclk
      ∧ OnlyRegs ([at1 (kEnc e 2), at1 (kEnc e 5), at1 (kEnc e 6)] ++ countSpans) w t ∧ SameMem w t))
  ∧ (∀ (s w : State) (dt : Nat) (e : Fin 4) (a b : Bool), w = s.wait dt → w.up = true → w.filterPasses e a b = true →
    1 ≤ bits (w.encCfg e) 2 0 → bits (w.encCfg e) 2 0 ≤ 3 →
    a = (!w.bit' (kEnc e 6) 0) → b = (!w.bit' (kEnc e 6) 1) →
    Leads (.illegalTransition dt e a b) s (fun t =>
      t.bit' (kEnc e 6) 4 = true ∧ t.bit' (kEnc e 6) 0 = a ∧ t.bit' (kEnc e 6) 1 = b
      ∧ t.reg (key 0x2900 1) = satAdd 32 (w.reg (key 0x2900 1)) 1
      ∧ t.reg (kEnc e 2) = w.reg (kEnc e 2) ∧ (∀ d : Fin 4, t.lpos d = w.lpos d ∧ t.hpos d = w.hpos d)
      ∧ t.later = w.later ∧ OnlyRegs [at1 (kEnc e 6), counterSpan] w t ∧ SameMem w t))
  ∧ (∀ (s w : State) (dt : Nat) (e : Fin 4) (a b : Bool), w = s.wait dt → w.filterPasses e a b = false →
    Leads (.encoderCount dt e a b) s (fun t => t = w) ∧ Leads (.illegalTransition dt e a b) s (fun t => t = w))

/-- A registered count moves the position of every domain that it feeds and that applies counts: in HOLD a reverse count adds
to the reverse debt and leaves LPOS, a forward count pays the debt off before it advances LPOS, and HPOS goes with LPOS (R41);
in TRACK LPOS follows the counts and HPOS is the highest LPOS (R42). What an advance reaches is registered in the next cycle. The
generator's counts are forward counts, when they are due (R40). Choices of the model in it: log 14. -/
def Obligations.CountsMoveTheLinePosition : Prop :=
  (∀ (s w : State) (dt : Nat) (e d : Fin 4) (a b rev : Bool), w = s.wait dt → w.up = true → w.filterPasses e a b = true →
    decodeAB (w.encCfg e) (w.bit' (kEnc e 6) 0) (w.bit' (kEnc e 6) 1) a b = .count rev →
    w.field' (key (0x2108 + d) 1) 2 0 = e → w.appliesCounts d w.sclk = true →
    Leads (.encoderCount dt e a b) s (fun t => Counted w t d rev))
  ∧ (∀ (s w : State) (dt : Nat) (d : Fin 4), w = s.wait dt → w.up = true →
    w.field' (key (0x2108 + d) 1) 2 0 = 4 → w.appliesCounts d w.sclk = true → w.genDue d ≤ w.sclk →
    Leads (.generatorCount dt d) s (fun t =>
      Counted w t d false ∧ (t.domain d).genCounts = (w.domain d).genCounts + 1
      ∧ OnlyRegs countSpans w t ∧ SameMem w t))

/-- A settled Z edge of the chosen polarity latches the raw count, is counted and registers its event, and counts of a revolution
that differ from the configured number set ZERR (R36). An encoder whose input fails sets its fault bits, is counted, and takes
every RUNNING domain that it feeds to FAULTED (R43, R398); the end of the fault clears the present bit alone.
Choices of the model in it: log 14. -/
def Obligations.ZEdgesAndInputFaultsAreRegistered : Prop :=
  (∀ (s w : State) (dt : Nat) (e : Fin 4) (rising : Bool), w = s.wait dt → w.up = true → w.settled e (w.enc e).zAt = true →
    bits (w.encCfg e) 7 6 = (if rising then 1 else 2) →
    Leads (.zEdge dt e rising) s (fun t =>
      t.reg (kEnc e 3) = w.reg (kEnc e 2) % 2 ^ 32 ∧ t.reg (kEnc e 4) = (w.reg (kEnc e 4) + 1) % 2 ^ 32
      ∧ t.bit' (kEnc e 6) 2 = rising ∧ t.bit' (kEnc e 6) 5 = (w.bit' (kEnc e 6) 5 || w.zBad e)
      ∧ (w.zBad e = true → t.reg (key 0x2900 2) = satAdd 32 (w.reg (key 0x2900 2)) 1)
      ∧ t.Raised (evZ e) w.sclk
      ∧ OnlyRegs [at1 (kEnc e 3), at1 (kEnc e 4), at1 (kEnc e 6), counterSpan] w t ∧ SameMem w t))
  ∧ (∀ (s w : State) (dt : Nat) (e : Fin 4), w = s.wait dt → w.up = true → bits (w.encCfg e) 2 0 ≠ 0 →
    w.bit' (key 0x2640 0x18) e = false →
    Leads (.encoderInputFault dt e) s (fun t =>
      t.bit' (key 0x2640 0x18) e = true ∧ t.bit' (key 0x2640 0x18) (8 + e) = true
      ∧ t.reg (key 0x2900 8) = satAdd 32 (w.reg (key 0x2900 8)) 1
      ∧ (∀ d : Fin 4, t.fn (fDomain d) =
          if w.field' (key (0x2108 + d) 1) 2 0 = e ∧ w.running (fDomain d) = true then .faulted else w.fn (fDomain d))
      ∧ OnlyRegs ([at1 (key 0x2640 0x18), counterSpan] ++ (upTo 4).map (fun d => at1 (key 0x2020 (fDomain d)))) w t
      ∧ SameMem w t))
  ∧ (∀ (s w : State) (dt : Nat) (e : Fin 4), w = s.wait dt → w.up = true →
    Leads (.encoderFaultEnd dt e) s (fun t =>
      t.bit' (key 0x2640 0x18) e = false ∧ t.bit' (key 0x2640 0x18) (8 + e) = w.bit' (key 0x2640 0x18) (8 + e)
      ∧ OnlyRegs [at1 (key 0x2640 0x18)] w t ∧ SameMem w t))

/-- An accepted write of an encoder's configuration is stored at once and takes effect in the next SCLK cycle (R38). A domain whose
stall time has run out reports STALL and no speed, and registers the stall event (R46). -/
def Obligations.EncoderWritesAndStallsTakeEffect : Prop :=
  (∀ (s w : State) (r : Route) (dt : Nat) (e : Fin 4) (sub : Nat) (data : Bytes), w = s.wait dt → (sub = 1 ∨ sub = 7) →
    data.length = 4 → Accepts w r (0x2100 + e) sub data →
    Leads (.encoderConfigWrite dt r e sub data) s (fun t =>
      (sub = 7 → t.reg (kEnc e 7) = leNat data)
      ∧ (sub = 1 → bits (t.reg (kEnc e 1)) 2 0 = bits (leNat data) 2 0 ∧ t.bit' (kEnc e 1) 8 = bit (leNat data) 8
          ∧ bits (t.reg (kEnc e 1)) 7 6 = bits (leNat data) 7 6)
      ∧ t.encCfg e = w.encCfg e ∧ t.zPeriod e = w.zPeriod e
      ∧ (∀ m, 12 * (w.sclk + 1) ≤ m → (t.atTime m).encCfg e = t.reg (kEnc e 1) ∧ (t.atTime m).zPeriod e = t.reg (kEnc e 7))
      ∧ OnlyRegs [at1 (kEnc e sub)] w t ∧ SameMem w t))
  ∧ (∀ (s w : State) (dt : Nat) (d : Fin 4), w = s.wait dt → w.up = true → w.stallDue d = true →
    Leads (.stall dt d) s (fun t =>
      t.bit' (key (0x2108 + d) 0x0A) 0 = true ∧ t.reg (key (0x2108 + d) 7) = 0xFFFFFFFF ∧ t.reg (key (0x2108 + d) 8) = 0
      ∧ (t.domain d).stallDue = none ∧ t.Raised (evStall d) w.sclk
      ∧ OnlyRegs [at1 (key (0x2108 + d) 7), at1 (key (0x2108 + d) 8), at1 (key (0x2108 + d) 0x0A)] w t ∧ SameMem w t))

/-- The oldest waiting trigger of a generator is issued when its delay has run out: TRIG is active for its width, the last
position is recorded, the event is registered, and every port of the gang with room queues the position (R47, R49). TRIG returns
to its inactive level at the end of the pulse. A missed trigger reaches the ports in its place: an empty queue passes it on at
once as a fill line of reason 1, any other queues it, marked (R48, R316). -/
def Obligations.TriggersReachTheirPorts : Prop :=
  (∀ (s w : State) (dt : Nat) (p : Fin 36) (x : Trig) (xs : List Trig), w = s.wait dt → w.up = true →
    (w.trig p).waiting = x :: xs → x.missed = false → x.due ≤ w.sclk →
    Leads (.triggerIssued dt p) s (fun t =>
      (t.trig p).waiting = xs ∧ (t.trig p).pulseEnd = some (w.sclk + w.reg (kTrig p 4))
      ∧ t.reg (kTrig p 6) = x.pos % 2 ^ 48 ∧ t.Raised (evTrig p) w.sclk
      ∧ (w.running (fStream p) = true → w.arrival p = false → ∀ q ∈ w.gangPorts p,
          (∀ y ∈ (w.port q).queue, y.missed = false) → (w.port q).queue.length < 16 →
          (t.port q).queue = (w.port q).queue ++ [{ pos := x.pos, at_ := w.sclk, missed := false }])
      ∧ OnlyRegs (at1 (kTrig p 6) :: portSpans) w t ∧ SameMem w t))
  ∧ (∀ (s w : State) (dt : Nat) (p : Fin 36) (m : Nat), w = s.wait dt → w.up = true → (w.trig p).pulseEnd = some m →
    m ≤ w.sclk →
    Leads (.triggerPulseEnd dt p) s (fun t =>
      (t.trig p).pulseEnd = none ∧ (t.trig p).waiting = (w.trig p).waiting ∧ (t.trig p).lastBegin = (w.trig p).lastBegin
      ∧ t.later = w.later ∧ OnlyRegs [] w t ∧ SameMem w t))
  ∧ (∀ (s w : State) (dt : Nat) (p : Fin 36) (x : Trig) (xs : List Trig), w = s.wait dt → w.up = true →
    (w.trig p).waiting = x :: xs → x.missed = true → x.due ≤ w.sclk →
    Leads (.missedTrigger dt p) s (fun t =>
      (t.trig p).waiting = xs ∧ (t.trig p).pulseEnd = (w.trig p).pulseEnd ∧ t.later = w.later
      ∧ (w.running (fStream p) = true → w.arrival p = false → ∀ q ∈ w.gangPorts p,
          ((w.port q).queue = [] → (t.port q).queue = []
            ∧ (w.frameMode p = false → ∃ l, (t.port q).fifo.getLast? = some l ∧ l.stamp = x.pos ∧ l.reason = 1))
          ∧ ((w.port q).queue ≠ [] → (∀ y ∈ (w.port q).queue, y.missed = false) → (w.port q).queue.length < 16 →
            (t.port q).queue = (w.port q).queue ++ [{ pos := x.pos, at_ := w.sclk, missed := true }]))
      ∧ OnlyRegs portSpans w t ∧ SameMem w t))

/-- ARM, DISARM and a value written to an armed compare channel take effect as the next cycle opens (R56): ARM arms it, a value
already reached matches late in that cycle, DISARM disarms it. A match shows LPOS and counts, disarms a channel without increment
and raises its event (R54, R55), of which a late one is counted. ARM of a window takes effect in the next cycle with the start and
end then held: it waits for its start, opens late, opens and closes late, or is empty, and DISARM makes it IDLE (R58, R60).
Choices of the model in it: log 18, 20, 119. -/
def Obligations.CompareChannelsAndWindowsArm : Prop :=
  (∀ (s w : State) (r : Route) (dt : Nat) (n : Fin 32), w = s.wait dt → Accepts w r (0x2120 + n) 4 (leBytes 1 1) →
    Leads (.compareArm dt r n) s (fun t =>
      t.OpensWith (w.sclk + 1) (.cmpArm n) ∧ OnlyRegs [at1 (kCmp n 4)] w t ∧ SameMem w t))
  ∧ (∀ (s w : State) (r : Route) (dt : Nat) (n : Fin 32), w = s.wait dt → Accepts w r (0x2120 + n) 4 (leBytes 1 2) →
    Leads (.compareDisarm dt r n) s (fun t =>
      t.OpensWith (w.sclk + 1) (.cmpDisarm n) ∧ OnlyRegs [at1 (kCmp n 4)] w t ∧ SameMem w t))
  ∧ (∀ (s w : State) (r : Route) (dt : Nat) (n : Fin 32) (v : BitVec 48), w = s.wait dt →
    Accepts w r (0x2120 + n) 2 (leBytes 6 v.toNat) →
    Leads (.compareValueWrite dt r n v) s (fun t =>
      (w.cmpArmed n = true → t.OpensWith (w.sclk + 1) (.cmpValue n v.toNat) ∧ OnlyRegs [] w t)
      ∧ (w.cmpArmed n = false → t.reg (kCmp n 2) = v.toNat ∧ OnlyRegs [at1 (kCmp n 2)] w t) ∧ SameMem w t))
  ∧ (∀ (s t : State) (n : Fin 32), t = s.perform (.cmpArm n) →
    t.cmpArmed n = true ∧ (reached (s.hpos (s.cmpDom n)) (s.reg (kCmp n 2)) = true → t.ClosesWith s.sclk 0 (.cmpJudge n true))
    ∧ OnlyRegs [at1 (kCmp n 5)] s t ∧ SameMem s t)
  ∧ (∀ (s t : State) (n : Fin 32), t = s.perform (.cmpDisarm n) →
    t.cmpArmed n = false ∧ OnlyRegs [at1 (kCmp n 5)] s t ∧ SameMem s t)
  ∧ (∀ (s t : State) (n : Fin 32) (v : Nat), t = s.perform (.cmpValue n v) → v < 2 ^ 48 →
    t.reg (kCmp n 2) = v ∧ t.cmpArmed n = s.cmpArmed n
    ∧ (s.cmpArmed n = true → reached (s.hpos (s.cmpDom n)) v = true → t.ClosesWith s.sclk 0 (.cmpJudge n true))
    ∧ OnlyRegs [at1 (kCmp n 2), at1 (kCmp n 5)] s t ∧ SameMem s t)
  ∧ (∀ (s : State) (n : Fin 32) (late : Bool), s.cmpDue n s.sclk = true →
    Matched s (s.perform (.cmpJudge n late)) n late)
  ∧ (∀ (s : State) (n : Fin 32),
    (s.perform (.source (evMatch n) true)).reg (key 0x2900 5) = satAdd 32 (s.reg (key 0x2900 5)) 1)
  ∧ (∀ (s w : State) (r : Route) (dt : Nat) (x : Fin 64), w = s.wait dt → Accepts w r (0x2140 + x) 5 (leBytes 1 1) →
    Leads (.windowArm dt r x) s (fun t =>
      t.OpensWith (w.sclk + 1) (.winArm x) ∧ OnlyRegs [at1 (key (0x2140 + x) 5)] w t ∧ SameMem w t))
  ∧ (∀ (s w : State) (r : Route) (dt : Nat) (x : Fin 64), w = s.wait dt → Accepts w r (0x2140 + x) 5 (leBytes 1 2) →
    Leads (.windowDisarm dt r x) s (fun t =>
      t.OpensWith (w.sclk + 1) (.winDisarm x) ∧ OnlyRegs [at1 (key (0x2140 + x) 5)] w t ∧ SameMem w t))
  ∧ (∀ (s t : State) (x : Fin 64), t = s.perform (.winArm x) →
    (let st := s.reg (key (0x2140 + x) 2)
     let en := s.reg (key (0x2140 + x) 3)
     (if posDiff en st ≤ 0 then t.reg (key (0x2140 + x) 6) = 3 ∧ t.reg (key 0x2900 6) = satAdd 32 (s.reg (key 0x2900 6)) 1
      else if reached (s.hpos (s.winDom x)) st = false then
        t.reg (key (0x2140 + x) 6) = 1 ∧ (t.win x).start = st ∧ (t.win x).fin = en ∧ t.later = s.later
      else t.Raised (evOpen x) s.sclk ∧
        (if reached (s.hpos (s.winDom x)) en = false then t.reg (key (0x2140 + x) 6) = 2 + 128
         else t.Raised (evClose x) s.sclk ∧ (s.reg (key (0x2140 + x) 4) = 0 → t.reg (key (0x2140 + x) 6) = 3 + 128)))
     ∧ OnlyRegs [pages (0x2140 + x) (0x2140 + x), counterSpan] s t ∧ SameMem s t))
  ∧ (∀ (s t : State) (x : Fin 64), t = s.perform (.winDisarm x) →
    t.reg (key (0x2140 + x) 6) = 0 ∧ (t.win x).armedAt = none ∧ t.later = s.later
    ∧ OnlyRegs [at1 (key (0x2140 + x) 6)] s t ∧ SameMem s t)

/-- A load value written loads its timer, if it is on, as the next cycle opens (R65); a timer that has run out stops and registers
its event, which is counted (R66). Slack is refreshed 64 SCLK after the last refresh: that of a job with a published deadline and a
domain is the time to it, 0 once it is reached and FFFFFFFFh while the domain is stalled; without a deadline it is FFFFFFFFh
(R68). -/
def Obligations.TimersAndSlackAreServed : Prop :=
  (∀ (s w : State) (r : Route) (dt : Nat) (x : Fin 16) (v : BitVec 32), w = s.wait dt →
    Accepts w r 0x2180 (0x11 + x) (leBytes 4 v.toNat) →
    Leads (.timerLoadWrite dt r x v) s (fun t =>
      t.reg (key 0x2180 (0x11 + x)) = v.toNat ∧ t.timers = w.timers ∧ t.OpensWith (w.sclk + 1) (.timerLoad x)
      ∧ OnlyRegs [at1 (key 0x2180 (0x11 + x))] w t ∧ SameMem w t))
  ∧ (∀ (s t : State) (x : Fin 16), t = s.perform (.timerLoad x) →
    (s.timerOn x = false → t = s)
    ∧ (s.timerOn x = true → (t.timer x).running = true ∧ (t.timer x).loadedAt = s.sclk
        ∧ (t.timer x).due = s.sclk + s.reg (key 0x2180 (0x11 + x)) ∧ (t.timer x).left = s.reg (key 0x2180 (0x11 + x))
        ∧ (t.timer x).zeroAt = none
        ∧ ((s.timer x).owed = none → (∀ z, s.timerZero x = some z → s.sclk < z) → (t.timer x).owed = none))
    ∧ OnlyRegs [] s t ∧ SameMem s t)
  ∧ (∀ (s w : State) (dt : Nat) (x : Fin 16), w = s.wait dt → w.up = true → w.timerExpired x = true →
    Leads (.timerExpiry dt x) s (fun t =>
      t.timer x = (if (w.timer x).owed.isSome then { w.timer x with owed := none } else {})
      ∧ t.Raised (evTimer x) w.sclk ∧ OnlyRegs [] w t ∧ SameMem w t))
  ∧ (∀ (s : State) (x : Fin 16) (late : Bool),
    (s.perform (.source (evTimer x) late)).reg (key 0x2900 7) = satAdd 32 (s.reg (key 0x2900 7)) 1)
  ∧ (∀ (s w : State) (dt : Nat), w = s.wait dt → w.up = true → w.slackDue = true →
    Leads (.slackRefresh dt) s (fun t =>
      (∀ (j : Fin 64) (d : Nat), w.bit' (key (0x2510 + j) 8) 31 = true → w.jobDom j = some d → t.reg (key (0x2510 + j) 6) =
        (if w.bit' (key (0x2108 + d) 0x0A) 0 then 0xFFFFFFFF
         else if reached (w.hpos d) (w.reg (key (0x2510 + j) 7)) then 0
         else min 0xFFFFFFFF ((w.reg (key (0x2510 + j) 7) + 2 ^ 48 - w.hpos d) % 2 ^ 48 * w.reg (key (0x2108 + d) 7) / 16)))
      ∧ (∀ j : Fin 64, w.bit' (key (0x2510 + j) 8) 31 = false → t.reg (key (0x2510 + j) 6) = 0xFFFFFFFF)
      ∧ (∀ j : Fin 64, w.bit' (key (0x2510 + j) 8) 31 = true → w.jobDom j = none →
          t.reg (key (0x2510 + j) 6) = w.reg (key (0x2510 + j) 6))
      ∧ t.slackAt = some w.sclk ∧ t.slackDue = false
      ∧ OnlyRegs ((upTo 64).map (fun j => at1 (key (0x2510 + j) 6))) w t ∧ SameMem w t))

/-! The sequencers (05). -/

/-- The issue commands of the yields with the SURR bit of their descriptors (Table 5-12). -/
def yieldCommands : List ((Nat → Fin 6 → Fin 4 → Instr) × Bool) := [(.yield, false), (.yieldSurrender, true)]

/-- An issued entry counts with its slip, and fetching it finds no more than errors of the words fetched (R126, R130). A LOOP entry
goes back to its target until its counter has passed its count, and a LOOP without a count goes back for ever (R129). An END entry
discards its context, and the last END of a RUNNING job brings the job to STOPPED (R271).
Choices of the model in it: log 49. -/
def Obligations.LoopAndEndFollowTheTimetable : Prop :=
  (∀ (s : State) (k : Nat) (x : Ctx), let v := s.issuing k x
    v.reg (kCore x.core 6) = satAdd 32 (s.reg (kCore x.core 6)) 1
    ∧ v.reg (kCore x.core 7) = satAdd (widthOf (kCore x.core 7)) (s.reg (kCore x.core 7)) (s.cclk - s.dueOf k x)
    ∧ OnlyRegs [at1 (kCore x.core 6), at1 (kCore x.core 7), counterSpan, at1 (key 0x2500 0x36)] s v ∧ SameMem s v)
  ∧ (∀ (s w : State) (dt : Nat) (core : Fin 6) (slot : Fin 4) (k : Nat) (x : Ctx) (lc count tgt : Nat), w = s.wait dt →
    w.up = true → Issues w core slot k x (.loop lc count tgt) →
    Leads (.loop dt core slot) s (fun t =>
      CtxIs t k (fun y => y.pos = true ∧ y.ref = w.cclk ∧
        (let n := tget (fun _ => 0) x.loops lc + 1
         if count = 0 then y.entry = tgt ∧ y.loops = x.loops
         else if n < count then y.entry = tgt ∧ tget (fun _ => 0) y.loops lc = n
         else y.entry = x.entry + 1 ∧ tget (fun _ => 0) y.loops lc = 0))
      ∧ Entered w t core []))
  ∧ (∀ (s w : State) (dt : Nat) (core : Fin 6) (slot : Fin 4) (k : Nat) (x : Ctx), w = s.wait dt → w.up = true →
    Issues w core slot k x .stop →
    Leads (.endEntry dt core slot) s (fun t =>
      t.ctx? k = none
      ∧ (w.running (fJob (ctxJob k)) = true →
          (addKey (w.job (ctxJob k)).ended (ctxLane k)).length = (w.job (ctxJob k)).cores.length →
          t.fn (fJob (ctxJob k)) = .stopped)
      ∧ (w.running (fJob (ctxJob k)) = true →
          (addKey (w.job (ctxJob k)).ended (ctxLane k)).length ≠ (w.job (ctxJob k)).cores.length →
          t.fn (fJob (ctxJob k)) = .running ∧ (t.job (ctxJob k)).ended = addKey (w.job (ctxJob k)).ended (ctxLane k))
      ∧ OnlyRegs (schedSpan :: at1 (key 0x2020 (fJob (ctxJob k))) :: workSpans) w t
      ∧ SameBytes (w.issuing k x).catchAll t))

/-- An add or set of a private semaphore takes effect at once, one of a shared semaphore is sent to the hub, where it takes
effect 8 CCLK later, and an add to another lane is sent to it (R144, R145, R147, R149). A malformed descriptor faults its context
with cause 1h (R132). -/
def Obligations.SemaphoreEntriesTakeEffect : Prop :=
  (∀ (s w : State) (dt : Nat) (core : Fin 6) (slot : Fin 4) (k : Nat) (x : Ctx) (ws : List Nat), w = s.wait dt → w.up = true →
    Issues w core slot k x (.issue 0x40 ws) → w.semMalformed k ws = false → semAct (ws.getD 0 0) = 0 →
    Leads (.semaphoreAdd dt core slot) s (fun t =>
      CtxIs t k (fun y => y.entry = x.entry + 1 ∧ y.pos = true ∧
        ∀ n, n < 56 → y.sem n = if n = waitSem (ws.getD 0 0) then (x.sem n).raise (waitVal (ws.getD 0 0)) none else x.sem n)
      ∧ (56 ≤ waitSem (ws.getD 0 0) → t.hubOps = w.hubOps ++
          [{ due := w.cclk + 8, part := w.jobPart (ctxJob k), sem := waitSem (ws.getD 0 0), ctx := k, inc := x.inc,
             act := .add (waitVal (ws.getD 0 0)) }])
      ∧ (waitSem (ws.getD 0 0) < 56 → t.hubOps = w.hubOps)
      ∧ Entered w t core []))
  ∧ (∀ (s w : State) (dt : Nat) (core : Fin 6) (slot : Fin 4) (k : Nat) (x : Ctx) (ws : List Nat), w = s.wait dt → w.up = true →
    Issues w core slot k x (.issue 0x40 ws) → w.semMalformed k ws = false → semAct (ws.getD 0 0) = 1 →
    Leads (.semaphoreSet dt core slot) s (fun t =>
      CtxIs t k (fun y => y.entry = x.entry + 1 ∧ y.pos = true ∧
        ∀ n, n < 56 → (y.sem n).count = if n = waitSem (ws.getD 0 0) then waitVal (ws.getD 0 0) else (x.sem n).count)
      ∧ (56 ≤ waitSem (ws.getD 0 0) → t.hubOps = w.hubOps ++
          [{ due := w.cclk + 8, part := w.jobPart (ctxJob k), sem := waitSem (ws.getD 0 0), ctx := k, inc := x.inc,
             act := .set (waitVal (ws.getD 0 0)) }])
      ∧ (waitSem (ws.getD 0 0) < 56 → t.hubOps = w.hubOps)
      ∧ Entered w t core []))
  ∧ (∀ (s w : State) (dt : Nat) (core : Fin 6) (slot : Fin 4) (k : Nat) (x : Ctx) (ws : List Nat), w = s.wait dt → w.up = true →
    Issues w core slot k x (.issue 0x40 ws) → w.semMalformed k ws = false → semAct (ws.getD 0 0) = 2 →
    Leads (.semaphoreLaneAdd dt core slot) s (fun t =>
      CtxIs t k (fun y => y.entry = x.entry + 1 ∧ y.pos = true)
      ∧ (let hops := w.ringHops x.core ((w.job (ctxJob k)).cores.getD (semLane (ws.getD 0 0)) 0)
         t.laneSigs = w.laneSigs ++
          [{ due := w.cclk + 6 * hops, ctx := ctxKey (ctxJob k) (semLane (ws.getD 0 0)),
             sem := waitSem (ws.getD 0 0), amount := waitVal (ws.getD 0 0) }])
      ∧ Entered w t core []))
  ∧ (∀ (s w : State) (dt : Nat) (core : Fin 6) (slot : Fin 4) (k : Nat) (x : Ctx) (ws : List Nat), w = s.wait dt → w.up = true →
    Issues w core slot k x (.issue 0x40 ws) → w.semMalformed k ws = true → semAct (ws.getD 0 0) = 0 →
    Leads (.semaphoreAdd dt core slot) s (fun t => CoreFaulted t k 1 x))

/-- A signal between lanes raises the semaphore of a running context when its cycle has come (R147). In the hub an add raises
and a set replaces a shared semaphore, and tests wait; as the cycle closes, a wait that is satisfied consumes its amount and is
answered 8 CCLK later, and the answer lets the waiting context go on, holding what it consumed, unless its timer has run out
(R144, R148, R149). Choices of the model in it: log 62, 129. -/
def Obligations.SignalsReachLanesAndTheHub : Prop :=
  (∀ (s w : State) (dt : Nat) (g : LaneSig) (y : Ctx), w = s.wait dt → w.up = true → Calm w → w.laneSigs = [g] → g.due ≤ w.cclk →
    w.ctx? g.ctx = some y → y.listens = true → y.pos = true → y.waiting = .none → y.place = .inPlace →
    Leads (.laneSignalArrival dt) s (fun t =>
      t.laneSigs = [] ∧ CtxIs t g.ctx (fun z => z.entry = y.entry ∧ z.sem g.sem = (y.sem g.sem).raise g.amount none)
      ∧ (65535 < (y.sem g.sem).count + g.amount → t.reg (key 0x2901 0x0B) = satAdd 32 (w.reg (key 0x2901 0x0B)) 1)
      ∧ OnlyRegs signalSpans w t ∧ SameMem w t))
  ∧ (∀ (s w : State) (dt n : Nat) (o : HubOp), w = s.wait dt → w.up = true → Calm w → w.hubOps = [o] → o.due = w.cclk →
    (o.act = .add n ∨ o.act = .set n) →
    Leads (.hubOperation dt) s (fun t =>
      t.hubOps = [] ∧ t.hubWaits = w.hubWaits
      ∧ (o.act = .add n → t.hubSem o.part o.sem = (w.hubSem o.part o.sem).raise n none)
      ∧ (o.act = .set n → (t.hubSem o.part o.sem).count = n)
      ∧ t.ClosesC o.due 0 .hubGrant ∧ OnlyRegs signalSpans w t ∧ SameMem w t))
  ∧ (∀ (s w : State) (dt : Nat) (o : HubOp) (y : Ctx), w = s.wait dt → w.up = true → Calm w → w.hubOps = [o] → o.due = w.cclk →
    o.act = .test → w.ctx? o.ctx = some y → y.inc = o.inc →
    Leads (.hubOperation dt) s (fun t =>
      t.hubOps = [] ∧ t.hubWaits = addKey w.hubWaits o.ctx ∧ t.hub = w.hub ∧ t.ClosesC o.due 0 .hubGrant
      ∧ OnlyRegs signalSpans w t ∧ SameMem w t))
  ∧ (∀ (s t : State) (k : Nat) (y : Ctx), t = s.perform .hubGrant → Calm s → s.hubWaits = [k] → s.ctx? k = some y →
    56 ≤ waitSem y.word → s.jobPart (ctxJob k) < 6 →
    (let p := s.jobPart (ctxJob k)
     let n := waitSem y.word
     if waitVal y.word ≤ (s.hubSem p n).count then
       t.hubWaits = [] ∧ t.hubOps = s.hubOps ++ [{ due := s.cclk + 8, part := p, sem := n, ctx := k, inc := y.inc, act := .outcome }]
       ∧ (t.hubSem p n).count = (s.hubSem p n).count - (if waitKeep y.word then 0 else waitVal y.word)
     else t.hubWaits = [k] ∧ t.hubOps = s.hubOps ∧ t.hub = s.hub)
    ∧ OnlyRegs signalSpans s t ∧ SameMem s t)
  ∧ (∀ (s w : State) (dt : Nat) (o : HubOp) (y : Ctx), w = s.wait dt → w.up = true → Calm w → w.hubOps = [o] → o.due ≤ w.cclk →
    w.hubWaits = [] → o.act = .outcome → w.ctx? o.ctx = some y → y.inc = o.inc →
    Leads (.hubOperation dt) s (fun t =>
      t.hubOps = []
      ∧ (y.inTime o.due = true → CtxIs t o.ctx (fun z => z.entry = y.entry + 1 ∧ z.waiting = .none ∧
          (waitKeep y.word = false → tget (fun _ => 0) z.held o.sem = tget (fun _ => 0) y.held o.sem + waitVal y.word)))
      ∧ (y.inTime o.due = false → waitKeep y.word = false →
          t.hubSem o.part o.sem = (w.hubSem o.part o.sem).raise (waitVal y.word) none)
      ∧ OnlyRegs signalSpans w t ∧ SameMem w t))

/-- A wait on a private semaphore that is satisfied consumes its count, unless it keeps it, and goes on; any other wait
waits with its timer loaded, or with what a cancelled wait's timer has left, one on a shared semaphore with its test sent to the hub
(R148, R257). A wait whose timer has run out goes on where its descriptor says so, and is counted; otherwise its context faults with
cause 4h. Choices of the model in it: log 62. -/
def Obligations.WaitsConsumeOrWait : Prop :=
  (∀ (s w : State) (dt : Nat) (core : Fin 6) (slot : Fin 4) (k : Nat) (x : Ctx) (ws : List Nat), w = s.wait dt → w.up = true →
    Issues w core slot k x (.issue 0x41 ws) → zeroFrom ws 1 = true →
    x.late (w.timerFor x (waitTmo (ws.getD 0 0))) w.cclk = false →
    Leads (.wait dt core slot) s (fun t =>
      let d := ws.getD 0 0
      let have_ := min 65535 ((x.sem (waitSem d)).count + (tget (fun _ => (0, none)) x.record (waitSem d)).1)
      (if waitSem d < 56 ∧ waitVal d ≤ have_ then
         CtxIs t k (fun y => y.entry = x.entry + 1 ∧ y.waiting = .none ∧
           (y.sem (waitSem d)).count = (x.sem (waitSem d)).count - (if waitKeep d then 0 else waitVal d))
       else CtxIs t k (fun y => y.entry = x.entry ∧ y.waiting = .wait ∧ y.word = d ∧ y.timer = w.timerFor x (waitTmo d)))
      ∧ (56 ≤ waitSem d → t.hubOps = w.hubOps ++
          [{ due := w.cclk + 8, part := w.jobPart (ctxJob k), sem := waitSem d, ctx := k, inc := x.inc, act := .test }])
      ∧ Entered w t core []))
  ∧ (∀ (s w : State) (dt : Nat) (core : Fin 6) (slot : Fin 4) (k d : Nat) (x : Ctx), w = s.wait dt → w.up = true → Calm w →
    w.slotCtx core slot = some (k, x) → w.ctx? k = some x → x.waiting = .wait → x.cancelled = false → x.timer = some d →
    d < w.cclk →
    Leads (.waitTimeout dt core slot) s (fun t =>
      t.hubWaits.contains k = false
      ∧ (bit x.word 15 = true → CtxIs t k (fun y => y.entry = x.entry + 1 ∧ y.waiting = .none)
          ∧ t.reg (key 0x2901 0x0C) = satAdd 32 (w.reg (key 0x2901 0x0C)) 1 ∧ OnlyRegs signalSpans w t ∧ SameMem w t)
      ∧ (bit x.word 15 = false → CoreFaulted t k 4 x)))

/-- An acquisition waits until its cycle closes, when it takes its credits on every link of its path if they are free, its cycles
of waiting counted, and goes on; a release returns them; an acquisition whose timer has run out goes on without credits where its
descriptor says so, and otherwise its context faults with cause 4h (R150, R151). Choices of the model in it: log 61. -/
def Obligations.CreditsAreTakenAndReturned : Prop :=
  (∀ (s w : State) (dt : Nat) (core : Fin 6) (slot : Fin 4) (k : Nat) (x : Ctx) (ws : List Nat), w = s.wait dt → w.up = true →
    Issues w core slot k x (.issue 0x43 ws) → creditRel (ws.getD 0 0) = false → creditMalformed ws = false →
    x.late (w.timerFor x (creditTmo (ws.getD 0 0))) w.cclk = false →
    Leads (.creditAcquire dt core slot) s (fun t =>
      CtxIs t k (fun y => y.entry = x.entry ∧ y.waiting = .credit ∧ y.word = ws.getD 0 0 ∧ y.credits = x.credits
        ∧ y.timer = w.timerFor x (creditTmo (ws.getD 0 0)) ∧ y.issuedAt = w.cclk)
      ∧ t.linkUse = w.linkUse ∧ t.ClosesC w.cclk 0 .creditGrant ∧ Entered w t core []))
  ∧ (∀ (s t : State) (core : Fin 6) (slot : Fin 4) (k : Nat) (x : Ctx), t = s.perform .creditGrant → Calm s →
    s.slotCtx core slot = some (k, x) → s.ctx? k = some x → x.core = core → x.waiting = .credit → x.cancelled = false →
    x.inTime s.cclk = true → (∀ p ∈ s.ctxs, p.2.waiting = .credit → p = (k, x)) →
    (let path := s.pathLinks x.core (creditHops x.word) (creditDown x.word)
     (s.creditFree x x.word = true → path.Nodup →
       CtxIs t k (fun y => y.entry = x.entry + 1 ∧ y.waiting = .none ∧
         ∀ l ∈ path, y.creditsOn l = x.creditsOn l + creditN x.word)
       ∧ (∀ l ∈ path, t.linkUsed l = s.linkUsed l + creditN x.word)
       ∧ t.reg (kCore core 0x0A) = satAdd (widthOf (kCore core 0x0A)) (s.reg (kCore core 0x0A)) (s.cclk - x.issuedAt))
     ∧ (s.creditFree x x.word = false →
         CtxIs t k (fun y => y.entry = x.entry ∧ y.waiting = .credit ∧ y.credits = x.credits) ∧ t.linkUse = s.linkUse))
    ∧ OnlyRegs (at1 (kCore core 0x0A) :: signalSpans) s t ∧ SameMem s t)
  ∧ (∀ (s w : State) (dt : Nat) (core : Fin 6) (slot : Fin 4) (k : Nat) (x : Ctx) (ws : List Nat), w = s.wait dt → w.up = true →
    Issues w core slot k x (.issue 0x43 ws) → creditRel (ws.getD 0 0) = true → creditMalformed ws = false →
    (∀ l ∈ w.pathLinks x.core (creditHops (ws.getD 0 0)) (creditDown (ws.getD 0 0)), creditN (ws.getD 0 0) ≤ x.creditsOn l) →
    (w.pathLinks x.core (creditHops (ws.getD 0 0)) (creditDown (ws.getD 0 0))).Nodup →
    Leads (.creditRelease dt core slot) s (fun t =>
      let d := ws.getD 0 0
      let path := w.pathLinks x.core (creditHops d) (creditDown d)
      CtxIs t k (fun y => y.entry = x.entry + 1 ∧ ∀ l ∈ path, y.creditsOn l = x.creditsOn l - creditN d)
      ∧ (∀ l ∈ path, t.linkUsed l = w.linkUsed l - creditN d)
      ∧ t.ClosesC w.cclk 0 .creditGrant ∧ Entered w t core []))
  ∧ (∀ (s w : State) (dt : Nat) (core : Fin 6) (slot : Fin 4) (k d : Nat) (x : Ctx), w = s.wait dt → w.up = true → Calm w →
    w.slotCtx core slot = some (k, x) → w.ctx? k = some x → x.core = core → x.waiting = .credit → x.cancelled = false →
    x.timer = some d → d < w.cclk →
    Leads (.creditTimeout dt core slot) s (fun t =>
      (creditTact x.word = true →
        CtxIs t k (fun y => y.entry = x.entry + 1 ∧ y.waiting = .none ∧ y.credits = x.credits)
        ∧ t.reg (key 0x2901 0x0C) = satAdd 32 (w.reg (key 0x2901 0x0C)) 1 ∧ t.linkUse = w.linkUse
        ∧ t.reg (kCore core 0x0A) = satAdd (widthOf (kCore core 0x0A)) (w.reg (kCore core 0x0A)) (d - x.issuedAt)
        ∧ OnlyRegs (at1 (kCore core 0x0A) :: signalSpans) w t ∧ SameMem w t)
      ∧ (creditTact x.word = false → CoreFaulted t k 4 x)))

/-- A yield with work under way waits for quiescence; a quiescent one that holds something goes on and is counted; one that is
marked for pre-emption, or has SURR, leaves its running position and ranks again from the next cycle; any other goes on (R152,
R266). A deadline entry publishes its job's deadline or clears it once it has crossed to SCLK (R153, R286). Choices of the model
in it: log 64, 76. -/
def Obligations.YieldsAndDeadlinesTakeEffect : Prop :=
  (∀ op ∈ yieldCommands, ∀ (s w : State) (dt : Nat) (core : Fin 6) (slot : Fin 4) (k : Nat) (x : Ctx) (ws : List Nat),
    w = s.wait dt → w.up = true → Issues w core slot k x (.issue 0x42 ws) → bits (ws.getD 0 0) 63 9 = 0 →
    zeroFrom ws 1 = true → yieldSurr (ws.getD 0 0) = op.2 →
    Leads (op.1 dt core slot) s (fun t =>
      (if x.work ≠ 0 then CtxIs t k (fun y => y.entry = x.entry ∧ y.waiting = .yield ∧ y.pos = true)
       else if x.holds = true then
         CtxIs t k (fun y => y.entry = x.entry + 1 ∧ y.waiting = .none)
         ∧ t.reg (key 0x2901 0x0D) = satAdd 32 (((w.issuing k x).reg (key 0x2901 0x0D))) 1
       else if x.graceAt.isSome ∨ op.2 = true then
         CtxIs t k (fun y => y.entry = x.entry ∧ y.waiting = .yield ∧ y.pos = false ∧ y.away = true)
         ∧ t.OpensC (w.cclk + 1) 0 .stir
         ∧ (x.graceAt.isSome → t.reg (kJob (ctxJob k) 0x0B) =
             satAdd (widthOf (kJob (ctxJob k) 0x0B)) (w.reg (kJob (ctxJob k) 0x0B)) 1)
       else CtxIs t k (fun y => y.entry = x.entry + 1 ∧ y.waiting = .none ∧ y.pos = true))
      ∧ Entered w t core []))
  ∧ (∀ (s w u : State) (dt : Nat) (core : Fin 6) (slot : Fin 4) (k : Nat) (x y : Ctx) (ws : List Nat), w = s.wait dt → w.up = true →
    Issues w core slot k x (.issue 0x44 ws) → u = (w.issuing k x).catchAll → Runs u k y → deadSrc (ws.getD 0 0) ≠ 0 →
    deadMalformed ws = false → (deadSrc (ws.getD 0 0) = 2 → u.tsInside k (bits (ws.getD 2 0) 19 0) 8 = true) →
    (∀ l, (u.job (ctxJob k)).pubAt = some (u.cclk, l) → ¬ l < ctxLane k) →
    Leads (.deadlinePublish dt core slot) s (fun t =>
      t.OpensWith (u.toSclk u.cclk) (.publish (ctxJob k) (some (posAdd (u.deadBase k x ws).1 (signed 48 (ws.getD 1 0)))))
      ∧ (t.job (ctxJob k)).pubAt = some (u.cclk, ctxLane k) ∧ CtxIs t k (fun z => z.entry = y.entry + 1)
      ∧ OnlyRegs [schedSpan] u t ∧ SameMem u t))
  ∧ (∀ (s w : State) (dt : Nat) (core : Fin 6) (slot : Fin 4) (k : Nat) (x : Ctx) (ws : List Nat), w = s.wait dt → w.up = true →
    Issues w core slot k x (.issue 0x44 ws) → deadSrc (ws.getD 0 0) = 0 → deadMalformed ws = false →
    (∀ l, (w.job (ctxJob k)).pubAt = some (w.cclk, l) → ¬ l < ctxLane k) →
    Leads (.deadlineClear dt core slot) s (fun t =>
      t.OpensWith (w.toSclk w.cclk) (.publish (ctxJob k) none) ∧ CtxIs t k (fun y => y.entry = x.entry + 1)
      ∧ Entered w t core []))
  ∧ (∀ (s t : State) (j : Fin 64) (v : Nat), t = s.perform (.publish j (some v)) → v < 2 ^ 48 → s.active (fJob j) = true →
    t.reg (kJob j 7) = v ∧ t.bit' (kJob j 8) 31 = true ∧ OnlyRegs [at1 (kJob j 7), at1 (kJob j 8)] s t ∧ SameMem s t)
  ∧ (∀ (s t : State) (j : Fin 64), t = s.perform (.publish j none) →
    t.bit' (kJob j 8) 31 = false ∧ OnlyRegs [at1 (kJob j 8)] s t ∧ SameMem s t)

/-! The matrix arrays (03). -/

/-- A sound pass enters the queue of its half and its context goes on (R83, R131), and one with a descriptor fault is recorded and
tears its context down (R93, R94); the weight port begins to load for the first pass that needs weights once the shadow is free
(R77), and the shadow holds the block once all of it has been read and has arrived (R76). Choices of the model in it: log 49, 51. -/
def Obligations.PassesAreQueuedAndWeightsLoaded : Prop :=
  (∀ (s w u : State) (dt : Nat) (core : Fin 6) (slot : Fin 4) (k : Nat) (x y : Ctx) (ws : List Nat), w = s.wait dt → w.up = true →
    Issues w core slot k x (.issue 0x10 ws) → u = (w.issuing k x).catchAll →
    (let p := passOf k x w.cclk ws
     w.passWaits (2 * core + p.arr) p w.cclk = false → w.lowerFirst core slot (forHalf p) = false →
     (u.passFault (2 * core + p.arr) x p = false → Runs u k y →
       Leads (.passIssue dt core slot) s (fun t =>
         (t.half (2 * core + p.arr) p.halfIx).queue = (u.half (2 * core + p.arr) p.halfIx).queue ++ [p]
         ∧ (t.half (2 * core + p.arr) p.halfIx).acceptAt = some w.cclk
         ∧ Advanced t k y w.cclk 1 ∧ OnlyRegs [schedSpan] u t ∧ SameMem u t))
     ∧ (u.passFault (2 * core + p.arr) x p = true → gArray w.grade (2 * core + p.arr) = true → Calm u → u.ctx? k = some y →
       y.inc = x.inc → y.core = core →
       Leads (.passIssue dt core slot) s (fun t =>
         ArrayFaulted t (2 * core + p.arr) p.halfIx 1 p y ∧ OnlyRegs (faultSpans (ctxJob k)) u t))))
  ∧ (∀ (s w u : State) (dt : Nat) (core : Fin 6) (a h : Fin 2) (p : Pass), w = s.wait dt → w.up = true → u = w.catchUp →
    (w.half (2 * core + a) h).wants = some p → (w.half (2 * core + a) h).loadAt = none →
    (w.half (2 * core + a) h).shadow = none → (w.half (2 * core + a) h).freeAt ≤ w.cclk → p.at_ < w.cclk →
    Leads (.weightLoadStart dt core a h) s (fun t =>
      (t.half (2 * core + a) h).loadAt = some w.cclk ∧ (t.half (2 * core + a) h).loadNext = w.cclk
      ∧ (t.half (2 * core + a) h).loaded = [] ∧ (t.half (2 * core + a) h).queue = (u.half (2 * core + a) h).queue
      ∧ OnlyRegs [] u t ∧ SameMem u t))
  ∧ (∀ (s w u : State) (dt : Nat) (core : Fin 6) (a h : Fin 2) (p : Pass) (d : Nat), w = s.wait dt → w.up = true → u = w.catchUp →
    (u.half (2 * core + a) h).wants = some p → (u.half (2 * core + a) h).loadEnd p = some d → d ≤ w.cclk →
    Leads (.weightLoadComplete dt core a h) s (fun t =>
      (t.half (2 * core + a) h).loadAt = none
      ∧ (t.half (2 * core + a) h).shadow =
          some ({ ctx := p.ctx, inc := p.inc, fmts := p.fmts, block := (u.half (2 * core + a) h).loaded,
                  bad := (u.half (2 * core + a) h).loadBad }, d)
      ∧ (t.half (2 * core + a) h).queue = (u.half (2 * core + a) h).queue ∧ OnlyRegs [] u t ∧ SameMem u t))

/-- The first queued pass starts when it may and its first vectors have been read: one with new weights takes the shadow as its
active weights, one that keeps them goes on with those installed (R74, R78, R79), and the cycles that it waited for weights are
counted. When its results are visible it is counted, its context has one descriptor less under way, and its semaphore is signalled
(R72). The mode of an empty array changes when a due pass asks for it (R83). Choices of the model in it: log 49. -/
def Obligations.PassesStartAndComplete : Prop :=
  (∀ (s w u : State) (dt : Nat) (core : Fin 6) (a h : Fin 2) (d : Nat) (p : Pass) (q : List Pass) (x : Weights), w = s.wait dt →
    w.up = true → u = w.catchUp → (u.half (2 * core + a) h).queue = p :: q → (u.half (2 * core + a) h).mayEnter p ≤ w.cclk →
    u.feedSlot (2 * core + a) h = true → p.lead ≤ (u.half (2 * core + a) h).ahead.length →
    (p.keep = false → (u.half (2 * core + a) h).shadow = some (x, d) ∧ d < w.cclk) →
    (p.keep = true → (u.half (2 * core + a) h).active = some x ∧ x.ctx = p.ctx ∧ x.inc = p.inc ∧ x.fmts = p.fmts) →
    Leads (.passStart dt core a h) s (fun t =>
      let n := 2 * core.val + a
      (t.half n h).queue = q ∧ (t.half n h).active = some x ∧ (t.half n h).ahead = []
      ∧ (p.keep = false → (t.half n h).shadow = none ∧ (t.half n h).freeAt = w.cclk + 17)
      ∧ (∃ f, (t.half n h).flights = (u.half n h).flights ++ [f] ∧ f.pass = p ∧ f.e = w.cclk ∧ f.done = 0
          ∧ f.acts.map Act.at_ = (upTo (u.half n h).ahead.length).map (fun i => w.cclk + p.period * i))
      ∧ t.reg (kArr 0x40 n) = satAdd (widthOf (kArr 0x40 n)) (u.reg (kArr 0x40 n)) ((u.half n h).waited w.cclk)
      ∧ OnlyRegs [at1 (kArr 0x40 n)] u t ∧ SameMem u t))
  ∧ (∀ (s w u : State) (dt : Nat) (core : Fin 6) (a h : Fin 2) (f : Flight) (fs : List Flight) (x : Ctx), w = s.wait dt →
    w.up = true → u = w.catchUp → (u.half (2 * core + a) h).flights = f :: fs → f.done = f.pass.n → f.lastEntry + 22 ≤ w.cclk →
    (u.half (2 * core + a) h).spoiled f = false → Runs u f.pass.ctx x → x.inc = f.pass.inc →
    Leads (.passComplete dt core a h) s (fun t =>
      let n := 2 * core.val + a
      (t.half n h).flights = fs
      ∧ t.reg (kArr 0x30 n) = satAdd (widthOf (kArr 0x30 n)) (u.reg (kArr 0x30 n)) 1
      ∧ CtxIs t f.pass.ctx (fun y => y.work = x.work - 1 ∧ y.entry = x.entry ∧
          (f.pass.done = true → f.pass.sem < 56 → y.sem f.pass.sem = (x.sem f.pass.sem).raise 1 none))
      ∧ OnlyRegs (at1 (kArr 0x30 n) :: signalSpans) u t ∧ SameMem u t))
  ∧ (∀ (s w u : State) (dt : Nat) (core : Fin 6) (a : Fin 2), w = s.wait dt → w.up = true → u = w.catchAll →
    gArray w.grade (2 * core + a) = true →
    (w.array (2 * core + a)).l.empty w.cclk = true → (w.array (2 * core + a)).r.empty w.cclk = true →
    w.wantsMode core a (!(w.array (2 * core + a)).split) = true →
    Leads (.modeChange dt core a) s (fun t =>
      let n := 2 * core.val + a
      (t.array n).split = !(u.array n).split ∧ (∀ h : Fin 2, (t.half n h).active = none ∧ (t.half n h).shadow = none)
      ∧ OnlyRegs [] u t ∧ SameMem u t))

/-- A fault of an array half is recorded with its cause and tag, the passes of its context are drained, and the context is
torn down with core fault 8: poison at the first pass boundary after it, a trap in its cycle, a parity error while a front
installs weights, an order of the scheduler (R94, R95, R159). Choices of the model in it: log 49, 60, 122. -/
def Obligations.ArrayFaultsTearTheirContextDown : Prop :=
  (∀ (s w u : State) (dt : Nat) (core : Fin 6) (a h : Fin 2) (p : Pass) (ps : List Pass) (x : Ctx), w = s.wait dt → w.up = true →
    u = w.catchAll → gArray w.grade (2 * core + a) = true → Calm u → u.ctx? p.ctx = some x → x.inc = p.inc → x.core = core →
    (u.half (2 * core + a) h).passes = p :: ps →
    Leads (.arrayFault dt core a h .teardown) s (fun t =>
      ArrayFaulted t (2 * core + a) h 7 p x ∧ OnlyRegs (faultSpans (ctxJob p.ctx)) u t))
  ∧ (∀ (s w u : State) (dt : Nat) (core : Fin 6) (a h : Fin 2) (c : Nat) (p : Pass) (x : Ctx), w = s.wait dt → w.up = true →
    u = w.catchAll → gArray w.grade (2 * core + a) = true → Calm u → u.ctx? p.ctx = some x → x.inc = p.inc → x.core = core →
    u.woundOf (2 * core + a) h 6 = some (c, p) → c ≤ w.cclk →
    Leads (.arrayFault dt core a h .trap) s (fun t =>
      ArrayFaulted t (2 * core + a) h 6 p x ∧ OnlyRegs (faultSpans (ctxJob p.ctx)) u t))
  ∧ (∀ cause ∈ [ArrayCause.poisonedActivation, .poisonedWeight, .poisonedAccumulator],
    ∀ (s w u : State) (dt : Nat) (core : Fin 6) (a h : Fin 2) (c : Nat) (p : Pass) (x : Ctx), w = s.wait dt → w.up = true →
    u = w.catchAll → gArray w.grade (2 * core + a) = true → Calm u → u.ctx? p.ctx = some x → x.inc = p.inc → x.core = core →
    u.woundOf (2 * core + a) h (arrayCauseCode cause) = some (c, p) → u.boundaryAfter (2 * core + a) h c = true →
    Leads (.arrayFault dt core a h cause) s (fun t =>
      ArrayFaulted t (2 * core + a) h (arrayCauseCode cause) p x ∧ OnlyRegs (faultSpans (ctxJob p.ctx)) u t))
  ∧ (∀ (s w u : State) (dt : Nat) (core : Fin 6) (a h : Fin 2) (f : Flight) (x : Ctx), w = s.wait dt → w.up = true →
    u = w.catchAll → gArray w.grade (2 * core + a) = true → Calm u → u.ctx? f.pass.ctx = some x → x.inc = f.pass.inc →
    x.core = core →
    (u.half (2 * core + a) h).flights.find? (fun f => !f.pass.keep && decide (f.e < w.cclk) && decide (w.cclk ≤ f.e + 16)) = some f →
    Leads (.arrayFault dt core a h .weightParity) s (fun t =>
      ArrayFaulted t (2 * core + a) h 4 f.pass x ∧ OnlyRegs (faultSpans (ctxJob f.pass.ctx)) u t))

/-! The vector unit and the shunters (05). -/

/-- The issue commands of the vector unit with their operation codes (05 Table 5-5). -/
def vectorCommands : List ((Nat → Fin 6 → Fin 4 → Instr) × Nat) :=
  [(.copy, 0x00), (.add, 0x01), (.sub, 0x02), (.mul, 0x03), (.fma, 0x04), (.max, 0x05), (.min, 0x06), (.abs, 0x07),
   (.neg, 0x08), (.sel, 0x09), (.clamp, 0x0A), (.lut, 0x0B), (.recip, 0x0C), (.rsqrt, 0x0D), (.ssum, 0x10), (.smax, 0x11),
   (.smin, 0x12), (.lsum, 0x13), (.lmax, 0x14), (.lmin, 0x15)]

/-- COPY, ADD, SUB, MUL, FMA, MAX, MIN, ABS, NEG, SEL, CLAMP, LUT, RECIP, RSQRT, SSUM, SMAX, SMIN, LSUM, LMAX and LMIN each
put a sound descriptor of their operation in the queue of the core's vector unit, while it has room and serves no lower slot in this
cycle, and the context goes on; a faulty one tears its context down with cause 1h (R126, R131, R134). A descriptor that has made its
last write completes in its cycle: what it met is counted, its context has one descriptor less under way, its semaphore is
signalled; poison that it read faults its context with cause 3h (R138). Choices of the model in it: log 49, 56, 58, 124. -/
def Obligations.VectorDescriptorsRun : Prop :=
  (∀ op ∈ vectorCommands, ∀ (s w u : State) (dt : Nat) (core : Fin 6) (slot : Fin 4) (k : Nat) (x y : Ctx) (ws : List Nat),
    w = s.wait dt → w.up = true → Issues w core slot k x (.issue 0x20 ws) → u = (w.issuing k x).catchAll →
    bits (ws.getD 0 0) 12 8 = op.2 → (w.vec core).full w.cclk = false → w.lowerFirst core slot forVector = false →
    (vectorFault x (descOf k x w.cclk ws) = false → Runs u k y →
      Leads (op.1 dt core slot) s (fun t =>
        t.vec core = (u.vec core).take (descOf k x w.cclk ws) w.cclk
        ∧ (t.vec core).queue = (u.vec core).queue ++ [descOf k x w.cclk ws]
        ∧ Advanced t k y w.cclk 1 ∧ OnlyRegs [schedSpan] u t ∧ SameMem u t))
    ∧ (vectorFault x (descOf k x w.cclk ws) = true → Leads (op.1 dt core slot) s (fun t => CoreFaulted t k 1 x)))
  ∧ (∀ (s w u : State) (dt : Nat) (core : Fin 6) (f : Done) (fs : List Done) (x : Ctx), w = s.wait dt → w.up = true →
    u = w.catchUp → (u.vec core).finish = f :: fs → f.at_ ≤ w.cclk → Runs u f.desc.ctx x → x.inc = f.desc.inc →
    Leads (.vectorComplete dt core) s (fun t =>
      (t.vec core).finish = fs
      ∧ (f.bad = false →
          CtxIs t f.desc.ctx (fun y => y.work = x.work - 1 ∧ y.entry = x.entry ∧
            (bit (f.desc.w 0) 20 = true → bits (f.desc.w 0) 26 21 < 56 →
              y.sem (bits (f.desc.w 0) 26 21) = (x.sem (bits (f.desc.w 0) 26 21)).raise 1 none))
          ∧ (t.vec core).queue = (u.vec core).queue
          ∧ (f.specials = true → t.reg (key 0x2901 9) = satAdd 32 (u.reg (key 0x2901 9)) 1)
          ∧ (f.clipped = true → t.reg (key 0x2901 8) = satAdd 32 (u.reg (key 0x2901 8)) 1)
          ∧ OnlyRegs signalSpans u t ∧ SameMem u t)))
  ∧ (∀ (s w u : State) (dt : Nat) (core : Fin 6) (f : Done) (fs : List Done) (x : Ctx), w = s.wait dt → w.up = true →
    u = w.catchUp → (u.vec core).finish = f :: fs → f.at_ ≤ w.cclk → Runs u f.desc.ctx x → x.inc = f.desc.inc → f.bad = true →
    Leads (.vectorComplete dt core) s (fun t => CoreFaulted t f.desc.ctx 3 x))

/-- The issue commands of the shunters with the GATH and SCAT bits of their descriptors (05 R140). -/
def shunterCommands : List ((Nat → Fin 6 → Fin 4 → Instr) × Bool × Bool) :=
  [(.shunterCopy, false, false), (.shunterGather, true, false), (.shunterScatter, false, true)]

/-- A descriptor written whole leaves its shunter, and what it carries for a port is delivered (R142, R143). -/
def shunterDelivered (u : State) (core n : Nat) (f : Done) : State :=
  let v := u.setShunter core n { u.shunter core n with finish := (u.shunter core n).finish.drop 1 }
  if f.desc.dsp = 5 then (v.deliverPort core f.desc f.stream).1 else v

/-- A sound descriptor enters the queue of the shunter that it names, while it has room and serves no lower slot in this cycle,
and the context goes on; an empty shunter begins it, unless it needs a credit (R126, R131, R140, R142). A malformed one, one
without a credit and one that strays tear their context down with causes 1h, 5h and 2h (R141, R150). The head of a queue begins
when it may, a wait for a credit being counted (R142, R150). A descriptor that has made its last write completes in its cycle, and
one of open timing when it has been copied whole: its context has one descriptor less under way and its semaphore is signalled
(R142); one whose index strays faults its context with cause 2h (R141). Choices of the model in it: log 53, 54, 55, 56. -/
def Obligations.ShuntersTakeBeginAndComplete : Prop :=
  (∀ op ∈ shunterCommands, ∀ (s w v u : State) (dt : Nat) (core : Fin 6) (slot : Fin 4) (k : Nat) (x y : Ctx) (ws : List Nat),
    w = s.wait dt → w.up = true → Issues w core slot k x (.issue 0x30 ws) → bit (ws.getD 0 0) 34 = op.2.1 →
    bit (ws.getD 0 0) 35 = op.2.2 → v = w.issuing k x → u = v.catchUp →
    (let d := shuntDesc k x w.cclk ws
     (w.shunter core d.shn).full w.cclk = false → w.lowerFirst core slot (forShunter d.shn) = false →
     (v.shunterMalformed d = false → (d.dsp = 4 → v.pathCredits k d.hops d.down ≠ 0) → v.shunterStray d = false → Runs u k y →
       Leads (op.1 dt core slot) s (fun t =>
         (t.shunter core d.shn).queue = (u.shunter core d.shn).queue ++ [d]
         ∧ (t.shunter core d.shn).acceptAt = some w.cclk
         ∧ ((u.shunter core d.shn).queue = [] → (u.shunter core d.shn).begun = false → d.dsp ≠ 4 →
             (t.shunter core d.shn).begun = true ∧ (t.shunter core d.shn).start = max (u.shunter core d.shn).start w.cclk)
         ∧ Advanced t k y w.cclk 1 ∧ OnlyRegs [schedSpan] u t ∧ SameMem u t))
     ∧ (v.shunterMalformed d = true → Leads (op.1 dt core slot) s (fun t => CoreFaulted t k 1 x))
     ∧ (v.shunterMalformed d = false → d.dsp = 4 → v.pathCredits k d.hops d.down = 0 →
         Leads (op.1 dt core slot) s (fun t => CoreFaulted t k 5 x))
     ∧ (v.shunterMalformed d = false → (d.dsp = 4 → v.pathCredits k d.hops d.down ≠ 0) → v.shunterStray d = true →
         Leads (op.1 dt core slot) s (fun t => CoreFaulted t k 2 x))))
  ∧ (∀ (s w u : State) (dt : Nat) (core : Fin 6) (n : Fin 8) (d : Desc) (ds : List Desc), w = s.wait dt → w.up = true →
    u = w.catchUp → (u.shunter core n).queue = d :: ds → (u.shunter core n).begun = false → u.mayBegin d = true →
    max (u.shunter core n).start d.at_ ≤ w.cclk →
    Leads (.shunterStart dt core n) s (fun t =>
      let i := max (u.shunter core n).start d.at_
      (t.shunter core n).queue = d :: ds ∧ (t.shunter core n).begun = true ∧ (t.shunter core n).parts = 0
      ∧ (t.shunter core n).start = (if d.dsp = 4 then w.cclk else i)
      ∧ (d.dsp = 4 → t.reg (kCore core 0x0A) = satAdd (widthOf (kCore core 0x0A)) (u.reg (kCore core 0x0A)) (w.cclk - i))
      ∧ OnlyRegs [at1 (kCore core 0x0A)] u t ∧ SameMem u t))
  ∧ (∀ (s w u v : State) (dt : Nat) (core : Fin 6) (n : Fin 8) (f : Done) (fs : List Done) (x : Ctx), w = s.wait dt → w.up = true →
    u = w.catchUp → (u.shunter core n).finish = f :: fs → f.at_ ≤ w.cclk → v = shunterDelivered u core n f →
    Runs v f.desc.ctx x → x.inc = f.desc.inc →
    Leads (.shunterComplete dt core n) s (fun t =>
      (t.shunter core n).finish = (v.shunter core n).finish
      ∧ CtxIs t f.desc.ctx (fun y => y.work = x.work - 1 ∧ y.entry = x.entry ∧
          (f.desc.sdone = true → f.desc.ssem < 56 → y.sem f.desc.ssem = (x.sem f.desc.ssem).raise 1 none))
      ∧ OnlyRegs (at1 (kCore core 9) :: signalSpans) v t ∧ SameMem v t))
  ∧ (∀ (s w u v z : State) (dt : Nat) (core : Fin 6) (n : Fin 8) (d : Desc) (ds : List Desc) (x : Ctx), w = s.wait dt → w.up = true →
    u = w.catchUp → (u.shunter core n).finish = [] → (u.shunter core n).queue = d :: ds → (u.shunter core n).begun = true →
    (u.shunter core n).stray = none → u.fixed d = false → v = u.catchAll.copyRest core n w.cclk d →
    (v.shunter core n).stray = none → z = (if d.ssp = 3 ∨ d.dsp = 3 then { v with extOpen := true } else v) →
    d.dsp ≠ 5 → Runs z d.ctx x → x.inc = d.inc →
    Leads (.shunterComplete dt core n) s (fun t =>
      (t.shunter core n).queue = (v.shunter core n).queue.drop 1
      ∧ CtxIs t d.ctx (fun y => y.work = x.work - 1 ∧ y.entry = x.entry ∧
          (d.sdone = true → d.ssem < 56 → y.sem d.ssem = (x.sem d.ssem).raise 1 none))
      ∧ OnlyRegs (at1 (kCore core 9) :: signalSpans) z t ∧ SameMem z t))
  ∧ (∀ (s w u v : State) (dt : Nat) (core : Fin 6) (n : Fin 8) (d : Desc) (ds : List Desc) (x : Ctx), w = s.wait dt → w.up = true →
    u = w.catchUp → (u.shunter core n).finish = [] → (u.shunter core n).queue = d :: ds → (u.shunter core n).begun = true →
    (u.shunter core n).stray.isSome = true → v = u.copyRest core n w.cclk d → v.ctx? d.ctx = some x →
    Leads (.shunterComplete dt core n) s (fun t => CoreFaulted t d.ctx 2 x))

/-! Memory, banks and the top-k units (07, 08, 10). -/

/-- The drone and the patrol, while their memory is powered and their pass is on, read the words of their place once they are due
and the slot is idle (R220), with the effects of R220 to R223; a correctable word that another reader found is passed to the agent
that holds it, and an idle write slot takes the oldest corrected word of an agent from the queue (R207, R221); the refresh rate
follows the temperature (R217). Choices of the model in it: log 70, 72, 73, 74. -/
def Obligations.MemoryAgentsScrubWords : Prop :=
  (∀ (s w u : State) (dt : Nat) (l : Level) (agent : Nat) (word : Fin 16) (f : ReadFinding), w = s.wait dt → w.up = true →
    u = w.catchUp → w.hasAgent l agent = true → u.power.state < 2 → 0 < u.passTime l → u.walkDue l agent = true →
    u.droneIdle l agent false (u.droneWord l agent (u.walker (walkKey l agent))) = true →
    Leads (.droneRead dt l agent word f) s (fun t => Scrubbed u t l agent word f))
  ∧ (∀ (s w u : State) (dt : Nat) (c : Fin 4) (f : ReadFinding), w = s.wait dt → w.up = true → u = w.catchUp → u.power.state < 2 →
    0 < u.passTime .external → u.walkDue .external c = true →
    Leads (.patrolRead dt c f) s (fun t => Scrubbed u t .external c 0 f))
  ∧ (∀ (s w u : State) (dt : Nat) (l : Level) (agent : Nat) (passed : Option Nat) (b : Writeback), w = s.wait dt → w.up = true →
    u = w.passWord l agent passed → u.writebacks.find? (fun b => b.level == levelNum l && agentOf l b.word == agent) = some b →
    u.droneIdle l agent true b.word = true →
    Leads (.droneWriteback dt l agent passed) s (fun t =>
      t.writebacks = u.writebacks.erase b ∧ t.walker (walkKey l agent + 2) = u.cclk + 1 ∧ OnlyRegs [] u t ∧ SameMem u t))
  ∧ (∀ (s u : State) (l : Level) (agent word : Nat), u = s.catchUp → agentOf l word = agent →
    hasKey (u.store l).poison word = false → hasKey (u.store l).bad word = false →
    ⟨levelNum l, word⟩ ∉ u.writebacks →
    let t := s.passWord l agent (some word)
    t.writebacks = u.writebacks ++ [⟨levelNum l, word⟩]
      ∧ t.reg (key 0x2902 (levelNum l)) = satAdd 32 (u.reg (key 0x2902 (levelNum l))) 1
      ∧ OnlyRegs [counterSpan] u t ∧ SameMem u t)
  ∧ (∀ (s w : State) (dt : Nat) (m : Fin 3) (hot : Bool), w = s.wait dt → w.up = true → w.power.state < 2 →
    Leads (.refreshRateChange dt m hot) s (fun t =>
      t.field' (kMem 0x3E) 3 2 = m ∧ t.bit' (kMem 0x3E) 0 = hot ∧ OnlyRegs [at1 (kMem 0x3E)] w t ∧ SameMem w t))

/-- A pool that gets another size empties the model cache (R211). Entering wide mode zeroes the wide areas, whose cache entries
are gone, and leaving it empties the cache (R213). The determinism bit takes the value written, and its copy with it (R288); the
frames removed up to then have entered 2010h.05h (R287). Choices of the model in it: log 67, 127, 136. -/
def Obligations.PoolsWideModeAndDeterminismAreWritten : Prop :=
  (∀ (s w : State) (r : Route) (dt sub : Nat) (v : BitVec 16), w = s.wait dt → 0x20 ≤ sub → sub ≤ 0x25 → w.pins = [] →
    Accepts w r 0x2500 sub (leBytes 2 v.toNat) →
    Leads (.poolSizeWrite dt r sub v) s (fun t =>
      t.reg (kMem sub) = v.toNat ∧ t.cache = (if w.reg (kMem sub) = v.toNat then w.cache else [])
      ∧ OnlyRegs [at1 (kMem sub)] w t ∧ SameMem w t))
  ∧ (∀ (s w u : State) (r : Route) (dt : Nat), w = s.wait dt → u = w.catchAll → w.reg (kMem 0x27) = 0 →
    Accepts w r 0x2500 0x27 (leBytes 1 1) →
    Leads (.wideModeEnter dt r) s (fun t =>
      t.reg (kMem 0x27) = 1 ∧ t.cache = [] ∧ t.stack = u.stack.zero 8 (u.poolBase 1) (u.cores * 2 ^ 25)
      ∧ t.ts = u.ts ∧ t.acc = u.acc ∧ t.ext = u.ext ∧ t.valid = u.valid ∧ OnlyRegs [at1 (kMem 0x27)] u t))
  ∧ (∀ (s w u : State) (r : Route) (dt : Nat), w = s.wait dt → u = w.catchAll → w.reg (kMem 0x27) = 1 → u.pins = [] →
    Accepts w r 0x2500 0x27 (leBytes 1 0) →
    Leads (.wideModeExit dt r) s (fun t =>
      t.reg (kMem 0x27) = 0 ∧ t.cache = [] ∧ OnlyRegs [at1 (kMem 0x27)] u t ∧ SameMem u t))
  ∧ (∀ (s w u : State) (r : Route) (dt : Nat) (v : BitVec 8), w = s.wait dt → u = w.catchUp →
    Accepts w r 0x2010 1 (leBytes 1 v.toNat) →
    Leads (.determinismWrite dt r v) s (fun t =>
      t.reg (key 0x2010 1) = v.toNat ∧ t.bit' (key 0x2010 2) 0 = (v.toNat == 1) ∧ t.limits.upto = u.cclk
      ∧ OnlyRegs [at1 (key 0x2010 1), at1 (key 0x2010 2), at1 (key 0x2010 5)] u t ∧ SameMem u t))

/-- A CREATE whose areas fit begins (R228); at its completion the bank is READY at its places with no valid entry and its word
table and the hot part of it are zero. DELETE makes the bank ABSENT and frees its areas. Choices of the model in it: log 66, 75. -/
def Obligations.BanksAreCreatedAndDeleted : Prop :=
  (∀ (s w : State) (r : Route) (dt : Nat) (b : Fin 16), w = s.wait dt → Accepts w r (0x2B00 + b) 4 (leBytes 1 1) →
    (w.createBank b).isSome = true →
    Leads (.create dt r b) s (fun t =>
      (∃ e n, w.bankPlaces b = some (e, n) ∧ (t.bank b).creating = some (w.cclk, e, n))
      ∧ (0 < w.hotBytes b false → ∃ a, t.allotOf (ownHot b) = some a ∧ a.pool = 5
          ∧ a.size = roundUp (w.hotBytes b false) kb64 + roundUp (w.hotBytes b true) kb64)
      ∧ OnlyRegs [] w t ∧ SameMem w t))
  ∧ (∀ (s w u : State) (dt : Nat) (b : Fin 16) (c e n : Nat), w = s.wait dt → w.up = true → u = w.catchAll →
    (w.bank b).creating = some (c, e, n) →
    Leads (.createComplete dt b) s (fun t =>
      t.reg (kBank b 5) = 1 ∧ t.reg (kBank b 6) = e % 2 ^ widthOf (kBank b 6) ∧ t.reg (kBank b 7) = n % 2 ^ widthOf (kBank b 7)
      ∧ t.reg (kBank b 8) = ((u.hotBase b false).getD 0) % 2 ^ widthOf (kBank b 8)
      ∧ t.reg (kBank b 9) = 0 ∧ (t.bank b).creating = none
      ∧ t.ext = u.ext.zero 32 n (roundUp (4 * u.entryCount b) 32)
      ∧ t.stack = (match u.hotBase b true with
          | some a => u.stack.zero 8 a (roundUp (u.hotBytes b true) kb64)
          | none => u.stack)
      ∧ t.ts = u.ts ∧ t.acc = u.acc ∧ t.valid = u.valid
      ∧ OnlyRegs [(kBank b 5, kBank b 9)] u t))
  ∧ (∀ (s w : State) (r : Route) (dt : Nat) (b : Fin 16), w = s.wait dt → Accepts w r (0x2B00 + b) 4 (leBytes 1 2) →
    Leads (.delete dt r b) s (fun t =>
      (∀ i, 5 ≤ i → i ≤ 9 → t.reg (kBank b i) = 0) ∧ t.allotOf (ownHot b) = none
      ∧ (t.bank b).creating = none ∧ OnlyRegs [(kBank b 5, kBank b 9)] w t ∧ SameMem w t))

/-- The entry area and the word table of bank `b` do not overlap. -/
def tablesApart (s : State) (b : Nat) : Prop :=
  s.reg (kBank b 6) + 256 * s.entryCount b ≤ s.reg (kBank b 7) ∨ s.reg (kBank b 7) + 4 * s.entryCount b ≤ s.reg (kBank b 6)

/-- An ENROL record and a VOID record that arrive are executed as their cycle closes, in the order of their sources (R243): ENROL
puts its entry in the first void slot of its cell with a valid word that holds its NORM, and VOID clears the word of an entry
(R243, R244), once the runs under way have been served (R235). A load record writes its cells with each NORM computed (R246).
Choices of the model in it: log 119, 126. -/
def Obligations.RecordsEnrolVoidAndLoadEntries : Prop :=
  (∀ (s w : State) (dt : Nat) (src : Fin 8) (bs : Bytes), w = s.wait dt → w.up = true → leAt bs 1 1 ≠ 2 →
    Leads (.enrol dt src bs) s (fun t => t.ClosesC w.cclk src (.enrol bs) ∧ KeepsLater w t ∧ OnlyRegs [] w t ∧ SameMem w t))
  ∧ (∀ (s w : State) (dt : Nat) (src : Fin 8) (bs : Bytes), w = s.wait dt → w.up = true → leAt bs 1 1 = 2 →
    Leads (.void dt src bs) s (fun t => t.ClosesC w.cclk src (.enrol bs) ∧ KeepsLater w t ∧ OnlyRegs [] w t ∧ SameMem w t))
  ∧ (∀ (s u : State) (b : Fin 16) (bs : Bytes) (i : Nat), u = s.catchAll.serveRuns → bs.length = 288 →
    leAt bs 0 1 = b → leAt bs 1 1 = 1 → leAt bs 2 2 = 0 → (slice bs 12 20).any (· != 0#8) = false → s.bankReady b = true →
    leAt bs 4 4 < s.cellCount b → tablesApart u b → s.entryCount b ≤ u.entryCount b →
    (upTo (s.cellSize b)).find? (fun i => !bit (s.entryWord b (leAt bs 4 4 * s.cellSize b + i)) 31) = some i →
    let t := s.perform (.enrol bs)
    let id := leAt bs 4 4 * s.cellSize b + i
    t.ext.Holds (u.reg (kBank b 6) + 256 * id) (slice bs 32 256)
      ∧ t.ext.Holds (u.reg (kBank b 7) + 4 * id) (leBytes 4 (2 ^ 31 + normOf (slice bs 32 256)))
      ∧ t.reg (kBank b 0x0A) = satAdd (widthOf (kBank b 0x0A)) (u.reg (kBank b 0x0A)) 1
      ∧ OnlyRegs [at1 (kBank b 9), at1 (kBank b 0x0A), counterSpan] u t)
  ∧ (∀ (s u : State) (b : Fin 16) (bs : Bytes), u = s.catchAll.serveRuns →
    leAt bs 0 1 = b → leAt bs 1 1 = 2 → leAt bs 2 2 = 0 → (slice bs 12 20).any (· != 0#8) = false → s.bankReady b = true →
    leAt bs 4 4 < s.entryCount b →
    let t := s.perform (.enrol bs)
    t.ext.Holds (u.reg (kBank b 7) + 4 * leAt bs 4 4) (leBytes 4 0) ∧ OnlyRegs [at1 (kBank b 9), counterSpan] u t)
  ∧ (∀ (s w u : State) (dt : Nat) (b : Fin 16) (bs : Bytes), w = s.wait dt → w.up = true → u = w.catchAll.serveRuns →
    leAt bs 0 1 = b → leAt bs 1 1 = 3 → leAt bs 2 2 = 0 → leAt bs 12 4 = 0 → w.bankReady b = true → w.bankFree b = true →
    leAt bs 4 4 + leAt bs 8 4 ≤ w.cellCount b → bs.length = 16 + w.loadBytes bs → tablesApart u b →
    u.cellSize b = w.cellSize b → w.cellCount b ≤ u.cellCount b →
    Leads (.loadRecord dt bs) s (fun t =>
      (∀ c j, c < leAt bs 8 4 → j < w.cellSize b →
        let o := 16 + 260 * w.cellSize b * c
        let e := slice bs (o + 256 * j) 256
        let id := (leAt bs 4 4 + c) * w.cellSize b + j
        t.ext.Holds (u.reg (kBank b 6) + 256 * id) e
        ∧ t.ext.Holds (u.reg (kBank b 7) + 4 * id)
            (leBytes 4 (if bit (leAt bs (o + 256 * w.cellSize b + 4 * j) 4) 31 then 2 ^ 31 + normOf e else normOf e)))
      ∧ OnlyRegs [at1 (kBank b 9), at1 (kBank b 0x0E), counterSpan] u t))

/-- A sound command record enters the queue of the core's top-k unit while it has room; the unit starts the head once it is
free, and at the end of its time the next follows, the context has one descriptor less under way and the semaphore is
signalled (R238, R242). Choices of the model in it: log 52. -/
def Obligations.TopkCommandsRun : Prop :=
  (∀ (s w : State) (dt : Nat) (core : Fin 6) (slot : Fin 4) (bs : Bytes) (k : Nat) (x : Ctx), w = s.wait dt → w.up = true →
    w.slotCtx core slot = some (k, x) → w.ctx? k = some x → (w.topk core).queue.length < 4 →
    (let c : TopkCmd := { ctx := k, inc := x.inc, rec_ := bs, at_ := w.cclk }
     w.topkRefuses c = false →
     Leads (.topkCommand dt core slot bs) s (fun t =>
      (t.topk core).queue = (w.topk core).queue ++ [c] ∧ CtxIs t k (fun y => y.work = x.work + 1) ∧ OnlyRegs [] w t
      ∧ SameMem w t)))
  ∧ (∀ (s w : State) (dt : Nat) (core : Fin 6) (c : TopkCmd) (q : List TopkCmd), w = s.wait dt → w.up = true →
    (w.topk core).queue = c :: q → (w.topk core).started = none → c.at_ < w.cclk → (w.topk core).freeAt < w.cclk →
    Leads (.topkStart dt core) s (fun t =>
      (t.topk core).started = some w.cclk ∧ (t.topk core).queue = (w.topk core).queue ∧ OnlyRegs [] w t ∧ SameMem w t))
  ∧ (∀ (s w u : State) (dt : Nat) (core : Fin 6) (c : TopkCmd) (q : List TopkCmd) (a : Nat) (x : Ctx), w = s.wait dt →
    w.up = true → u = w.catchUp → (u.topk core).queue = c :: q → (u.topk core).started = some a → a + c.time ≤ u.cclk →
    Runs u c.ctx x → x.inc = c.inc →
    Leads (.topkComplete dt core) s (fun t =>
      (t.topk core).queue = q ∧ (t.topk core).started = none ∧ (t.topk core).freeAt = a + c.time - 1
      ∧ CtxIs t c.ctx (fun y => y.work = x.work - 1 ∧ y.entry = x.entry ∧
          (bit (c.w 0) 13 = true → bits (c.w 0) 19 14 < 56 →
            y.sem (bits (c.w 0) 19 14) = (x.sem (bits (c.w 0) 19 14)).raise 1 none))
      ∧ OnlyRegs signalSpans u t ∧ SameMem u t))

/-! The scheduler (09). -/

/-- A slice boundary is counted and taken, and marks the ready contexts in their positions that are no targets, where every
context of the partition is in place (R261, R263, R266). A marked context that holds nothing and has outlived the grace is
pre-empted by force and counted (R267), one that holds something is not; the hold timer of a context that runs out is counted and
marks it overrun, or tears it down where it is to leave its slot (R268); an ordered teardown removes the context, is counted, and
is recorded as fault 8 of its core while it is resident (R269). Choices of the model in it: log 76. -/
def Obligations.ContextsArePreemptedTimedOutAndTornDown : Prop :=
  (∀ (s w : State) (dt : Nat) (p : Fin 6), w = s.wait dt → w.up = true → w.boundaryDue p = true → Calm w →
    (w.ctxs.map Prod.fst).Nodup → (∀ j, (w.job j).restarts = []) →
    (∀ q ∈ w.ctxs, w.corePart q.2.core = p → q.2.place = .inPlace ∧ q.2.slot.isSome = true ∧ q.2.move = none) →
    Leads (.sliceBoundary dt p) s (fun t =>
      t.reg (key 0x2500 (0x19 + p)) = satAdd (widthOf (key 0x2500 (0x19 + p))) (w.reg (key 0x2500 (0x19 + p))) 1
      ∧ (let len := Nat.max 1 (bits (w.sliceCfg p) 28 0)
         if bit (w.sliceCfg p) 31 then
           (t.part p).lastAt = w.cclk
           ∧ (t.part p).counts = posAdd (w.part p).counts
               ((posDiff (w.hposCrossed (bits (w.sliceCfg p) 30 29)) (w.part p).counts).toNat / len * len)
         else (t.part p).lastAt = (w.part p).lastAt + (w.cclk - (w.part p).lastAt) / len * len)
      ∧ (∀ k x, w.ctx? k = some x → x.core < w.cores → w.corePart x.core = p → x.pos = true → x.graceAt = none →
          w.ready k x = true →
          CtxIs t k (fun y => y.pos = true ∧ y.entry = x.entry ∧ y.graceAt =
            if (w.targets x.core).contains k then none else some (w.cclk + w.reg (key 0x2500 (0x0D + p)))))
      ∧ OnlyRegs [at1 (key 0x2500 (0x19 + p)), schedSpan] w t ∧ SameMem w t))
  ∧ (∀ (s w u : State) (dt : Nat) (core : Fin 6) (slot : Fin 4) (k g : Nat) (x y : Ctx), w = s.wait dt → w.up = true →
    u = w.catchAll → Calm u → w.slotCtx core slot = some (k, x) → x.graceAt = some g → g < w.cclk → x.forced = false →
    x.holds = false → u.ctx? k = some y → y.pos = true → y.waiting = .none →
    Leads (.forcedPreemption dt core slot) s (fun t =>
      t.reg (kJob (ctxJob k) 0x0C) = satAdd (widthOf (kJob (ctxJob k) 0x0C)) (u.reg (kJob (ctxJob k) 0x0C)) 1
      ∧ CtxIs t k (fun z => z.entry = y.entry ∧ (y.work ≠ 0 → z.forced = true ∧ z.pos = true) ∧
          (y.work = 0 → z.away = true ∧ z.pos = false))
      ∧ OnlyRegs [schedSpan] u t ∧ SameMem u t))
  ∧ (∀ (s w : State) (dt : Nat) (core : Fin 6) (slot : Fin 4) (k g : Nat) (x : Ctx), w = s.wait dt → w.up = true →
    w.slotCtx core slot = some (k, x) → x.graceAt = some g → g < w.cclk → x.forced = false → x.holds = true →
    x.overrun = false → w.holdTime k ≠ 0 →
    Leads (.forcedPreemption dt core slot) s (fun t => t.ctxs = w.ctxs ∧ OnlyRegs [] w t ∧ SameMem w t))
  ∧ (∀ (s w : State) (dt : Nat) (j : Fin 64) (l : Fin 6) (x : Ctx) (d : Nat), w = s.wait dt → w.up = true →
    w.ctx? (ctxKey j l) = some x → x.holdDue = some d → d < w.cclk → x.overrun = false → x.evicted = none → x.graceAt = none →
    Leads (.holdTimeout dt j l) s (fun t =>
      t.reg (key 0x2901 0x11) = satAdd 32 (w.reg (key 0x2901 0x11)) 1
      ∧ t.ctx? (ctxKey j l) = some { x with overrun := x.holds } ∧ OnlyRegs [counterSpan] w t ∧ SameMem w t))
  ∧ (∀ (s w : State) (dt : Nat) (j : Fin 64) (l : Fin 6) (x : Ctx) (d : Nat), w = s.wait dt → w.up = true →
    (∀ i, (w.job i).leaving = false) → (∀ i, i ≠ ctxKey j l → (w.ctx i).evicted = none) →
    w.ctx? (ctxKey j l) = some x → x.holdDue = some d → d < w.cclk → x.overrun = false → x.evicted.isSome = true →
    Leads (.holdTimeout dt j l) s (fun t => t.ctx? (ctxKey j l) = none ∧ OnlyRegs (faultSpans j) w t))
  ∧ (∀ (s w : State) (dt : Nat) (j : Fin 64) (l : Fin 6) (x : Ctx), w = s.wait dt → w.up = true → Calm w →
    w.ctx? (ctxKey j l) = some x →
    Leads (.teardown dt j l) s (fun t =>
      t.ctx? (ctxKey j l) = none ∧ t.reg (kJob j 0x0D) = satAdd (widthOf (kJob j 0x0D)) (w.reg (kJob j 0x0D)) 1
      ∧ (x.slot.isSome = true → t.bit' (kCore x.core 3) 8 = true ∧ t.field' (kCore x.core 3) 23 20 = 8)
      ∧ OnlyRegs (faultSpans j) w t))

/-- No job is leaving, and no context but `k` is chosen to leave its slot. -/
def CalmBut (s : State) (k : Nat) : Prop := (∀ j, (s.job j).leaving = false) ∧ ∀ i, i ≠ k → (s.ctx i).evicted = none

/-- What a move of a context changes beside its own counts: what the scheduler shows, and errors of the words that it reads. -/
def moveSpans : Spans := [schedSpan, counterSpan, at1 (key 0x2500 0x36)]

/-- An unloaded context is staged and goes on to its save when its slot is wanted; a loaded one is in place; a saved one has its
image in its siding and its slot goes to the context that it was wanted for; a restored one is staged again, with the sequencer
state of its image, and one whose image is not its own faults its context (R253, R255, R264, R294). Each is counted. Choices of
the model in it: log 63, 131. -/
def Obligations.ContextMovesComplete : Prop :=
  (∀ (s w u : State) (dt : Nat) (j : Fin 64) (l : Fin 6) (x : Ctx) (c n : Nat), w = s.wait dt → w.up = true → u = w.catchAll →
    u.ctx? (ctxKey j l) = some x → CalmBut u (ctxKey j l) → x.move = some (.unload, c) → x.slot = some n →
    x.transfers ≤ x.moved → max c x.moveNext + 3 ≤ u.cclk → (∀ e, x.evicted = some e → e.1 ≠ ctxKey j l) →
    Leads (.contextUnloadComplete dt j l) s (fun t =>
      t.reg (key 0x2570 5) = satAdd (widthOf (key 0x2570 5)) (u.reg (key 0x2570 5)) 1
      ∧ CtxIs t (ctxKey j l) (fun y => y.place = .staged ∧ y.slot = some n ∧ y.move =
          match x.evicted with
          | some e => if (u.ctx e.1).slot.isSome then none else some (.save, u.cclk)
          | none => none)
      ∧ OnlyRegs (at1 (key 0x2570 5) :: moveSpans) u t ∧ SameMem (u.unloadData (ctxKey j l) x n) t))
  ∧ (∀ (s w u : State) (dt : Nat) (j : Fin 64) (l : Fin 6) (x : Ctx) (c n : Nat), w = s.wait dt → w.up = true → u = w.catchAll →
    u.ctx? (ctxKey j l) = some x → Calm u → x.move = some (.load, c) → x.slot = some n →
    x.transfers ≤ x.moved → max c x.moveNext + 14 ≤ u.cclk →
    Leads (.contextLoadComplete dt j l) s (fun t =>
      t.reg (key 0x2570 6) = satAdd (widthOf (key 0x2570 6)) (u.reg (key 0x2570 6)) 1
      ∧ (∀ a, x.swapFrom = some a → t.reg (key 0x2570 7) = (u.cclk - a) % 2 ^ widthOf (key 0x2570 7))
      ∧ CtxIs t (ctxKey j l) (fun y => y.place = .inPlace ∧ y.slot = some n ∧ y.move = none)
      ∧ OnlyRegs ((key 0x2570 6, key 0x2570 8) :: moveSpans) u t ∧ SameMem (u.loadData x n) t))
  ∧ (∀ (s w u : State) (dt : Nat) (j : Fin 64) (l : Fin 6) (x : Ctx) (c n : Nat), w = s.wait dt → w.up = true → u = w.catchAll →
    u.ctx? (ctxKey j l) = some x → CalmBut u (ctxKey j l) → x.move = some (.save, c) → x.slot = some n → c + 162 ≤ u.cclk →
    Leads (.contextSaveComplete dt j l) s (fun t =>
      t.reg (key 0x2570 3) = satAdd (widthOf (key 0x2570 3)) (u.reg (key 0x2570 3)) 1
      ∧ CtxIs t (ctxKey j l) (fun y => y.place = .siding ∧ y.saves = x.saves + 1 ∧ y.evicted = none)
      ∧ (∀ i a z, x.evicted = some (i, a) → i ≠ ctxKey j l → u.ctx? i = some z → z.slot = none → z.place = .siding →
          CtxIs t i (fun y => y.slot = some n ∧ y.move = some (.restore, u.cclk)))
      ∧ t.ext.Holds (sidingBase (ctxKey j l)) (u.sidingHeader (ctxKey j l) { x with saves := x.saves + 1 })
      ∧ t.ext.Holds (sidingBase (ctxKey j l) + slotImage + 81920) (x.seqBytes u.cclk)
      ∧ (∀ a, a < sidingBase (ctxKey j l) ∨ sidingBase (ctxKey j l) + sidingBytes ≤ a → t.ext.get a = u.ext.get a)
      ∧ (∀ a, a < u.staging x.core n ∨ u.staging x.core n + sidingBytes ≤ a → t.stack.get a = u.stack.get a)
      ∧ t.ts = u.ts ∧ t.acc = u.acc ∧ t.valid = u.valid
      ∧ OnlyRegs (at1 (key 0x2570 3) :: moveSpans) u t))
  ∧ (∀ (s w u : State) (dt : Nat) (j : Fin 64) (l : Fin 6) (x : Ctx) (c n : Nat), w = s.wait dt → w.up = true → u = w.catchAll →
    u.ctx? (ctxKey j l) = some x → Calm u → x.move = some (.restore, c) → x.slot = some n → c + 162 ≤ u.cclk →
    (u.sidingOk (ctxKey j l) = true → u.seqPoisoned (ctxKey j l) = false →
      Leads (.contextRestoreComplete dt j l) s (fun t =>
        t.reg (key 0x2570 4) = satAdd (widthOf (key 0x2570 4)) (u.reg (key 0x2570 4)) 1
        ∧ t.reg (kJob j 0x0F) = satAdd (widthOf (kJob j 0x0F)) (u.reg (kJob j 0x0F)) 1
        ∧ CtxIs t (ctxKey j l) (fun y => y.place = .staged ∧ y.slot = some n ∧ y.residentAt = u.cclk ∧ y.record = []
            ∧ y.entry = leAt (u.ext.bytes (sidingBase (ctxKey j l) + slotImage + 81920) 4) 0 4)
        ∧ (∀ a, a < u.staging x.core n ∨ u.staging x.core n + sidingBytes ≤ a → t.stack.get a = u.stack.get a)
        ∧ t.ts = u.ts ∧ t.acc = u.acc ∧ t.ext = u.ext ∧ t.valid = u.valid
        ∧ OnlyRegs (at1 (key 0x2570 4) :: at1 (key 0x2500 0x1F) :: moveSpans) u t))
    ∧ (u.sidingOk (ctxKey j l) = false →
        Leads (.contextRestoreComplete dt j l) s (fun t => CoreFaulted t (ctxKey j l) 8 x)))

/-- A model container that verifies and fits is stored in place of the model of its ID, whose entry leaves the cache; one that
fails, or that would replace a model in use, is counted; EtherCAT carries none (R273, R477). Once a job's entries stand, its lanes
start (R275). PIN and PRELOAD load a model that fits, but none in wide mode; UNPIN, REMOVE and FLUSH do as R276 says.
Choices of the model in it: log 65, 68, 107, 128. -/
def Obligations.TheModelStoreAndCacheAreCommanded : Prop :=
  (∀ (s w : State) (dt : Nat) (src : ModelSource) (bs : Bytes), w = s.wait dt → w.up = true → src ≠ .ethercat →
    (∀ p a u x q, src = .net p a u x q → (w.running (fNet p) || w.netDozes p) = true) →
    w.asleep = false → w.pins.contains (leAt bs 16 4) = false →
    Leads (.modelContainer dt src bs) s (fun t =>
      (match w.verify 2 bs with
       | .good o p =>
         if w.modelUsed (leAt bs 16 4) then
           t.models = w.models ∧ t.cache = w.cache ∧ t.reg (key 0x2901 0x13) = satAdd 32 (w.reg (key 0x2901 0x13)) 1
         else if w.modelFits bs p then
           t.models = w.models.filter (fun m => m.id != leAt bs 16 4) ++
             [{ id := leAt bs 16 4, version := leAt bs 20 4, payload := p, signed := o.signed, slot := o.slot }]
           ∧ t.cache = w.cache.filter (fun e => e.img || e.id != leAt bs 16 4)
         else t.models = w.models ∧ t.cache = w.cache
       | .bad _ _ => t.models = w.models ∧ t.cache = w.cache
           ∧ t.reg (kSec 0x0D) = satAdd (widthOf (kSec 0x0D)) (w.reg (kSec 0x0D)) 1)
      ∧ OnlyRegs [at1 (key 0x2020 0xF1), at1 (kSec 0x0C), at1 (kSec 0x0D), counterSpan, pages 0x2700 0x2701] w t ∧ SameMem w t))
  ∧ (∀ (s w : State) (dt : Nat) (bs : Bytes), w = s.wait dt → w.up = true →
    Leads (.modelContainer dt .ethercat bs) s (fun t => t.models = w.models ∧ t.cache = w.cache ∧ OnlyRegs [] w t ∧ SameMem w t))
  ∧ (∀ (s w : State) (dt : Nat) (j : Fin 64), w = s.wait dt → w.up = true → (w.job j).loading = true → w.running (fJob j) = true →
    Leads (.modelEntryLoaded dt j) s (fun t =>
      (t.job j).loading = false
      ∧ (∀ (l : Fin 6) (core : Nat), (w.job j).cores[l.val]? = some core → w.ctx? (ctxKey j l) = none →
          (w.job j).ended.contains l.val = false → CtxIs t (ctxKey j l) (fun y => y.entry = 0 ∧ y.core = core))
      ∧ OnlyRegs (at1 (key 0x2560 0x0A) :: schedSpan :: workSpans) w t))
  ∧ (∀ c ∈ [(Instr.pin, 1), (Instr.preload, 3)], ∀ (s w u : State) (r : Route) (dt : Nat), w = s.wait dt → u = w.catchAll →
    Accepts w r 0x2560 4 (leBytes 1 c.2) → (w.pinModel (w.reg (key 0x2560 5))).isSome = true →
    Leads (c.1 dt r) s (fun t =>
      let id := w.reg (key 0x2560 5)
      t.pins = (if c.2 = 1 then addKey w.pins id else w.pins)
      ∧ (if w.wide = true ∨ (w.modelEntry id).isSome = true then t.cache = w.cache ∧ OnlyRegs [] w t ∧ SameMem w t
         else
           (∃ e m, t.modelEntry id = some e ∧ w.models.find? (fun m => m.id == id) = some m ∧ e.loaded = true
             ∧ t.stack = u.stack.write 8 e.base (clean m.payload))
           ∧ t.ts = u.ts ∧ t.acc = u.acc ∧ t.ext = u.ext ∧ t.valid = u.valid ∧ OnlyRegs [(key 0x2560 9, key 0x2560 0x0A)] u t)))
  ∧ (∀ (s w : State) (r : Route) (dt : Nat), w = s.wait dt → Accepts w r 0x2560 4 (leBytes 1 2) →
    Leads (.unpin dt r) s (fun t =>
      t.pins = dropKey w.pins (w.reg (key 0x2560 5)) ∧ t.cache = w.cache ∧ OnlyRegs [] w t ∧ SameMem w t))
  ∧ (∀ (s w : State) (r : Route) (dt : Nat), w = s.wait dt → Accepts w r 0x2560 4 (leBytes 1 4) →
    w.modelUsed (w.reg (key 0x2560 5)) = false →
    Leads (.remove dt r) s (fun t =>
      t.models = w.models.filter (fun m => m.id != w.reg (key 0x2560 5))
      ∧ t.cache = w.cache.filter (fun e => e.img || e.id != w.reg (key 0x2560 5)) ∧ OnlyRegs [] w t ∧ SameMem w t))
  ∧ (∀ (s w : State) (r : Route) (dt : Nat), w = s.wait dt → Accepts w r 0x2560 4 (leBytes 1 5) →
    Leads (.flush dt r) s (fun t =>
      t.cache = w.cache.filter (fun e => !w.evictable e)
      ∧ t.reg (key 0x2560 9) = satAdd (widthOf (key 0x2560 9)) (w.reg (key 0x2560 9)) (w.cache.filter w.evictable).length
      ∧ OnlyRegs [at1 (key 0x2560 9)] w t ∧ SameMem w t))

/-- A STEP record is applied as its cycle closes, behind the joins and leaves of the cycle (R279, R280): it frees the slots that
were left, makes those joined before live, counts itself, records its position, and puts the writing of its table in hand, at
whose end its semaphore is signalled. A join enters the queue of its target and a leave is recorded against its sequence (R279). A
record of a reserved kind is dropped and counted (R278). Choices of the model in it: log 119. -/
def Obligations.BatchRecordsStepJoinAndLeave : Prop :=
  (∀ (s w : State) (dt : Nat) (core : Fin 6) (slot : Fin 4) (bs : Bytes) (k : Nat) (x : Ctx), w = s.wait dt → w.up = true →
    w.slotCtx core slot = some (k, x) →
    (leAt bs 0 1 = 1 → Leads (.step dt core slot bs) s (fun t =>
      t.ClosesC w.cclk 8 (.step k x.inc bs) ∧ KeepsLater w t ∧ t.jobs = w.jobs ∧ OnlyRegs [] w t ∧ SameMem w t))
    ∧ (leAt bs 0 1 = 0 ∨ 3 < leAt bs 0 1 → Leads (.step dt core slot bs) s (fun t =>
        t.reg (kJob (ctxJob k) 0x18) = satAdd (widthOf (kJob (ctxJob k) 0x18)) (w.reg (kJob (ctxJob k) 0x18)) 1
        ∧ t.jobs = w.jobs ∧ OnlyRegs [at1 (kJob (ctxJob k) 0x18), counterSpan] w t ∧ SameMem w t)))
  ∧ (∀ (s : State) (bs : Bytes) (k inc : Nat), bits (leAt bs 0 8) 47 20 = 0 → bits (leAt bs 0 8) 12 8 = 0 →
    bits (leAt bs 8 8) 63 48 = 0 → bits (leAt bs 16 8) 63 20 = 0 → leAt bs 16 8 % 64 = 0 →
    (bit (leAt bs 0 8) 13 = false → bits (leAt bs 0 8) 19 14 = 0) → leAt bs 24 8 = 0 →
    (∀ p, (s.job (ctxJob k)).lastStep = some p → 0 < posDiff (leAt bs 8 8) p) → s.tsInside k (leAt bs 16 8) 8256 = true →
    let t := s.perform (.step k inc bs)
    let j := ctxJob k
    t.reg (kJob j 0x12) = (s.reg (kJob j 0x12) + 1) % 2 ^ widthOf (kJob j 0x12)
      ∧ (t.job j).lastStep = some (leAt bs 8 8) ∧ (t.job j).dropped = 0
      ∧ ((s.job j).joins.filter (fun a => reached (leAt bs 8 8) a.pos) = [] → ∀ n, n < 256 →
          (t.seq j n).state = (if (s.seq j n).leave && (s.seq j n).live then 3
            else if (s.seq j n).state = 3 then 0 else if (s.seq j n).state = 2 then 1 else (s.seq j n).state))
      ∧ (∃ v, t.tables = s.tables ++ [v] ∧ v.ctx = k ∧ v.inc = inc ∧ v.core = (s.ctx k).core ∧ v.addr = leAt bs 16 8
          ∧ v.due = s.cclk + 9 ∧ v.data.length = 8256 ∧ leAt v.data 0 4 = t.reg (kJob j 0x12) % 2 ^ 32
          ∧ leAt v.data 16 8 = leAt bs 8 8
          ∧ ∀ n, n < 256 → leAt v.data (64 + 32 * n) 1 = (t.seq j n).state % 256)
      ∧ (bit (leAt bs 0 8) 13 = true → t.OpensC (s.cclk + 42) 0 (.tableDone k inc (bits (leAt bs 0 8) 19 14)))
      ∧ KeepsLater s t ∧ OnlyRegs [schedSpan] s t ∧ SameMem s t)
  ∧ (∀ (s u : State) (k sem : Nat) (x : Ctx), u = s.catchUp → Runs u k x → sem < 56 →
    let t := s.perform (.tableDone k x.inc sem)
    (u.tables.any (fun v => v.ctx == k && v.inc == x.inc) = true →
      t.OpensC (u.cclk + 1) 0 (.tableDone k x.inc sem) ∧ t.ctxs = u.ctxs ∧ OnlyRegs [] u t ∧ SameMem u t)
    ∧ (u.tables.any (fun v => v.ctx == k && v.inc == x.inc) = false →
        CtxIs t k (fun y => y.entry = x.entry ∧ y.sem sem = (x.sem sem).raise 1 none) ∧ OnlyRegs signalSpans u t ∧ SameMem u t))
  ∧ (∀ (s w : State) (dt : Nat) (core : Fin 6) (slot : Fin 4) (bs : Bytes) (k : Nat) (x : Ctx), w = s.wait dt → w.up = true →
    w.slotCtx core slot = some (k, x) → leAt bs 0 1 = 3 →
    (let v := leAt bs 0 8
     let j := bits v 39 34
     bits v 47 40 = 0 → bits v 33 8 = 0 → w.running (fJob j) = true → w.jobDom j = w.jobDom (ctxJob k) →
     (w.job j).joins.length < 64 →
     Leads (.join dt core slot bs) s (fun t =>
      (t.job j).joins = (w.job j).joins ++
        [{ pos := bits (leAt bs 8 8) 47 0, claimKey := bits (leAt bs 8 8) 63 48, payload := slice bs 16 16 }]
      ∧ (t.job j).seqs = (w.job j).seqs ∧ OnlyRegs [] w t ∧ SameMem w t)))
  ∧ (∀ (s w : State) (dt : Nat) (core : Fin 6) (slot : Fin 4) (bs : Bytes) (k : Nat) (x : Ctx), w = s.wait dt → w.up = true →
    w.slotCtx core slot = some (k, x) → leAt bs 0 1 = 2 →
    (let n := bits (leAt bs 0 8) 47 40
     bits (leAt bs 0 8) 39 8 = 0 → leAt bs 12 4 = 0 → (bs.drop 16).any (· != 0#8) = false →
     (w.seq (ctxJob k) n).live = true → (w.seq (ctxJob k) n).num = leAt bs 8 4 →
     Leads (.leave dt core slot bs) s (fun t =>
      (t.seq (ctxJob k) n).leave = true ∧ (∀ i, i ≠ n → t.seq (ctxJob k) i = w.seq (ctxJob k) i)
      ∧ (t.job (ctxJob k)).joins = (w.job (ctxJob k)).joins ∧ OnlyRegs [] w t ∧ SameMem w t)))

/-! Starting modules together (10). -/

/-- What the end of an armed state may show: bases of resources given back. -/
def givenBackSpans : Spans := [pages 0x2510 0x254F, pages 0x2700 0x2701, pages 0x2730 0x2730, pages 0x2A00 0x2A0F]

/-- ARM arms a participant with its timer, DISARM ends the armed state and gives back what was placed (R298, R300). After
100 beats of high the leader drives MSYNC and the barrier is registered with its count (R299, R303); DB beats later the armed
functions run (R302). The timer ends the armed state (R301). -/
def Obligations.TheBarrierStartsFunctionsTogether : Prop :=
  (∀ (s w : State) (r : Route) (dt : Nat), w = s.wait dt → Accepts w r 0x2730 0x11 (leBytes 1 1) → w.barrier = {} →
    w.participant = true → (∃ u, w.armCheck = .ok u) →
    Leads (.barrierArm dt r) s (fun t =>
      (let due := if w.reg (kLink 0x13) = 0 then none else some (w.beat + 100 * w.reg (kLink 0x13))
       t.barrier = { armed := true, since := w.beat, fns := w.masked, due := due })
      ∧ t.bit' (kLink 0x14) 3 = false
      ∧ OnlyRegs [at1 (kLink 0x14), pages 0x2510 0x254F, pages 0x2560 0x2560] w t ∧ SameMem w t))
  ∧ (∀ (s w : State) (r : Route) (dt : Nat), w = s.wait dt → Accepts w r 0x2730 0x11 (leBytes 1 2) →
    Leads (.barrierDisarm dt r) s (fun t =>
      t.barrier = {}
      ∧ (∀ j : Fin 64, fJob j ∈ w.barrier.fns → w.idle (fJob j) = true → t.reg (kJob j 9) = 0 ∧ t.allotOf (ownJob j) = none)
      ∧ OnlyRegs givenBackSpans w t ∧ SameMem w t))
  ∧ (∀ (s w : State) (dt : Nat), w = s.wait dt → w.up = true → w.hundredHigh = true → w.bit' (kLink 0x10) 1 = true →
    Leads (.leaderDrive dt) s (fun t =>
      t.barrier = { w.barrier with drive := true } ∧ t.bit' (kLink 0x14) 2 = true ∧ OnlyRegs [at1 (kLink 0x14)] w t ∧ SameMem w t))
  ∧ (∀ (s w : State) (dt : Nat), w = s.wait dt → w.up = true → w.hundredHigh = true →
    (∀ d, w.barrier.due = some d → w.beat ≤ d) →
    Leads (.barrierRegistered dt) s (fun t =>
      t.barrier.at_ = some w.beat ∧ t.bit' (kLink 0x14) 2 = false
      ∧ t.reg (kLink 0x15) = (w.cclkCount - w.ccount % 12) % 2 ^ widthOf (kLink 0x15)
      ∧ OnlyRegs [at1 (kLink 0x14), at1 (kLink 0x15)] w t ∧ SameMem w t))
  ∧ (∀ (s w : State) (dt b : Nat), w = s.wait dt → w.up = true → w.barrier.at_ = some b → b + w.reg (kLink 0x12) ≤ w.beat →
    (∀ f ∈ w.barrier.fns, (∃ d : Fin 4, f = fDomain d) ∨ ∃ j : Fin 64, f = fJob j) →
    Leads (.barrierAction dt) s (fun t =>
      t.barrier = {} ∧ (∀ f ∈ w.barrier.fns, w.fn f = .stopped → t.fn f = .running)
      ∧ t.reg (kLink 0x18) = satAdd (widthOf (kLink 0x18)) (w.reg (kLink 0x18)) 1
      ∧ (w.bit' (kLink 0x10) 2 = true → t.alignS = w.alignS + 5 * (b + w.reg (kLink 0x12))
          ∧ t.alignC = w.alignC + 12 * (b + w.reg (kLink 0x12)))
      ∧ (w.bit' (kLink 0x10) 2 = false → t.alignS = w.alignS ∧ t.alignC = w.alignC)
      ∧ OnlyRegs (pages 0x2010 0x2010 :: pages 0x2020 0x2020 :: pages 0x2108 0x217F :: (givenBackSpans ++ workSpans)) w t))
  ∧ (∀ (s w : State) (dt d : Nat), w = s.wait dt → w.up = true → w.barrier.armed = true → w.barrier.at_ = none → w.barrier.due = some d →
    d < w.beat →
    Leads (.barrierTimeout dt) s (fun t =>
      t.barrier = {} ∧ t.bit' (kLink 0x14) 3 = true
      ∧ t.reg (kLink 0x19) = satAdd (widthOf (kLink 0x19)) (w.reg (kLink 0x19)) 1
      ∧ t.reg (key 0x2904 7) = satAdd 32 (w.reg (key 0x2904 7)) 1 ∧ OnlyRegs (counterSpan :: givenBackSpans) w t ∧ SameMem w t))

/-! Sensor ports and sensor control (11, 12). -/

/-- A start on a RUNNING stream takes the position of the domain (ARRIVAL), or that of the eligible entry at the head of the
queue, and without one is dropped and counted (R315, R317); a line's end delivers it, cut, short or whole (R309, R311, R312);
a short frame is filled and a long one counted (R313); an entry whose window has run out leaves as a fill line (R315).
Choices of the model in it: log 26, 29, 30. -/
def Obligations.LinesAndFramesArePairedAndDelivered : Prop :=
  (∀ (s w : State) (dt : Nat) (p : Fin 36) (fval : Bool), w = s.wait dt → w.up = true →
    Leads (.lineStart dt p fval) s (fun t =>
      let q := w.streamOf p
      t.bit' (kPort p 0x0C) 9 = true
      ∧ (w.running (fStream q) = false → t.port p = w.port p ∧ OnlyRegs [at1 (kPort p 0x0C)] w t)
      ∧ (w.running (fStream q) = true → w.frameMode q = false → (w.bit' (kPort q 1) 9 && !fval) = false →
          (w.arrival q = true →
            (t.port p).line = some { stamp := w.lpos (w.streamDom q), row := 0, tags := t.reg (kPort q 0x10) })
          ∧ (w.arrival q = false → (w.port p).queue = [] → (t.port p).line = (w.port p).line
              ∧ t.reg (kPort q 0x13) = satAdd (widthOf (kPort q 0x13)) (w.reg (kPort q 0x13)) 1
              ∧ t.reg (key 0x2903 6) = satAdd 32 (w.reg (key 0x2903 6)) 1)
          ∧ (∀ e es, w.arrival q = false → (w.port p).queue = e :: es → (∀ x ∈ es, x.missed = false) →
              w.sclk ≤ e.at_ + w.reg (kPort q 8) → e.at_ + w.reg (kPort q 7) ≤ w.sclk →
              (t.port p).line = some { stamp := e.pos, row := 0, tags := t.reg (kPort q 0x10) } ∧ (t.port p).queue = es))
      ∧ OnlyRegs portSpans w t ∧ SameMem w t))
  ∧ (∀ (s w : State) (dt : Nat) (p : Fin 36) (edges : List (BitVec 4)) (ovf : Option Nat) (l : CurLine), w = s.wait dt → w.up = true →
    (w.port p).line = some l → w.running (fStream (w.streamOf p)) = true →
    Leads (.lineEnd dt p edges ovf) s (fun t =>
      let q := w.streamOf p
      let px := w.received q edges
      let n := w.partWidth q
      let end_ := match ovf with
        | some i => (Nat.min i n, 5)
        | none => if px.length < n then (px.length, 3) else (n, 0)
      let part : LinePart :=
        { stamp := l.stamp, row := l.row, reason := end_.2, tags := l.tags, pixels := w.padLine q end_.1 px,
          frame := w.reg (kPort q 0x0E) - 1 }
      (t.port p).line = none ∧ t.bit' (kPort p 0x0C) 9 = false ∧ (t.port p).fifo = (w.port p).fifo ++ [part]
      ∧ t.reg (kPort q 0x11) = satAdd (widthOf (kPort q 0x11)) (w.reg (kPort q 0x11)) 1
      ∧ (ovf.isSome = true → t.bit' (kPort p 0x0C) 11 = true) ∧ t.Raised (evLine p) w.sclk
      ∧ OnlyRegs portSpans w t ∧ SameMem w t))
  ∧ (∀ (s w : State) (dt : Nat) (p : Fin 36), w = s.wait dt → w.up = true → w.running (fStream (w.streamOf p)) = true →
    w.frameMode (w.streamOf p) = true → w.arrival (w.streamOf p) = true →
    Leads (.frameStart dt p) s (fun t =>
      let q := w.streamOf p
      t.bit' (kPort p 0x0C) 10 = true
      ∧ (t.port p).frame = some { taken := true, stamp := w.lpos (w.streamDom q), rows := 0, tags := w.reg (kPort q 0x10) }
      ∧ t.reg (kPort q 0x0E) = (if p = q then (w.reg (kPort q 0x0E) + 1) % 2 ^ widthOf (kPort q 0x0E) else w.reg (kPort q 0x0E))
      ∧ OnlyRegs portSpans w t ∧ SameMem w t))
  ∧ (∀ (s w : State) (dt : Nat) (p : Fin 36) (f : CurFrame), w = s.wait dt → w.up = true → w.active (fStream (w.streamOf p)) = true →
    (w.port p).frame = some f →
    Leads (.frameEnd dt p) s (fun t =>
      let q := w.streamOf p
      t.bit' (kPort p 0x0C) 10 = false ∧ (t.port p).frame = none
      ∧ (t.port p).fifo.length = (w.port p).fifo.length + (if f.taken then w.reg (kPort q 3) - f.rows else 0)
      ∧ (f.taken = true → f.rows < w.reg (kPort q 3) → p = q →
          t.field' (kPort q 0x14) 15 0 = satAdd 16 (w.field' (kPort q 0x14) 15 0) 1)
      ∧ (f.taken = true → w.reg (kPort q 3) < f.rows → p = q →
          t.field' (kPort q 0x14) 31 16 = satAdd 16 (w.field' (kPort q 0x14) 31 16) 1)
      ∧ OnlyRegs portSpans w t ∧ SameMem w t))
  ∧ (∀ (s w : State) (dt : Nat) (p : Fin 36) (e : PairEntry) (es : List PairEntry), w = s.wait dt → w.up = true →
    w.running (fStream (w.streamOf p)) = true → w.frameMode (w.streamOf p) = false → (w.port p).queue = e :: es →
    e.at_ + w.reg (kPort (w.streamOf p) 8) < w.sclk →
    (∀ x ∈ es, x.missed = false ∧ w.sclk ≤ x.at_ + w.reg (kPort (w.streamOf p) 8)) →
    Leads (.pairingExpiry dt p) s (fun t =>
      (t.port p).queue = es
      ∧ (t.port p).fifo.map (fun x => (x.stamp, x.reason)) = (w.port p).fifo.map (fun x => (x.stamp, x.reason)) ++ [(e.pos, 2)]
      ∧ OnlyRegs portSpans w t ∧ SameMem w t))

/-- The front end of stream `q` once `m` more lines have entered it. -/
def entered (q : Nat) : Nat → State → Option State
  | 0, s => some s
  | m + 1, s => (s.enterChain q).bind (entered q m)

/-- The line that can leave the front end of stream `q` now, with its pixels. -/
def lineOut (s : State) (q : Nat) : Option (IfeLine × List (List (Nat × Bool))) :=
  (s.nextOut q).bind (fun l => (s.reconstruct q l (s.ife q).rows).map (fun px => (l, px)))

/-- A lost port clock shows 0 kHz and faults a RUNNING stream with its queues emptied, one that is present shows its rate (R309,
R322). A deskew that completes centres each pair in its longest run of 20 passing taps or more (R310). A copied flat-field table
lets its stream run (R349), and the front end takes lines in until the next can be written, and writes it (R345). Choices of the
model in it: log 28, 42. -/
def Obligations.PortClocksDeskewAndFrontEndsAct : Prop :=
  (∀ (s w : State) (dt : Nat) (p : Fin 36), w = s.wait dt → w.up = true → w.bit' (kPort p 0x0C) 15 = true →
    Leads (.portClockLoss dt p) s (fun t =>
      let q := w.streamOf p
      t.bit' (kPort p 0x0C) 15 = false ∧ t.reg (kPort p 0x0D) = 0
      ∧ (w.running (fStream q) = true → t.fn (fStream q) = .faulted ∧
          ∀ r ∈ w.gangPorts q, (t.port r).queue = [] ∧ (t.port r).line = none ∧ (t.port r).frame = none)
      ∧ (w.running (fStream q) = false → t.fn (fStream q) = w.fn (fStream q) ∧ t.ports = w.ports)
      ∧ OnlyRegs (at1 (key 0x2020 (fStream q)) :: pages 0x2300 0x2323 :: portSpans) w t ∧ SameMem w t))
  ∧ (∀ (s w : State) (dt : Nat) (p : Fin 36) (kHz : BitVec 32), w = s.wait dt → w.up = true → w.fn (fStream (w.streamOf p)) ≠ .off →
    Leads (.portClockPresent dt p kHz) s (fun t =>
      t.bit' (kPort p 0x0C) 15 = true ∧ t.reg (kPort p 0x0D) = kHz.toNat
      ∧ (750000 < kHz.toNat → t.bit' (kPort p 0x0C) 12 = true ∧ t.reg (key 0x2903 2) = satAdd 32 (w.reg (key 0x2903 2)) 1)
      ∧ OnlyRegs [at1 (kPort p 0x0C), at1 (kPort p 0x0D), counterSpan] w t ∧ SameMem w t))
  ∧ (∀ (s w : State) (r : Route) (dt : Nat) (p : Fin 36), w = s.wait dt → Accepts w r (0x2200 + p) 0x0B (leBytes 1 1) →
    Leads (.deskew dt r p) s (fun t =>
      t.bit' (kPort p 0x0C) 14 = true ∧ OnlyRegs [at1 (kPort p 0x0C)] w t ∧ SameMem w t))
  ∧ (∀ (s w : State) (dt : Nat) (p : Fin 36) (passing : List (List Bool)), w = s.wait dt → w.up = true → w.bit' (kPort p 0x0C) 14 = true →
    Leads (.deskewComplete dt p passing) s (fun t =>
      t.bit' (kPort p 0x0C) 14 = false
      ∧ (∀ i, i < w.lanes (w.streamOf p) →
          let r := longestRun ((passing.getD i []).take 128) 0 (0, 0) (0, 0)
          (20 ≤ r.2 → t.field' (kPort p 9) (8 * i + 6) (8 * i) = (2 * r.1 + r.2 - 1) / 2)
          ∧ (r.2 < 20 → t.bit' (kPort p 0x0C) 13 = true))
      ∧ OnlyRegs [at1 (kPort p 9), at1 (kPort p 0x0C)] w t ∧ SameMem w t))
  ∧ (∀ (s w u : State) (dt : Nat) (p : Fin 36), w = s.wait dt → w.up = true → u = w.catchAll → (w.ife p).copying = true →
    u.launches = [Launch.mk [fStream p] false] →
    Leads (.flatFieldCopyComplete dt p) s (fun t =>
      (t.ife p).copying = false ∧ t.bit' (kIfe p 0x11) 0 = true ∧ t.launches = []
      ∧ t.fn (fStream p) = .running ∧ t.pend (fStream p) = false
      ∧ OnlyRegs [at1 (key 0x2020 (fStream p)), pages 0x2200 0x22FF, pages 0x2300 0x2323] u t
      ∧ SameMem (u.copyTable p) t))
  ∧ (∀ (s w u v : State) (dt m : Nat) (p : Fin 36) (l : IfeLine) (px : List (List (Nat × Bool))), w = s.wait dt → w.up = true →
    u = w.catchAll → w.active (fStream (w.streamOf p)) = true → m ≤ (u.port (w.streamOf p)).fifo.length →
    (∀ i x, i < m → entered (w.streamOf p) i u = some x → lineOut x (w.streamOf p) = none) →
    entered (w.streamOf p) m u = some v → lineOut v (w.streamOf p) = some (l, px) →
    Leads (.lineWriteComplete dt p) s (fun t =>
      let q := w.streamOf p
      let n := (v.ife q).written
      (t.ife q).written = n + 1 ∧ t.reg (kIfe q 0x10) = n % 2 ^ widthOf (kIfe q 0x10)
      ∧ (w.bit' (kIfe q 2) 0 = false ∨ v.lastOfBlock q n l = false → t.stack = (v.writeLine q n l px).stack)
      ∧ t.ts = v.ts ∧ t.acc = v.acc ∧ t.ext = v.ext ∧ t.valid = v.valid
      ∧ OnlyRegs [pages 0x2200 0x2223, pages 0x2300 0x2323, counterSpan] u t))

/-- The bus commands of a sensor-control channel with their codes (11 Table 11-5). -/
def sccCommands : List ((Nat → Option Route → Fin 12 → Fin 6 → Fin 4 → Bytes → Instr) × Nat) :=
  [(.i2cWrite, 1), (.i2cWriteRead, 2), (.spiTransfer, 3)]

/-- The head record `r` of channel `k`, with `rs` behind it, has ended with a status (R330): its result stands, of which an SPI
transfer keeps the last bytes, its end is counted, an error beside, a tracked setting is remembered (R331), and the result of a
job's record crosses to it. -/
def SccEnded (s t : State) (k : Nat) (r : SccRec) (rs : List SccRec) (status : Nat) (read : Bytes) : Prop :=
  let n := Nat.min r.rlen read.length
  let got := if r.cmd = 3 then read.drop (read.length - n) else read.take n
  let q := s.streamOf (3 * k + r.portIx)
  (t.scc k).queue = rs ∧ (t.scc k).started = false
  ∧ t.reg (kScc k 5) = leNat (got ++ List.replicate (8 - n) 0#8) % 2 ^ 64
  ∧ t.field' (kScc k 6) 23 16 = status ∧ t.field' (kScc k 6) 31 24 = n ∧ t.field' (kScc k 6) 15 0 = bits r.w0 47 32
  ∧ t.field' (kScc k 6) 63 32 = s.reg (kPort q 0x0E) % 2 ^ 32
  ∧ t.reg (kScc k 8) = satAdd (widthOf (kScc k 8)) (s.reg (kScc k 8)) 1
  ∧ t.reg (kScc k 9) = (if status = 0 then s.reg (kScc k 9) else satAdd (widthOf (kScc k 9)) (s.reg (kScc k 9)) 1)
  ∧ (status ≠ 0 → t.reg (key 0x2903 9) = satAdd 32 (s.reg (key 0x2903 9)) 1)
  ∧ (t.port q).tracks.length = (s.port q).tracks.length + (if bit r.w0 10 = true ∧ status ≤ 2 then 1 else 0)
  ∧ (∀ x inc, r.ctx = some (x, inc) → r.hasResult = true →
      t.OpensC (s.toCclk s.sclk) 0 (.sccResult x inc (bits r.w1 19 0) (leBytes 8 (t.reg (kScc k 5)) ++ leBytes 8 (t.reg (kScc k 6)))
        (if r.done then some (bits r.w0 23 18) else none)))
  ∧ KeepsLater s t ∧ OnlyRegs [(kScc k 5, kScc k 9), counterSpan] s t ∧ SameMem s t

/-- A sound record of the dictionary or of a context enters the queue of its channel (R326 to R328), one of a context whose
channel no stream holds is dropped and counted (R327); the head starts, an aligned one in blanking alone and before its align time
has run out (R329), and ends with its outcome, a clock stretched too long or an align time run out (R329, R330, R509). A result
reaches the context that issued its record, which has one record less under way and is signalled (R330). Choices of the model in
it: log 33, 121. -/
def Obligations.SensorControlRecordsRun : Prop :=
  (∀ c ∈ sccCommands, ∀ (s w : State) (r : Route) (dt : Nat) (k : Fin 12) (core : Fin 6) (slot : Fin 4) (bs : Bytes), w = s.wait dt →
    leAt bs 0 1 = c.2 → Accepts w r (0x2230 + k) 4 bs → w.sccRefuses k (sccRecord bs none) = false →
    Leads (c.1 dt (some r) k core slot bs) s (fun t =>
      (t.scc k).queue = (w.scc k).queue ++ [sccRecord bs none] ∧ OnlyRegs [] w t ∧ SameMem w t))
  ∧ (∀ c ∈ sccCommands, ∀ (s w : State) (dt : Nat) (k : Fin 12) (core : Fin 6) (slot : Fin 4) (bs : Bytes) (i : Nat) (x : Ctx),
    w = s.wait dt → w.up = true → leAt bs 0 1 = c.2 → w.slotCtx core slot = some (i, x) → w.ctx? i = some x →
    (w.sccOpen k = true → w.sccRefuses k (sccRecord bs (some (i, x.inc))) = false →
      Leads (c.1 dt none k core slot bs) s (fun t =>
        let r := sccRecord bs (some (i, x.inc))
        (t.scc k).queue = (w.scc k).queue ++ [r]
        ∧ CtxIs t i (fun y => y.work = x.work + (if r.hasResult then 1 else 0)) ∧ OnlyRegs [] w t ∧ SameMem w t))
    ∧ (w.sccOpen k = false →
      Leads (c.1 dt none k core slot bs) s (fun t =>
        t.scc k = w.scc k ∧ t.reg (key 0x2901 0x0E) = satAdd 32 (w.reg (key 0x2901 0x0E)) 1
        ∧ OnlyRegs [counterSpan] w t ∧ SameMem w t)))
  ∧ (∀ (s w : State) (dt : Nat) (k : Fin 12) (b : Bool) (r : SccRec) (rs : List SccRec), w = s.wait dt → w.up = true →
    (w.scc k).queue = r :: rs → (w.scc k).started = false → (r.aligned = true → b = true) →
    (w.alignOver k r = false → Leads (.sccRecordStart dt k b) s (fun t =>
      (t.scc k).queue = r :: rs ∧ (t.scc k).started = true ∧ (t.scc k).startAt = w.sclk ∧ OnlyRegs [] w t ∧ SameMem w t))
    ∧ (w.alignOver k r = true → Leads (.sccRecordStart dt k b) s (fun t => SccEnded w t k r rs 4 [])))
  ∧ (∀ (s w : State) (dt : Nat) (k : Fin 12) (r : SccRec) (rs : List SccRec), w = s.wait dt → w.up = true → (w.scc k).queue = r :: rs →
    (w.scc k).started = false → r.aligned = true → (w.scc k).headAt + micros (w.reg (kScc k 2)) < w.sclk →
    Leads (.alignTimeout dt k) s (fun t => SccEnded w t k r rs 4 []))
  ∧ (∀ (s w : State) (dt : Nat) (k : Fin 12) (held : Nat) (r : SccRec) (rs : List SccRec), w = s.wait dt → w.up = true →
    (w.scc k).queue = r :: rs → (w.scc k).started = true → r.cmd ≠ 3 → (w.scc k).startAt + held ≤ w.sclk →
    micros (w.reg (kScc k 3)) < held →
    Leads (.clockStretchTimeout dt k held) s (fun t => SccEnded w t k r rs 3 []))
  ∧ (∀ (s w : State) (dt : Nat) (k : Fin 12) (o : BusEnd) (bs : Bytes) (r : SccRec) (rs : List SccRec), w = s.wait dt → w.up = true →
    (w.scc k).queue = r :: rs → (w.scc k).started = true →
    Leads (.sccRecordComplete dt k o bs) s (fun t =>
      SccEnded w t k r rs (match o with | .done => 0 | .addressNak => 1 | .dataNak => 2) bs))
  ∧ (∀ (s u v t : State) (k a inc : Nat) (x : Ctx) (bs : Bytes) (sem : Option Nat), t = s.perform (.sccResult k inc a bs sem) →
    u = s.catchAll → v = u.writeTs k a (clean bs) →
    (s.isCtx k inc = false → t = s)
    ∧ (s.isCtx k inc = true → Runs v k x → x.inc = inc →
        CtxIs t k (fun y => y.work = x.work - 1 ∧ y.entry = x.entry ∧
          ∀ n, sem = some n → n < 56 → y.sem n = (x.sem n).raise 1 none)
        ∧ OnlyRegs signalSpans v t ∧ SameMem v t))

/-! Sample intake (13). -/

/-- A stream with room takes the waiting submission of its next index, checked (R354, R357), and drops and counts one of another;
a free engine takes the next ready sample in rotating order (R359) and is free again when its cycles or the budget have passed
(R358, R360); the next record is written and counted (R361 to R364). Slots are released, and regions of interest bound or given up
for late (R365 to R368). Choices of the model in it: log 36, 37. -/
def Obligations.SamplesPassThroughTheIntake : Prop :=
  (∀ (s w : State) (dt : Nat) (i : Fin 16) (n : Fin 2) (m : InMsg), w = s.wait dt → w.up = true → w.running (fIntake i) = true →
    w.roomFor i = true → (n = 1 → (w.net 0).ready.find? (fun m => m.cls == 1 && m.stream == i.val) = none) →
    (w.net n).ready.find? (fun m => m.cls == 1 && m.stream == i.val) = some m →
    Leads (.submissionTaken dt i) s (fun t =>
      let next := w.reg (kIn i 0x11)
      let ix := hdr (slice m.bytes 0 64) 8 8
      (ix = next →
        (∃ x, (t.intake i).samples = (w.intake i).samples ++ [x] ∧ x.index = next ∧ x.header = slice m.bytes 0 64
          ∧ x.verdict = w.checkSample i (slice m.bytes 0 64) (m.bytes.drop 64) ∧ (x.done = none ↔ x.verdict = 0))
        ∧ t.reg (kIn i 0x11) = (next + 1) % 2 ^ widthOf (kIn i 0x11))
      ∧ (ix < next → t.intake i = w.intake i ∧ t.reg (kIn i 0x19) = satAdd (widthOf (kIn i 0x19)) (w.reg (kIn i 0x19)) 1)
      ∧ (next < ix → t.intake i = w.intake i ∧ t.reg (kIn i 0x18) = satAdd (widthOf (kIn i 0x18)) (w.reg (kIn i 0x18)) 1)
      ∧ (t.net n).ready = (w.net n).ready.erase m
      ∧ OnlyRegs [at1 (kIn i 0x11), at1 (kIn i 0x18), at1 (kIn i 0x19), pages 0x2700 0x2701, counterSpan] w t ∧ SameMem w t))
  ∧ (∀ (s w v : State) (dt : Nat) (e : Fin 4) (i : Nat) (x : Sample) (crops : List (Int × Int)), w = s.wait dt → w.up = true →
    v = forEach (upTo 16) w (fun i s => s.roiOverdue i) → tfind w.engines e = none →
    ((upTo 16).map (fun n => (w.lastIntake + 1 + n) % 16)).find? (fun i => (v.readySample i).isSome) = some i →
    v.readySample i = some (x, crops) →
    Leads (.decodeDispatch dt e) s (fun t =>
      t.lastIntake = i
      ∧ (∀ y ∈ (t.intake i).samples, y.index = x.index → y.sent = true ∧ y.crops = crops)
      ∧ ((v.inRoi i && crops.isEmpty) = false → tfind t.engines e = some { stream := i, index := x.index, start := w.cclk })
      ∧ ((v.inRoi i && crops.isEmpty) = true → t.engines = w.engines
          ∧ ∀ y ∈ (t.intake i).samples, y.index = x.index → y.done = some (0, 2 * b2n x.roiLate, 0))
      ∧ OnlyRegs [] v t ∧ SameMem v t))
  ∧ (∀ (s w : State) (dt : Nat) (n : Fin 4) (e : Engine) (x : Sample), w = s.wait dt → w.up = true → w.engineSample n = some (e, x) →
    e.start + w.engineCycles e.stream x ≤ w.cclk → w.engineCycles e.stream x ≤ w.budget e.stream x →
    Leads (.decodeComplete dt n) s (fun t =>
      tfind t.engines n = none
      ∧ (∀ y ∈ (t.intake e.stream).samples, y.index = e.index →
          y.done = some (w.outcome e.stream x (w.engineCycles e.stream x)))
      ∧ OnlyRegs [at1 (kIn e.stream 0x17), at1 (kIn e.stream 0x1C)] w t ∧ SameMem w t))
  ∧ (∀ (s w : State) (dt : Nat) (n : Fin 4) (e : Engine) (x : Sample), w = s.wait dt → w.up = true → w.engineSample n = some (e, x) →
    w.budget e.stream x < w.engineCycles e.stream x → e.start + w.budget e.stream x < w.cclk →
    Leads (.budgetExpiry dt n) s (fun t =>
      tfind t.engines n = none
      ∧ (∀ y ∈ (t.intake e.stream).samples, y.index = e.index →
          y.done = some (0x84, 2 * b2n x.roiLate, w.budget e.stream x))
      ∧ OnlyRegs [at1 (kIn e.stream 0x1C)] w t ∧ SameMem w t))
  ∧ (∀ (s w v : State) (dt : Nat) (i : Fin 16) (x : Sample) (xs : List Sample) (r : Nat × Nat × Nat), w = s.wait dt → w.up = true →
    v = w.catchAll → (w.intake i).samples = x :: xs → x.done = some r →
    Leads (.recordCommit dt i) s (fun t =>
      let u := w.intake i
      let a := w.reg (kIn i 0x12) + u.commits % Nat.max 1 (w.reg (kIn i 5)) * w.slotSize i
      let d := w.reg (kIn i 7)
      t.ext = v.ext.write 32 a (clean (v.recordBytes i x u.variants r))
      ∧ (t.intake i).commits = u.commits + 1 ∧ (t.intake i).occupied = u.occupied + 1
      ∧ (t.intake i).samples = (if w.variants i ≤ u.variants + 1 then xs else x :: xs)
      ∧ t.reg (kIn i 0x15) = satAdd (widthOf (kIn i 0x15)) (w.reg (kIn i 0x15)) 1
      ∧ (bit d 12 = true → t.OpensC (v.toCclk v.sclk) 0 (.external (bits d 11 6) (bits d 5 0) (hdr x.header 16 6)))
      ∧ t.ts = v.ts ∧ t.acc = v.acc ∧ t.stack = v.stack ∧ t.valid = v.valid
      ∧ OnlyRegs [at1 (kIn i 0x15), at1 (kIn i 0x16), counterSpan] v t))
  ∧ (∀ (s w : State) (dt : Nat) (core : Fin 6) (slot : Fin 4) (bs : Bytes) (k : Nat) (x : Ctx), w = s.wait dt → w.up = true →
    w.slotCtx core slot = some (k, x) → leAt bs 0 1 = 1 → bits (leAt bs 0 8) 31 12 = 0 →
    (let i := bits (leAt bs 0 8) 11 8
     let n := bits (leAt bs 0 8) 47 32
     w.running (fIntake i) = true → w.jobDom (ctxJob k) = some (w.inDom i) → n ≠ 0 → (bs.drop 8).any (· != 0#8) = false →
     n ≤ (w.intake i).occupied →
     Leads (.intakeRelease dt core slot bs) s (fun t =>
      t.intake i = { w.intake i with occupied := (w.intake i).occupied - n } ∧ OnlyRegs [] w t ∧ SameMem w t)))
  ∧ (∀ (s w v : State) (dt : Nat) (core : Fin 6) (slot : Fin 4) (bs : Bytes) (k : Nat) (x : Ctx), w = s.wait dt → w.up = true →
    v = w.roiOverdue (bits (leAt bs 0 8) 11 8) → w.slotCtx core slot = some (k, x) → leAt bs 0 1 = 2 → bits (leAt bs 0 8) 31 16 = 0 → bits (leAt bs 0 8) 47 32 = 0 →
    (let i := bits (leAt bs 0 8) 11 8
     let n := bits (leAt bs 0 8) 15 12
     let at_ := leAt bs 8 8
     w.running (fIntake i) = true → w.jobDom (ctxJob k) = some (w.inDom i) → n ≤ 12 → n ≤ w.field' (kIn i 1) 15 12 →
     (bs.drop (16 + 4 * n)).any (· != 0#8) = false → tfind (w.intake i).rois at_ = none → w.dispatchIndex i ≤ at_ →
     at_ ≤ w.dispatchIndex i + 64 →
     Leads (.roi dt core slot bs) s (fun t =>
      (t.intake i).rois = tput (v.intake i).rois at_ (origins (bs.drop 16) n)
      ∧ (t.intake i).lastRoi = origins (bs.drop 16) n ∧ (t.intake i).samples = (v.intake i).samples
      ∧ OnlyRegs [] v t ∧ SameMem v t)))
  ∧ (∀ (s w : State) (dt : Nat) (i : Fin 16) (x : Sample) (d : Nat), w = s.wait dt → w.up = true → (w.intake i).head = some x →
    (w.intake i).roiDue = some d → d < w.cclk →
    Leads (.roiTimeout dt i) s (fun t =>
      (∀ y ∈ (t.intake i).samples, y.index = x.index → y.roiLate = true) ∧ (t.intake i).roiDue = none
      ∧ t.reg (kIn i 0x1A) = satAdd (widthOf (kIn i 0x1A)) (w.reg (kIn i 0x1A)) 1
      ∧ OnlyRegs [at1 (kIn i 0x1A)] w t ∧ SameMem w t))

/-! Fire orders and valves (14). -/

/-- The commands of fire-order records with their kinds. -/
def fireCommands : List ((Nat → Fin 6 → Fin 64 → Bytes → Instr) × RecKind) :=
  [(.orderDecided, .decided), (.orderUndecided, .undecided), (.decide, .decide)]

/-- The group that a record's route names. -/
def recGroup (s : State) (r : FireRec) : Nat := bits (s.reg (key 0x2600 (1 + r.route))) 3 0

/-- The record `r` of `src`, whose job has the domain `dom`, enters in the present cycle. -/
def fired (s : State) (src : Nat) (dom : Option Nat) (r : FireRec) : State := s.perform (.fire src dom r.w0 r.w1 r.w2 r.w3)

/-- `s` once the claims of the record's group that are overdue have taken the default (R377). -/
def defaulted (s : State) (r : FireRec) : State := s.defaultAll (recGroup s r) (s.sclk - 1) (fun _ => true)

/-- The commit position of a record has been registered as reached. -/
def recLate (s : State) (r : FireRec) : Bool :=
  s.reachedBy (s.groupDom (recGroup s r)) (s.sclk - 1) (posAdd r.fpos (-(s.lead (recGroup s r) : Int)))

/-- The entry `e` of a list becomes `e'`, and retires where its verdict does not stay. -/
def decided (s : State) (g : Nat) (e e' : FireEntry) : List FireEntry :=
  let es := (s.group g).entries.map (fun x => if x = e then e' else x)
  if s.staysAfterCommit g e' then es else es.filter (fun x => x != e')

/-- A record enters in the cycle after the one in which it arrives (R372). There an ORDER with a verdict enters committed, one
without as a claim (R375, R377); a DECIDE sets the verdict of its claim; a late ORDER takes the default (R378); a refused record
is counted (R373); an overdue claim takes the default (R377). The veto input is taken when its debounced level may change (R381,
R393, R396). The state of the valves is judged in the next cycle (R384). Choices of the model in it: log 38, 39, 119, 135. -/
def Obligations.FireOrdersEnterAndAreDecided : Prop :=
  (∀ c ∈ fireCommands, ∀ (s w : State) (dt : Nat) (core : Fin 6) (job : Fin 64) (bs : Bytes), w = s.wait dt → w.up = true →
    (fireRec bs).kind = c.2 →
    Leads (c.1 dt core job bs) s (fun t =>
      let r := fireRec bs
      t.ClosesWith (w.sclk + 1) (6 + Nat.min core 6) (.fire core (w.jobDom job) r.w0 r.w1 r.w2 r.w3)
      ∧ KeepsLater w t ∧ t.groups = w.groups ∧ OnlyRegs [] w t ∧ SameMem w t))
  ∧ (∀ (s v t : State) (src : Nat) (dom : Option Nat) (r : FireRec), t = fired s src dom r → v = defaulted s r →
    (let g := recGroup s r
     (v.refusalCause dom r s.sclk = 0 → r.isDecide = false →
       (recLate v r = false → r.verd ≠ 0 →
         (let e := { r.entry with committed := true }
          (t.group g).entries = (if v.staysAfterCommit g e then (v.group g).entries ++ [e] else (v.group g).entries))
         ∧ t.reg (kGroup g 8) = satAdd (widthOf (kGroup g 8)) (v.reg (kGroup g 8)) 1 ∧ t.Raised (evCommit g) s.sclk)
       ∧ (recLate v r = false → r.verd = 0 →
         (t.group g).entries = (v.group g).entries ++ [r.entry] ∧ t.reg (kGroup g 8) = v.reg (kGroup g 8))
       ∧ (recLate v r = true →
         (let e := { r.entry with verdict := some (v.defEject g), committed := true, dflt := true, late := true }
          (t.group g).entries = (if v.staysAfterCommit g e then (v.group g).entries ++ [e] else (v.group g).entries))
         ∧ t.reg (kGroup g 0x0A) = satAdd (widthOf (kGroup g 0x0A)) (v.reg (kGroup g 0x0A)) 1
         ∧ t.reg (key 0x2900 0x0F) = satAdd 32 (v.reg (key 0x2900 0x0F)) 1))
     ∧ (v.refusalCause dom r s.sclk = 0 → r.isDecide = true → ∀ e,
         (v.group g).entries.find? (fun e => e.claim && e.claimKey == r.claimKey && e.fpos == r.fpos && e.verdict == none) = some e →
         (∃ e', (t.group g).entries = decided v g e e' ∧ e'.verdict = some (r.verd == 2) ∧ e'.committed = true
           ∧ e'.fpos = e.fpos ∧ e'.dur = (if r.dur = 0 then e.dur else r.dur)
           ∧ e'.mask = (if r.w3 = 0 then e.mask else r.w3) ∧ e'.first = (if r.w3 = 0 then e.first else r.first))
         ∧ t.reg (kGroup g 8) = satAdd (widthOf (kGroup g 8)) (v.reg (kGroup g 8)) 1 ∧ t.Raised (evCommit g) s.sclk)
     ∧ (v.refusalCause dom r s.sclk ≠ 0 →
         (t.group g).entries = (v.group g).entries
         ∧ t.reg (key 0x2600 0x41) = satAdd (widthOf (key 0x2600 0x41)) (v.reg (key 0x2600 0x41)) 1
         ∧ (src < 256 → bits (t.reg (key 0x2600 0x42)) 15 8 = v.refusalCause dom r s.sclk % 256)
         ∧ t.reg (key 0x2900 0x0D) = satAdd 32 (v.reg (key 0x2900 0x0D)) 1)
     ∧ t.OpensWith (s.sclk + 1) .judge ∧ OnlyRegs verdictSpans s t ∧ SameMem s t))
  ∧ (∀ (s w : State) (dt : Nat) (g : Fin 16) (f : BitVec 48) (e : FireEntry), w = s.wait dt → w.up = true →
    w.overdue g (w.sclk - 1) (fun e => e.fpos == f.toNat) = [e] →
    Leads (.commitDeadline dt g f) s (fun t =>
      (t.group g).entries = decided w g e { e with verdict := some (w.defEject g), committed := true, dflt := true }
      ∧ t.reg (kGroup g 9) = satAdd (widthOf (kGroup g 9)) (w.reg (kGroup g 9)) 1
      ∧ t.reg (kGroup g 0x0E) = e.fpos % 2 ^ widthOf (kGroup g 0x0E)
      ∧ t.reg (key 0x2900 0x0E) = satAdd 32 (w.reg (key 0x2900 0x0E)) 1 ∧ t.OpensWith (w.sclk + 1) .judge
      ∧ OnlyRegs verdictSpans w t ∧ SameMem w t))
  ∧ (∀ (s w : State) (dt : Nat) (on : Bool), w = s.wait dt → w.up = true →
    (w.field.link = true → w.field.veto ≠ on → w.mayChange 16 = true →
      Leads (.vetoChange dt on) s (fun t =>
        let v := on || (w.field.lost && w.bit' (kField 0x13) 17)
        t.field.veto = on ∧ t.field.vetoTaken = v ∧ t.bit' (kField 2) 2 = v
        ∧ (v = true → w.field.vetoTaken = false →
            t.reg (kField 0x1B) = satAdd (widthOf (kField 0x1B)) (w.reg (kField 0x1B)) 1)
        ∧ t.OpensWith (w.sclk + 1) .judge
        ∧ OnlyRegs (at1 (kField 2) :: at1 (kField 0x1B) :: verdictSpans) w t ∧ SameMem w t))
    ∧ (w.field.link = false ∨ w.field.veto = on ∨ w.mayChange 16 = false →
        Leads (.vetoChange dt on) s (fun t => t.field = w.field ∧ OnlyRegs [] w t ∧ SameMem w t)))

/-- The strobe of a channel is to come with cycle `c`. -/
def StrobeDue (t : State) (ch c : Nat) (late : Bool) : Prop :=
  { tick := 12 * c, close := false, rank := 1, act := .strobe ch late } ∈ t.later

/-- The frame for the next change starts once its lead is reached; a frame that has shifted all its bits is counted and strobed in
the next cycle, or waits for its position, and LAT falls at the end of its pulse (R383, R384). As the state is judged, a stale
shift is abandoned and counted, and a state that differs from the latched one starts an immediate frame (R384); the direct outputs
follow a cycle later (R386). Manual outputs show on the outputs that no group owns (R386). A stop timer that runs out ends
STOPPING (R389). Choices of the model in it: log 22, 23, 46, 119. -/
def Obligations.ValveFramesAndOutputsAct : Prop :=
  (∀ (s w : State) (dt : Nat) (c : Fin 4) (d p : Nat), w = s.wait dt → w.up = true → (w.chan c).shift = none → (w.chan c).latEnd = none →
    w.nextChange c w.passed = some (d, p) → w.chanNow c w.passed = (w.chan c).latched → (w.chan c).freeAt ≤ w.sclk →
    w.reachedBy d (w.sclk - 2) (posAdd p (-(w.leastLead c : Int))) = true →
    Leads (.nextChangeFrameStart dt c) s (fun t =>
      (t.chan c).shift =
        some { immediate := false, dom := d, pos := p, state := w.chanAt c d p w.passed, start := w.sclk }
      ∧ t.shifting c = true ∧ (t.chan c).latched = (w.chan c).latched ∧ OnlyRegs [] w t ∧ SameMem w t))
  ∧ (∀ (s w : State) (dt : Nat) (c : Fin 4) (f : Shift), w = s.wait dt → w.up = true → (w.chan c).shift = some f → f.complete = false →
    f.start + 10 * w.frameLen c ≤ w.sclk →
    Leads (.valveFrameComplete dt c) s (fun t =>
      t.reg (kChan c 3) = satAdd (widthOf (kChan c 3)) (w.reg (kChan c 3)) 1
      ∧ (t.chan c).shift = some { f with complete := true } ∧ (t.chan c).latched = (w.chan c).latched
      ∧ (f.immediate = true → StrobeDue t c (w.sclk + 1) false)
      ∧ (f.immediate = false → w.reachedBy f.dom w.passed f.pos = true → StrobeDue t c (w.sclk + 1) true)
      ∧ (f.immediate = false → w.reachedBy f.dom w.passed f.pos = false → t.later = w.later)
      ∧ OnlyRegs [at1 (kChan c 3)] w t ∧ SameMem w t))
  ∧ (∀ (s t : State) (c : Fin 4) (late : Bool), t = s.perform (.strobe c late) →
    ((s.chan c).shift = none → t = s)
    ∧ (∀ f, (s.chan c).shift = some f →
        (t.chan c).shift = none ∧ (t.chan c).latched = f.state ∧ (t.chan c).latEnd = some (s.sclk + s.latWidth c)
        ∧ t.reg (kChan c 4) = satAdd (widthOf (kChan c 4)) (s.reg (kChan c 4)) 1
        ∧ (late = true → t.reg (kChan c 6) = satAdd (widthOf (kChan c 6)) (s.reg (kChan c 6)) 1 ∧ t.bit' (kChan c 2) 1 = true)
        ∧ (∀ g ∈ s.touched c (f.state ^^^ (s.chan c).latched), t.Raised (evStrobe g) s.sclk)
        ∧ OnlyRegs [pages 0x2610 0x2623] s t ∧ SameMem s t))
  ∧ (∀ (s t : State) (c : Fin 4), t = s.perform .judge →
    (let v := s.forgetPast c
     let now := v.chanNow c s.passed
     let frame : Shift := { immediate := true, dom := 0, pos := 0, state := now, start := Nat.max (s.sclk + 1) (s.chan c).freeAt }
     (∀ f, (s.chan c).shift = some f → s.required c f s.passed = f.state → t.chan c = s.chan c ∧ t.reg (kChan c 5) = s.reg (kChan c 5))
     ∧ (∀ f, (s.chan c).shift = some f → s.required c f s.passed ≠ f.state →
         t.reg (kChan c 5) = satAdd (widthOf (kChan c 5)) (s.reg (kChan c 5)) 1)
     ∧ (((s.chan c).shift = none ∨ ∃ f, (s.chan c).shift = some f ∧ s.required c f s.passed ≠ f.state) → (s.chan c).latEnd = none →
         (t.chan c).shift = (if now = (s.chan c).latched then none else some frame)))
    ∧ t.OpensWith (s.sclk + 1) (.drive (s.doLevels s.passed)) ∧ OnlyRegs [pages 0x2620 0x2623] s t ∧ SameMem s t)
  ∧ (∀ (s t : State) (v : Nat), v < 2 ^ 16 → t = s.perform (.drive v) →
    t.reg (key 0x2630 3) = v
    ∧ t.field.latches = (if s.field.link = true ∧ s.field.awaiting = false then v else s.field.latches)
    ∧ OnlyRegs [at1 (key 0x2630 3)] s t ∧ SameMem s t)
  ∧ (∀ (s : State) (c : Nat) (d : Fin 16), bit s.ownedDo d = false → bit (s.doLevels c) d = bit (s.reg (key 0x2630 2)) d)
  ∧ (∀ (s w : State) (dt : Nat) (c : Fin 4) (m : Nat), w = s.wait dt → w.up = true → (w.chan c).latEnd = some m → m ≤ w.sclk →
    Leads (.latchPulseEnd dt c) s (fun t =>
      (t.chan c).latEnd = none ∧ (t.chan c).freeAt = w.sclk + 1 ∧ (t.chan c).latched = (w.chan c).latched
      ∧ ((w.chan c).shift = none →
          (t.chan c).shift =
            (let now := (w.forgetPast c).chanNow c w.passed
             if now = (w.chan c).latched then none
             else some { immediate := true, dom := 0, pos := 0, state := now, start := w.sclk + 1 }))
      ∧ OnlyRegs [] w t ∧ SameMem w t))
  ∧ (∀ (s w : State) (r : Route) (dt : Nat) (v : BitVec 16), w = s.wait dt → Accepts w r 0x2630 2 (leBytes 2 v.toNat) →
    Leads (.manualOutputWrite dt r v) s (fun t =>
      t.reg (key 0x2630 2) = v.toNat ∧ t.OpensWith (w.sclk + 1) .judge ∧ OnlyRegs [at1 (key 0x2630 2)] w t ∧ SameMem w t))
  ∧ (∀ (s w : State) (dt : Nat) (g : Fin 16), w = s.wait dt → w.up = true → w.stopExpired g = true →
    Leads (.stopTimeout dt g) s (fun t =>
      t.fn (fGroup g) = .stopped ∧ (t.group g).entries = [] ∧ (t.group g).stopDue = none
      ∧ t.reg (key 0x2900 0x10) = satAdd 32 (w.reg (key 0x2900 0x10)) 1 ∧ t.OpensWith (w.sclk + 1) .judge
      ∧ OnlyRegs [at1 (key 0x2020 (fGroup g)), counterSpan] w t ∧ SameMem w t))

/-! Field inputs and outputs (15). -/

/-- The loss and return of the link to the field section (R391, R396, R403), edges and samples of its inputs (R394, R395), its
debounce times (R393) and OUT_EN_N (R402). Overload, thermal shutdown and open load set their bits and are counted (R400). An
undervoltage of the field supply turns the drivers off and its recovery lets them resume; a reset of the field section clears the
latches, in every stage (R405). Choices of the model in it: log 43, 44, 135. -/
def Obligations.FieldInputsAndOutputsAct : Prop :=
  (∀ (s w : State) (dt : Nat), w = s.wait dt → w.up = true → w.field.lost = false →
    Leads (.fieldLinkLoss dt) s (fun t =>
      t.field.link = false ∧ t.field.lost = true ∧ t.field.latches = w.field.frozen w.sclk ∧ t.OpensWith (w.sclk + 1) .judge
      ∧ t.field.vetoTaken = (w.field.veto || w.bit' (kField 0x13) 17)
      ∧ t.bit' (kField 2) 6 = true ∧ t.bit' (kField 2) 5 = false
      ∧ t.reg (kField 0x19) = satAdd (widthOf (kField 0x19)) (w.reg (kField 0x19)) 1
      ∧ t.reg (key 0x2900 9) = satAdd 32 (w.reg (key 0x2900 9)) 1
      ∧ OnlyRegs (at1 (kField 2) :: at1 (kField 0x19) :: at1 (kField 0x1B) :: verdictSpans) w t ∧ SameMem w t))
  ∧ (∀ (s w : State) (dt : Nat) (levels : BitVec 16) (veto high : Bool), w = s.wait dt → w.up = true →
    Leads (.fieldLinkRestored dt levels veto high) s (fun t =>
      t.field.link = true ∧ t.field.lost = false ∧ t.field.vetoTaken = veto ∧ t.field.outEnHigh = high
      ∧ t.field.outPin = high ∧ t.field.latches = w.reg (key 0x2630 3) % 65536 ∧ t.OpensWith (w.sclk + 1) .judge
      ∧ t.bit' (kField 2) 5 = true ∧ (∀ d : Fin 16, t.bit' (kField 1) d = levels.getLsbD d)
      ∧ OnlyRegs (at1 (kField 1) :: at1 (kField 2) :: at1 (kField 0x1A) :: at1 (kField 0x1B) :: verdictSpans) w t ∧ SameMem w t))
  ∧ (∀ (s w : State) (dt : Nat) (d : Fin 8) (on : Bool), w = s.wait dt → w.up = true →
    (w.field.link = true → w.bit' (kField 1) d ≠ on → w.mayChange d = true →
      Leads (.diEdge dt d on) s (fun t =>
        t.bit' (kField 1) d = on ∧ (∀ i : Fin 16, i.val ≠ d.val → t.bit' (kField 1) i = w.bit' (kField 1) i)
        ∧ (tfind t.field.bounce d).map Prod.fst = some w.sclk ∧ t.Raised (if on then evRise d else evFall d) w.sclk
        ∧ OnlyRegs [at1 (kField 1)] w t ∧ SameMem w t))
    ∧ (w.field.link = false ∨ w.bit' (kField 1) d = on ∨ w.mayChange d = false →
        Leads (.diEdge dt d on) s (fun t => t.field = w.field ∧ OnlyRegs [] w t ∧ SameMem w t)))
  ∧ (∀ (s w : State) (dt : Nat) (levels : BitVec 8), w = s.wait dt → w.up = true → w.field.link = true →
    (∀ c, w.field.sampled = some c → c + 500000 ≤ w.sclk) →
    Leads (.pulsedSample dt levels) s (fun t =>
      (∀ i : Fin 8, t.bit' (kField 1) (8 + i) =
        (let n := tget (fun _ => 0) w.field.pulsed (8 + i)
         if bits (w.reg (kField (11 + i))) 15 0 ≤ n + 1 then levels.getLsbD i else w.bit' (kField 1) (8 + i)))
      ∧ (∀ i : Fin 8, t.bit' (kField 1) i = w.bit' (kField 1) i) ∧ t.field.sampled = some w.sclk
      ∧ OnlyRegs [at1 (kField 1)] w t ∧ SameMem w t))
  ∧ (∀ (s w : State) (r : Route) (dt sub : Nat) (v : BitVec 32), w = s.wait dt → 3 ≤ sub → sub ≤ 0x13 →
    Accepts w r 0x2640 sub (leBytes 4 v.toNat) →
    Leads (.debounceWrite dt r sub v) s (fun t =>
      t.field' (kField sub) 15 0 = bits v.toNat 15 0 ∧ (sub ≠ 0x13 → OnlyRegs [at1 (kField sub)] w t)
      ∧ (sub < 11 ∨ sub = 0x13 → (tfind t.field.bounce (sub - 3)).map Prod.snd = some w.sclk)
      ∧ (11 ≤ sub → sub < 0x13 → tfind t.field.pulsed (sub - 3) = none)
      ∧ OnlyRegs (at1 (kField sub) :: at1 (kField 2) :: at1 (kField 0x1B) :: verdictSpans) w t ∧ SameMem w t))
  ∧ (∀ (s w : State) (dt : Nat) (high : Bool), w = s.wait dt →
    Leads (.outEnNChange dt high) s (fun t =>
      t.field.outPin = high
      ∧ (w.up = true → w.field.link = true →
          t.field.outEnHigh = high
          ∧ (w.field.outEnHigh ≠ high → t.bit' (kField 2) 3 = !high)
          ∧ (w.field.outEnHigh = false → high = true →
              t.reg (kField 0x1A) = satAdd (widthOf (kField 0x1A)) (w.reg (kField 0x1A)) 1)
          ∧ t.OpensWith (w.sclk + 1) .judge ∧ OnlyRegs [at1 (kField 2), at1 (kField 0x1A)] w t)
      ∧ (w.up = false ∨ w.field.link = false → OnlyRegs [] w t) ∧ SameMem w t))
  ∧ (∀ (s w : State) (dt : Nat) (d : Fin 16) (hot : Bool), w = s.wait dt → w.up = true →
    Leads (.outputOverload dt d hot) s (fun t =>
      t.bit' (kField 0x14) d = true ∧ bit t.field.tripped d = true ∧ (hot = true → t.bit' (kField 0x16) d = true)
      ∧ t.reg (key 0x2900 0x0B) = satAdd 32 (w.reg (key 0x2900 0x0B)) 1
      ∧ OnlyRegs [at1 (kField 0x14), at1 (kField 0x16), counterSpan] w t ∧ SameMem w t))
  ∧ (∀ (s w : State) (dt : Nat) (d : Fin 16), w = s.wait dt → w.up = true →
    Leads (.overloadRestart dt d) s (fun t =>
      t.bit' (kField 0x16) d = false ∧ bit t.field.tripped d = false ∧ OnlyRegs [at1 (kField 0x16)] w t ∧ SameMem w t))
  ∧ (∀ (s w : State) (dt : Nat) (d : Fin 16), w = s.wait dt → w.up = true → w.driverOn d = true →
    Leads (.openLoad dt d) s (fun t =>
      t.bit' (kField 0x15) d = true ∧ t.reg (key 0x2900 0x0C) = satAdd 32 (w.reg (key 0x2900 0x0C)) 1
      ∧ OnlyRegs [at1 (kField 0x15), counterSpan] w t ∧ SameMem w t))
  ∧ (∀ (s w : State) (dt : Nat) (level : BitVec 16), w = s.wait dt → w.field.under = false →
    Leads (.fieldUndervoltage dt level) s (fun t =>
      t.field = { w.field with under := true }
      ∧ (w.up = true → t.bit' (kField 2) 4 = true ∧ t.bit' (kField 2) 7 = true ∧ t.reg (kField 0x17) = level.toNat
          ∧ t.reg (key 0x2900 0x0A) = satAdd 32 (w.reg (key 0x2900 0x0A)) 1)
      ∧ OnlyRegs (if w.up then [at1 (kField 2), at1 (kField 0x17), counterSpan] else []) w t ∧ SameMem w t))
  ∧ (∀ (s w : State) (dt : Nat) (level : BitVec 16), w = s.wait dt →
    Leads (.fieldSupplyRecovery dt level) s (fun t =>
      t.field = { w.field with under := false }
      ∧ (w.up = true → t.bit' (kField 2) 4 = false ∧ t.reg (kField 0x17) = level.toNat)
      ∧ OnlyRegs (if w.up then [at1 (kField 2), at1 (kField 0x17)] else []) w t ∧ SameMem w t))
  ∧ (∀ (s w : State) (dt : Nat), w = s.wait dt →
    Leads (.fieldSectionReset dt) s (fun t =>
      t.field = { w.field with latches := 0, awaiting := true, pulsed := [], sampled := none, bounce := [], before := [], tripped := 0 } ∧ OnlyRegs [] w t ∧ SameMem w t))

/-! The object dictionary and functions (16). -/

/-- The register that records the last refusal of a route (R415). -/
def refusalKey (r : Route) : Nat := key 0x2020 (match r with | .ethercat => 0xF0 | .hostPort => 0xF1)

/-- The write of one entry is refused with abort `a`, which is recorded with the command byte (R415), and nothing else changes. -/
def RefusedWith (s t : State) (r : Route) (a : Abort) (cmd : Nat) : Prop :=
  t.reg (refusalKey r) = (a.code * 2 ^ 32 + a.ix * 65536 + a.sub * 256 + cmd) % 2 ^ 64
  ∧ (r = .ethercat → t.ec.abort = a.code) ∧ t.allots = s.allots ∧ t.cache = s.cache ∧ t.regions = s.regions
  ∧ OnlyRegs [at1 (refusalKey r)] s t ∧ SameMem s t

/-- A write over route `r` of one entry, or of an object by complete access, has been registered in `s` (R407). -/
def Registered (s t : State) (r : Route) (ix sub : Nat) (ca : Bool) (data : Bytes) : Prop :=
  t = s.routed r ((s.writeAny r ix sub ca data).sentOver r)

/-- An accepted write stores its value, or clears the bits in which it has a 1 (R407); one that fails a check of R408 is refused
and recorded (R415). A read of a clear-on-read entry clears it (R16). A holdoff timer that runs out reports the increments it
folded in one record, in the order of its SCLK cycle, and is loaded again in its expiry cycle (R493). Choices of the model in it:
log 80, 97. -/
def Obligations.DictionaryAccessesAct : Prop :=
  (∀ (s w : State) (r : Route) (dt : Nat) (ix : BitVec 16) (sub : BitVec 8) (ca : Bool) (data : Bytes), w = s.wait dt →
    w.mute r = false → Leads (.dictionaryWrite dt r ix sub ca data) s (fun t => Registered w t r ix.toNat sub.toNat ca data))
  ∧ (∀ (s w : State) (r : Route) (dt : Nat) (sub : BitVec 8) (data : Bytes), w = s.wait dt → 1 ≤ sub.toNat → sub.toNat ≤ 0x40 → data.length = 4 →
    Accepts w r 0x2600 sub.toNat data →
    Leads (.dictionaryWrite dt r 0x2600 sub false data) s (fun t =>
      bits (t.reg (key 0x2600 sub.toNat)) 3 0 = bits (leNat data) 3 0
      ∧ bits (t.reg (key 0x2600 sub.toNat)) 7 5 = bits (leNat data) 7 5
      ∧ OnlyRegs [at1 (key 0x2600 sub.toNat)] w t ∧ SameMem w t))
  ∧ (∀ (s w : State) (r : Route) (dt : Nat) (ix : BitVec 16) (sub : BitVec 8) (data : Bytes) (e : Entry), w = s.wait dt → ix.toNat ≠ 0x2410 →
    within ix.toNat 0x2400 0x2405 = false → entryOf ix.toNat sub.toNat = some e → e.acc = .w1c →
    Accepts w r ix.toNat sub.toNat data →
    Leads (.dictionaryWrite dt r ix sub false data) s (fun t =>
      let k := key ix.toNat sub.toNat
      (∀ i, i < widthOf k → t.bit' k i = (w.bit' k i && !(bit (leNat data) i && bit e.mask i)))
      ∧ OnlyRegs [at1 k] w t ∧ SameMem w t))
  ∧ (∀ (s w : State) (r : Route) (dt : Nat) (ix : BitVec 16) (sub : BitVec 8) (data : Bytes) (c : Nat), w = s.wait dt →
    w.served r = true → w.mute r = false → ¬(r = .hostPort ∧ w.loses ix.toNat sub.toNat data = true) →
    (w.arrive r ix.toNat sub.toNat data).check r ix.toNat sub.toNat data = some c →
    Leads (.dictionaryWrite dt r ix sub false data) s (fun t =>
      RefusedWith w t r ⟨c, ix.toNat, sub.toNat⟩ (cmdByte ix.toNat sub.toNat)))
  ∧ (∀ (s w : State) (dt : Nat) (ix : BitVec 16) (sub : BitVec 8) (data : Bytes), w = s.wait dt →
    w.served .hostPort = true → w.loses ix.toNat sub.toNat data = true →
    Leads (.dictionaryWrite dt .hostPort ix sub false data) s (fun t =>
      RefusedWith w t .hostPort ⟨0x080000A1, ix.toNat, sub.toNat⟩ (cmdByte ix.toNat sub.toNat)))
  ∧ (∀ (s w : State) (r : Route) (dt : Nat) (ix : BitVec 16) (sub : BitVec 8) (data : Bytes), w = s.wait dt → w.served r = true →
    w.mute r = false → ¬(r = .hostPort ∧ w.loses ix.toNat sub.toNat data = true) →
    Leads (.dictionaryWrite dt r ix sub true data) s (fun t =>
      match (w.arrive r ix.toNat sub.toNat data).caBad r ix.toNat sub.toNat data with
      | some x => RefusedWith w t r ⟨x.2, ix.toNat, x.1⟩ 0
      | none => within ix.toNat 0x1600 0x1603 = true →
          (∀ x ∈ caSplit ix.toNat (subsFrom ix.toNat sub.toNat) data, t.reg (key ix.toNat x.1) = leNat x.2)
          ∧ OnlyRegs [pages ix.toNat ix.toNat] w t ∧ SameMem w t))
  ∧ (∀ (s w : State) (r : Route) (dt : Nat) (ix : BitVec 16) (sub : BitVec 8) (e : Entry) (n : Nat), w = s.wait dt → w.served r = true →
    w.mute r = false → w.recoveryRefuses ix.toNat = false → hasIndex w.grade ix.toNat = true →
    entryOf ix.toNat sub.toNat = some e → e.acc = .rc → e.type = .num n →
    Leads (.rcRead dt r ix sub) s (fun t =>
      t.reg (key ix.toNat sub.toNat) = 0 ∧ OnlyRegs [at1 (key ix.toNat sub.toNat)] w t ∧ SameMem w t))
  ∧ (∀ (s w : State) (dt k : Nat) (h : Holdoff), w = s.wait dt → w.up = true → w.holdoff k = some h → h.due < w.sclk →
    Leads (.holdoffExpiry dt k) s (fun t =>
      (h.folded = 0 → t.holdoff k = none ∧ t.events = w.events ∧ OnlyRegs [] w t)
      ∧ (h.folded ≠ 0 → w.events.length < 256 → (w.emergencies.filter (fun e => e.type != 0)).length < 8 →
          bit (w.routeOf (countRec k (min 65535 h.folded) h.data h.lpos)) 0 = true →
          (∃ r, t.events = insertRec w.events r ∧ r.type = 1 ∧ r.what = k * 256 ∧ r.rep = min 65535 h.folded ∧ r.data = h.data)
          ∧ t.holdoff k = (let due := h.due + 1 + micros (w.reg (key 0x29F0 4))
              if due < w.sclk then none else some { due := due }) ∧ OnlyRegs [] w t)
      ∧ OnlyRegs [at1 (key 0x2904 5), at1 (key 0x2904 6)] w t ∧ SameMem w t))

/-- The registers of function `f` and of its unit, which its commands may change. -/
def fnSpans (f : Nat) : Spans :=
  at1 (key 0x2020 f) :: (match fnOf f with
    | some (.domain _) => countSpans
    | some (.stream _) => pages 0x2300 0x2323 :: portSpans
    | some (.intake i) => [pages (0x2A00 + i) (0x2A00 + i), pages 0x2700 0x2701, pages 0x2730 0x2730, counterSpan]
    | some (.job j) => pages 0x2560 0x2560 :: pages 0x2570 0x2570 :: faultSpans j
    | some (.group _) => verdictSpans
    | some (.net _) => [pages 0x2700 0x2701, pages 0x2720 0x2720, pages 0x2730 0x2730]
    | none => [])

/-- The command `c` to function `f` over route `r` is accepted: it passes the checks of a write and those of R408 for a function
command. -/
def Commands (s : State) (r : Route) (c : FnCmd) (f : Nat) : Prop :=
  (fnOf f).isSome = true ∧ Accepts s r 0x2020 f (leBytes 4 (256 * c.code)) ∧ s.checkCmd r c f = none

/-- ENABLE takes a function from OFF to STOPPED when it completes, PEND showing it until then (R411); DISABLE takes it to OFF,
CLEAR from FAULTED to STOPPED, STOP from RUNNING to STOPPING (R410). CLAIM and RELEASE write its owner alone (R416). -/
def Obligations.FunctionsMoveByCommand : Prop :=
  (∀ (s w : State) (r : Route) (dt f : Nat), w = s.wait dt → Commands w r .enable f →
    Leads (.enable dt r f) s (fun t =>
      t.pend f = true ∧ t.fn f = .off ∧ t.owner f = w.owner f ∧ OnlyRegs [at1 (key 0x2020 f)] w t ∧ SameMem w t))
  ∧ (∀ (s w : State) (dt f : Nat), w = s.wait dt → w.up = true → (fnOf f).isSome = true → w.fn f = .off → w.pend f = true →
    Leads (.enableComplete dt f) s (fun t =>
      t.fn f = .stopped ∧ t.pend f = false ∧ t.owner f = w.owner f ∧ OnlyRegs (fnSpans f) w t
      ∧ ((∀ p, fnOf f ≠ some (.net p)) → OnlyRegs [at1 (key 0x2020 f)] w t) ∧ SameMem w t))
  ∧ (∀ (s w : State) (r : Route) (dt f : Nat), w = s.wait dt → Commands w r .disable f →
    Leads (.disable dt r f) s (fun t =>
      t.fn f = .off ∧ t.pend f = false ∧ t.owner f = w.owner f ∧ OnlyRegs (fnSpans f) w t ∧ SameMem w t))
  ∧ (∀ (s w : State) (r : Route) (dt f : Nat), w = s.wait dt → Commands w r .clear f →
    Leads (.clear dt r f) s (fun t =>
      t.fn f = .stopped
      ∧ ((∀ g ∈ allFns, g ≠ f → w.fn g ≠ .faulted) → ∃ e, t.emergencies = w.emergencies ++ [e] ∧ e.type = 0)
      ∧ ((∃ g ∈ allFns, g ≠ f ∧ w.fn g = .faulted) → t.emergencies = w.emergencies)
      ∧ OnlyRegs [at1 (key 0x2020 f)] w t ∧ SameMem w t))
  ∧ (∀ (s w : State) (r : Route) (dt f : Nat), w = s.wait dt → Commands w r .claim f →
    Leads (.claim dt r f) s (fun t =>
      t.owner f = routeCode r ∧ t.fn f = w.fn f ∧ OnlyRegs [at1 (key 0x2020 f)] w t ∧ SameMem w t))
  ∧ (∀ (s w : State) (r : Route) (dt f : Nat), w = s.wait dt → Commands w r .release f →
    Leads (.release dt r f) s (fun t =>
      t.owner f = 0 ∧ t.fn f = w.fn f ∧ OnlyRegs [at1 (key 0x2020 f)] w t ∧ SameMem w t))
  ∧ (∀ (s w : State) (r : Route) (dt f : Nat), w = s.wait dt → Commands w r .stop f → ((∃ j, fnOf f = some (.job j)) → Calm w) →
    (∀ p, ∀ m ∈ (w.net p).results, m.stream < 16) →
    Leads (.stop dt r f) s (fun t =>
      (w.fn f = .stopping → OnlyRegs [] w t ∧ SameMem w t)
      ∧ ((∀ j, fnOf f ≠ some (.job j)) → t.fn f = .stopping ∧ SameMem w t)
      ∧ (∀ j, fnOf f = some (.job j) → t.fn f = .stopping ∨ (t.fn f = .stopped ∧ t.jobCtxs j = []))
      ∧ OnlyRegs (fnSpans f) w t))

/-- After a START has passed, `f` waits for a copy: of a flat-field table (12 R349), or, in a set, of its cache entries. -/
def waitsCopy (u : State) (set : Bool) (f : Nat) : Bool :=
  match fnOf f with
  | some (.stream q) => u.ffc q != 0 || (u.ife q).copying
  | some (.job j) => set && (!u.jobCached j || (u.job j).loading)
  | _ => false

/-- What a STOPPING function waits for before it is STOPPED (R410). -/
def mayEnd (s : State) (f : Nat) : Bool :=
  match fnOf f with
  | some (.stream q) => s.streamDrained q
  | some (.intake i) => (s.intake i).samples.isEmpty
  | some (.job j) => (s.job j).leaving && (s.jobCtxs j).isEmpty
  | some (.group g) => s.groupClosed g || s.stopExpired g
  | _ => true

/-- A START that passes its validation brings the function to RUNNING, or has it wait for its copies with PEND set (R411); a set
command starts its members together at the start of the next beat, or stops each of them (R417). A STOPPING function that has
finished enters STOPPED (R410). Choices of the model in it: log 119. -/
def Obligations.FunctionsStartAndStop : Prop :=
  (∀ (s w : State) (r : Route) (dt f : Nat) (u : State), w = s.wait dt → Commands w r .start f → w.launches = [] →
    (w.arrive r 0x2020 f (leBytes 4 0x300)).passes [f] = .ok u →
    Leads (.start dt r f) s (fun t =>
      (if waitsCopy u false f then t.fn f = .stopped ∧ t.pend f = true ∧ t.launches = [{ fns := [f], set := false }]
       else t.fn f = .running ∧ t.pend f = false ∧ t.launches = [])
      ∧ ((∀ j, fnOf f ≠ some (.job j)) → SameMem w t) ∧ OnlyRegs (fnSpans f) w t))
  ∧ (∀ (s w : State) (r : Route) (dt : Nat) (fs : List Nat) (u : State), w = s.wait dt →
    Accepts w r 0x2020 0xF2 (setBytes 3 fs) → setMembers (setBytes 3 fs) = some (.start, fs) →
    (∀ f ∈ fs, w.checkCmd r .start f = none) → w.launches = [] →
    (w.arrive r 0x2020 0xF2 (setBytes 3 fs)).passes fs = .ok u →
    Leads (.setStart dt r fs) s (fun t =>
      (∀ f ∈ fs, t.fn f = .stopped ∧ t.pend f = true)
      ∧ (if fs.any (waitsCopy u true) then t.launches = [{ fns := fs, set := true }]
         else t.OpensWith w.nextBeat (.enter fs) ∧ t.launches = [])
      ∧ SameMem w t ∧ OnlyRegs (fs.flatMap fnSpans) w t))
  ∧ (∀ (s : State) (fs : List Nat), fs.Nodup → (∀ f ∈ fs, (fnOf f).isSome = true) →
    (let t := s.perform (.enter fs)
     (∀ f ∈ fs, t.fn f = .running ∧ t.pend f = false) ∧ OnlyRegs (fs.flatMap fnSpans) s t
     ∧ ((∀ f ∈ fs, ∀ j, fnOf f ≠ some (.job j)) → SameMem s t)))
  ∧ (∀ (s w : State) (r : Route) (dt : Nat) (fs : List Nat), w = s.wait dt →
    Accepts w r 0x2020 0xF2 (setBytes 4 fs) → setMembers (setBytes 4 fs) = some (.stop, fs) →
    (∀ f ∈ fs, w.checkCmd r .stop f = none) → ((∃ f ∈ fs, ∃ j, fnOf f = some (.job j)) → Calm w) →
    (∀ p, ∀ m ∈ (w.net p).results, m.stream < 16) →
    Leads (.setStop dt r fs) s (fun t =>
      (∀ f ∈ fs, t.fn f = .stopping ∨ ((∃ j, fnOf f = some (.job j)) ∧ t.fn f = .stopped))
      ∧ ((∀ f ∈ fs, ∀ j, fnOf f ≠ some (.job j)) → SameMem w t) ∧ OnlyRegs (fs.flatMap fnSpans) w t))
  ∧ (∀ (s w : State) (dt f : Nat), w = s.wait dt → w.up = true → (fnOf f).isSome = true → w.fn f = .stopping → mayEnd w f = true →
    Leads (.functionStopped dt f) s (fun t =>
      t.fn f = .stopped
      ∧ (∀ q, fnOf f = some (.stream q) → t.allotOf (ownStream q) = none)
      ∧ (∀ j, fnOf f = some (.job j) → t.allotOf (ownJob j) = none ∧ t.job j = {})
      ∧ (∀ g, fnOf f = some (.group g) → (t.group g).entries = [])
      ∧ OnlyRegs (fnSpans f) w t ∧ SameMem w t))

/-- A START that fails its validation leaves every object as written and keeps nothing of what it placed; one that passes is not
refused afterwards (R414). -/
def Obligations.RefusedStartsLeaveEverything : Prop :=
  (∀ (s w : State) (r : Route) (dt f : Nat) (a : Abort), w = s.wait dt → Commands w r .start f →
    (w.arrive r 0x2020 f (leBytes 4 0x300)).passes [f] = .error a →
    Leads (.start dt r f) s (fun t => RefusedWith w t r a f))
  ∧ (∀ (s w : State) (r : Route) (dt : Nat) (fs : List Nat) (a : Abort), w = s.wait dt →
    Accepts w r 0x2020 0xF2 (setBytes 3 fs) → setMembers (setBytes 3 fs) = some (.start, fs) →
    (∀ f ∈ fs, w.checkCmd r .start f = none) →
    (w.arrive r 0x2020 0xF2 (setBytes 3 fs)).passes fs = .error a →
    Leads (.setStart dt r fs) s (fun t => RefusedWith w t r a 0xFF))
  ∧ (∀ (s w : State) (r : Route) (dt f : Nat) (u : State), w = s.wait dt → Commands w r .start f →
    (w.arrive r 0x2020 f (leBytes 4 0x300)).passes [f] = .ok u →
    Leads (.start dt r f) s (fun t => t.reg (refusalKey r) = w.reg (refusalKey r)))

/-- A download opens, takes segments whose toggle bit alternates and ends as one write; a wrong toggle bit, a segment without a
download, too large a value and a segment timer that runs out end it with their abort codes (R420).
Choices of the model in it: log 84, 85, 86. -/
def Obligations.SdoDownloadsProceedAndAbort : Prop :=
  (∀ (s w : State) (dt : Nat) (ix : BitVec 16) (sub : BitVec 8) (ca : Bool) (size : Option Nat), w = s.wait dt → w.served .ethercat = true →
    w.mute .ethercat = false →
    Leads (.sdoDownloadInitiate dt ix sub ca size) s (fun t =>
      (if (∃ n, size = some n ∧ w.tooLarge ix.toNat sub.toNat n = true) then
         t.ec.down = none ∧ RefusedWith w t .ethercat ⟨0x080000A2, ix.toNat, sub.toNat⟩ (cmdByte ix.toNat sub.toNat)
       else ∃ d, t.ec.down = some d ∧ d.index = ix.toNat ∧ d.sub = sub.toNat ∧ d.ca = ca ∧ d.size = size ∧ d.data = []
         ∧ d.toggle = false ∧ d.due = w.sclk + 1000000000 ∧ t.ec.abort = 0 ∧ OnlyRegs [] w t)
      ∧ SameMem w t))
  ∧ (∀ (s w : State) (dt : Nat) (tg final : Bool) (data : Bytes), w = s.wait dt → w.served .ethercat = true → w.mute .ethercat = false →
    (∀ d, w.ec.down = some d → w.sclk ≤ d.due) →
    Leads (.sdoDownloadSegment dt tg final data) s (fun t =>
      match w.ec.down with
      | none => t.ec.abort = 0x05040001 ∧ OnlyRegs [] w t ∧ SameMem w t
      | some d =>
        let all := d.data ++ data
        if tg ≠ d.toggle then t.ec.abort = 0x05030000 ∧ t.ec.down = none ∧ OnlyRegs [] w t ∧ SameMem w t
        else if w.tooLarge d.index d.sub all.length = true then
          t.ec.down = none ∧ RefusedWith w t .ethercat ⟨0x080000A2, d.index, d.sub⟩ (cmdByte d.index d.sub)
        else if final = false then
          t.ec.down = some { d with data := all, toggle := !tg, due := w.sclk + 1000000000 }
          ∧ t.ec.abort = w.ec.abort ∧ OnlyRegs [] w t ∧ SameMem w t
        else if (∃ n, d.size = some n ∧ n ≠ all.length) then
          t.ec.down = none ∧ RefusedWith w t .ethercat ⟨0x06070010, d.index, d.sub⟩ (cmdByte d.index d.sub)
        else Registered { w with ec := { w.ec with down := none } } t .ethercat d.index d.sub d.ca all))
  ∧ (∀ (s w : State) (dt : Nat) (tg final : Bool) (data : Bytes) (d : SdoDown), w = s.wait dt → w.served .ethercat = true →
    w.mute .ethercat = false → w.ec.down = some d → d.due < w.sclk →
    Leads (.sdoDownloadSegment dt tg final data) s (fun t =>
      t.ec.abort = 0x05040001 ∧ t.ec.down = none ∧ OnlyRegs [] w t ∧ SameMem w t))
  ∧ (∀ (s w : State) (dt : Nat) (d : SdoDown), w = s.wait dt → w.served .ethercat = true → w.ec.down = some d → d.due < w.sclk →
    Leads (.sdoSegmentTimeout dt) s (fun t =>
      t.ec.abort = 0x05040000 ∧ t.ec.down = none ∧ OnlyRegs [] w t ∧ SameMem w t))

/-- A transition of the AL state that is allowed is taken, one that is not is answered by its status code; no function state
changes, EtherCAT's claims end in INIT, and the veto bits are 0 outside OP (R421, R422). The SM2 watchdog takes OP to SAFEOP.
Emergencies are sent, oldest first, outside INIT (20 R494). Choices of the model in it: log 84, 88, 90, 91. -/
def Obligations.AlTransitionsAreTakenOrRefused : Prop :=
  (∀ (s w : State) (dt : Nat) (target : AlState) (sm2 sm3 : Nat) (ok : Bool) (cycle : Nat), w = s.wait dt → w.up = true →
    Leads (.alStateRequest dt target sm2 sm3 ok cycle) s (fun t =>
      let want := alCode target
      let bad := w.safeopCode sm2 sm3 cycle
      let code :=
        if target = .other then 0x0012 else if target = .boot ∨ alAllowed w.ec.al want = false then 0x0011
        else if w.ec.al = 1 ∧ want = 2 ∧ ok = false then 0x0016 else if w.ec.al = 2 ∧ want = 4 then bad else 0
      t.ec.code = code
      ∧ (code ≠ 0 → t.ec.al = w.ec.al ∧ t.pdVeto = w.pdVeto ∧ OnlyRegs [] w t)
      ∧ (code = 0 → t.ec.al = want ∧ (w.ec.al = 8 → want ≠ 8 → t.pdVeto = 0)
          ∧ (want = 1 → t.ec.down = none ∧ ∀ f ∈ allFns, t.owner f ≠ 1)
          ∧ (want = 4 → w.ec.al ≠ 4 → t.reg (key 0x6001 3) = 0 ∧ t.pdNext = w.pdQueue.length))
      ∧ (∀ f ∈ allFns, t.fn f = w.fn f) ∧ OnlyRegs (pages 0x2020 0x2020 :: verdictSpans) w t ∧ SameMem w t))
  ∧ (∀ (s w : State) (dt : Nat), w = s.wait dt → w.up = true → w.ec.al = 8 →
    Leads (.sm2Watchdog dt) s (fun t =>
      t.ec.al = 4 ∧ t.ec.code = 0x001B ∧ t.pdVeto = 0 ∧ (∀ f ∈ allFns, t.fn f = w.fn f)
      ∧ OnlyRegs verdictSpans w t ∧ SameMem w t))
  ∧ (∀ (s w : State) (dt : Nat) (r : EvRec) (rs : List EvRec), w = s.wait dt → w.up = true → w.emergencies = r :: rs → 2 ≤ w.ec.al →
    Leads (.emergencySend dt) s (fun t =>
      t.emergencies = rs ∧ t.ec.sent = w.emergencyOf r ∧ OnlyRegs [] w t ∧ SameMem w t))

/-- A snapshot of the inputs has been formed in the present cycle of `t` (R425, R426). -/
def SnapshotFormed (s t : State) : Prop :=
  let n := s.slotsMapped
  (∀ d : Fin 4, tget (fun _ => 0) t.ec.image (key 0x6000 (d + 1)) = s.lpos d)
  ∧ tget (fun _ => 0) t.ec.image (key 0x6020 2) = s.reg (key 0x2640 1)
  ∧ t.ec.taken = Nat.min n s.pdQueue.length
  ∧ (∀ r rs, s.pdQueue = r :: rs → 0 < n → t.ec.first = r.num)
  ∧ t.ec.prev = (s.ec.first, s.ec.taken) ∧ t.ec.snapAt = t.sclk ∧ t.ec.awaited = false ∧ t.pdQueue = s.pdQueue

/-- A frame start or SYNC0 forms a snapshot, a frame too close is counted (R425, R428); reading the inputs to their end releases the
records of the snapshot read (R426). Outputs taken in OP set the veto bits and execute the slots whose SEQ has changed (R427).
Choices of the model in it: log 82, 83, 87, 91. -/
def Obligations.ProcessDataIsExchanged : Prop :=
  (∀ (s w : State) (dt : Nat), w = s.wait dt → w.up = true → w.syncMode = false →
    Leads (.snapshot dt) s (fun t =>
      t.ec.frameAt = some w.sclk
      ∧ (if (∃ c, w.ec.frameAt = some c ∧ w.sclk < c + 25000) then
           t.reg (kSm 0x0C) = satAdd 16 (w.reg (kSm 0x0C)) 1 ∧ t.ec.image = w.ec.image ∧ t.pdQueue = w.pdQueue
         else SnapshotFormed w t ∧ OnlyRegs [] w t)
      ∧ OnlyRegs [at1 (kSm 0x0C)] w t ∧ SameMem w t))
  ∧ (∀ (s w : State) (dt : Nat), w = s.wait dt → w.up = true → w.syncMode = true → w.snapshotDue = true →
    Leads (.snapshot dt) s (fun t => SnapshotFormed w t ∧ OnlyRegs [] w t ∧ SameMem w t))
  ∧ (∀ (s w : State) (dt : Nat), w = s.wait dt → w.up = true → 4 ≤ w.ec.al →
    Leads (.sm3Read dt) s (fun t =>
      (∀ r, r ∈ t.pdQueue ↔ r ∈ w.pdQueue ∧
        ∀ i, i < w.recordsRead.2 → r.num ≠ (w.recordsRead.1 + i) % 2 ^ 32)
      ∧ OnlyRegs [] w t ∧ SameMem w t))
  ∧ (∀ (s w : State) (dt : Nat) (image : Bytes), w = s.wait dt → w.up = true → w.ec.al = 8 → image.length = mapBytes (w.mapped 0x1C12) →
    Leads (.sm2OutputsTaken dt image) s (fun t =>
      let u := w.fillOutputs image
      let v := u.reg (key 0x7020 1)
      t.pdVeto = u.reg (key 0x7000 1)
      ∧ (∀ i : Fin 4, tget (fun _ => 0) t.ec.seqs i = bits (u.reg (key 0x7010 (2 * i + 1))) 63 56)
      ∧ (∀ i : Fin 4, bits (u.reg (key 0x7010 (2 * i + 1))) 63 56 ≠ tget (fun _ => 0) w.ec.seqs i →
          (let r := ejectRec (u.reg (key 0x7010 (2 * i + 1))) (u.reg (key 0x7010 (2 * i + 2)))
           t.ClosesWith (w.sclk + 1) 12 (.fire 0x10 none r.w0 r.w1 r.w2 r.w3)))
      ∧ t.ec.cmdSeq = bits v 31 24
      ∧ (bits v 31 24 ≠ w.ec.cmdSeq →
          ∃ code, t.reg (key 0x6020 5) = (bits v 31 24 * 2 ^ 56 + bits v 23 16 * 2 ^ 48 + code) % 2 ^ 64)
      ∧ (bits v 31 24 = w.ec.cmdSeq →
          OnlyRegs ((w.mapped 0x1C12).map (fun e => at1 (key e.1 e.2.1)) ++ verdictSpans) w t ∧ SameMem w t)))
  ∧ (∀ (s w : State) (dt : Nat), w = s.wait dt → w.up = true →
    Leads (.sync0 dt) s (fun t =>
      t.reg (kTime 0x23) = w.t32 % 2 ^ widthOf (kTime 0x23) ∧ t.ec.syncAt = some w.sclk ∧ t.ec.awaited = true
      ∧ OnlyRegs [at1 (kTime 0x23)] w t ∧ SameMem w t))
  ∧ (∀ (s w : State) (dt c : Nat), w = s.wait dt → w.up = true → w.syncMode = true → w.ec.syncAt = some c → 0 < w.reg (kSm 2) →
    c + w.reg (kSm 2) / 2 + 4 < w.sclk →
    Leads (.sync0Missed dt) s (fun t =>
      t.reg (kSm 0x20) = 1 ∧ t.reg (key 0x1C32 0x20) = 1 ∧ OnlyRegs [at1 (kSm 0x20), at1 (key 0x1C32 0x20)] w t ∧ SameMem w t))

/-! The host port (17). -/

/-- The host port after a WRITE transaction has been taken with sequence `n`: no pulse, no response held (R434). -/
def hspTaken (s : State) (n : Nat) : HspUnit := { s.hsp with pulse := none, last := none, seen := 0, resp := none, seq := n }

/-- A sound request with code `op` reaches an idle port (R433, R434). -/
def Requests (s : State) (op : Nat) (frame : Bytes) : Prop :=
  s.served .hostPort = true ∧ s.hsp.busy = none ∧ reqStatus frame = 0 ∧ (hspReq frame).op = op

/-- The request is in progress with this response to come, and the open transfer is `x`. -/
def Answering (s t : State) (q : HspReq) (a : HspResp) (x : Option Transfer) : Prop :=
  t.hsp.busy = some (.ready, a) ∧ t.hsp.xfer = x ∧ t.hsp.resp = none ∧ t.hsp.pulse = none
  ∧ t.hsp.seq = (if a.pstat = 0 then q.seq else s.hsp.seq)

/-- The write of a value that has come whole is registered as a DICTIONARY_WRITE is, and its outcome is the response. -/
def Written (s t : State) (q : HspReq) (ix sub : Nat) (ca : Bool) (data : Bytes) (x : Option Transfer) : Prop :=
  let v := { s with hsp := { hspTaken s q.seq with xfer := x } }
  ∃ y k a, Registered v y .hostPort ix sub ca data
    ∧ t = { y with hsp := { y.hsp with xfer := none, busy := some (k, a) } }
    ∧ a.pstat = 0 ∧ a.seq = q.seq ∧ a.index = q.index ∧ a.sub = q.sub ∧ a.data = []
    ∧ a.abort = (match (v.writeAny .hostPort ix sub ca data).no with | some b => b.code | none => 0)

/-- The transfer that a request opens, with its timer of 2 s loaded in cycle `c`. -/
def opening (down : Bool) (q : HspReq) (size : Nat) (data : Bytes) (off c : Nat) : Transfer :=
  ⟨down, q.index, q.sub, q.ca, size, data, off, c + 1000000000⟩

/-- The request commands of the host port with their codes (Table 17-3). -/
def hostRequests : List ((Nat → Bytes → Instr) × Nat) :=
  [(.upload, 1), (.download, 2), (.downloadSegment, 3), (.uploadSegment, 4), (.abortTransfer, 5)]

/-- An UPLOAD takes its value once, a DOWNLOAD writes one that comes whole and opens a transfer for a longer one, segments carry a
transfer on to its end, and ABORT TRANSFER ends it (R436). A transfer whose timer has run out is closed and counted before (R63). A
segment that fits no transfer, a request with a fault and one sent
while another is in progress are answered, or ignored and counted (R433, R434). Choices of the model in it: log 48, 92. -/
def Obligations.HostRequestsAreAnswered : Prop :=
  (∀ (s w : State) (dt : Nat) (frame : Bytes), w = s.wait dt → Requests w 1 frame → w.hsp.xfer = none →
    Leads (.upload dt frame) s (fun t =>
      let q := hspReq frame
      match if q.ca then w.readComplete q.index q.sub else w.readEntry q.index q.sub with
      | .error c => Answering w t q (q.answer 0 c 0 []) none ∧ OnlyRegs [] w t ∧ SameMem w t
      | .ok r =>
        Answering w t q (q.answer 0 0 r.1.length (r.1.take 4096))
          (if r.1.length ≤ 4096 then none else some (opening false q r.1.length r.1 4096 w.sclk))
        ∧ OnlyRegs (if q.ca then [pages q.index q.index] else [at1 (key q.index q.sub)]) w t ∧ SameMem w t))
  ∧ (∀ (s w : State) (dt : Nat) (frame : Bytes), w = s.wait dt → Requests w 2 frame → w.hsp.xfer = none →
    Leads (.download dt frame) s (fun t =>
      let q := hspReq frame
      if w.tooLarge q.index q.sub q.size = true then
        Answering w t q (q.answer 0 0x080000A2 0 []) none
        ∧ RefusedWith w t .hostPort ⟨0x080000A2, q.index, q.sub⟩ (cmdByte q.index q.sub)
      else if q.size < q.dlen then
        Answering w t q (q.answer 0 0x06070010 0 []) none
        ∧ RefusedWith w t .hostPort ⟨0x06070010, q.index, q.sub⟩ (cmdByte q.index q.sub)
      else if q.size = q.dlen then Written w t q q.index q.sub q.ca q.data none
      else
        Answering w t q (q.answer 0 0 0 []) (some (opening true q q.size q.data 0 w.sclk))
        ∧ OnlyRegs [] w t ∧ SameMem w t))
  ∧ (∀ (s w : State) (dt : Nat) (frame : Bytes) (x : Transfer), w = s.wait dt → Requests w 3 frame → w.hsp.xfer = some x →
    w.sclk ≤ x.due →
    Leads (.downloadSegment dt frame) s (fun t =>
      let q := hspReq frame
      let all := x.data ++ q.data
      if x.down = false ∨ q.size ≠ x.data.length ∨ x.size < all.length then
        Answering w t q (q.answer 4 0 0 []) none ∧ OnlyRegs [] w t ∧ SameMem w t
      else if all.length = x.size then Written w t q x.index x.sub x.ca all (some x)
      else
        Answering w t q (q.answer 0 0 q.size []) (some { x with data := all, due := w.sclk + 1000000000 })
        ∧ OnlyRegs [] w t ∧ SameMem w t))
  ∧ (∀ (s w : State) (dt : Nat) (frame : Bytes) (x : Transfer), w = s.wait dt → Requests w 4 frame → w.hsp.xfer = some x →
    w.sclk ≤ x.due →
    Leads (.uploadSegment dt frame) s (fun t =>
      let q := hspReq frame
      let part := (x.data.drop x.off).take 4096
      (if x.down = true ∨ q.size ≠ x.off then Answering w t q (q.answer 4 0 0 []) none
       else Answering w t q (q.answer 0 0 q.size part)
         (if x.off + part.length < x.size then
            some { x with off := x.off + part.length, due := w.sclk + 1000000000 } else none))
      ∧ OnlyRegs [] w t ∧ SameMem w t))
  ∧ (∀ (s w : State) (dt : Nat) (frame : Bytes), w = s.wait dt → Requests w 5 frame →
    (∀ x, w.hsp.xfer = some x → w.sclk ≤ x.due) →
    Leads (.abortTransfer dt frame) s (fun t =>
      let q := hspReq frame
      let p := if w.hsp.xfer.isSome then 0 else if w.hsp.timed then 5 else 4
      Answering w t q (q.answer p 0 0 []) none ∧ OnlyRegs [] w t ∧ SameMem w t))
  ∧ (∀ c ∈ hostRequests, ∀ (s w : State) (dt : Nat) (frame : Bytes) (x : Transfer), w = s.wait dt → 3 ≤ c.2 → Requests w c.2 frame →
    w.hsp.xfer = some x → x.due < w.sclk →
    Leads (c.1 dt frame) s (fun t =>
      Answering w t (hspReq frame) ((hspReq frame).answer 5 0 0 []) none ∧ t.hsp.tmo = true
      ∧ t.reg (key 0x2904 1) = satAdd 32 (w.reg (key 0x2904 1)) 1 ∧ OnlyRegs [counterSpan] w t ∧ SameMem w t))
  ∧ (∀ c ∈ hostRequests, ∀ (s w : State) (dt : Nat) (frame : Bytes), w = s.wait dt → w.served .hostPort = true →
    (w.hsp.busy.isSome = true →
      Leads (c.1 dt frame) s (fun t =>
        t.hsp = { w.hsp with pulse := none, last := none, seen := 0, busyw := true }
        ∧ t.reg (key 0x2904 3) = satAdd 32 (w.reg (key 0x2904 3)) 1 ∧ OnlyRegs [counterSpan] w t ∧ SameMem w t))
    ∧ (w.hsp.busy = none → (reqStatus frame = 1 ∨ reqStatus frame = 3) → 16 ≤ frame.length →
      Leads (c.1 dt frame) s (fun t =>
        t.hsp.busy = some (.ready, (hspReq frame).answer (reqStatus frame) 0 0 []) ∧ t.hsp.xfer = w.hsp.xfer
        ∧ OnlyRegs [] w t ∧ SameMem w t))
    ∧ (w.hsp.busy = none → reqStatus frame = 2 →
      Leads (c.1 dt frame) s (fun t =>
        (∃ a, t.hsp.busy = some (.ready, a) ∧ a.pstat = 2) ∧ t.hsp.frerr = true ∧ t.hsp.xfer = w.hsp.xfer
        ∧ t.reg (key 0x2904 2) = satAdd 32 (w.reg (key 0x2904 2)) 1 ∧ OnlyRegs [counterSpan] w t ∧ SameMem w t)))

/-- A response is held once what it waits for has come, READ returns it, STATUS returns the status word and clears its sticky bits,
EVENT the records clocked out; RESET ends transfers and the host port's claims (R431 to R437, R439). Timeouts are counted (R432,
R436), and attention pulses begin and end (R438). Choices of the model in it: log 93, 94. -/
def Obligations.HostTransactionsAndTimersAct : Prop :=
  (∀ (s w : State) (dt : Nat) (k : Await) (a : HspResp), w = s.wait dt → w.served .hostPort = true → w.hsp.busy = some (k, a) → w.awaitDone k = true →
    Leads (.responseReady dt) s (fun t =>
      t.hsp = { w.hsp with busy := none, resp := some a } ∧ OnlyRegs [] w t ∧ SameMem w t))
  ∧ (∀ (s w : State) (dt : Nat), w = s.wait dt → w.served .hostPort = true →
    Leads (.read dt) s (fun t =>
      (match w.hsp.busy, w.hsp.resp with
       | some b, _ => t.hsp.out = ({ pstat := 6, seq := b.2.seq, index := b.2.index, sub := b.2.sub } : HspResp).bytes
           ∧ t.hsp.resp = w.hsp.resp
       | none, some a => t.hsp.out = a.bytes ∧ t.hsp.resp = some { a with read := true }
       | none, none => t.hsp.out = ({ pstat := 7, seq := 0 } : HspResp).bytes ∧ t.hsp.resp = none)
      ∧ t.hsp.busy = w.hsp.busy ∧ t.hsp.pulse = none ∧ OnlyRegs [] w t ∧ SameMem w t))
  ∧ (∀ (s w : State) (dt : Nat), w = s.wait dt → w.served .hostPort = true →
    Leads (.status dt) s (fun t =>
      t.hsp.out = leBytes 8 w.statusWord ∧ t.hsp.busyw = false ∧ t.hsp.frerr = false ∧ t.hsp.tmo = false ∧ t.hsp.rst = false
      ∧ t.evOverflow = false ∧ t.hsp.busy = w.hsp.busy ∧ t.hsp.resp = w.hsp.resp ∧ OnlyRegs [] w t ∧ SameMem w t))
  ∧ (∀ (s w : State) (dt n : Nat), w = s.wait dt → w.served .hostPort = true →
    Leads (.event dt n) s (fun t =>
      t.events = w.events.drop (n / 32) ∧ t.hsp.out.length = n
      ∧ t.hsp.out = ((w.events.flatMap EvRec.bytes) ++ List.replicate n 0#8).take n ∧ OnlyRegs [] w t ∧ SameMem w t))
  ∧ (∀ (s w : State) (dt : Nat) (b : Byte), w = s.wait dt → w.served .hostPort = true →
    Leads (.resetTransaction dt b) s (fun t =>
      (b = 0x5A#8 → t.hsp.xfer = none ∧ t.hsp.resp = none ∧ t.hsp.rst = true ∧ (∀ f ∈ allFns, t.owner f ≠ 2)
        ∧ (∀ f ∈ allFns, t.fn f = w.fn f) ∧ OnlyRegs [pages 0x2020 0x2020] w t)
      ∧ (b ≠ 0x5A#8 → t.hsp.frerr = true ∧ t.hsp.xfer = w.hsp.xfer
        ∧ t.reg (key 0x2904 2) = satAdd 32 (w.reg (key 0x2904 2)) 1 ∧ OnlyRegs [counterSpan] w t)
      ∧ SameMem w t))
  ∧ (∀ (s w : State) (dt : Nat), w = s.wait dt → w.served .hostPort = true →
    Leads (.transactionTimeout dt) s (fun t =>
      t.hsp.tmo = true ∧ t.hsp.xfer = w.hsp.xfer ∧ t.hsp.busy = w.hsp.busy
      ∧ t.reg (key 0x2904 1) = satAdd 32 (w.reg (key 0x2904 1)) 1 ∧ OnlyRegs [counterSpan] w t ∧ SameMem w t))
  ∧ (∀ (s w : State) (dt : Nat) (x : Transfer), w = s.wait dt → w.served .hostPort = true → w.hsp.xfer = some x → x.due < w.sclk →
    Leads (.transferTimeout dt) s (fun t =>
      t.hsp = { w.hsp with xfer := none, timed := true, tmo := true }
      ∧ t.reg (key 0x2904 1) = satAdd 32 (w.reg (key 0x2904 1)) 1 ∧ OnlyRegs [counterSpan] w t ∧ SameMem w t))
  ∧ (∀ (s w : State) (dt : Nat), w = s.wait dt → w.served .hostPort = true → w.pulseDue = true →
    Leads (.attentionPulse dt) s (fun t =>
      t.hsp = { w.hsp with pulse := some w.sclk, last := some w.sclk, seen := w.events.length }
      ∧ t.hsp.hrdy = false ∧ OnlyRegs [] w t ∧ SameMem w t))
  ∧ (∀ (s w : State) (dt c : Nat), w = s.wait dt → w.served .hostPort = true → w.hsp.pulse = some c → c + 125 ≤ w.sclk →
    Leads (.attentionPulseEnd dt) s (fun t => t.hsp = { w.hsp with pulse := none } ∧ OnlyRegs [] w t ∧ SameMem w t))

/-! Network ports (18). -/

/-- Registers of the network ports and of their lanes. -/
def netSpans : Spans := [pages 0x2700 0x2701, pages 0x2720 0x2720, pages 0x2730 0x2730]

/-- A lane comes up: some valid candidate reaches the threshold of 2720h.2Dh with a figure above 0 (R442). -/
def laneUp (s : State) (l : Nat) (ts : List LaneTrial) : Prop :=
  ∃ c, c < 8 ∧ s.candValid l c = true ∧ s.reg (key 0x2720 0x2D) ≤ (trialOf ts c).merit ∧ 0 < (trialOf ts c).merit

/-- The link of port `p` has been lost: DOWN, its lanes down, its bring-up due in the next cycle (R443). -/
def LinkLost (s t : State) (p : Nat) : Prop :=
  t.lstate p = 0 ∧ (t.net p).train = some (s.sclk + 1) ∧ (t.net p).retry = none
  ∧ (∀ l ∈ netLanes p, t.bit' (key 0x2720 (0x25 + l)) 3 = false)
  ∧ (let k := if p < 2 then kNet p 0x19 else kLink 0x0B
     t.reg k = satAdd (widthOf k) (s.reg k) 1)

/-- Lanes are tried; a port all of whose lanes come up is UP, another FAILs and retries after 1 s (R442). On MLINK a wrong identity
or too long a deskew is a link loss. A link that is lost goes DOWN, is counted and comes up again (R443). A PLL that does not lock
faults its port (R457). Frames are counted and the faulty ones discarded, the resolver keeps what it learns for 60 s (R445), and
PAUSE holds the transmitter or is sent again while the receive buffer is short (R446). Choices of the model in it: log 98, 105. -/
def Obligations.LinksAndFramesAct : Prop :=
  (∀ (s w : State) (dt : Nat) (p : Fin 3) (ts : List (List LaneTrial)) (m : LaneMarkers) (c : Nat), w = s.wait dt → w.up = true →
    (w.net p).train = some c → c ≤ w.sclk → w.netLit p = true →
    Leads (.laneBringUp dt p ts m) s (fun t =>
      (∀ x ∈ (netLanes p).zip (List.range 2), ∀ i : Fin 8, t.reg (key 0x2720 (0x2E + 8 * x.1 + i)) =
        (if w.candValid x.1 i then min 256 (trialOf (ts.getD x.2 []) i).merit else 0xFFFF))
      ∧ ((∀ x ∈ (netLanes p).zip (List.range 2), laneUp w x.1 (ts.getD x.2 [])) →
          (if p.val = 2 ∧ (m.identity ≠ w.reg (kLink 1) ∨ 32 < m.deskew) then LinkLost w t p
           else t.lstate p = 2 ∧ (t.net p).train = none)
          ∧ (p.val = 2 → t.reg (kLink 0x0C) = min 32 m.deskew ∧ t.bit' (kLink 7) 2 = m.reversed)
          ∧ (p.val < 2 → t.field' (kNet p 0x1A) 15 0 = satAdd 16 (w.field' (kNet p 0x1A) 15 0) 1))
      ∧ ((∃ x ∈ (netLanes p).zip (List.range 2), ¬laneUp w x.1 (ts.getD x.2 [])) →
          t.lstate p = 3 ∧ (t.net p).train = none ∧ (t.net p).retry = some (w.sclk + 500000000)
          ∧ (p.val < 2 → t.field' (kNet p 0x1A) 31 16 = satAdd 16 (w.field' (kNet p 0x1A) 31 16) 1))
      ∧ OnlyRegs netSpans w t ∧ SameMem w t))
  ∧ (∀ (s w : State) (dt : Nat) (p : Fin 3) (c : Nat), w = s.wait dt → w.up = true → (w.net p).retry = some c → c ≤ w.sclk →
    Leads (.bringUpRetry dt p) s (fun t =>
      t.lstate p = 1 ∧ (t.net p).train = some w.sclk ∧ (t.net p).retry = none
      ∧ OnlyRegs [at1 (kLstate p)] w t ∧ SameMem w t))
  ∧ (∀ (s w : State) (dt : Nat) (p : Fin 3), w = s.wait dt → w.up = true → w.lstate p = 2 → w.netLit p = true →
    Leads (.linkLoss dt p) s (fun t => LinkLost w t p ∧ OnlyRegs netSpans w t ∧ SameMem w t))
  ∧ (∀ (s w : State) (dt : Nat) (p : Fin 3), w = s.wait dt → w.up = true → w.active (fNet p) = true →
    Leads (.pllLockFailure dt p) s (fun t =>
      t.fn (fNet p) = .faulted ∧ t.lstate p = 0 ∧ t.net p = {}
      ∧ OnlyRegs (at1 (key 0x2020 (fNet p)) :: at1 (key 0x2904 5) :: at1 (key 0x2904 6) :: netSpans) w t ∧ SameMem w t))
  ∧ (∀ (s w : State) (dt : Nat) (n : Fin 2) (k : FrameKind), w = s.wait dt → w.up = true → (w.running (fNet n) || w.netDozes n) = true →
    w.lstate n = 2 →
    Leads (.frameReceived dt n k) s (fun t =>
      t.reg (kNet n 0x10) = satAdd (widthOf (kNet n 0x10)) (w.reg (kNet n 0x10)) 1
      ∧ (k = .badFcs ∨ k = .tagged ∨ k = .filtered ∨ k = .fragment ∨ k = .badChecksum
           ∨ ((∃ q, k = .pause q) ∧ w.bit' (kNet n 1) 2 = false) →
          t.reg (kNet n 0x11) = satAdd (widthOf (kNet n 0x11)) (w.reg (kNet n 0x11)) 1 ∧ t.nets = w.nets)
      ∧ (∀ a mac, k = .arpRequest a mac ∨ k = .arpReply a mac →
          tfind (t.net n).arp a = some (mac, w.sclk + 30000000000))
      ∧ (k = .echoRequest → t.reg (kNet n 0x12) = satAdd (widthOf (kNet n 0x12)) (w.reg (kNet n 0x12)) 1)
      ∧ (∀ q, k = .pause q → w.bit' (kNet n 1) 2 = true →
          (t.net n).paused = (if q = 0 then none else some (w.sclk + w.quanta n (q % 65536)))
          ∧ t.field' (kNet n 0x18) 15 0 = satAdd 16 (w.field' (kNet n 0x18) 15 0) 1)
      ∧ OnlyRegs [pages (0x2700 + n) (0x2700 + n)] w t ∧ SameMem w t))
  ∧ (∀ (s w : State) (dt : Nat) (n : Fin 2) (a mac c : Nat), w = s.wait dt → w.up = true → tfind (w.net n).arp a = some (mac, c) →
    c ≤ w.sclk →
    Leads (.arpEntryExpiry dt n a) s (fun t => tfind (t.net n).arp a = none ∧ OnlyRegs [] w t ∧ SameMem w t))
  ∧ (∀ (s w : State) (dt : Nat) (n : Fin 2) (c : Nat), w = s.wait dt → w.up = true → (w.net n).pauseAt = some c → c ≤ w.sclk →
    Leads (.pauseRepeat dt n) s (fun t =>
      (t.net n).pauseAt = some (w.sclk + w.quanta n 32768)
      ∧ (w.rxSize n - w.rxUsed n < w.reg (kNet n 0x0B) * 2 ^ 20 →
          t.field' (kNet n 0x18) 31 16 = satAdd 16 (w.field' (kNet n 0x18) 31 16) 1
          ∧ t.reg (kNet n 0x12) = satAdd (widthOf (kNet n 0x12)) (w.reg (kNet n 0x12)) 1)
      ∧ (w.reg (kNet n 0x0B) * 2 ^ 20 ≤ w.rxSize n - w.rxUsed n → OnlyRegs [] w t)
      ∧ OnlyRegs [at1 (kNet n 0x18), at1 (kNet n 0x12)] w t ∧ SameMem w t))
  ∧ (∀ (s w : State) (dt : Nat) (n : Fin 2) (c : Nat), w = s.wait dt → w.up = true → (w.net n).paused = some c → c ≤ w.sclk →
    Leads (.pauseExpiry dt n) s (fun t => (t.net n).paused = none ∧ OnlyRegs [at1 (kNet n 0x12)] w t ∧ SameMem w t))

/-- The message that the segment with this header belongs to. -/
def headOf (a u : Nat) (bs : Bytes) : InMsg :=
  { addr := a, udp := u, cls := leAt bs 3 1, stream := leAt bs 4 1, seq := leAt bs 8 4, total := leAt bs 12 4, stamp := leAt bs 24 4 }

/-- A message has been discarded by port `p` for a reason: counted, and on a NET port a notice to its sender waits (R450). -/
def Discarded (s t : State) (p : Nat) (m : InMsg) (reason : Nat) : Prop :=
  p < 2 →
    t.reg (kNet p 0x14) = satAdd (widthOf (kNet p 0x14)) (s.reg (kNet p 0x14)) 1
    ∧ ∃ n, (t.net p).notices = (s.net p).notices ++ [n] ∧ n.cls = 6 ∧ n.addr = m.addr ∧ n.udp = m.udp
      ∧ n.data = leBytes 4 (m.cls + 256 * m.stream) ++ leBytes 4 m.seq ++ leBytes 8 reason

/-- A message of one segment waits for its consumer, one of several is under reassembly, a wrong header is discarded, and a
reassembly that runs out of time is discarded with a notice (R447 to R450). A segment in transmission finishes (R452).
Choices of the model in it: log 103, 106. -/
def Obligations.SegmentsAreReceivedAndSent : Prop :=
  (∀ (s w : State) (dt : Nat) (p : Fin 3) (a u : Nat) (bs : Bytes), w = s.wait dt → w.up = true → w.running (fNet p) = true → w.lstate p = 2 →
    (w.segmentOk p bs = false →
      Leads (.segmentReceived dt p a u bs) s (fun t =>
        (p.val < 2 → t.reg (kNet p 0x11) = satAdd (widthOf (kNet p 0x11)) (w.reg (kNet p 0x11)) 1)
        ∧ t.nets = w.nets ∧ OnlyRegs netSpans w t ∧ SameMem w t))
    ∧ (w.segmentOk p bs = true → (w.net p).opens.find? (fun x => x.sameKey (headOf a u bs)) = none →
      (w.net p).ready.any (fun x => x.sameKey (headOf a u bs) && x.seq == (headOf a u bs).seq) = false →
      (w.net p).opens.length < 256 → (p.val < 2 → w.rxUsed p + (headOf a u bs).space ≤ w.rxSize p) →
      (∀ x ∈ (w.net p).opens, w.sclk ≤ x.due) →
      Leads (.segmentReceived dt p a u bs) s (fun t =>
        let m := headOf a u bs
        (if leAt bs 20 2 < m.total then
           ∃ x, (t.net p).opens = (w.net p).opens ++ [x] ∧ x.sameKey m = true ∧ x.seq = m.seq ∧ x.total = m.total
             ∧ (∀ i, i < leAt bs 20 2 → tfind x.got (leAt bs 16 4 + i) = some (bs.getD (32 + i) 0))
             ∧ (p.val < 2 → x.due = w.sclk + micros (w.reg (kNet p 0x0A))) ∧ (t.net p).ready = (w.net p).ready
         else
           ∃ x, x.sameKey m = true ∧ x.seq = m.seq ∧ x.stamp = m.stamp ∧ x.bytes = bs.drop 32
             ∧ (if w.badPayload x = true then Discarded w t p m 5
                else if w.takesClass p m = false then Discarded w t p m 6
                else (t.net p).ready = (w.net p).ready ++ [x]))
        ∧ OnlyRegs netSpans w t ∧ SameMem w t)))
  ∧ (∀ (s w : State) (dt : Nat) (p : Fin 3) (a u : Nat) (c i : Byte) (m : InMsg), w = s.wait dt → w.up = true →
    (w.net p).opens.find? (fun x => x.addr == a && x.udp == u && x.cls == c.toNat && x.stream == i.toNat) = some m →
    m.due < w.sclk →
    Leads (.reassemblyTimeout dt p a u c i) s (fun t =>
      (t.net p).opens = (w.net p).opens.filter (fun x => !x.sameKey m) ∧ Discarded w t p m 2
      ∧ OnlyRegs netSpans w t ∧ SameMem w t))
  ∧ (∀ (s w : State) (dt : Nat) (p : Fin 3) (k : TxKind), w = s.wait dt → w.up = true → (w.net p).tx = some k →
    Leads (.segmentTransmitted dt p) s (fun t =>
      let sent := if p.val < 2 then kNet p 0x15 else kLink 0x0A
      (k = .ptp → (w.net p).ptpOut - 1 = (t.net p).ptpOut)
      ∧ (k = .notice → (t.net p).notices = (w.net p).notices.drop 1)
      ∧ (k = .notice ∨ k = .verdict → t.reg sent = satAdd (widthOf sent) (w.reg sent) 1)
      ∧ (∀ m ms, k = .result → (w.net p).results = m :: ms →
          if m.data.length ≤ m.sent + w.segBytes p then
            (t.net p).results = ms ∧ t.reg sent = satAdd (widthOf sent) (w.reg sent) 1
          else (t.net p).results = { m with sent := m.sent + w.segBytes p } :: ms)
      ∧ OnlyRegs netSpans w t ∧ SameMem w t))

/-- A message on MLINK is written into the inbox behind its header, or dropped where it does not fit (R455). -/
def Inboxed (s t : State) (m : InMsg) : Prop :=
  let u := ((s.dropReady 2 m).addReg (kLink 8) 1).catchAll
  let a := s.reg (kLink 5) + (s.net 2).inbox % Nat.max 1 (s.reg (kLink 2)) * s.reg (kLink 3)
  (t.net 2).ready = (s.net 2).ready.erase m
  ∧ (if s.reg (kLink 3) < 32 + m.total then
       t.reg (kLink 9) = satAdd (widthOf (kLink 9)) (s.reg (kLink 9)) 1 ∧ OnlyRegs [at1 (kLink 9)] s t ∧ SameMem s t
     else
       t.ext.Holds a (leBytes 4 (s.net 2).inbox ++ leBytes 4 m.stream ++ leBytes 4 m.total ++ leBytes 4 m.stamp ++ List.replicate 16 0 ++ m.bytes)
       ∧ (t.net 2).inbox = ((s.net 2).inbox + 1) % 2 ^ 32
       ∧ t.reg (kLink 8) = satAdd (widthOf (kLink 8)) (s.reg (kLink 8)) 1
       ∧ (bit (s.reg (kLink 4)) 12 = true → ∀ d, s.jobDom (bits (s.reg (kLink 4)) 11 6) = some d →
           t.OpensC (s.toCclk s.sclk) 0 (.external (bits (s.reg (kLink 4)) 11 6) (bits (s.reg (kLink 4)) 5 0) (s.lpos d)))
       ∧ (∀ b, b < a ∨ a + 32 + m.bytes.length ≤ b → t.ext.get b = u.ext.get b)
       ∧ t.ts = u.ts ∧ t.acc = u.acc ∧ t.stack = u.stack ∧ t.valid = u.valid ∧ OnlyRegs [] u t ∧ OnlyRegs (at1 (kLink 8) :: workSpans) s t)

/-- The oldest message that can be taken leaves the receive buffer for its consumer: a sample for its intake stream, records for the
banks, a container for the model store (R449, R477); those of MLINK go to the inbox (R455).
Choices of the model in it: log 107, 111. -/
def Obligations.MessagesReachTheirConsumers : Prop :=
  (∀ (s w : State) (dt : Nat) (m : InMsg) (ms : List InMsg), w = s.wait dt → w.up = true → (w.net 2).ready = m :: ms →
    Leads (.inboxWrite dt) s (fun t => Inboxed w t m))
  ∧ (∀ (s w : State) (dt : Nat) (m : InMsg), w = s.wait dt → w.up = true → w.takeable 2 = some m →
    Leads (.messageHandedOn dt 2) s (fun t => Inboxed w t m))
  ∧ (∀ (s w : State) (dt : Nat) (p : Fin 2) (m : InMsg), w = s.wait dt → w.up = true → w.takeable p = some m → m.cls = 1 → m.stream < 16 →
    hdr (slice m.bytes 0 64) 8 8 = w.reg (kIn m.stream 0x11) →
    Leads (.messageHandedOn dt (p.castSucc)) s (fun t =>
      (t.net p).ready = (w.net p).ready.erase m
      ∧ (∃ x, (t.intake m.stream).samples = (w.intake m.stream).samples ++ [x] ∧ x.index = w.reg (kIn m.stream 0x11)
          ∧ x.header = slice m.bytes 0 64)
      ∧ t.reg (kIn m.stream 0x11) = (w.reg (kIn m.stream 0x11) + 1) % 2 ^ widthOf (kIn m.stream 0x11)
      ∧ t.reg (kNet p 0x13) = satAdd (widthOf (kNet p 0x13)) (w.reg (kNet p 0x13)) 1
      ∧ OnlyRegs (at1 (kIn m.stream 0x11) :: netSpans) w t ∧ SameMem w t))
  ∧ (∀ (s w : State) (dt : Nat) (p : Fin 2) (m : InMsg), w = s.wait dt → w.up = true → w.takeable p = some m → m.cls = 2 →
    leAt m.bytes 1 1 = 1 → m.bytes.length = 288 →
    Leads (.messageHandedOn dt (p.castSucc)) s (fun t =>
      (t.net p).ready = (w.net p).ready.erase m
      ∧ t.reg (kNet p 0x13) = satAdd (widthOf (kNet p 0x13)) (w.reg (kNet p 0x13)) 1
      ∧ t.ClosesC w.cclk (6 + p) (.enrol m.bytes) ∧ OnlyRegs netSpans w t ∧ SameMem w t))
  ∧ (∀ (s w : State) (dt : Nat) (p : Fin 2) (m : InMsg), w = s.wait dt → w.up = true → w.takeable p = some m → m.cls = 3 →
    Leads (.messageHandedOn dt (p.castSucc)) s (fun t =>
      (t.net p).ready = (w.net p).ready.erase m
      ∧ (if w.asleep = true then Discarded w t p m 6 ∧ t.models = w.models else match w.verify 2 m.bytes with
         | .bad reason _ =>
           t.reg (kSec 0x0C) = (reason * 2 ^ 24 + leAt m.bytes 4 1 * 2 ^ 16) % 2 ^ widthOf (kSec 0x0C)
           ∧ t.reg (kSec 0x0D) = satAdd (widthOf (kSec 0x0D)) (w.reg (kSec 0x0D)) 1 ∧ t.models = w.models
         | .good _ payload =>
           if w.modelUsed (leAt m.bytes 16 4) = true then Discarded w t p m 6 ∧ t.models = w.models
           else if w.modelFits m.bytes payload = false then Discarded w t p m 1 ∧ t.models = w.models
           else ∃ x ∈ t.models, x.id = leAt m.bytes 16 4 ∧ x.payload = payload)
      ∧ t.ts = w.ts ∧ t.acc = w.acc ∧ t.ext = w.ext ∧ t.valid = w.valid
      ∧ OnlyRegs (pages 0x2560 0x2560 :: at1 (kSec 0x0C) :: at1 (kSec 0x0D) :: counterSpan :: netSpans) w t))

/-! Network time (18). -/

/-- The servo has taken offset `o`, in 2^-16 ns (R462): a step of phase from the limit of 2710h.0Bh up, otherwise a correction of
the rate, whose products by 2^-32 are whole or one of their two neighbours (the model leaves open which), while T32 goes on. -/
def OffsetTaken (s t : State) (o : Int) : Prop :=
  t.reg (kTime 0x0C) = wrap 64 o ∧ t.reg (kTime 0x26) = satAdd (widthOf (kTime 0x26)) (s.reg (kTime 0x26)) 1
  ∧ (if (s.reg (kTime 0x0B) : Int) * 65536 ≤ (o.natAbs : Int) then
       let ns := Int.tdiv o 65536
       let l := wrap 32 ((s.reg (kTime 4) : Int) + ns)
       let n := wrap 32 ((s.reg (kTime 5) : Int) + ns)
       t.reg (kTime 0x24) = satAdd (widthOf (kTime 0x24)) (s.reg (kTime 0x24)) 1 ∧ t.reg (kTime 7) = s.reg (kTime 7)
       ∧ (if signed 32 (s.t32 + 2 ^ 32 - l) < 0 then
            t.reg (kTime 3) = wrap 48 ((s.reg (kTime 3) : Int) - 1) ∧ t.reg (kTime 4) = wrap 32 ((l : Int) - 1000000000)
            ∧ t.reg (kTime 5) = wrap 32 ((n : Int) - 1000000000)
          else t.reg (kTime 3) = s.reg (kTime 3) ∧ t.reg (kTime 4) = l ∧ t.reg (kTime 5) = n)
     else
       ∃ i p : Int, |i * 4294967296 - (s.gains.2 : Int) * o| < 4294967296
         ∧ |p * 4294967296 - (s.gains.1 : Int) * o| < 4294967296
         ∧ (let acc := limit (-rateLimit) rateLimit (signed 32 (s.reg (kTime 8)) + i)
            t.reg (kTime 8) = wrap 32 acc ∧ t.reg (kTime 7) = wrap 32 (limit (-rateLimit) rateLimit (-(p + acc))))
         ∧ t.t32Fine = s.t32Fine ∧ t.reg (kTime 4) = s.reg (kTime 4) ∧ t.reg (kTime 3) = s.reg (kTime 3))

/-- A second rolls once T32 has reached NEXTB (R459). PTP messages are stamped, and move the port's state and its messages to be
sent as its timers do (R460, R461). Offsets of the servo and from outside step the phase or correct the rate (R462). Choices of
the model in it: log 99, 100, 101, 102, 103, 104. -/
def Obligations.NetworkTimeIsKept : Prop :=
  (∀ (s w : State) (dt : Nat), w = s.wait dt → w.up = true →
    Leads (.secondRoll dt) s (fun t =>
      let n := if w.rollArmed then w.reg (kTime 5) else (w.reg (kTime 4) + 1000000000) % 2 ^ 32
      (if 0 ≤ signed 32 (w.t32 + 2 ^ 32 - n) then
         t.reg (kTime 4) = n % 2 ^ 32 ∧ t.reg (kTime 3) = (w.reg (kTime 3) + 1) % 2 ^ 48 ∧ t.rollArmed = false
       else t.reg (kTime 4) = w.reg (kTime 4) ∧ t.reg (kTime 3) = w.reg (kTime 3) ∧ t.reg (kTime 5) = n ∧ t.rollArmed = true)
      ∧ OnlyRegs [(kTime 3, kTime 5), at1 (kTime 0x0E)] w t ∧ SameMem w t))
  ∧ (∀ (s w : State) (dt : Nat) (p : Fin 3) (m : PtpMessage) (c : Nat) (out : Bool), w = s.wait dt → w.up = true → w.ptpOn = true →
    w.ptpReachable = true → p.val = w.ptpPort →
    Leads (.ptpMessage dt p m c out) s (fun t =>
      ((m = .sync ∨ m = .delayReq) →
        (if out then t.ptp.txStamp = w.corrected p c out ∧ t.ptp.rxStamp = w.ptp.rxStamp
         else t.ptp.rxStamp = w.corrected p c out ∧ t.ptp.txStamp = w.ptp.txStamp))
      ∧ (t.net p).ptpOut = (w.net p).ptpOut + (if m = .delayReq ∧ out = false ∧ w.portState = 6 then 1 else 0)
      ∧ (∀ g utc, m = .announce g utc → out = false →
          (if (Config.ptpMaster (w.reg (kTime 1)) g && !w.bit' (kTime 1) 6) = true then t.portState = 6
           else t.reg (kTime 0x0F) = g % 2 ^ 64 ∧ t.reg (kTime 0x10) = wrap 16 utc
             ∧ t.portState = (if w.portState = 9 then 9 else 8)))
      ∧ (m = .management → out = false → p.val < 2 →
          t.reg (kNet p 0x11) = satAdd (widthOf (kNet p 0x11)) (w.reg (kNet p 0x11)) 1)
      ∧ OnlyRegs ((kTime 0x0E, kTime 0x10) :: netSpans) w t ∧ SameMem w t))
  ∧ (∀ (s w : State) (dt : Nat) (k : PtpTimer), w = s.wait dt → w.up = true → w.ptpOn = true →
    Leads (.ptpTimerExpiry dt k) s (fun t =>
      let p := w.ptpPort
      let x := w.portState
      (t.net p).ptpOut = (w.net p).ptpOut + (match k with
        | .announceInterval => if x = 6 then 1 else 0
        | .syncInterval => if x = 6 ∧ w.syncSuppressed = false then 1 else 0
        | .delayReqInterval => if x = 8 ∨ x = 9 ∨ w.bit' (kTime 1) 4 = true then 1 else 0
        | .announceReceipt => 0)
      ∧ (k = .syncInterval → x = 6 → w.syncSuppressed = true →
          t.reg (kTime 0x25) = satAdd (widthOf (kTime 0x25)) (w.reg (kTime 0x25)) 1)
      ∧ t.portState = (if k = .announceReceipt ∧ x ≠ 6 then (if w.bit' (kTime 1) 6 then 4 else 6) else x)
      ∧ OnlyRegs ([at1 (kTime 0x0E), at1 (kTime 0x0F), at1 (kTime 0x25)] ++ netSpans) w t ∧ SameMem w t))
  ∧ (∀ (s w : State) (dt : Nat) (o d : Int), w = s.wait dt → w.up = true → w.ptpOn = true →
    Leads (.servoOffset dt o d) s (fun t =>
      OffsetTaken w t o ∧ t.reg (kTime 0x0D) = wrap 64 d ∧ t.portState = (if w.portState = 8 then 9 else w.portState)
      ∧ OnlyRegs [(kTime 3, kTime 0x0E), (kTime 0x24, kTime 0x26)] w t ∧ SameMem w t))
  ∧ (∀ (s w : State) (r : Route) (dt : Nat) (o : BitVec 64), w = s.wait dt → Accepts w r 0x2710 0x27 (leBytes 8 o.toNat) →
    Leads (.externalOffset dt r o) s (fun t =>
      OffsetTaken w t (signed 64 o.toNat) ∧ OnlyRegs [(kTime 3, kTime 0x0C), (kTime 0x24, kTime 0x26)] w t ∧ SameMem w t))

/-! Power-on and reset (20), power states and limiting (19, 21). -/

/-- Everything is at its reset value but what Jatuwick keeps: memories, functions, contexts, EtherCAT and registers are reset, the
debug level is the lifecycle's default, and the fuses and the latches of the field outputs stay (R487, R488, R481, R403); nothing
of what the commands before it set going is left, and both counts of beats start from one REFCLK edge (R284). -/
def WasReset (s t : State) : Prop :=
  t.ts = {} ∧ t.acc = {} ∧ t.stack = {} ∧ t.ext = {} ∧ t.valid = [] ∧ t.ctxs = [] ∧ t.ec.al = 1 ∧ (∀ f ∈ allFns, t.fn f = .off)
  ∧ t.later = [] ∧ (∃ n, 60 * n ≤ s.time ∧ t.alignC = 12 * n ∧ t.alignS = 5 * n)
  ∧ t.fuses = s.fuses ∧ t.flash.content = s.flash.content ∧ t.field.latches = s.field.latches
  ∧ t.reg (kDebug 2) = defaultLevel s.fuses.lifecycle
  ∧ ∀ k, k ∉ keptKeys → k ≠ kPower 5 → k ≠ kPower 8 → k ≠ kDebug 2 → t.reg k = resetVal k

/-- These registers keep their values. -/
def Keeps (s t : State) (ks : List Nat) : Prop := ∀ k ∈ ks, t.reg k = s.reg k % 2 ^ widthOf k

/-- Step 8 is complete after reset source `code` (R483): the module is up in RUN, 2800h.08h shows `wake`, and outside recovery the
one record queued is the reset record with the last failure's code. -/
def CameUp (s t : State) (code wake : Nat) (rec : Bool) : Prop :=
  WasReset s t ∧ t.power.stage = .up ∧ t.power.state = 0 ∧ t.power.recovery = rec ∧ t.power.main = true ∧ t.reg (kPower 8) = wake
  ∧ (if rec then t.events = [] else ∃ r, t.events = [r] ∧ r.type = 8 ∧ r.what = code ∧ r.data = t.reg (kReset 5))

/-- The sequence goes on from step 2: it completes, or fails there without the main supply (R485); a verified container in the
inactive bank and the reset end recovery (R472). -/
def Resumed (s t : State) (code wake : Nat) : Prop :=
  t.flash.bank = (if s.power.recovery ∧ s.flash.fresh then 1 - s.flash.bank else s.flash.bank)
  ∧ (if s.power.main then CameUp s t code wake (s.power.recovery && !s.flash.fresh)
     else WasReset s t ∧ t.power.stage = .standby ∧ t.reg (kReset 5) = 1)

/-- Jatuwick has booted from a bank (R472): a newly written one first, the other one when it fails. -/
def Booted (s t : State) (b : BankCheck) : Prop :=
  let a := if s.flash.fresh then 1 - s.flash.bank else s.flash.bank
  t.flash.bank = (if b.activeOk = false ∧ b.otherOk = true then 1 - a else a) ∧ t.flash.fresh = false

/-- The source with this code is registered: its code is recorded and the resets are counted (R486). -/
def ResetRegistered (s t : State) (code : Nat) : Prop :=
  t.reg (kReset 2) = code ∧ t.reg (kReset 3) = satAdd (widthOf (kReset 3)) (s.reg (kReset 3)) 1

/-- Power-on boots Jatuwick and reaches RUN, or STANDBY without the main supply (R483); a step that fails leaves the module in
STANDBY with its code (R485). The reset sources are recorded and counted and act as their table says; RESET_N low and a failed
clock hold the module until they end (R486, R487). Choices of the model in it: log 2, 7, 8, 9, 12, 112, 133. -/
def Obligations.ResetSourcesActAsTabulated : Prop :=
  (∀ (s w : State) (dt : Nat) (main : Bool) (b : BankCheck), w = s.wait dt → w.power.stage = .off →
    Leads (.powerOn dt main b) s (fun t =>
      Booted w t b ∧ t.flash.usable = true ∧ t.reg (kReset 2) = 0 ∧ t.reg (kReset 3) = 0
      ∧ t.reg (kSec 0x0D) = (if b.activeOk = false ∧ b.otherOk = true then 1 else 0)
      ∧ (if main then CameUp w t 0 0 (!b.activeOk && !b.otherOk)
         else WasReset w t ∧ t.power.stage = .standby ∧ t.power.first = true ∧ t.events = [])))
  ∧ (∀ (s w : State) (dt b : Nat) (stage : Fin 3), w = s.wait dt → w.power.stage = .up → w.power.began = some b → w.time ≤ b + 8880000000 →
    (∀ f ∈ allFns, w.fn f = .off) →
    Leads (.bringUpFailure dt stage) s (fun t =>
      WasReset w t ∧ t.power.stage = .standby ∧ t.reg (kReset 5) = stage + 1
      ∧ Keeps w t [kPower 4, kSec 0x0C, kSec 0x0D, kReset 2, kReset 3]))
  ∧ (∀ (s w : State) (dt : Nat), w = s.wait dt → w.power.stage = .up →
    Leads (.resetN dt) s (fun t =>
      WasReset w t ∧ t.power.stage = .held ∧ t.power.holder = 1 ∧ ResetRegistered w t 1
      ∧ Keeps w t [kPower 4, kSec 0x0C, kSec 0x0D, kReset 5]))
  ∧ (∀ (s w : State) (dt : Nat), w = s.wait dt → w.power.stage = .up →
    Leads (.clockFailure dt) s (fun t =>
      WasReset w t ∧ t.power.stage = .held ∧ t.power.holder = 7 ∧ ResetRegistered w t 7
      ∧ Keeps w t [kPower 4, kSec 0x0C, kSec 0x0D, kReset 5]))
  ∧ (∀ (s w : State) (dt : Nat), w = s.wait dt → w.power.stage = .held → w.power.holder = 1 →
    Leads (.resetNRelease dt) s (fun t => Resumed w t 1 3 ∧ Keeps w t [kPower 4, kSec 0x0C, kSec 0x0D, kReset 2, kReset 3]))
  ∧ (∀ (s w : State) (dt : Nat), w = s.wait dt → w.power.stage = .held → w.power.holder = 7 →
    Leads (.refclkRestored dt) s (fun t => Resumed w t 7 3 ∧ Keeps w t [kPower 4, kSec 0x0C, kSec 0x0D, kReset 2, kReset 3]))
  ∧ (∀ (s w : State) (dt : Nat), w = s.wait dt → w.resetReady 2 = true →
    Leads (.moduleReset dt) s (fun t => Resumed w t 2 3 ∧ ResetRegistered w t 2 ∧ Keeps w t [kPower 4, kSec 0x0C, kSec 0x0D]))
  ∧ (∀ (s w : State) (dt : Nat) (b : BankCheck), w = s.wait dt → w.resetReady 3 = true →
    Leads (.moduleResetReboot dt b) s (fun t =>
      Booted w t b ∧ ResetRegistered w t 3 ∧ Keeps w t [kPower 4, kSec 0x0C]
      ∧ (if w.power.main then CameUp w t 3 3 (!b.activeOk && !b.otherOk)
         else WasReset w t ∧ t.power.stage = .standby ∧ t.reg (kReset 5) = 1)))
  ∧ (∀ (s w : State) (dt : Nat) (b : BankCheck), w = s.wait dt → w.power.stage = .up →
    Leads (.ioDieWatchdog dt b) s (fun t =>
      Booted w t b ∧ ResetRegistered w t 4 ∧ Keeps w t [kPower 4, kSec 0x0C]
      ∧ (if w.power.main then CameUp w t 4 3 (!b.activeOk && !b.otherOk)
         else WasReset w t ∧ t.power.stage = .standby ∧ t.reg (kReset 5) = 1)))

/-- Loss of the main supply and a thermal trip rest the module in STANDBY (R471, R501); loss of the standby rail takes it to OFF
(R464). A rise of the supply, a low level on WAKE_N and the fall of a trip's temperature wake it where they are enabled (R470).
Choices of the model in it: log 8, 9, 12. -/
def Obligations.SupplyAndWakeSourcesAct : Prop :=
  (∀ (s w : State) (dt : Nat) (v : BitVec 16), w = s.wait dt → v.toNat < 1080 →
    Leads (.mainSupplyLoss dt v) s (fun t =>
      t.power.main = false ∧ t.reg (kPower 5) = v.toNat
      ∧ (if w.power.stage = .up then
           WasReset w t ∧ t.power.stage = .standby ∧ ResetRegistered w t 5 ∧ Keeps w t [kPower 4, kSec 0x0C, kSec 0x0D, kReset 5]
         else t.power.stage = w.power.stage ∧ OnlyRegs [at1 (kPower 5)] w t ∧ SameMem w t)))
  ∧ (∀ (s w : State) (dt : Nat), w = s.wait dt → w.power.stage = .up →
    Leads (.thermalTrip dt) s (fun t =>
      WasReset w t ∧ t.power.stage = .standby ∧ t.power.hot = true ∧ t.power.wake = none ∧ ResetRegistered w t 6
      ∧ Keeps w t [kPower 4, kSec 0x0C, kSec 0x0D, kReset 5]))
  ∧ (∀ (s w : State) (dt : Nat), w = s.wait dt →
    Leads (.standbyRailLoss dt) s (fun t =>
      t.power.stage = .off ∧ t.power.main = w.power.main ∧ t.ts = {} ∧ t.acc = {} ∧ t.stack = {} ∧ t.ext = {} ∧ t.fuses = w.fuses
      ∧ ∀ k, t.reg k = resetVal k))
  ∧ (∀ (s w : State) (dt : Nat) (v : BitVec 16), w = s.wait dt → 1080 ≤ v.toNat → v.toNat ≤ 1320 →
    Leads (.mainSupplyRise dt v) s (fun t =>
      t.power.main = true ∧ t.reg (kPower 5) = v.toNat
      ∧ (if w.power.stage = .standby ∧ w.power.main = false ∧ w.power.first = true then CameUp w t 0 0 w.power.recovery
         else if w.power.stage = .standby ∧ w.power.main = false ∧ w.bit' (kPower 4) 1 = true ∧ w.power.hot = false then
           CameUp w t (w.reg (kReset 2)) 2 (w.power.recovery && !w.flash.fresh)
         else OnlyRegs [at1 (kPower 5)] w t ∧ SameMem w t ∧ t.power.stage = w.power.stage
           ∧ (w.power.stage = .standby → w.power.main = false → w.bit' (kPower 4) 1 = true → t.power.wake = some 2))))
  ∧ (∀ (s w : State) (dt : Nat), w = s.wait dt →
    Leads (.wakeN dt) s (fun t =>
      if w.bit' (kPower 4) 0 = true ∧ w.power.stage = .standby ∧ w.power.hot = false then Resumed w t (w.reg (kReset 2)) 1
      else OnlyRegs [] w t ∧ SameMem w t ∧ t.power =
        if w.bit' (kPower 4) 0 = true ∧ (w.power.stage = .standby ∨ (w.power.stage = .up ∧ w.power.target = some 3)) then
          { w.power with wake := some 1 }
        else w.power))
  ∧ (∀ (s w : State) (dt : Nat), w = s.wait dt →
    Leads (.tripTemperatureFall dt) s (fun t =>
      t.power.hot = false
      ∧ (match w.power.wake with
         | some c => if w.power.stage = .standby then Resumed w t (w.reg (kReset 2)) c else OnlyRegs [] w t ∧ SameMem w t
         | none => OnlyRegs [] w t ∧ SameMem w t)))

/-- What entry into SLEEP or STANDBY and the return from SLEEP change besides 2800h: wide mode, the ports, the cache. -/
def dozeSpans : Spans := workSpans ++ [at1 (kPower 2), at1 (kPower 7), at1 (kMem 0x27), pages 0x2560 0x2560, counterSpan, pages 0x2700 0x2701,
  pages 0x2720 0x2720, pages 0x2730 0x2730]

/-- A power request is refused while a transition is in progress or a function does not permit its target, which is then named,
and begins the transition otherwise (R466). A transition to RUN or QUIET ends there, leaving SLEEP with the dies' memories zero;
one to SLEEP leaves wide mode; one to STANDBY resets all that Jatuwick does not keep, the direct outputs at level 0 where their
link is good (R467 to R470). Once per millisecond the demands of the core temperatures and of the input power are recalculated,
each by one step up or down between 0 and 12, each core's own unless the determinism bit makes the removal die-wide, and the
readings are shown (R500, R287). Choices of the model in it: log 63, 78, 79, 98, 136. -/
def Obligations.PowerStatesAndLimitingAct : Prop :=
  (∀ (s w : State) (r : Route) (dt : Nat) (v : BitVec 8), w = s.wait dt → Accepts w r 0x2800 1 (leBytes 1 v.toNat) →
    Leads (.powerRequest dt r v) s (fun t =>
      (if w.power.target.isSome then
         t.power = w.power ∧ t.reg (refusalKey r) = (0x08000022 * 2 ^ 32 + 0x2800 * 65536 + 256) % 2 ^ 64
         ∧ OnlyRegs [at1 (refusalKey r)] w t
       else match w.blocker v.toNat with
         | some f =>
           t.power = w.power ∧ t.reg (kPower 3) = f ∧ t.reg (refusalKey r) = (0x08000022 * 2 ^ 32 + 0x2800 * 65536 + 256) % 2 ^ 64
           ∧ OnlyRegs [at1 (refusalKey r), at1 (kPower 3)] w t
         | none =>
           t.power = { w.power with target := some v.toNat } ∧ t.reg (kPower 1) = v.toNat ∧ t.reg (kPower 2) = 0x80 + v.toNat
           ∧ OnlyRegs [at1 (kPower 1), at1 (kPower 2)] w t)
      ∧ SameMem w t))
  ∧ (∀ (s w : State) (dt v : Nat), w = s.wait dt → w.up = true → w.power.target = some v → v < 3 →
    Leads (.powerTransitionComplete dt) s (fun t =>
      t.power = { w.power with target := none, state := v } ∧ t.reg (kPower 2) = v
      ∧ t.reg (kPower 7) = satAdd (widthOf (kPower 7)) (w.reg (kPower 7)) 1
      ∧ (v = 2 → t.reg (kMem 0x27) = 0 ∧ t.cache = w.cache)
      ∧ (v < 2 → w.power.state = 2 → t.ts = {} ∧ t.acc = {} ∧ t.valid = [] ∧ t.ext = w.ext)
      ∧ (¬(v < 2 ∧ w.power.state = 2) → SameMem w t)
      ∧ OnlyRegs dozeSpans w t))
  ∧ (∀ s : State, s.zeroOutputs.field.latches = (if s.field.link then 0 else s.field.latches)
      ∧ s.zeroOutputs.regs = s.regs ∧ s.zeroOutputs.power = s.power)
  ∧ (∀ (s w : State) (dt : Nat), w = s.wait dt → w.up = true → w.power.target = some 3 →
    Leads (.powerTransitionComplete dt) s (fun t =>
      match w.power.wake with
      | some c => if w.power.hot then t.power.stage = .standby ∧ t.power.wake = some c ∧ WasReset w.zeroOutputs t
          else Resumed w.zeroOutputs t (w.reg (kReset 2) % 2 ^ widthOf (kReset 2)) c
      | none => WasReset w.zeroOutputs t ∧ t.power.stage = .standby ∧ t.power.target = none
          ∧ Keeps w t [kPower 4, kSec 0x0C, kSec 0x0D, kReset 2, kReset 3, kReset 5]))
  ∧ (∀ (s w u : State) (dt : Nat) (r : ThermalReadings), w = s.wait dt → w.up = true → u = w.catchUp →
    Leads (.limitUpdate dt r) s (fun t =>
      let hot := hottestOf (r.cores.take w.cores)
      let nth := if w.det then t.limits.die else (upTo w.cores).foldl (fun m c => max m (tget (fun _ => 0) t.limits.cores c)) 0
      t.limits.power = (if 1200 < r.power then min 12 (w.limits.power + 1) else if r.power < 1160 then w.limits.power - 1 else w.limits.power)
      ∧ (w.det = true → t.limits.cores = w.limits.cores
          ∧ t.limits.die = (if 1000 < hot then min 12 (w.limits.die + 1) else if hot < 980 then w.limits.die - 1 else w.limits.die))
      ∧ (w.det = false → t.limits.die = w.limits.die ∧ ∀ c, c < w.cores → tget (fun _ => 0) t.limits.cores c =
          (let n := tget (fun _ => 0) w.limits.cores c
           let x := r.cores.getD c 0
           if 1000 < x then min 12 (n + 1) else if x < 980 then n - 1 else n))
      ∧ t.reg (key 0x2801 1) = wrap 16 hot ∧ t.reg (key 0x2801 3) = wrap 16 r.io ∧ t.reg (key 0x2801 4) = wrap 16 r.board
      ∧ t.reg (key 0x2801 2) = (if 2 ≤ w.power.state then 0x8000 else wrap 16 r.sram)
      ∧ t.reg (key 0x2801 5) =
          (t.limits.power * 256 + nth * 16 + (if 0 < t.limits.power then 2 else 0) + (if 0 < nth then 1 else 0)) % 2 ^ 16
      ∧ t.reg (key 0x2801 8) =
          (if 0 < t.limits.power ∨ 0 < nth then satAdd 32 (w.reg (key 0x2801 8)) 1 else w.reg (key 0x2801 8))
      ∧ OnlyRegs [at1 (key 0x2010 5), at1 (kPower 6), pages 0x2801 0x2801] u t ∧ SameMem u t))

/-! Keys, lifecycle, containers and debug (19). -/

/-- The lifecycle command with this code has been judged by R473 and R474 as the record of 2810h.03h gives it, and an accepted one
has its effect, which the content key that it unwraps may enter. -/
def LifeJudged (s t : State) (r : Route) (code : Nat) (effect : Bytes → Prop) : Prop :=
  let no := fun (c : Nat) => RefusedWith s t r ⟨c, 0x2810, 2⟩ 0
  if ((upTo 64).all (fun j => s.idle (fJob j)) && (upTo 16).all (fun i => s.idle (fIntake i))) = false then no 0x08000022
  else if s.recordOk code = false ∨ s.commandSigned code = false then no 0x080000A6
  else if s.targetOk code = false then no 0x06090030
  else match if code = 3 then Config.unwrapKey (slice s.lifeRecord 64 96) (slice s.lifeRecord 160 40) else some [] with
    | none => no 0x080000A6
    | some k => effect k ∧ SameMem s t

/-- The target of the lifecycle record. -/
def lifeTarget (s : State) : Nat := leAt s.lifeRecord 6 1

/-- Registers of stored images. -/
def imageSpans (s : State) : Spans := s.images.map (fun x => at1 (kJob x.1 5))

/-- The lifecycle has entered state `lc`: the token is gone, and the debug level falls to the state's default (R481). -/
def LifeEntered (s t : State) (lc : Nat) : Prop :=
  t.fuses.lifecycle = lc ∧ t.tap.token = 0
  ∧ t.reg (kDebug 2) = (if defaultLevel lc < s.reg (kDebug 2) then defaultLevel lc else s.reg (kDebug 2))

/-- A container written is refused in SLEEP; one whose verification fails is recorded with its reason and counted, and refused. -/
def ContainerJudged (s t : State) (r : Route) (ix sub want : Nat) (bs : Bytes) (effect : Origin → Bytes → Prop) : Prop :=
  if 2 ≤ s.power.state then RefusedWith s t r ⟨0x080000A7, ix, sub⟩ 0
  else match s.verify want bs with
    | .bad reason code =>
      t.reg (kSec 0x0C) = (reason * 2 ^ 24 + leAt bs 4 1 * 2 ^ 16 + ix) % 2 ^ 32
      ∧ t.reg (kSec 0x0D) = satAdd (widthOf (kSec 0x0D)) (s.reg (kSec 0x0D)) 1
      ∧ t.reg (refusalKey r) = (code * 2 ^ 32 + ix * 65536 + sub * 256) % 2 ^ 64
      ∧ t.images = s.images ∧ t.models = s.models ∧ t.flash = s.flash
      ∧ OnlyRegs [at1 (kSec 0x0C), at1 (kSec 0x0D), at1 (refusalKey r)] s t ∧ SameMem s t
    | .good o payload => effect o payload

/-- An accepted lifecycle command has its effect: an owner key is installed or revoked, a content key installed or erased with
what it encrypted, the lifecycle locked or retired with everything erased, a minimum version raised (R472 to R474). Containers are
verified when they are written: a verified job image replaces the stored one where the store has room, and a verified firmware
container goes to the inactive bank (R475 to R477, R472). Choices of the model in it: log 68, 107, 108, 109, 110, 111. -/
def Obligations.LifecycleCommandsAndContainersAct : Prop :=
  (∀ (s w : State) (r : Route) (dt : Nat), w = s.wait dt → Accepts w r 0x2810 2 (leBytes 1 1) →
    Leads (.installOwnerKey dt r) s (fun t => LifeJudged w t r 1 (fun _ =>
      tfind t.fuses.owner (lifeTarget w) = some (Config.sha384 (slice w.lifeRecord 64 96))
      ∧ (if w.fuses.lifecycle = 0 then
           LifeEntered w t 1 ∧ (∀ m ∈ t.models, m.signed = true)
           ∧ ∀ x ∈ t.images, ((tfind w.imgFrom x.1).getD {}).signed = true
         else t.fuses.lifecycle = w.fuses.lifecycle ∧ t.images = w.images ∧ t.models = w.models)
      ∧ OnlyRegs (at1 (kDebug 2) :: imageSpans w) w t)))
  ∧ (∀ (s w : State) (r : Route) (dt : Nat), w = s.wait dt → Accepts w r 0x2810 2 (leBytes 1 2) →
    Leads (.revokeOwnerKey dt r) s (fun t => LifeJudged w t r 2 (fun _ =>
      lifeTarget w ∈ t.fuses.revoked ∧ t.ownerKey (lifeTarget w) = none ∧ t.fuses.lifecycle = w.fuses.lifecycle ∧ OnlyRegs [] w t)))
  ∧ (∀ (s w : State) (r : Route) (dt : Nat), w = s.wait dt → Accepts w r 0x2810 2 (leBytes 1 3) →
    Leads (.installContentKey dt r) s (fun t => LifeJudged w t r 3 (fun k =>
      tfind t.flash.content (lifeTarget w) = some k
      ∧ (∀ n, n ≠ lifeTarget w → tfind t.flash.content n = tfind w.flash.content n) ∧ OnlyRegs [] w t)))
  ∧ (∀ (s w : State) (r : Route) (dt : Nat), w = s.wait dt → Accepts w r 0x2810 2 (leBytes 1 4) →
    Leads (.eraseContentKey dt r) s (fun t => LifeJudged w t r 4 (fun _ =>
      tfind t.flash.content (lifeTarget w) = none ∧ (∀ m ∈ t.models, m.slot ≠ some (lifeTarget w))
      ∧ (∀ x ∈ t.images, ((tfind w.imgFrom x.1).getD {}).slot ≠ some (lifeTarget w)) ∧ OnlyRegs (imageSpans w) w t)))
  ∧ (∀ (s w : State) (r : Route) (dt : Nat), w = s.wait dt → Accepts w r 0x2810 2 (leBytes 1 5) →
    Leads (.lock dt r) s (fun t => LifeJudged w t r 5 (fun _ => LifeEntered w t 2 ∧ OnlyRegs [at1 (kDebug 2)] w t)))
  ∧ (∀ (s w : State) (r : Route) (dt : Nat), w = s.wait dt → Accepts w r 0x2810 2 (leBytes 1 6) →
    Leads (.retire dt r) s (fun t => LifeJudged w t r 6 (fun _ =>
      t.fuses.lifecycle = max w.fuses.lifecycle 3 ∧ t.flash.content = [] ∧ t.images = [] ∧ t.models = [] ∧ t.cache = []
      ∧ OnlyRegs (at1 (kDebug 2) :: imageSpans w) w t)))
  ∧ (∀ (s w : State) (r : Route) (dt : Nat), w = s.wait dt → Accepts w r 0x2810 2 (leBytes 1 7) →
    Leads (.raiseVersion dt r) s (fun t => LifeJudged w t r 7 (fun _ =>
      t.minVersion (lifeTarget w) = leAt w.lifeRecord 32 4 ∧ t.fuses = w.fuses.blow w.fuses ∧ OnlyRegs [] w t)))
  ∧ (∀ (s w : State) (r : Route) (dt : Nat) (j : Fin 64) (bs : Bytes), w = s.wait dt → Accepts w r (0x2510 + j) 2 bs →
    Leads (.jobImageWrite dt r j bs) s (fun t => ContainerJudged w t r (0x2510 + j) 2 1 bs (fun o payload =>
      if w.storeSize < (w.dropImage j).storeUse + payload.length then RefusedWith w t r ⟨0x080000A2, 0x2510 + j, 2⟩ 0
      else tfind t.images j = some payload ∧ tfind t.imgFrom j = some o ∧ t.dom (kJob j 2) = bs
        ∧ t.reg (kJob j 5) = ozjCrc payload % 2 ^ 32
        ∧ (∀ e ∈ t.cache, e ∈ w.cache ∧ ¬(e.img = true ∧ e.id = j)) ∧ (∀ k, k ≠ j.val → tfind t.images k = tfind w.images k)
        ∧ OnlyRegs [at1 (kJob j 5)] w t ∧ SameMem w t)))
  ∧ (∀ (s w : State) (r : Route) (dt : Nat) (bs : Bytes), w = s.wait dt → Accepts w r 0x2810 0x0B bs →
    Leads (.firmwareContainerWrite dt r bs) s (fun t => ContainerJudged w t r 0x2810 0x0B 3 bs (fun _ _ =>
      t.flash.fresh = true ∧ tfind t.flash.versions (1 - w.flash.bank) = some (leAt bs 12 4 % 2 ^ 28)
      ∧ t.flash.bank = w.flash.bank ∧ OnlyRegs [] w t ∧ SameMem w t)))

/-- The level held and the power state permit an instruction of the TAP, and where it asks for it every function is OFF (R478,
R482). -/
def TapPermits (s : State) (need : Nat) (still : Bool) : Prop :=
  need ≤ s.debugLevel ∧ (need = 0 ∨ s.power.stage = .up) ∧ (still = true → ∀ f ∈ allFns, s.fn f = .off)

/-- An instruction that is not permitted has selected BYPASS, and the selection is counted while the dictionary is reachable
(R478). -/
def TapBypassed (s t : State) : Prop :=
  t.tap = { s.tap with instr := 0xFF, data := 0, holds := none }
  ∧ t.reg (kDebug 7) = (if s.up then satAdd (widthOf (kDebug 7)) (s.reg (kDebug 7)) 1 else s.reg (kDebug 7))
  ∧ OnlyRegs [at1 (kDebug 7)] s t ∧ SameMem s t

/-- The boundary instructions, each with the lowest level, whether every function must be OFF, its code and whether it holds the
pins. -/
def tapCommands : List ((Nat → Instr) × Nat × Bool × Nat × Bool) :=
  [(.extest, 1, true, 0, true), (.samplePreload, 1, false, 2, false), (.tapClamp, 1, true, 4, true), (.highz, 1, true, 5, true)]

/-- A debug level that the lifecycle or a token permits is taken at once, level 3 of an owned module with every protected word
zeroed; others are refused (R480, R481). A valid token counts until the challenge is renewed, which it does. EXTEST,
SAMPLE/PRELOAD, CLAMP and HIGHZ select their instruction where they are permitted, those that drive the pins holding them, and
BYPASS otherwise (R478, R482); IDCODE and BYPASS are always served, and a code without an instruction selects BYPASS, counted.
Choices of the model in it: log 107, 110, 113, 114. -/
def Obligations.DebugLevelsAndTapInstructionsAct : Prop :=
  (∀ (s w : State) (r : Route) (dt : Nat) (v : BitVec 8), w = s.wait dt → Accepts w r 0x2820 1 (leBytes 1 v.toNat) →
    Leads (.debugLevelRequest dt r v) s (fun t =>
      let n := v.toNat
      let lc := w.fuses.lifecycle
      let u := w.catchAll
      let took := t.reg (kDebug 1) = n ∧ t.reg (kDebug 2) = n
      if 3 < n then RefusedWith w t r ⟨0x06090030, 0x2820, 1⟩ 0
      else if freeLevel lc < n ∧ w.tap.token < n then RefusedWith w t r ⟨0x080000A6, 0x2820, 1⟩ 0
      else if n = 3 ∧ (lc = 1 ∨ lc = 2) then
        (if w.secretsIdle = false then RefusedWith w t r ⟨0x08000022, 0x2820, 1⟩ 0
         else took ∧ t.ts = u.ts ∧ t.acc = u.acc ∧ t.ext = u.ext ∧ t.valid = u.valid ∧ t.tap.erased = true ∧ t.flash.usable = false
           ∧ (∀ m ∈ t.models, m.slot.isSome = true → ∀ b ∈ m.payload, b = 0#8)
           ∧ (u.stack.wf → ∀ e ∈ w.cache, w.secretEntry e = true → ∀ a, e.base ≤ a → a < e.base + e.size → t.stack.get a = 0#8)
           ∧ (u.stack.wf → ∀ a, (∀ e ∈ w.cache, w.secretEntry e = true → a < e.base ∨ e.base + roundUp e.size 8 ≤ a) →
               t.stack.get a = u.stack.get a)
           ∧ OnlyRegs (at1 (kDebug 1) :: at1 (kDebug 2) :: imageSpans w) u t)
      else took ∧ SameMem w t ∧ OnlyRegs [at1 (kDebug 1), at1 (kDebug 2)] w t))
  ∧ (∀ (s w : State) (r : Route) (dt : Nat) (b : Bytes), w = s.wait dt → Accepts w r 0x2820 4 b →
    Leads (.debugToken dt r b) s (fun t =>
      match w.tokenLevel b with
      | some n => t.tap.token = n ∧ t.tap.renewed = w.tap.renewed + 1 ∧ OnlyRegs [] w t ∧ SameMem w t
      | none => t.tap = w.tap ∧ RefusedWith w t r ⟨0x080000A6, 0x2820, 4⟩ 0))
  ∧ (∀ x ∈ tapCommands, ∀ (s w : State) (dt : Nat), w = s.wait dt → w.power.stage ≠ .off →
    Leads (x.1 dt) s (fun t =>
      (TapPermits w x.2.1 x.2.2.1 → t.tap.instr = x.2.2.2.1 ∧ t.tap.holds = (if x.2.2.2.2 then some x.2.2.2.1 else none)
        ∧ OnlyRegs [] w t ∧ SameMem w t)
      ∧ (¬TapPermits w x.2.1 x.2.2.1 → TapBypassed w t)))
  ∧ (∀ (s w : State) (dt : Nat), w = s.wait dt → w.power.stage ≠ .off →
    Leads (.idcode dt) s (fun t =>
      t.tap.instr = 1 ∧ t.tap.data = bits Config.stepping.toNat 11 8 * 2 ^ 28 + gHex w.grade * 2 ^ 12 + Config.jep106.toNat * 2 + 1
      ∧ t.tap.holds = none ∧ OnlyRegs [] w t ∧ SameMem w t))
  ∧ (∀ (s w : State) (dt : Nat) (c : Byte), w = s.wait dt → w.power.stage ≠ .off →
    Leads (.bypass dt c) s (fun t =>
      (c ≠ 0xFF#8 → TapBypassed w t) ∧ (c = 0xFF#8 → t.tap.instr = 0xFF ∧ t.tap.holds = none ∧ OnlyRegs [] w t ∧ SameMem w t)))

/-- The word at a spot is one of a cache entry from an encrypted container, and level 2 is held: it is protected (R479). -/
def Shielded (s : State) (p : Spot) : Prop :=
  s.debugLevel = 2 ∧ match p with
    | .stack a => s.cache.any (fun e => s.secretEntry e && decide (e.base < a + 8) && decide (a < e.base + e.size)) = true
    | _ => False

/-- DBGACC reads a word at levels 2 and 3: status 1 in SLEEP, 2 for a protected word, which is counted, 4 for a poisoned one,
otherwise 0 with the word (R479). It writes a word at level 3, leaving every byte around it, and answers status 3 at level 2
(R480). Choices of the model in it: log 49, 115, 116. -/
def Obligations.DebugAccessesReachMemory : Prop :=
  (∀ (s w : State) (dt : Nat) (sp : BitVec 3) (core : BitVec 4) (a : BitVec 40), w = s.wait dt → w.power.stage ≠ .off →
    Leads (.dbgaccRead dt sp core a) s (fun t =>
      (¬TapPermits w 2 false → TapBypassed w t)
      ∧ (TapPermits w 2 false → t.tap.instr = 0x10
        ∧ (w.debugSpot sp.toNat core.toNat a.toNat = none → OnlyRegs [] w t ∧ SameMem w t)
        ∧ ∀ p, w.debugSpot sp.toNat core.toNat a.toNat = some p →
            let word := fun status d => dbgWord false sp.toNat core.toNat status a.toNat d
            let u := w.catchAll
            (2 ≤ w.power.state → t.tap.data = word 1 0 ∧ OnlyRegs [] w t ∧ SameMem w t)
            ∧ (w.power.state < 2 → Shielded w p → t.tap.data = word 2 0
                ∧ t.reg (kDebug 7) = satAdd (widthOf (kDebug 7)) (w.reg (kDebug 7)) 1 ∧ OnlyRegs [at1 (kDebug 7)] w t ∧ SameMem w t)
            ∧ (w.power.state < 2 → ¬Shielded w p → w.inStore p = false →
                (if (u.peek8 p).any (fun y => y.2) then ∃ d, t.tap.data = word 4 d
                 else t.tap.data = word 0 (leNat ((u.peek8 p).map Prod.fst)))
                ∧ t.reg (kDebug 6) = satAdd (widthOf (kDebug 6)) (w.reg (kDebug 6)) 1
                ∧ OnlyRegs (at1 (kDebug 6) :: workSpans) w t ∧ SameMem u t))))
  ∧ (∀ (s w : State) (dt : Nat) (sp : BitVec 3) (core : BitVec 4) (a : BitVec 40) (d : BitVec 64), w = s.wait dt → w.power.stage ≠ .off →
    Leads (.dbgaccWrite dt sp core a d) s (fun t =>
      let word := fun status => dbgWord true sp.toNat core.toNat status a.toNat d.toNat
      let u := w.catchAll
      (¬TapPermits w 2 false → TapBypassed w t)
      ∧ (TapPermits w 2 false → t.tap.instr = 0x10
        ∧ (w.debugLevel = 2 → t.tap.data = word 3 ∧ OnlyRegs [] w t ∧ SameMem w t)
        ∧ (2 < w.debugLevel → w.debugSpot sp.toNat core.toNat a.toNat = none → OnlyRegs [] w t ∧ SameMem w t)
        ∧ (2 < w.debugLevel → 2 ≤ w.power.state → (w.debugSpot sp.toNat core.toNat a.toNat).isSome = true →
            t.tap.data = word 1 ∧ OnlyRegs [] w t ∧ SameMem w t)
        ∧ (2 < w.debugLevel → w.power.state < 2 → ∀ p, w.debugSpot sp.toNat core.toNat a.toNat = some p →
            t.tap.data = word 0 ∧ t.reg (kDebug 6) = satAdd (widthOf (kDebug 6)) (w.reg (kDebug 6)) 1
            ∧ (t.peek8 p).map Prod.fst = leBytes 8 d.toNat
            ∧ (∀ q : Spot, (∀ i, i < 8 → q ≠ p.plus i) → (t.peek q).1 = (u.peek q).1)
            ∧ OnlyRegs (at1 (kDebug 6) :: workSpans) w t))))

/-- What DBGCTRL HALT does to a context: one that holds credits or an arena while it is overrun or may hold nothing is torn down;
any other is halted, and while it holds something in its position it is marked. -/
def CtxHalted (s t : State) (job k : Nat) (x : Ctx) : Prop :=
  if x.pos && x.holds && (x.overrun || s.holdTime k == 0) then
    t.ctx? k = none ∧ OnlyRegs (at1 (kDebug 6) :: (faultSpans job ++ signalSpans)) s t
  else
    CtxIs t k (fun y => y.halted = true ∧ y.stepOne = false
      ∧ (x.pos = true → x.forced = false → x.holds = true → y.pos = true ∧ y.graceAt.isSome = true))
    ∧ OnlyRegs (at1 (kDebug 6) :: (workSpans ++ signalSpans)) s t ∧ SameMem s.catchAll t

/-- DBGCTRL answers status 1 where the context is not there and status 2 where RESUME or STEP finds it not halted; otherwise HALT
halts it, RESUME lets it go on, and STEP lets it issue one entry (R480). Choices of the model in it: log 49, 76, 77, 116. -/
def Obligations.DebugControlHaltsContexts : Prop :=
  let told := fun (s t : State) (op : Nat) (job : BitVec 6) (lane : BitVec 3) (status : Nat) =>
    t.tap.instr = 0x12 ∧ t.tap.data = ctrlWord op job.toNat lane.toNat status
      ∧ t.reg (kDebug 6) = (if status = 0 then satAdd (widthOf (kDebug 6)) (s.reg (kDebug 6)) 1 else s.reg (kDebug 6))
  let there := fun (s : State) (job : BitVec 6) (lane : BitVec 3) => if lane.toNat < 6 then s.ctx? (ctxKey job.toNat lane.toNat) else none
  (∀ (s w : State) (dt : Nat) (job : BitVec 6) (lane : BitVec 3), w = s.wait dt → w.power.stage ≠ .off → Calm w →
    Leads (.halt dt job lane) s (fun t =>
      (¬TapPermits w 3 false → TapBypassed w t)
      ∧ (TapPermits w 3 false → match there w job lane with
          | none => told w t 1 job lane 1 ∧ OnlyRegs [] w t ∧ SameMem w t
          | some x => told w t 1 job lane 0 ∧ CtxHalted w t job.toNat (ctxKey job.toNat lane.toNat) x)))
  ∧ (∀ (s w : State) (dt : Nat) (job : BitVec 6) (lane : BitVec 3), w = s.wait dt → w.power.stage ≠ .off →
    Leads (.resume dt job lane) s (fun t =>
      (¬TapPermits w 3 false → TapBypassed w t)
      ∧ (TapPermits w 3 false → match there w job lane with
          | none => told w t 2 job lane 1 ∧ OnlyRegs [] w t ∧ SameMem w t
          | some x =>
            if x.halted then
              told w t 2 job lane 0 ∧ CtxIs t (ctxKey job.toNat lane.toNat) (fun y => y.halted = false ∧ y.stepOne = false)
              ∧ OnlyRegs (at1 (kDebug 6) :: signalSpans) w t ∧ SameMem w t
            else told w t 2 job lane 2 ∧ OnlyRegs [] w t ∧ SameMem w t)))
  ∧ (∀ (s w : State) (dt : Nat) (job : BitVec 6) (lane : BitVec 3), w = s.wait dt → w.power.stage ≠ .off →
    Leads (.dbgctrlStep dt job lane) s (fun t =>
      (¬TapPermits w 3 false → TapBypassed w t)
      ∧ (TapPermits w 3 false → match there w job lane with
          | none => told w t 3 job lane 1 ∧ OnlyRegs [] w t ∧ SameMem w t
          | some x =>
            if x.halted then
              told w t 3 job lane 0 ∧ CtxIs t (ctxKey job.toNat lane.toNat) (fun y => y.halted = true ∧ y.stepOne = true)
              ∧ OnlyRegs (at1 (kDebug 6) :: signalSpans) w t ∧ SameMem w t
            else told w t 3 job lane 2 ∧ OnlyRegs [] w t ∧ SameMem w t)))

/-! Invariants. -/

/-- Every step takes the front command off the queue, if any, keeps the grade, and never goes back on a fuse: the lifecycle does
not fall, revoked slots stay revoked, and installed owner digests stay (00 R8, R472, R473). Choices of the model in it: log 108,
118. -/
def Obligations.EveryStepKeepsFusesAndQueue : Prop :=
  ∀ (s t : State), step s = .next t →
    t.pending = s.pending.tail ∧ t.grade = s.grade ∧ s.fuses.lifecycle ≤ t.fuses.lifecycle
    ∧ (∀ n ∈ s.fuses.revoked, n ∈ t.fuses.revoked) ∧ (∀ n d, tfind s.fuses.owner n = some d → tfind t.fuses.owner n = some d)

/-- Every memory, with the vector registers and the tables of the contexts, is in its canonical form: addresses rise, and no
listed byte is 0. -/
def MemoryIsCanonical (s : State) : Prop :=
  s.ts.wf ∧ s.acc.wf ∧ s.stack.wf ∧ s.ext.wf ∧ ∀ p ∈ s.ctxs, twf unlisted p.2.vregs = true ∧ twf unlisted p.2.luts = true

/-- Every step keeps the canonical form of the memories. Choices of the model in it: log 138. -/
def Obligations.EveryStepKeepsMemoryCanonical : Prop :=
  ∀ (s t : State), MemoryIsCanonical s → step s = .next t → MemoryIsCanonical t

/-- After reset every function is OFF, the memories hold zeros in canonical form, the AL state is INIT, the power state is RUN, no
debug token is held, and the reset record waits in both queues (R483, R488). Choices of the model in it: log 7, 8, 9, 12. -/
def Obligations.ResetLeavesTheModuleUp : Prop :=
  MemoryIsCanonical State.reset ∧ State.reset.up = true ∧ State.reset.power.state = 0 ∧ State.reset.ec.al = 1 ∧ State.reset.tap.token = 0
  ∧ (∀ f ∈ allFns, State.reset.fn f = .off) ∧ State.reset.pending = [] ∧ (∀ k, State.reset.reg k = resetVal k)
  ∧ (∀ a, State.reset.ts.get a = 0#8 ∧ State.reset.acc.get a = 0#8 ∧ State.reset.stack.get a = 0#8 ∧ State.reset.ext.get a = 0#8)
  ∧ State.reset.events = [resetRec] ∧ resetRec.type = 8 ∧ resetRec.what = 0
end

