-- ==== Sys2Proof/Laws/Table.lean ====
section
/-! SUPPORT. Laws of the sparse tables: reading after writing, and the canonical form. -/
namespace Sys2Proof.Machine

section Tables
variable {α : Type} (d : Nat → α)

/-- A smaller bound holds too. -/
theorem twfFrom_mono [DecidableEq α] {t : List (Nat × α)} {lo lo' : Nat} (h : twfFrom d lo t = true) (hl : lo' ≤ lo) :
    twfFrom d lo' t = true := by
  cases t with
  | nil => rfl
  | cons x t =>
    obtain ⟨j, a⟩ := x
    simp only [twfFrom, Bool.and_eq_true, decide_eq_true_eq] at h ⊢
    exact ⟨⟨by omega, h.1.2⟩, h.2⟩

/-- Writing a value that is not the unlisted one keeps the canonical form. -/
theorem twfFrom_tput [DecidableEq α] {t : List (Nat × α)} {lo k : Nat} {v : α} (h : twfFrom d lo t = true) (hk : lo ≤ k) (hv : v ≠ d k) :
    twfFrom d lo (tput t k v) = true := by
  induction t generalizing lo with
  | nil => simp [tput, twfFrom, hk, hv]
  | cons x t ih =>
    obtain ⟨j, a⟩ := x
    simp only [twfFrom, Bool.and_eq_true, decide_eq_true_eq] at h
    unfold tput
    split_ifs with h1 h2
    · simp [twfFrom, hk, hv, h.1.2, h.2]; omega
    · subst h2; simp [twfFrom, hk, hv, h.2]
    · simp [twfFrom, h.1.1, h.1.2, ih h.2 (by omega)]

/-- Removing a key keeps the canonical form. -/
theorem twfFrom_terase [DecidableEq α] {t : List (Nat × α)} {lo : Nat} (k : Nat) (h : twfFrom d lo t = true) :
    twfFrom d lo (terase t k) = true := by
  induction t generalizing lo with
  | nil => rfl
  | cons x t ih =>
    obtain ⟨j, a⟩ := x
    simp only [twfFrom, Bool.and_eq_true, decide_eq_true_eq] at h
    unfold terase at ih ⊢
    rw [List.filter_cons]
    split_ifs with h1
    · simp only [twfFrom, Bool.and_eq_true, decide_eq_true_eq]
      exact ⟨h.1, ih h.2⟩
    · exact twfFrom_mono d (ih h.2) (by omega)

/-- A write keeps the canonical form. -/
theorem twf_tset [DecidableEq α] {t : List (Nat × α)} (k : Nat) (v : α) (h : twf d t = true) : twf d (tset d t k v) = true := by
  unfold tset
  split_ifs with hv
  · exact twfFrom_terase d k h
  · exact twfFrom_tput d h (Nat.zero_le _) hv

/-- A read at the key just put gives the value. -/
theorem tget_tput_same (t : List (Nat × α)) (k : Nat) (v : α) : tget d (tput t k v) k = v := by
  induction t with
  | nil => simp [tput, tget]
  | cons x t ih =>
    obtain ⟨j, a⟩ := x
    unfold tput
    split_ifs with h1 h2
    · simp [tget]
    · simp [tget]
    · rw [tget, if_neg h2, ih]

/-- A put leaves every other key alone. -/
theorem tget_tput_other (t : List (Nat × α)) {k j : Nat} (v : α) (h : j ≠ k) : tget d (tput t k v) j = tget d t j := by
  induction t with
  | nil => simp [tput, tget, h]
  | cons x t ih =>
    obtain ⟨i, a⟩ := x
    unfold tput
    split_ifs with h1 h2
    · rw [tget, if_neg h]
    · subst h2; simp [tget, h]
    · simp only [tget]; split_ifs
      · rfl
      · exact ih

/-- An erased key reads as unlisted. -/
theorem tget_terase_same (t : List (Nat × α)) (k : Nat) : tget d (terase t k) k = d k := by
  induction t with
  | nil => rfl
  | cons x t ih =>
    obtain ⟨j, a⟩ := x
    unfold terase at ih ⊢
    rw [List.filter_cons]
    split_ifs with h1
    · rw [tget, if_neg (by rintro rfl; simp at h1), ih]
    · exact ih

/-- Erasing leaves every other key alone. -/
theorem tget_terase_other (t : List (Nat × α)) {k j : Nat} (h : j ≠ k) : tget d (terase t k) j = tget d t j := by
  induction t with
  | nil => rfl
  | cons x t ih =>
    obtain ⟨i, a⟩ := x
    unfold terase at ih ⊢
    rw [List.filter_cons]
    simp only [tget]
    split_ifs with h1 h2
    · rw [h2, tget, if_pos rfl]
    · rw [tget, if_neg h2, ih]
    · simp only [bne_iff_ne, ne_eq, not_not] at h1; omega
    · exact ih

/-- A read after a write to the same key gives the value written. -/
theorem tget_tset_same [DecidableEq α] (t : List (Nat × α)) (k : Nat) (v : α) : tget d (tset d t k v) k = v := by
  unfold tset
  split_ifs with hv
  · rw [tget_terase_same d t k, hv]
  · exact tget_tput_same d t k v

/-- A write leaves every other key alone. -/
theorem tget_tset_other [DecidableEq α] (t : List (Nat × α)) {k j : Nat} (v : α) (h : j ≠ k) : tget d (tset d t k v) j = tget d t j := by
  unfold tset
  split_ifs
  · exact tget_terase_other d t h
  · exact tget_tput_other d t v h

end Tables

/-- Fold a property through `forEach`. -/
theorem forEach_keeps {σ β : Type} (p : σ → Prop) (f : β → σ → σ) (hf : ∀ x s, p s → p (f x s)) (xs : List β) (s : σ)
    (h : p s) : p (forEach xs s f) := by
  unfold forEach
  induction xs generalizing s with
  | nil => exact h
  | cons x xs ih => exact ih _ (hf x s h)

/-- What every step of a `forEach` leaves unchanged, the whole leaves unchanged. -/
theorem forEach_same {σ β γ : Type} (g : σ → γ) (f : β → σ → σ) (hf : ∀ x s, g (f x s) = g s) (xs : List β) (s : σ) :
    g (forEach xs s f) = g s := by
  unfold forEach
  induction xs generalizing s with
  | nil => rfl
  | cons x xs ih => rw [List.foldl_cons, ih, hf]

/-- What one member of a list does to the state in a `forEach`: before it `p` holds, its own turn turns `p` into `q`, and the
other turns keep both. -/
theorem forEach_at {σ β : Type} {p q : σ → Prop} {f : β → σ → σ} {xs : List β} {x : β} {s : σ} (hx : x ∈ xs)
    (hn : xs.Nodup) (h0 : p s) (hp : ∀ y ∈ xs, y ≠ x → ∀ u, p u → p (f y u)) (hs : ∀ u, p u → q (f x u))
    (hq : ∀ y ∈ xs, y ≠ x → ∀ u, q u → q (f y u)) : q (forEach xs s f) := by
  unfold forEach
  induction xs generalizing s with
  | nil => cases hx
  | cons y ys ih =>
    rw [List.foldl_cons]
    rw [List.nodup_cons] at hn
    by_cases h : y = x
    · subst h
      have hk : ∀ zs : List β, (∀ z ∈ zs, z ∈ ys) → ∀ u, q u → q (zs.foldl (fun t x => f x t) u) := by
        intro zs
        induction zs with
        | nil => intro _ u hu; exact hu
        | cons z zs ih2 =>
          intro hz u hu
          have hzy := hz z List.mem_cons_self
          exact ih2 (fun w hw => hz w (List.mem_cons_of_mem _ hw)) _
            (hq z (List.mem_cons_of_mem _ hzy) (fun e => hn.1 (e ▸ hzy)) u hu)
      exact hk ys (fun z hz => hz) _ (hs s h0)
    · have hx' : x ∈ ys := by
        rcases List.mem_cons.1 hx with e | e
        · exact absurd e.symm h
        · exact e
      exact ih hx' hn.2 (hp y List.mem_cons_self h s h0) (fun z hz => hp z (List.mem_cons_of_mem _ hz))
        (fun z hz => hq z (List.mem_cons_of_mem _ hz))

/-- A number below a bound is in the list that counts up to it, once. -/
theorem mem_upTo {i n : Nat} (h : i < n) : i ∈ upTo n := List.mem_range.2 h
theorem upTo_nodup (n : Nat) : (upTo n).Nodup := List.nodup_range

end Sys2Proof.Machine
end

