-- ==== Sys2Proof/Laws/State.lean ====
section
/-! SUPPORT. Laws of the state's updates: what each setter leaves alone, field by field, and reading a register, a DOMAIN
value or a unit after writing one. -/
namespace Sys2Proof.Machine

variable (s : State)

/-! atTime -/

@[simp] theorem State.atTime_grade (t : Nat) : (s.atTime t).grade = s.grade := rfl
@[simp] theorem State.atTime_pending (t : Nat) : (s.atTime t).pending = s.pending := rfl
@[simp] theorem State.atTime_later (t : Nat) : (s.atTime t).later = s.later := rfl
@[simp] theorem State.atTime_regs (t : Nat) : (s.atTime t).regs = s.regs := rfl
@[simp] theorem State.atTime_doms (t : Nat) : (s.atTime t).doms = s.doms := rfl
@[simp] theorem State.atTime_freeCount (t : Nat) : (s.atTime t).freeCount = s.freeCount := rfl
@[simp] theorem State.atTime_holdoffs (t : Nat) : (s.atTime t).holdoffs = s.holdoffs := rfl
@[simp] theorem State.atTime_events (t : Nat) : (s.atTime t).events = s.events := rfl
@[simp] theorem State.atTime_emergencies (t : Nat) : (s.atTime t).emergencies = s.emergencies := rfl
@[simp] theorem State.atTime_encs (t : Nat) : (s.atTime t).encs = s.encs := rfl
@[simp] theorem State.atTime_domains (t : Nat) : (s.atTime t).domains = s.domains := rfl
@[simp] theorem State.atTime_trigs (t : Nat) : (s.atTime t).trigs = s.trigs := rfl
@[simp] theorem State.atTime_wins (t : Nat) : (s.atTime t).wins = s.wins := rfl
@[simp] theorem State.atTime_timers (t : Nat) : (s.atTime t).timers = s.timers := rfl
@[simp] theorem State.atTime_cmps (t : Nat) : (s.atTime t).cmps = s.cmps := rfl
@[simp] theorem State.atTime_slackAt (t : Nat) : (s.atTime t).slackAt = s.slackAt := rfl
@[simp] theorem State.atTime_groups (t : Nat) : (s.atTime t).groups = s.groups := rfl
@[simp] theorem State.atTime_chans (t : Nat) : (s.atTime t).chans = s.chans := rfl
@[simp] theorem State.atTime_pdQueue (t : Nat) : (s.atTime t).pdQueue = s.pdQueue := rfl
@[simp] theorem State.atTime_pdNext (t : Nat) : (s.atTime t).pdNext = s.pdNext := rfl
@[simp] theorem State.atTime_pdVeto (t : Nat) : (s.atTime t).pdVeto = s.pdVeto := rfl
@[simp] theorem State.atTime_netQueue (t : Nat) : (s.atTime t).netQueue = s.netQueue := rfl
@[simp] theorem State.atTime_netNext (t : Nat) : (s.atTime t).netNext = s.netNext := rfl
@[simp] theorem State.atTime_field (t : Nat) : (s.atTime t).field = s.field := rfl
@[simp] theorem State.atTime_ports (t : Nat) : (s.atTime t).ports = s.ports := rfl
@[simp] theorem State.atTime_sccs (t : Nat) : (s.atTime t).sccs = s.sccs := rfl
@[simp] theorem State.atTime_nets (t : Nat) : (s.atTime t).nets = s.nets := rfl
@[simp] theorem State.atTime_ptp (t : Nat) : (s.atTime t).ptp = s.ptp := rfl
@[simp] theorem State.atTime_ts (t : Nat) : (s.atTime t).ts = s.ts := rfl
@[simp] theorem State.atTime_acc (t : Nat) : (s.atTime t).acc = s.acc := rfl
@[simp] theorem State.atTime_stack (t : Nat) : (s.atTime t).stack = s.stack := rfl
@[simp] theorem State.atTime_ext (t : Nat) : (s.atTime t).ext = s.ext := rfl
@[simp] theorem State.atTime_valid (t : Nat) : (s.atTime t).valid = s.valid := rfl
@[simp] theorem State.atTime_writebacks (t : Nat) : (s.atTime t).writebacks = s.writebacks := rfl
@[simp] theorem State.atTime_walkers (t : Nat) : (s.atTime t).walkers = s.walkers := rfl
@[simp] theorem State.atTime_allots (t : Nat) : (s.atTime t).allots = s.allots := rfl
@[simp] theorem State.atTime_cache (t : Nat) : (s.atTime t).cache = s.cache := rfl
@[simp] theorem State.atTime_images (t : Nat) : (s.atTime t).images = s.images := rfl
@[simp] theorem State.atTime_models (t : Nat) : (s.atTime t).models = s.models := rfl
@[simp] theorem State.atTime_pins (t : Nat) : (s.atTime t).pins = s.pins := rfl
@[simp] theorem State.atTime_regions (t : Nat) : (s.atTime t).regions = s.regions := rfl
@[simp] theorem State.atTime_arrays (t : Nat) : (s.atTime t).arrays = s.arrays := rfl
@[simp] theorem State.atTime_vectors (t : Nat) : (s.atTime t).vectors = s.vectors := rfl
@[simp] theorem State.atTime_shunters (t : Nat) : (s.atTime t).shunters = s.shunters := rfl
@[simp] theorem State.atTime_topks (t : Nat) : (s.atTime t).topks = s.topks := rfl
@[simp] theorem State.atTime_refusals (t : Nat) : (s.atTime t).refusals = s.refusals := rfl
@[simp] theorem State.atTime_taken (t : Nat) : (s.atTime t).taken = s.taken := rfl
@[simp] theorem State.atTime_arrivals (t : Nat) : (s.atTime t).arrivals = s.arrivals := rfl
@[simp] theorem State.atTime_slots (t : Nat) : (s.atTime t).slots = s.slots := rfl
@[simp] theorem State.atTime_extBusy (t : Nat) : (s.atTime t).extBusy = s.extBusy := rfl
@[simp] theorem State.atTime_extOpen (t : Nat) : (s.atTime t).extOpen = s.extOpen := rfl
@[simp] theorem State.atTime_tables (t : Nat) : (s.atTime t).tables = s.tables := rfl
@[simp] theorem State.atTime_ctxs (t : Nat) : (s.atTime t).ctxs = s.ctxs := rfl
@[simp] theorem State.atTime_ghosts (t : Nat) : (s.atTime t).ghosts = s.ghosts := rfl
@[simp] theorem State.atTime_tgts (t : Nat) : (s.atTime t).tgts = s.tgts := rfl
@[simp] theorem State.atTime_kept (t : Nat) : (s.atTime t).kept = s.kept := rfl
@[simp] theorem State.atTime_incs (t : Nat) : (s.atTime t).incs = s.incs := rfl
@[simp] theorem State.atTime_jobs (t : Nat) : (s.atTime t).jobs = s.jobs := rfl
@[simp] theorem State.atTime_parts (t : Nat) : (s.atTime t).parts = s.parts := rfl
@[simp] theorem State.atTime_hub (t : Nat) : (s.atTime t).hub = s.hub := rfl
@[simp] theorem State.atTime_hubOps (t : Nat) : (s.atTime t).hubOps = s.hubOps := rfl
@[simp] theorem State.atTime_hubWaits (t : Nat) : (s.atTime t).hubWaits = s.hubWaits := rfl
@[simp] theorem State.atTime_laneSigs (t : Nat) : (s.atTime t).laneSigs = s.laneSigs := rfl
@[simp] theorem State.atTime_linkUse (t : Nat) : (s.atTime t).linkUse = s.linkUse := rfl
@[simp] theorem State.atTime_banks (t : Nat) : (s.atTime t).banks = s.banks := rfl
@[simp] theorem State.atTime_ifes (t : Nat) : (s.atTime t).ifes = s.ifes := rfl
@[simp] theorem State.atTime_intakes (t : Nat) : (s.atTime t).intakes = s.intakes := rfl
@[simp] theorem State.atTime_engines (t : Nat) : (s.atTime t).engines = s.engines := rfl
@[simp] theorem State.atTime_lastIntake (t : Nat) : (s.atTime t).lastIntake = s.lastIntake := rfl
@[simp] theorem State.atTime_kbRest (t : Nat) : (s.atTime t).kbRest = s.kbRest := rfl
@[simp] theorem State.atTime_alignC (t : Nat) : (s.atTime t).alignC = s.alignC := rfl
@[simp] theorem State.atTime_alignS (t : Nat) : (s.atTime t).alignS = s.alignS := rfl
@[simp] theorem State.atTime_power (t : Nat) : (s.atTime t).power = s.power := rfl
@[simp] theorem State.atTime_limits (t : Nat) : (s.atTime t).limits = s.limits := rfl
@[simp] theorem State.atTime_fuses (t : Nat) : (s.atTime t).fuses = s.fuses := rfl
@[simp] theorem State.atTime_flash (t : Nat) : (s.atTime t).flash = s.flash := rfl
@[simp] theorem State.atTime_tap (t : Nat) : (s.atTime t).tap = s.tap := rfl
@[simp] theorem State.atTime_imgFrom (t : Nat) : (s.atTime t).imgFrom = s.imgFrom := rfl
@[simp] theorem State.atTime_barrier (t : Nat) : (s.atTime t).barrier = s.barrier := rfl
@[simp] theorem State.atTime_hsp (t : Nat) : (s.atTime t).hsp = s.hsp := rfl
@[simp] theorem State.atTime_ec (t : Nat) : (s.atTime t).ec = s.ec := rfl
@[simp] theorem State.atTime_launches (t : Nat) : (s.atTime t).launches = s.launches := rfl
@[simp] theorem State.atTime_evOverflow (t : Nat) : (s.atTime t).evOverflow = s.evOverflow := rfl
@[simp] theorem State.atTime_reg (t : Nat) (j : Nat) : (s.atTime t).reg j = s.reg j := rfl
@[simp] theorem State.atTime_time (t : Nat) : (s.atTime t).time = t := rfl

/-! defer -/

@[simp] theorem State.defer_time (l : Later) : (s.defer l).time = s.time := rfl
@[simp] theorem State.defer_grade (l : Later) : (s.defer l).grade = s.grade := rfl
@[simp] theorem State.defer_pending (l : Later) : (s.defer l).pending = s.pending := rfl
@[simp] theorem State.defer_regs (l : Later) : (s.defer l).regs = s.regs := rfl
@[simp] theorem State.defer_doms (l : Later) : (s.defer l).doms = s.doms := rfl
@[simp] theorem State.defer_freeCount (l : Later) : (s.defer l).freeCount = s.freeCount := rfl
@[simp] theorem State.defer_holdoffs (l : Later) : (s.defer l).holdoffs = s.holdoffs := rfl
@[simp] theorem State.defer_events (l : Later) : (s.defer l).events = s.events := rfl
@[simp] theorem State.defer_emergencies (l : Later) : (s.defer l).emergencies = s.emergencies := rfl
@[simp] theorem State.defer_encs (l : Later) : (s.defer l).encs = s.encs := rfl
@[simp] theorem State.defer_domains (l : Later) : (s.defer l).domains = s.domains := rfl
@[simp] theorem State.defer_trigs (l : Later) : (s.defer l).trigs = s.trigs := rfl
@[simp] theorem State.defer_wins (l : Later) : (s.defer l).wins = s.wins := rfl
@[simp] theorem State.defer_timers (l : Later) : (s.defer l).timers = s.timers := rfl
@[simp] theorem State.defer_cmps (l : Later) : (s.defer l).cmps = s.cmps := rfl
@[simp] theorem State.defer_slackAt (l : Later) : (s.defer l).slackAt = s.slackAt := rfl
@[simp] theorem State.defer_groups (l : Later) : (s.defer l).groups = s.groups := rfl
@[simp] theorem State.defer_chans (l : Later) : (s.defer l).chans = s.chans := rfl
@[simp] theorem State.defer_pdQueue (l : Later) : (s.defer l).pdQueue = s.pdQueue := rfl
@[simp] theorem State.defer_pdNext (l : Later) : (s.defer l).pdNext = s.pdNext := rfl
@[simp] theorem State.defer_pdVeto (l : Later) : (s.defer l).pdVeto = s.pdVeto := rfl
@[simp] theorem State.defer_netQueue (l : Later) : (s.defer l).netQueue = s.netQueue := rfl
@[simp] theorem State.defer_netNext (l : Later) : (s.defer l).netNext = s.netNext := rfl
@[simp] theorem State.defer_field (l : Later) : (s.defer l).field = s.field := rfl
@[simp] theorem State.defer_ports (l : Later) : (s.defer l).ports = s.ports := rfl
@[simp] theorem State.defer_sccs (l : Later) : (s.defer l).sccs = s.sccs := rfl
@[simp] theorem State.defer_nets (l : Later) : (s.defer l).nets = s.nets := rfl
@[simp] theorem State.defer_ptp (l : Later) : (s.defer l).ptp = s.ptp := rfl
@[simp] theorem State.defer_ts (l : Later) : (s.defer l).ts = s.ts := rfl
@[simp] theorem State.defer_acc (l : Later) : (s.defer l).acc = s.acc := rfl
@[simp] theorem State.defer_stack (l : Later) : (s.defer l).stack = s.stack := rfl
@[simp] theorem State.defer_ext (l : Later) : (s.defer l).ext = s.ext := rfl
@[simp] theorem State.defer_valid (l : Later) : (s.defer l).valid = s.valid := rfl
@[simp] theorem State.defer_writebacks (l : Later) : (s.defer l).writebacks = s.writebacks := rfl
@[simp] theorem State.defer_walkers (l : Later) : (s.defer l).walkers = s.walkers := rfl
@[simp] theorem State.defer_allots (l : Later) : (s.defer l).allots = s.allots := rfl
@[simp] theorem State.defer_cache (l : Later) : (s.defer l).cache = s.cache := rfl
@[simp] theorem State.defer_images (l : Later) : (s.defer l).images = s.images := rfl
@[simp] theorem State.defer_models (l : Later) : (s.defer l).models = s.models := rfl
@[simp] theorem State.defer_pins (l : Later) : (s.defer l).pins = s.pins := rfl
@[simp] theorem State.defer_regions (l : Later) : (s.defer l).regions = s.regions := rfl
@[simp] theorem State.defer_arrays (l : Later) : (s.defer l).arrays = s.arrays := rfl
@[simp] theorem State.defer_vectors (l : Later) : (s.defer l).vectors = s.vectors := rfl
@[simp] theorem State.defer_shunters (l : Later) : (s.defer l).shunters = s.shunters := rfl
@[simp] theorem State.defer_topks (l : Later) : (s.defer l).topks = s.topks := rfl
@[simp] theorem State.defer_refusals (l : Later) : (s.defer l).refusals = s.refusals := rfl
@[simp] theorem State.defer_taken (l : Later) : (s.defer l).taken = s.taken := rfl
@[simp] theorem State.defer_arrivals (l : Later) : (s.defer l).arrivals = s.arrivals := rfl
@[simp] theorem State.defer_slots (l : Later) : (s.defer l).slots = s.slots := rfl
@[simp] theorem State.defer_extBusy (l : Later) : (s.defer l).extBusy = s.extBusy := rfl
@[simp] theorem State.defer_extOpen (l : Later) : (s.defer l).extOpen = s.extOpen := rfl
@[simp] theorem State.defer_tables (l : Later) : (s.defer l).tables = s.tables := rfl
@[simp] theorem State.defer_ctxs (l : Later) : (s.defer l).ctxs = s.ctxs := rfl
@[simp] theorem State.defer_ghosts (l : Later) : (s.defer l).ghosts = s.ghosts := rfl
@[simp] theorem State.defer_tgts (l : Later) : (s.defer l).tgts = s.tgts := rfl
@[simp] theorem State.defer_kept (l : Later) : (s.defer l).kept = s.kept := rfl
@[simp] theorem State.defer_incs (l : Later) : (s.defer l).incs = s.incs := rfl
@[simp] theorem State.defer_jobs (l : Later) : (s.defer l).jobs = s.jobs := rfl
@[simp] theorem State.defer_parts (l : Later) : (s.defer l).parts = s.parts := rfl
@[simp] theorem State.defer_hub (l : Later) : (s.defer l).hub = s.hub := rfl
@[simp] theorem State.defer_hubOps (l : Later) : (s.defer l).hubOps = s.hubOps := rfl
@[simp] theorem State.defer_hubWaits (l : Later) : (s.defer l).hubWaits = s.hubWaits := rfl
@[simp] theorem State.defer_laneSigs (l : Later) : (s.defer l).laneSigs = s.laneSigs := rfl
@[simp] theorem State.defer_linkUse (l : Later) : (s.defer l).linkUse = s.linkUse := rfl
@[simp] theorem State.defer_banks (l : Later) : (s.defer l).banks = s.banks := rfl
@[simp] theorem State.defer_ifes (l : Later) : (s.defer l).ifes = s.ifes := rfl
@[simp] theorem State.defer_intakes (l : Later) : (s.defer l).intakes = s.intakes := rfl
@[simp] theorem State.defer_engines (l : Later) : (s.defer l).engines = s.engines := rfl
@[simp] theorem State.defer_lastIntake (l : Later) : (s.defer l).lastIntake = s.lastIntake := rfl
@[simp] theorem State.defer_kbRest (l : Later) : (s.defer l).kbRest = s.kbRest := rfl
@[simp] theorem State.defer_alignC (l : Later) : (s.defer l).alignC = s.alignC := rfl
@[simp] theorem State.defer_alignS (l : Later) : (s.defer l).alignS = s.alignS := rfl
@[simp] theorem State.defer_power (l : Later) : (s.defer l).power = s.power := rfl
@[simp] theorem State.defer_limits (l : Later) : (s.defer l).limits = s.limits := rfl
@[simp] theorem State.defer_fuses (l : Later) : (s.defer l).fuses = s.fuses := rfl
@[simp] theorem State.defer_flash (l : Later) : (s.defer l).flash = s.flash := rfl
@[simp] theorem State.defer_tap (l : Later) : (s.defer l).tap = s.tap := rfl
@[simp] theorem State.defer_imgFrom (l : Later) : (s.defer l).imgFrom = s.imgFrom := rfl
@[simp] theorem State.defer_barrier (l : Later) : (s.defer l).barrier = s.barrier := rfl
@[simp] theorem State.defer_hsp (l : Later) : (s.defer l).hsp = s.hsp := rfl
@[simp] theorem State.defer_ec (l : Later) : (s.defer l).ec = s.ec := rfl
@[simp] theorem State.defer_launches (l : Later) : (s.defer l).launches = s.launches := rfl
@[simp] theorem State.defer_evOverflow (l : Later) : (s.defer l).evOverflow = s.evOverflow := rfl
@[simp] theorem State.defer_reg (l : Later) (j : Nat) : (s.defer l).reg j = s.reg j := rfl

/-! setReg -/

@[simp] theorem State.setReg_time (k v : Nat) : (s.setReg k v).time = s.time := rfl
@[simp] theorem State.setReg_grade (k v : Nat) : (s.setReg k v).grade = s.grade := rfl
@[simp] theorem State.setReg_pending (k v : Nat) : (s.setReg k v).pending = s.pending := rfl
@[simp] theorem State.setReg_later (k v : Nat) : (s.setReg k v).later = s.later := rfl
@[simp] theorem State.setReg_doms (k v : Nat) : (s.setReg k v).doms = s.doms := rfl
@[simp] theorem State.setReg_freeCount (k v : Nat) : (s.setReg k v).freeCount = s.freeCount := rfl
@[simp] theorem State.setReg_holdoffs (k v : Nat) : (s.setReg k v).holdoffs = s.holdoffs := rfl
@[simp] theorem State.setReg_events (k v : Nat) : (s.setReg k v).events = s.events := rfl
@[simp] theorem State.setReg_emergencies (k v : Nat) : (s.setReg k v).emergencies = s.emergencies := rfl
@[simp] theorem State.setReg_encs (k v : Nat) : (s.setReg k v).encs = s.encs := rfl
@[simp] theorem State.setReg_domains (k v : Nat) : (s.setReg k v).domains = s.domains := rfl
@[simp] theorem State.setReg_trigs (k v : Nat) : (s.setReg k v).trigs = s.trigs := rfl
@[simp] theorem State.setReg_wins (k v : Nat) : (s.setReg k v).wins = s.wins := rfl
@[simp] theorem State.setReg_timers (k v : Nat) : (s.setReg k v).timers = s.timers := rfl
@[simp] theorem State.setReg_cmps (k v : Nat) : (s.setReg k v).cmps = s.cmps := rfl
@[simp] theorem State.setReg_slackAt (k v : Nat) : (s.setReg k v).slackAt = s.slackAt := rfl
@[simp] theorem State.setReg_groups (k v : Nat) : (s.setReg k v).groups = s.groups := rfl
@[simp] theorem State.setReg_chans (k v : Nat) : (s.setReg k v).chans = s.chans := rfl
@[simp] theorem State.setReg_pdQueue (k v : Nat) : (s.setReg k v).pdQueue = s.pdQueue := rfl
@[simp] theorem State.setReg_pdNext (k v : Nat) : (s.setReg k v).pdNext = s.pdNext := rfl
@[simp] theorem State.setReg_pdVeto (k v : Nat) : (s.setReg k v).pdVeto = s.pdVeto := rfl
@[simp] theorem State.setReg_netQueue (k v : Nat) : (s.setReg k v).netQueue = s.netQueue := rfl
@[simp] theorem State.setReg_netNext (k v : Nat) : (s.setReg k v).netNext = s.netNext := rfl
@[simp] theorem State.setReg_field (k v : Nat) : (s.setReg k v).field = s.field := rfl
@[simp] theorem State.setReg_ports (k v : Nat) : (s.setReg k v).ports = s.ports := rfl
@[simp] theorem State.setReg_sccs (k v : Nat) : (s.setReg k v).sccs = s.sccs := rfl
@[simp] theorem State.setReg_nets (k v : Nat) : (s.setReg k v).nets = s.nets := rfl
@[simp] theorem State.setReg_ptp (k v : Nat) : (s.setReg k v).ptp = s.ptp := rfl
@[simp] theorem State.setReg_ts (k v : Nat) : (s.setReg k v).ts = s.ts := rfl
@[simp] theorem State.setReg_acc (k v : Nat) : (s.setReg k v).acc = s.acc := rfl
@[simp] theorem State.setReg_stack (k v : Nat) : (s.setReg k v).stack = s.stack := rfl
@[simp] theorem State.setReg_ext (k v : Nat) : (s.setReg k v).ext = s.ext := rfl
@[simp] theorem State.setReg_valid (k v : Nat) : (s.setReg k v).valid = s.valid := rfl
@[simp] theorem State.setReg_writebacks (k v : Nat) : (s.setReg k v).writebacks = s.writebacks := rfl
@[simp] theorem State.setReg_walkers (k v : Nat) : (s.setReg k v).walkers = s.walkers := rfl
@[simp] theorem State.setReg_allots (k v : Nat) : (s.setReg k v).allots = s.allots := rfl
@[simp] theorem State.setReg_cache (k v : Nat) : (s.setReg k v).cache = s.cache := rfl
@[simp] theorem State.setReg_images (k v : Nat) : (s.setReg k v).images = s.images := rfl
@[simp] theorem State.setReg_models (k v : Nat) : (s.setReg k v).models = s.models := rfl
@[simp] theorem State.setReg_pins (k v : Nat) : (s.setReg k v).pins = s.pins := rfl
@[simp] theorem State.setReg_regions (k v : Nat) : (s.setReg k v).regions = s.regions := rfl
@[simp] theorem State.setReg_arrays (k v : Nat) : (s.setReg k v).arrays = s.arrays := rfl
@[simp] theorem State.setReg_vectors (k v : Nat) : (s.setReg k v).vectors = s.vectors := rfl
@[simp] theorem State.setReg_shunters (k v : Nat) : (s.setReg k v).shunters = s.shunters := rfl
@[simp] theorem State.setReg_topks (k v : Nat) : (s.setReg k v).topks = s.topks := rfl
@[simp] theorem State.setReg_refusals (k v : Nat) : (s.setReg k v).refusals = s.refusals := rfl
@[simp] theorem State.setReg_taken (k v : Nat) : (s.setReg k v).taken = s.taken := rfl
@[simp] theorem State.setReg_arrivals (k v : Nat) : (s.setReg k v).arrivals = s.arrivals := rfl
@[simp] theorem State.setReg_slots (k v : Nat) : (s.setReg k v).slots = s.slots := rfl
@[simp] theorem State.setReg_extBusy (k v : Nat) : (s.setReg k v).extBusy = s.extBusy := rfl
@[simp] theorem State.setReg_extOpen (k v : Nat) : (s.setReg k v).extOpen = s.extOpen := rfl
@[simp] theorem State.setReg_tables (k v : Nat) : (s.setReg k v).tables = s.tables := rfl
@[simp] theorem State.setReg_ctxs (k v : Nat) : (s.setReg k v).ctxs = s.ctxs := rfl
@[simp] theorem State.setReg_ghosts (k v : Nat) : (s.setReg k v).ghosts = s.ghosts := rfl
@[simp] theorem State.setReg_tgts (k v : Nat) : (s.setReg k v).tgts = s.tgts := rfl
@[simp] theorem State.setReg_kept (k v : Nat) : (s.setReg k v).kept = s.kept := rfl
@[simp] theorem State.setReg_incs (k v : Nat) : (s.setReg k v).incs = s.incs := rfl
@[simp] theorem State.setReg_jobs (k v : Nat) : (s.setReg k v).jobs = s.jobs := rfl
@[simp] theorem State.setReg_parts (k v : Nat) : (s.setReg k v).parts = s.parts := rfl
@[simp] theorem State.setReg_hub (k v : Nat) : (s.setReg k v).hub = s.hub := rfl
@[simp] theorem State.setReg_hubOps (k v : Nat) : (s.setReg k v).hubOps = s.hubOps := rfl
@[simp] theorem State.setReg_hubWaits (k v : Nat) : (s.setReg k v).hubWaits = s.hubWaits := rfl
@[simp] theorem State.setReg_laneSigs (k v : Nat) : (s.setReg k v).laneSigs = s.laneSigs := rfl
@[simp] theorem State.setReg_linkUse (k v : Nat) : (s.setReg k v).linkUse = s.linkUse := rfl
@[simp] theorem State.setReg_banks (k v : Nat) : (s.setReg k v).banks = s.banks := rfl
@[simp] theorem State.setReg_ifes (k v : Nat) : (s.setReg k v).ifes = s.ifes := rfl
@[simp] theorem State.setReg_intakes (k v : Nat) : (s.setReg k v).intakes = s.intakes := rfl
@[simp] theorem State.setReg_engines (k v : Nat) : (s.setReg k v).engines = s.engines := rfl
@[simp] theorem State.setReg_lastIntake (k v : Nat) : (s.setReg k v).lastIntake = s.lastIntake := rfl
@[simp] theorem State.setReg_kbRest (k v : Nat) : (s.setReg k v).kbRest = s.kbRest := rfl
@[simp] theorem State.setReg_alignC (k v : Nat) : (s.setReg k v).alignC = s.alignC := rfl
@[simp] theorem State.setReg_alignS (k v : Nat) : (s.setReg k v).alignS = s.alignS := rfl
@[simp] theorem State.setReg_power (k v : Nat) : (s.setReg k v).power = s.power := rfl
@[simp] theorem State.setReg_limits (k v : Nat) : (s.setReg k v).limits = s.limits := rfl
@[simp] theorem State.setReg_fuses (k v : Nat) : (s.setReg k v).fuses = s.fuses := rfl
@[simp] theorem State.setReg_flash (k v : Nat) : (s.setReg k v).flash = s.flash := rfl
@[simp] theorem State.setReg_tap (k v : Nat) : (s.setReg k v).tap = s.tap := rfl
@[simp] theorem State.setReg_imgFrom (k v : Nat) : (s.setReg k v).imgFrom = s.imgFrom := rfl
@[simp] theorem State.setReg_barrier (k v : Nat) : (s.setReg k v).barrier = s.barrier := rfl
@[simp] theorem State.setReg_hsp (k v : Nat) : (s.setReg k v).hsp = s.hsp := rfl
@[simp] theorem State.setReg_ec (k v : Nat) : (s.setReg k v).ec = s.ec := rfl
@[simp] theorem State.setReg_launches (k v : Nat) : (s.setReg k v).launches = s.launches := rfl
@[simp] theorem State.setReg_evOverflow (k v : Nat) : (s.setReg k v).evOverflow = s.evOverflow := rfl

/-! setDom -/

@[simp] theorem State.setDom_time (k : Nat) (v : Bytes) : (s.setDom k v).time = s.time := rfl
@[simp] theorem State.setDom_grade (k : Nat) (v : Bytes) : (s.setDom k v).grade = s.grade := rfl
@[simp] theorem State.setDom_pending (k : Nat) (v : Bytes) : (s.setDom k v).pending = s.pending := rfl
@[simp] theorem State.setDom_later (k : Nat) (v : Bytes) : (s.setDom k v).later = s.later := rfl
@[simp] theorem State.setDom_regs (k : Nat) (v : Bytes) : (s.setDom k v).regs = s.regs := rfl
@[simp] theorem State.setDom_freeCount (k : Nat) (v : Bytes) : (s.setDom k v).freeCount = s.freeCount := rfl
@[simp] theorem State.setDom_holdoffs (k : Nat) (v : Bytes) : (s.setDom k v).holdoffs = s.holdoffs := rfl
@[simp] theorem State.setDom_events (k : Nat) (v : Bytes) : (s.setDom k v).events = s.events := rfl
@[simp] theorem State.setDom_emergencies (k : Nat) (v : Bytes) : (s.setDom k v).emergencies = s.emergencies := rfl
@[simp] theorem State.setDom_encs (k : Nat) (v : Bytes) : (s.setDom k v).encs = s.encs := rfl
@[simp] theorem State.setDom_domains (k : Nat) (v : Bytes) : (s.setDom k v).domains = s.domains := rfl
@[simp] theorem State.setDom_trigs (k : Nat) (v : Bytes) : (s.setDom k v).trigs = s.trigs := rfl
@[simp] theorem State.setDom_wins (k : Nat) (v : Bytes) : (s.setDom k v).wins = s.wins := rfl
@[simp] theorem State.setDom_timers (k : Nat) (v : Bytes) : (s.setDom k v).timers = s.timers := rfl
@[simp] theorem State.setDom_cmps (k : Nat) (v : Bytes) : (s.setDom k v).cmps = s.cmps := rfl
@[simp] theorem State.setDom_slackAt (k : Nat) (v : Bytes) : (s.setDom k v).slackAt = s.slackAt := rfl
@[simp] theorem State.setDom_groups (k : Nat) (v : Bytes) : (s.setDom k v).groups = s.groups := rfl
@[simp] theorem State.setDom_chans (k : Nat) (v : Bytes) : (s.setDom k v).chans = s.chans := rfl
@[simp] theorem State.setDom_pdQueue (k : Nat) (v : Bytes) : (s.setDom k v).pdQueue = s.pdQueue := rfl
@[simp] theorem State.setDom_pdNext (k : Nat) (v : Bytes) : (s.setDom k v).pdNext = s.pdNext := rfl
@[simp] theorem State.setDom_pdVeto (k : Nat) (v : Bytes) : (s.setDom k v).pdVeto = s.pdVeto := rfl
@[simp] theorem State.setDom_netQueue (k : Nat) (v : Bytes) : (s.setDom k v).netQueue = s.netQueue := rfl
@[simp] theorem State.setDom_netNext (k : Nat) (v : Bytes) : (s.setDom k v).netNext = s.netNext := rfl
@[simp] theorem State.setDom_field (k : Nat) (v : Bytes) : (s.setDom k v).field = s.field := rfl
@[simp] theorem State.setDom_ports (k : Nat) (v : Bytes) : (s.setDom k v).ports = s.ports := rfl
@[simp] theorem State.setDom_sccs (k : Nat) (v : Bytes) : (s.setDom k v).sccs = s.sccs := rfl
@[simp] theorem State.setDom_nets (k : Nat) (v : Bytes) : (s.setDom k v).nets = s.nets := rfl
@[simp] theorem State.setDom_ptp (k : Nat) (v : Bytes) : (s.setDom k v).ptp = s.ptp := rfl
@[simp] theorem State.setDom_ts (k : Nat) (v : Bytes) : (s.setDom k v).ts = s.ts := rfl
@[simp] theorem State.setDom_acc (k : Nat) (v : Bytes) : (s.setDom k v).acc = s.acc := rfl
@[simp] theorem State.setDom_stack (k : Nat) (v : Bytes) : (s.setDom k v).stack = s.stack := rfl
@[simp] theorem State.setDom_ext (k : Nat) (v : Bytes) : (s.setDom k v).ext = s.ext := rfl
@[simp] theorem State.setDom_valid (k : Nat) (v : Bytes) : (s.setDom k v).valid = s.valid := rfl
@[simp] theorem State.setDom_writebacks (k : Nat) (v : Bytes) : (s.setDom k v).writebacks = s.writebacks := rfl
@[simp] theorem State.setDom_walkers (k : Nat) (v : Bytes) : (s.setDom k v).walkers = s.walkers := rfl
@[simp] theorem State.setDom_allots (k : Nat) (v : Bytes) : (s.setDom k v).allots = s.allots := rfl
@[simp] theorem State.setDom_cache (k : Nat) (v : Bytes) : (s.setDom k v).cache = s.cache := rfl
@[simp] theorem State.setDom_images (k : Nat) (v : Bytes) : (s.setDom k v).images = s.images := rfl
@[simp] theorem State.setDom_models (k : Nat) (v : Bytes) : (s.setDom k v).models = s.models := rfl
@[simp] theorem State.setDom_pins (k : Nat) (v : Bytes) : (s.setDom k v).pins = s.pins := rfl
@[simp] theorem State.setDom_regions (k : Nat) (v : Bytes) : (s.setDom k v).regions = s.regions := rfl
@[simp] theorem State.setDom_arrays (k : Nat) (v : Bytes) : (s.setDom k v).arrays = s.arrays := rfl
@[simp] theorem State.setDom_vectors (k : Nat) (v : Bytes) : (s.setDom k v).vectors = s.vectors := rfl
@[simp] theorem State.setDom_shunters (k : Nat) (v : Bytes) : (s.setDom k v).shunters = s.shunters := rfl
@[simp] theorem State.setDom_topks (k : Nat) (v : Bytes) : (s.setDom k v).topks = s.topks := rfl
@[simp] theorem State.setDom_refusals (k : Nat) (v : Bytes) : (s.setDom k v).refusals = s.refusals := rfl
@[simp] theorem State.setDom_taken (k : Nat) (v : Bytes) : (s.setDom k v).taken = s.taken := rfl
@[simp] theorem State.setDom_arrivals (k : Nat) (v : Bytes) : (s.setDom k v).arrivals = s.arrivals := rfl
@[simp] theorem State.setDom_slots (k : Nat) (v : Bytes) : (s.setDom k v).slots = s.slots := rfl
@[simp] theorem State.setDom_extBusy (k : Nat) (v : Bytes) : (s.setDom k v).extBusy = s.extBusy := rfl
@[simp] theorem State.setDom_extOpen (k : Nat) (v : Bytes) : (s.setDom k v).extOpen = s.extOpen := rfl
@[simp] theorem State.setDom_tables (k : Nat) (v : Bytes) : (s.setDom k v).tables = s.tables := rfl
@[simp] theorem State.setDom_ctxs (k : Nat) (v : Bytes) : (s.setDom k v).ctxs = s.ctxs := rfl
@[simp] theorem State.setDom_ghosts (k : Nat) (v : Bytes) : (s.setDom k v).ghosts = s.ghosts := rfl
@[simp] theorem State.setDom_tgts (k : Nat) (v : Bytes) : (s.setDom k v).tgts = s.tgts := rfl
@[simp] theorem State.setDom_kept (k : Nat) (v : Bytes) : (s.setDom k v).kept = s.kept := rfl
@[simp] theorem State.setDom_incs (k : Nat) (v : Bytes) : (s.setDom k v).incs = s.incs := rfl
@[simp] theorem State.setDom_jobs (k : Nat) (v : Bytes) : (s.setDom k v).jobs = s.jobs := rfl
@[simp] theorem State.setDom_parts (k : Nat) (v : Bytes) : (s.setDom k v).parts = s.parts := rfl
@[simp] theorem State.setDom_hub (k : Nat) (v : Bytes) : (s.setDom k v).hub = s.hub := rfl
@[simp] theorem State.setDom_hubOps (k : Nat) (v : Bytes) : (s.setDom k v).hubOps = s.hubOps := rfl
@[simp] theorem State.setDom_hubWaits (k : Nat) (v : Bytes) : (s.setDom k v).hubWaits = s.hubWaits := rfl
@[simp] theorem State.setDom_laneSigs (k : Nat) (v : Bytes) : (s.setDom k v).laneSigs = s.laneSigs := rfl
@[simp] theorem State.setDom_linkUse (k : Nat) (v : Bytes) : (s.setDom k v).linkUse = s.linkUse := rfl
@[simp] theorem State.setDom_banks (k : Nat) (v : Bytes) : (s.setDom k v).banks = s.banks := rfl
@[simp] theorem State.setDom_ifes (k : Nat) (v : Bytes) : (s.setDom k v).ifes = s.ifes := rfl
@[simp] theorem State.setDom_intakes (k : Nat) (v : Bytes) : (s.setDom k v).intakes = s.intakes := rfl
@[simp] theorem State.setDom_engines (k : Nat) (v : Bytes) : (s.setDom k v).engines = s.engines := rfl
@[simp] theorem State.setDom_lastIntake (k : Nat) (v : Bytes) : (s.setDom k v).lastIntake = s.lastIntake := rfl
@[simp] theorem State.setDom_kbRest (k : Nat) (v : Bytes) : (s.setDom k v).kbRest = s.kbRest := rfl
@[simp] theorem State.setDom_alignC (k : Nat) (v : Bytes) : (s.setDom k v).alignC = s.alignC := rfl
@[simp] theorem State.setDom_alignS (k : Nat) (v : Bytes) : (s.setDom k v).alignS = s.alignS := rfl
@[simp] theorem State.setDom_power (k : Nat) (v : Bytes) : (s.setDom k v).power = s.power := rfl
@[simp] theorem State.setDom_limits (k : Nat) (v : Bytes) : (s.setDom k v).limits = s.limits := rfl
@[simp] theorem State.setDom_fuses (k : Nat) (v : Bytes) : (s.setDom k v).fuses = s.fuses := rfl
@[simp] theorem State.setDom_flash (k : Nat) (v : Bytes) : (s.setDom k v).flash = s.flash := rfl
@[simp] theorem State.setDom_tap (k : Nat) (v : Bytes) : (s.setDom k v).tap = s.tap := rfl
@[simp] theorem State.setDom_imgFrom (k : Nat) (v : Bytes) : (s.setDom k v).imgFrom = s.imgFrom := rfl
@[simp] theorem State.setDom_barrier (k : Nat) (v : Bytes) : (s.setDom k v).barrier = s.barrier := rfl
@[simp] theorem State.setDom_hsp (k : Nat) (v : Bytes) : (s.setDom k v).hsp = s.hsp := rfl
@[simp] theorem State.setDom_ec (k : Nat) (v : Bytes) : (s.setDom k v).ec = s.ec := rfl
@[simp] theorem State.setDom_launches (k : Nat) (v : Bytes) : (s.setDom k v).launches = s.launches := rfl
@[simp] theorem State.setDom_evOverflow (k : Nat) (v : Bytes) : (s.setDom k v).evOverflow = s.evOverflow := rfl
@[simp] theorem State.setDom_reg (k : Nat) (v : Bytes) (j : Nat) : (s.setDom k v).reg j = s.reg j := rfl

/-! setEnc -/

@[simp] theorem State.setEnc_time (k : Nat) (x : EncUnit) : (s.setEnc k x).time = s.time := rfl
@[simp] theorem State.setEnc_grade (k : Nat) (x : EncUnit) : (s.setEnc k x).grade = s.grade := rfl
@[simp] theorem State.setEnc_pending (k : Nat) (x : EncUnit) : (s.setEnc k x).pending = s.pending := rfl
@[simp] theorem State.setEnc_later (k : Nat) (x : EncUnit) : (s.setEnc k x).later = s.later := rfl
@[simp] theorem State.setEnc_regs (k : Nat) (x : EncUnit) : (s.setEnc k x).regs = s.regs := rfl
@[simp] theorem State.setEnc_doms (k : Nat) (x : EncUnit) : (s.setEnc k x).doms = s.doms := rfl
@[simp] theorem State.setEnc_freeCount (k : Nat) (x : EncUnit) : (s.setEnc k x).freeCount = s.freeCount := rfl
@[simp] theorem State.setEnc_holdoffs (k : Nat) (x : EncUnit) : (s.setEnc k x).holdoffs = s.holdoffs := rfl
@[simp] theorem State.setEnc_events (k : Nat) (x : EncUnit) : (s.setEnc k x).events = s.events := rfl
@[simp] theorem State.setEnc_emergencies (k : Nat) (x : EncUnit) : (s.setEnc k x).emergencies = s.emergencies := rfl
@[simp] theorem State.setEnc_domains (k : Nat) (x : EncUnit) : (s.setEnc k x).domains = s.domains := rfl
@[simp] theorem State.setEnc_trigs (k : Nat) (x : EncUnit) : (s.setEnc k x).trigs = s.trigs := rfl
@[simp] theorem State.setEnc_wins (k : Nat) (x : EncUnit) : (s.setEnc k x).wins = s.wins := rfl
@[simp] theorem State.setEnc_timers (k : Nat) (x : EncUnit) : (s.setEnc k x).timers = s.timers := rfl
@[simp] theorem State.setEnc_cmps (k : Nat) (x : EncUnit) : (s.setEnc k x).cmps = s.cmps := rfl
@[simp] theorem State.setEnc_slackAt (k : Nat) (x : EncUnit) : (s.setEnc k x).slackAt = s.slackAt := rfl
@[simp] theorem State.setEnc_groups (k : Nat) (x : EncUnit) : (s.setEnc k x).groups = s.groups := rfl
@[simp] theorem State.setEnc_chans (k : Nat) (x : EncUnit) : (s.setEnc k x).chans = s.chans := rfl
@[simp] theorem State.setEnc_pdQueue (k : Nat) (x : EncUnit) : (s.setEnc k x).pdQueue = s.pdQueue := rfl
@[simp] theorem State.setEnc_pdNext (k : Nat) (x : EncUnit) : (s.setEnc k x).pdNext = s.pdNext := rfl
@[simp] theorem State.setEnc_pdVeto (k : Nat) (x : EncUnit) : (s.setEnc k x).pdVeto = s.pdVeto := rfl
@[simp] theorem State.setEnc_netQueue (k : Nat) (x : EncUnit) : (s.setEnc k x).netQueue = s.netQueue := rfl
@[simp] theorem State.setEnc_netNext (k : Nat) (x : EncUnit) : (s.setEnc k x).netNext = s.netNext := rfl
@[simp] theorem State.setEnc_field (k : Nat) (x : EncUnit) : (s.setEnc k x).field = s.field := rfl
@[simp] theorem State.setEnc_ports (k : Nat) (x : EncUnit) : (s.setEnc k x).ports = s.ports := rfl
@[simp] theorem State.setEnc_sccs (k : Nat) (x : EncUnit) : (s.setEnc k x).sccs = s.sccs := rfl
@[simp] theorem State.setEnc_nets (k : Nat) (x : EncUnit) : (s.setEnc k x).nets = s.nets := rfl
@[simp] theorem State.setEnc_ptp (k : Nat) (x : EncUnit) : (s.setEnc k x).ptp = s.ptp := rfl
@[simp] theorem State.setEnc_ts (k : Nat) (x : EncUnit) : (s.setEnc k x).ts = s.ts := rfl
@[simp] theorem State.setEnc_acc (k : Nat) (x : EncUnit) : (s.setEnc k x).acc = s.acc := rfl
@[simp] theorem State.setEnc_stack (k : Nat) (x : EncUnit) : (s.setEnc k x).stack = s.stack := rfl
@[simp] theorem State.setEnc_ext (k : Nat) (x : EncUnit) : (s.setEnc k x).ext = s.ext := rfl
@[simp] theorem State.setEnc_valid (k : Nat) (x : EncUnit) : (s.setEnc k x).valid = s.valid := rfl
@[simp] theorem State.setEnc_writebacks (k : Nat) (x : EncUnit) : (s.setEnc k x).writebacks = s.writebacks := rfl
@[simp] theorem State.setEnc_walkers (k : Nat) (x : EncUnit) : (s.setEnc k x).walkers = s.walkers := rfl
@[simp] theorem State.setEnc_allots (k : Nat) (x : EncUnit) : (s.setEnc k x).allots = s.allots := rfl
@[simp] theorem State.setEnc_cache (k : Nat) (x : EncUnit) : (s.setEnc k x).cache = s.cache := rfl
@[simp] theorem State.setEnc_images (k : Nat) (x : EncUnit) : (s.setEnc k x).images = s.images := rfl
@[simp] theorem State.setEnc_models (k : Nat) (x : EncUnit) : (s.setEnc k x).models = s.models := rfl
@[simp] theorem State.setEnc_pins (k : Nat) (x : EncUnit) : (s.setEnc k x).pins = s.pins := rfl
@[simp] theorem State.setEnc_regions (k : Nat) (x : EncUnit) : (s.setEnc k x).regions = s.regions := rfl
@[simp] theorem State.setEnc_arrays (k : Nat) (x : EncUnit) : (s.setEnc k x).arrays = s.arrays := rfl
@[simp] theorem State.setEnc_vectors (k : Nat) (x : EncUnit) : (s.setEnc k x).vectors = s.vectors := rfl
@[simp] theorem State.setEnc_shunters (k : Nat) (x : EncUnit) : (s.setEnc k x).shunters = s.shunters := rfl
@[simp] theorem State.setEnc_topks (k : Nat) (x : EncUnit) : (s.setEnc k x).topks = s.topks := rfl
@[simp] theorem State.setEnc_refusals (k : Nat) (x : EncUnit) : (s.setEnc k x).refusals = s.refusals := rfl
@[simp] theorem State.setEnc_taken (k : Nat) (x : EncUnit) : (s.setEnc k x).taken = s.taken := rfl
@[simp] theorem State.setEnc_arrivals (k : Nat) (x : EncUnit) : (s.setEnc k x).arrivals = s.arrivals := rfl
@[simp] theorem State.setEnc_slots (k : Nat) (x : EncUnit) : (s.setEnc k x).slots = s.slots := rfl
@[simp] theorem State.setEnc_extBusy (k : Nat) (x : EncUnit) : (s.setEnc k x).extBusy = s.extBusy := rfl
@[simp] theorem State.setEnc_extOpen (k : Nat) (x : EncUnit) : (s.setEnc k x).extOpen = s.extOpen := rfl
@[simp] theorem State.setEnc_tables (k : Nat) (x : EncUnit) : (s.setEnc k x).tables = s.tables := rfl
@[simp] theorem State.setEnc_ctxs (k : Nat) (x : EncUnit) : (s.setEnc k x).ctxs = s.ctxs := rfl
@[simp] theorem State.setEnc_ghosts (k : Nat) (x : EncUnit) : (s.setEnc k x).ghosts = s.ghosts := rfl
@[simp] theorem State.setEnc_tgts (k : Nat) (x : EncUnit) : (s.setEnc k x).tgts = s.tgts := rfl
@[simp] theorem State.setEnc_kept (k : Nat) (x : EncUnit) : (s.setEnc k x).kept = s.kept := rfl
@[simp] theorem State.setEnc_incs (k : Nat) (x : EncUnit) : (s.setEnc k x).incs = s.incs := rfl
@[simp] theorem State.setEnc_jobs (k : Nat) (x : EncUnit) : (s.setEnc k x).jobs = s.jobs := rfl
@[simp] theorem State.setEnc_parts (k : Nat) (x : EncUnit) : (s.setEnc k x).parts = s.parts := rfl
@[simp] theorem State.setEnc_hub (k : Nat) (x : EncUnit) : (s.setEnc k x).hub = s.hub := rfl
@[simp] theorem State.setEnc_hubOps (k : Nat) (x : EncUnit) : (s.setEnc k x).hubOps = s.hubOps := rfl
@[simp] theorem State.setEnc_hubWaits (k : Nat) (x : EncUnit) : (s.setEnc k x).hubWaits = s.hubWaits := rfl
@[simp] theorem State.setEnc_laneSigs (k : Nat) (x : EncUnit) : (s.setEnc k x).laneSigs = s.laneSigs := rfl
@[simp] theorem State.setEnc_linkUse (k : Nat) (x : EncUnit) : (s.setEnc k x).linkUse = s.linkUse := rfl
@[simp] theorem State.setEnc_banks (k : Nat) (x : EncUnit) : (s.setEnc k x).banks = s.banks := rfl
@[simp] theorem State.setEnc_ifes (k : Nat) (x : EncUnit) : (s.setEnc k x).ifes = s.ifes := rfl
@[simp] theorem State.setEnc_intakes (k : Nat) (x : EncUnit) : (s.setEnc k x).intakes = s.intakes := rfl
@[simp] theorem State.setEnc_engines (k : Nat) (x : EncUnit) : (s.setEnc k x).engines = s.engines := rfl
@[simp] theorem State.setEnc_lastIntake (k : Nat) (x : EncUnit) : (s.setEnc k x).lastIntake = s.lastIntake := rfl
@[simp] theorem State.setEnc_kbRest (k : Nat) (x : EncUnit) : (s.setEnc k x).kbRest = s.kbRest := rfl
@[simp] theorem State.setEnc_alignC (k : Nat) (x : EncUnit) : (s.setEnc k x).alignC = s.alignC := rfl
@[simp] theorem State.setEnc_alignS (k : Nat) (x : EncUnit) : (s.setEnc k x).alignS = s.alignS := rfl
@[simp] theorem State.setEnc_power (k : Nat) (x : EncUnit) : (s.setEnc k x).power = s.power := rfl
@[simp] theorem State.setEnc_limits (k : Nat) (x : EncUnit) : (s.setEnc k x).limits = s.limits := rfl
@[simp] theorem State.setEnc_fuses (k : Nat) (x : EncUnit) : (s.setEnc k x).fuses = s.fuses := rfl
@[simp] theorem State.setEnc_flash (k : Nat) (x : EncUnit) : (s.setEnc k x).flash = s.flash := rfl
@[simp] theorem State.setEnc_tap (k : Nat) (x : EncUnit) : (s.setEnc k x).tap = s.tap := rfl
@[simp] theorem State.setEnc_imgFrom (k : Nat) (x : EncUnit) : (s.setEnc k x).imgFrom = s.imgFrom := rfl
@[simp] theorem State.setEnc_barrier (k : Nat) (x : EncUnit) : (s.setEnc k x).barrier = s.barrier := rfl
@[simp] theorem State.setEnc_hsp (k : Nat) (x : EncUnit) : (s.setEnc k x).hsp = s.hsp := rfl
@[simp] theorem State.setEnc_ec (k : Nat) (x : EncUnit) : (s.setEnc k x).ec = s.ec := rfl
@[simp] theorem State.setEnc_launches (k : Nat) (x : EncUnit) : (s.setEnc k x).launches = s.launches := rfl
@[simp] theorem State.setEnc_evOverflow (k : Nat) (x : EncUnit) : (s.setEnc k x).evOverflow = s.evOverflow := rfl
@[simp] theorem State.setEnc_reg (k : Nat) (x : EncUnit) (j : Nat) : (s.setEnc k x).reg j = s.reg j := rfl

/-! setDomain -/

@[simp] theorem State.setDomain_time (k : Nat) (x : DomUnit) : (s.setDomain k x).time = s.time := rfl
@[simp] theorem State.setDomain_grade (k : Nat) (x : DomUnit) : (s.setDomain k x).grade = s.grade := rfl
@[simp] theorem State.setDomain_pending (k : Nat) (x : DomUnit) : (s.setDomain k x).pending = s.pending := rfl
@[simp] theorem State.setDomain_later (k : Nat) (x : DomUnit) : (s.setDomain k x).later = s.later := rfl
@[simp] theorem State.setDomain_regs (k : Nat) (x : DomUnit) : (s.setDomain k x).regs = s.regs := rfl
@[simp] theorem State.setDomain_doms (k : Nat) (x : DomUnit) : (s.setDomain k x).doms = s.doms := rfl
@[simp] theorem State.setDomain_freeCount (k : Nat) (x : DomUnit) : (s.setDomain k x).freeCount = s.freeCount := rfl
@[simp] theorem State.setDomain_holdoffs (k : Nat) (x : DomUnit) : (s.setDomain k x).holdoffs = s.holdoffs := rfl
@[simp] theorem State.setDomain_events (k : Nat) (x : DomUnit) : (s.setDomain k x).events = s.events := rfl
@[simp] theorem State.setDomain_emergencies (k : Nat) (x : DomUnit) : (s.setDomain k x).emergencies = s.emergencies := rfl
@[simp] theorem State.setDomain_encs (k : Nat) (x : DomUnit) : (s.setDomain k x).encs = s.encs := rfl
@[simp] theorem State.setDomain_trigs (k : Nat) (x : DomUnit) : (s.setDomain k x).trigs = s.trigs := rfl
@[simp] theorem State.setDomain_wins (k : Nat) (x : DomUnit) : (s.setDomain k x).wins = s.wins := rfl
@[simp] theorem State.setDomain_timers (k : Nat) (x : DomUnit) : (s.setDomain k x).timers = s.timers := rfl
@[simp] theorem State.setDomain_cmps (k : Nat) (x : DomUnit) : (s.setDomain k x).cmps = s.cmps := rfl
@[simp] theorem State.setDomain_slackAt (k : Nat) (x : DomUnit) : (s.setDomain k x).slackAt = s.slackAt := rfl
@[simp] theorem State.setDomain_groups (k : Nat) (x : DomUnit) : (s.setDomain k x).groups = s.groups := rfl
@[simp] theorem State.setDomain_chans (k : Nat) (x : DomUnit) : (s.setDomain k x).chans = s.chans := rfl
@[simp] theorem State.setDomain_pdQueue (k : Nat) (x : DomUnit) : (s.setDomain k x).pdQueue = s.pdQueue := rfl
@[simp] theorem State.setDomain_pdNext (k : Nat) (x : DomUnit) : (s.setDomain k x).pdNext = s.pdNext := rfl
@[simp] theorem State.setDomain_pdVeto (k : Nat) (x : DomUnit) : (s.setDomain k x).pdVeto = s.pdVeto := rfl
@[simp] theorem State.setDomain_netQueue (k : Nat) (x : DomUnit) : (s.setDomain k x).netQueue = s.netQueue := rfl
@[simp] theorem State.setDomain_netNext (k : Nat) (x : DomUnit) : (s.setDomain k x).netNext = s.netNext := rfl
@[simp] theorem State.setDomain_field (k : Nat) (x : DomUnit) : (s.setDomain k x).field = s.field := rfl
@[simp] theorem State.setDomain_ports (k : Nat) (x : DomUnit) : (s.setDomain k x).ports = s.ports := rfl
@[simp] theorem State.setDomain_sccs (k : Nat) (x : DomUnit) : (s.setDomain k x).sccs = s.sccs := rfl
@[simp] theorem State.setDomain_nets (k : Nat) (x : DomUnit) : (s.setDomain k x).nets = s.nets := rfl
@[simp] theorem State.setDomain_ptp (k : Nat) (x : DomUnit) : (s.setDomain k x).ptp = s.ptp := rfl
@[simp] theorem State.setDomain_ts (k : Nat) (x : DomUnit) : (s.setDomain k x).ts = s.ts := rfl
@[simp] theorem State.setDomain_acc (k : Nat) (x : DomUnit) : (s.setDomain k x).acc = s.acc := rfl
@[simp] theorem State.setDomain_stack (k : Nat) (x : DomUnit) : (s.setDomain k x).stack = s.stack := rfl
@[simp] theorem State.setDomain_ext (k : Nat) (x : DomUnit) : (s.setDomain k x).ext = s.ext := rfl
@[simp] theorem State.setDomain_valid (k : Nat) (x : DomUnit) : (s.setDomain k x).valid = s.valid := rfl
@[simp] theorem State.setDomain_writebacks (k : Nat) (x : DomUnit) : (s.setDomain k x).writebacks = s.writebacks := rfl
@[simp] theorem State.setDomain_walkers (k : Nat) (x : DomUnit) : (s.setDomain k x).walkers = s.walkers := rfl
@[simp] theorem State.setDomain_allots (k : Nat) (x : DomUnit) : (s.setDomain k x).allots = s.allots := rfl
@[simp] theorem State.setDomain_cache (k : Nat) (x : DomUnit) : (s.setDomain k x).cache = s.cache := rfl
@[simp] theorem State.setDomain_images (k : Nat) (x : DomUnit) : (s.setDomain k x).images = s.images := rfl
@[simp] theorem State.setDomain_models (k : Nat) (x : DomUnit) : (s.setDomain k x).models = s.models := rfl
@[simp] theorem State.setDomain_pins (k : Nat) (x : DomUnit) : (s.setDomain k x).pins = s.pins := rfl
@[simp] theorem State.setDomain_regions (k : Nat) (x : DomUnit) : (s.setDomain k x).regions = s.regions := rfl
@[simp] theorem State.setDomain_arrays (k : Nat) (x : DomUnit) : (s.setDomain k x).arrays = s.arrays := rfl
@[simp] theorem State.setDomain_vectors (k : Nat) (x : DomUnit) : (s.setDomain k x).vectors = s.vectors := rfl
@[simp] theorem State.setDomain_shunters (k : Nat) (x : DomUnit) : (s.setDomain k x).shunters = s.shunters := rfl
@[simp] theorem State.setDomain_topks (k : Nat) (x : DomUnit) : (s.setDomain k x).topks = s.topks := rfl
@[simp] theorem State.setDomain_refusals (k : Nat) (x : DomUnit) : (s.setDomain k x).refusals = s.refusals := rfl
@[simp] theorem State.setDomain_taken (k : Nat) (x : DomUnit) : (s.setDomain k x).taken = s.taken := rfl
@[simp] theorem State.setDomain_arrivals (k : Nat) (x : DomUnit) : (s.setDomain k x).arrivals = s.arrivals := rfl
@[simp] theorem State.setDomain_slots (k : Nat) (x : DomUnit) : (s.setDomain k x).slots = s.slots := rfl
@[simp] theorem State.setDomain_extBusy (k : Nat) (x : DomUnit) : (s.setDomain k x).extBusy = s.extBusy := rfl
@[simp] theorem State.setDomain_extOpen (k : Nat) (x : DomUnit) : (s.setDomain k x).extOpen = s.extOpen := rfl
@[simp] theorem State.setDomain_tables (k : Nat) (x : DomUnit) : (s.setDomain k x).tables = s.tables := rfl
@[simp] theorem State.setDomain_ctxs (k : Nat) (x : DomUnit) : (s.setDomain k x).ctxs = s.ctxs := rfl
@[simp] theorem State.setDomain_ghosts (k : Nat) (x : DomUnit) : (s.setDomain k x).ghosts = s.ghosts := rfl
@[simp] theorem State.setDomain_tgts (k : Nat) (x : DomUnit) : (s.setDomain k x).tgts = s.tgts := rfl
@[simp] theorem State.setDomain_kept (k : Nat) (x : DomUnit) : (s.setDomain k x).kept = s.kept := rfl
@[simp] theorem State.setDomain_incs (k : Nat) (x : DomUnit) : (s.setDomain k x).incs = s.incs := rfl
@[simp] theorem State.setDomain_jobs (k : Nat) (x : DomUnit) : (s.setDomain k x).jobs = s.jobs := rfl
@[simp] theorem State.setDomain_parts (k : Nat) (x : DomUnit) : (s.setDomain k x).parts = s.parts := rfl
@[simp] theorem State.setDomain_hub (k : Nat) (x : DomUnit) : (s.setDomain k x).hub = s.hub := rfl
@[simp] theorem State.setDomain_hubOps (k : Nat) (x : DomUnit) : (s.setDomain k x).hubOps = s.hubOps := rfl
@[simp] theorem State.setDomain_hubWaits (k : Nat) (x : DomUnit) : (s.setDomain k x).hubWaits = s.hubWaits := rfl
@[simp] theorem State.setDomain_laneSigs (k : Nat) (x : DomUnit) : (s.setDomain k x).laneSigs = s.laneSigs := rfl
@[simp] theorem State.setDomain_linkUse (k : Nat) (x : DomUnit) : (s.setDomain k x).linkUse = s.linkUse := rfl
@[simp] theorem State.setDomain_banks (k : Nat) (x : DomUnit) : (s.setDomain k x).banks = s.banks := rfl
@[simp] theorem State.setDomain_ifes (k : Nat) (x : DomUnit) : (s.setDomain k x).ifes = s.ifes := rfl
@[simp] theorem State.setDomain_intakes (k : Nat) (x : DomUnit) : (s.setDomain k x).intakes = s.intakes := rfl
@[simp] theorem State.setDomain_engines (k : Nat) (x : DomUnit) : (s.setDomain k x).engines = s.engines := rfl
@[simp] theorem State.setDomain_lastIntake (k : Nat) (x : DomUnit) : (s.setDomain k x).lastIntake = s.lastIntake := rfl
@[simp] theorem State.setDomain_kbRest (k : Nat) (x : DomUnit) : (s.setDomain k x).kbRest = s.kbRest := rfl
@[simp] theorem State.setDomain_alignC (k : Nat) (x : DomUnit) : (s.setDomain k x).alignC = s.alignC := rfl
@[simp] theorem State.setDomain_alignS (k : Nat) (x : DomUnit) : (s.setDomain k x).alignS = s.alignS := rfl
@[simp] theorem State.setDomain_power (k : Nat) (x : DomUnit) : (s.setDomain k x).power = s.power := rfl
@[simp] theorem State.setDomain_limits (k : Nat) (x : DomUnit) : (s.setDomain k x).limits = s.limits := rfl
@[simp] theorem State.setDomain_fuses (k : Nat) (x : DomUnit) : (s.setDomain k x).fuses = s.fuses := rfl
@[simp] theorem State.setDomain_flash (k : Nat) (x : DomUnit) : (s.setDomain k x).flash = s.flash := rfl
@[simp] theorem State.setDomain_tap (k : Nat) (x : DomUnit) : (s.setDomain k x).tap = s.tap := rfl
@[simp] theorem State.setDomain_imgFrom (k : Nat) (x : DomUnit) : (s.setDomain k x).imgFrom = s.imgFrom := rfl
@[simp] theorem State.setDomain_barrier (k : Nat) (x : DomUnit) : (s.setDomain k x).barrier = s.barrier := rfl
@[simp] theorem State.setDomain_hsp (k : Nat) (x : DomUnit) : (s.setDomain k x).hsp = s.hsp := rfl
@[simp] theorem State.setDomain_ec (k : Nat) (x : DomUnit) : (s.setDomain k x).ec = s.ec := rfl
@[simp] theorem State.setDomain_launches (k : Nat) (x : DomUnit) : (s.setDomain k x).launches = s.launches := rfl
@[simp] theorem State.setDomain_evOverflow (k : Nat) (x : DomUnit) : (s.setDomain k x).evOverflow = s.evOverflow := rfl
@[simp] theorem State.setDomain_reg (k : Nat) (x : DomUnit) (j : Nat) : (s.setDomain k x).reg j = s.reg j := rfl

/-! setTrig -/

@[simp] theorem State.setTrig_time (k : Nat) (x : TrigUnit) : (s.setTrig k x).time = s.time := rfl
@[simp] theorem State.setTrig_grade (k : Nat) (x : TrigUnit) : (s.setTrig k x).grade = s.grade := rfl
@[simp] theorem State.setTrig_pending (k : Nat) (x : TrigUnit) : (s.setTrig k x).pending = s.pending := rfl
@[simp] theorem State.setTrig_later (k : Nat) (x : TrigUnit) : (s.setTrig k x).later = s.later := rfl
@[simp] theorem State.setTrig_regs (k : Nat) (x : TrigUnit) : (s.setTrig k x).regs = s.regs := rfl
@[simp] theorem State.setTrig_doms (k : Nat) (x : TrigUnit) : (s.setTrig k x).doms = s.doms := rfl
@[simp] theorem State.setTrig_freeCount (k : Nat) (x : TrigUnit) : (s.setTrig k x).freeCount = s.freeCount := rfl
@[simp] theorem State.setTrig_holdoffs (k : Nat) (x : TrigUnit) : (s.setTrig k x).holdoffs = s.holdoffs := rfl
@[simp] theorem State.setTrig_events (k : Nat) (x : TrigUnit) : (s.setTrig k x).events = s.events := rfl
@[simp] theorem State.setTrig_emergencies (k : Nat) (x : TrigUnit) : (s.setTrig k x).emergencies = s.emergencies := rfl
@[simp] theorem State.setTrig_encs (k : Nat) (x : TrigUnit) : (s.setTrig k x).encs = s.encs := rfl
@[simp] theorem State.setTrig_domains (k : Nat) (x : TrigUnit) : (s.setTrig k x).domains = s.domains := rfl
@[simp] theorem State.setTrig_wins (k : Nat) (x : TrigUnit) : (s.setTrig k x).wins = s.wins := rfl
@[simp] theorem State.setTrig_timers (k : Nat) (x : TrigUnit) : (s.setTrig k x).timers = s.timers := rfl
@[simp] theorem State.setTrig_cmps (k : Nat) (x : TrigUnit) : (s.setTrig k x).cmps = s.cmps := rfl
@[simp] theorem State.setTrig_slackAt (k : Nat) (x : TrigUnit) : (s.setTrig k x).slackAt = s.slackAt := rfl
@[simp] theorem State.setTrig_groups (k : Nat) (x : TrigUnit) : (s.setTrig k x).groups = s.groups := rfl
@[simp] theorem State.setTrig_chans (k : Nat) (x : TrigUnit) : (s.setTrig k x).chans = s.chans := rfl
@[simp] theorem State.setTrig_pdQueue (k : Nat) (x : TrigUnit) : (s.setTrig k x).pdQueue = s.pdQueue := rfl
@[simp] theorem State.setTrig_pdNext (k : Nat) (x : TrigUnit) : (s.setTrig k x).pdNext = s.pdNext := rfl
@[simp] theorem State.setTrig_pdVeto (k : Nat) (x : TrigUnit) : (s.setTrig k x).pdVeto = s.pdVeto := rfl
@[simp] theorem State.setTrig_netQueue (k : Nat) (x : TrigUnit) : (s.setTrig k x).netQueue = s.netQueue := rfl
@[simp] theorem State.setTrig_netNext (k : Nat) (x : TrigUnit) : (s.setTrig k x).netNext = s.netNext := rfl
@[simp] theorem State.setTrig_field (k : Nat) (x : TrigUnit) : (s.setTrig k x).field = s.field := rfl
@[simp] theorem State.setTrig_ports (k : Nat) (x : TrigUnit) : (s.setTrig k x).ports = s.ports := rfl
@[simp] theorem State.setTrig_sccs (k : Nat) (x : TrigUnit) : (s.setTrig k x).sccs = s.sccs := rfl
@[simp] theorem State.setTrig_nets (k : Nat) (x : TrigUnit) : (s.setTrig k x).nets = s.nets := rfl
@[simp] theorem State.setTrig_ptp (k : Nat) (x : TrigUnit) : (s.setTrig k x).ptp = s.ptp := rfl
@[simp] theorem State.setTrig_ts (k : Nat) (x : TrigUnit) : (s.setTrig k x).ts = s.ts := rfl
@[simp] theorem State.setTrig_acc (k : Nat) (x : TrigUnit) : (s.setTrig k x).acc = s.acc := rfl
@[simp] theorem State.setTrig_stack (k : Nat) (x : TrigUnit) : (s.setTrig k x).stack = s.stack := rfl
@[simp] theorem State.setTrig_ext (k : Nat) (x : TrigUnit) : (s.setTrig k x).ext = s.ext := rfl
@[simp] theorem State.setTrig_valid (k : Nat) (x : TrigUnit) : (s.setTrig k x).valid = s.valid := rfl
@[simp] theorem State.setTrig_writebacks (k : Nat) (x : TrigUnit) : (s.setTrig k x).writebacks = s.writebacks := rfl
@[simp] theorem State.setTrig_walkers (k : Nat) (x : TrigUnit) : (s.setTrig k x).walkers = s.walkers := rfl
@[simp] theorem State.setTrig_allots (k : Nat) (x : TrigUnit) : (s.setTrig k x).allots = s.allots := rfl
@[simp] theorem State.setTrig_cache (k : Nat) (x : TrigUnit) : (s.setTrig k x).cache = s.cache := rfl
@[simp] theorem State.setTrig_images (k : Nat) (x : TrigUnit) : (s.setTrig k x).images = s.images := rfl
@[simp] theorem State.setTrig_models (k : Nat) (x : TrigUnit) : (s.setTrig k x).models = s.models := rfl
@[simp] theorem State.setTrig_pins (k : Nat) (x : TrigUnit) : (s.setTrig k x).pins = s.pins := rfl
@[simp] theorem State.setTrig_regions (k : Nat) (x : TrigUnit) : (s.setTrig k x).regions = s.regions := rfl
@[simp] theorem State.setTrig_arrays (k : Nat) (x : TrigUnit) : (s.setTrig k x).arrays = s.arrays := rfl
@[simp] theorem State.setTrig_vectors (k : Nat) (x : TrigUnit) : (s.setTrig k x).vectors = s.vectors := rfl
@[simp] theorem State.setTrig_shunters (k : Nat) (x : TrigUnit) : (s.setTrig k x).shunters = s.shunters := rfl
@[simp] theorem State.setTrig_topks (k : Nat) (x : TrigUnit) : (s.setTrig k x).topks = s.topks := rfl
@[simp] theorem State.setTrig_refusals (k : Nat) (x : TrigUnit) : (s.setTrig k x).refusals = s.refusals := rfl
@[simp] theorem State.setTrig_taken (k : Nat) (x : TrigUnit) : (s.setTrig k x).taken = s.taken := rfl
@[simp] theorem State.setTrig_arrivals (k : Nat) (x : TrigUnit) : (s.setTrig k x).arrivals = s.arrivals := rfl
@[simp] theorem State.setTrig_slots (k : Nat) (x : TrigUnit) : (s.setTrig k x).slots = s.slots := rfl
@[simp] theorem State.setTrig_extBusy (k : Nat) (x : TrigUnit) : (s.setTrig k x).extBusy = s.extBusy := rfl
@[simp] theorem State.setTrig_extOpen (k : Nat) (x : TrigUnit) : (s.setTrig k x).extOpen = s.extOpen := rfl
@[simp] theorem State.setTrig_tables (k : Nat) (x : TrigUnit) : (s.setTrig k x).tables = s.tables := rfl
@[simp] theorem State.setTrig_ctxs (k : Nat) (x : TrigUnit) : (s.setTrig k x).ctxs = s.ctxs := rfl
@[simp] theorem State.setTrig_ghosts (k : Nat) (x : TrigUnit) : (s.setTrig k x).ghosts = s.ghosts := rfl
@[simp] theorem State.setTrig_tgts (k : Nat) (x : TrigUnit) : (s.setTrig k x).tgts = s.tgts := rfl
@[simp] theorem State.setTrig_kept (k : Nat) (x : TrigUnit) : (s.setTrig k x).kept = s.kept := rfl
@[simp] theorem State.setTrig_incs (k : Nat) (x : TrigUnit) : (s.setTrig k x).incs = s.incs := rfl
@[simp] theorem State.setTrig_jobs (k : Nat) (x : TrigUnit) : (s.setTrig k x).jobs = s.jobs := rfl
@[simp] theorem State.setTrig_parts (k : Nat) (x : TrigUnit) : (s.setTrig k x).parts = s.parts := rfl
@[simp] theorem State.setTrig_hub (k : Nat) (x : TrigUnit) : (s.setTrig k x).hub = s.hub := rfl
@[simp] theorem State.setTrig_hubOps (k : Nat) (x : TrigUnit) : (s.setTrig k x).hubOps = s.hubOps := rfl
@[simp] theorem State.setTrig_hubWaits (k : Nat) (x : TrigUnit) : (s.setTrig k x).hubWaits = s.hubWaits := rfl
@[simp] theorem State.setTrig_laneSigs (k : Nat) (x : TrigUnit) : (s.setTrig k x).laneSigs = s.laneSigs := rfl
@[simp] theorem State.setTrig_linkUse (k : Nat) (x : TrigUnit) : (s.setTrig k x).linkUse = s.linkUse := rfl
@[simp] theorem State.setTrig_banks (k : Nat) (x : TrigUnit) : (s.setTrig k x).banks = s.banks := rfl
@[simp] theorem State.setTrig_ifes (k : Nat) (x : TrigUnit) : (s.setTrig k x).ifes = s.ifes := rfl
@[simp] theorem State.setTrig_intakes (k : Nat) (x : TrigUnit) : (s.setTrig k x).intakes = s.intakes := rfl
@[simp] theorem State.setTrig_engines (k : Nat) (x : TrigUnit) : (s.setTrig k x).engines = s.engines := rfl
@[simp] theorem State.setTrig_lastIntake (k : Nat) (x : TrigUnit) : (s.setTrig k x).lastIntake = s.lastIntake := rfl
@[simp] theorem State.setTrig_kbRest (k : Nat) (x : TrigUnit) : (s.setTrig k x).kbRest = s.kbRest := rfl
@[simp] theorem State.setTrig_alignC (k : Nat) (x : TrigUnit) : (s.setTrig k x).alignC = s.alignC := rfl
@[simp] theorem State.setTrig_alignS (k : Nat) (x : TrigUnit) : (s.setTrig k x).alignS = s.alignS := rfl
@[simp] theorem State.setTrig_power (k : Nat) (x : TrigUnit) : (s.setTrig k x).power = s.power := rfl
@[simp] theorem State.setTrig_limits (k : Nat) (x : TrigUnit) : (s.setTrig k x).limits = s.limits := rfl
@[simp] theorem State.setTrig_fuses (k : Nat) (x : TrigUnit) : (s.setTrig k x).fuses = s.fuses := rfl
@[simp] theorem State.setTrig_flash (k : Nat) (x : TrigUnit) : (s.setTrig k x).flash = s.flash := rfl
@[simp] theorem State.setTrig_tap (k : Nat) (x : TrigUnit) : (s.setTrig k x).tap = s.tap := rfl
@[simp] theorem State.setTrig_imgFrom (k : Nat) (x : TrigUnit) : (s.setTrig k x).imgFrom = s.imgFrom := rfl
@[simp] theorem State.setTrig_barrier (k : Nat) (x : TrigUnit) : (s.setTrig k x).barrier = s.barrier := rfl
@[simp] theorem State.setTrig_hsp (k : Nat) (x : TrigUnit) : (s.setTrig k x).hsp = s.hsp := rfl
@[simp] theorem State.setTrig_ec (k : Nat) (x : TrigUnit) : (s.setTrig k x).ec = s.ec := rfl
@[simp] theorem State.setTrig_launches (k : Nat) (x : TrigUnit) : (s.setTrig k x).launches = s.launches := rfl
@[simp] theorem State.setTrig_evOverflow (k : Nat) (x : TrigUnit) : (s.setTrig k x).evOverflow = s.evOverflow := rfl
@[simp] theorem State.setTrig_reg (k : Nat) (x : TrigUnit) (j : Nat) : (s.setTrig k x).reg j = s.reg j := rfl

/-! setWin -/

@[simp] theorem State.setWin_time (k : Nat) (x : WinUnit) : (s.setWin k x).time = s.time := rfl
@[simp] theorem State.setWin_grade (k : Nat) (x : WinUnit) : (s.setWin k x).grade = s.grade := rfl
@[simp] theorem State.setWin_pending (k : Nat) (x : WinUnit) : (s.setWin k x).pending = s.pending := rfl
@[simp] theorem State.setWin_later (k : Nat) (x : WinUnit) : (s.setWin k x).later = s.later := rfl
@[simp] theorem State.setWin_regs (k : Nat) (x : WinUnit) : (s.setWin k x).regs = s.regs := rfl
@[simp] theorem State.setWin_doms (k : Nat) (x : WinUnit) : (s.setWin k x).doms = s.doms := rfl
@[simp] theorem State.setWin_freeCount (k : Nat) (x : WinUnit) : (s.setWin k x).freeCount = s.freeCount := rfl
@[simp] theorem State.setWin_holdoffs (k : Nat) (x : WinUnit) : (s.setWin k x).holdoffs = s.holdoffs := rfl
@[simp] theorem State.setWin_events (k : Nat) (x : WinUnit) : (s.setWin k x).events = s.events := rfl
@[simp] theorem State.setWin_emergencies (k : Nat) (x : WinUnit) : (s.setWin k x).emergencies = s.emergencies := rfl
@[simp] theorem State.setWin_encs (k : Nat) (x : WinUnit) : (s.setWin k x).encs = s.encs := rfl
@[simp] theorem State.setWin_domains (k : Nat) (x : WinUnit) : (s.setWin k x).domains = s.domains := rfl
@[simp] theorem State.setWin_trigs (k : Nat) (x : WinUnit) : (s.setWin k x).trigs = s.trigs := rfl
@[simp] theorem State.setWin_timers (k : Nat) (x : WinUnit) : (s.setWin k x).timers = s.timers := rfl
@[simp] theorem State.setWin_cmps (k : Nat) (x : WinUnit) : (s.setWin k x).cmps = s.cmps := rfl
@[simp] theorem State.setWin_slackAt (k : Nat) (x : WinUnit) : (s.setWin k x).slackAt = s.slackAt := rfl
@[simp] theorem State.setWin_groups (k : Nat) (x : WinUnit) : (s.setWin k x).groups = s.groups := rfl
@[simp] theorem State.setWin_chans (k : Nat) (x : WinUnit) : (s.setWin k x).chans = s.chans := rfl
@[simp] theorem State.setWin_pdQueue (k : Nat) (x : WinUnit) : (s.setWin k x).pdQueue = s.pdQueue := rfl
@[simp] theorem State.setWin_pdNext (k : Nat) (x : WinUnit) : (s.setWin k x).pdNext = s.pdNext := rfl
@[simp] theorem State.setWin_pdVeto (k : Nat) (x : WinUnit) : (s.setWin k x).pdVeto = s.pdVeto := rfl
@[simp] theorem State.setWin_netQueue (k : Nat) (x : WinUnit) : (s.setWin k x).netQueue = s.netQueue := rfl
@[simp] theorem State.setWin_netNext (k : Nat) (x : WinUnit) : (s.setWin k x).netNext = s.netNext := rfl
@[simp] theorem State.setWin_field (k : Nat) (x : WinUnit) : (s.setWin k x).field = s.field := rfl
@[simp] theorem State.setWin_ports (k : Nat) (x : WinUnit) : (s.setWin k x).ports = s.ports := rfl
@[simp] theorem State.setWin_sccs (k : Nat) (x : WinUnit) : (s.setWin k x).sccs = s.sccs := rfl
@[simp] theorem State.setWin_nets (k : Nat) (x : WinUnit) : (s.setWin k x).nets = s.nets := rfl
@[simp] theorem State.setWin_ptp (k : Nat) (x : WinUnit) : (s.setWin k x).ptp = s.ptp := rfl
@[simp] theorem State.setWin_ts (k : Nat) (x : WinUnit) : (s.setWin k x).ts = s.ts := rfl
@[simp] theorem State.setWin_acc (k : Nat) (x : WinUnit) : (s.setWin k x).acc = s.acc := rfl
@[simp] theorem State.setWin_stack (k : Nat) (x : WinUnit) : (s.setWin k x).stack = s.stack := rfl
@[simp] theorem State.setWin_ext (k : Nat) (x : WinUnit) : (s.setWin k x).ext = s.ext := rfl
@[simp] theorem State.setWin_valid (k : Nat) (x : WinUnit) : (s.setWin k x).valid = s.valid := rfl
@[simp] theorem State.setWin_writebacks (k : Nat) (x : WinUnit) : (s.setWin k x).writebacks = s.writebacks := rfl
@[simp] theorem State.setWin_walkers (k : Nat) (x : WinUnit) : (s.setWin k x).walkers = s.walkers := rfl
@[simp] theorem State.setWin_allots (k : Nat) (x : WinUnit) : (s.setWin k x).allots = s.allots := rfl
@[simp] theorem State.setWin_cache (k : Nat) (x : WinUnit) : (s.setWin k x).cache = s.cache := rfl
@[simp] theorem State.setWin_images (k : Nat) (x : WinUnit) : (s.setWin k x).images = s.images := rfl
@[simp] theorem State.setWin_models (k : Nat) (x : WinUnit) : (s.setWin k x).models = s.models := rfl
@[simp] theorem State.setWin_pins (k : Nat) (x : WinUnit) : (s.setWin k x).pins = s.pins := rfl
@[simp] theorem State.setWin_regions (k : Nat) (x : WinUnit) : (s.setWin k x).regions = s.regions := rfl
@[simp] theorem State.setWin_arrays (k : Nat) (x : WinUnit) : (s.setWin k x).arrays = s.arrays := rfl
@[simp] theorem State.setWin_vectors (k : Nat) (x : WinUnit) : (s.setWin k x).vectors = s.vectors := rfl
@[simp] theorem State.setWin_shunters (k : Nat) (x : WinUnit) : (s.setWin k x).shunters = s.shunters := rfl
@[simp] theorem State.setWin_topks (k : Nat) (x : WinUnit) : (s.setWin k x).topks = s.topks := rfl
@[simp] theorem State.setWin_refusals (k : Nat) (x : WinUnit) : (s.setWin k x).refusals = s.refusals := rfl
@[simp] theorem State.setWin_taken (k : Nat) (x : WinUnit) : (s.setWin k x).taken = s.taken := rfl
@[simp] theorem State.setWin_arrivals (k : Nat) (x : WinUnit) : (s.setWin k x).arrivals = s.arrivals := rfl
@[simp] theorem State.setWin_slots (k : Nat) (x : WinUnit) : (s.setWin k x).slots = s.slots := rfl
@[simp] theorem State.setWin_extBusy (k : Nat) (x : WinUnit) : (s.setWin k x).extBusy = s.extBusy := rfl
@[simp] theorem State.setWin_extOpen (k : Nat) (x : WinUnit) : (s.setWin k x).extOpen = s.extOpen := rfl
@[simp] theorem State.setWin_tables (k : Nat) (x : WinUnit) : (s.setWin k x).tables = s.tables := rfl
@[simp] theorem State.setWin_ctxs (k : Nat) (x : WinUnit) : (s.setWin k x).ctxs = s.ctxs := rfl
@[simp] theorem State.setWin_ghosts (k : Nat) (x : WinUnit) : (s.setWin k x).ghosts = s.ghosts := rfl
@[simp] theorem State.setWin_tgts (k : Nat) (x : WinUnit) : (s.setWin k x).tgts = s.tgts := rfl
@[simp] theorem State.setWin_kept (k : Nat) (x : WinUnit) : (s.setWin k x).kept = s.kept := rfl
@[simp] theorem State.setWin_incs (k : Nat) (x : WinUnit) : (s.setWin k x).incs = s.incs := rfl
@[simp] theorem State.setWin_jobs (k : Nat) (x : WinUnit) : (s.setWin k x).jobs = s.jobs := rfl
@[simp] theorem State.setWin_parts (k : Nat) (x : WinUnit) : (s.setWin k x).parts = s.parts := rfl
@[simp] theorem State.setWin_hub (k : Nat) (x : WinUnit) : (s.setWin k x).hub = s.hub := rfl
@[simp] theorem State.setWin_hubOps (k : Nat) (x : WinUnit) : (s.setWin k x).hubOps = s.hubOps := rfl
@[simp] theorem State.setWin_hubWaits (k : Nat) (x : WinUnit) : (s.setWin k x).hubWaits = s.hubWaits := rfl
@[simp] theorem State.setWin_laneSigs (k : Nat) (x : WinUnit) : (s.setWin k x).laneSigs = s.laneSigs := rfl
@[simp] theorem State.setWin_linkUse (k : Nat) (x : WinUnit) : (s.setWin k x).linkUse = s.linkUse := rfl
@[simp] theorem State.setWin_banks (k : Nat) (x : WinUnit) : (s.setWin k x).banks = s.banks := rfl
@[simp] theorem State.setWin_ifes (k : Nat) (x : WinUnit) : (s.setWin k x).ifes = s.ifes := rfl
@[simp] theorem State.setWin_intakes (k : Nat) (x : WinUnit) : (s.setWin k x).intakes = s.intakes := rfl
@[simp] theorem State.setWin_engines (k : Nat) (x : WinUnit) : (s.setWin k x).engines = s.engines := rfl
@[simp] theorem State.setWin_lastIntake (k : Nat) (x : WinUnit) : (s.setWin k x).lastIntake = s.lastIntake := rfl
@[simp] theorem State.setWin_kbRest (k : Nat) (x : WinUnit) : (s.setWin k x).kbRest = s.kbRest := rfl
@[simp] theorem State.setWin_alignC (k : Nat) (x : WinUnit) : (s.setWin k x).alignC = s.alignC := rfl
@[simp] theorem State.setWin_alignS (k : Nat) (x : WinUnit) : (s.setWin k x).alignS = s.alignS := rfl
@[simp] theorem State.setWin_power (k : Nat) (x : WinUnit) : (s.setWin k x).power = s.power := rfl
@[simp] theorem State.setWin_limits (k : Nat) (x : WinUnit) : (s.setWin k x).limits = s.limits := rfl
@[simp] theorem State.setWin_fuses (k : Nat) (x : WinUnit) : (s.setWin k x).fuses = s.fuses := rfl
@[simp] theorem State.setWin_flash (k : Nat) (x : WinUnit) : (s.setWin k x).flash = s.flash := rfl
@[simp] theorem State.setWin_tap (k : Nat) (x : WinUnit) : (s.setWin k x).tap = s.tap := rfl
@[simp] theorem State.setWin_imgFrom (k : Nat) (x : WinUnit) : (s.setWin k x).imgFrom = s.imgFrom := rfl
@[simp] theorem State.setWin_barrier (k : Nat) (x : WinUnit) : (s.setWin k x).barrier = s.barrier := rfl
@[simp] theorem State.setWin_hsp (k : Nat) (x : WinUnit) : (s.setWin k x).hsp = s.hsp := rfl
@[simp] theorem State.setWin_ec (k : Nat) (x : WinUnit) : (s.setWin k x).ec = s.ec := rfl
@[simp] theorem State.setWin_launches (k : Nat) (x : WinUnit) : (s.setWin k x).launches = s.launches := rfl
@[simp] theorem State.setWin_evOverflow (k : Nat) (x : WinUnit) : (s.setWin k x).evOverflow = s.evOverflow := rfl
@[simp] theorem State.setWin_reg (k : Nat) (x : WinUnit) (j : Nat) : (s.setWin k x).reg j = s.reg j := rfl

/-! setTimer -/

@[simp] theorem State.setTimer_time (k : Nat) (x : TimerUnit) : (s.setTimer k x).time = s.time := rfl
@[simp] theorem State.setTimer_grade (k : Nat) (x : TimerUnit) : (s.setTimer k x).grade = s.grade := rfl
@[simp] theorem State.setTimer_pending (k : Nat) (x : TimerUnit) : (s.setTimer k x).pending = s.pending := rfl
@[simp] theorem State.setTimer_later (k : Nat) (x : TimerUnit) : (s.setTimer k x).later = s.later := rfl
@[simp] theorem State.setTimer_regs (k : Nat) (x : TimerUnit) : (s.setTimer k x).regs = s.regs := rfl
@[simp] theorem State.setTimer_doms (k : Nat) (x : TimerUnit) : (s.setTimer k x).doms = s.doms := rfl
@[simp] theorem State.setTimer_freeCount (k : Nat) (x : TimerUnit) : (s.setTimer k x).freeCount = s.freeCount := rfl
@[simp] theorem State.setTimer_holdoffs (k : Nat) (x : TimerUnit) : (s.setTimer k x).holdoffs = s.holdoffs := rfl
@[simp] theorem State.setTimer_events (k : Nat) (x : TimerUnit) : (s.setTimer k x).events = s.events := rfl
@[simp] theorem State.setTimer_emergencies (k : Nat) (x : TimerUnit) : (s.setTimer k x).emergencies = s.emergencies := rfl
@[simp] theorem State.setTimer_encs (k : Nat) (x : TimerUnit) : (s.setTimer k x).encs = s.encs := rfl
@[simp] theorem State.setTimer_domains (k : Nat) (x : TimerUnit) : (s.setTimer k x).domains = s.domains := rfl
@[simp] theorem State.setTimer_trigs (k : Nat) (x : TimerUnit) : (s.setTimer k x).trigs = s.trigs := rfl
@[simp] theorem State.setTimer_wins (k : Nat) (x : TimerUnit) : (s.setTimer k x).wins = s.wins := rfl
@[simp] theorem State.setTimer_cmps (k : Nat) (x : TimerUnit) : (s.setTimer k x).cmps = s.cmps := rfl
@[simp] theorem State.setTimer_slackAt (k : Nat) (x : TimerUnit) : (s.setTimer k x).slackAt = s.slackAt := rfl
@[simp] theorem State.setTimer_groups (k : Nat) (x : TimerUnit) : (s.setTimer k x).groups = s.groups := rfl
@[simp] theorem State.setTimer_chans (k : Nat) (x : TimerUnit) : (s.setTimer k x).chans = s.chans := rfl
@[simp] theorem State.setTimer_pdQueue (k : Nat) (x : TimerUnit) : (s.setTimer k x).pdQueue = s.pdQueue := rfl
@[simp] theorem State.setTimer_pdNext (k : Nat) (x : TimerUnit) : (s.setTimer k x).pdNext = s.pdNext := rfl
@[simp] theorem State.setTimer_pdVeto (k : Nat) (x : TimerUnit) : (s.setTimer k x).pdVeto = s.pdVeto := rfl
@[simp] theorem State.setTimer_netQueue (k : Nat) (x : TimerUnit) : (s.setTimer k x).netQueue = s.netQueue := rfl
@[simp] theorem State.setTimer_netNext (k : Nat) (x : TimerUnit) : (s.setTimer k x).netNext = s.netNext := rfl
@[simp] theorem State.setTimer_field (k : Nat) (x : TimerUnit) : (s.setTimer k x).field = s.field := rfl
@[simp] theorem State.setTimer_ports (k : Nat) (x : TimerUnit) : (s.setTimer k x).ports = s.ports := rfl
@[simp] theorem State.setTimer_sccs (k : Nat) (x : TimerUnit) : (s.setTimer k x).sccs = s.sccs := rfl
@[simp] theorem State.setTimer_nets (k : Nat) (x : TimerUnit) : (s.setTimer k x).nets = s.nets := rfl
@[simp] theorem State.setTimer_ptp (k : Nat) (x : TimerUnit) : (s.setTimer k x).ptp = s.ptp := rfl
@[simp] theorem State.setTimer_ts (k : Nat) (x : TimerUnit) : (s.setTimer k x).ts = s.ts := rfl
@[simp] theorem State.setTimer_acc (k : Nat) (x : TimerUnit) : (s.setTimer k x).acc = s.acc := rfl
@[simp] theorem State.setTimer_stack (k : Nat) (x : TimerUnit) : (s.setTimer k x).stack = s.stack := rfl
@[simp] theorem State.setTimer_ext (k : Nat) (x : TimerUnit) : (s.setTimer k x).ext = s.ext := rfl
@[simp] theorem State.setTimer_valid (k : Nat) (x : TimerUnit) : (s.setTimer k x).valid = s.valid := rfl
@[simp] theorem State.setTimer_writebacks (k : Nat) (x : TimerUnit) : (s.setTimer k x).writebacks = s.writebacks := rfl
@[simp] theorem State.setTimer_walkers (k : Nat) (x : TimerUnit) : (s.setTimer k x).walkers = s.walkers := rfl
@[simp] theorem State.setTimer_allots (k : Nat) (x : TimerUnit) : (s.setTimer k x).allots = s.allots := rfl
@[simp] theorem State.setTimer_cache (k : Nat) (x : TimerUnit) : (s.setTimer k x).cache = s.cache := rfl
@[simp] theorem State.setTimer_images (k : Nat) (x : TimerUnit) : (s.setTimer k x).images = s.images := rfl
@[simp] theorem State.setTimer_models (k : Nat) (x : TimerUnit) : (s.setTimer k x).models = s.models := rfl
@[simp] theorem State.setTimer_pins (k : Nat) (x : TimerUnit) : (s.setTimer k x).pins = s.pins := rfl
@[simp] theorem State.setTimer_regions (k : Nat) (x : TimerUnit) : (s.setTimer k x).regions = s.regions := rfl
@[simp] theorem State.setTimer_arrays (k : Nat) (x : TimerUnit) : (s.setTimer k x).arrays = s.arrays := rfl
@[simp] theorem State.setTimer_vectors (k : Nat) (x : TimerUnit) : (s.setTimer k x).vectors = s.vectors := rfl
@[simp] theorem State.setTimer_shunters (k : Nat) (x : TimerUnit) : (s.setTimer k x).shunters = s.shunters := rfl
@[simp] theorem State.setTimer_topks (k : Nat) (x : TimerUnit) : (s.setTimer k x).topks = s.topks := rfl
@[simp] theorem State.setTimer_refusals (k : Nat) (x : TimerUnit) : (s.setTimer k x).refusals = s.refusals := rfl
@[simp] theorem State.setTimer_taken (k : Nat) (x : TimerUnit) : (s.setTimer k x).taken = s.taken := rfl
@[simp] theorem State.setTimer_arrivals (k : Nat) (x : TimerUnit) : (s.setTimer k x).arrivals = s.arrivals := rfl
@[simp] theorem State.setTimer_slots (k : Nat) (x : TimerUnit) : (s.setTimer k x).slots = s.slots := rfl
@[simp] theorem State.setTimer_extBusy (k : Nat) (x : TimerUnit) : (s.setTimer k x).extBusy = s.extBusy := rfl
@[simp] theorem State.setTimer_extOpen (k : Nat) (x : TimerUnit) : (s.setTimer k x).extOpen = s.extOpen := rfl
@[simp] theorem State.setTimer_tables (k : Nat) (x : TimerUnit) : (s.setTimer k x).tables = s.tables := rfl
@[simp] theorem State.setTimer_ctxs (k : Nat) (x : TimerUnit) : (s.setTimer k x).ctxs = s.ctxs := rfl
@[simp] theorem State.setTimer_ghosts (k : Nat) (x : TimerUnit) : (s.setTimer k x).ghosts = s.ghosts := rfl
@[simp] theorem State.setTimer_tgts (k : Nat) (x : TimerUnit) : (s.setTimer k x).tgts = s.tgts := rfl
@[simp] theorem State.setTimer_kept (k : Nat) (x : TimerUnit) : (s.setTimer k x).kept = s.kept := rfl
@[simp] theorem State.setTimer_incs (k : Nat) (x : TimerUnit) : (s.setTimer k x).incs = s.incs := rfl
@[simp] theorem State.setTimer_jobs (k : Nat) (x : TimerUnit) : (s.setTimer k x).jobs = s.jobs := rfl
@[simp] theorem State.setTimer_parts (k : Nat) (x : TimerUnit) : (s.setTimer k x).parts = s.parts := rfl
@[simp] theorem State.setTimer_hub (k : Nat) (x : TimerUnit) : (s.setTimer k x).hub = s.hub := rfl
@[simp] theorem State.setTimer_hubOps (k : Nat) (x : TimerUnit) : (s.setTimer k x).hubOps = s.hubOps := rfl
@[simp] theorem State.setTimer_hubWaits (k : Nat) (x : TimerUnit) : (s.setTimer k x).hubWaits = s.hubWaits := rfl
@[simp] theorem State.setTimer_laneSigs (k : Nat) (x : TimerUnit) : (s.setTimer k x).laneSigs = s.laneSigs := rfl
@[simp] theorem State.setTimer_linkUse (k : Nat) (x : TimerUnit) : (s.setTimer k x).linkUse = s.linkUse := rfl
@[simp] theorem State.setTimer_banks (k : Nat) (x : TimerUnit) : (s.setTimer k x).banks = s.banks := rfl
@[simp] theorem State.setTimer_ifes (k : Nat) (x : TimerUnit) : (s.setTimer k x).ifes = s.ifes := rfl
@[simp] theorem State.setTimer_intakes (k : Nat) (x : TimerUnit) : (s.setTimer k x).intakes = s.intakes := rfl
@[simp] theorem State.setTimer_engines (k : Nat) (x : TimerUnit) : (s.setTimer k x).engines = s.engines := rfl
@[simp] theorem State.setTimer_lastIntake (k : Nat) (x : TimerUnit) : (s.setTimer k x).lastIntake = s.lastIntake := rfl
@[simp] theorem State.setTimer_kbRest (k : Nat) (x : TimerUnit) : (s.setTimer k x).kbRest = s.kbRest := rfl
@[simp] theorem State.setTimer_alignC (k : Nat) (x : TimerUnit) : (s.setTimer k x).alignC = s.alignC := rfl
@[simp] theorem State.setTimer_alignS (k : Nat) (x : TimerUnit) : (s.setTimer k x).alignS = s.alignS := rfl
@[simp] theorem State.setTimer_power (k : Nat) (x : TimerUnit) : (s.setTimer k x).power = s.power := rfl
@[simp] theorem State.setTimer_limits (k : Nat) (x : TimerUnit) : (s.setTimer k x).limits = s.limits := rfl
@[simp] theorem State.setTimer_fuses (k : Nat) (x : TimerUnit) : (s.setTimer k x).fuses = s.fuses := rfl
@[simp] theorem State.setTimer_flash (k : Nat) (x : TimerUnit) : (s.setTimer k x).flash = s.flash := rfl
@[simp] theorem State.setTimer_tap (k : Nat) (x : TimerUnit) : (s.setTimer k x).tap = s.tap := rfl
@[simp] theorem State.setTimer_imgFrom (k : Nat) (x : TimerUnit) : (s.setTimer k x).imgFrom = s.imgFrom := rfl
@[simp] theorem State.setTimer_barrier (k : Nat) (x : TimerUnit) : (s.setTimer k x).barrier = s.barrier := rfl
@[simp] theorem State.setTimer_hsp (k : Nat) (x : TimerUnit) : (s.setTimer k x).hsp = s.hsp := rfl
@[simp] theorem State.setTimer_ec (k : Nat) (x : TimerUnit) : (s.setTimer k x).ec = s.ec := rfl
@[simp] theorem State.setTimer_launches (k : Nat) (x : TimerUnit) : (s.setTimer k x).launches = s.launches := rfl
@[simp] theorem State.setTimer_evOverflow (k : Nat) (x : TimerUnit) : (s.setTimer k x).evOverflow = s.evOverflow := rfl
@[simp] theorem State.setTimer_reg (k : Nat) (x : TimerUnit) (j : Nat) : (s.setTimer k x).reg j = s.reg j := rfl

/-! setCmp -/

@[simp] theorem State.setCmp_time (k : Nat) (x : CmpUnit) : (s.setCmp k x).time = s.time := rfl
@[simp] theorem State.setCmp_grade (k : Nat) (x : CmpUnit) : (s.setCmp k x).grade = s.grade := rfl
@[simp] theorem State.setCmp_pending (k : Nat) (x : CmpUnit) : (s.setCmp k x).pending = s.pending := rfl
@[simp] theorem State.setCmp_later (k : Nat) (x : CmpUnit) : (s.setCmp k x).later = s.later := rfl
@[simp] theorem State.setCmp_regs (k : Nat) (x : CmpUnit) : (s.setCmp k x).regs = s.regs := rfl
@[simp] theorem State.setCmp_doms (k : Nat) (x : CmpUnit) : (s.setCmp k x).doms = s.doms := rfl
@[simp] theorem State.setCmp_freeCount (k : Nat) (x : CmpUnit) : (s.setCmp k x).freeCount = s.freeCount := rfl
@[simp] theorem State.setCmp_holdoffs (k : Nat) (x : CmpUnit) : (s.setCmp k x).holdoffs = s.holdoffs := rfl
@[simp] theorem State.setCmp_events (k : Nat) (x : CmpUnit) : (s.setCmp k x).events = s.events := rfl
@[simp] theorem State.setCmp_emergencies (k : Nat) (x : CmpUnit) : (s.setCmp k x).emergencies = s.emergencies := rfl
@[simp] theorem State.setCmp_encs (k : Nat) (x : CmpUnit) : (s.setCmp k x).encs = s.encs := rfl
@[simp] theorem State.setCmp_domains (k : Nat) (x : CmpUnit) : (s.setCmp k x).domains = s.domains := rfl
@[simp] theorem State.setCmp_trigs (k : Nat) (x : CmpUnit) : (s.setCmp k x).trigs = s.trigs := rfl
@[simp] theorem State.setCmp_wins (k : Nat) (x : CmpUnit) : (s.setCmp k x).wins = s.wins := rfl
@[simp] theorem State.setCmp_timers (k : Nat) (x : CmpUnit) : (s.setCmp k x).timers = s.timers := rfl
@[simp] theorem State.setCmp_slackAt (k : Nat) (x : CmpUnit) : (s.setCmp k x).slackAt = s.slackAt := rfl
@[simp] theorem State.setCmp_groups (k : Nat) (x : CmpUnit) : (s.setCmp k x).groups = s.groups := rfl
@[simp] theorem State.setCmp_chans (k : Nat) (x : CmpUnit) : (s.setCmp k x).chans = s.chans := rfl
@[simp] theorem State.setCmp_pdQueue (k : Nat) (x : CmpUnit) : (s.setCmp k x).pdQueue = s.pdQueue := rfl
@[simp] theorem State.setCmp_pdNext (k : Nat) (x : CmpUnit) : (s.setCmp k x).pdNext = s.pdNext := rfl
@[simp] theorem State.setCmp_pdVeto (k : Nat) (x : CmpUnit) : (s.setCmp k x).pdVeto = s.pdVeto := rfl
@[simp] theorem State.setCmp_netQueue (k : Nat) (x : CmpUnit) : (s.setCmp k x).netQueue = s.netQueue := rfl
@[simp] theorem State.setCmp_netNext (k : Nat) (x : CmpUnit) : (s.setCmp k x).netNext = s.netNext := rfl
@[simp] theorem State.setCmp_field (k : Nat) (x : CmpUnit) : (s.setCmp k x).field = s.field := rfl
@[simp] theorem State.setCmp_ports (k : Nat) (x : CmpUnit) : (s.setCmp k x).ports = s.ports := rfl
@[simp] theorem State.setCmp_sccs (k : Nat) (x : CmpUnit) : (s.setCmp k x).sccs = s.sccs := rfl
@[simp] theorem State.setCmp_nets (k : Nat) (x : CmpUnit) : (s.setCmp k x).nets = s.nets := rfl
@[simp] theorem State.setCmp_ptp (k : Nat) (x : CmpUnit) : (s.setCmp k x).ptp = s.ptp := rfl
@[simp] theorem State.setCmp_ts (k : Nat) (x : CmpUnit) : (s.setCmp k x).ts = s.ts := rfl
@[simp] theorem State.setCmp_acc (k : Nat) (x : CmpUnit) : (s.setCmp k x).acc = s.acc := rfl
@[simp] theorem State.setCmp_stack (k : Nat) (x : CmpUnit) : (s.setCmp k x).stack = s.stack := rfl
@[simp] theorem State.setCmp_ext (k : Nat) (x : CmpUnit) : (s.setCmp k x).ext = s.ext := rfl
@[simp] theorem State.setCmp_valid (k : Nat) (x : CmpUnit) : (s.setCmp k x).valid = s.valid := rfl
@[simp] theorem State.setCmp_writebacks (k : Nat) (x : CmpUnit) : (s.setCmp k x).writebacks = s.writebacks := rfl
@[simp] theorem State.setCmp_walkers (k : Nat) (x : CmpUnit) : (s.setCmp k x).walkers = s.walkers := rfl
@[simp] theorem State.setCmp_allots (k : Nat) (x : CmpUnit) : (s.setCmp k x).allots = s.allots := rfl
@[simp] theorem State.setCmp_cache (k : Nat) (x : CmpUnit) : (s.setCmp k x).cache = s.cache := rfl
@[simp] theorem State.setCmp_images (k : Nat) (x : CmpUnit) : (s.setCmp k x).images = s.images := rfl
@[simp] theorem State.setCmp_models (k : Nat) (x : CmpUnit) : (s.setCmp k x).models = s.models := rfl
@[simp] theorem State.setCmp_pins (k : Nat) (x : CmpUnit) : (s.setCmp k x).pins = s.pins := rfl
@[simp] theorem State.setCmp_regions (k : Nat) (x : CmpUnit) : (s.setCmp k x).regions = s.regions := rfl
@[simp] theorem State.setCmp_arrays (k : Nat) (x : CmpUnit) : (s.setCmp k x).arrays = s.arrays := rfl
@[simp] theorem State.setCmp_vectors (k : Nat) (x : CmpUnit) : (s.setCmp k x).vectors = s.vectors := rfl
@[simp] theorem State.setCmp_shunters (k : Nat) (x : CmpUnit) : (s.setCmp k x).shunters = s.shunters := rfl
@[simp] theorem State.setCmp_topks (k : Nat) (x : CmpUnit) : (s.setCmp k x).topks = s.topks := rfl
@[simp] theorem State.setCmp_refusals (k : Nat) (x : CmpUnit) : (s.setCmp k x).refusals = s.refusals := rfl
@[simp] theorem State.setCmp_taken (k : Nat) (x : CmpUnit) : (s.setCmp k x).taken = s.taken := rfl
@[simp] theorem State.setCmp_arrivals (k : Nat) (x : CmpUnit) : (s.setCmp k x).arrivals = s.arrivals := rfl
@[simp] theorem State.setCmp_slots (k : Nat) (x : CmpUnit) : (s.setCmp k x).slots = s.slots := rfl
@[simp] theorem State.setCmp_extBusy (k : Nat) (x : CmpUnit) : (s.setCmp k x).extBusy = s.extBusy := rfl
@[simp] theorem State.setCmp_extOpen (k : Nat) (x : CmpUnit) : (s.setCmp k x).extOpen = s.extOpen := rfl
@[simp] theorem State.setCmp_tables (k : Nat) (x : CmpUnit) : (s.setCmp k x).tables = s.tables := rfl
@[simp] theorem State.setCmp_ctxs (k : Nat) (x : CmpUnit) : (s.setCmp k x).ctxs = s.ctxs := rfl
@[simp] theorem State.setCmp_ghosts (k : Nat) (x : CmpUnit) : (s.setCmp k x).ghosts = s.ghosts := rfl
@[simp] theorem State.setCmp_tgts (k : Nat) (x : CmpUnit) : (s.setCmp k x).tgts = s.tgts := rfl
@[simp] theorem State.setCmp_kept (k : Nat) (x : CmpUnit) : (s.setCmp k x).kept = s.kept := rfl
@[simp] theorem State.setCmp_incs (k : Nat) (x : CmpUnit) : (s.setCmp k x).incs = s.incs := rfl
@[simp] theorem State.setCmp_jobs (k : Nat) (x : CmpUnit) : (s.setCmp k x).jobs = s.jobs := rfl
@[simp] theorem State.setCmp_parts (k : Nat) (x : CmpUnit) : (s.setCmp k x).parts = s.parts := rfl
@[simp] theorem State.setCmp_hub (k : Nat) (x : CmpUnit) : (s.setCmp k x).hub = s.hub := rfl
@[simp] theorem State.setCmp_hubOps (k : Nat) (x : CmpUnit) : (s.setCmp k x).hubOps = s.hubOps := rfl
@[simp] theorem State.setCmp_hubWaits (k : Nat) (x : CmpUnit) : (s.setCmp k x).hubWaits = s.hubWaits := rfl
@[simp] theorem State.setCmp_laneSigs (k : Nat) (x : CmpUnit) : (s.setCmp k x).laneSigs = s.laneSigs := rfl
@[simp] theorem State.setCmp_linkUse (k : Nat) (x : CmpUnit) : (s.setCmp k x).linkUse = s.linkUse := rfl
@[simp] theorem State.setCmp_banks (k : Nat) (x : CmpUnit) : (s.setCmp k x).banks = s.banks := rfl
@[simp] theorem State.setCmp_ifes (k : Nat) (x : CmpUnit) : (s.setCmp k x).ifes = s.ifes := rfl
@[simp] theorem State.setCmp_intakes (k : Nat) (x : CmpUnit) : (s.setCmp k x).intakes = s.intakes := rfl
@[simp] theorem State.setCmp_engines (k : Nat) (x : CmpUnit) : (s.setCmp k x).engines = s.engines := rfl
@[simp] theorem State.setCmp_lastIntake (k : Nat) (x : CmpUnit) : (s.setCmp k x).lastIntake = s.lastIntake := rfl
@[simp] theorem State.setCmp_kbRest (k : Nat) (x : CmpUnit) : (s.setCmp k x).kbRest = s.kbRest := rfl
@[simp] theorem State.setCmp_alignC (k : Nat) (x : CmpUnit) : (s.setCmp k x).alignC = s.alignC := rfl
@[simp] theorem State.setCmp_alignS (k : Nat) (x : CmpUnit) : (s.setCmp k x).alignS = s.alignS := rfl
@[simp] theorem State.setCmp_power (k : Nat) (x : CmpUnit) : (s.setCmp k x).power = s.power := rfl
@[simp] theorem State.setCmp_limits (k : Nat) (x : CmpUnit) : (s.setCmp k x).limits = s.limits := rfl
@[simp] theorem State.setCmp_fuses (k : Nat) (x : CmpUnit) : (s.setCmp k x).fuses = s.fuses := rfl
@[simp] theorem State.setCmp_flash (k : Nat) (x : CmpUnit) : (s.setCmp k x).flash = s.flash := rfl
@[simp] theorem State.setCmp_tap (k : Nat) (x : CmpUnit) : (s.setCmp k x).tap = s.tap := rfl
@[simp] theorem State.setCmp_imgFrom (k : Nat) (x : CmpUnit) : (s.setCmp k x).imgFrom = s.imgFrom := rfl
@[simp] theorem State.setCmp_barrier (k : Nat) (x : CmpUnit) : (s.setCmp k x).barrier = s.barrier := rfl
@[simp] theorem State.setCmp_hsp (k : Nat) (x : CmpUnit) : (s.setCmp k x).hsp = s.hsp := rfl
@[simp] theorem State.setCmp_ec (k : Nat) (x : CmpUnit) : (s.setCmp k x).ec = s.ec := rfl
@[simp] theorem State.setCmp_launches (k : Nat) (x : CmpUnit) : (s.setCmp k x).launches = s.launches := rfl
@[simp] theorem State.setCmp_evOverflow (k : Nat) (x : CmpUnit) : (s.setCmp k x).evOverflow = s.evOverflow := rfl
@[simp] theorem State.setCmp_reg (k : Nat) (x : CmpUnit) (j : Nat) : (s.setCmp k x).reg j = s.reg j := rfl

/-! setGroup -/

@[simp] theorem State.setGroup_time (k : Nat) (x : GroupUnit) : (s.setGroup k x).time = s.time := rfl
@[simp] theorem State.setGroup_grade (k : Nat) (x : GroupUnit) : (s.setGroup k x).grade = s.grade := rfl
@[simp] theorem State.setGroup_pending (k : Nat) (x : GroupUnit) : (s.setGroup k x).pending = s.pending := rfl
@[simp] theorem State.setGroup_later (k : Nat) (x : GroupUnit) : (s.setGroup k x).later = s.later := rfl
@[simp] theorem State.setGroup_regs (k : Nat) (x : GroupUnit) : (s.setGroup k x).regs = s.regs := rfl
@[simp] theorem State.setGroup_doms (k : Nat) (x : GroupUnit) : (s.setGroup k x).doms = s.doms := rfl
@[simp] theorem State.setGroup_freeCount (k : Nat) (x : GroupUnit) : (s.setGroup k x).freeCount = s.freeCount := rfl
@[simp] theorem State.setGroup_holdoffs (k : Nat) (x : GroupUnit) : (s.setGroup k x).holdoffs = s.holdoffs := rfl
@[simp] theorem State.setGroup_events (k : Nat) (x : GroupUnit) : (s.setGroup k x).events = s.events := rfl
@[simp] theorem State.setGroup_emergencies (k : Nat) (x : GroupUnit) : (s.setGroup k x).emergencies = s.emergencies := rfl
@[simp] theorem State.setGroup_encs (k : Nat) (x : GroupUnit) : (s.setGroup k x).encs = s.encs := rfl
@[simp] theorem State.setGroup_domains (k : Nat) (x : GroupUnit) : (s.setGroup k x).domains = s.domains := rfl
@[simp] theorem State.setGroup_trigs (k : Nat) (x : GroupUnit) : (s.setGroup k x).trigs = s.trigs := rfl
@[simp] theorem State.setGroup_wins (k : Nat) (x : GroupUnit) : (s.setGroup k x).wins = s.wins := rfl
@[simp] theorem State.setGroup_timers (k : Nat) (x : GroupUnit) : (s.setGroup k x).timers = s.timers := rfl
@[simp] theorem State.setGroup_cmps (k : Nat) (x : GroupUnit) : (s.setGroup k x).cmps = s.cmps := rfl
@[simp] theorem State.setGroup_slackAt (k : Nat) (x : GroupUnit) : (s.setGroup k x).slackAt = s.slackAt := rfl
@[simp] theorem State.setGroup_chans (k : Nat) (x : GroupUnit) : (s.setGroup k x).chans = s.chans := rfl
@[simp] theorem State.setGroup_pdQueue (k : Nat) (x : GroupUnit) : (s.setGroup k x).pdQueue = s.pdQueue := rfl
@[simp] theorem State.setGroup_pdNext (k : Nat) (x : GroupUnit) : (s.setGroup k x).pdNext = s.pdNext := rfl
@[simp] theorem State.setGroup_pdVeto (k : Nat) (x : GroupUnit) : (s.setGroup k x).pdVeto = s.pdVeto := rfl
@[simp] theorem State.setGroup_netQueue (k : Nat) (x : GroupUnit) : (s.setGroup k x).netQueue = s.netQueue := rfl
@[simp] theorem State.setGroup_netNext (k : Nat) (x : GroupUnit) : (s.setGroup k x).netNext = s.netNext := rfl
@[simp] theorem State.setGroup_field (k : Nat) (x : GroupUnit) : (s.setGroup k x).field = s.field := rfl
@[simp] theorem State.setGroup_ports (k : Nat) (x : GroupUnit) : (s.setGroup k x).ports = s.ports := rfl
@[simp] theorem State.setGroup_sccs (k : Nat) (x : GroupUnit) : (s.setGroup k x).sccs = s.sccs := rfl
@[simp] theorem State.setGroup_nets (k : Nat) (x : GroupUnit) : (s.setGroup k x).nets = s.nets := rfl
@[simp] theorem State.setGroup_ptp (k : Nat) (x : GroupUnit) : (s.setGroup k x).ptp = s.ptp := rfl
@[simp] theorem State.setGroup_ts (k : Nat) (x : GroupUnit) : (s.setGroup k x).ts = s.ts := rfl
@[simp] theorem State.setGroup_acc (k : Nat) (x : GroupUnit) : (s.setGroup k x).acc = s.acc := rfl
@[simp] theorem State.setGroup_stack (k : Nat) (x : GroupUnit) : (s.setGroup k x).stack = s.stack := rfl
@[simp] theorem State.setGroup_ext (k : Nat) (x : GroupUnit) : (s.setGroup k x).ext = s.ext := rfl
@[simp] theorem State.setGroup_valid (k : Nat) (x : GroupUnit) : (s.setGroup k x).valid = s.valid := rfl
@[simp] theorem State.setGroup_writebacks (k : Nat) (x : GroupUnit) : (s.setGroup k x).writebacks = s.writebacks := rfl
@[simp] theorem State.setGroup_walkers (k : Nat) (x : GroupUnit) : (s.setGroup k x).walkers = s.walkers := rfl
@[simp] theorem State.setGroup_allots (k : Nat) (x : GroupUnit) : (s.setGroup k x).allots = s.allots := rfl
@[simp] theorem State.setGroup_cache (k : Nat) (x : GroupUnit) : (s.setGroup k x).cache = s.cache := rfl
@[simp] theorem State.setGroup_images (k : Nat) (x : GroupUnit) : (s.setGroup k x).images = s.images := rfl
@[simp] theorem State.setGroup_models (k : Nat) (x : GroupUnit) : (s.setGroup k x).models = s.models := rfl
@[simp] theorem State.setGroup_pins (k : Nat) (x : GroupUnit) : (s.setGroup k x).pins = s.pins := rfl
@[simp] theorem State.setGroup_regions (k : Nat) (x : GroupUnit) : (s.setGroup k x).regions = s.regions := rfl
@[simp] theorem State.setGroup_arrays (k : Nat) (x : GroupUnit) : (s.setGroup k x).arrays = s.arrays := rfl
@[simp] theorem State.setGroup_vectors (k : Nat) (x : GroupUnit) : (s.setGroup k x).vectors = s.vectors := rfl
@[simp] theorem State.setGroup_shunters (k : Nat) (x : GroupUnit) : (s.setGroup k x).shunters = s.shunters := rfl
@[simp] theorem State.setGroup_topks (k : Nat) (x : GroupUnit) : (s.setGroup k x).topks = s.topks := rfl
@[simp] theorem State.setGroup_refusals (k : Nat) (x : GroupUnit) : (s.setGroup k x).refusals = s.refusals := rfl
@[simp] theorem State.setGroup_taken (k : Nat) (x : GroupUnit) : (s.setGroup k x).taken = s.taken := rfl
@[simp] theorem State.setGroup_arrivals (k : Nat) (x : GroupUnit) : (s.setGroup k x).arrivals = s.arrivals := rfl
@[simp] theorem State.setGroup_slots (k : Nat) (x : GroupUnit) : (s.setGroup k x).slots = s.slots := rfl
@[simp] theorem State.setGroup_extBusy (k : Nat) (x : GroupUnit) : (s.setGroup k x).extBusy = s.extBusy := rfl
@[simp] theorem State.setGroup_extOpen (k : Nat) (x : GroupUnit) : (s.setGroup k x).extOpen = s.extOpen := rfl
@[simp] theorem State.setGroup_tables (k : Nat) (x : GroupUnit) : (s.setGroup k x).tables = s.tables := rfl
@[simp] theorem State.setGroup_ctxs (k : Nat) (x : GroupUnit) : (s.setGroup k x).ctxs = s.ctxs := rfl
@[simp] theorem State.setGroup_ghosts (k : Nat) (x : GroupUnit) : (s.setGroup k x).ghosts = s.ghosts := rfl
@[simp] theorem State.setGroup_tgts (k : Nat) (x : GroupUnit) : (s.setGroup k x).tgts = s.tgts := rfl
@[simp] theorem State.setGroup_kept (k : Nat) (x : GroupUnit) : (s.setGroup k x).kept = s.kept := rfl
@[simp] theorem State.setGroup_incs (k : Nat) (x : GroupUnit) : (s.setGroup k x).incs = s.incs := rfl
@[simp] theorem State.setGroup_jobs (k : Nat) (x : GroupUnit) : (s.setGroup k x).jobs = s.jobs := rfl
@[simp] theorem State.setGroup_parts (k : Nat) (x : GroupUnit) : (s.setGroup k x).parts = s.parts := rfl
@[simp] theorem State.setGroup_hub (k : Nat) (x : GroupUnit) : (s.setGroup k x).hub = s.hub := rfl
@[simp] theorem State.setGroup_hubOps (k : Nat) (x : GroupUnit) : (s.setGroup k x).hubOps = s.hubOps := rfl
@[simp] theorem State.setGroup_hubWaits (k : Nat) (x : GroupUnit) : (s.setGroup k x).hubWaits = s.hubWaits := rfl
@[simp] theorem State.setGroup_laneSigs (k : Nat) (x : GroupUnit) : (s.setGroup k x).laneSigs = s.laneSigs := rfl
@[simp] theorem State.setGroup_linkUse (k : Nat) (x : GroupUnit) : (s.setGroup k x).linkUse = s.linkUse := rfl
@[simp] theorem State.setGroup_banks (k : Nat) (x : GroupUnit) : (s.setGroup k x).banks = s.banks := rfl
@[simp] theorem State.setGroup_ifes (k : Nat) (x : GroupUnit) : (s.setGroup k x).ifes = s.ifes := rfl
@[simp] theorem State.setGroup_intakes (k : Nat) (x : GroupUnit) : (s.setGroup k x).intakes = s.intakes := rfl
@[simp] theorem State.setGroup_engines (k : Nat) (x : GroupUnit) : (s.setGroup k x).engines = s.engines := rfl
@[simp] theorem State.setGroup_lastIntake (k : Nat) (x : GroupUnit) : (s.setGroup k x).lastIntake = s.lastIntake := rfl
@[simp] theorem State.setGroup_kbRest (k : Nat) (x : GroupUnit) : (s.setGroup k x).kbRest = s.kbRest := rfl
@[simp] theorem State.setGroup_alignC (k : Nat) (x : GroupUnit) : (s.setGroup k x).alignC = s.alignC := rfl
@[simp] theorem State.setGroup_alignS (k : Nat) (x : GroupUnit) : (s.setGroup k x).alignS = s.alignS := rfl
@[simp] theorem State.setGroup_power (k : Nat) (x : GroupUnit) : (s.setGroup k x).power = s.power := rfl
@[simp] theorem State.setGroup_limits (k : Nat) (x : GroupUnit) : (s.setGroup k x).limits = s.limits := rfl
@[simp] theorem State.setGroup_fuses (k : Nat) (x : GroupUnit) : (s.setGroup k x).fuses = s.fuses := rfl
@[simp] theorem State.setGroup_flash (k : Nat) (x : GroupUnit) : (s.setGroup k x).flash = s.flash := rfl
@[simp] theorem State.setGroup_tap (k : Nat) (x : GroupUnit) : (s.setGroup k x).tap = s.tap := rfl
@[simp] theorem State.setGroup_imgFrom (k : Nat) (x : GroupUnit) : (s.setGroup k x).imgFrom = s.imgFrom := rfl
@[simp] theorem State.setGroup_barrier (k : Nat) (x : GroupUnit) : (s.setGroup k x).barrier = s.barrier := rfl
@[simp] theorem State.setGroup_hsp (k : Nat) (x : GroupUnit) : (s.setGroup k x).hsp = s.hsp := rfl
@[simp] theorem State.setGroup_ec (k : Nat) (x : GroupUnit) : (s.setGroup k x).ec = s.ec := rfl
@[simp] theorem State.setGroup_launches (k : Nat) (x : GroupUnit) : (s.setGroup k x).launches = s.launches := rfl
@[simp] theorem State.setGroup_evOverflow (k : Nat) (x : GroupUnit) : (s.setGroup k x).evOverflow = s.evOverflow := rfl
@[simp] theorem State.setGroup_reg (k : Nat) (x : GroupUnit) (j : Nat) : (s.setGroup k x).reg j = s.reg j := rfl

/-! setChan -/

@[simp] theorem State.setChan_time (k : Nat) (x : ChanUnit) : (s.setChan k x).time = s.time := rfl
@[simp] theorem State.setChan_grade (k : Nat) (x : ChanUnit) : (s.setChan k x).grade = s.grade := rfl
@[simp] theorem State.setChan_pending (k : Nat) (x : ChanUnit) : (s.setChan k x).pending = s.pending := rfl
@[simp] theorem State.setChan_later (k : Nat) (x : ChanUnit) : (s.setChan k x).later = s.later := rfl
@[simp] theorem State.setChan_regs (k : Nat) (x : ChanUnit) : (s.setChan k x).regs = s.regs := rfl
@[simp] theorem State.setChan_doms (k : Nat) (x : ChanUnit) : (s.setChan k x).doms = s.doms := rfl
@[simp] theorem State.setChan_freeCount (k : Nat) (x : ChanUnit) : (s.setChan k x).freeCount = s.freeCount := rfl
@[simp] theorem State.setChan_holdoffs (k : Nat) (x : ChanUnit) : (s.setChan k x).holdoffs = s.holdoffs := rfl
@[simp] theorem State.setChan_events (k : Nat) (x : ChanUnit) : (s.setChan k x).events = s.events := rfl
@[simp] theorem State.setChan_emergencies (k : Nat) (x : ChanUnit) : (s.setChan k x).emergencies = s.emergencies := rfl
@[simp] theorem State.setChan_encs (k : Nat) (x : ChanUnit) : (s.setChan k x).encs = s.encs := rfl
@[simp] theorem State.setChan_domains (k : Nat) (x : ChanUnit) : (s.setChan k x).domains = s.domains := rfl
@[simp] theorem State.setChan_trigs (k : Nat) (x : ChanUnit) : (s.setChan k x).trigs = s.trigs := rfl
@[simp] theorem State.setChan_wins (k : Nat) (x : ChanUnit) : (s.setChan k x).wins = s.wins := rfl
@[simp] theorem State.setChan_timers (k : Nat) (x : ChanUnit) : (s.setChan k x).timers = s.timers := rfl
@[simp] theorem State.setChan_cmps (k : Nat) (x : ChanUnit) : (s.setChan k x).cmps = s.cmps := rfl
@[simp] theorem State.setChan_slackAt (k : Nat) (x : ChanUnit) : (s.setChan k x).slackAt = s.slackAt := rfl
@[simp] theorem State.setChan_groups (k : Nat) (x : ChanUnit) : (s.setChan k x).groups = s.groups := rfl
@[simp] theorem State.setChan_pdQueue (k : Nat) (x : ChanUnit) : (s.setChan k x).pdQueue = s.pdQueue := rfl
@[simp] theorem State.setChan_pdNext (k : Nat) (x : ChanUnit) : (s.setChan k x).pdNext = s.pdNext := rfl
@[simp] theorem State.setChan_pdVeto (k : Nat) (x : ChanUnit) : (s.setChan k x).pdVeto = s.pdVeto := rfl
@[simp] theorem State.setChan_netQueue (k : Nat) (x : ChanUnit) : (s.setChan k x).netQueue = s.netQueue := rfl
@[simp] theorem State.setChan_netNext (k : Nat) (x : ChanUnit) : (s.setChan k x).netNext = s.netNext := rfl
@[simp] theorem State.setChan_field (k : Nat) (x : ChanUnit) : (s.setChan k x).field = s.field := rfl
@[simp] theorem State.setChan_ports (k : Nat) (x : ChanUnit) : (s.setChan k x).ports = s.ports := rfl
@[simp] theorem State.setChan_sccs (k : Nat) (x : ChanUnit) : (s.setChan k x).sccs = s.sccs := rfl
@[simp] theorem State.setChan_nets (k : Nat) (x : ChanUnit) : (s.setChan k x).nets = s.nets := rfl
@[simp] theorem State.setChan_ptp (k : Nat) (x : ChanUnit) : (s.setChan k x).ptp = s.ptp := rfl
@[simp] theorem State.setChan_ts (k : Nat) (x : ChanUnit) : (s.setChan k x).ts = s.ts := rfl
@[simp] theorem State.setChan_acc (k : Nat) (x : ChanUnit) : (s.setChan k x).acc = s.acc := rfl
@[simp] theorem State.setChan_stack (k : Nat) (x : ChanUnit) : (s.setChan k x).stack = s.stack := rfl
@[simp] theorem State.setChan_ext (k : Nat) (x : ChanUnit) : (s.setChan k x).ext = s.ext := rfl
@[simp] theorem State.setChan_valid (k : Nat) (x : ChanUnit) : (s.setChan k x).valid = s.valid := rfl
@[simp] theorem State.setChan_writebacks (k : Nat) (x : ChanUnit) : (s.setChan k x).writebacks = s.writebacks := rfl
@[simp] theorem State.setChan_walkers (k : Nat) (x : ChanUnit) : (s.setChan k x).walkers = s.walkers := rfl
@[simp] theorem State.setChan_allots (k : Nat) (x : ChanUnit) : (s.setChan k x).allots = s.allots := rfl
@[simp] theorem State.setChan_cache (k : Nat) (x : ChanUnit) : (s.setChan k x).cache = s.cache := rfl
@[simp] theorem State.setChan_images (k : Nat) (x : ChanUnit) : (s.setChan k x).images = s.images := rfl
@[simp] theorem State.setChan_models (k : Nat) (x : ChanUnit) : (s.setChan k x).models = s.models := rfl
@[simp] theorem State.setChan_pins (k : Nat) (x : ChanUnit) : (s.setChan k x).pins = s.pins := rfl
@[simp] theorem State.setChan_regions (k : Nat) (x : ChanUnit) : (s.setChan k x).regions = s.regions := rfl
@[simp] theorem State.setChan_arrays (k : Nat) (x : ChanUnit) : (s.setChan k x).arrays = s.arrays := rfl
@[simp] theorem State.setChan_vectors (k : Nat) (x : ChanUnit) : (s.setChan k x).vectors = s.vectors := rfl
@[simp] theorem State.setChan_shunters (k : Nat) (x : ChanUnit) : (s.setChan k x).shunters = s.shunters := rfl
@[simp] theorem State.setChan_topks (k : Nat) (x : ChanUnit) : (s.setChan k x).topks = s.topks := rfl
@[simp] theorem State.setChan_refusals (k : Nat) (x : ChanUnit) : (s.setChan k x).refusals = s.refusals := rfl
@[simp] theorem State.setChan_taken (k : Nat) (x : ChanUnit) : (s.setChan k x).taken = s.taken := rfl
@[simp] theorem State.setChan_arrivals (k : Nat) (x : ChanUnit) : (s.setChan k x).arrivals = s.arrivals := rfl
@[simp] theorem State.setChan_slots (k : Nat) (x : ChanUnit) : (s.setChan k x).slots = s.slots := rfl
@[simp] theorem State.setChan_extBusy (k : Nat) (x : ChanUnit) : (s.setChan k x).extBusy = s.extBusy := rfl
@[simp] theorem State.setChan_extOpen (k : Nat) (x : ChanUnit) : (s.setChan k x).extOpen = s.extOpen := rfl
@[simp] theorem State.setChan_tables (k : Nat) (x : ChanUnit) : (s.setChan k x).tables = s.tables := rfl
@[simp] theorem State.setChan_ctxs (k : Nat) (x : ChanUnit) : (s.setChan k x).ctxs = s.ctxs := rfl
@[simp] theorem State.setChan_ghosts (k : Nat) (x : ChanUnit) : (s.setChan k x).ghosts = s.ghosts := rfl
@[simp] theorem State.setChan_tgts (k : Nat) (x : ChanUnit) : (s.setChan k x).tgts = s.tgts := rfl
@[simp] theorem State.setChan_kept (k : Nat) (x : ChanUnit) : (s.setChan k x).kept = s.kept := rfl
@[simp] theorem State.setChan_incs (k : Nat) (x : ChanUnit) : (s.setChan k x).incs = s.incs := rfl
@[simp] theorem State.setChan_jobs (k : Nat) (x : ChanUnit) : (s.setChan k x).jobs = s.jobs := rfl
@[simp] theorem State.setChan_parts (k : Nat) (x : ChanUnit) : (s.setChan k x).parts = s.parts := rfl
@[simp] theorem State.setChan_hub (k : Nat) (x : ChanUnit) : (s.setChan k x).hub = s.hub := rfl
@[simp] theorem State.setChan_hubOps (k : Nat) (x : ChanUnit) : (s.setChan k x).hubOps = s.hubOps := rfl
@[simp] theorem State.setChan_hubWaits (k : Nat) (x : ChanUnit) : (s.setChan k x).hubWaits = s.hubWaits := rfl
@[simp] theorem State.setChan_laneSigs (k : Nat) (x : ChanUnit) : (s.setChan k x).laneSigs = s.laneSigs := rfl
@[simp] theorem State.setChan_linkUse (k : Nat) (x : ChanUnit) : (s.setChan k x).linkUse = s.linkUse := rfl
@[simp] theorem State.setChan_banks (k : Nat) (x : ChanUnit) : (s.setChan k x).banks = s.banks := rfl
@[simp] theorem State.setChan_ifes (k : Nat) (x : ChanUnit) : (s.setChan k x).ifes = s.ifes := rfl
@[simp] theorem State.setChan_intakes (k : Nat) (x : ChanUnit) : (s.setChan k x).intakes = s.intakes := rfl
@[simp] theorem State.setChan_engines (k : Nat) (x : ChanUnit) : (s.setChan k x).engines = s.engines := rfl
@[simp] theorem State.setChan_lastIntake (k : Nat) (x : ChanUnit) : (s.setChan k x).lastIntake = s.lastIntake := rfl
@[simp] theorem State.setChan_kbRest (k : Nat) (x : ChanUnit) : (s.setChan k x).kbRest = s.kbRest := rfl
@[simp] theorem State.setChan_alignC (k : Nat) (x : ChanUnit) : (s.setChan k x).alignC = s.alignC := rfl
@[simp] theorem State.setChan_alignS (k : Nat) (x : ChanUnit) : (s.setChan k x).alignS = s.alignS := rfl
@[simp] theorem State.setChan_power (k : Nat) (x : ChanUnit) : (s.setChan k x).power = s.power := rfl
@[simp] theorem State.setChan_limits (k : Nat) (x : ChanUnit) : (s.setChan k x).limits = s.limits := rfl
@[simp] theorem State.setChan_fuses (k : Nat) (x : ChanUnit) : (s.setChan k x).fuses = s.fuses := rfl
@[simp] theorem State.setChan_flash (k : Nat) (x : ChanUnit) : (s.setChan k x).flash = s.flash := rfl
@[simp] theorem State.setChan_tap (k : Nat) (x : ChanUnit) : (s.setChan k x).tap = s.tap := rfl
@[simp] theorem State.setChan_imgFrom (k : Nat) (x : ChanUnit) : (s.setChan k x).imgFrom = s.imgFrom := rfl
@[simp] theorem State.setChan_barrier (k : Nat) (x : ChanUnit) : (s.setChan k x).barrier = s.barrier := rfl
@[simp] theorem State.setChan_hsp (k : Nat) (x : ChanUnit) : (s.setChan k x).hsp = s.hsp := rfl
@[simp] theorem State.setChan_ec (k : Nat) (x : ChanUnit) : (s.setChan k x).ec = s.ec := rfl
@[simp] theorem State.setChan_launches (k : Nat) (x : ChanUnit) : (s.setChan k x).launches = s.launches := rfl
@[simp] theorem State.setChan_evOverflow (k : Nat) (x : ChanUnit) : (s.setChan k x).evOverflow = s.evOverflow := rfl
@[simp] theorem State.setChan_reg (k : Nat) (x : ChanUnit) (j : Nat) : (s.setChan k x).reg j = s.reg j := rfl

/-! setPort -/

@[simp] theorem State.setPort_time (k : Nat) (x : PortUnit) : (s.setPort k x).time = s.time := rfl
@[simp] theorem State.setPort_grade (k : Nat) (x : PortUnit) : (s.setPort k x).grade = s.grade := rfl
@[simp] theorem State.setPort_pending (k : Nat) (x : PortUnit) : (s.setPort k x).pending = s.pending := rfl
@[simp] theorem State.setPort_later (k : Nat) (x : PortUnit) : (s.setPort k x).later = s.later := rfl
@[simp] theorem State.setPort_regs (k : Nat) (x : PortUnit) : (s.setPort k x).regs = s.regs := rfl
@[simp] theorem State.setPort_doms (k : Nat) (x : PortUnit) : (s.setPort k x).doms = s.doms := rfl
@[simp] theorem State.setPort_freeCount (k : Nat) (x : PortUnit) : (s.setPort k x).freeCount = s.freeCount := rfl
@[simp] theorem State.setPort_holdoffs (k : Nat) (x : PortUnit) : (s.setPort k x).holdoffs = s.holdoffs := rfl
@[simp] theorem State.setPort_events (k : Nat) (x : PortUnit) : (s.setPort k x).events = s.events := rfl
@[simp] theorem State.setPort_emergencies (k : Nat) (x : PortUnit) : (s.setPort k x).emergencies = s.emergencies := rfl
@[simp] theorem State.setPort_encs (k : Nat) (x : PortUnit) : (s.setPort k x).encs = s.encs := rfl
@[simp] theorem State.setPort_domains (k : Nat) (x : PortUnit) : (s.setPort k x).domains = s.domains := rfl
@[simp] theorem State.setPort_trigs (k : Nat) (x : PortUnit) : (s.setPort k x).trigs = s.trigs := rfl
@[simp] theorem State.setPort_wins (k : Nat) (x : PortUnit) : (s.setPort k x).wins = s.wins := rfl
@[simp] theorem State.setPort_timers (k : Nat) (x : PortUnit) : (s.setPort k x).timers = s.timers := rfl
@[simp] theorem State.setPort_cmps (k : Nat) (x : PortUnit) : (s.setPort k x).cmps = s.cmps := rfl
@[simp] theorem State.setPort_slackAt (k : Nat) (x : PortUnit) : (s.setPort k x).slackAt = s.slackAt := rfl
@[simp] theorem State.setPort_groups (k : Nat) (x : PortUnit) : (s.setPort k x).groups = s.groups := rfl
@[simp] theorem State.setPort_chans (k : Nat) (x : PortUnit) : (s.setPort k x).chans = s.chans := rfl
@[simp] theorem State.setPort_pdQueue (k : Nat) (x : PortUnit) : (s.setPort k x).pdQueue = s.pdQueue := rfl
@[simp] theorem State.setPort_pdNext (k : Nat) (x : PortUnit) : (s.setPort k x).pdNext = s.pdNext := rfl
@[simp] theorem State.setPort_pdVeto (k : Nat) (x : PortUnit) : (s.setPort k x).pdVeto = s.pdVeto := rfl
@[simp] theorem State.setPort_netQueue (k : Nat) (x : PortUnit) : (s.setPort k x).netQueue = s.netQueue := rfl
@[simp] theorem State.setPort_netNext (k : Nat) (x : PortUnit) : (s.setPort k x).netNext = s.netNext := rfl
@[simp] theorem State.setPort_field (k : Nat) (x : PortUnit) : (s.setPort k x).field = s.field := rfl
@[simp] theorem State.setPort_sccs (k : Nat) (x : PortUnit) : (s.setPort k x).sccs = s.sccs := rfl
@[simp] theorem State.setPort_nets (k : Nat) (x : PortUnit) : (s.setPort k x).nets = s.nets := rfl
@[simp] theorem State.setPort_ptp (k : Nat) (x : PortUnit) : (s.setPort k x).ptp = s.ptp := rfl
@[simp] theorem State.setPort_ts (k : Nat) (x : PortUnit) : (s.setPort k x).ts = s.ts := rfl
@[simp] theorem State.setPort_acc (k : Nat) (x : PortUnit) : (s.setPort k x).acc = s.acc := rfl
@[simp] theorem State.setPort_stack (k : Nat) (x : PortUnit) : (s.setPort k x).stack = s.stack := rfl
@[simp] theorem State.setPort_ext (k : Nat) (x : PortUnit) : (s.setPort k x).ext = s.ext := rfl
@[simp] theorem State.setPort_valid (k : Nat) (x : PortUnit) : (s.setPort k x).valid = s.valid := rfl
@[simp] theorem State.setPort_writebacks (k : Nat) (x : PortUnit) : (s.setPort k x).writebacks = s.writebacks := rfl
@[simp] theorem State.setPort_walkers (k : Nat) (x : PortUnit) : (s.setPort k x).walkers = s.walkers := rfl
@[simp] theorem State.setPort_allots (k : Nat) (x : PortUnit) : (s.setPort k x).allots = s.allots := rfl
@[simp] theorem State.setPort_cache (k : Nat) (x : PortUnit) : (s.setPort k x).cache = s.cache := rfl
@[simp] theorem State.setPort_images (k : Nat) (x : PortUnit) : (s.setPort k x).images = s.images := rfl
@[simp] theorem State.setPort_models (k : Nat) (x : PortUnit) : (s.setPort k x).models = s.models := rfl
@[simp] theorem State.setPort_pins (k : Nat) (x : PortUnit) : (s.setPort k x).pins = s.pins := rfl
@[simp] theorem State.setPort_regions (k : Nat) (x : PortUnit) : (s.setPort k x).regions = s.regions := rfl
@[simp] theorem State.setPort_arrays (k : Nat) (x : PortUnit) : (s.setPort k x).arrays = s.arrays := rfl
@[simp] theorem State.setPort_vectors (k : Nat) (x : PortUnit) : (s.setPort k x).vectors = s.vectors := rfl
@[simp] theorem State.setPort_shunters (k : Nat) (x : PortUnit) : (s.setPort k x).shunters = s.shunters := rfl
@[simp] theorem State.setPort_topks (k : Nat) (x : PortUnit) : (s.setPort k x).topks = s.topks := rfl
@[simp] theorem State.setPort_refusals (k : Nat) (x : PortUnit) : (s.setPort k x).refusals = s.refusals := rfl
@[simp] theorem State.setPort_taken (k : Nat) (x : PortUnit) : (s.setPort k x).taken = s.taken := rfl
@[simp] theorem State.setPort_arrivals (k : Nat) (x : PortUnit) : (s.setPort k x).arrivals = s.arrivals := rfl
@[simp] theorem State.setPort_slots (k : Nat) (x : PortUnit) : (s.setPort k x).slots = s.slots := rfl
@[simp] theorem State.setPort_extBusy (k : Nat) (x : PortUnit) : (s.setPort k x).extBusy = s.extBusy := rfl
@[simp] theorem State.setPort_extOpen (k : Nat) (x : PortUnit) : (s.setPort k x).extOpen = s.extOpen := rfl
@[simp] theorem State.setPort_tables (k : Nat) (x : PortUnit) : (s.setPort k x).tables = s.tables := rfl
@[simp] theorem State.setPort_ctxs (k : Nat) (x : PortUnit) : (s.setPort k x).ctxs = s.ctxs := rfl
@[simp] theorem State.setPort_ghosts (k : Nat) (x : PortUnit) : (s.setPort k x).ghosts = s.ghosts := rfl
@[simp] theorem State.setPort_tgts (k : Nat) (x : PortUnit) : (s.setPort k x).tgts = s.tgts := rfl
@[simp] theorem State.setPort_kept (k : Nat) (x : PortUnit) : (s.setPort k x).kept = s.kept := rfl
@[simp] theorem State.setPort_incs (k : Nat) (x : PortUnit) : (s.setPort k x).incs = s.incs := rfl
@[simp] theorem State.setPort_jobs (k : Nat) (x : PortUnit) : (s.setPort k x).jobs = s.jobs := rfl
@[simp] theorem State.setPort_parts (k : Nat) (x : PortUnit) : (s.setPort k x).parts = s.parts := rfl
@[simp] theorem State.setPort_hub (k : Nat) (x : PortUnit) : (s.setPort k x).hub = s.hub := rfl
@[simp] theorem State.setPort_hubOps (k : Nat) (x : PortUnit) : (s.setPort k x).hubOps = s.hubOps := rfl
@[simp] theorem State.setPort_hubWaits (k : Nat) (x : PortUnit) : (s.setPort k x).hubWaits = s.hubWaits := rfl
@[simp] theorem State.setPort_laneSigs (k : Nat) (x : PortUnit) : (s.setPort k x).laneSigs = s.laneSigs := rfl
@[simp] theorem State.setPort_linkUse (k : Nat) (x : PortUnit) : (s.setPort k x).linkUse = s.linkUse := rfl
@[simp] theorem State.setPort_banks (k : Nat) (x : PortUnit) : (s.setPort k x).banks = s.banks := rfl
@[simp] theorem State.setPort_ifes (k : Nat) (x : PortUnit) : (s.setPort k x).ifes = s.ifes := rfl
@[simp] theorem State.setPort_intakes (k : Nat) (x : PortUnit) : (s.setPort k x).intakes = s.intakes := rfl
@[simp] theorem State.setPort_engines (k : Nat) (x : PortUnit) : (s.setPort k x).engines = s.engines := rfl
@[simp] theorem State.setPort_lastIntake (k : Nat) (x : PortUnit) : (s.setPort k x).lastIntake = s.lastIntake := rfl
@[simp] theorem State.setPort_kbRest (k : Nat) (x : PortUnit) : (s.setPort k x).kbRest = s.kbRest := rfl
@[simp] theorem State.setPort_alignC (k : Nat) (x : PortUnit) : (s.setPort k x).alignC = s.alignC := rfl
@[simp] theorem State.setPort_alignS (k : Nat) (x : PortUnit) : (s.setPort k x).alignS = s.alignS := rfl
@[simp] theorem State.setPort_power (k : Nat) (x : PortUnit) : (s.setPort k x).power = s.power := rfl
@[simp] theorem State.setPort_limits (k : Nat) (x : PortUnit) : (s.setPort k x).limits = s.limits := rfl
@[simp] theorem State.setPort_fuses (k : Nat) (x : PortUnit) : (s.setPort k x).fuses = s.fuses := rfl
@[simp] theorem State.setPort_flash (k : Nat) (x : PortUnit) : (s.setPort k x).flash = s.flash := rfl
@[simp] theorem State.setPort_tap (k : Nat) (x : PortUnit) : (s.setPort k x).tap = s.tap := rfl
@[simp] theorem State.setPort_imgFrom (k : Nat) (x : PortUnit) : (s.setPort k x).imgFrom = s.imgFrom := rfl
@[simp] theorem State.setPort_barrier (k : Nat) (x : PortUnit) : (s.setPort k x).barrier = s.barrier := rfl
@[simp] theorem State.setPort_hsp (k : Nat) (x : PortUnit) : (s.setPort k x).hsp = s.hsp := rfl
@[simp] theorem State.setPort_ec (k : Nat) (x : PortUnit) : (s.setPort k x).ec = s.ec := rfl
@[simp] theorem State.setPort_launches (k : Nat) (x : PortUnit) : (s.setPort k x).launches = s.launches := rfl
@[simp] theorem State.setPort_evOverflow (k : Nat) (x : PortUnit) : (s.setPort k x).evOverflow = s.evOverflow := rfl
@[simp] theorem State.setPort_reg (k : Nat) (x : PortUnit) (j : Nat) : (s.setPort k x).reg j = s.reg j := rfl

/-! setScc -/

@[simp] theorem State.setScc_time (k : Nat) (x : SccUnit) : (s.setScc k x).time = s.time := rfl
@[simp] theorem State.setScc_grade (k : Nat) (x : SccUnit) : (s.setScc k x).grade = s.grade := rfl
@[simp] theorem State.setScc_pending (k : Nat) (x : SccUnit) : (s.setScc k x).pending = s.pending := rfl
@[simp] theorem State.setScc_later (k : Nat) (x : SccUnit) : (s.setScc k x).later = s.later := rfl
@[simp] theorem State.setScc_regs (k : Nat) (x : SccUnit) : (s.setScc k x).regs = s.regs := rfl
@[simp] theorem State.setScc_doms (k : Nat) (x : SccUnit) : (s.setScc k x).doms = s.doms := rfl
@[simp] theorem State.setScc_freeCount (k : Nat) (x : SccUnit) : (s.setScc k x).freeCount = s.freeCount := rfl
@[simp] theorem State.setScc_holdoffs (k : Nat) (x : SccUnit) : (s.setScc k x).holdoffs = s.holdoffs := rfl
@[simp] theorem State.setScc_events (k : Nat) (x : SccUnit) : (s.setScc k x).events = s.events := rfl
@[simp] theorem State.setScc_emergencies (k : Nat) (x : SccUnit) : (s.setScc k x).emergencies = s.emergencies := rfl
@[simp] theorem State.setScc_encs (k : Nat) (x : SccUnit) : (s.setScc k x).encs = s.encs := rfl
@[simp] theorem State.setScc_domains (k : Nat) (x : SccUnit) : (s.setScc k x).domains = s.domains := rfl
@[simp] theorem State.setScc_trigs (k : Nat) (x : SccUnit) : (s.setScc k x).trigs = s.trigs := rfl
@[simp] theorem State.setScc_wins (k : Nat) (x : SccUnit) : (s.setScc k x).wins = s.wins := rfl
@[simp] theorem State.setScc_timers (k : Nat) (x : SccUnit) : (s.setScc k x).timers = s.timers := rfl
@[simp] theorem State.setScc_cmps (k : Nat) (x : SccUnit) : (s.setScc k x).cmps = s.cmps := rfl
@[simp] theorem State.setScc_slackAt (k : Nat) (x : SccUnit) : (s.setScc k x).slackAt = s.slackAt := rfl
@[simp] theorem State.setScc_groups (k : Nat) (x : SccUnit) : (s.setScc k x).groups = s.groups := rfl
@[simp] theorem State.setScc_chans (k : Nat) (x : SccUnit) : (s.setScc k x).chans = s.chans := rfl
@[simp] theorem State.setScc_pdQueue (k : Nat) (x : SccUnit) : (s.setScc k x).pdQueue = s.pdQueue := rfl
@[simp] theorem State.setScc_pdNext (k : Nat) (x : SccUnit) : (s.setScc k x).pdNext = s.pdNext := rfl
@[simp] theorem State.setScc_pdVeto (k : Nat) (x : SccUnit) : (s.setScc k x).pdVeto = s.pdVeto := rfl
@[simp] theorem State.setScc_netQueue (k : Nat) (x : SccUnit) : (s.setScc k x).netQueue = s.netQueue := rfl
@[simp] theorem State.setScc_netNext (k : Nat) (x : SccUnit) : (s.setScc k x).netNext = s.netNext := rfl
@[simp] theorem State.setScc_field (k : Nat) (x : SccUnit) : (s.setScc k x).field = s.field := rfl
@[simp] theorem State.setScc_ports (k : Nat) (x : SccUnit) : (s.setScc k x).ports = s.ports := rfl
@[simp] theorem State.setScc_nets (k : Nat) (x : SccUnit) : (s.setScc k x).nets = s.nets := rfl
@[simp] theorem State.setScc_ptp (k : Nat) (x : SccUnit) : (s.setScc k x).ptp = s.ptp := rfl
@[simp] theorem State.setScc_ts (k : Nat) (x : SccUnit) : (s.setScc k x).ts = s.ts := rfl
@[simp] theorem State.setScc_acc (k : Nat) (x : SccUnit) : (s.setScc k x).acc = s.acc := rfl
@[simp] theorem State.setScc_stack (k : Nat) (x : SccUnit) : (s.setScc k x).stack = s.stack := rfl
@[simp] theorem State.setScc_ext (k : Nat) (x : SccUnit) : (s.setScc k x).ext = s.ext := rfl
@[simp] theorem State.setScc_valid (k : Nat) (x : SccUnit) : (s.setScc k x).valid = s.valid := rfl
@[simp] theorem State.setScc_writebacks (k : Nat) (x : SccUnit) : (s.setScc k x).writebacks = s.writebacks := rfl
@[simp] theorem State.setScc_walkers (k : Nat) (x : SccUnit) : (s.setScc k x).walkers = s.walkers := rfl
@[simp] theorem State.setScc_allots (k : Nat) (x : SccUnit) : (s.setScc k x).allots = s.allots := rfl
@[simp] theorem State.setScc_cache (k : Nat) (x : SccUnit) : (s.setScc k x).cache = s.cache := rfl
@[simp] theorem State.setScc_images (k : Nat) (x : SccUnit) : (s.setScc k x).images = s.images := rfl
@[simp] theorem State.setScc_models (k : Nat) (x : SccUnit) : (s.setScc k x).models = s.models := rfl
@[simp] theorem State.setScc_pins (k : Nat) (x : SccUnit) : (s.setScc k x).pins = s.pins := rfl
@[simp] theorem State.setScc_regions (k : Nat) (x : SccUnit) : (s.setScc k x).regions = s.regions := rfl
@[simp] theorem State.setScc_arrays (k : Nat) (x : SccUnit) : (s.setScc k x).arrays = s.arrays := rfl
@[simp] theorem State.setScc_vectors (k : Nat) (x : SccUnit) : (s.setScc k x).vectors = s.vectors := rfl
@[simp] theorem State.setScc_shunters (k : Nat) (x : SccUnit) : (s.setScc k x).shunters = s.shunters := rfl
@[simp] theorem State.setScc_topks (k : Nat) (x : SccUnit) : (s.setScc k x).topks = s.topks := rfl
@[simp] theorem State.setScc_refusals (k : Nat) (x : SccUnit) : (s.setScc k x).refusals = s.refusals := rfl
@[simp] theorem State.setScc_taken (k : Nat) (x : SccUnit) : (s.setScc k x).taken = s.taken := rfl
@[simp] theorem State.setScc_arrivals (k : Nat) (x : SccUnit) : (s.setScc k x).arrivals = s.arrivals := rfl
@[simp] theorem State.setScc_slots (k : Nat) (x : SccUnit) : (s.setScc k x).slots = s.slots := rfl
@[simp] theorem State.setScc_extBusy (k : Nat) (x : SccUnit) : (s.setScc k x).extBusy = s.extBusy := rfl
@[simp] theorem State.setScc_extOpen (k : Nat) (x : SccUnit) : (s.setScc k x).extOpen = s.extOpen := rfl
@[simp] theorem State.setScc_tables (k : Nat) (x : SccUnit) : (s.setScc k x).tables = s.tables := rfl
@[simp] theorem State.setScc_ctxs (k : Nat) (x : SccUnit) : (s.setScc k x).ctxs = s.ctxs := rfl
@[simp] theorem State.setScc_ghosts (k : Nat) (x : SccUnit) : (s.setScc k x).ghosts = s.ghosts := rfl
@[simp] theorem State.setScc_tgts (k : Nat) (x : SccUnit) : (s.setScc k x).tgts = s.tgts := rfl
@[simp] theorem State.setScc_kept (k : Nat) (x : SccUnit) : (s.setScc k x).kept = s.kept := rfl
@[simp] theorem State.setScc_incs (k : Nat) (x : SccUnit) : (s.setScc k x).incs = s.incs := rfl
@[simp] theorem State.setScc_jobs (k : Nat) (x : SccUnit) : (s.setScc k x).jobs = s.jobs := rfl
@[simp] theorem State.setScc_parts (k : Nat) (x : SccUnit) : (s.setScc k x).parts = s.parts := rfl
@[simp] theorem State.setScc_hub (k : Nat) (x : SccUnit) : (s.setScc k x).hub = s.hub := rfl
@[simp] theorem State.setScc_hubOps (k : Nat) (x : SccUnit) : (s.setScc k x).hubOps = s.hubOps := rfl
@[simp] theorem State.setScc_hubWaits (k : Nat) (x : SccUnit) : (s.setScc k x).hubWaits = s.hubWaits := rfl
@[simp] theorem State.setScc_laneSigs (k : Nat) (x : SccUnit) : (s.setScc k x).laneSigs = s.laneSigs := rfl
@[simp] theorem State.setScc_linkUse (k : Nat) (x : SccUnit) : (s.setScc k x).linkUse = s.linkUse := rfl
@[simp] theorem State.setScc_banks (k : Nat) (x : SccUnit) : (s.setScc k x).banks = s.banks := rfl
@[simp] theorem State.setScc_ifes (k : Nat) (x : SccUnit) : (s.setScc k x).ifes = s.ifes := rfl
@[simp] theorem State.setScc_intakes (k : Nat) (x : SccUnit) : (s.setScc k x).intakes = s.intakes := rfl
@[simp] theorem State.setScc_engines (k : Nat) (x : SccUnit) : (s.setScc k x).engines = s.engines := rfl
@[simp] theorem State.setScc_lastIntake (k : Nat) (x : SccUnit) : (s.setScc k x).lastIntake = s.lastIntake := rfl
@[simp] theorem State.setScc_kbRest (k : Nat) (x : SccUnit) : (s.setScc k x).kbRest = s.kbRest := rfl
@[simp] theorem State.setScc_alignC (k : Nat) (x : SccUnit) : (s.setScc k x).alignC = s.alignC := rfl
@[simp] theorem State.setScc_alignS (k : Nat) (x : SccUnit) : (s.setScc k x).alignS = s.alignS := rfl
@[simp] theorem State.setScc_power (k : Nat) (x : SccUnit) : (s.setScc k x).power = s.power := rfl
@[simp] theorem State.setScc_limits (k : Nat) (x : SccUnit) : (s.setScc k x).limits = s.limits := rfl
@[simp] theorem State.setScc_fuses (k : Nat) (x : SccUnit) : (s.setScc k x).fuses = s.fuses := rfl
@[simp] theorem State.setScc_flash (k : Nat) (x : SccUnit) : (s.setScc k x).flash = s.flash := rfl
@[simp] theorem State.setScc_tap (k : Nat) (x : SccUnit) : (s.setScc k x).tap = s.tap := rfl
@[simp] theorem State.setScc_imgFrom (k : Nat) (x : SccUnit) : (s.setScc k x).imgFrom = s.imgFrom := rfl
@[simp] theorem State.setScc_barrier (k : Nat) (x : SccUnit) : (s.setScc k x).barrier = s.barrier := rfl
@[simp] theorem State.setScc_hsp (k : Nat) (x : SccUnit) : (s.setScc k x).hsp = s.hsp := rfl
@[simp] theorem State.setScc_ec (k : Nat) (x : SccUnit) : (s.setScc k x).ec = s.ec := rfl
@[simp] theorem State.setScc_launches (k : Nat) (x : SccUnit) : (s.setScc k x).launches = s.launches := rfl
@[simp] theorem State.setScc_evOverflow (k : Nat) (x : SccUnit) : (s.setScc k x).evOverflow = s.evOverflow := rfl
@[simp] theorem State.setScc_reg (k : Nat) (x : SccUnit) (j : Nat) : (s.setScc k x).reg j = s.reg j := rfl

/-! setNet -/

@[simp] theorem State.setNet_time (k : Nat) (x : NetUnit) : (s.setNet k x).time = s.time := rfl
@[simp] theorem State.setNet_grade (k : Nat) (x : NetUnit) : (s.setNet k x).grade = s.grade := rfl
@[simp] theorem State.setNet_pending (k : Nat) (x : NetUnit) : (s.setNet k x).pending = s.pending := rfl
@[simp] theorem State.setNet_later (k : Nat) (x : NetUnit) : (s.setNet k x).later = s.later := rfl
@[simp] theorem State.setNet_regs (k : Nat) (x : NetUnit) : (s.setNet k x).regs = s.regs := rfl
@[simp] theorem State.setNet_doms (k : Nat) (x : NetUnit) : (s.setNet k x).doms = s.doms := rfl
@[simp] theorem State.setNet_freeCount (k : Nat) (x : NetUnit) : (s.setNet k x).freeCount = s.freeCount := rfl
@[simp] theorem State.setNet_holdoffs (k : Nat) (x : NetUnit) : (s.setNet k x).holdoffs = s.holdoffs := rfl
@[simp] theorem State.setNet_events (k : Nat) (x : NetUnit) : (s.setNet k x).events = s.events := rfl
@[simp] theorem State.setNet_emergencies (k : Nat) (x : NetUnit) : (s.setNet k x).emergencies = s.emergencies := rfl
@[simp] theorem State.setNet_encs (k : Nat) (x : NetUnit) : (s.setNet k x).encs = s.encs := rfl
@[simp] theorem State.setNet_domains (k : Nat) (x : NetUnit) : (s.setNet k x).domains = s.domains := rfl
@[simp] theorem State.setNet_trigs (k : Nat) (x : NetUnit) : (s.setNet k x).trigs = s.trigs := rfl
@[simp] theorem State.setNet_wins (k : Nat) (x : NetUnit) : (s.setNet k x).wins = s.wins := rfl
@[simp] theorem State.setNet_timers (k : Nat) (x : NetUnit) : (s.setNet k x).timers = s.timers := rfl
@[simp] theorem State.setNet_cmps (k : Nat) (x : NetUnit) : (s.setNet k x).cmps = s.cmps := rfl
@[simp] theorem State.setNet_slackAt (k : Nat) (x : NetUnit) : (s.setNet k x).slackAt = s.slackAt := rfl
@[simp] theorem State.setNet_groups (k : Nat) (x : NetUnit) : (s.setNet k x).groups = s.groups := rfl
@[simp] theorem State.setNet_chans (k : Nat) (x : NetUnit) : (s.setNet k x).chans = s.chans := rfl
@[simp] theorem State.setNet_pdQueue (k : Nat) (x : NetUnit) : (s.setNet k x).pdQueue = s.pdQueue := rfl
@[simp] theorem State.setNet_pdNext (k : Nat) (x : NetUnit) : (s.setNet k x).pdNext = s.pdNext := rfl
@[simp] theorem State.setNet_pdVeto (k : Nat) (x : NetUnit) : (s.setNet k x).pdVeto = s.pdVeto := rfl
@[simp] theorem State.setNet_netQueue (k : Nat) (x : NetUnit) : (s.setNet k x).netQueue = s.netQueue := rfl
@[simp] theorem State.setNet_netNext (k : Nat) (x : NetUnit) : (s.setNet k x).netNext = s.netNext := rfl
@[simp] theorem State.setNet_field (k : Nat) (x : NetUnit) : (s.setNet k x).field = s.field := rfl
@[simp] theorem State.setNet_ports (k : Nat) (x : NetUnit) : (s.setNet k x).ports = s.ports := rfl
@[simp] theorem State.setNet_sccs (k : Nat) (x : NetUnit) : (s.setNet k x).sccs = s.sccs := rfl
@[simp] theorem State.setNet_ptp (k : Nat) (x : NetUnit) : (s.setNet k x).ptp = s.ptp := rfl
@[simp] theorem State.setNet_ts (k : Nat) (x : NetUnit) : (s.setNet k x).ts = s.ts := rfl
@[simp] theorem State.setNet_acc (k : Nat) (x : NetUnit) : (s.setNet k x).acc = s.acc := rfl
@[simp] theorem State.setNet_stack (k : Nat) (x : NetUnit) : (s.setNet k x).stack = s.stack := rfl
@[simp] theorem State.setNet_ext (k : Nat) (x : NetUnit) : (s.setNet k x).ext = s.ext := rfl
@[simp] theorem State.setNet_valid (k : Nat) (x : NetUnit) : (s.setNet k x).valid = s.valid := rfl
@[simp] theorem State.setNet_writebacks (k : Nat) (x : NetUnit) : (s.setNet k x).writebacks = s.writebacks := rfl
@[simp] theorem State.setNet_walkers (k : Nat) (x : NetUnit) : (s.setNet k x).walkers = s.walkers := rfl
@[simp] theorem State.setNet_allots (k : Nat) (x : NetUnit) : (s.setNet k x).allots = s.allots := rfl
@[simp] theorem State.setNet_cache (k : Nat) (x : NetUnit) : (s.setNet k x).cache = s.cache := rfl
@[simp] theorem State.setNet_images (k : Nat) (x : NetUnit) : (s.setNet k x).images = s.images := rfl
@[simp] theorem State.setNet_models (k : Nat) (x : NetUnit) : (s.setNet k x).models = s.models := rfl
@[simp] theorem State.setNet_pins (k : Nat) (x : NetUnit) : (s.setNet k x).pins = s.pins := rfl
@[simp] theorem State.setNet_regions (k : Nat) (x : NetUnit) : (s.setNet k x).regions = s.regions := rfl
@[simp] theorem State.setNet_arrays (k : Nat) (x : NetUnit) : (s.setNet k x).arrays = s.arrays := rfl
@[simp] theorem State.setNet_vectors (k : Nat) (x : NetUnit) : (s.setNet k x).vectors = s.vectors := rfl
@[simp] theorem State.setNet_shunters (k : Nat) (x : NetUnit) : (s.setNet k x).shunters = s.shunters := rfl
@[simp] theorem State.setNet_topks (k : Nat) (x : NetUnit) : (s.setNet k x).topks = s.topks := rfl
@[simp] theorem State.setNet_refusals (k : Nat) (x : NetUnit) : (s.setNet k x).refusals = s.refusals := rfl
@[simp] theorem State.setNet_taken (k : Nat) (x : NetUnit) : (s.setNet k x).taken = s.taken := rfl
@[simp] theorem State.setNet_arrivals (k : Nat) (x : NetUnit) : (s.setNet k x).arrivals = s.arrivals := rfl
@[simp] theorem State.setNet_slots (k : Nat) (x : NetUnit) : (s.setNet k x).slots = s.slots := rfl
@[simp] theorem State.setNet_extBusy (k : Nat) (x : NetUnit) : (s.setNet k x).extBusy = s.extBusy := rfl
@[simp] theorem State.setNet_extOpen (k : Nat) (x : NetUnit) : (s.setNet k x).extOpen = s.extOpen := rfl
@[simp] theorem State.setNet_tables (k : Nat) (x : NetUnit) : (s.setNet k x).tables = s.tables := rfl
@[simp] theorem State.setNet_ctxs (k : Nat) (x : NetUnit) : (s.setNet k x).ctxs = s.ctxs := rfl
@[simp] theorem State.setNet_ghosts (k : Nat) (x : NetUnit) : (s.setNet k x).ghosts = s.ghosts := rfl
@[simp] theorem State.setNet_tgts (k : Nat) (x : NetUnit) : (s.setNet k x).tgts = s.tgts := rfl
@[simp] theorem State.setNet_kept (k : Nat) (x : NetUnit) : (s.setNet k x).kept = s.kept := rfl
@[simp] theorem State.setNet_incs (k : Nat) (x : NetUnit) : (s.setNet k x).incs = s.incs := rfl
@[simp] theorem State.setNet_jobs (k : Nat) (x : NetUnit) : (s.setNet k x).jobs = s.jobs := rfl
@[simp] theorem State.setNet_parts (k : Nat) (x : NetUnit) : (s.setNet k x).parts = s.parts := rfl
@[simp] theorem State.setNet_hub (k : Nat) (x : NetUnit) : (s.setNet k x).hub = s.hub := rfl
@[simp] theorem State.setNet_hubOps (k : Nat) (x : NetUnit) : (s.setNet k x).hubOps = s.hubOps := rfl
@[simp] theorem State.setNet_hubWaits (k : Nat) (x : NetUnit) : (s.setNet k x).hubWaits = s.hubWaits := rfl
@[simp] theorem State.setNet_laneSigs (k : Nat) (x : NetUnit) : (s.setNet k x).laneSigs = s.laneSigs := rfl
@[simp] theorem State.setNet_linkUse (k : Nat) (x : NetUnit) : (s.setNet k x).linkUse = s.linkUse := rfl
@[simp] theorem State.setNet_banks (k : Nat) (x : NetUnit) : (s.setNet k x).banks = s.banks := rfl
@[simp] theorem State.setNet_ifes (k : Nat) (x : NetUnit) : (s.setNet k x).ifes = s.ifes := rfl
@[simp] theorem State.setNet_intakes (k : Nat) (x : NetUnit) : (s.setNet k x).intakes = s.intakes := rfl
@[simp] theorem State.setNet_engines (k : Nat) (x : NetUnit) : (s.setNet k x).engines = s.engines := rfl
@[simp] theorem State.setNet_lastIntake (k : Nat) (x : NetUnit) : (s.setNet k x).lastIntake = s.lastIntake := rfl
@[simp] theorem State.setNet_kbRest (k : Nat) (x : NetUnit) : (s.setNet k x).kbRest = s.kbRest := rfl
@[simp] theorem State.setNet_alignC (k : Nat) (x : NetUnit) : (s.setNet k x).alignC = s.alignC := rfl
@[simp] theorem State.setNet_alignS (k : Nat) (x : NetUnit) : (s.setNet k x).alignS = s.alignS := rfl
@[simp] theorem State.setNet_power (k : Nat) (x : NetUnit) : (s.setNet k x).power = s.power := rfl
@[simp] theorem State.setNet_limits (k : Nat) (x : NetUnit) : (s.setNet k x).limits = s.limits := rfl
@[simp] theorem State.setNet_fuses (k : Nat) (x : NetUnit) : (s.setNet k x).fuses = s.fuses := rfl
@[simp] theorem State.setNet_flash (k : Nat) (x : NetUnit) : (s.setNet k x).flash = s.flash := rfl
@[simp] theorem State.setNet_tap (k : Nat) (x : NetUnit) : (s.setNet k x).tap = s.tap := rfl
@[simp] theorem State.setNet_imgFrom (k : Nat) (x : NetUnit) : (s.setNet k x).imgFrom = s.imgFrom := rfl
@[simp] theorem State.setNet_barrier (k : Nat) (x : NetUnit) : (s.setNet k x).barrier = s.barrier := rfl
@[simp] theorem State.setNet_hsp (k : Nat) (x : NetUnit) : (s.setNet k x).hsp = s.hsp := rfl
@[simp] theorem State.setNet_ec (k : Nat) (x : NetUnit) : (s.setNet k x).ec = s.ec := rfl
@[simp] theorem State.setNet_launches (k : Nat) (x : NetUnit) : (s.setNet k x).launches = s.launches := rfl
@[simp] theorem State.setNet_evOverflow (k : Nat) (x : NetUnit) : (s.setNet k x).evOverflow = s.evOverflow := rfl
@[simp] theorem State.setNet_reg (k : Nat) (x : NetUnit) (j : Nat) : (s.setNet k x).reg j = s.reg j := rfl

/-! setJob -/

@[simp] theorem State.setJob_time (k : Nat) (x : JobUnit) : (s.setJob k x).time = s.time := rfl
@[simp] theorem State.setJob_grade (k : Nat) (x : JobUnit) : (s.setJob k x).grade = s.grade := rfl
@[simp] theorem State.setJob_pending (k : Nat) (x : JobUnit) : (s.setJob k x).pending = s.pending := rfl
@[simp] theorem State.setJob_later (k : Nat) (x : JobUnit) : (s.setJob k x).later = s.later := rfl
@[simp] theorem State.setJob_regs (k : Nat) (x : JobUnit) : (s.setJob k x).regs = s.regs := rfl
@[simp] theorem State.setJob_doms (k : Nat) (x : JobUnit) : (s.setJob k x).doms = s.doms := rfl
@[simp] theorem State.setJob_freeCount (k : Nat) (x : JobUnit) : (s.setJob k x).freeCount = s.freeCount := rfl
@[simp] theorem State.setJob_holdoffs (k : Nat) (x : JobUnit) : (s.setJob k x).holdoffs = s.holdoffs := rfl
@[simp] theorem State.setJob_events (k : Nat) (x : JobUnit) : (s.setJob k x).events = s.events := rfl
@[simp] theorem State.setJob_emergencies (k : Nat) (x : JobUnit) : (s.setJob k x).emergencies = s.emergencies := rfl
@[simp] theorem State.setJob_encs (k : Nat) (x : JobUnit) : (s.setJob k x).encs = s.encs := rfl
@[simp] theorem State.setJob_domains (k : Nat) (x : JobUnit) : (s.setJob k x).domains = s.domains := rfl
@[simp] theorem State.setJob_trigs (k : Nat) (x : JobUnit) : (s.setJob k x).trigs = s.trigs := rfl
@[simp] theorem State.setJob_wins (k : Nat) (x : JobUnit) : (s.setJob k x).wins = s.wins := rfl
@[simp] theorem State.setJob_timers (k : Nat) (x : JobUnit) : (s.setJob k x).timers = s.timers := rfl
@[simp] theorem State.setJob_cmps (k : Nat) (x : JobUnit) : (s.setJob k x).cmps = s.cmps := rfl
@[simp] theorem State.setJob_slackAt (k : Nat) (x : JobUnit) : (s.setJob k x).slackAt = s.slackAt := rfl
@[simp] theorem State.setJob_groups (k : Nat) (x : JobUnit) : (s.setJob k x).groups = s.groups := rfl
@[simp] theorem State.setJob_chans (k : Nat) (x : JobUnit) : (s.setJob k x).chans = s.chans := rfl
@[simp] theorem State.setJob_pdQueue (k : Nat) (x : JobUnit) : (s.setJob k x).pdQueue = s.pdQueue := rfl
@[simp] theorem State.setJob_pdNext (k : Nat) (x : JobUnit) : (s.setJob k x).pdNext = s.pdNext := rfl
@[simp] theorem State.setJob_pdVeto (k : Nat) (x : JobUnit) : (s.setJob k x).pdVeto = s.pdVeto := rfl
@[simp] theorem State.setJob_netQueue (k : Nat) (x : JobUnit) : (s.setJob k x).netQueue = s.netQueue := rfl
@[simp] theorem State.setJob_netNext (k : Nat) (x : JobUnit) : (s.setJob k x).netNext = s.netNext := rfl
@[simp] theorem State.setJob_field (k : Nat) (x : JobUnit) : (s.setJob k x).field = s.field := rfl
@[simp] theorem State.setJob_ports (k : Nat) (x : JobUnit) : (s.setJob k x).ports = s.ports := rfl
@[simp] theorem State.setJob_sccs (k : Nat) (x : JobUnit) : (s.setJob k x).sccs = s.sccs := rfl
@[simp] theorem State.setJob_nets (k : Nat) (x : JobUnit) : (s.setJob k x).nets = s.nets := rfl
@[simp] theorem State.setJob_ptp (k : Nat) (x : JobUnit) : (s.setJob k x).ptp = s.ptp := rfl
@[simp] theorem State.setJob_ts (k : Nat) (x : JobUnit) : (s.setJob k x).ts = s.ts := rfl
@[simp] theorem State.setJob_acc (k : Nat) (x : JobUnit) : (s.setJob k x).acc = s.acc := rfl
@[simp] theorem State.setJob_stack (k : Nat) (x : JobUnit) : (s.setJob k x).stack = s.stack := rfl
@[simp] theorem State.setJob_ext (k : Nat) (x : JobUnit) : (s.setJob k x).ext = s.ext := rfl
@[simp] theorem State.setJob_valid (k : Nat) (x : JobUnit) : (s.setJob k x).valid = s.valid := rfl
@[simp] theorem State.setJob_writebacks (k : Nat) (x : JobUnit) : (s.setJob k x).writebacks = s.writebacks := rfl
@[simp] theorem State.setJob_walkers (k : Nat) (x : JobUnit) : (s.setJob k x).walkers = s.walkers := rfl
@[simp] theorem State.setJob_allots (k : Nat) (x : JobUnit) : (s.setJob k x).allots = s.allots := rfl
@[simp] theorem State.setJob_cache (k : Nat) (x : JobUnit) : (s.setJob k x).cache = s.cache := rfl
@[simp] theorem State.setJob_images (k : Nat) (x : JobUnit) : (s.setJob k x).images = s.images := rfl
@[simp] theorem State.setJob_models (k : Nat) (x : JobUnit) : (s.setJob k x).models = s.models := rfl
@[simp] theorem State.setJob_pins (k : Nat) (x : JobUnit) : (s.setJob k x).pins = s.pins := rfl
@[simp] theorem State.setJob_regions (k : Nat) (x : JobUnit) : (s.setJob k x).regions = s.regions := rfl
@[simp] theorem State.setJob_arrays (k : Nat) (x : JobUnit) : (s.setJob k x).arrays = s.arrays := rfl
@[simp] theorem State.setJob_vectors (k : Nat) (x : JobUnit) : (s.setJob k x).vectors = s.vectors := rfl
@[simp] theorem State.setJob_shunters (k : Nat) (x : JobUnit) : (s.setJob k x).shunters = s.shunters := rfl
@[simp] theorem State.setJob_topks (k : Nat) (x : JobUnit) : (s.setJob k x).topks = s.topks := rfl
@[simp] theorem State.setJob_refusals (k : Nat) (x : JobUnit) : (s.setJob k x).refusals = s.refusals := rfl
@[simp] theorem State.setJob_taken (k : Nat) (x : JobUnit) : (s.setJob k x).taken = s.taken := rfl
@[simp] theorem State.setJob_arrivals (k : Nat) (x : JobUnit) : (s.setJob k x).arrivals = s.arrivals := rfl
@[simp] theorem State.setJob_slots (k : Nat) (x : JobUnit) : (s.setJob k x).slots = s.slots := rfl
@[simp] theorem State.setJob_extBusy (k : Nat) (x : JobUnit) : (s.setJob k x).extBusy = s.extBusy := rfl
@[simp] theorem State.setJob_extOpen (k : Nat) (x : JobUnit) : (s.setJob k x).extOpen = s.extOpen := rfl
@[simp] theorem State.setJob_tables (k : Nat) (x : JobUnit) : (s.setJob k x).tables = s.tables := rfl
@[simp] theorem State.setJob_ctxs (k : Nat) (x : JobUnit) : (s.setJob k x).ctxs = s.ctxs := rfl
@[simp] theorem State.setJob_ghosts (k : Nat) (x : JobUnit) : (s.setJob k x).ghosts = s.ghosts := rfl
@[simp] theorem State.setJob_tgts (k : Nat) (x : JobUnit) : (s.setJob k x).tgts = s.tgts := rfl
@[simp] theorem State.setJob_kept (k : Nat) (x : JobUnit) : (s.setJob k x).kept = s.kept := rfl
@[simp] theorem State.setJob_incs (k : Nat) (x : JobUnit) : (s.setJob k x).incs = s.incs := rfl
@[simp] theorem State.setJob_parts (k : Nat) (x : JobUnit) : (s.setJob k x).parts = s.parts := rfl
@[simp] theorem State.setJob_hub (k : Nat) (x : JobUnit) : (s.setJob k x).hub = s.hub := rfl
@[simp] theorem State.setJob_hubOps (k : Nat) (x : JobUnit) : (s.setJob k x).hubOps = s.hubOps := rfl
@[simp] theorem State.setJob_hubWaits (k : Nat) (x : JobUnit) : (s.setJob k x).hubWaits = s.hubWaits := rfl
@[simp] theorem State.setJob_laneSigs (k : Nat) (x : JobUnit) : (s.setJob k x).laneSigs = s.laneSigs := rfl
@[simp] theorem State.setJob_linkUse (k : Nat) (x : JobUnit) : (s.setJob k x).linkUse = s.linkUse := rfl
@[simp] theorem State.setJob_banks (k : Nat) (x : JobUnit) : (s.setJob k x).banks = s.banks := rfl
@[simp] theorem State.setJob_ifes (k : Nat) (x : JobUnit) : (s.setJob k x).ifes = s.ifes := rfl
@[simp] theorem State.setJob_intakes (k : Nat) (x : JobUnit) : (s.setJob k x).intakes = s.intakes := rfl
@[simp] theorem State.setJob_engines (k : Nat) (x : JobUnit) : (s.setJob k x).engines = s.engines := rfl
@[simp] theorem State.setJob_lastIntake (k : Nat) (x : JobUnit) : (s.setJob k x).lastIntake = s.lastIntake := rfl
@[simp] theorem State.setJob_kbRest (k : Nat) (x : JobUnit) : (s.setJob k x).kbRest = s.kbRest := rfl
@[simp] theorem State.setJob_alignC (k : Nat) (x : JobUnit) : (s.setJob k x).alignC = s.alignC := rfl
@[simp] theorem State.setJob_alignS (k : Nat) (x : JobUnit) : (s.setJob k x).alignS = s.alignS := rfl
@[simp] theorem State.setJob_power (k : Nat) (x : JobUnit) : (s.setJob k x).power = s.power := rfl
@[simp] theorem State.setJob_limits (k : Nat) (x : JobUnit) : (s.setJob k x).limits = s.limits := rfl
@[simp] theorem State.setJob_fuses (k : Nat) (x : JobUnit) : (s.setJob k x).fuses = s.fuses := rfl
@[simp] theorem State.setJob_flash (k : Nat) (x : JobUnit) : (s.setJob k x).flash = s.flash := rfl
@[simp] theorem State.setJob_tap (k : Nat) (x : JobUnit) : (s.setJob k x).tap = s.tap := rfl
@[simp] theorem State.setJob_imgFrom (k : Nat) (x : JobUnit) : (s.setJob k x).imgFrom = s.imgFrom := rfl
@[simp] theorem State.setJob_barrier (k : Nat) (x : JobUnit) : (s.setJob k x).barrier = s.barrier := rfl
@[simp] theorem State.setJob_hsp (k : Nat) (x : JobUnit) : (s.setJob k x).hsp = s.hsp := rfl
@[simp] theorem State.setJob_ec (k : Nat) (x : JobUnit) : (s.setJob k x).ec = s.ec := rfl
@[simp] theorem State.setJob_launches (k : Nat) (x : JobUnit) : (s.setJob k x).launches = s.launches := rfl
@[simp] theorem State.setJob_evOverflow (k : Nat) (x : JobUnit) : (s.setJob k x).evOverflow = s.evOverflow := rfl
@[simp] theorem State.setJob_reg (k : Nat) (x : JobUnit) (j : Nat) : (s.setJob k x).reg j = s.reg j := rfl

/-! setIntake -/

@[simp] theorem State.setIntake_time (k : Nat) (x : IntakeUnit) : (s.setIntake k x).time = s.time := rfl
@[simp] theorem State.setIntake_grade (k : Nat) (x : IntakeUnit) : (s.setIntake k x).grade = s.grade := rfl
@[simp] theorem State.setIntake_pending (k : Nat) (x : IntakeUnit) : (s.setIntake k x).pending = s.pending := rfl
@[simp] theorem State.setIntake_later (k : Nat) (x : IntakeUnit) : (s.setIntake k x).later = s.later := rfl
@[simp] theorem State.setIntake_regs (k : Nat) (x : IntakeUnit) : (s.setIntake k x).regs = s.regs := rfl
@[simp] theorem State.setIntake_doms (k : Nat) (x : IntakeUnit) : (s.setIntake k x).doms = s.doms := rfl
@[simp] theorem State.setIntake_freeCount (k : Nat) (x : IntakeUnit) : (s.setIntake k x).freeCount = s.freeCount := rfl
@[simp] theorem State.setIntake_holdoffs (k : Nat) (x : IntakeUnit) : (s.setIntake k x).holdoffs = s.holdoffs := rfl
@[simp] theorem State.setIntake_events (k : Nat) (x : IntakeUnit) : (s.setIntake k x).events = s.events := rfl
@[simp] theorem State.setIntake_emergencies (k : Nat) (x : IntakeUnit) : (s.setIntake k x).emergencies = s.emergencies := rfl
@[simp] theorem State.setIntake_encs (k : Nat) (x : IntakeUnit) : (s.setIntake k x).encs = s.encs := rfl
@[simp] theorem State.setIntake_domains (k : Nat) (x : IntakeUnit) : (s.setIntake k x).domains = s.domains := rfl
@[simp] theorem State.setIntake_trigs (k : Nat) (x : IntakeUnit) : (s.setIntake k x).trigs = s.trigs := rfl
@[simp] theorem State.setIntake_wins (k : Nat) (x : IntakeUnit) : (s.setIntake k x).wins = s.wins := rfl
@[simp] theorem State.setIntake_timers (k : Nat) (x : IntakeUnit) : (s.setIntake k x).timers = s.timers := rfl
@[simp] theorem State.setIntake_cmps (k : Nat) (x : IntakeUnit) : (s.setIntake k x).cmps = s.cmps := rfl
@[simp] theorem State.setIntake_slackAt (k : Nat) (x : IntakeUnit) : (s.setIntake k x).slackAt = s.slackAt := rfl
@[simp] theorem State.setIntake_groups (k : Nat) (x : IntakeUnit) : (s.setIntake k x).groups = s.groups := rfl
@[simp] theorem State.setIntake_chans (k : Nat) (x : IntakeUnit) : (s.setIntake k x).chans = s.chans := rfl
@[simp] theorem State.setIntake_pdQueue (k : Nat) (x : IntakeUnit) : (s.setIntake k x).pdQueue = s.pdQueue := rfl
@[simp] theorem State.setIntake_pdNext (k : Nat) (x : IntakeUnit) : (s.setIntake k x).pdNext = s.pdNext := rfl
@[simp] theorem State.setIntake_pdVeto (k : Nat) (x : IntakeUnit) : (s.setIntake k x).pdVeto = s.pdVeto := rfl
@[simp] theorem State.setIntake_netQueue (k : Nat) (x : IntakeUnit) : (s.setIntake k x).netQueue = s.netQueue := rfl
@[simp] theorem State.setIntake_netNext (k : Nat) (x : IntakeUnit) : (s.setIntake k x).netNext = s.netNext := rfl
@[simp] theorem State.setIntake_field (k : Nat) (x : IntakeUnit) : (s.setIntake k x).field = s.field := rfl
@[simp] theorem State.setIntake_ports (k : Nat) (x : IntakeUnit) : (s.setIntake k x).ports = s.ports := rfl
@[simp] theorem State.setIntake_sccs (k : Nat) (x : IntakeUnit) : (s.setIntake k x).sccs = s.sccs := rfl
@[simp] theorem State.setIntake_nets (k : Nat) (x : IntakeUnit) : (s.setIntake k x).nets = s.nets := rfl
@[simp] theorem State.setIntake_ptp (k : Nat) (x : IntakeUnit) : (s.setIntake k x).ptp = s.ptp := rfl
@[simp] theorem State.setIntake_ts (k : Nat) (x : IntakeUnit) : (s.setIntake k x).ts = s.ts := rfl
@[simp] theorem State.setIntake_acc (k : Nat) (x : IntakeUnit) : (s.setIntake k x).acc = s.acc := rfl
@[simp] theorem State.setIntake_stack (k : Nat) (x : IntakeUnit) : (s.setIntake k x).stack = s.stack := rfl
@[simp] theorem State.setIntake_ext (k : Nat) (x : IntakeUnit) : (s.setIntake k x).ext = s.ext := rfl
@[simp] theorem State.setIntake_valid (k : Nat) (x : IntakeUnit) : (s.setIntake k x).valid = s.valid := rfl
@[simp] theorem State.setIntake_writebacks (k : Nat) (x : IntakeUnit) : (s.setIntake k x).writebacks = s.writebacks := rfl
@[simp] theorem State.setIntake_walkers (k : Nat) (x : IntakeUnit) : (s.setIntake k x).walkers = s.walkers := rfl
@[simp] theorem State.setIntake_allots (k : Nat) (x : IntakeUnit) : (s.setIntake k x).allots = s.allots := rfl
@[simp] theorem State.setIntake_cache (k : Nat) (x : IntakeUnit) : (s.setIntake k x).cache = s.cache := rfl
@[simp] theorem State.setIntake_images (k : Nat) (x : IntakeUnit) : (s.setIntake k x).images = s.images := rfl
@[simp] theorem State.setIntake_models (k : Nat) (x : IntakeUnit) : (s.setIntake k x).models = s.models := rfl
@[simp] theorem State.setIntake_pins (k : Nat) (x : IntakeUnit) : (s.setIntake k x).pins = s.pins := rfl
@[simp] theorem State.setIntake_regions (k : Nat) (x : IntakeUnit) : (s.setIntake k x).regions = s.regions := rfl
@[simp] theorem State.setIntake_arrays (k : Nat) (x : IntakeUnit) : (s.setIntake k x).arrays = s.arrays := rfl
@[simp] theorem State.setIntake_vectors (k : Nat) (x : IntakeUnit) : (s.setIntake k x).vectors = s.vectors := rfl
@[simp] theorem State.setIntake_shunters (k : Nat) (x : IntakeUnit) : (s.setIntake k x).shunters = s.shunters := rfl
@[simp] theorem State.setIntake_topks (k : Nat) (x : IntakeUnit) : (s.setIntake k x).topks = s.topks := rfl
@[simp] theorem State.setIntake_refusals (k : Nat) (x : IntakeUnit) : (s.setIntake k x).refusals = s.refusals := rfl
@[simp] theorem State.setIntake_taken (k : Nat) (x : IntakeUnit) : (s.setIntake k x).taken = s.taken := rfl
@[simp] theorem State.setIntake_arrivals (k : Nat) (x : IntakeUnit) : (s.setIntake k x).arrivals = s.arrivals := rfl
@[simp] theorem State.setIntake_slots (k : Nat) (x : IntakeUnit) : (s.setIntake k x).slots = s.slots := rfl
@[simp] theorem State.setIntake_extBusy (k : Nat) (x : IntakeUnit) : (s.setIntake k x).extBusy = s.extBusy := rfl
@[simp] theorem State.setIntake_extOpen (k : Nat) (x : IntakeUnit) : (s.setIntake k x).extOpen = s.extOpen := rfl
@[simp] theorem State.setIntake_tables (k : Nat) (x : IntakeUnit) : (s.setIntake k x).tables = s.tables := rfl
@[simp] theorem State.setIntake_ctxs (k : Nat) (x : IntakeUnit) : (s.setIntake k x).ctxs = s.ctxs := rfl
@[simp] theorem State.setIntake_ghosts (k : Nat) (x : IntakeUnit) : (s.setIntake k x).ghosts = s.ghosts := rfl
@[simp] theorem State.setIntake_tgts (k : Nat) (x : IntakeUnit) : (s.setIntake k x).tgts = s.tgts := rfl
@[simp] theorem State.setIntake_kept (k : Nat) (x : IntakeUnit) : (s.setIntake k x).kept = s.kept := rfl
@[simp] theorem State.setIntake_incs (k : Nat) (x : IntakeUnit) : (s.setIntake k x).incs = s.incs := rfl
@[simp] theorem State.setIntake_jobs (k : Nat) (x : IntakeUnit) : (s.setIntake k x).jobs = s.jobs := rfl
@[simp] theorem State.setIntake_parts (k : Nat) (x : IntakeUnit) : (s.setIntake k x).parts = s.parts := rfl
@[simp] theorem State.setIntake_hub (k : Nat) (x : IntakeUnit) : (s.setIntake k x).hub = s.hub := rfl
@[simp] theorem State.setIntake_hubOps (k : Nat) (x : IntakeUnit) : (s.setIntake k x).hubOps = s.hubOps := rfl
@[simp] theorem State.setIntake_hubWaits (k : Nat) (x : IntakeUnit) : (s.setIntake k x).hubWaits = s.hubWaits := rfl
@[simp] theorem State.setIntake_laneSigs (k : Nat) (x : IntakeUnit) : (s.setIntake k x).laneSigs = s.laneSigs := rfl
@[simp] theorem State.setIntake_linkUse (k : Nat) (x : IntakeUnit) : (s.setIntake k x).linkUse = s.linkUse := rfl
@[simp] theorem State.setIntake_banks (k : Nat) (x : IntakeUnit) : (s.setIntake k x).banks = s.banks := rfl
@[simp] theorem State.setIntake_ifes (k : Nat) (x : IntakeUnit) : (s.setIntake k x).ifes = s.ifes := rfl
@[simp] theorem State.setIntake_engines (k : Nat) (x : IntakeUnit) : (s.setIntake k x).engines = s.engines := rfl
@[simp] theorem State.setIntake_lastIntake (k : Nat) (x : IntakeUnit) : (s.setIntake k x).lastIntake = s.lastIntake := rfl
@[simp] theorem State.setIntake_kbRest (k : Nat) (x : IntakeUnit) : (s.setIntake k x).kbRest = s.kbRest := rfl
@[simp] theorem State.setIntake_alignC (k : Nat) (x : IntakeUnit) : (s.setIntake k x).alignC = s.alignC := rfl
@[simp] theorem State.setIntake_alignS (k : Nat) (x : IntakeUnit) : (s.setIntake k x).alignS = s.alignS := rfl
@[simp] theorem State.setIntake_power (k : Nat) (x : IntakeUnit) : (s.setIntake k x).power = s.power := rfl
@[simp] theorem State.setIntake_limits (k : Nat) (x : IntakeUnit) : (s.setIntake k x).limits = s.limits := rfl
@[simp] theorem State.setIntake_fuses (k : Nat) (x : IntakeUnit) : (s.setIntake k x).fuses = s.fuses := rfl
@[simp] theorem State.setIntake_flash (k : Nat) (x : IntakeUnit) : (s.setIntake k x).flash = s.flash := rfl
@[simp] theorem State.setIntake_tap (k : Nat) (x : IntakeUnit) : (s.setIntake k x).tap = s.tap := rfl
@[simp] theorem State.setIntake_imgFrom (k : Nat) (x : IntakeUnit) : (s.setIntake k x).imgFrom = s.imgFrom := rfl
@[simp] theorem State.setIntake_barrier (k : Nat) (x : IntakeUnit) : (s.setIntake k x).barrier = s.barrier := rfl
@[simp] theorem State.setIntake_hsp (k : Nat) (x : IntakeUnit) : (s.setIntake k x).hsp = s.hsp := rfl
@[simp] theorem State.setIntake_ec (k : Nat) (x : IntakeUnit) : (s.setIntake k x).ec = s.ec := rfl
@[simp] theorem State.setIntake_launches (k : Nat) (x : IntakeUnit) : (s.setIntake k x).launches = s.launches := rfl
@[simp] theorem State.setIntake_evOverflow (k : Nat) (x : IntakeUnit) : (s.setIntake k x).evOverflow = s.evOverflow := rfl
@[simp] theorem State.setIntake_reg (k : Nat) (x : IntakeUnit) (j : Nat) : (s.setIntake k x).reg j = s.reg j := rfl

/-! setBank -/

@[simp] theorem State.setBank_time (k : Nat) (x : BankUnit) : (s.setBank k x).time = s.time := rfl
@[simp] theorem State.setBank_grade (k : Nat) (x : BankUnit) : (s.setBank k x).grade = s.grade := rfl
@[simp] theorem State.setBank_pending (k : Nat) (x : BankUnit) : (s.setBank k x).pending = s.pending := rfl
@[simp] theorem State.setBank_later (k : Nat) (x : BankUnit) : (s.setBank k x).later = s.later := rfl
@[simp] theorem State.setBank_regs (k : Nat) (x : BankUnit) : (s.setBank k x).regs = s.regs := rfl
@[simp] theorem State.setBank_doms (k : Nat) (x : BankUnit) : (s.setBank k x).doms = s.doms := rfl
@[simp] theorem State.setBank_freeCount (k : Nat) (x : BankUnit) : (s.setBank k x).freeCount = s.freeCount := rfl
@[simp] theorem State.setBank_holdoffs (k : Nat) (x : BankUnit) : (s.setBank k x).holdoffs = s.holdoffs := rfl
@[simp] theorem State.setBank_events (k : Nat) (x : BankUnit) : (s.setBank k x).events = s.events := rfl
@[simp] theorem State.setBank_emergencies (k : Nat) (x : BankUnit) : (s.setBank k x).emergencies = s.emergencies := rfl
@[simp] theorem State.setBank_encs (k : Nat) (x : BankUnit) : (s.setBank k x).encs = s.encs := rfl
@[simp] theorem State.setBank_domains (k : Nat) (x : BankUnit) : (s.setBank k x).domains = s.domains := rfl
@[simp] theorem State.setBank_trigs (k : Nat) (x : BankUnit) : (s.setBank k x).trigs = s.trigs := rfl
@[simp] theorem State.setBank_wins (k : Nat) (x : BankUnit) : (s.setBank k x).wins = s.wins := rfl
@[simp] theorem State.setBank_timers (k : Nat) (x : BankUnit) : (s.setBank k x).timers = s.timers := rfl
@[simp] theorem State.setBank_cmps (k : Nat) (x : BankUnit) : (s.setBank k x).cmps = s.cmps := rfl
@[simp] theorem State.setBank_slackAt (k : Nat) (x : BankUnit) : (s.setBank k x).slackAt = s.slackAt := rfl
@[simp] theorem State.setBank_groups (k : Nat) (x : BankUnit) : (s.setBank k x).groups = s.groups := rfl
@[simp] theorem State.setBank_chans (k : Nat) (x : BankUnit) : (s.setBank k x).chans = s.chans := rfl
@[simp] theorem State.setBank_pdQueue (k : Nat) (x : BankUnit) : (s.setBank k x).pdQueue = s.pdQueue := rfl
@[simp] theorem State.setBank_pdNext (k : Nat) (x : BankUnit) : (s.setBank k x).pdNext = s.pdNext := rfl
@[simp] theorem State.setBank_pdVeto (k : Nat) (x : BankUnit) : (s.setBank k x).pdVeto = s.pdVeto := rfl
@[simp] theorem State.setBank_netQueue (k : Nat) (x : BankUnit) : (s.setBank k x).netQueue = s.netQueue := rfl
@[simp] theorem State.setBank_netNext (k : Nat) (x : BankUnit) : (s.setBank k x).netNext = s.netNext := rfl
@[simp] theorem State.setBank_field (k : Nat) (x : BankUnit) : (s.setBank k x).field = s.field := rfl
@[simp] theorem State.setBank_ports (k : Nat) (x : BankUnit) : (s.setBank k x).ports = s.ports := rfl
@[simp] theorem State.setBank_sccs (k : Nat) (x : BankUnit) : (s.setBank k x).sccs = s.sccs := rfl
@[simp] theorem State.setBank_nets (k : Nat) (x : BankUnit) : (s.setBank k x).nets = s.nets := rfl
@[simp] theorem State.setBank_ptp (k : Nat) (x : BankUnit) : (s.setBank k x).ptp = s.ptp := rfl
@[simp] theorem State.setBank_ts (k : Nat) (x : BankUnit) : (s.setBank k x).ts = s.ts := rfl
@[simp] theorem State.setBank_acc (k : Nat) (x : BankUnit) : (s.setBank k x).acc = s.acc := rfl
@[simp] theorem State.setBank_stack (k : Nat) (x : BankUnit) : (s.setBank k x).stack = s.stack := rfl
@[simp] theorem State.setBank_ext (k : Nat) (x : BankUnit) : (s.setBank k x).ext = s.ext := rfl
@[simp] theorem State.setBank_valid (k : Nat) (x : BankUnit) : (s.setBank k x).valid = s.valid := rfl
@[simp] theorem State.setBank_writebacks (k : Nat) (x : BankUnit) : (s.setBank k x).writebacks = s.writebacks := rfl
@[simp] theorem State.setBank_walkers (k : Nat) (x : BankUnit) : (s.setBank k x).walkers = s.walkers := rfl
@[simp] theorem State.setBank_allots (k : Nat) (x : BankUnit) : (s.setBank k x).allots = s.allots := rfl
@[simp] theorem State.setBank_cache (k : Nat) (x : BankUnit) : (s.setBank k x).cache = s.cache := rfl
@[simp] theorem State.setBank_images (k : Nat) (x : BankUnit) : (s.setBank k x).images = s.images := rfl
@[simp] theorem State.setBank_models (k : Nat) (x : BankUnit) : (s.setBank k x).models = s.models := rfl
@[simp] theorem State.setBank_pins (k : Nat) (x : BankUnit) : (s.setBank k x).pins = s.pins := rfl
@[simp] theorem State.setBank_regions (k : Nat) (x : BankUnit) : (s.setBank k x).regions = s.regions := rfl
@[simp] theorem State.setBank_arrays (k : Nat) (x : BankUnit) : (s.setBank k x).arrays = s.arrays := rfl
@[simp] theorem State.setBank_vectors (k : Nat) (x : BankUnit) : (s.setBank k x).vectors = s.vectors := rfl
@[simp] theorem State.setBank_shunters (k : Nat) (x : BankUnit) : (s.setBank k x).shunters = s.shunters := rfl
@[simp] theorem State.setBank_topks (k : Nat) (x : BankUnit) : (s.setBank k x).topks = s.topks := rfl
@[simp] theorem State.setBank_refusals (k : Nat) (x : BankUnit) : (s.setBank k x).refusals = s.refusals := rfl
@[simp] theorem State.setBank_taken (k : Nat) (x : BankUnit) : (s.setBank k x).taken = s.taken := rfl
@[simp] theorem State.setBank_arrivals (k : Nat) (x : BankUnit) : (s.setBank k x).arrivals = s.arrivals := rfl
@[simp] theorem State.setBank_slots (k : Nat) (x : BankUnit) : (s.setBank k x).slots = s.slots := rfl
@[simp] theorem State.setBank_extBusy (k : Nat) (x : BankUnit) : (s.setBank k x).extBusy = s.extBusy := rfl
@[simp] theorem State.setBank_extOpen (k : Nat) (x : BankUnit) : (s.setBank k x).extOpen = s.extOpen := rfl
@[simp] theorem State.setBank_tables (k : Nat) (x : BankUnit) : (s.setBank k x).tables = s.tables := rfl
@[simp] theorem State.setBank_ctxs (k : Nat) (x : BankUnit) : (s.setBank k x).ctxs = s.ctxs := rfl
@[simp] theorem State.setBank_ghosts (k : Nat) (x : BankUnit) : (s.setBank k x).ghosts = s.ghosts := rfl
@[simp] theorem State.setBank_tgts (k : Nat) (x : BankUnit) : (s.setBank k x).tgts = s.tgts := rfl
@[simp] theorem State.setBank_kept (k : Nat) (x : BankUnit) : (s.setBank k x).kept = s.kept := rfl
@[simp] theorem State.setBank_incs (k : Nat) (x : BankUnit) : (s.setBank k x).incs = s.incs := rfl
@[simp] theorem State.setBank_jobs (k : Nat) (x : BankUnit) : (s.setBank k x).jobs = s.jobs := rfl
@[simp] theorem State.setBank_parts (k : Nat) (x : BankUnit) : (s.setBank k x).parts = s.parts := rfl
@[simp] theorem State.setBank_hub (k : Nat) (x : BankUnit) : (s.setBank k x).hub = s.hub := rfl
@[simp] theorem State.setBank_hubOps (k : Nat) (x : BankUnit) : (s.setBank k x).hubOps = s.hubOps := rfl
@[simp] theorem State.setBank_hubWaits (k : Nat) (x : BankUnit) : (s.setBank k x).hubWaits = s.hubWaits := rfl
@[simp] theorem State.setBank_laneSigs (k : Nat) (x : BankUnit) : (s.setBank k x).laneSigs = s.laneSigs := rfl
@[simp] theorem State.setBank_linkUse (k : Nat) (x : BankUnit) : (s.setBank k x).linkUse = s.linkUse := rfl
@[simp] theorem State.setBank_ifes (k : Nat) (x : BankUnit) : (s.setBank k x).ifes = s.ifes := rfl
@[simp] theorem State.setBank_intakes (k : Nat) (x : BankUnit) : (s.setBank k x).intakes = s.intakes := rfl
@[simp] theorem State.setBank_engines (k : Nat) (x : BankUnit) : (s.setBank k x).engines = s.engines := rfl
@[simp] theorem State.setBank_lastIntake (k : Nat) (x : BankUnit) : (s.setBank k x).lastIntake = s.lastIntake := rfl
@[simp] theorem State.setBank_kbRest (k : Nat) (x : BankUnit) : (s.setBank k x).kbRest = s.kbRest := rfl
@[simp] theorem State.setBank_alignC (k : Nat) (x : BankUnit) : (s.setBank k x).alignC = s.alignC := rfl
@[simp] theorem State.setBank_alignS (k : Nat) (x : BankUnit) : (s.setBank k x).alignS = s.alignS := rfl
@[simp] theorem State.setBank_power (k : Nat) (x : BankUnit) : (s.setBank k x).power = s.power := rfl
@[simp] theorem State.setBank_limits (k : Nat) (x : BankUnit) : (s.setBank k x).limits = s.limits := rfl
@[simp] theorem State.setBank_fuses (k : Nat) (x : BankUnit) : (s.setBank k x).fuses = s.fuses := rfl
@[simp] theorem State.setBank_flash (k : Nat) (x : BankUnit) : (s.setBank k x).flash = s.flash := rfl
@[simp] theorem State.setBank_tap (k : Nat) (x : BankUnit) : (s.setBank k x).tap = s.tap := rfl
@[simp] theorem State.setBank_imgFrom (k : Nat) (x : BankUnit) : (s.setBank k x).imgFrom = s.imgFrom := rfl
@[simp] theorem State.setBank_barrier (k : Nat) (x : BankUnit) : (s.setBank k x).barrier = s.barrier := rfl
@[simp] theorem State.setBank_hsp (k : Nat) (x : BankUnit) : (s.setBank k x).hsp = s.hsp := rfl
@[simp] theorem State.setBank_ec (k : Nat) (x : BankUnit) : (s.setBank k x).ec = s.ec := rfl
@[simp] theorem State.setBank_launches (k : Nat) (x : BankUnit) : (s.setBank k x).launches = s.launches := rfl
@[simp] theorem State.setBank_evOverflow (k : Nat) (x : BankUnit) : (s.setBank k x).evOverflow = s.evOverflow := rfl
@[simp] theorem State.setBank_reg (k : Nat) (x : BankUnit) (j : Nat) : (s.setBank k x).reg j = s.reg j := rfl

/-! setCtx -/

@[simp] theorem State.setCtx_time (k : Nat) (x : Ctx) : (s.setCtx k x).time = s.time := rfl
@[simp] theorem State.setCtx_grade (k : Nat) (x : Ctx) : (s.setCtx k x).grade = s.grade := rfl
@[simp] theorem State.setCtx_pending (k : Nat) (x : Ctx) : (s.setCtx k x).pending = s.pending := rfl
@[simp] theorem State.setCtx_later (k : Nat) (x : Ctx) : (s.setCtx k x).later = s.later := rfl
@[simp] theorem State.setCtx_regs (k : Nat) (x : Ctx) : (s.setCtx k x).regs = s.regs := rfl
@[simp] theorem State.setCtx_doms (k : Nat) (x : Ctx) : (s.setCtx k x).doms = s.doms := rfl
@[simp] theorem State.setCtx_freeCount (k : Nat) (x : Ctx) : (s.setCtx k x).freeCount = s.freeCount := rfl
@[simp] theorem State.setCtx_holdoffs (k : Nat) (x : Ctx) : (s.setCtx k x).holdoffs = s.holdoffs := rfl
@[simp] theorem State.setCtx_events (k : Nat) (x : Ctx) : (s.setCtx k x).events = s.events := rfl
@[simp] theorem State.setCtx_emergencies (k : Nat) (x : Ctx) : (s.setCtx k x).emergencies = s.emergencies := rfl
@[simp] theorem State.setCtx_encs (k : Nat) (x : Ctx) : (s.setCtx k x).encs = s.encs := rfl
@[simp] theorem State.setCtx_domains (k : Nat) (x : Ctx) : (s.setCtx k x).domains = s.domains := rfl
@[simp] theorem State.setCtx_trigs (k : Nat) (x : Ctx) : (s.setCtx k x).trigs = s.trigs := rfl
@[simp] theorem State.setCtx_wins (k : Nat) (x : Ctx) : (s.setCtx k x).wins = s.wins := rfl
@[simp] theorem State.setCtx_timers (k : Nat) (x : Ctx) : (s.setCtx k x).timers = s.timers := rfl
@[simp] theorem State.setCtx_cmps (k : Nat) (x : Ctx) : (s.setCtx k x).cmps = s.cmps := rfl
@[simp] theorem State.setCtx_slackAt (k : Nat) (x : Ctx) : (s.setCtx k x).slackAt = s.slackAt := rfl
@[simp] theorem State.setCtx_groups (k : Nat) (x : Ctx) : (s.setCtx k x).groups = s.groups := rfl
@[simp] theorem State.setCtx_chans (k : Nat) (x : Ctx) : (s.setCtx k x).chans = s.chans := rfl
@[simp] theorem State.setCtx_pdQueue (k : Nat) (x : Ctx) : (s.setCtx k x).pdQueue = s.pdQueue := rfl
@[simp] theorem State.setCtx_pdNext (k : Nat) (x : Ctx) : (s.setCtx k x).pdNext = s.pdNext := rfl
@[simp] theorem State.setCtx_pdVeto (k : Nat) (x : Ctx) : (s.setCtx k x).pdVeto = s.pdVeto := rfl
@[simp] theorem State.setCtx_netQueue (k : Nat) (x : Ctx) : (s.setCtx k x).netQueue = s.netQueue := rfl
@[simp] theorem State.setCtx_netNext (k : Nat) (x : Ctx) : (s.setCtx k x).netNext = s.netNext := rfl
@[simp] theorem State.setCtx_field (k : Nat) (x : Ctx) : (s.setCtx k x).field = s.field := rfl
@[simp] theorem State.setCtx_ports (k : Nat) (x : Ctx) : (s.setCtx k x).ports = s.ports := rfl
@[simp] theorem State.setCtx_sccs (k : Nat) (x : Ctx) : (s.setCtx k x).sccs = s.sccs := rfl
@[simp] theorem State.setCtx_nets (k : Nat) (x : Ctx) : (s.setCtx k x).nets = s.nets := rfl
@[simp] theorem State.setCtx_ptp (k : Nat) (x : Ctx) : (s.setCtx k x).ptp = s.ptp := rfl
@[simp] theorem State.setCtx_ts (k : Nat) (x : Ctx) : (s.setCtx k x).ts = s.ts := rfl
@[simp] theorem State.setCtx_acc (k : Nat) (x : Ctx) : (s.setCtx k x).acc = s.acc := rfl
@[simp] theorem State.setCtx_stack (k : Nat) (x : Ctx) : (s.setCtx k x).stack = s.stack := rfl
@[simp] theorem State.setCtx_ext (k : Nat) (x : Ctx) : (s.setCtx k x).ext = s.ext := rfl
@[simp] theorem State.setCtx_valid (k : Nat) (x : Ctx) : (s.setCtx k x).valid = s.valid := rfl
@[simp] theorem State.setCtx_writebacks (k : Nat) (x : Ctx) : (s.setCtx k x).writebacks = s.writebacks := rfl
@[simp] theorem State.setCtx_walkers (k : Nat) (x : Ctx) : (s.setCtx k x).walkers = s.walkers := rfl
@[simp] theorem State.setCtx_allots (k : Nat) (x : Ctx) : (s.setCtx k x).allots = s.allots := rfl
@[simp] theorem State.setCtx_cache (k : Nat) (x : Ctx) : (s.setCtx k x).cache = s.cache := rfl
@[simp] theorem State.setCtx_images (k : Nat) (x : Ctx) : (s.setCtx k x).images = s.images := rfl
@[simp] theorem State.setCtx_models (k : Nat) (x : Ctx) : (s.setCtx k x).models = s.models := rfl
@[simp] theorem State.setCtx_pins (k : Nat) (x : Ctx) : (s.setCtx k x).pins = s.pins := rfl
@[simp] theorem State.setCtx_regions (k : Nat) (x : Ctx) : (s.setCtx k x).regions = s.regions := rfl
@[simp] theorem State.setCtx_arrays (k : Nat) (x : Ctx) : (s.setCtx k x).arrays = s.arrays := rfl
@[simp] theorem State.setCtx_vectors (k : Nat) (x : Ctx) : (s.setCtx k x).vectors = s.vectors := rfl
@[simp] theorem State.setCtx_shunters (k : Nat) (x : Ctx) : (s.setCtx k x).shunters = s.shunters := rfl
@[simp] theorem State.setCtx_topks (k : Nat) (x : Ctx) : (s.setCtx k x).topks = s.topks := rfl
@[simp] theorem State.setCtx_refusals (k : Nat) (x : Ctx) : (s.setCtx k x).refusals = s.refusals := rfl
@[simp] theorem State.setCtx_taken (k : Nat) (x : Ctx) : (s.setCtx k x).taken = s.taken := rfl
@[simp] theorem State.setCtx_arrivals (k : Nat) (x : Ctx) : (s.setCtx k x).arrivals = s.arrivals := rfl
@[simp] theorem State.setCtx_slots (k : Nat) (x : Ctx) : (s.setCtx k x).slots = s.slots := rfl
@[simp] theorem State.setCtx_extBusy (k : Nat) (x : Ctx) : (s.setCtx k x).extBusy = s.extBusy := rfl
@[simp] theorem State.setCtx_extOpen (k : Nat) (x : Ctx) : (s.setCtx k x).extOpen = s.extOpen := rfl
@[simp] theorem State.setCtx_tables (k : Nat) (x : Ctx) : (s.setCtx k x).tables = s.tables := rfl
@[simp] theorem State.setCtx_ghosts (k : Nat) (x : Ctx) : (s.setCtx k x).ghosts = s.ghosts := rfl
@[simp] theorem State.setCtx_tgts (k : Nat) (x : Ctx) : (s.setCtx k x).tgts = s.tgts := rfl
@[simp] theorem State.setCtx_kept (k : Nat) (x : Ctx) : (s.setCtx k x).kept = s.kept := rfl
@[simp] theorem State.setCtx_incs (k : Nat) (x : Ctx) : (s.setCtx k x).incs = s.incs := rfl
@[simp] theorem State.setCtx_jobs (k : Nat) (x : Ctx) : (s.setCtx k x).jobs = s.jobs := rfl
@[simp] theorem State.setCtx_parts (k : Nat) (x : Ctx) : (s.setCtx k x).parts = s.parts := rfl
@[simp] theorem State.setCtx_hub (k : Nat) (x : Ctx) : (s.setCtx k x).hub = s.hub := rfl
@[simp] theorem State.setCtx_hubOps (k : Nat) (x : Ctx) : (s.setCtx k x).hubOps = s.hubOps := rfl
@[simp] theorem State.setCtx_hubWaits (k : Nat) (x : Ctx) : (s.setCtx k x).hubWaits = s.hubWaits := rfl
@[simp] theorem State.setCtx_laneSigs (k : Nat) (x : Ctx) : (s.setCtx k x).laneSigs = s.laneSigs := rfl
@[simp] theorem State.setCtx_linkUse (k : Nat) (x : Ctx) : (s.setCtx k x).linkUse = s.linkUse := rfl
@[simp] theorem State.setCtx_banks (k : Nat) (x : Ctx) : (s.setCtx k x).banks = s.banks := rfl
@[simp] theorem State.setCtx_ifes (k : Nat) (x : Ctx) : (s.setCtx k x).ifes = s.ifes := rfl
@[simp] theorem State.setCtx_intakes (k : Nat) (x : Ctx) : (s.setCtx k x).intakes = s.intakes := rfl
@[simp] theorem State.setCtx_engines (k : Nat) (x : Ctx) : (s.setCtx k x).engines = s.engines := rfl
@[simp] theorem State.setCtx_lastIntake (k : Nat) (x : Ctx) : (s.setCtx k x).lastIntake = s.lastIntake := rfl
@[simp] theorem State.setCtx_kbRest (k : Nat) (x : Ctx) : (s.setCtx k x).kbRest = s.kbRest := rfl
@[simp] theorem State.setCtx_alignC (k : Nat) (x : Ctx) : (s.setCtx k x).alignC = s.alignC := rfl
@[simp] theorem State.setCtx_alignS (k : Nat) (x : Ctx) : (s.setCtx k x).alignS = s.alignS := rfl
@[simp] theorem State.setCtx_power (k : Nat) (x : Ctx) : (s.setCtx k x).power = s.power := rfl
@[simp] theorem State.setCtx_limits (k : Nat) (x : Ctx) : (s.setCtx k x).limits = s.limits := rfl
@[simp] theorem State.setCtx_fuses (k : Nat) (x : Ctx) : (s.setCtx k x).fuses = s.fuses := rfl
@[simp] theorem State.setCtx_flash (k : Nat) (x : Ctx) : (s.setCtx k x).flash = s.flash := rfl
@[simp] theorem State.setCtx_tap (k : Nat) (x : Ctx) : (s.setCtx k x).tap = s.tap := rfl
@[simp] theorem State.setCtx_imgFrom (k : Nat) (x : Ctx) : (s.setCtx k x).imgFrom = s.imgFrom := rfl
@[simp] theorem State.setCtx_barrier (k : Nat) (x : Ctx) : (s.setCtx k x).barrier = s.barrier := rfl
@[simp] theorem State.setCtx_hsp (k : Nat) (x : Ctx) : (s.setCtx k x).hsp = s.hsp := rfl
@[simp] theorem State.setCtx_ec (k : Nat) (x : Ctx) : (s.setCtx k x).ec = s.ec := rfl
@[simp] theorem State.setCtx_launches (k : Nat) (x : Ctx) : (s.setCtx k x).launches = s.launches := rfl
@[simp] theorem State.setCtx_evOverflow (k : Nat) (x : Ctx) : (s.setCtx k x).evOverflow = s.evOverflow := rfl
@[simp] theorem State.setCtx_reg (k : Nat) (x : Ctx) (j : Nat) : (s.setCtx k x).reg j = s.reg j := rfl

/-! setHsp -/

@[simp] theorem State.setHsp_time (h : HspUnit) : (s.setHsp h).time = s.time := rfl
@[simp] theorem State.setHsp_grade (h : HspUnit) : (s.setHsp h).grade = s.grade := rfl
@[simp] theorem State.setHsp_pending (h : HspUnit) : (s.setHsp h).pending = s.pending := rfl
@[simp] theorem State.setHsp_later (h : HspUnit) : (s.setHsp h).later = s.later := rfl
@[simp] theorem State.setHsp_regs (h : HspUnit) : (s.setHsp h).regs = s.regs := rfl
@[simp] theorem State.setHsp_doms (h : HspUnit) : (s.setHsp h).doms = s.doms := rfl
@[simp] theorem State.setHsp_freeCount (h : HspUnit) : (s.setHsp h).freeCount = s.freeCount := rfl
@[simp] theorem State.setHsp_holdoffs (h : HspUnit) : (s.setHsp h).holdoffs = s.holdoffs := rfl
@[simp] theorem State.setHsp_events (h : HspUnit) : (s.setHsp h).events = s.events := rfl
@[simp] theorem State.setHsp_emergencies (h : HspUnit) : (s.setHsp h).emergencies = s.emergencies := rfl
@[simp] theorem State.setHsp_encs (h : HspUnit) : (s.setHsp h).encs = s.encs := rfl
@[simp] theorem State.setHsp_domains (h : HspUnit) : (s.setHsp h).domains = s.domains := rfl
@[simp] theorem State.setHsp_trigs (h : HspUnit) : (s.setHsp h).trigs = s.trigs := rfl
@[simp] theorem State.setHsp_wins (h : HspUnit) : (s.setHsp h).wins = s.wins := rfl
@[simp] theorem State.setHsp_timers (h : HspUnit) : (s.setHsp h).timers = s.timers := rfl
@[simp] theorem State.setHsp_cmps (h : HspUnit) : (s.setHsp h).cmps = s.cmps := rfl
@[simp] theorem State.setHsp_slackAt (h : HspUnit) : (s.setHsp h).slackAt = s.slackAt := rfl
@[simp] theorem State.setHsp_groups (h : HspUnit) : (s.setHsp h).groups = s.groups := rfl
@[simp] theorem State.setHsp_chans (h : HspUnit) : (s.setHsp h).chans = s.chans := rfl
@[simp] theorem State.setHsp_pdQueue (h : HspUnit) : (s.setHsp h).pdQueue = s.pdQueue := rfl
@[simp] theorem State.setHsp_pdNext (h : HspUnit) : (s.setHsp h).pdNext = s.pdNext := rfl
@[simp] theorem State.setHsp_pdVeto (h : HspUnit) : (s.setHsp h).pdVeto = s.pdVeto := rfl
@[simp] theorem State.setHsp_netQueue (h : HspUnit) : (s.setHsp h).netQueue = s.netQueue := rfl
@[simp] theorem State.setHsp_netNext (h : HspUnit) : (s.setHsp h).netNext = s.netNext := rfl
@[simp] theorem State.setHsp_field (h : HspUnit) : (s.setHsp h).field = s.field := rfl
@[simp] theorem State.setHsp_ports (h : HspUnit) : (s.setHsp h).ports = s.ports := rfl
@[simp] theorem State.setHsp_sccs (h : HspUnit) : (s.setHsp h).sccs = s.sccs := rfl
@[simp] theorem State.setHsp_nets (h : HspUnit) : (s.setHsp h).nets = s.nets := rfl
@[simp] theorem State.setHsp_ptp (h : HspUnit) : (s.setHsp h).ptp = s.ptp := rfl
@[simp] theorem State.setHsp_ts (h : HspUnit) : (s.setHsp h).ts = s.ts := rfl
@[simp] theorem State.setHsp_acc (h : HspUnit) : (s.setHsp h).acc = s.acc := rfl
@[simp] theorem State.setHsp_stack (h : HspUnit) : (s.setHsp h).stack = s.stack := rfl
@[simp] theorem State.setHsp_ext (h : HspUnit) : (s.setHsp h).ext = s.ext := rfl
@[simp] theorem State.setHsp_valid (h : HspUnit) : (s.setHsp h).valid = s.valid := rfl
@[simp] theorem State.setHsp_writebacks (h : HspUnit) : (s.setHsp h).writebacks = s.writebacks := rfl
@[simp] theorem State.setHsp_walkers (h : HspUnit) : (s.setHsp h).walkers = s.walkers := rfl
@[simp] theorem State.setHsp_allots (h : HspUnit) : (s.setHsp h).allots = s.allots := rfl
@[simp] theorem State.setHsp_cache (h : HspUnit) : (s.setHsp h).cache = s.cache := rfl
@[simp] theorem State.setHsp_images (h : HspUnit) : (s.setHsp h).images = s.images := rfl
@[simp] theorem State.setHsp_models (h : HspUnit) : (s.setHsp h).models = s.models := rfl
@[simp] theorem State.setHsp_pins (h : HspUnit) : (s.setHsp h).pins = s.pins := rfl
@[simp] theorem State.setHsp_regions (h : HspUnit) : (s.setHsp h).regions = s.regions := rfl
@[simp] theorem State.setHsp_arrays (h : HspUnit) : (s.setHsp h).arrays = s.arrays := rfl
@[simp] theorem State.setHsp_vectors (h : HspUnit) : (s.setHsp h).vectors = s.vectors := rfl
@[simp] theorem State.setHsp_shunters (h : HspUnit) : (s.setHsp h).shunters = s.shunters := rfl
@[simp] theorem State.setHsp_topks (h : HspUnit) : (s.setHsp h).topks = s.topks := rfl
@[simp] theorem State.setHsp_refusals (h : HspUnit) : (s.setHsp h).refusals = s.refusals := rfl
@[simp] theorem State.setHsp_taken (h : HspUnit) : (s.setHsp h).taken = s.taken := rfl
@[simp] theorem State.setHsp_arrivals (h : HspUnit) : (s.setHsp h).arrivals = s.arrivals := rfl
@[simp] theorem State.setHsp_slots (h : HspUnit) : (s.setHsp h).slots = s.slots := rfl
@[simp] theorem State.setHsp_extBusy (h : HspUnit) : (s.setHsp h).extBusy = s.extBusy := rfl
@[simp] theorem State.setHsp_extOpen (h : HspUnit) : (s.setHsp h).extOpen = s.extOpen := rfl
@[simp] theorem State.setHsp_tables (h : HspUnit) : (s.setHsp h).tables = s.tables := rfl
@[simp] theorem State.setHsp_ctxs (h : HspUnit) : (s.setHsp h).ctxs = s.ctxs := rfl
@[simp] theorem State.setHsp_ghosts (h : HspUnit) : (s.setHsp h).ghosts = s.ghosts := rfl
@[simp] theorem State.setHsp_tgts (h : HspUnit) : (s.setHsp h).tgts = s.tgts := rfl
@[simp] theorem State.setHsp_kept (h : HspUnit) : (s.setHsp h).kept = s.kept := rfl
@[simp] theorem State.setHsp_incs (h : HspUnit) : (s.setHsp h).incs = s.incs := rfl
@[simp] theorem State.setHsp_jobs (h : HspUnit) : (s.setHsp h).jobs = s.jobs := rfl
@[simp] theorem State.setHsp_parts (h : HspUnit) : (s.setHsp h).parts = s.parts := rfl
@[simp] theorem State.setHsp_hub (h : HspUnit) : (s.setHsp h).hub = s.hub := rfl
@[simp] theorem State.setHsp_hubOps (h : HspUnit) : (s.setHsp h).hubOps = s.hubOps := rfl
@[simp] theorem State.setHsp_hubWaits (h : HspUnit) : (s.setHsp h).hubWaits = s.hubWaits := rfl
@[simp] theorem State.setHsp_laneSigs (h : HspUnit) : (s.setHsp h).laneSigs = s.laneSigs := rfl
@[simp] theorem State.setHsp_linkUse (h : HspUnit) : (s.setHsp h).linkUse = s.linkUse := rfl
@[simp] theorem State.setHsp_banks (h : HspUnit) : (s.setHsp h).banks = s.banks := rfl
@[simp] theorem State.setHsp_ifes (h : HspUnit) : (s.setHsp h).ifes = s.ifes := rfl
@[simp] theorem State.setHsp_intakes (h : HspUnit) : (s.setHsp h).intakes = s.intakes := rfl
@[simp] theorem State.setHsp_engines (h : HspUnit) : (s.setHsp h).engines = s.engines := rfl
@[simp] theorem State.setHsp_lastIntake (h : HspUnit) : (s.setHsp h).lastIntake = s.lastIntake := rfl
@[simp] theorem State.setHsp_kbRest (h : HspUnit) : (s.setHsp h).kbRest = s.kbRest := rfl
@[simp] theorem State.setHsp_alignC (h : HspUnit) : (s.setHsp h).alignC = s.alignC := rfl
@[simp] theorem State.setHsp_alignS (h : HspUnit) : (s.setHsp h).alignS = s.alignS := rfl
@[simp] theorem State.setHsp_power (h : HspUnit) : (s.setHsp h).power = s.power := rfl
@[simp] theorem State.setHsp_limits (h : HspUnit) : (s.setHsp h).limits = s.limits := rfl
@[simp] theorem State.setHsp_fuses (h : HspUnit) : (s.setHsp h).fuses = s.fuses := rfl
@[simp] theorem State.setHsp_flash (h : HspUnit) : (s.setHsp h).flash = s.flash := rfl
@[simp] theorem State.setHsp_tap (h : HspUnit) : (s.setHsp h).tap = s.tap := rfl
@[simp] theorem State.setHsp_imgFrom (h : HspUnit) : (s.setHsp h).imgFrom = s.imgFrom := rfl
@[simp] theorem State.setHsp_barrier (h : HspUnit) : (s.setHsp h).barrier = s.barrier := rfl
@[simp] theorem State.setHsp_ec (h : HspUnit) : (s.setHsp h).ec = s.ec := rfl
@[simp] theorem State.setHsp_launches (h : HspUnit) : (s.setHsp h).launches = s.launches := rfl
@[simp] theorem State.setHsp_evOverflow (h : HspUnit) : (s.setHsp h).evOverflow = s.evOverflow := rfl
@[simp] theorem State.setHsp_reg (h : HspUnit) (j : Nat) : (s.setHsp h).reg j = s.reg j := rfl
/-! Reading after writing. -/

/-- A register reads as written, cut to its width. -/
@[simp] theorem State.reg_setReg_same (k v : Nat) : (s.setReg k v).reg k = v % 2 ^ widthOf k := tget_tset_same _ _ _ _

/-- A write leaves every other register alone. -/
theorem State.reg_setReg_other {j k : Nat} (v : Nat) (h : j ≠ k) : (s.setReg k v).reg j = s.reg j := tget_tset_other _ _ _ h

/-- A register after a write, by cases. -/
theorem State.reg_setReg (j k v : Nat) : (s.setReg k v).reg j = if j = k then v % 2 ^ widthOf k else s.reg j := by
  split_ifs with h
  · rw [h, State.reg_setReg_same]
  · exact State.reg_setReg_other s v h

/-- A DOMAIN value reads as written. -/
@[simp] theorem State.dom_setDom_same (k : Nat) (v : Bytes) : (s.setDom k v).dom k = v := tget_tset_same _ _ _ _

/-- A write leaves every other DOMAIN value alone. -/
theorem State.dom_setDom_other {j k : Nat} (v : Bytes) (h : j ≠ k) : (s.setDom k v).dom j = s.dom j := tget_tset_other _ _ _ h

@[simp] theorem State.enc_setEnc_same (k : Nat) (x : EncUnit) : (s.setEnc k x).enc k = x := tget_tset_same _ _ _ _
theorem State.enc_setEnc_other {j k : Nat} (x : EncUnit) (h : j ≠ k) : (s.setEnc k x).enc j = s.enc j := tget_tset_other _ _ _ h
@[simp] theorem State.domain_setDomain_same (k : Nat) (x : DomUnit) : (s.setDomain k x).domain k = x := tget_tset_same _ _ _ _
theorem State.domain_setDomain_other {j k : Nat} (x : DomUnit) (h : j ≠ k) : (s.setDomain k x).domain j = s.domain j := tget_tset_other _ _ _ h
@[simp] theorem State.trig_setTrig_same (k : Nat) (x : TrigUnit) : (s.setTrig k x).trig k = x := tget_tset_same _ _ _ _
theorem State.trig_setTrig_other {j k : Nat} (x : TrigUnit) (h : j ≠ k) : (s.setTrig k x).trig j = s.trig j := tget_tset_other _ _ _ h
@[simp] theorem State.win_setWin_same (k : Nat) (x : WinUnit) : (s.setWin k x).win k = x := tget_tset_same _ _ _ _
theorem State.win_setWin_other {j k : Nat} (x : WinUnit) (h : j ≠ k) : (s.setWin k x).win j = s.win j := tget_tset_other _ _ _ h
@[simp] theorem State.timer_setTimer_same (k : Nat) (x : TimerUnit) : (s.setTimer k x).timer k = x := tget_tset_same _ _ _ _
theorem State.timer_setTimer_other {j k : Nat} (x : TimerUnit) (h : j ≠ k) : (s.setTimer k x).timer j = s.timer j := tget_tset_other _ _ _ h
@[simp] theorem State.group_setGroup_same (k : Nat) (x : GroupUnit) : (s.setGroup k x).group k = x := tget_tset_same _ _ _ _
theorem State.group_setGroup_other {j k : Nat} (x : GroupUnit) (h : j ≠ k) : (s.setGroup k x).group j = s.group j := tget_tset_other _ _ _ h
@[simp] theorem State.chan_setChan_same (k : Nat) (x : ChanUnit) : (s.setChan k x).chan k = x := tget_tset_same _ _ _ _
theorem State.chan_setChan_other {j k : Nat} (x : ChanUnit) (h : j ≠ k) : (s.setChan k x).chan j = s.chan j := tget_tset_other _ _ _ h
@[simp] theorem State.port_setPort_same (k : Nat) (x : PortUnit) : (s.setPort k x).port k = x := tget_tset_same _ _ _ _
theorem State.port_setPort_other {j k : Nat} (x : PortUnit) (h : j ≠ k) : (s.setPort k x).port j = s.port j := tget_tset_other _ _ _ h
@[simp] theorem State.scc_setScc_same (k : Nat) (x : SccUnit) : (s.setScc k x).scc k = x := tget_tset_same _ _ _ _
theorem State.scc_setScc_other {j k : Nat} (x : SccUnit) (h : j ≠ k) : (s.setScc k x).scc j = s.scc j := tget_tset_other _ _ _ h
@[simp] theorem State.cmp_setCmp_same (k : Nat) (x : CmpUnit) : (s.setCmp k x).cmp k = x := tget_tset_same _ _ _ _
theorem State.cmp_setCmp_other {j k : Nat} (x : CmpUnit) (h : j ≠ k) : (s.setCmp k x).cmp j = s.cmp j := tget_tset_other _ _ _ h
@[simp] theorem State.net_setNet_same (k : Nat) (x : NetUnit) : (s.setNet k x).net k = x := tget_tset_same _ _ _ _
theorem State.net_setNet_other {j k : Nat} (x : NetUnit) (h : j ≠ k) : (s.setNet k x).net j = s.net j := tget_tset_other _ _ _ h
@[simp] theorem State.job_setJob_same (k : Nat) (x : JobUnit) : (s.setJob k x).job k = x := tget_tset_same _ _ _ _
theorem State.job_setJob_other {j k : Nat} (x : JobUnit) (h : j ≠ k) : (s.setJob k x).job j = s.job j := tget_tset_other _ _ _ h
@[simp] theorem State.intake_setIntake_same (k : Nat) (x : IntakeUnit) : (s.setIntake k x).intake k = x := tget_tset_same _ _ _ _
theorem State.intake_setIntake_other {j k : Nat} (x : IntakeUnit) (h : j ≠ k) : (s.setIntake k x).intake j = s.intake j := tget_tset_other _ _ _ h
@[simp] theorem State.bank_setBank_same (k : Nat) (x : BankUnit) : (s.setBank k x).bank k = x := tget_tset_same _ _ _ _
theorem State.bank_setBank_other {j k : Nat} (x : BankUnit) (h : j ≠ k) : (s.setBank k x).bank j = s.bank j := tget_tset_other _ _ _ h

/-- The table of registers keeps its canonical form. -/
theorem State.setReg_wf (k v : Nat) (h : twf resetVal s.regs = true) : twf resetVal (s.setReg k v).regs = true := twf_tset _ _ _ h

/-- After reset every register reads its reset value. -/
@[simp] theorem State.reg_reset (k : Nat) : State.reset.reg k = resetVal k := rfl

/-- After reset every DOMAIN value reads as it does before it is written. -/
@[simp] theorem State.dom_reset (k : Nat) : State.reset.dom k = domReset k := rfl

end Sys2Proof.Machine
end

