-- ==== Sys2Proof/Laws/Ops.lean ====
section
/-! SUPPORT. Laws of the shared operations: the guards of commands, and what counting and reporting can do. -/
namespace Sys2Proof.Machine

variable (s t : State) (r : Route)

/-! Guards. -/

/-- While the module is up a unit's command has its effect. -/
theorem State.live_up (h : s.up = true) : s.live t = s.sealed t := by simp [State.live, h]
/-- Otherwise it has none. -/
theorem State.live_down (h : s.up = false) : s.live t = s := by simp [State.live, h]
/-- While the route is served its command has its effect. -/
theorem State.routed_served (h : s.served r = true) :
    s.routed r t = { t with grade := s.grade, pending := s.pending, fuses := s.fuses.blow t.fuses } := by
  simp [State.routed, h]
/-- While the module is up every route is served. -/
theorem State.served_up (h : s.up = true) : s.served r = true := by
  simp only [State.up, Bool.and_eq_true, Bool.not_eq_true'] at h
  simp [State.served, h.1, h.2]

@[simp] theorem State.sealed_grade : (s.sealed t).grade = s.grade := rfl
@[simp] theorem State.sealed_pending : (s.sealed t).pending = s.pending := rfl
@[simp] theorem State.sealed_fuses : (s.sealed t).fuses = s.fuses := rfl
@[simp] theorem State.sealed_reg (k : Nat) : (s.sealed t).reg k = t.reg k := rfl

/-- Blowing fuses never lowers the lifecycle. -/
theorem Fuses.le_blow (a b : Fuses) : a.lifecycle ≤ (a.blow b).lifecycle := Nat.le_max_left _ _

/-- A key already in a sorted set stays. -/
theorem mem_addKey {ks : List Nat} {j k : Nat} (h : j ∈ ks) : j ∈ addKey ks k := by
  induction ks with
  | nil => simp at h
  | cons i ks ih =>
    unfold addKey
    split_ifs
    · exact List.mem_cons_of_mem _ h
    · exact h
    · rcases List.mem_cons.1 h with h | h
      · rw [h]; exact List.mem_cons_self
      · exact List.mem_cons_of_mem _ (ih h)

/-- A revoked slot stays revoked. -/
theorem Fuses.revoked_blow (a b : Fuses) (k : Nat) (h : k ∈ a.revoked) : k ∈ (a.blow b).revoked := by
  unfold Fuses.blow
  simp only []
  have : ∀ (xs ys : List Nat), k ∈ ys → k ∈ xs.foldl addKey ys := by
    intro xs
    induction xs with
    | nil => intro ys h; exact h
    | cons x xs ih => intro ys h; exact ih _ (mem_addKey h)
  exact this _ _ h

/-- A listed entry is found after another key has been put. -/
theorem tfind_tput_other {α : Type} (t : List (Nat × α)) {j k : Nat} (v : α) (h : j ≠ k) :
    tfind (tput t k v) j = tfind t j := by
  induction t with
  | nil => simp [tput, tfind, h]
  | cons x t ih =>
    obtain ⟨i, a⟩ := x
    unfold tput
    split_ifs with h1 h2
    · rw [tfind, if_neg h]
    · subst h2; simp [tfind, h]
    · simp only [tfind]; split_ifs
      · rfl
      · exact ih

/-- An installed owner key stays as it is. -/
theorem Fuses.owner_blow (a b : Fuses) (k : Nat) (v : Bytes) (h : tfind a.owner k = some v) :
    tfind (a.blow b).owner k = some v := by
  unfold Fuses.blow
  simp only []
  have : ∀ (xs ys : List (Nat × Bytes)), tfind ys k = some v →
      tfind (xs.foldl (fun t x => if (tfind t x.1).isSome then t else tput t x.1 x.2) ys) k = some v := by
    intro xs
    induction xs with
    | nil => intro ys h; exact h
    | cons x xs ih =>
      intro ys h
      rw [List.foldl_cons]
      apply ih
      split_ifs with hx
      · exact h
      · rw [tfind_tput_other _ _ (by rintro rfl; simp [h] at hx)]; exact h
  exact this _ _ h

/-! Counting and reporting (20 R490 to R494). -/

/-- What raising records can change: the queues, the holdoff timers, EVOVF and the two counters of dropped records. -/
structure Reports (s t : State) : Prop where
  rest : { t with regs := s.regs, holdoffs := s.holdoffs, events := s.events, emergencies := s.emergencies,
                  evOverflow := s.evOverflow } = s
  regs : ∀ k, k ≠ key 0x2904 5 → k ≠ key 0x2904 6 → t.reg k = s.reg k

/-- Nothing at all is such a change. -/
theorem Reports.refl : Reports s s := ⟨rfl, fun _ _ _ => rfl⟩

/-- Two such changes make one. -/
theorem Reports.trans {s t u : State} (a : Reports s t) (b : Reports t u) : Reports s u := by
  refine ⟨?_, fun k h5 h6 => (b.regs k h5 h6).trans (a.regs k h5 h6)⟩
  have hb := b.rest
  have ha := a.rest
  rw [← hb] at ha
  exact ha

/-- The queues that a record enters. -/
theorem State.enqueue_reports (x : EvRec) : Reports s (s.enqueue x).1 := by
  constructor
  · unfold State.enqueue
    simp only []
    split_ifs <;> rfl
  · intro k _ _
    unfold State.enqueue
    simp only []
    split_ifs <;> rfl

/-- The counters that a dropped record names. -/
theorem State.enqueue_drops (x : EvRec) : ∀ d ∈ (s.enqueue x).2, d = key 0x2904 5 ∨ d = key 0x2904 6 := by
  intro d hd
  unfold State.enqueue at hd
  simp only [] at hd
  split_ifs at hd <;> simp at hd <;> tauto

/-- A drop's own count is such a change. -/
theorem State.addReg_reports (k : Nat) (h : k = key 0x2904 5 ∨ k = key 0x2904 6) : Reports s (s.addReg k 1) := by
  refine ⟨rfl, fun j h5 h6 => State.reg_setReg_other _ _ ?_⟩
  rcases h with rfl | rfl
  · exact h5
  · exact h6

/-- A list of such changes is one. -/
theorem Reports.foldl {β : Type} (f : State → β → State) (p : β → Prop) (hf : ∀ s x, p x → Reports s (f s x)) (xs : List β)
    (h : ∀ x ∈ xs, p x) : Reports s (xs.foldl f s) := by
  induction xs generalizing s with
  | nil => exact Reports.refl s
  | cons x xs ih =>
    exact (hf s x (h x List.mem_cons_self)).trans (ih _ (fun y hy => h y (List.mem_cons_of_mem _ hy)))

/-- A holdoff timer that ends changes the timers, and reports. -/
theorem State.holdoffEnds_reports (k : Nat) (h : Holdoff) : Reports s (s.holdoffEnds k h).1 := by
  have e : ∀ y x, Reports s (({ s with holdoffs := y } : State).enqueue x).1 := fun y x =>
    Reports.trans (t := { s with holdoffs := y }) ⟨rfl, fun _ _ _ => rfl⟩ (State.enqueue_reports _ x)
  unfold State.holdoffEnds
  simp only []
  split_ifs
  · exact ⟨rfl, fun _ _ _ => rfl⟩
  · exact e _ _
  · exact e _ _

/-- The counters of the drops that come with it. -/
theorem State.holdoffEnds_drops (k : Nat) (h : Holdoff) : ∀ d ∈ (s.holdoffEnds k h).2, d = key 0x2904 5 ∨ d = key 0x2904 6 := by
  intro d hd
  unfold State.holdoffEnds at hd
  simp only [] at hd
  split_ifs at hd
  · simp at hd
  · exact State.enqueue_drops _ _ d hd
  · exact State.enqueue_drops _ _ d hd

/-- An expired holdoff timer that is found. -/
theorem State.holdoffFound_reports (k : Nat) :
    Reports s (s.holdoffFound k).1 ∧ ∀ d ∈ (s.holdoffFound k).2, d = key 0x2904 5 ∨ d = key 0x2904 6 := by
  unfold State.holdoffFound
  split
  · split_ifs
    · exact ⟨State.holdoffEnds_reports s k _, State.holdoffEnds_drops s k _⟩
    · exact ⟨Reports.refl s, fun d hd => by simp at hd⟩
  · exact ⟨Reports.refl s, fun d hd => by simp at hd⟩

/-- The record of an increment is folded into its holdoff timer, or raised. -/
theorem State.increment_reports (k d : Nat) (l : Option (Nat × Nat)) :
    Reports s (s.increment k d l).1 ∧ ∀ x ∈ (s.increment k d l).2, x = key 0x2904 5 ∨ x = key 0x2904 6 := by
  unfold State.increment
  split
  · exact ⟨⟨rfl, fun _ _ _ => rfl⟩, fun x hx => by simp at hx⟩
  · refine ⟨Reports.trans ?_ (State.enqueue_reports _ _), State.enqueue_drops _ _⟩
    split_ifs
    · exact Reports.refl s
    · exact ⟨rfl, fun _ _ _ => rfl⟩

/-- One increment adds 1 to its counter, and beside that only reports. -/
theorem State.countFuel_reports (n k d : Nat) (l : Option (Nat × Nat)) :
    Reports (s.addReg k 1) (State.countFuel n s k d l) := by
  induction n generalizing s k d l with
  | zero => exact Reports.refl _
  | succ n ih =>
    unfold State.countFuel
    simp only []
    have hx := State.holdoffFound_reports (s.addReg k 1) k
    have hy := State.increment_reports ((s.addReg k 1).holdoffFound k).1 k d l
    refine hx.1.trans (hy.1.trans ?_)
    refine Reports.foldl _ _ (fun d => d = key 0x2904 5 ∨ d = key 0x2904 6) ?_ _ ?_
    · intro u x hx
      exact (State.addReg_reports u x hx).trans (ih u x 0 none)
    · intro x hm
      rcases List.mem_append.1 hm with h | h
      · exact hx.2 x h
      · exact hy.2 x h

/-- COUNT: the counter rises by 1, saturating; beside that the module only reports. -/
theorem State.count_reports (ix sub d : Nat) (l : Option (Nat × Nat)) :
    Reports (s.addReg (key ix sub) 1) (s.count ix sub d l) := State.countFuel_reports s 4 _ d l

/-- REPORT only reports. -/
theorem State.report_reports (x : EvRec) : Reports s (s.report x) := by
  unfold State.report
  simp only []
  refine (State.enqueue_reports s x).trans ?_
  refine Reports.foldl _ _ (fun d => d = key 0x2904 5 ∨ d = key 0x2904 6) ?_ _ (State.enqueue_drops _ _)
  intro u y hy
  exact (State.addReg_reports u y hy).trans (State.countFuel_reports u 3 y 0 none)

/-- The counter after a count. -/
theorem State.reg_count_self (ix sub d : Nat) (l : Option (Nat × Nat)) (h5 : key ix sub ≠ key 0x2904 5)
    (h6 : key ix sub ≠ key 0x2904 6) :
    (s.count ix sub d l).reg (key ix sub) = satAdd (widthOf (key ix sub)) (s.reg (key ix sub)) 1 % 2 ^ widthOf (key ix sub) := by
  rw [(State.count_reports s ix sub d l).regs _ h5 h6]
  exact State.reg_setReg_same _ _ _

/-- Every other register after a count. -/
theorem State.reg_count_other (ix sub d : Nat) (l : Option (Nat × Nat)) (k : Nat) (hk : k ≠ key ix sub)
    (h5 : k ≠ key 0x2904 5) (h6 : k ≠ key 0x2904 6) : (s.count ix sub d l).reg k = s.reg k := by
  rw [(State.count_reports s ix sub d l).regs _ h5 h6]
  exact State.reg_setReg_other _ _ hk

end Sys2Proof.Machine
end

