-- ==== Sys2Proof/Laws/Later.lean ====
section
/-! SUPPORT. Laws of the effects of later cycles and of the passage of time (log 119). -/
namespace Sys2Proof.Machine

variable (s t : State)

/-! The queue of later effects. -/

/-- Putting an effect in order adds it, and drops none. -/
theorem mem_putLater (l x : Later) (ls : List Later) : x ∈ putLater l ls ↔ x = l ∨ x ∈ ls := by
  induction ls with
  | nil => simp [putLater]
  | cons y ys ih =>
    unfold putLater
    split_ifs
    · exact List.mem_cons
    · rw [List.mem_cons, ih, List.mem_cons]; tauto

theorem State.mem_defer (l x : Later) : x ∈ (s.defer l).later ↔ x = l ∨ x ∈ s.later := mem_putLater l x s.later

theorem KeepsLater.refl : KeepsLater s s := fun _ h => h
theorem KeepsLater.trans {s t u : State} (a : KeepsLater s t) (b : KeepsLater t u) : KeepsLater s u := fun l h => b l (a l h)
theorem KeepsLater.of_eq {s t : State} (h : t.later = s.later) : KeepsLater s t := fun _ hl => h ▸ hl

theorem State.keeps_defer (l : Later) : KeepsLater s (s.defer l) := fun x h => (State.mem_defer s l x).2 (Or.inr h)
theorem State.keeps_opens (c : Nat) (a : Effect) : KeepsLater s (s.opens c a) := State.keeps_defer _ _
theorem State.keeps_closes (c n : Nat) (a : Effect) : KeepsLater s (s.closes c n a) := State.keeps_defer _ _
theorem State.keeps_opensC (c n : Nat) (a : Effect) : KeepsLater s (s.opensC c n a) := State.keeps_defer _ _
theorem State.keeps_closesC (c n : Nat) (a : Effect) : KeepsLater s (s.closesC c n a) := State.keeps_defer _ _
theorem State.keeps_raiseAt (x c : Nat) (l : Bool) : KeepsLater s (s.raiseAt x c l) := by
  unfold State.raiseAt
  split_ifs
  · exact KeepsLater.refl s
  · exact State.keeps_closes _ _ _ _

theorem State.opens_with (c : Nat) (a : Effect) : (s.opens c a).OpensWith c a := (State.mem_defer s _ _).2 (Or.inl rfl)
theorem State.closes_with (c n : Nat) (a : Effect) : (s.closes c n a).ClosesWith c n a := (State.mem_defer s _ _).2 (Or.inl rfl)
theorem State.opensC_with (c n : Nat) (a : Effect) : (s.opensC c n a).OpensC c n a := (State.mem_defer s _ _).2 (Or.inl rfl)
theorem State.closesC_with (c n : Nat) (a : Effect) : (s.closesC c n a).ClosesC c n a := (State.mem_defer s _ _).2 (Or.inl rfl)
/-- Every source but 3FFh is registered (R53). -/
theorem State.raiseAt_raised (x c : Nat) (l : Bool) (h : x ≠ 0x3FF) : (s.raiseAt x c l).Raised x c l := by
  unfold State.raiseAt
  rw [if_neg h]
  exact State.closes_with _ _ _ _

/-- Registering an effect changes the queue of effects alone. -/
theorem State.defer_rest (l : Later) : { s.defer l with later := s.later } = s := rfl

/-! The passage of time. -/

/-- With nothing due, time alone passes. -/
theorem State.passTo_quiet (n x : Nat) (h : ∀ l ∈ s.later, 2 * x + 1 ≤ 2 * l.tick + b2n l.close) : s.passTo x n = s := by
  cases n with
  | zero => rfl
  | succ n =>
    unfold State.passTo
    split
    · rfl
    · rename_i l ls hl
      have := h l (by rw [hl]; exact List.mem_cons_self)
      rw [if_neg (by omega)]

theorem State.wait_quiet (dt : Nat) (h : ∀ l ∈ s.later, 2 * (s.time + dt) + 1 ≤ 2 * l.tick + b2n l.close) :
    s.wait dt = (s.sealed s).atTime (s.time + dt) := by
  unfold State.wait
  rw [State.passTo_quiet s _ _ h]

@[simp] theorem State.wait_time (dt : Nat) : (s.wait dt).time = s.time + dt := rfl
@[simp] theorem State.wait_grade (dt : Nat) : (s.wait dt).grade = s.grade := rfl
@[simp] theorem State.wait_pending (dt : Nat) : (s.wait dt).pending = s.pending := rfl

/-! What commands leave. -/

variable (dt : Nat) (f : State → State)

theorem State.during_up (h : (s.wait dt).up = true) : s.during dt f = (s.wait dt).sealed (f (s.wait dt)) := State.live_up _ _ h
theorem State.during_down (h : (s.wait dt).up = false) : s.during dt f = s.wait dt := State.live_down _ _ h
theorem State.during_grade : (s.during dt f).grade = s.grade := by
  unfold State.during State.live
  split_ifs <;> rfl
theorem State.during_pending : (s.during dt f).pending = s.pending := by
  unfold State.during State.live
  split_ifs <;> rfl

/-- A command of a unit leads to the state that its effect leaves, while the module is up. -/
theorem leads_during {c : Instr} {p : State → Prop} (hc : exec c s = .next (s.during dt f)) (h : (s.wait dt).up = true)
    (hp : p ((s.wait dt).sealed (f (s.wait dt)))) : Leads c s p := ⟨_, hc, by rw [State.during_up s dt f h]; exact hp⟩

theorem leads_of {c : Instr} {s t : State} {p : State → Prop} (h : exec c s = .next t) (hp : p t) : Leads c s p := ⟨t, h, hp⟩

end Sys2Proof.Machine
end

