-- ==== Sys2Proof/Laws/Bits.lean ====
section
/-! SUPPORT. Laws of bit fields and of the registers that hold them. -/
namespace Sys2Proof.Machine

theorem bit_eq (v i : Nat) : bit v i = v.testBit i := by
  simp only [bit, Nat.testBit, Nat.shiftRight_eq_div_pow, Nat.one_and_eq_mod_two]
  rcases Nat.mod_two_eq_zero_or_one (v / 2 ^ i) with h | h <;> simp [h]

theorem testBit_bits (v hi lo j : Nat) : (bits v hi lo).testBit j = (decide (j < hi + 1 - lo) && v.testBit (lo + j)) := by
  simp only [bits, Nat.testBit_mod_two_pow, Nat.testBit_div_two_pow]
  rw [Nat.add_comm j lo]

/-- Every bit of a value with a field replaced. -/
theorem testBit_withBits (v hi lo x j : Nat) (h : lo ≤ hi) :
    (withBits v hi lo x).testBit j = if lo ≤ j ∧ j ≤ hi then x.testBit (j - lo) else v.testBit j := by
  have e : withBits v hi lo x = v / 2 ^ (hi + 1) * 2 ^ (hi + 1) + ((x % 2 ^ (hi + 1 - lo)) * 2 ^ lo + v % 2 ^ lo) := by
    have h1 : 2 ^ (hi + 1) = 2 ^ lo * 2 ^ (hi + 1 - lo) := by rw [← pow_add]; congr 1; omega
    have h2 : v = v / 2 ^ (hi + 1) * 2 ^ (hi + 1) + (bits v hi lo * 2 ^ lo + v % 2 ^ lo) := by
      have a := Nat.div_add_mod v (2 ^ lo)
      have b := Nat.div_add_mod (v / 2 ^ lo) (2 ^ (hi + 1 - lo))
      rw [Nat.div_div_eq_div_mul, ← h1] at b
      unfold bits
      calc v = 2 ^ lo * (v / 2 ^ lo) + v % 2 ^ lo := a.symm
        _ = 2 ^ lo * (2 ^ (hi + 1 - lo) * (v / 2 ^ (hi + 1)) + v / 2 ^ lo % 2 ^ (hi + 1 - lo)) + v % 2 ^ lo := by rw [b]
        _ = _ := by rw [h1]; ring
    unfold withBits
    omega
  have hx : x % 2 ^ (hi + 1 - lo) < 2 ^ (hi + 1 - lo) := Nat.mod_lt _ (by positivity)
  have hv : v % 2 ^ lo < 2 ^ lo := Nat.mod_lt _ (by positivity)
  have hy : (x % 2 ^ (hi + 1 - lo)) * 2 ^ lo + v % 2 ^ lo < 2 ^ (hi + 1) := by
    have h1 : 2 ^ (hi + 1) = 2 ^ (hi + 1 - lo) * 2 ^ lo := by rw [← pow_add]; congr 1; omega
    rw [h1]
    calc _ < x % 2 ^ (hi + 1 - lo) * 2 ^ lo + 2 ^ lo := by omega
      _ = (x % 2 ^ (hi + 1 - lo) + 1) * 2 ^ lo := by ring
      _ ≤ _ := Nat.mul_le_mul_right _ hx
  rw [e, Nat.mul_comm (v / 2 ^ (hi + 1)), Nat.testBit_two_pow_mul_add _ hy, Nat.mul_comm (x % _),
    Nat.testBit_two_pow_mul_add _ hv, Nat.testBit_mod_two_pow, Nat.testBit_mod_two_pow, Nat.testBit_div_two_pow]
  by_cases h1 : j < lo
  · simp [h1, show j < hi + 1 by omega, show ¬(lo ≤ j) by omega]
  · by_cases h2 : j < hi + 1
    · simp [h1, h2, show lo ≤ j by omega, show j ≤ hi by omega, show j - lo < hi + 1 - lo by omega]
    · simp [h2, show ¬(j ≤ hi) by omega, show j - (hi + 1) + (hi + 1) = j by omega]

/-- A bit after a bit has been replaced. -/
theorem bit_withBit (v i j : Nat) (b : Bool) : bit (withBit v i b) j = if j = i then b else bit v j := by
  rw [bit_eq, bit_eq, withBit, testBit_withBits _ _ _ _ _ (le_refl i)]
  by_cases h : j = i
  · subst h; cases b <;> simp
  · simp [h, show ¬(i ≤ j ∧ j ≤ i) by omega]

/-- A field after it has been replaced. -/
theorem bits_withBits_same (v hi lo x : Nat) (h : lo ≤ hi) : bits (withBits v hi lo x) hi lo = x % 2 ^ (hi + 1 - lo) := by
  apply Nat.eq_of_testBit_eq
  intro j
  rw [testBit_bits, testBit_withBits _ _ _ _ _ h, Nat.testBit_mod_two_pow]
  by_cases hj : j < hi + 1 - lo
  · simp [hj, show lo + j ≤ hi by omega]
  · simp [hj]

/-- A field beside the one that has been replaced. -/
theorem bits_withBits_other (v hi lo x a b : Nat) (h : lo ≤ hi) (hab : a < lo ∨ hi < b) :
    bits (withBits v hi lo x) a b = bits v a b := by
  apply Nat.eq_of_testBit_eq
  intro j
  rw [testBit_bits, testBit_bits, testBit_withBits _ _ _ _ _ h]
  by_cases hj : j < a + 1 - b
  · simp [hj, show ¬(lo ≤ b + j ∧ b + j ≤ hi) by omega]
  · simp [hj]

theorem bit_mod (v w j : Nat) (h : j < w) : bit (v % 2 ^ w) j = bit v j := by
  rw [bit_eq, bit_eq, Nat.testBit_mod_two_pow]; simp [h]

theorem bits_mod (v w hi lo : Nat) (h : hi < w) : bits (v % 2 ^ w) hi lo = bits v hi lo := by
  apply Nat.eq_of_testBit_eq
  intro j
  rw [testBit_bits, testBit_bits, Nat.testBit_mod_two_pow]
  by_cases hj : j < hi + 1 - lo
  · simp [hj, show lo + j < w by omega]
  · simp [hj]

variable (s : State)

/-- A bit of a register after one of its bits has been replaced. -/
theorem State.bit_setBit (k i j : Nat) (b : Bool) (hj : j < widthOf k) :
    (s.setBit k i b).bit' k j = if j = i then b else s.bit' k j := by
  unfold State.bit' State.setBit
  rw [State.reg_setReg_same, bit_mod _ _ _ hj, bit_withBit]

/-- A bit of another register. -/
theorem State.bit_setBit_other (k l i j : Nat) (b : Bool) (h : l ≠ k) : (s.setBit k i b).bit' l j = s.bit' l j := by
  unfold State.bit' State.setBit
  rw [State.reg_setReg_other _ _ h]

/-- A field of a register after it has been replaced. -/
theorem State.field_setField (k hi lo v : Nat) (h : lo ≤ hi) (hw : hi < widthOf k) :
    (s.setField k hi lo v).field' k hi lo = v % 2 ^ (hi + 1 - lo) := by
  unfold State.field' State.setField
  rw [State.reg_setReg_same, bits_mod _ _ _ _ hw, bits_withBits_same _ _ _ _ h]

theorem widthOf_fn {f : Nat} (h1 : 1 ≤ f) (h2 : f ≤ 0x8B) : widthOf (key 0x2020 f) = 32 := by
  have : ∀ g : Fin 0x8C, 1 ≤ g.val → widthOf (key 0x2020 g.val) = 32 := by decide
  exact this ⟨f, by omega⟩ h1

/-- A function's state after it has been moved. -/
theorem State.fn_setFn_same {f : Nat} (x : FnState) (h1 : 1 ≤ f) (h2 : f ≤ 0x8B) : (s.setFn f x).fn f = x := by
  have h := State.field_setField s (key 0x2020 f) 2 0 x.code (by omega) (by rw [widthOf_fn h1 h2]; omega)
  unfold State.fn State.setFn
  unfold State.field' at h
  rw [h]
  cases x <;> rfl

/-- Another function's state. -/
theorem State.fn_setFn_other {f g : Nat} (x : FnState) (h : g ≠ f) : (s.setFn f x).fn g = s.fn g := by
  unfold State.fn State.setFn State.setField
  rw [State.reg_setReg_other _ _ (by unfold key; omega)]

end Sys2Proof.Machine
end

