-- ==== Sys2Proof/Laws/Quiet.lean ====
section
/-! SUPPORT. What the consumers of a line event may change: registers in stated ranges, and a fixed set of the state's
fields. Each shared operation has one lemma that says so; the claims about memory and about registers rest on them. -/
namespace Sys2Proof.Machine

/-- The state without what the consumers of events, signals and positions change. -/
def State.aside (s : State) : State :=
  { s with time := 0, regs := [], holdoffs := [], events := [], emergencies := [], evOverflow := false, encs := [],
           domains := [], trigs := [], wins := [], timers := [], cmps := [], later := [], slackAt := none, groups := [], chans := [], pdQueue := [], pdNext := 0,
           netQueue := [], netNext := [], field := {}, ports := [], ctxs := [], hub := [], hubOps := [], hubWaits := [],
           laneSigs := [], linkUse := [], kept := [] }

/-- `t` follows from `s` by such changes, and its registers differ within the ranges only. -/
structure Quiet (rs : Spans) (s t : State) : Prop where
  regs : OnlyRegs rs s t
  rest : t.aside = s.aside

variable {rs : Spans} {s t u : State}

theorem Quiet.refl (s : State) : Quiet rs s s := ⟨fun _ _ => rfl, rfl⟩

theorem Quiet.trans (a : Quiet rs s t) (b : Quiet rs t u) : Quiet rs s u :=
  ⟨fun k h => (b.regs k h).trans (a.regs k h), b.rest.trans a.rest⟩

/-- Wider ranges say less. -/
theorem Quiet.mono {rs' : Spans} (h : Quiet rs s t) (hs : ∀ k, covers rs' k = false → covers rs k = false) : Quiet rs' s t :=
  ⟨fun k hk => h.regs k (hs k hk), h.rest⟩

/-- A field outside the set keeps its value. -/
theorem Quiet.keeps {γ : Type} (g : State → γ) (hg : ∀ s : State, g s = g s.aside) (h : Quiet rs s t) : g t = g s := by
  rw [hg t, hg s, h.rest]

/-- The memories keep their values. -/
theorem Quiet.mem (h : Quiet rs s t) : SameMem s t :=
  ⟨h.keeps (·.ts) (fun _ => rfl), h.keeps (·.acc) (fun _ => rfl), h.keeps (·.stack) (fun _ => rfl),
   h.keeps (·.ext) (fun _ => rfl), h.keeps (·.valid) (fun _ => rfl)⟩

/-! Closure under the plain updates. -/

theorem Quiet.setReg {k v : Nat} (h : Quiet rs s t) (hk : covers rs k = true) : Quiet rs s (t.setReg k v) :=
  ⟨fun j hj => (State.reg_setReg_other _ _ (by rintro rfl; rw [hk] at hj; cases hj)).trans (h.regs j hj), h.rest⟩

theorem Quiet.addReg {k n : Nat} (h : Quiet rs s t) (hk : covers rs k = true) : Quiet rs s (t.addReg k n) := h.setReg hk
theorem Quiet.incReg {k : Nat} (h : Quiet rs s t) (hk : covers rs k = true) : Quiet rs s (t.incReg k) := h.setReg hk
theorem Quiet.setBit {k i : Nat} {b : Bool} (h : Quiet rs s t) (hk : covers rs k = true) : Quiet rs s (t.setBit k i b) := h.setReg hk
theorem Quiet.setField {k a b v : Nat} (h : Quiet rs s t) (hk : covers rs k = true) : Quiet rs s (t.setField k a b v) := h.setReg hk

theorem Quiet.setEnc {i : Nat} {x : EncUnit} (h : Quiet rs s t) : Quiet rs s (t.setEnc i x) := ⟨h.regs, h.rest⟩
theorem Quiet.setDomain {i : Nat} {x : DomUnit} (h : Quiet rs s t) : Quiet rs s (t.setDomain i x) := ⟨h.regs, h.rest⟩
theorem Quiet.setTrig {i : Nat} {x : TrigUnit} (h : Quiet rs s t) : Quiet rs s (t.setTrig i x) := ⟨h.regs, h.rest⟩
theorem Quiet.setWin {i : Nat} {x : WinUnit} (h : Quiet rs s t) : Quiet rs s (t.setWin i x) := ⟨h.regs, h.rest⟩
theorem Quiet.setTimer {i : Nat} {x : TimerUnit} (h : Quiet rs s t) : Quiet rs s (t.setTimer i x) := ⟨h.regs, h.rest⟩
theorem Quiet.setGroup {i : Nat} {x : GroupUnit} (h : Quiet rs s t) : Quiet rs s (t.setGroup i x) := ⟨h.regs, h.rest⟩
theorem Quiet.setChan {i : Nat} {x : ChanUnit} (h : Quiet rs s t) : Quiet rs s (t.setChan i x) := ⟨h.regs, h.rest⟩
theorem Quiet.setPort {i : Nat} {x : PortUnit} (h : Quiet rs s t) : Quiet rs s (t.setPort i x) := ⟨h.regs, h.rest⟩
theorem Quiet.setField' {x : FieldUnit} (h : Quiet rs s t) : Quiet rs s { t with field := x } := ⟨h.regs, h.rest⟩
theorem Quiet.defer {l : Later} (h : Quiet rs s t) : Quiet rs s (t.defer l) := ⟨h.regs, h.rest⟩
theorem Quiet.opens {c : Nat} {a : Effect} (h : Quiet rs s t) : Quiet rs s (t.opens c a) := h.defer
theorem Quiet.closes {c n : Nat} {a : Effect} (h : Quiet rs s t) : Quiet rs s (t.closes c n a) := h.defer
theorem Quiet.opensC {c n : Nat} {a : Effect} (h : Quiet rs s t) : Quiet rs s (t.opensC c n a) := h.defer
theorem Quiet.closesC {c n : Nat} {a : Effect} (h : Quiet rs s t) : Quiet rs s (t.closesC c n a) := h.defer
theorem Quiet.raiseAt {x c : Nat} {l : Bool} (h : Quiet rs s t) : Quiet rs s (t.raiseAt x c l) := by
  unfold State.raiseAt
  split_ifs
  · exact h
  · exact h.closes

theorem Quiet.ite {c : Prop} [Decidable c] {a b : State} (h1 : Quiet rs s a) (h2 : Quiet rs s b) :
    Quiet rs s (if c then a else b) := by split <;> assumption

theorem Quiet.forEach {β : Type} {f : β → State → State} {xs : List β} (hf : ∀ x ∈ xs, ∀ u, Quiet rs u (f x u))
    (h : Quiet rs s t) : Quiet rs s (forEach xs t f) := by
  unfold Machine.forEach
  induction xs generalizing t with
  | nil => exact h
  | cons x xs ih =>
    exact ih (fun y hy => hf y (List.mem_cons_of_mem _ hy)) (h.trans (hf x List.mem_cons_self t))

theorem lt_of_upTo {i n : Nat} (h : i ∈ upTo n) : i < n := List.mem_range.1 h

/-- Reporting. -/
theorem Reports.quiet (h : Reports s t) (h5 : covers rs (key 0x2904 5) = true) (h6 : covers rs (key 0x2904 6) = true) :
    Quiet rs s t :=
  ⟨fun k hk => h.regs k (by rintro rfl; rw [h5] at hk; cases hk) (by rintro rfl; rw [h6] at hk; cases hk),
   by have := congrArg State.aside h.rest; exact this⟩

/-- A key in one of the ranges. -/
theorem covers_of {r : Nat × Nat} (h : r ∈ rs) {k : Nat} (h1 : r.1 ≤ k) (h2 : k ≤ r.2) : covers rs k = true := by
  simp only [covers, List.any_eq_true, Bool.and_eq_true, decide_eq_true_eq]
  exact ⟨r, h, h1, h2⟩

/-- More ranges say less. -/
theorem Quiet.sub {rs' : Spans} (h : Quiet rs s t) (hs : rs ⊆ rs') : Quiet rs' s t := by
  refine h.mono (fun k hk => ?_)
  cases hc : covers rs k with
  | false => rfl
  | true =>
    simp only [covers, List.any_eq_true, Bool.and_eq_true, decide_eq_true_eq] at hc
    obtain ⟨r, hr, h1, h2⟩ := hc
    rw [covers_of (hs hr) h1 h2] at hk
    cases hk

/-- A register of an object in one of the ranges. -/
theorem in_pages {a b i x : Nat} (h : pages a b ∈ rs) (h1 : a ≤ i) (h2 : i ≤ b) (hx : x ≤ 255) : covers rs (key i x) = true := by
  refine covers_of h ?_ ?_ <;> simp only [pages, key] <;> omega

/-- A counter lies in the counters' range. -/
theorem counter_covers (h : counterSpan ∈ rs) {i x : Nat} (h1 : 0x2900 ≤ i) (h2 : i ≤ 0x2904) (hx : x ≤ 255) :
    covers rs (key i x) = true := by
  refine covers_of h ?_ ?_ <;> simp only [counterSpan, pages, key] <;> omega

theorem Quiet.count {i x d : Nat} {l : Option (Nat × Nat)} (h : Quiet rs s t) (hc : counterSpan ∈ rs) (h1 : 0x2900 ≤ i)
    (h2 : i ≤ 0x2904) (hx : x ≤ 255) : Quiet rs s (t.count i x d l) :=
  (h.addReg (counter_covers hc h1 h2 hx)).trans ((State.count_reports t i x d l).quiet
    (counter_covers hc (by omega) (by omega) (by omega)) (counter_covers hc (by omega) (by omega) (by omega)))

theorem Quiet.report {x : EvRec} (h : Quiet rs s t) (hc : counterSpan ∈ rs) : Quiet rs s (t.report x) :=
  h.trans ((State.report_reports t x).quiet
    (counter_covers hc (by omega) (by omega) (by omega)) (counter_covers hc (by omega) (by omega) (by omega)))

/-! Events and their consumers. -/

theorem State.gate_quiet (s : State) {w : Nat} (c : Nat) (hw : w < 64) : Quiet eventSpans s (s.gate w c) := by
  unfold State.gate
  simp only []
  split_ifs <;> apply_rules [Quiet.setReg, Quiet.incReg, Quiet.setWin, Quiet.ite, Quiet.refl] <;>
    exact in_pages (a := 0x2140) (b := 0x217F) (by simp [eventSpans]) (by omega) (by omega) (by omega)

theorem State.loadTimer_quiet (s : State) (x c : Nat) : Quiet rs s (s.loadTimer x c) :=
  Quiet.setTimer (Quiet.setTimer (Quiet.refl s))

theorem State.awaitTimer_quiet (s : State) (x c : Nat) : Quiet rs s (s.awaitTimer x c) := by
  unfold State.awaitTimer
  simp only []
  split_ifs
  · exact Quiet.setTimer (Quiet.refl s)
  · exact Quiet.setTimer (Quiet.refl s)
  · exact Quiet.setTimer (Quiet.refl s)
  · exact Quiet.refl s

theorem State.event_quiet (s : State) (src c : Nat) : Quiet eventSpans s (s.event src c) := by
  unfold State.event
  split_ifs
  · exact Quiet.refl s
  · unfold State.gateAll State.timeAll State.captureAll
    refine Quiet.forEach (fun i hi u => ?_) (Quiet.forEach (fun i hi u => ?_) (Quiet.forEach (fun i hi u => ?_) (Quiet.refl s)))
    · have := lt_of_upTo hi
      simp only []
      split_ifs <;> apply_rules [Quiet.setReg, Quiet.refl] <;>
        exact in_pages (a := 0x2710) (b := 0x2710) (by simp [eventSpans]) (by omega) (by omega) (by omega)
    · simp only []
      split_ifs
      · exact (State.awaitTimer_quiet u i c).trans (State.loadTimer_quiet _ i c)
      · exact State.awaitTimer_quiet u i c
      · exact State.loadTimer_quiet u i c
      · exact Quiet.refl u
      · exact Quiet.refl u
    · split_ifs
      · exact State.gate_quiet u c (lt_of_upTo hi)
      · exact Quiet.refl u

/-! Signals and the scheduler. -/

theorem Quiet.setCtx {k : Nat} {x : Ctx} (h : Quiet rs s t) : Quiet rs s (t.setCtx k x) := ⟨h.regs, h.rest⟩

theorem Quiet.onCtx {k : Nat} {f : Ctx → Ctx} (h : Quiet rs s t) : Quiet rs s (t.onCtx k f) := by
  unfold State.onCtx
  split
  · exact h.setCtx
  · exact h

theorem kJob_covers (h : pages 0x2510 0x254F ∈ rs) {k x : Nat} (hx : x ≤ 255) : covers rs (kJob (ctxJob k) x) = true := by
  have : ctxJob k < 64 := Nat.mod_lt _ (by omega)
  exact in_pages h (by omega) (by omega) hx

theorem State.wakeOne_quiet (s : State) (c k : Nat) : Quiet rs s (s.wakeOne c k) := by
  unfold State.wakeOne
  split
  · exact Quiet.refl s
  · split_ifs <;> first | exact Quiet.refl s | exact Quiet.setCtx (Quiet.refl s)

theorem State.grantTo_quiet (s : State) (k c : Nat) (h : pages 0x2510 0x254F ∈ rs) : Quiet rs s (s.grantTo k c) := by
  unfold State.grantTo
  split
  · exact Quiet.refl s
  · exact (Quiet.setCtx (Quiet.refl s)).addReg (kJob_covers h (by omega))

theorem Quiet.setKept {core n : Nat} (h : Quiet rs s t) : Quiet rs s (t.setKept core n) := ⟨h.regs, h.rest⟩

theorem State.grantCore_quiet (n : Nat) (s : State) (c core : Nat) (h : pages 0x2510 0x254F ∈ rs) :
    Quiet rs s (State.grantCore c core n s) := by
  induction n generalizing s with
  | zero => exact Quiet.refl s
  | succ n ih =>
    unfold State.grantCore
    simp only []
    split
    · exact Quiet.refl s
    · split_ifs
      · exact ((Quiet.refl s).setKept).trans ((State.grantTo_quiet _ _ c h).trans (ih _))
      · exact (State.grantTo_quiet s _ c h).trans (ih _)
      · split
        · exact Quiet.refl s
        · exact (Quiet.onCtx (Quiet.refl s)).trans ((State.grantTo_quiet _ _ c h).trans (ih _))

theorem State.restoreReady_quiet (n : Nat) (s : State) (c core : Nat) : Quiet rs s (State.restoreReady c core n s) := by
  induction n generalizing s with
  | zero => exact Quiet.refl s
  | succ n ih =>
    unfold State.restoreReady
    split
    · exact (Quiet.onCtx (Quiet.refl s)).trans (ih _)
    · exact Quiet.refl s

theorem State.stir_quiet (s : State) (c : Nat) (h : pages 0x2510 0x254F ∈ rs) : Quiet rs s (s.stir c) :=
  Quiet.forEach (fun core _ u => (State.grantCore_quiet 4 u c core h).trans (State.restoreReady_quiet 4 _ c core))
    (Quiet.forEach (fun k _ u => State.wakeOne_quiet u c k) (Quiet.refl s))

theorem State.signalCtx_quiet (s : State) (k n a : Nat) (st : Option Nat) (h : counterSpan ∈ rs) :
    Quiet rs s (s.signalCtx k n a st) := by
  unfold State.signalCtx
  split
  · exact Quiet.refl s
  · simp only []
    split_ifs
    · exact (Quiet.setCtx (Quiet.refl s)).count h (by omega) (by omega) (by omega)
    · exact Quiet.setCtx (Quiet.refl s)
    · exact Quiet.setCtx (Quiet.refl s)

theorem Quiet.lanes {x} (h : Quiet rs s t) : Quiet rs s { t with laneSigs := x } := ⟨h.regs, h.rest⟩
theorem Quiet.links {x} (h : Quiet rs s t) : Quiet rs s { t with linkUse := x } := ⟨h.regs, h.rest⟩
theorem Quiet.hub {x y z} (h : Quiet rs s t) : Quiet rs s { t with hub := x, hubOps := y, hubWaits := z } := ⟨h.regs, h.rest⟩

theorem State.grantHub_quiet (s : State) (p n c : Nat) : Quiet rs s (s.grantHub p n c) := by
  unfold State.grantHub
  refine Quiet.forEach (fun k _ u => ?_) (Quiet.refl s)
  simp only []
  split_ifs <;> first | exact Quiet.refl u | exact ⟨fun _ _ => rfl, rfl⟩

theorem State.raiseHub_quiet (s : State) (p n a : Nat) (st : Option Nat) (c : Nat) (h : counterSpan ∈ rs) :
    Quiet rs s (s.raiseHub p n a st c) := by
  refine Quiet.closesC ?_
  unfold State.addHub
  simp only []
  have h0 : Quiet rs s (s.setHub p n ((s.hubSem p n).raise a st)) := ⟨fun _ _ => rfl, rfl⟩
  split_ifs
  · exact h0.count h (by omega) (by omega) (by omega)
  · exact h0

end Sys2Proof.Machine
end

