-- ==== Sys2Proof/Laws/QuietLine.lean ====
section
/-! SUPPORT. What a trigger or a line of a sensor port may change (11). -/
namespace Sys2Proof.Machine

variable {rs : Spans}

/-- The state of a pair. -/
theorem Quiet.fst {γ : Type} {s t : State} {x : γ} (h : Quiet rs s t) : Quiet rs s (t, x).1 := h

/-- Either branch of a pair. -/
theorem Quiet.iteFst {γ : Type} {c : Prop} [Decidable c] {s : State} {a b : State × γ} (h1 : Quiet rs s a.1)
    (h2 : Quiet rs s b.1) : Quiet rs s (if c then a else b).1 := by split <;> assumption

/-! Ports (11). -/

theorem kPort_covers (h : pages 0x2200 0x22FF ∈ rs) {p x : Nat} (hp : p < 256) (hx : x ≤ 255) : covers rs (kPort p x) = true :=
  in_pages h (by omega) (by omega) hx
theorem port_pages : pages 0x2200 0x22FF ∈ portSpans := by simp [portSpans]
theorem port_counts : counterSpan ∈ portSpans := by simp [portSpans]

theorem State.countPart_quiet (s : State) {q : Nat} (hq : q < 256) (x : LinePart) : Quiet portSpans s (s.countPart q x) := by
  unfold State.countPart
  extract_lets s1
  have h : Quiet portSpans s s1 := Quiet.ite ((Quiet.refl s).addReg (kPort_covers port_pages hq (by omega))) (Quiet.refl s)
  split
  · exact h
  · exact (h.addReg (kPort_covers port_pages hq (by omega))).count port_counts (by omega) (by omega) (by omega)

theorem State.deliver_quiet (s : State) {q : Nat} (hq : q < 256) (p : Nat) (x : LinePart) : Quiet portSpans s (s.deliver q p x) :=
  (Quiet.setPort (Quiet.refl s)).trans (State.countPart_quiet _ hq _)

theorem State.fillLine_quiet (s : State) {q : Nat} (hq : q < 256) (p v r : Nat) : Quiet portSpans s (s.fillLine q p v r) :=
  Quiet.forEach (fun _ _ u => State.deliver_quiet u hq p _) (Quiet.refl s)

theorem State.drainMarked_quiet (n : Nat) (s : State) {q : Nat} (hq : q < 256) (p : Nat) :
    Quiet portSpans s (State.drainMarked n s q p) := by
  induction n generalizing s with
  | zero => exact Quiet.refl s
  | succ n ih =>
    unfold State.drainMarked
    split
    · split_ifs
      · exact ((Quiet.setPort (Quiet.refl s)).trans (State.fillLine_quiet _ hq p _ 1)).trans (ih _)
      · exact Quiet.refl s
    · exact Quiet.refl s

theorem State.showPend_quiet (s : State) {p : Nat} (hp : p < 256) : Quiet portSpans s (s.showPend p) :=
  (Quiet.refl s).setField (kPort_covers port_pages hp (by omega))

theorem State.enterPair_quiet (s : State) {q p : Nat} (hq : q < 256) (hp : p < 256) (v : Nat) (m : Bool) :
    Quiet portSpans s (s.enterPair q p v m) := by
  unfold State.enterPair
  simp only []
  refine Quiet.trans ?_ (((Quiet.setPort (Quiet.refl _)).trans (State.drainMarked_quiet 17 _ hq p)).trans (State.showPend_quiet _ hp))
  split
  · split_ifs
    · exact (Quiet.setPort (Quiet.refl s)).trans (State.fillLine_quiet _ hq p _ 2)
    · exact Quiet.refl s
  · exact Quiet.refl s

theorem gangPorts_lt (s : State) {q : Nat} (hq : q < 36) {p : Nat} (h : p ∈ s.gangPorts q) : p < 256 := by
  unfold State.gangPorts State.gangSize at h
  simp only [List.mem_map] at h
  obtain ⟨i, hi, rfl⟩ := h
  have := lt_of_upTo hi
  split at this <;> omega

theorem State.fillBefore_quiet (s : State) {q : Nat} (hq : q < 36) (v : Nat) : Quiet portSpans s (s.fillBefore q v) := by
  unfold State.fillBefore
  simp only []
  split_ifs
  · exact Quiet.forEach (fun _ _ u => Quiet.forEach (fun _ _ w => State.fillLine_quiet w (by omega) _ _ 6) (Quiet.refl u))
      (Quiet.setPort (Quiet.refl s))
  · exact Quiet.refl s

theorem State.portTrigger_quiet (s : State) {q : Nat} (hq : q < 36) (v : Nat) (m : Bool) :
    Quiet portSpans s (s.portTrigger q v m) := by
  unfold State.portTrigger
  split_ifs
  · exact Quiet.forEach (fun p hp u => State.enterPair_quiet u (by omega) (gangPorts_lt s hq hp) v m) (State.fillBefore_quiet s hq v)
  · exact Quiet.refl s


end Sys2Proof.Machine
end

