-- ==== Sys2Proof/Laws/Reads.lean ====
section
/-! SUPPORT. Reading a register, a bit or a field after the shared updates; and ranges of registers. -/
namespace Sys2Proof.Machine

variable (s t : State) {rs : Spans} {j k : Nat}

/-! Ranges. -/

theorem covers_cons (r : Nat × Nat) (rs : Spans) (k : Nat) :
    covers (r :: rs) k = false ↔ ¬(r.1 ≤ k ∧ k ≤ r.2) ∧ covers rs k = false := by simp [covers]
theorem covers_nil (k : Nat) : covers [] k = false ↔ True := by simp [covers]
theorem covers_append (a b : Spans) (k : Nat) : covers (a ++ b) k = false ↔ covers a k = false ∧ covers b k = false := by
  simp [covers]
theorem covers_cons_true (r : Nat × Nat) (rs : Spans) (k : Nat) :
    covers (r :: rs) k = true ↔ (r.1 ≤ k ∧ k ≤ r.2) ∨ covers rs k = true := by simp [covers]
theorem covers_append_true (a b : Spans) (k : Nat) : covers (a ++ b) k = true ↔ covers a k = true ∨ covers b k = true := by
  simp [covers]
theorem covers_at1 (h : at1 k ∈ rs) : covers rs k = true := covers_of h (Nat.le_refl _) (Nat.le_refl _)

/-- A bit or a field of an equal register. -/
theorem bit_of_reg {s t : State} (h : t.reg k = s.reg k) (i : Nat) : t.bit' k i = s.bit' k i := by unfold State.bit'; rw [h]
theorem field_of_reg {s t : State} (h : t.reg k = s.reg k) (a b : Nat) : t.field' k a b = s.field' k a b := by
  unfold State.field'; rw [h]

/-! Registers. -/

theorem State.reg_addReg_same (n : Nat) : (s.addReg k n).reg k = satAdd (widthOf k) (s.reg k) n % 2 ^ widthOf k := State.reg_setReg_same _ _ _
theorem State.reg_addReg_other (n : Nat) (h : j ≠ k) : (s.addReg k n).reg j = s.reg j := State.reg_setReg_other _ _ h
theorem State.reg_incReg_same : (s.incReg k).reg k = (s.reg k + 1) % 2 ^ widthOf k := State.reg_setReg_same _ _ _
theorem State.reg_incReg_other (h : j ≠ k) : (s.incReg k).reg j = s.reg j := State.reg_setReg_other _ _ h
theorem State.reg_setBit_other (i : Nat) (b : Bool) (h : j ≠ k) : (s.setBit k i b).reg j = s.reg j := State.reg_setReg_other _ _ h
theorem State.reg_setField_other (a b v : Nat) (h : j ≠ k) : (s.setField k a b v).reg j = s.reg j := State.reg_setReg_other _ _ h
theorem State.reg_setFn_other (f : Nat) (x : FnState) (h : j ≠ key 0x2020 f) : (s.setFn f x).reg j = s.reg j :=
  State.reg_setReg_other _ _ h
theorem State.reg_report_other (x : EvRec) (h5 : j ≠ key 0x2904 5) (h6 : j ≠ key 0x2904 6) : (s.report x).reg j = s.reg j :=
  (State.report_reports s x).regs _ h5 h6
theorem State.reg_enterFaulted_other (f : Nat) (h : j ≠ key 0x2020 f) (h5 : j ≠ key 0x2904 5) (h6 : j ≠ key 0x2904 6) :
    (s.enterFaulted f).reg j = s.reg j := by
  unfold State.enterFaulted
  rw [State.reg_report_other _ _ h5 h6, State.reg_setFn_other _ _ _ h]
@[simp] theorem State.reg_setEnc (i : Nat) (x : EncUnit) : (s.setEnc i x).reg k = s.reg k := rfl
@[simp] theorem State.reg_setDomain (i : Nat) (x : DomUnit) : (s.setDomain i x).reg k = s.reg k := rfl
@[simp] theorem State.reg_setTrig (i : Nat) (x : TrigUnit) : (s.setTrig i x).reg k = s.reg k := rfl
@[simp] theorem State.reg_setWin (i : Nat) (x : WinUnit) : (s.setWin i x).reg k = s.reg k := rfl
@[simp] theorem State.reg_setTimer (i : Nat) (x : TimerUnit) : (s.setTimer i x).reg k = s.reg k := rfl
@[simp] theorem State.reg_setGroup (i : Nat) (x : GroupUnit) : (s.setGroup i x).reg k = s.reg k := rfl
@[simp] theorem State.reg_setChan (i : Nat) (x : ChanUnit) : (s.setChan i x).reg k = s.reg k := rfl
@[simp] theorem State.reg_setPort (i : Nat) (x : PortUnit) : (s.setPort i x).reg k = s.reg k := rfl
@[simp] theorem State.reg_setScc (i : Nat) (x : SccUnit) : (s.setScc i x).reg k = s.reg k := rfl
@[simp] theorem State.reg_setCtx (i : Nat) (x : Ctx) : (s.setCtx i x).reg k = s.reg k := rfl

/-! Bits. -/

@[simp] theorem State.bit_sealed (i : Nat) : (s.sealed t).bit' k i = t.bit' k i := rfl
@[simp] theorem State.field_sealed (a b : Nat) : (s.sealed t).field' k a b = t.field' k a b := rfl
theorem State.bit_setBit_same (i : Nat) (b : Bool) (h : i < widthOf k) : (s.setBit k i b).bit' k i = b := by
  rw [State.bit_setBit _ _ _ _ _ h, if_pos rfl]
theorem State.bit_setBit_beside (i l : Nat) (b : Bool) (h : l < widthOf k) (hl : l ≠ i) : (s.setBit k i b).bit' k l = s.bit' k l := by
  rw [State.bit_setBit _ _ _ _ _ h, if_neg hl]
theorem State.bit_setReg_other (v i : Nat) (h : j ≠ k) : (s.setReg k v).bit' j i = s.bit' j i := bit_of_reg (State.reg_setReg_other _ _ h) i
theorem State.bit_addReg_other (v i : Nat) (h : j ≠ k) : (s.addReg k v).bit' j i = s.bit' j i := bit_of_reg (State.reg_setReg_other _ _ h) i
theorem State.bit_incReg_other (i : Nat) (h : j ≠ k) : (s.incReg k).bit' j i = s.bit' j i := bit_of_reg (State.reg_setReg_other _ _ h) i
theorem State.bit_setField_other (a b v i : Nat) (h : j ≠ k) : (s.setField k a b v).bit' j i = s.bit' j i :=
  bit_of_reg (State.reg_setReg_other _ _ h) i
theorem State.bit_count_other (ix sub d : Nat) (l : Option (Nat × Nat)) (i : Nat) (h : k ≠ key ix sub) (h5 : k ≠ key 0x2904 5)
    (h6 : k ≠ key 0x2904 6) : (s.count ix sub d l).bit' k i = s.bit' k i := bit_of_reg (State.reg_count_other _ _ _ _ _ _ h h5 h6) i
theorem State.bit_report_other (x : EvRec) (i : Nat) (h5 : k ≠ key 0x2904 5) (h6 : k ≠ key 0x2904 6) :
    (s.report x).bit' k i = s.bit' k i := bit_of_reg (State.reg_report_other _ _ h5 h6) i

/-! Function states. -/

/-- The state of a function of an equal register. -/
theorem fn_of_reg {s t : State} {f : Nat} (h : t.reg (key 0x2020 f) = s.reg (key 0x2020 f)) : t.fn f = s.fn f := by
  unfold State.fn; rw [h]
theorem State.fn_count (ix sub d : Nat) (l : Option (Nat × Nat)) (f : Nat) (h : 0x2021 ≤ ix) (hf : f ≤ 255) :
    (s.count ix sub d l).fn f = s.fn f :=
  fn_of_reg (State.reg_count_other _ _ _ _ _ _ (by unfold key; omega) (by unfold key; omega) (by unfold key; omega))
theorem State.fn_report (x : EvRec) (f : Nat) (hf : f ≤ 255) : (s.report x).fn f = s.fn f :=
  fn_of_reg (State.reg_report_other _ _ (by unfold key; omega) (by unfold key; omega))
theorem State.fn_enterFaulted_same {f : Nat} (h1 : 1 ≤ f) (h2 : f ≤ 0x8B) : (s.enterFaulted f).fn f = .faulted := by
  unfold State.enterFaulted
  rw [State.fn_report _ _ _ (by omega), State.fn_setFn_same _ _ h1 h2]
theorem State.fn_enterFaulted_other {f g : Nat} (hg : g ≤ 255) (h : g ≠ f) : (s.enterFaulted f).fn g = s.fn g := by
  unfold State.enterFaulted
  rw [State.fn_report _ _ _ hg, State.fn_setFn_other _ _ h]

/-! Events. -/

/-- Of a window's registers an event changes only its counts and the positions of the first and the last. -/
theorem State.reg_event (src c : Nat) (h : k % 256 < 7) (h2 : k / 256 < 0x2710) : (s.event src c).reg k = s.reg k := by
  have hw : ∀ w x, 7 ≤ x → x ≤ 9 → k ≠ key w x := fun w x _ _ => by unfold key; omega
  have hg : ∀ (u : State) (w : Nat), (u.gate w c).reg k = u.reg k := by
    intro u w
    unfold State.gate
    simp only []
    split_ifs
    · rw [State.reg_setReg_other _ _ (hw _ _ (by omega) (by omega)), State.reg_setReg_other _ _ (hw _ _ (by omega) (by omega)),
        State.reg_setWin, State.reg_incReg_other _ (hw _ _ (by omega) (by omega))]
    · rw [State.reg_setReg_other _ _ (hw _ _ (by omega) (by omega)), State.reg_setWin, State.reg_incReg_other _ (hw _ _ (by omega) (by omega))]
    · rfl
  have ha : ∀ (u : State) (x : Nat), (u.awaitTimer x c).reg k = u.reg k := fun u x =>
    (State.awaitTimer_quiet (rs := []) u x c).regs k rfl
  unfold State.event
  split_ifs
  · rfl
  · unfold State.gateAll State.timeAll State.captureAll
    refine (forEach_same (fun s : State => s.reg k) _ (fun x u => ?_) _ _).trans
      ((forEach_same (fun s : State => s.reg k) _ (fun x u => ?_) _ _).trans
        (forEach_same (fun s : State => s.reg k) _ (fun x u => ?_) _ _))
    · simp only []
      split_ifs
      · rw [State.reg_setReg_other _ _ (by unfold key; omega), State.reg_setReg_other _ _ (by unfold key; omega)]
      · rfl
    · simp only []
      split_ifs <;> first | rfl | exact ha u x
    · split_ifs
      · exact hg u x
      · rfl

/-! Ranges of the guards. -/

/-- What lies within ranges before the guard lies within them after it. -/
theorem Quiet.sealed {s t : State} (h : Quiet rs s t) : OnlyRegs rs s (s.sealed t) ∧ SameMem s (s.sealed t) := ⟨h.regs, h.mem⟩

/-- A count, where the ranges name the counter and the counters of drops alone. -/
theorem Quiet.count1 {s t : State} {i x d : Nat} {l : Option (Nat × Nat)} (h : Quiet rs s t) (h0 : covers rs (key i x) = true)
    (h5 : covers rs (key 0x2904 5) = true) (h6 : covers rs (key 0x2904 6) = true) : Quiet rs s (t.count i x d l) :=
  (h.addReg h0).trans ((State.count_reports t i x d l).quiet h5 h6)

end Sys2Proof.Machine
end

