-- ==== Sys2Proof/Laws/Put.lean ====
section
/-! SUPPORT. What a write that passes its checks leaves (16 R407, R408). -/
namespace Sys2Proof.Machine

variable (s : State) (r : Route) (dt ix sub : Nat) (data : Bytes)

/-- A state with another EtherCAT side. -/
def State.withEc (s : State) (e : EcUnit) : State := { s with ec := e }

/-- `t` with another EtherCAT side, other fuses, and the grade and the queue of `s`. -/
def State.keepOuter (s t : State) (e : EcUnit) (f : Fuses) : State :=
  { t with ec := e, grade := s.grade, pending := s.pending, fuses := f }

@[simp] theorem State.reg_withEc (e : EcUnit) (k : Nat) : (s.withEc e).reg k = s.reg k := rfl
@[simp] theorem State.reg_keepOuter (t : State) (e : EcUnit) (f : Fuses) (k : Nat) : (s.keepOuter t e f).reg k = t.reg k := rfl

/-- Before its checks a write is only remembered for contention. -/
theorem State.arrive_ec : ∃ e, s.arrive r ix sub data = s.withEc e := by
  unfold State.arrive
  split
  · exact ⟨_, rfl⟩
  · exact ⟨s.ec, rfl⟩

/-- A write that meets no contention and passes its checks acts. -/
theorem State.write_accepted (hm : s.mute r = false) (hl : ¬(r = .hostPort ∧ s.loses ix sub data = true))
    (hc : (s.arrive r ix sub data).check r ix sub data = none) :
    s.write r ix sub data = (s.arrive r ix sub data).act r ix sub data := by
  unfold State.write
  rw [hm, if_neg (by simp), if_neg hl]
  simp only [hc]

/-- Over either route the dictionary's state is that of the reply. -/
theorem Reply.sentOver_ec (x : Reply) : ∃ e, x.sentOver r = x.s.withEc e := by
  cases r
  · exact ⟨_, rfl⟩
  · exact ⟨x.s.ec, rfl⟩

/-- An accepted write does what its entry's effect is, and beside that only the EtherCAT side and the guarded fields may
differ. -/
theorem State.put_next {w : State} (hw : w = s.wait dt) (h : Accepts w r ix sub data) :
    ∃ e0 e f, s.put r dt ix sub data = .next (w.keepOuter ((w.withEc e0).act r ix sub data).s e f) := by
  obtain ⟨hs, hm, hl, hc⟩ := h
  have hx := State.write_accepted w r ix sub data hm hl hc
  obtain ⟨e0, he⟩ := State.arrive_ec w r ix sub data
  rw [he] at hx
  have ht : w.through r ix sub data = (w.write r ix sub data).sentOver r := by
    unfold State.through; rw [hm, if_neg (by simp)]
  rw [hx] at ht
  generalize ha : State.act _ r ix sub data = x at ht
  obtain ⟨e, he⟩ := Reply.sentOver_ec r x
  rw [he] at ht
  refine ⟨e0, e, w.fuses.blow x.s.fuses, ?_⟩
  unfold State.put State.via
  rw [← hw]
  simp only [State.routed, if_pos (show w.served r = true from hs), ht, ha]
  rfl

end Sys2Proof.Machine
end

