-- ==== Sys2Proof/Laws/Act.lean ====
section
/-! SUPPORT. What an accepted write of a number does (16 R407, R408), and numbers as bytes. -/
namespace Sys2Proof.Machine

theorem leNat_leBytes (n v : Nat) : leNat (leBytes n v) = v % 256 ^ n := by
  induction n generalizing v with
  | zero => simp [leNat, leBytes, Nat.mod_one]
  | succ n ih =>
    simp only [leNat, leBytes, ih, BitVec.toNat_ofNat]
    rw [show (2 : Nat) ^ 8 = 256 from rfl, pow_succ, Nat.mul_comm (256 ^ n), Nat.mod_mul]

variable (s : State) (r : Route) (ix sub : Nat) (data : Bytes)

/-- A number entry that is neither a function command nor cleared by ones. -/
theorem State.act_num {e : Entry} (h : entryOf ix sub = some e) (hd : e.type ≠ .dom) (hw : e.acc ≠ .w1c) (hf : ix ≠ 0x2020) :
    s.act r ix sub data = s.actNum r ix sub e.mask (leNat data) := by
  unfold State.act
  rw [if_neg hf]
  simp only [h]
  rw [if_neg hd, if_neg hw]

/-- A DOMAIN entry. -/
theorem State.act_dom {e : Entry} (h : entryOf ix sub = some e) (hd : e.type = .dom) (hf : ix ≠ 0x2020) :
    s.act r ix sub data = s.actDom r ix sub data := by
  unfold State.act
  rw [if_neg hf]
  simp only [h]
  rw [if_pos hd]

/-- A function command. -/
theorem State.act_fn {f : Nat} (h : f ≠ 0xF2) : s.act r 0x2020 f data = s.fnWrite r f (leNat data) := by
  unfold State.act
  rw [if_pos rfl, if_neg h]

theorem within_of {a b c : Nat} (h : b ≤ a ∧ a ≤ c) : within a b c = true := by simpa [within] using h
theorem not_within {a b c : Nat} (h : ¬(b ≤ a ∧ a ≤ c)) : ¬(within a b c = true) := by simpa [within] using h

variable (m v : Nat)

/-- A write to an encoder's entry, a compare channel's, a window's and a timer's. -/
theorem State.actNum_encoder {e : Nat} (h : e < 4) : s.actNum r (0x2100 + e) sub m v = { s := s.actEncoder e sub m v } := by
  unfold State.actNum
  simp only []
  rw [if_pos (within_of (by omega)), show 0x2100 + e - 0x2100 = e by omega]
theorem State.actNum_compare {n : Nat} (h : n < 32) :
    s.actNum r (0x2120 + n) sub m v = { s := s.actCompare n sub m v } := by
  unfold State.actNum
  simp only []
  rw [if_neg (not_within (by omega)), if_pos (within_of (by omega)), show 0x2120 + n - 0x2120 = n by omega]
theorem State.actNum_window {w : Nat} (h : w < 64) :
    s.actNum r (0x2140 + w) sub m v = { s := (s.putMasked (key (0x2140 + w) sub) m v).afterWindow w sub v } := by
  unfold State.actNum
  simp only []
  rw [if_neg (not_within (by omega)), if_neg (not_within (by omega)), if_pos (within_of (by omega)),
    show 0x2140 + w - 0x2140 = w by omega]
theorem State.actNum_timer : s.actNum r 0x2180 sub m v = { s := (s.putMasked (key 0x2180 sub) m v).afterTimer sub } := rfl

/-- What lies within ranges before the guards of a write lies within them after it. -/
theorem Quiet.keepOuter {rs : Spans} {w t : State} {e0 e : EcUnit} {f : Fuses} (h : Quiet rs (w.withEc e0) t) :
    OnlyRegs rs w (w.keepOuter t e f) ∧ SameMem w (w.keepOuter t e f) := ⟨h.regs, h.mem⟩

end Sys2Proof.Machine
end

