-- ==== Sys2Proof/Laws/Memory.lean ====
section
/-! SUPPORT. Laws of the memory levels: reading a byte after a write, and the canonical form that every operation keeps. -/
namespace Sys2Proof.Machine

variable (m : Store)

/-- A byte reads as written. -/
@[simp] theorem Store.get_put_same (a : Nat) (b : Byte) : (m.put a b).get a = b := tget_tset_same _ _ _ _

/-- A byte written leaves every other byte alone. -/
theorem Store.get_put_other {a c : Nat} (b : Byte) (h : c ≠ a) : (m.put a b).get c = m.get c := tget_tset_other _ _ _ h

/-- One byte written keeps the canonical form. -/
theorem Store.put_wf (a : Nat) (b : Byte) (h : m.wf) : (m.put a b).wf := twf_tset _ _ _ h

/-- Bytes written one after another keep the canonical form. -/
theorem Store.putAll_wf (bs : List Byte) (a : Nat) (h : m.wf) : (Store.putAll bs a m).wf := by
  induction bs generalizing a m with
  | nil => exact h
  | cons b bs ih => exact ih _ _ (m.put_wf a b h)

/-- Bytes written from `a` up leave every byte outside them alone. -/
theorem Store.get_putAll_outside (bs : List Byte) (a c : Nat) (h : c < a ∨ a + bs.length ≤ c) :
    (Store.putAll bs a m).get c = m.get c := by
  induction bs generalizing a m with
  | nil => rfl
  | cons b bs ih =>
    simp only [List.length_cons] at h
    rw [Store.putAll, ih _ _ (by omega), Store.get_put_other _ _ (by omega)]

/-- Bytes written from `a` up read back. -/
theorem Store.get_putAll_inside (bs : List Byte) (a i : Nat) (h : i < bs.length) :
    (Store.putAll bs a m).get (a + i) = bs[i] := by
  induction bs generalizing a i m with
  | nil => simp at h
  | cons b bs ih =>
    cases i with
    | zero => rw [Store.putAll, Store.get_putAll_outside _ _ _ _ (by omega)]; simp
    | succ i =>
      rw [Store.putAll, show a + (i + 1) = a + 1 + i by omega, ih]
      · simp
      · simpa using h

/-- Marking words leaves the bytes alone. -/
theorem Store.markWords_cells (sz a : Nat) (xs : List Marked) (ws : List Nat) :
    (ws.foldl (Store.markWord sz a xs) m).cells = m.cells := by
  induction ws generalizing m with
  | nil => rfl
  | cons w ws ih => rw [List.foldl_cons, ih]; rfl

/-- A write puts its bytes, whatever it does to the marks. -/
theorem Store.write_cells (sz a : Nat) (xs : List Marked) :
    ∃ m', m'.cells = m.cells ∧ m.write sz a xs = Store.putAll (xs.map Prod.fst) a m' := by
  unfold Store.write
  split_ifs
  · exact ⟨m, rfl, rfl⟩
  · exact ⟨_, m.markWords_cells sz a xs _, rfl⟩

/-- A write keeps the canonical form. -/
theorem Store.write_wf (sz a : Nat) (xs : List Marked) (h : m.wf) : (m.write sz a xs).wf := by
  obtain ⟨m', hc, hw⟩ := m.write_cells sz a xs
  rw [hw]
  exact Store.putAll_wf m' _ _ (by rw [Store.wf, hc]; exact h)

/-- A write leaves every byte outside its range alone. -/
theorem Store.get_write_outside (sz a c : Nat) (xs : List Marked) (h : c < a ∨ a + xs.length ≤ c) :
    (m.write sz a xs).get c = m.get c := by
  obtain ⟨m', hc, hw⟩ := m.write_cells sz a xs
  rw [hw, Store.get_putAll_outside _ _ _ _ (by simpa using h), Store.get, Store.get, hc]

/-- A write's bytes read back. -/
theorem Store.get_write_inside (sz a i : Nat) (xs : List Marked) (h : i < xs.length) :
    (m.write sz a xs).get (a + i) = (xs[i]).1 := by
  obtain ⟨m', _, hw⟩ := m.write_cells sz a xs
  rw [hw, Store.get_putAll_inside _ _ _ _ (by simpa using h)]
  simp

/-! Ranges that move whole. -/

section Ranges
variable {d : Nat → Byte}

/-- Cells in canonical form from `lo` up, all below `hi`, followed by cells in canonical form from `hi` up. -/
theorem twfFrom_append (xs ys : List Host.Cell) (lo hi : Nat) (hx : twfFrom d lo xs = true) (hb : ∀ c ∈ xs, c.1 < hi)
    (hl : lo ≤ hi) (hy : twfFrom d hi ys = true) : twfFrom d lo (xs ++ ys) = true := by
  induction xs generalizing lo with
  | nil => exact twfFrom_mono d hy hl
  | cons c xs ih =>
    obtain ⟨j, b⟩ := c
    have hj : j < hi := hb (j, b) List.mem_cons_self
    simp only [List.cons_append, twfFrom, Bool.and_eq_true] at hx ⊢
    exact ⟨hx.1, ih (j + 1) hx.2 (fun c hc => hb c (List.mem_cons_of_mem _ hc)) (by omega)⟩

/-- The cells below a bound are in canonical form. -/
theorem twfFrom_takeWhile (xs : List Host.Cell) (lo a : Nat) (h : twfFrom d lo xs = true) :
    twfFrom d lo (xs.takeWhile (fun c => decide (c.1 < a))) = true := by
  induction xs generalizing lo with
  | nil => rfl
  | cons c xs ih =>
    obtain ⟨j, b⟩ := c
    simp only [twfFrom, Bool.and_eq_true] at h
    rw [List.takeWhile_cons]
    split_ifs
    · simp only [twfFrom, Bool.and_eq_true]; exact ⟨h.1, ih _ h.2⟩
    · rfl

/-- The cells from a bound up are in canonical form. -/
theorem twfFrom_dropWhile (xs : List Host.Cell) (lo a : Nat) (h : twfFrom d lo xs = true) :
    twfFrom d (max lo a) (xs.dropWhile (fun c => decide (c.1 < a))) = true := by
  induction xs generalizing lo with
  | nil => rfl
  | cons c xs ih =>
    obtain ⟨j, b⟩ := c
    simp only [twfFrom, Bool.and_eq_true, decide_eq_true_eq] at h
    rw [List.dropWhile_cons]
    split_ifs with hj
    · refine twfFrom_mono d (ih _ h.2) ?_
      simp only [decide_eq_true_eq] at hj; omega
    · simp only [decide_eq_true_eq] at hj
      simp only [twfFrom, Bool.and_eq_true, decide_eq_true_eq]
      exact ⟨⟨by omega, h.1.2⟩, h.2⟩

/-- Filtered cells are in canonical form. -/
theorem twfFrom_filter (xs : List Host.Cell) (lo : Nat) (p : Host.Cell → Bool) (h : twfFrom d lo xs = true) :
    twfFrom d lo (xs.filter p) = true := by
  induction xs generalizing lo with
  | nil => rfl
  | cons c xs ih =>
    obtain ⟨j, b⟩ := c
    simp only [twfFrom, Bool.and_eq_true, decide_eq_true_eq] at h
    rw [List.filter_cons]
    split_ifs
    · simp only [twfFrom, Bool.and_eq_true, decide_eq_true_eq]; exact ⟨h.1, ih _ h.2⟩
    · exact twfFrom_mono d (ih _ h.2) (by omega)

end Ranges

/-- Cells moved up are in canonical form. -/
theorem twfFrom_shift (xs : List Host.Cell) (lo a : Nat) (h : twfFrom unlisted lo xs = true) :
    twfFrom unlisted (lo + a) (xs.map (fun c => (c.1 + a, c.2))) = true := by
  induction xs generalizing lo with
  | nil => rfl
  | cons c xs ih =>
    obtain ⟨j, b⟩ := c
    simp only [twfFrom, Bool.and_eq_true, decide_eq_true_eq, List.map_cons] at h ⊢
    refine ⟨⟨by omega, h.1.2⟩, ?_⟩
    have := ih _ h.2
    rwa [show j + a + 1 = j + 1 + a by omega]

/-- A range written whole keeps the canonical form. -/
theorem Store.paste_wf (sz a n : Nat) (x : List Host.Cell × List Nat) (h : m.wf) (hx : twf unlisted x.1 = true) :
    (m.paste sz a n x).wf := by
  unfold Store.wf Store.paste pasteCells twf at *
  simp only []
  rw [List.append_assoc]
  refine twfFrom_append _ _ 0 a (twfFrom_takeWhile _ _ _ h) ?_ (Nat.zero_le _) ?_
  · intro c hc
    simpa using List.mem_takeWhile_imp hc
  · refine twfFrom_append _ _ a (a + n) ?_ ?_ (by omega) ?_
    · have := twfFrom_shift _ 0 a (twfFrom_filter x.1 0 (fun c => decide (c.1 < n)) hx)
      rwa [Nat.zero_add] at this
    · intro c hc
      simp only [List.mem_map, List.mem_filter, decide_eq_true_eq] at hc
      obtain ⟨e, he, rfl⟩ := hc
      simp only; omega
    · have := twfFrom_dropWhile _ 0 a h
      rw [Nat.zero_max] at this
      exact twfFrom_mono _ (twfFrom_dropWhile _ a (a + n) this) (by omega)

/-- Zeros written over a range keep the canonical form. -/
theorem Store.zero_wf (sz a n : Nat) (h : m.wf) : (m.zero sz a n).wf := m.paste_wf sz a n _ h rfl

/-- A range taken out is in canonical form. -/
theorem Store.cut_wf (sz a n : Nat) (h : m.wf) : twf unlisted (m.cut sz a n).1 = true := by
  unfold Store.cut cutCells twf
  simp only []
  have hf := twfFrom_filter m.cells 0 (fun c => decide (a ≤ c.1) && decide (c.1 < a + n)) h
  have : ∀ (xs : List Host.Cell) (lo : Nat), twfFrom unlisted lo xs = true → (∀ c ∈ xs, a ≤ c.1) →
      twfFrom unlisted (lo - a) (xs.map (fun c => (c.1 - a, c.2))) = true := by
    intro xs
    induction xs with
    | nil => intros; rfl
    | cons c xs ih =>
      obtain ⟨j, b⟩ := c
      intro lo hl hb
      have hj : a ≤ j := hb (j, b) List.mem_cons_self
      simp only [twfFrom, Bool.and_eq_true, decide_eq_true_eq, List.map_cons] at hl ⊢
      refine ⟨⟨by omega, hl.1.2⟩, ?_⟩
      have := ih _ hl.2 (fun c hc => hb c (List.mem_cons_of_mem _ hc))
      rwa [show j + 1 - a = j - a + 1 by omega] at this
  refine twfFrom_mono _ (this _ 0 hf ?_) (Nat.zero_le _)
  intro c hc
  simp only [List.mem_filter, Bool.and_eq_true, decide_eq_true_eq] at hc
  exact hc.2.1

/-- After reset every level is in canonical form. -/
theorem Store.reset_wf : State.reset.ts.wf ∧ State.reset.acc.wf ∧ State.reset.stack.wf ∧ State.reset.ext.wf := ⟨rfl, rfl, rfl, rfl⟩

end Sys2Proof.Machine
end

