-- ==== Sys2Proof/Laws/Units.lean ====
section
/-! SUPPORT. Reading a unit after it, or another unit of its kind, has been replaced. -/
namespace Sys2Proof.Machine

variable (s : State) {i j : Nat}

@[simp] theorem State.array_setArray (x : ArrUnit) : (s.setArray i x).array i = x := tget_tset_same _ _ _ _
theorem State.array_setArray_other (x : ArrUnit) (h : j ≠ i) : (s.setArray i x).array j = s.array j := tget_tset_other _ _ _ h
@[simp] theorem State.reg_setArray' (x : ArrUnit) (k : Nat) : (s.setArray i x).reg k = s.reg k := rfl
@[simp] theorem State.bank_setBank (x : BankUnit) : (s.setBank i x).bank i = x := tget_tset_same _ _ _ _
@[simp] theorem State.reg_setBank' (x : BankUnit) (k : Nat) : (s.setBank i x).reg k = s.reg k := rfl
@[simp] theorem State.topk_setTopk (x : TopkUnit) : (s.setTopk i x).topk i = x := tget_tset_same _ _ _ _
theorem State.topk_setTopk_other (x : TopkUnit) (h : j ≠ i) : (s.setTopk i x).topk j = s.topk j := tget_tset_other _ _ _ h
@[simp] theorem State.reg_setTopk' (x : TopkUnit) (k : Nat) : (s.setTopk i x).reg k = s.reg k := rfl
@[simp] theorem State.job_setJob (x : JobUnit) : (s.setJob i x).job i = x := tget_tset_same _ _ _ _
@[simp] theorem State.reg_setJob' (x : JobUnit) (k : Nat) : (s.setJob i x).reg k = s.reg k := rfl
@[simp] theorem State.ife_setIfe (x : IfeUnit) : (s.setIfe i x).ife i = x := tget_tset_same _ _ _ _
theorem State.ife_setIfe_other (x : IfeUnit) (h : j ≠ i) : (s.setIfe i x).ife j = s.ife j := tget_tset_other _ _ _ h
@[simp] theorem State.reg_setIfe' (x : IfeUnit) (k : Nat) : (s.setIfe i x).reg k = s.reg k := rfl
@[simp] theorem State.intake_setIntake (x : IntakeUnit) : (s.setIntake i x).intake i = x := tget_tset_same _ _ _ _
@[simp] theorem State.reg_setIntake' (x : IntakeUnit) (k : Nat) : (s.setIntake i x).reg k = s.reg k := rfl
@[simp] theorem State.net_setNet (x : NetUnit) : (s.setNet i x).net i = x := tget_tset_same _ _ _ _
@[simp] theorem State.reg_setNet' (x : NetUnit) (k : Nat) : (s.setNet i x).reg k = s.reg k := rfl
@[simp] theorem State.part_setPart (x : PartUnit) : (s.setPart i x).part i = x := tget_tset_same _ _ _ _
theorem State.part_setPart_other (x : PartUnit) (h : j ≠ i) : (s.setPart i x).part j = s.part j := tget_tset_other _ _ _ h
@[simp] theorem State.reg_setPart' (x : PartUnit) (k : Nat) : (s.setPart i x).reg k = s.reg k := rfl
@[simp] theorem State.vec_setVec (x : VecUnit) : (s.setVec i x).vec i = x := tget_tset_same _ _ _ _
theorem State.vec_setVec_other (x : VecUnit) (h : j ≠ i) : (s.setVec i x).vec j = s.vec j := tget_tset_other _ _ _ h
@[simp] theorem State.reg_setVec' (x : VecUnit) (k : Nat) : (s.setVec i x).reg k = s.reg k := rfl
@[simp] theorem State.enc_setReg (k v : Nat) : (s.setReg k v).enc i = s.enc i := rfl
@[simp] theorem State.domain_setReg (k v : Nat) : (s.setReg k v).domain i = s.domain i := rfl
@[simp] theorem State.trig_setReg (k v : Nat) : (s.setReg k v).trig i = s.trig i := rfl
@[simp] theorem State.win_setReg (k v : Nat) : (s.setReg k v).win i = s.win i := rfl
@[simp] theorem State.timer_setReg (k v : Nat) : (s.setReg k v).timer i = s.timer i := rfl
@[simp] theorem State.group_setReg (k v : Nat) : (s.setReg k v).group i = s.group i := rfl
@[simp] theorem State.chan_setReg (k v : Nat) : (s.setReg k v).chan i = s.chan i := rfl
@[simp] theorem State.port_setReg (k v : Nat) : (s.setReg k v).port i = s.port i := rfl
@[simp] theorem State.scc_setReg (k v : Nat) : (s.setReg k v).scc i = s.scc i := rfl
@[simp] theorem State.array_setReg (k v : Nat) : (s.setReg k v).array i = s.array i := rfl
@[simp] theorem State.bank_setReg (k v : Nat) : (s.setReg k v).bank i = s.bank i := rfl
@[simp] theorem State.topk_setReg (k v : Nat) : (s.setReg k v).topk i = s.topk i := rfl
@[simp] theorem State.job_setReg (k v : Nat) : (s.setReg k v).job i = s.job i := rfl
@[simp] theorem State.ife_setReg (k v : Nat) : (s.setReg k v).ife i = s.ife i := rfl
@[simp] theorem State.intake_setReg (k v : Nat) : (s.setReg k v).intake i = s.intake i := rfl
@[simp] theorem State.net_setReg (k v : Nat) : (s.setReg k v).net i = s.net i := rfl
@[simp] theorem State.part_setReg (k v : Nat) : (s.setReg k v).part i = s.part i := rfl
@[simp] theorem State.vec_setReg (k v : Nat) : (s.setReg k v).vec i = s.vec i := rfl

end Sys2Proof.Machine
end

