-- ==== Sys2Proof/Tests/Slice0.lean ====
section
/-! SUPPORT. Small tests of the model, and for every statement with hypotheses a state and operands that meet them. -/
namespace Sys2Proof.Tests

set_option Elab.async false
set_option linter.unusedVariables false

open Sys2Proof Sys2Proof.Machine

/-! Ill-formed operands are refused. -/

/-- LIMIT_UPDATE carries the readings of six cores. -/
theorem test_wellformed_limit_update : Instr.wellFormed (.limitUpdate 0 ⟨[1, 2, 3, 4, 5], 0, 0, 0, 0⟩) = false := by decide
/-- An encoder's configuration is subindex 1 or 7, of 4 bytes. -/
theorem test_wellformed_encoder : Instr.wellFormed (.encoderConfigWrite 0 .hostPort 0 2 [0, 0, 0, 0]) = false
    ∧ Instr.wellFormed (.encoderConfigWrite 0 .hostPort 0 1 [0]) = false := by decide
/-- A level has so many agents and no more. -/
theorem test_wellformed_agent : Instr.wellFormed (.droneRead 0 .scratchpad 12 0 .clean) = false
    ∧ Instr.wellFormed (.droneRead 0 .accumulator 12 0 .clean) = false
    ∧ Instr.wellFormed (.droneRead 0 .stack 32 0 .clean) = false
    ∧ Instr.wellFormed (.droneRead 0 .external 0 0 .clean) = false
    ∧ Instr.wellFormed (.droneWriteback 0 .external 4 none) = false := by decide
/-- 2500h.24h is no pool size. -/
theorem test_wellformed_pool_size : Instr.wellFormed (.poolSizeWrite 0 .hostPort 0x24 0) = false := by decide
/-- The records of the units have their lengths. -/
theorem test_wellformed_records : Instr.wellFormed (.topkCommand 0 0 0 [0]) = false ∧ Instr.wellFormed (.enrol 0 0 [0]) = false
    ∧ Instr.wellFormed (.void 0 0 [0]) = false ∧ Instr.wellFormed (.step 0 0 0 [0]) = false
    ∧ Instr.wellFormed (.join 0 0 0 [0]) = false ∧ Instr.wellFormed (.leave 0 0 0 [0]) = false
    ∧ Instr.wellFormed (.i2cWrite 0 none 0 0 0 [0]) = false ∧ Instr.wellFormed (.i2cWriteRead 0 none 0 0 0 [0]) = false
    ∧ Instr.wellFormed (.spiTransfer 0 none 0 0 0 [0]) = false ∧ Instr.wellFormed (.intakeRelease 0 0 0 [0]) = false
    ∧ Instr.wellFormed (.roi 0 0 0 [0]) = false ∧ Instr.wellFormed (.orderDecided 0 0 0 [0]) = false
    ∧ Instr.wellFormed (.orderUndecided 0 0 0 [0]) = false ∧ Instr.wellFormed (.decide 0 0 0 [0]) = false := by decide
/-- Debounce times stand at subindices 3 to 0Ah. -/
theorem test_wellformed_debounce : Instr.wellFormed (.debounceWrite 0 .hostPort 2 0) = false
    ∧ Instr.wellFormed (.debounceWrite 0 .hostPort 0x0B 0) = false := by decide
/-- 0 and F2h are no functions of 2020h. -/
theorem test_wellformed_function : Instr.wellFormed (.enable 0 .hostPort 0) = false
    ∧ Instr.wellFormed (.enableComplete 0 0xF2) = false ∧ Instr.wellFormed (.disable 0 .hostPort 0) = false
    ∧ Instr.wellFormed (.start 0 .hostPort 0) = false ∧ Instr.wellFormed (.stop 0 .hostPort 0) = false
    ∧ Instr.wellFormed (.functionStopped 0 0) = false ∧ Instr.wellFormed (.clear 0 .hostPort 0) = false
    ∧ Instr.wellFormed (.claim 0 .hostPort 0) = false ∧ Instr.wellFormed (.release 0 .hostPort 0) = false := by decide
/-- The list of a set command names each function once (16 R411). -/
theorem test_wellformed_set : Instr.wellFormed (.setStart 0 .hostPort [5, 5]) = false
    ∧ Instr.wellFormed (.setStop 0 .hostPort [0]) = false := by decide
/-- 2900h has no subindex 0 that counts. -/
theorem test_wellformed_holdoff : Instr.wellFormed (.holdoffExpiry 0 (key 0x2900 0)) = false := by decide

/-! Means to build states and to meet hypotheses. -/

/-- The state after reset with some registers set. -/
def at_ (rs : List (Nat × Nat)) : State := rs.foldl (fun s r => s.setReg r.1 r.2) State.reset

/-- The next state of a command, or the same where there is none. -/
def after (c : Instr) (s : State) : State := match exec c s with | .next t => t | _ => s

/-- The same after ten more cycles of SCLK, in which what the command leads to happens. -/
def later (c : Instr) (s : State) : State := (after c s).wait 120

theorem tget_all {α : Type} (d : Nat → α) (p : α → Prop) (hd : ∀ k, p (d k)) :
    ∀ (l : List (Nat × α)), (∀ x ∈ l, p x.2) → ∀ k, p (tget d l k)
  | [], _, k => hd k
  | (j, a) :: t, h, k => by
    unfold tget
    split
    · exact h (j, a) (by simp)
    · exact tget_all d p hd t (fun x hx => h x (by simp [hx])) k

theorem tfind_all {α : Type} (p : α → Prop) :
    ∀ (l : List (Nat × α)), (∀ x ∈ l, p x.2) → ∀ k x, tfind l k = some x → p x
  | [], _, k, x, h => by cases h
  | (j, a) :: t, h, k, x, e => by
    unfold tfind at e
    split at e
    · cases e; exact h (j, a) (by simp)
    · exact tfind_all p t (fun y hy => h y (by simp [hy])) k x e

/-- No job leaves where none that is listed does. -/
theorem no_job_leaves {s : State} (h : ∀ x ∈ s.jobs, x.2.leaving = false) (j : Nat) : (s.job j).leaving = false :=
  tget_all _ (fun u => u.leaving = false) (fun _ => rfl) s.jobs h j

theorem calm_of {s : State} (h : (∀ x ∈ s.jobs, x.2.leaving = false) ∧ ∀ x ∈ s.ctxs, x.2.evicted = none) : Calm s := by
  refine ⟨no_job_leaves h.1, fun k => ?_⟩
  unfold State.ctx
  cases e : s.ctx? k with
  | none => rfl
  | some x => exact tfind_all (fun x => x.evicted = none) s.ctxs h.2 k x e

theorem calmBut_of {s : State} {k : Nat}
    (h : (∀ x ∈ s.jobs, x.2.leaving = false) ∧ ∀ x ∈ s.ctxs, x.1 = k ∨ x.2.evicted = none) : CalmBut s k := by
  refine ⟨no_job_leaves h.1, fun i hi => ?_⟩
  unfold State.ctx
  cases e : s.ctx? i with
  | none => rfl
  | some x =>
    suffices ∀ (l : List (Nat × Ctx)), (∀ x ∈ l, x.1 = k ∨ x.2.evicted = none) → tfind l i = some x → x.evicted = none from
      this s.ctxs h.2 e
    intro l
    induction l with
    | nil => intro _ e; cases e
    | cons a t ih =>
      intro hl e
      obtain ⟨j, a⟩ := a
      unfold tfind at e
      split at e
      · rename_i hj
        cases e
        rcases hl (j, x) (by simp) with hk | hk
        · exact absurd (hj.trans hk) hi
        · exact hk
      · exact ih (fun y hy => hl y (by simp [hy])) e

theorem no_restarts {s : State} (h : ∀ x ∈ s.jobs, x.2.restarts = []) (j : Nat) : (s.job j).restarts = [] :=
  tget_all _ (fun u => u.restarts = []) (fun _ => rfl) s.jobs h j

theorem issues_of {s : State} {core slot k : Nat} {x : Ctx} {e : Fetched}
    (h : s.slotCtx core slot = some (k, x) ∧ s.ctx? k = some x ∧ s.canIssue k x = true ∧ (s.fetch k x).2 = e
      ∧ x.waiting = .none ∧ x.halted = false)
    (hc : (∀ x ∈ s.jobs, x.2.leaving = false) ∧ ∀ x ∈ s.ctxs, x.2.evicted = none) : Issues s core slot k x e :=
  ⟨h.1, h.2.1, h.2.2.1, h.2.2.2.1, h.2.2.2.2.1, h.2.2.2.2.2, calm_of hc⟩

theorem runs_of {s : State} {k : Nat} {x : Ctx}
    (h : s.ctx? k = some x ∧ x.pos = true ∧ x.place = .inPlace ∧ x.move = none ∧ x.waiting = .none ∧ x.forced = false
      ∧ x.halted = false)
    (hc : (∀ x ∈ s.jobs, x.2.leaving = false) ∧ ∀ x ∈ s.ctxs, x.2.evicted = none) : Runs s k x :=
  ⟨h.1, h.2.1, h.2.2.1, h.2.2.2.1, h.2.2.2.2.1, h.2.2.2.2.2.1, h.2.2.2.2.2.2, calm_of hc⟩

/-- A computation that does not fail has a result. -/
theorem ok_of {α : Type} {x : Except Abort α} (h : (match x with | .ok _ => true | .error _ => false) = true) : ∃ u, x = .ok u := by
  cases x with
  | ok u => exact ⟨u, rfl⟩
  | error _ => cases h

/-- One that fails has a cause. -/
theorem error_of {α : Type} {x : Except Abort α} (h : (match x with | .ok _ => false | .error _ => true) = true) :
    ∃ a, x = .error a := by
  cases x with
  | ok _ => cases h
  | error a => exact ⟨a, rfl⟩

/-- What holds of the one value that an option has holds of every value it has. -/
theorem of_some {α : Type} {o : Option α} {a : α} {p : α → Prop} (h : o = some a) (ha : p a) : ∀ b, o = some b → p b :=
  fun b hb => by rw [h] at hb; cases hb; exact ha

/-- Of an option without a value everything holds of its values. -/
theorem no_some {α β : Type} {o : Option α} {f : β → α} {p : β → Prop} (h : o = none) : ∀ b, o = some (f b) → p b :=
  fun b hb => by rw [h] at hb; cases hb

/-- No results wait at a port where none that is listed has any. -/
theorem no_results {s : State} (h : ∀ x ∈ s.nets, x.2.results = []) (p : Nat) : ∀ m ∈ (s.net p).results, m.stream < 16 := by
  have : (s.net p).results = [] := tget_all _ (fun u => u.results = []) (fun _ => rfl) s.nets h p
  rw [this]
  intro m hm
  cases hm

/-! States. -/

/-- Encoder 1 counts all edges, domain 1 follows it and runs. -/
def encoding : State :=
  (at_ [(kEnc 1 1, 3), (key 0x2109 1, 1), (key 0x2020 (fDomain 1), 2), (key 0x2109 2, 100), (key 0x2109 0xB, 100)]).setEnc 1
    { lastCount := some 3 }
/-- Domain 1 follows its generator and runs. -/
def generating : State :=
  at_ [(key 0x2109 1, 4), (key 0x2020 (fDomain 1), 2), (key 0x2109 2, 100), (key 0x2109 0xB, 100), (key 0x2109 4, 65536 * 25)]
/-- Encoder 1 has a revolution of 10 counts and latches rising Z edges. -/
def zMarked : State := (at_ [(kEnc 1 1, 3 + 64), (kEnc 1 7, 10), (kEnc 1 2, 7)]).setEnc 1 { prevZ := some 3 }
/-- A trigger of port 3 waits. -/
def triggering (missed : Bool) : State :=
  (at_ [(key 0x2020 (fStream 3), 2), (kTrig 3 4, 50)]).setTrig 3 { waiting := [⟨77, 4, missed⟩] }
/-- Timer 0 runs on its own. -/
def timing : State := at_ [(key 0x2180 1, 2 ^ 30 + evTimer 0 * 1024 + 3 + 2 ^ 26), (key 0x2180 0x11, 9)]

/-- A job image of one lane: a timetable of `n` entries at 128 and descriptors at 192. -/
def jobImage (n : Nat) : Bytes :=
  leBytes 12 0 ++ leBytes 2 2 ++ [1#8, 2#8] ++ List.replicate 48 0
  ++ (leBytes 2 1 ++ [0#8, 0#8] ++ leBytes 4 128 ++ leBytes 4 (8 * n) ++ leBytes 4 n)
  ++ (leBytes 2 2 ++ [0#8, 0#8] ++ leBytes 4 192 ++ leBytes 4 256 ++ leBytes 4 8)
/-- A context in slot 0 of core 0 that runs. -/
def ctx0 : Ctx := { core := 0, slot := some 0, place := .inPlace, pos := true, tsRows := 8, accRows := 6, inc := 1 }
/-- Job 2 runs its lane 0, context 12, as `x`: the timetable begins with entry `e`, and descriptor 0 is `ws`. -/
def laneAt (e : Nat) (ws : List Nat) (x : Ctx) : State :=
  { at_ [(key 0x2020 (fJob 2), 2)] with
    images := [(2, jobImage 4)]
    cache := [{ img := true, id := 2, version := 0, base := 0, size := 2 ^ 20, loaded := true }]
    stack := { cells := cellsOf (leBytes 8 e) 128 ++ cellsOf (ws.flatMap (leBytes 8)) 192 }
    ctxs := [(12, x)]
    jobs := [(2, { cores := [0, 3] })] }

/-- The first word of a semaphore descriptor. -/
def semWord (n act lane amt : Nat) : Nat := 0x40 + n * 256 + act * 2 ^ 14 + amt * 2 ^ 16 + lane * 2 ^ 32
/-- That of a wait. -/
def waitWord (n tact val tmo : Nat) : Nat := 0x41 + n * 256 + tact * 2 ^ 15 + val * 2 ^ 16 + tmo * 2 ^ 32
/-- That of a credit descriptor. -/
def creditWord (rel hops n tact tmo : Nat) : Nat := 0x43 + rel * 256 + hops * 1024 + n * 8192 + tmo * 2 ^ 16 + tact * 2 ^ 48
/-- Context 12 waits for semaphore 60. -/
def waiting60 : Ctx := { ctx0 with waiting := .wait, word := waitWord 60 0 4 0 }
/-- It waits for semaphore 5, its timer at 100. -/
def waiting5 : Ctx := { ctx0 with waiting := .wait, word := waitWord 5 1 4 0, timer := some 100, pos := false }
/-- It waits for credits, its timer at 100. -/
def waitingCredit : Ctx := { ctx0 with waiting := .credit, word := creditWord 0 2 1 1 60, timer := some 100, pos := false, issuedAt := 40 }

/-- A pass of context 12, issued in cycle 3. -/
def pass0 : Pass := { passOf 12 ctx0 3 [0x10, 0, 0, 0] with w0 := 0x10 + 2 ^ 32 }
/-- Weights for it. -/
def weights0 : Weights := { ctx := 12, inc := 1, fmts := pass0.fmts, block := [], bad := false }
/-- Context 12 has one descriptor under way. -/
def ctx1 : Ctx := { ctx0 with work := 1 }
/-- The left half of array 0 is as given. -/
def halved (x : Ctx) (h : HalfUnit) : State := (laneAt 0 [0x10, 0, 0, 0] x).setHalf 0 0 h
/-- A pass is in flight and has been wounded. -/
def wounded : State :=
  halved ctx1 { flights := [{ pass := pass0, e := 110, next := 110, wts := some weights0 }], active := some weights0,
                wounds := [(6, 100, pass0)] }
/-- The half 600 ticks later. -/
def woundedFlight : Flight :=
  (((wounded.wait 600).catchAll.half 0 0).flights.head?).getD { pass := pass0, e := 110, next := 110, wts := none }
/-- ADD of two vector registers. -/
def addWords : List Nat := [0x20 + 1 * 256 + 1 * 2 ^ 20 + 5 * 2 ^ 21 + 2 * 2 ^ 27 + 2 * 2 ^ 30 + 2 ^ 36 + 2 ^ 16, 0, 0, 0, 0xFF, 0, 0, 0]
/-- The vector unit runs it. -/
def adding : State :=
  (laneAt 0 addWords { ctx1 with vregs := [(0, 5)] }).setVec 0 { queue := [descOf 12 ctx0 3 addWords], start := 4 }
/-- A copy of 64 bytes within the scratchpad. -/
def copyWords : List Nat := [0x30, 0, 1024, 63, 0xFF, 0, 0, 0]
/-- Shunter 0 has it. -/
def copying (begun : Bool) : State :=
  (laneAt 0 copyWords ctx1).setShunter 0 0 { queue := [shuntDesc 12 ctx0 3 copyWords], begun := begun, start := 4 }

/-- Bank 3 is configured: 2 cells of 16 entries. -/
def bankSet : State := at_ [(kBank 3 1, 4), (kBank 3 2, 2), (kBank 3 3, 1), (kMem 0x25, 16)]
/-- It is READY. -/
def bankUp : State := after (.createComplete 6000000 3) (after (.create 600 .hostPort 3) bankSet)
/-- A record of class 2 for it. -/
def bankRecord (op n : Nat) : Bytes :=
  [3#8, BitVec.ofNat 8 op, 0, 0] ++ leBytes 4 n ++ leBytes 4 77 ++ List.replicate 276 0
/-- A LOAD record of its two cells. -/
def loadRecord : Bytes := [3#8, 3#8, 0, 0] ++ leBytes 4 0 ++ leBytes 4 2 ++ leBytes 4 0 ++ List.replicate (2 * 260 * 16) 0
/-- A context with much scratchpad. -/
def ctx64 : Ctx := { ctx0 with tsRows := 64 }
/-- A top-k record. -/
def topkRecord : Bytes := leBytes 8 (1 + 2 ^ 13 + 5 * 2 ^ 14 + 4 * 2 ^ 32) ++ leBytes 8 (2 * 2 ^ 10) ++ leBytes 8 (512 * 2 ^ 20) ++ leBytes 8 (1024 * 2 ^ 20)
/-- The command with it. -/
def topkCmd (c : Nat) : TopkCmd := { ctx := 12, inc := 1, rec_ := topkRecord, at_ := c }
/-- It is queued. -/
def topkQueued (started : Option Nat) : State :=
  { State.reset with ctxs := [(12, { ctx64 with work := 1 })] }.setTopk 0 { queue := [topkCmd 3], started := started }

/-- Three contexts of core 0, and a slice boundary that is due. -/
def slicing : State :=
  { (((laneAt 0 [] ctx0).setReg (key 0x2500 7) 50).setReg (key 0x2500 0x0D) 33) with
    parts := [(0, { origin := some 0, lastAt := 7 })]
    ctxs := [(12, { ctx0 with slot := some 1 }), (13, { ctx0 with slot := some 2 }), (14, ctx0)] }
/-- A context that is unloaded for another. -/
def unloading : State :=
  { laneAt 0 [] ctx0 with
    ctxs := [(12, { ctx0 with move := some (.unload, 10), moved := 4096, evicted := some (13, 5), pos := false }),
             (13, { ctx0 with slot := none, place := .siding, pos := false })] }
/-- A context without a position, in the course of a move. -/
def moving (m : Move) : State := laneAt 0 [] { ctx0 with move := some (m, 10), moved := 4096, pos := false }
/-- The image of job 2 with a hold time. -/
def holding (x : Ctx) : State := { laneAt 0 [] x with images := [(2, List.replicate 20 0 ++ leBytes 4 9)] }
/-- A wait of context 12 in the hub. -/
def hubbed (y : Ctx) (o : HubOp) : State := { laneAt 0 [] y with hubOps := [o], hub := [(60, ⟨4, 0⟩)] }

/-- A model is in the store, and its pool has room. -/
def modelled : State := { at_ [(key 0x2560 5, 5), (kMem 0x21, 4)] with models := [{ id := 5, version := 1, payload := [1, 2, 3] }] }
/-- It is pinned. -/
def pinned : State := after (.pin 600 .hostPort) modelled
/-- Sequence 1 of job 2 is live. -/
def batching : State := { laneAt 0 [] ctx64 with jobs := [(2, { cores := [0, 3], seqs := [(0, { state := 1, leave := true }), (1, { state := 2 })] })] }
/-- A STEP record. -/
def stepRecord : Bytes := leBytes 8 (1 + 2 ^ 13 + 5 * 2 ^ 14) ++ leBytes 8 100 ++ leBytes 16 0
/-- A JOIN record for job 2. -/
def joinRecord : Bytes := leBytes 8 (3 + 2 * 2 ^ 34) ++ leBytes 8 (100 + 7 * 2 ^ 48) ++ List.replicate 16 9
/-- A LEAVE record of sequence 1. -/
def leaveRecord : Bytes := leBytes 8 (2 + 1 * 2 ^ 40) ++ List.replicate 24 0
/-- A participant and leader with domain 1 in its mask. -/
def masking : State :=
  at_ [(kLink 0x10, 7), (kLink 0x12, 3), (kLink 0x13, 5), (kLink 0x17, 2), (key 0x2020 (fDomain 1), 1), (key 0x2109 1, 4),
       (key 0x2109 4, 50 * 65536)]
/-- Its barrier is armed. -/
def armed : State := after (.barrierArm 600 .hostPort) masking
/-- The low level has been registered. -/
def registered : State := after (.barrierRegistered 6000) armed

/-- Port 3 delivers lines to its stream. -/
def portRegs : List (Nat × Nat) :=
  [(key 0x2020 (fStream 3), 2), (key 0x2020 (fDomain 0), 2), (key 0x2108 2, 77), (kPort 3 2, 4), (kPort 3 3, 3), (kPort 3 7, 5), (kPort 3 8, 500)]
/-- It does so by frames. -/
def framed : State := at_ (portRegs ++ [(kPort 3 1, 2 ^ 10 + 2 ^ 11)])
/-- A line is ready to be written. -/
def lineReady : State :=
  (at_ portRegs).setIfe 3 { entered := 1, rows := [{ parts := [[(1, false), (2, false), (3, false), (4, false)]], reasons := [0], clips := [false],
                                                     defects := [false], stamp := 9, row := 0, tags := 0, frame := 0 }] }
/-- A flat-field copy is under way. -/
def flatCopying : State :=
  { at_ [(key 0x2020 (fStream 3), 65)] with launches := [⟨[fStream 3], false⟩] }.setIfe 3 { copying := true }
/-- A record of the sensor control. -/
def busRecord (cmd x : Nat) : Bytes := leBytes 8 (cmd + 2 ^ 48 + (if cmd = 1 then 0 else 2 ^ 53) + x) ++ leBytes 24 0
/-- Channel 1 of the sensor control is open with protocol `p`. -/
def busOpen (p : Nat) : State := at_ [(kScc 1 1, p), (key 0x2020 (fStream 3), 2), (key 0x2020 (fJob 2), 2)]
/-- It has a record at its head. -/
def busQueued (started : Bool) (x : Nat) : State := (busOpen 1).setScc 1 { queue := [sccRecord (busRecord 2 x) none], started := started }

/-- A RAW sample of 4 by 2 values of 8 bits. -/
def sample0 : Sample :=
  { index := 0, header := [1#8, 1#8] ++ leBytes 30 0 ++ leBytes 2 4 ++ leBytes 2 2 ++ [1#8, 8#8] ++ leBytes 26 0, data := List.replicate 8 5, verdict := 0,
    width := 4, height := 2 }
/-- A message that submits a sample to intake stream 3. -/
def submission : InMsg := { addr := 9, udp := 8, cls := 1, stream := 3, seq := 5, total := 64 }
/-- Intake stream 3 runs with four slots and a budget. -/
def intaking (b : Nat) : State := at_ [(key 0x2020 (fIntake 3), 2), (kIn 3 5, 4), (kIn 3 9, 0), (kIn 3 0x0A, b)]
/-- Engine 1 decodes its sample. -/
def decoding (b : Nat) : State :=
  { (intaking b).setIntake 3 { samples := [{ sample0 with sent := true }] } with engines := [(1, { stream := 3, index := 0, start := 0 })] }
/-- A job that works with intake stream 0, which crops up to 2 regions. -/
def intakeJob : State :=
  (((laneAt 0 [] ctx0).setReg (key 0x2020 (fIntake 0)) 2).setReg (kIn 0 1) (2 ^ 18 + 2 * 2 ^ 12)).setIntake 0 { occupied := 2 }

/-- A fire record. -/
def fireRecord (cmd verd fp : Nat) : Bytes :=
  leBytes 8 (cmd + 4 * 2 ^ 32 + verd * 2 ^ 38) ++ leBytes 8 (fp + 5 * 2 ^ 48) ++ leBytes 8 (7 * 2 ^ 32 + 1) ++ leBytes 8 1
/-- Group 3 runs on domain 0. -/
def firing : State :=
  at_ [(key 0x2600 5, 128 + 3), (key 0x2020 (fGroup 3), 2), (kGroup 3 4, 64), (kGroup 3 3, 0), (kGroup 3 2, 10), (key 0x2020 (fDomain 0), 2)]
/-- It holds a claim that is not decided. -/
def claimed : State := firing.setGroup 3 { entries := [(fireRec (fireRecord 1 0 1000)).entry] }
/-- Channel 3 has a change coming at 1000, the domain being at `p`. -/
def valving (p : Nat) : State :=
  let s := ((firing.setReg (kGroup 3 1) (3 * 256 + 2)).setReg (key 0x2108 0xB) p).setGroup 3
    { entries := [{ (fireRec (fireRecord 1 2 1000)).entry with committed := true }] }
  { s with field := { s.field with outEnHigh := false } }
/-- Its frame is being shifted. -/
def shift0 : Shift := { immediate := false, dom := 0, pos := 1000, state := 0, start := 0 }
/-- The field section's link is up. -/
def fieldUp : State := { State.reset with field := { State.reset.field with link := true } }
/-- Output 3 is driven. -/
def driving : State := { fieldUp with field := { fieldUp.field with outEnHigh := false, under := false, latches := 8 } }

/-- EtherCAT is in AL state `al`. -/
def inAl (al : Nat) : State := { State.reset with ec := { State.reset.ec with al := al } }
/-- Function `f` has state byte `v`, with what a start of it needs. -/
def fnAt (f v : Nat) : State :=
  at_ [(key 0x2020 f, v), (kNet 0 3, 5), (kNet 0 4, 0xFFFFFF00), (key 0x2720 1, 2 ^ 31), (key 0x2720 17, 2 ^ 31), (key 0x2720 25, 2 ^ 31), (kIn 0 5, 2),
       (key 0x2500 0x20, 16)]
/-- A request of the host port. -/
def request (op size : Nat) (d : Bytes) : Bytes :=
  let b := leBytes 1 op ++ leBytes 1 9 ++ leBytes 2 0x2600 ++ leBytes 1 5 ++ leBytes 1 0 ++ leBytes 2 d.length ++ leBytes 4 size ++ leBytes 4 0 ++ d
  b ++ leBytes 4 (crc32 b)
/-- An open download. -/
def transfer0 : Transfer := { down := true, index := 0x2600, sub := 5, ca := false, size := 4, data := leBytes 2 0x81 }
/-- The host port is as given. -/
def hosting (h : HspUnit) : State := { State.reset with hsp := h }

/-- Network port `p` runs, its link up. -/
def linked (p : Nat) (l : List (Nat × Nat)) : State := at_ ((key 0x2020 (fNet p), 2) :: (kLstate p, 2) :: l)
/-- A segment of 10 bytes of class `cls`. -/
def segment (cls : Nat) : Bytes :=
  leBytes 2 0x534F ++ [1#8] ++ leBytes 1 cls ++ leBytes 4 0 ++ leBytes 4 5 ++ leBytes 4 10 ++ leBytes 4 0 ++ leBytes 2 10 ++ leBytes 2 0 ++ leBytes 4 77
  ++ leBytes 4 0 ++ List.replicate 10 1
/-- A whole message of class `cls`. -/
def message (cls : Nat) : InMsg := { addr := 9, udp := 8, cls := cls, stream := 3, seq := 5, total := 4, got := [(0, 7), (1, 8), (2, 9), (3, 10)] }
/-- A message with a bank record. -/
def bankMessage : InMsg := { message 2 with total := 288, got := (upTo 288).map (fun i => (i, if i = 1 then 1 else 0)) }
/-- PTP is on. -/
def ptpUp : State := linked 0 [(kTime 1, 8421440 + 128), (kTime 0xE, 8)]
/-- The module is in a stage, held for a reset. -/
def staged (g : Stage) (h : Nat) : State := { State.reset with power := { State.reset.power with stage := g, holder := h } }
/-- A reset is due. -/
def resetting (c : Nat) : State := { State.reset with power := { State.reset.power with resetDue := some (c, 4) } }

/-! Witnesses. -/

/-- The hypotheses of `StepExecutesTheFrontCommand` are met together. -/
theorem witness_StepExecutesTheFrontCommand :
    (∃ (s : State) (c : Instr) (cs : List Instr), s.pending = c :: cs)
    ∧ (∃ (s : State), s.pending = [])
    ∧ (∃ (s : State) (dt : Nat), (∀ l ∈ s.later, ¬ l.due (s.time + dt)))
    ∧ (∃ (s : State) (dt : Nat) (l : Later) (ls : List Later), s.later = l :: ls ∧ l.due (s.time + dt) ∧
      (let t := (({ s with later := ls }).atTime (max s.time l.tick)).perform l.act; (∀ m ∈ t.later, ¬ m.due (s.time + dt)))) :=
  ⟨⟨{ State.reset with pending := [.snapshot 0] }, .snapshot 0, [], (by decide +kernel)⟩,
   ⟨State.reset, (by decide +kernel)⟩,
   ⟨State.reset, 600, (by unfold Later.due; decide +kernel)⟩,
   ⟨State.reset.opens 3 (.cmpDisarm 0), 600, { tick := 36, close := false, rank := 0, act := .cmpDisarm 0 }, [], (by decide +kernel),
     (by unfold Later.due; decide +kernel), (by dsimp only; unfold Later.due; decide +kernel)⟩⟩

/-- The hypotheses of `EncoderLevelsDecodeToCounts` are met together. -/
theorem witness_EncoderLevelsDecodeToCounts :
    (∃ (s w : State) (dt : Nat) (e : Fin 4) (a b rev : Bool), w = s.wait dt ∧ w.up = true ∧ w.filterPasses e a b = true ∧ decodeAB
      (w.encCfg e) (w.bit' (kEnc e 6) 0) (w.bit' (kEnc e 6) 1) a b = .count rev)
    ∧ (∃ (s w : State) (dt : Nat) (e : Fin 4) (a b : Bool), w = s.wait dt ∧ w.up = true ∧ w.filterPasses e a b = true ∧ 1 ≤ bits
      (w.encCfg e) 2 0 ∧ bits (w.encCfg e) 2 0 ≤ 3 ∧ a = (!w.bit' (kEnc e 6) 0) ∧ b = (!w.bit' (kEnc e 6) 1))
    ∧ (∃ (s w : State) (dt : Nat) (e : Fin 4) (a b : Bool), w = s.wait dt ∧ w.filterPasses e a b = false) :=
  ⟨⟨encoding, _, 12, 1, true, false, false, rfl, (by decide +kernel)⟩,
   ⟨encoding, _, 12, 1, true, true, rfl, (by decide +kernel)⟩,
   ⟨encoding.setEnc 1 { aAt := some 1 }, _, 12, 1, true, false, rfl, (by decide +kernel)⟩⟩

/-- The hypotheses of `CountsMoveTheLinePosition` are met together. -/
theorem witness_CountsMoveTheLinePosition :
    (∃ (s w : State) (dt : Nat) (e d : Fin 4) (a b rev : Bool), w = s.wait dt ∧ w.up = true ∧ w.filterPasses e a b = true ∧ decodeAB
      (w.encCfg e) (w.bit' (kEnc e 6) 0) (w.bit' (kEnc e 6) 1) a b = .count rev ∧ w.field' (key (0x2108 + d) 1) 2 0 = e ∧
      w.appliesCounts d w.sclk = true)
    ∧ (∃ (s w : State) (dt : Nat) (d : Fin 4), w = s.wait dt ∧ w.up = true ∧ w.field' (key (0x2108 + d) 1) 2 0 = 4 ∧ w.appliesCounts d
      w.sclk = true ∧ w.genDue d ≤ w.sclk) :=
  ⟨⟨encoding, _, 12, 1, 1, true, false, false, rfl, (by decide +kernel)⟩,
   ⟨generating, _, 600, 1, rfl, (by decide +kernel)⟩⟩

/-- The hypotheses of `ZEdgesAndInputFaultsAreRegistered` are met together. -/
theorem witness_ZEdgesAndInputFaultsAreRegistered :
    (∃ (s w : State) (dt : Nat) (e : Fin 4) (rising : Bool), w = s.wait dt ∧ w.up = true ∧ w.settled e (w.enc e).zAt = true ∧ bits
      (w.encCfg e) 7 6 = (if rising then 1 else 2))
    ∧ (∃ (s w : State) (dt : Nat) (e : Fin 4), w = s.wait dt ∧ w.up = true ∧ bits (w.encCfg e) 2 0 ≠ 0 ∧ w.bit' (key 0x2640 0x18) e =
      false)
    ∧ (∃ (s w : State) (dt : Nat), w = s.wait dt ∧ w.up = true) :=
  ⟨⟨zMarked, _, 12, 1, true, rfl, (by decide +kernel)⟩,
   ⟨encoding, _, 12, 1, rfl, (by decide +kernel)⟩,
   ⟨State.reset, _, 12, rfl, (by decide +kernel)⟩⟩

/-- The hypotheses of `EncoderWritesAndStallsTakeEffect` are met together. -/
theorem witness_EncoderWritesAndStallsTakeEffect :
    (∃ (s w : State) (r : Route) (dt : Nat) (e : Fin 4) (sub : Nat) (data : Bytes), w = s.wait dt ∧ (sub = 1 ∨ sub = 7) ∧ data.length =
      4 ∧ Accepts w r (0x2100 + e) sub data)
    ∧ (∃ (s w : State) (dt : Nat) (d : Fin 4), w = s.wait dt ∧ w.up = true ∧ w.stallDue d = true) :=
  ⟨⟨State.reset, _, .hostPort, 12, 3, 7, leBytes 4 0x143, rfl, (by decide +kernel), (by decide +kernel),
    (by unfold Accepts; decide +kernel)⟩,
   ⟨encoding.setDomain 1 { stallDue := some 5 }, _, 120, 1, rfl, (by decide +kernel)⟩⟩

/-- The hypotheses of `TriggersReachTheirPorts` are met together. -/
theorem witness_TriggersReachTheirPorts :
    (∃ (s w : State) (dt : Nat) (p : Fin 36) (x : Trig) (xs : List Trig), w = s.wait dt ∧ w.up = true ∧ (w.trig p).waiting = x :: xs ∧
      x.missed = false ∧ x.due ≤ w.sclk)
    ∧ (∃ (s w : State) (dt : Nat) (p : Fin 36) (m : Nat), w = s.wait dt ∧ w.up = true ∧ (w.trig p).pulseEnd = some m ∧ m ≤ w.sclk)
    ∧ (∃ (s w : State) (dt : Nat) (p : Fin 36) (x : Trig) (xs : List Trig), w = s.wait dt ∧ w.up = true ∧ (w.trig p).waiting = x :: xs
      ∧ x.missed = true ∧ x.due ≤ w.sclk) :=
  ⟨⟨triggering false, _, 120, 3, ⟨77, 4, false⟩, [], rfl, (by decide +kernel)⟩,
   ⟨State.reset.setTrig 35 { pulseEnd := some 5 }, _, 60, 35, 5, rfl, (by decide +kernel)⟩,
   ⟨triggering true, _, 120, 3, ⟨77, 4, true⟩, [], rfl, (by decide +kernel)⟩⟩

/-- The hypotheses of `CompareChannelsAndWindowsArm` are met together. -/
theorem witness_CompareChannelsAndWindowsArm :
    (∃ (s w : State) (r : Route) (dt : Nat) (n : Fin 32), w = s.wait dt ∧ Accepts w r (0x2120 + n) 4 (leBytes 1 1))
    ∧ (∃ (s w : State) (r : Route) (dt : Nat) (n : Fin 32), w = s.wait dt ∧ Accepts w r (0x2120 + n) 4 (leBytes 1 2))
    ∧ (∃ (s w : State) (r : Route) (dt : Nat) (n : Fin 32) (v : BitVec 48), w = s.wait dt ∧ Accepts w r (0x2120 + n) 2 (leBytes 6
      v.toNat))
    ∧ (∃ (s t : State) (n : Fin 32) (v : Nat), t = s.perform (.cmpValue n v) ∧ v < 2 ^ 48)
    ∧ (∃ (s : State) (n : Fin 32), s.cmpDue n s.sclk = true)
    ∧ (∃ (s w : State) (r : Route) (dt : Nat) (x : Fin 64), w = s.wait dt ∧ Accepts w r (0x2140 + x) 5 (leBytes 1 1))
    ∧ (∃ (s w : State) (r : Route) (dt : Nat) (x : Fin 64), w = s.wait dt ∧ Accepts w r (0x2140 + x) 5 (leBytes 1 2)) :=
  ⟨⟨State.reset, _, .hostPort, 12, 31, rfl, (by unfold Accepts; decide +kernel)⟩,
   ⟨State.reset, _, .hostPort, 12, 31, rfl, (by unfold Accepts; decide +kernel)⟩,
   ⟨State.reset, _, .hostPort, 12, 31, BitVec.ofNat 48 (2 ^ 48 - 1), rfl, (by unfold Accepts; decide +kernel)⟩,
   ⟨State.reset, _, 31, 2 ^ 48 - 1, rfl, (by decide +kernel)⟩,
   ⟨State.reset.perform (.cmpArm 31), 31, (by decide +kernel)⟩,
   ⟨State.reset, _, .hostPort, 12, 63, rfl, (by unfold Accepts; decide +kernel)⟩,
   ⟨State.reset, _, .hostPort, 12, 63, rfl, (by unfold Accepts; decide +kernel)⟩⟩

/-- The hypotheses of `TimersAndSlackAreServed` are met together. -/
theorem witness_TimersAndSlackAreServed :
    (∃ (s w : State) (r : Route) (dt : Nat) (x : Fin 16) (v : BitVec 32), w = s.wait dt ∧ Accepts w r 0x2180 (0x11 + x) (leBytes 4
      v.toNat))
    ∧ (∃ (s w : State) (dt : Nat) (x : Fin 16), w = s.wait dt ∧ w.up = true ∧ w.timerExpired x = true)
    ∧ (∃ (s w : State) (dt : Nat), w = s.wait dt ∧ w.up = true ∧ w.slackDue = true) :=
  ⟨⟨timing, _, .hostPort, 12, 15, 5, rfl, (by unfold Accepts; decide +kernel)⟩,
   ⟨timing.loadTimer 0 0, _, 600, 0, rfl, (by decide +kernel)⟩,
   ⟨State.reset, _, 600, rfl, (by decide +kernel)⟩⟩

/-- The hypotheses of `LoopAndEndFollowTheTimetable` are met together. -/
theorem witness_LoopAndEndFollowTheTimetable :
    (∃ (s w : State) (dt : Nat) (core : Fin 6) (slot : Fin 4) (k : Nat) (x : Ctx) (lc count tgt : Nat), w = s.wait dt ∧ w.up = true ∧
      Issues w core slot k x (.loop lc count tgt))
    ∧ (∃ (s w : State) (dt : Nat) (core : Fin 6) (slot : Fin 4) (k : Nat) (x : Ctx), w = s.wait dt ∧ w.up = true ∧ Issues w core slot k
      x .stop) :=
  ⟨⟨laneAt (2 ^ 62 + 2 ^ 60 + 3 * 2 ^ 48) [] ctx0, _, 600, 0, 0, 12, ctx0, 1, 3, 0, rfl, (by decide +kernel), issues_of
    (by decide +kernel) (by decide +kernel)⟩,
   ⟨laneAt (2 ^ 63) [] ctx0, _, 600, 0, 0, 12, ctx0, rfl, (by decide +kernel), issues_of (by decide +kernel) (by decide +kernel)⟩⟩

/-- The hypotheses of `SemaphoreEntriesTakeEffect` are met together. -/
theorem witness_SemaphoreEntriesTakeEffect :
    (∃ (s w : State) (dt : Nat) (core : Fin 6) (slot : Fin 4) (k : Nat) (x : Ctx) (ws : List Nat), w = s.wait dt ∧ w.up = true ∧ Issues
      w core slot k x (.issue 0x40 ws) ∧ w.semMalformed k ws = false ∧ semAct (ws.getD 0 0) = 0)
    ∧ (∃ (s w : State) (dt : Nat) (core : Fin 6) (slot : Fin 4) (k : Nat) (x : Ctx) (ws : List Nat), w = s.wait dt ∧ w.up = true ∧
      Issues w core slot k x (.issue 0x40 ws) ∧ w.semMalformed k ws = false ∧ semAct (ws.getD 0 0) = 1)
    ∧ (∃ (s w : State) (dt : Nat) (core : Fin 6) (slot : Fin 4) (k : Nat) (x : Ctx) (ws : List Nat), w = s.wait dt ∧ w.up = true ∧
      Issues w core slot k x (.issue 0x40 ws) ∧ w.semMalformed k ws = false ∧ semAct (ws.getD 0 0) = 2)
    ∧ (∃ (s w : State) (dt : Nat) (core : Fin 6) (slot : Fin 4) (k : Nat) (x : Ctx) (ws : List Nat), w = s.wait dt ∧ w.up = true ∧
      Issues w core slot k x (.issue 0x40 ws) ∧ w.semMalformed k ws = true ∧ semAct (ws.getD 0 0) = 0) :=
  ⟨⟨laneAt 0 [semWord 60 0 0 9, 0, 0, 0] ctx0, _, 600, 0, 0, 12, ctx0, [semWord 60 0 0 9, 0, 0, 0], rfl, (by decide +kernel), issues_of
    (by decide +kernel) (by decide +kernel), (by decide +kernel)⟩,
   ⟨laneAt 0 [semWord 5 1 0 9, 0, 0, 0] ctx0, _, 600, 0, 0, 12, ctx0, [semWord 5 1 0 9, 0, 0, 0], rfl, (by decide +kernel), issues_of
     (by decide +kernel) (by decide +kernel), (by decide +kernel)⟩,
   ⟨laneAt 0 [semWord 5 2 1 9, 0, 0, 0] ctx0, _, 600, 0, 0, 12, ctx0, [semWord 5 2 1 9, 0, 0, 0], rfl, (by decide +kernel), issues_of
     (by decide +kernel) (by decide +kernel), (by decide +kernel)⟩,
   ⟨laneAt 0 [semWord 60 0 1 9 + 2 ^ 32, 0, 0, 0] ctx0, _, 600, 0, 0, 12, ctx0, [semWord 60 0 1 9 + 2 ^ 32, 0, 0, 0], rfl,
     (by decide +kernel), issues_of (by decide +kernel) (by decide +kernel), (by decide +kernel)⟩⟩

/-- The hypotheses of `SignalsReachLanesAndTheHub` are met together. -/
theorem witness_SignalsReachLanesAndTheHub :
    (∃ (s w : State) (dt : Nat) (g : LaneSig) (y : Ctx), w = s.wait dt ∧ w.up = true ∧ Calm w ∧ w.laneSigs = [g] ∧ g.due ≤ w.cclk ∧
      w.ctx? g.ctx = some y ∧ y.listens = true ∧ y.pos = true ∧ y.waiting = .none ∧ y.place = .inPlace)
    ∧ (∃ (s w : State) (dt n : Nat) (o : HubOp), w = s.wait dt ∧ w.up = true ∧ Calm w ∧ w.hubOps = [o] ∧ o.due = w.cclk ∧ (o.act = .add
      n ∨ o.act = .set n))
    ∧ (∃ (s w : State) (dt : Nat) (o : HubOp) (y : Ctx), w = s.wait dt ∧ w.up = true ∧ Calm w ∧ w.hubOps = [o] ∧ o.due = w.cclk ∧ o.act
      = .test ∧ w.ctx? o.ctx = some y ∧ y.inc = o.inc)
    ∧ (∃ (s t : State) (k : Nat) (y : Ctx), t = s.perform .hubGrant ∧ Calm s ∧ s.hubWaits = [k] ∧ s.ctx? k = some y ∧ 56 ≤ waitSem
      y.word ∧ s.jobPart (ctxJob k) < 6)
    ∧ (∃ (s w : State) (dt : Nat) (o : HubOp) (y : Ctx), w = s.wait dt ∧ w.up = true ∧ Calm w ∧ w.hubOps = [o] ∧ o.due ≤ w.cclk ∧
      w.hubWaits = [] ∧ o.act = .outcome ∧ w.ctx? o.ctx = some y ∧ y.inc = o.inc) :=
  ⟨⟨{ laneAt 0 [] ctx0 with laneSigs := [⟨3, 12, 5, 9⟩] }, _, 600, ⟨3, 12, 5, 9⟩, ctx0, rfl, (by decide +kernel), calm_of
    (by decide +kernel), (by decide +kernel)⟩,
   ⟨{ laneAt 0 [] ctx0 with hubOps := [⟨120, 0, 60, 12, 1, .add 9⟩] }, _, 600, 9, ⟨120, 0, 60, 12, 1, .add 9⟩, rfl,
     (by decide +kernel), calm_of (by decide +kernel), (by decide +kernel)⟩,
   ⟨{ laneAt 0 [] waiting60 with hubOps := [⟨120, 0, 60, 12, 1, .test⟩], hub := [(60, ⟨4, 0⟩)] }, _, 600, ⟨120, 0, 60, 12, 1, .test⟩,
     waiting60, rfl, (by decide +kernel), calm_of (by decide +kernel), (by decide +kernel)⟩,
   ⟨{ laneAt 0 [] waiting60 with hubWaits := [12], hub := [(60, ⟨4, 0⟩)] }, _, 12, waiting60, rfl, calm_of (by decide +kernel),
     (by decide +kernel)⟩,
   ⟨{ laneAt 0 [] waiting60 with hubOps := [⟨8, 0, 60, 12, 1, .outcome⟩] }, _, 600, ⟨8, 0, 60, 12, 1, .outcome⟩, waiting60, rfl,
     (by decide +kernel), calm_of (by decide +kernel), (by decide +kernel)⟩⟩

/-- The hypotheses of `WaitsConsumeOrWait` are met together. -/
theorem witness_WaitsConsumeOrWait :
    (∃ (s w : State) (dt : Nat) (core : Fin 6) (slot : Fin 4) (k : Nat) (x : Ctx) (ws : List Nat), w = s.wait dt ∧ w.up = true ∧ Issues
      w core slot k x (.issue 0x41 ws) ∧ zeroFrom ws 1 = true ∧ x.late (w.timerFor x (waitTmo (ws.getD 0 0))) w.cclk = false)
    ∧ (∃ (s w : State) (dt : Nat) (core : Fin 6) (slot : Fin 4) (k d : Nat) (x : Ctx), w = s.wait dt ∧ w.up = true ∧ Calm w ∧ w.slotCtx
      core slot = some (k, x) ∧ w.ctx? k = some x ∧ x.waiting = .wait ∧ x.cancelled = false ∧ x.timer = some d ∧ d < w.cclk) :=
  ⟨⟨laneAt 0 [waitWord 5 0 3 0, 0, 0, 0] ctx0, _, 600, 0, 0, 12, ctx0, [waitWord 5 0 3 0, 0, 0, 0], rfl, (by decide +kernel), issues_of
    (by decide +kernel) (by decide +kernel), (by decide +kernel)⟩,
   ⟨laneAt 0 [] waiting5, _, 600, 0, 0, 12, 100, waiting5, rfl, (by decide +kernel), calm_of (by decide +kernel), (by decide +kernel)⟩⟩

/-- The hypotheses of `CreditsAreTakenAndReturned` are met together. -/
theorem witness_CreditsAreTakenAndReturned :
    (∃ (s w : State) (dt : Nat) (core : Fin 6) (slot : Fin 4) (k : Nat) (x : Ctx) (ws : List Nat), w = s.wait dt ∧ w.up = true ∧ Issues
      w core slot k x (.issue 0x43 ws) ∧ creditRel (ws.getD 0 0) = false ∧ creditMalformed ws = false ∧ x.late (w.timerFor x (creditTmo
      (ws.getD 0 0))) w.cclk = false)
    ∧ (∃ (s t : State) (core : Fin 6) (slot : Fin 4) (k : Nat) (x : Ctx), t = s.perform .creditGrant ∧ Calm s ∧ s.slotCtx core slot =
      some (k, x) ∧ s.ctx? k = some x ∧ x.core = core ∧ x.waiting = .credit ∧ x.cancelled = false ∧ x.inTime s.cclk = true ∧ (∀ p ∈
      s.ctxs, p.2.waiting = .credit → p = (k, x)))
    ∧ (∃ (s w : State) (dt : Nat) (core : Fin 6) (slot : Fin 4) (k : Nat) (x : Ctx) (ws : List Nat), w = s.wait dt ∧ w.up = true ∧
      Issues w core slot k x (.issue 0x43 ws) ∧ creditRel (ws.getD 0 0) = true ∧ creditMalformed ws = false ∧ (∀ l ∈ w.pathLinks x.core
      (creditHops (ws.getD 0 0)) (creditDown (ws.getD 0 0)), creditN (ws.getD 0 0) ≤ x.creditsOn l) ∧ (w.pathLinks x.core (creditHops
      (ws.getD 0 0)) (creditDown (ws.getD 0 0))).Nodup)
    ∧ (∃ (s w : State) (dt : Nat) (core : Fin 6) (slot : Fin 4) (k d : Nat) (x : Ctx), w = s.wait dt ∧ w.up = true ∧ Calm w ∧ w.slotCtx
      core slot = some (k, x) ∧ w.ctx? k = some x ∧ x.core = core ∧ x.waiting = .credit ∧ x.cancelled = false ∧ x.timer = some d ∧ d <
      w.cclk) :=
  ⟨⟨laneAt 0 [creditWord 0 2 1 0 0, 0, 0, 0] ctx0, _, 600, 0, 0, 12, ctx0, [creditWord 0 2 1 0 0, 0, 0, 0], rfl, (by decide +kernel),
    issues_of (by decide +kernel) (by decide +kernel), (by decide +kernel)⟩,
   ⟨laneAt 0 [] { ctx0 with waiting := .credit, word := creditWord 0 2 1 0 0 }, _, 0, 0, 12,
     { ctx0 with waiting := .credit, word := creditWord 0 2 1 0 0 }, rfl, calm_of (by decide +kernel), (by decide +kernel)⟩,
   ⟨{ laneAt 0 [creditWord 1 2 1 0 0, 0, 0, 0] { ctx0 with credits := [(0, 2), (2, 1)] } with linkUse := [(0, 2), (2, 4)] }, _, 600, 0,
     0, 12, { ctx0 with credits := [(0, 2), (2, 1)] }, [creditWord 1 2 1 0 0, 0, 0, 0], rfl, (by decide +kernel), issues_of
     (by decide +kernel) (by decide +kernel), (by decide +kernel)⟩,
   ⟨laneAt 0 [] waitingCredit, _, 600, 0, 0, 12, 100, waitingCredit, rfl, (by decide +kernel), calm_of (by decide +kernel),
     (by decide +kernel)⟩⟩

/-- The hypotheses of `YieldsAndDeadlinesTakeEffect` are met together. -/
theorem witness_YieldsAndDeadlinesTakeEffect :
    (∃ op ∈ yieldCommands, ∃ (s w : State) (dt : Nat) (core : Fin 6) (slot : Fin 4) (k : Nat) (x : Ctx) (ws : List Nat), w = s.wait dt
      ∧ w.up = true ∧ Issues w core slot k x (.issue 0x42 ws) ∧ bits (ws.getD 0 0) 63 9 = 0 ∧ zeroFrom ws 1 = true ∧ yieldSurr (ws.getD
      0 0) = op.2)
    ∧ (∃ (s w u : State) (dt : Nat) (core : Fin 6) (slot : Fin 4) (k : Nat) (x y : Ctx) (ws : List Nat), w = s.wait dt ∧ w.up = true ∧
      Issues w core slot k x (.issue 0x44 ws) ∧ u = (w.issuing k x).catchAll ∧ Runs u k y ∧ deadSrc (ws.getD 0 0) ≠ 0 ∧ deadMalformed
      ws = false ∧ (deadSrc (ws.getD 0 0) = 2 → u.tsInside k (bits (ws.getD 2 0) 19 0) 8 = true) ∧ (∀ l, (u.job (ctxJob k)).pubAt =
      some (u.cclk, l) → ¬ l < ctxLane k))
    ∧ (∃ (s w : State) (dt : Nat) (core : Fin 6) (slot : Fin 4) (k : Nat) (x : Ctx) (ws : List Nat), w = s.wait dt ∧ w.up = true ∧
      Issues w core slot k x (.issue 0x44 ws) ∧ deadSrc (ws.getD 0 0) = 0 ∧ deadMalformed ws = false ∧ (∀ l, (w.job (ctxJob k)).pubAt =
      some (w.cclk, l) → ¬ l < ctxLane k))
    ∧ (∃ (s t : State) (j : Fin 64) (v : Nat), t = s.perform (.publish j (some v)) ∧ v < 2 ^ 48 ∧ s.active (fJob j) = true) :=
  ⟨⟨(.yield, false), by simp [yieldCommands], laneAt 0 [0x42, 0, 0, 0] ctx0, _, 600, 0, 0, 12, ctx0, [0x42, 0, 0, 0], rfl,
    (by decide +kernel), issues_of (by decide +kernel) (by decide +kernel), (by decide +kernel)⟩,
   ⟨laneAt 0 [0x144, 100, 0, 0] ctx0, _, _, 600, 0, 0, 12, ctx0, ctx0, [0x144, 100, 0, 0], rfl, (by decide +kernel), issues_of
     (by decide +kernel) (by decide +kernel), rfl, runs_of (by decide +kernel) (by decide +kernel), (by decide +kernel),
     (by decide +kernel), (by decide +kernel), no_some (by decide +kernel)⟩,
   ⟨laneAt 0 [0x44, 0, 0, 0] ctx0, _, 600, 0, 0, 12, ctx0, [0x44, 0, 0, 0], rfl, (by decide +kernel), issues_of (by decide +kernel)
     (by decide +kernel), (by decide +kernel), (by decide +kernel), no_some (by decide +kernel)⟩,
   ⟨at_ [(key 0x2020 (fJob 2), 2)], _, 2, 5, rfl, (by decide +kernel)⟩⟩

/-- The hypotheses of `PassesAreQueuedAndWeightsLoaded` are met together. -/
theorem witness_PassesAreQueuedAndWeightsLoaded :
    (∃ (s w u : State) (dt : Nat) (core : Fin 6) (slot : Fin 4) (k : Nat) (x : Ctx) (ws : List Nat), w = s.wait dt ∧ w.up = true ∧
      Issues w core slot k x (.issue 0x10 ws) ∧ u = (w.issuing k x).catchAll ∧ (let p := passOf k x w.cclk ws; w.passWaits (2 * core +
      p.arr) p w.cclk = false ∧ w.lowerFirst core slot (forHalf p) = false))
    ∧ (∃ (s w u : State) (dt : Nat) (core : Fin 6) (a h : Fin 2) (p : Pass), w = s.wait dt ∧ w.up = true ∧ u = w.catchUp ∧ (w.half (2 *
      core + a) h).wants = some p ∧ (w.half (2 * core + a) h).loadAt = none ∧ (w.half (2 * core + a) h).shadow = none ∧ (w.half (2 *
      core + a) h).freeAt ≤ w.cclk ∧ p.at_ < w.cclk)
    ∧ (∃ (s w u : State) (dt : Nat) (core : Fin 6) (a h : Fin 2) (p : Pass) (d : Nat), w = s.wait dt ∧ w.up = true ∧ u = w.catchUp ∧
      (u.half (2 * core + a) h).wants = some p ∧ (u.half (2 * core + a) h).loadEnd p = some d ∧ d ≤ w.cclk) :=
  ⟨⟨laneAt 0 [0x10, 0, 0, 0] ctx0, _, _, 600, 0, 0, 12, ctx0, [0x10, 0, 0, 0], rfl, (by decide +kernel), issues_of (by decide +kernel)
    (by decide +kernel), rfl, (by dsimp only; decide +kernel)⟩,
   ⟨halved ctx0 { queue := [pass0] }, _, _, 600, 0, 0, 0, pass0, rfl, (by decide +kernel), rfl, (by decide +kernel)⟩,
   ⟨halved ctx0 { queue := [pass0], loadAt := some 10, loadNext := 10, loaded := List.replicate 65536 0 }, _, _, 600, 0, 0, 0, pass0,
     23, rfl, (by decide +kernel), rfl, (by decide +kernel)⟩⟩

/-- The hypotheses of `PassesStartAndComplete` are met together. -/
theorem witness_PassesStartAndComplete :
    (∃ (s w u : State) (dt : Nat) (core : Fin 6) (a h : Fin 2) (d : Nat) (p : Pass) (q : List Pass) (x : Weights), w = s.wait dt ∧ w.up
      = true ∧ u = w.catchUp ∧ (u.half (2 * core + a) h).queue = p :: q ∧ (u.half (2 * core + a) h).mayEnter p ≤ w.cclk ∧ u.feedSlot (2
      * core + a) h = true ∧ p.lead ≤ (u.half (2 * core + a) h).ahead.length ∧ (p.keep = false → (u.half (2 * core + a) h).shadow =
      some (x, d) ∧ d < w.cclk) ∧ (p.keep = true → (u.half (2 * core + a) h).active = some x ∧ x.ctx = p.ctx ∧ x.inc = p.inc ∧ x.fmts =
      p.fmts))
    ∧ (∃ (s w u : State) (dt : Nat) (core : Fin 6) (a h : Fin 2) (f : Flight) (fs : List Flight) (x : Ctx), w = s.wait dt ∧ w.up = true
      ∧ u = w.catchUp ∧ (u.half (2 * core + a) h).flights = f :: fs ∧ f.done = f.pass.n ∧ f.lastEntry + 22 ≤ w.cclk ∧ (u.half (2 * core
      + a) h).spoiled f = false ∧ Runs u f.pass.ctx x ∧ x.inc = f.pass.inc)
    ∧ (∃ (s w u : State) (dt : Nat) (core : Fin 6) (a : Fin 2), w = s.wait dt ∧ w.up = true ∧ u = w.catchAll ∧ gArray w.grade (2 * core
      + a) = true ∧ (w.array (2 * core + a)).l.empty w.cclk = true ∧ (w.array (2 * core + a)).r.empty w.cclk = true ∧ w.wantsMode core
      a (!(w.array (2 * core + a)).split) = true) :=
  ⟨⟨halved ctx1 { queue := [pass0], shadow := some (weights0, 50) }, _, _, 600, 0, 0, 0, 50, pass0, [], weights0, rfl,
    (by decide +kernel), rfl, (by decide +kernel)⟩,
   ⟨halved ctx1 { flights := [{ pass := pass0, e := 10, next := 11, done := 1, wts := some weights0 }], active := some weights0 }, _,
     _, 600, 0, 0, 0, { pass := pass0, e := 10, next := 11, done := 1, wts := some weights0 }, [], ctx1, rfl, (by decide +kernel), rfl,
     (by decide +kernel), (by decide +kernel), (by decide +kernel), (by decide +kernel), runs_of (by decide +kernel)
     (by decide +kernel), (by decide +kernel)⟩,
   ⟨laneAt 0 [0x10 + 2 ^ 18, 0, 0, 0] ctx0, _, _, 600, 0, 0, rfl, (by decide +kernel), rfl, (by decide +kernel)⟩⟩

/-- The hypotheses of `ArrayFaultsTearTheirContextDown` are met together. -/
theorem witness_ArrayFaultsTearTheirContextDown :
    (∃ (s w u : State) (dt : Nat) (core : Fin 6) (a h : Fin 2) (p : Pass) (ps : List Pass) (x : Ctx), w = s.wait dt ∧ w.up = true ∧ u =
      w.catchAll ∧ gArray w.grade (2 * core + a) = true ∧ Calm u ∧ u.ctx? p.ctx = some x ∧ x.inc = p.inc ∧ x.core = core ∧ (u.half (2 *
      core + a) h).passes = p :: ps)
    ∧ (∃ (s w u : State) (dt : Nat) (core : Fin 6) (a h : Fin 2) (c : Nat) (p : Pass) (x : Ctx), w = s.wait dt ∧ w.up = true ∧ u =
      w.catchAll ∧ gArray w.grade (2 * core + a) = true ∧ Calm u ∧ u.ctx? p.ctx = some x ∧ x.inc = p.inc ∧ x.core = core ∧ u.woundOf (2
      * core + a) h 6 = some (c, p) ∧ c ≤ w.cclk)
    ∧ (∃ cause ∈ [ArrayCause.poisonedActivation, .poisonedWeight, .poisonedAccumulator], ∃ (s w u : State) (dt : Nat) (core : Fin 6) (a
      h : Fin 2) (c : Nat) (p : Pass) (x : Ctx), w = s.wait dt ∧ w.up = true ∧ u = w.catchAll ∧ gArray w.grade (2 * core + a) = true ∧
      Calm u ∧ u.ctx? p.ctx = some x ∧ x.inc = p.inc ∧ x.core = core ∧ u.woundOf (2 * core + a) h (arrayCauseCode cause) = some (c, p)
      ∧ u.boundaryAfter (2 * core + a) h c = true) :=
  ⟨⟨wounded, _, _, 600, 0, 0, 0, pass0, [], ctx1, rfl, (by decide +kernel), rfl, (by decide +kernel), calm_of (by decide +kernel),
    (by decide +kernel)⟩,
   ⟨wounded, _, _, 600, 0, 0, 0, 100, pass0, ctx1, rfl, (by decide +kernel), rfl, (by decide +kernel), calm_of (by decide +kernel),
     (by decide +kernel)⟩,
   ⟨.poisonedActivation, by simp, halved ctx1
     { flights := [{ pass := pass0, e := 90, next := 91, wts := some weights0 }], active := some weights0, wounds := [(2, 80, pass0)] },
     _, _, 600, 0, 0, 0, 80, pass0, ctx1, rfl, (by decide +kernel), rfl, (by decide +kernel), calm_of (by decide +kernel),
     (by decide +kernel)⟩⟩

/-- The hypotheses of `ArrayFaultsTearTheirContextDown` are met together. -/
theorem witness_ArrayFaultsTearTheirContextDown_rest :
    ∃ (s w u : State) (dt : Nat) (core : Fin 6) (a h : Fin 2) (f : Flight) (x : Ctx), w = s.wait dt ∧ w.up = true ∧ u = w.catchAll ∧
      gArray w.grade (2 * core + a) = true ∧ Calm u ∧ u.ctx? f.pass.ctx = some x ∧ x.inc = f.pass.inc ∧ x.core = core ∧ (u.half (2 *
      core + a) h).flights.find? (fun f => !f.pass.keep && decide (f.e < w.cclk) && decide (w.cclk ≤ f.e + 16)) = some f :=
  ⟨wounded, _, _, 600, 0, 0, 0, woundedFlight, ctx1, rfl, (by decide +kernel), rfl, (by decide +kernel), calm_of (by decide +kernel),
    (by decide +kernel)⟩

/-- The hypotheses of `VectorDescriptorsRun` are met together. -/
theorem witness_VectorDescriptorsRun :
    (∃ op ∈ vectorCommands, ∃ (s w u : State) (dt : Nat) (core : Fin 6) (slot : Fin 4) (k : Nat) (x : Ctx) (ws : List Nat), w = s.wait
      dt ∧ w.up = true ∧ Issues w core slot k x (.issue 0x20 ws) ∧ u = (w.issuing k x).catchAll ∧ bits (ws.getD 0 0) 12 8 = op.2 ∧
      (w.vec core).full w.cclk = false ∧ w.lowerFirst core slot forVector = false)
    ∧ (∃ (s w u : State) (dt : Nat) (core : Fin 6) (f : Done) (fs : List Done) (x : Ctx), w = s.wait dt ∧ w.up = true ∧ u = w.catchUp ∧
      (u.vec core).finish = f :: fs ∧ f.at_ ≤ w.cclk ∧ Runs u f.desc.ctx x ∧ x.inc = f.desc.inc)
    ∧ (∃ (s w u : State) (dt : Nat) (core : Fin 6) (f : Done) (fs : List Done) (x : Ctx), w = s.wait dt ∧ w.up = true ∧ u = w.catchUp ∧
      (u.vec core).finish = f :: fs ∧ f.at_ ≤ w.cclk ∧ Runs u f.desc.ctx x ∧ x.inc = f.desc.inc ∧ f.bad = true) :=
  ⟨⟨(.add, 1), by simp [vectorCommands], laneAt 0 addWords ctx0, _, _, 600, 0, 0, 12, ctx0, addWords, rfl, (by decide +kernel),
    issues_of (by decide +kernel) (by decide +kernel), rfl, (by decide +kernel)⟩,
   ⟨adding, _, _, 600, 0, { desc := descOf 12 ctx0 3 addWords, at_ := 9 }, [], { ctx1 with vregs := [(0, 10)] }, rfl,
     (by decide +kernel), rfl, (by decide +kernel), (by decide +kernel), runs_of (by decide +kernel) (by decide +kernel),
     (by decide +kernel)⟩,
   ⟨(laneAt 0 addWords { ctx1 with vregs := [(0, 5)] }).setVec 0
     { finish := [{ desc := descOf 12 ctx0 3 addWords, at_ := 9, bad := true }] }, _, _, 600, 0,
     { desc := descOf 12 ctx0 3 addWords, at_ := 9, bad := true }, [], { ctx1 with vregs := [(0, 5)] }, rfl, (by decide +kernel), rfl,
     (by decide +kernel), (by decide +kernel), runs_of (by decide +kernel) (by decide +kernel), (by decide +kernel)⟩⟩

/-- The hypotheses of `ShuntersTakeBeginAndComplete` are met together. -/
theorem witness_ShuntersTakeBeginAndComplete :
    (∃ op ∈ shunterCommands, ∃ (s w v u : State) (dt : Nat) (core : Fin 6) (slot : Fin 4) (k : Nat) (x : Ctx) (ws : List Nat), w =
      s.wait dt ∧ w.up = true ∧ Issues w core slot k x (.issue 0x30 ws) ∧ bit (ws.getD 0 0) 34 = op.2.1 ∧ bit (ws.getD 0 0) 35 = op.2.2
      ∧ v = w.issuing k x ∧ u = v.catchUp ∧ (let d := shuntDesc k x w.cclk ws; (w.shunter core d.shn).full w.cclk = false ∧
      w.lowerFirst core slot (forShunter d.shn) = false))
    ∧ (∃ (s w u : State) (dt : Nat) (core : Fin 6) (n : Fin 8) (d : Desc) (ds : List Desc), w = s.wait dt ∧ w.up = true ∧ u = w.catchUp
      ∧ (u.shunter core n).queue = d :: ds ∧ (u.shunter core n).begun = false ∧ u.mayBegin d = true ∧ max (u.shunter core n).start
      d.at_ ≤ w.cclk)
    ∧ (∃ (s w u v : State) (dt : Nat) (core : Fin 6) (n : Fin 8) (f : Done) (fs : List Done) (x : Ctx), w = s.wait dt ∧ w.up = true ∧ u
      = w.catchUp ∧ (u.shunter core n).finish = f :: fs ∧ f.at_ ≤ w.cclk ∧ v = shunterDelivered u core n f ∧ Runs v f.desc.ctx x ∧
      x.inc = f.desc.inc)
    ∧ (∃ (s w u v z : State) (dt : Nat) (core : Fin 6) (n : Fin 8) (d : Desc) (ds : List Desc) (x : Ctx), w = s.wait dt ∧ w.up = true ∧
      u = w.catchUp ∧ (u.shunter core n).finish = [] ∧ (u.shunter core n).queue = d :: ds ∧ (u.shunter core n).begun = true ∧
      (u.shunter core n).stray = none ∧ u.fixed d = false ∧ v = u.catchAll.copyRest core n w.cclk d ∧ (v.shunter core n).stray = none ∧
      z = (if d.ssp = 3 ∨ d.dsp = 3 then { v with extOpen := true } else v) ∧ d.dsp ≠ 5 ∧ Runs z d.ctx x ∧ x.inc = d.inc)
    ∧ (∃ (s w u v : State) (dt : Nat) (core : Fin 6) (n : Fin 8) (d : Desc) (ds : List Desc) (x : Ctx), w = s.wait dt ∧ w.up = true ∧ u
      = w.catchUp ∧ (u.shunter core n).finish = [] ∧ (u.shunter core n).queue = d :: ds ∧ (u.shunter core n).begun = true ∧ (u.shunter
      core n).stray.isSome = true ∧ v = u.copyRest core n w.cclk d ∧ v.ctx? d.ctx = some x) :=
  ⟨⟨(.shunterCopy, false, false), by simp [shunterCommands], laneAt 0 copyWords ctx0, _, _, _, 600, 0, 0, 12, ctx0, copyWords, rfl,
    (by decide +kernel), issues_of (by decide +kernel) (by decide +kernel), (by decide +kernel), (by decide +kernel), rfl, rfl,
    (by dsimp only; decide +kernel)⟩,
   ⟨(laneAt 0 copyWords ctx1).setShunter 0 0 { queue := [shuntDesc 12 ctx0 3 copyWords], start := 200 }, _, _, 1200, 0, 0, shuntDesc 12
     ctx0 3 copyWords, [], rfl, (by decide +kernel), rfl, (by decide +kernel)⟩,
   ⟨(laneAt 0 copyWords ctx1).setShunter 0 0 { finish := [{ desc := shuntDesc 12 ctx0 3 copyWords, at_ := 10 }] }, _, _, _, 600, 0, 0,
     { desc := shuntDesc 12 ctx0 3 copyWords, at_ := 10 }, [], ctx1, rfl, (by decide +kernel), rfl, (by decide +kernel),
     (by decide +kernel), rfl, runs_of (by decide +kernel) (by decide +kernel), (by decide +kernel)⟩,
   ⟨(laneAt 0 [0x30 + 3 * 2 ^ 19, 0, 1024, 63, 0xFF, 0, 0, 0] ctx1).setShunter 0 0
     { queue := [shuntDesc 12 ctx0 3 [0x30 + 3 * 2 ^ 19, 0, 1024, 63, 0xFF, 0, 0, 0]], begun := true, start := 4 }, _, _, _, _, 600, 0,
     0, shuntDesc 12 ctx0 3 [0x30 + 3 * 2 ^ 19, 0, 1024, 63, 0xFF, 0, 0, 0], [], ctx1, rfl, (by decide +kernel), rfl,
     (by decide +kernel), (by decide +kernel), (by decide +kernel), (by decide +kernel), (by decide +kernel), rfl, (by decide +kernel),
     rfl, (by decide +kernel), runs_of (by decide +kernel) (by decide +kernel), (by decide +kernel)⟩,
   ⟨(laneAt 0 [0x30 + 3 * 2 ^ 19, 0, 1024, 63, 0xFF, 0, 0, 0] ctx1).setShunter 0 0
     { queue := [shuntDesc 12 ctx0 3 [0x30 + 3 * 2 ^ 19, 0, 1024, 63, 0xFF, 0, 0, 0]], begun := true, start := 4, stray := some 5 }, _,
     _, _, 600, 0, 0, shuntDesc 12 ctx0 3 [0x30 + 3 * 2 ^ 19, 0, 1024, 63, 0xFF, 0, 0, 0], [], ctx1, rfl, (by decide +kernel), rfl,
     (by decide +kernel), (by decide +kernel), (by decide +kernel), (by decide +kernel), rfl, (by decide +kernel)⟩⟩

/-- The hypotheses of `MemoryAgentsScrubWords` are met together. -/
theorem witness_MemoryAgentsScrubWords :
    (∃ (s w u : State) (dt : Nat) (l : Level) (agent : Nat), w = s.wait dt ∧ w.up = true ∧ u = w.catchUp ∧ w.hasAgent l agent = true ∧
      u.power.state < 2 ∧ 0 < u.passTime l ∧ u.walkDue l agent = true ∧ u.droneIdle l agent false (u.droneWord l agent (u.walker
      (walkKey l agent))) = true)
    ∧ (∃ (s w u : State) (dt : Nat) (c : Fin 4), w = s.wait dt ∧ w.up = true ∧ u = w.catchUp ∧ u.power.state < 2 ∧ 0 < u.passTime
      .external ∧ u.walkDue .external c = true)
    ∧ (∃ (s w u : State) (dt : Nat) (l : Level) (agent : Nat) (passed : Option Nat) (b : Writeback), w = s.wait dt ∧ w.up = true ∧ u =
      w.passWord l agent passed ∧ u.writebacks.find? (fun b => b.level == levelNum l && agentOf l b.word == agent) = some b ∧
      u.droneIdle l agent true b.word = true)
    ∧ (∃ (s u : State) (l : Level) (agent word : Nat), u = s.catchUp ∧ agentOf l word = agent ∧ hasKey (u.store l).poison word = false
      ∧ hasKey (u.store l).bad word = false ∧ ⟨levelNum l, word⟩ ∉ u.writebacks)
    ∧ (∃ (s w : State) (dt : Nat), w = s.wait dt ∧ w.up = true ∧ w.power.state < 2) :=
  ⟨⟨State.reset, _, _, 600, .stack, 31, rfl, (by decide +kernel), rfl, (by decide +kernel)⟩,
   ⟨State.reset, _, _, 600, 3, rfl, (by decide +kernel), rfl, (by decide +kernel)⟩,
   ⟨{ State.reset with writebacks := [⟨1, 5⟩] }, _, _, 600, .scratchpad, 0, none, ⟨1, 5⟩, rfl, (by decide +kernel), rfl,
     (by decide +kernel)⟩,
   ⟨State.reset, _, .scratchpad, 0, 5, rfl, (by decide +kernel)⟩,
   ⟨State.reset, _, 600, rfl, (by decide +kernel)⟩⟩

/-- The hypotheses of `PoolsWideModeAndDeterminismAreWritten` are met together. -/
theorem witness_PoolsWideModeAndDeterminismAreWritten :
    (∃ (s w : State) (r : Route) (dt sub : Nat) (v : BitVec 16), w = s.wait dt ∧ 0x20 ≤ sub ∧ sub ≤ 0x25 ∧ w.pins = [] ∧ Accepts w r
      0x2500 sub (leBytes 2 v.toNat))
    ∧ (∃ (s w u : State) (r : Route) (dt : Nat), w = s.wait dt ∧ u = w.catchAll ∧ w.reg (kMem 0x27) = 0 ∧ Accepts w r 0x2500 0x27
      (leBytes 1 1))
    ∧ (∃ (s w u : State) (r : Route) (dt : Nat), w = s.wait dt ∧ u = w.catchAll ∧ w.reg (kMem 0x27) = 1 ∧ u.pins = [] ∧ Accepts w r
      0x2500 0x27 (leBytes 1 0))
    ∧ (∃ (s w u : State) (r : Route) (dt : Nat) (v : BitVec 8), w = s.wait dt ∧ u = w.catchUp ∧ Accepts w r 0x2010 1 (leBytes 1
      v.toNat)) :=
  ⟨⟨State.reset, _, .hostPort, 600, 0x20, 5, rfl, (by decide +kernel), (by decide +kernel), (by decide +kernel),
    (by unfold Accepts; decide +kernel)⟩,
   ⟨State.reset, _, _, .hostPort, 600, rfl, rfl, (by decide +kernel), (by unfold Accepts; decide +kernel)⟩,
   ⟨at_ [(kMem 0x27, 1)], _, _, .hostPort, 600, rfl, rfl, (by decide +kernel), (by decide +kernel),
     (by unfold Accepts; decide +kernel)⟩,
   ⟨State.reset, _, _, .hostPort, 600, 1, rfl, rfl, (by unfold Accepts; decide +kernel)⟩⟩

/-- The hypotheses of `BanksAreCreatedAndDeleted` are met together. -/
theorem witness_BanksAreCreatedAndDeleted :
    (∃ (s w : State) (r : Route) (dt : Nat) (b : Fin 16), w = s.wait dt ∧ Accepts w r (0x2B00 + b) 4 (leBytes 1 1) ∧ (w.createBank
      b).isSome = true)
    ∧ (∃ (s w u : State) (dt : Nat) (b : Fin 16) (c e n : Nat), w = s.wait dt ∧ w.up = true ∧ u = w.catchAll ∧ (w.bank b).creating =
      some (c, e, n))
    ∧ (∃ (s w : State) (r : Route) (dt : Nat) (b : Fin 16), w = s.wait dt ∧ Accepts w r (0x2B00 + b) 4 (leBytes 1 2)) :=
  ⟨⟨bankSet, _, .hostPort, 600, 3, rfl, (by unfold Accepts; decide +kernel), (by decide +kernel)⟩,
   ⟨bankSet.setBank 3 { creating := some (120, 0, 8192) }, _, _, 600, 3, 120, 0, 8192, rfl, (by decide +kernel), rfl,
     (by decide +kernel)⟩,
   ⟨bankUp, _, .hostPort, 600, 3, rfl, (by unfold Accepts; decide +kernel)⟩⟩

/-- The hypotheses of `RecordsEnrolVoidAndLoadEntries` are met together. -/
theorem witness_RecordsEnrolVoidAndLoadEntries :
    (∃ (s w : State) (dt : Nat) (bs : Bytes), w = s.wait dt ∧ w.up = true ∧ leAt bs 1 1 ≠ 2)
    ∧ (∃ (s w : State) (dt : Nat) (bs : Bytes), w = s.wait dt ∧ w.up = true ∧ leAt bs 1 1 = 2)
    ∧ (∃ (s u : State) (b : Fin 16) (bs : Bytes) (i : Nat), u = s.catchAll.serveRuns ∧ bs.length = 288 ∧ leAt bs 0 1 = b ∧ leAt bs 1 1
      = 1 ∧ leAt bs 2 2 = 0 ∧ (slice bs 12 20).any (· != 0#8) = false ∧ s.bankReady b = true ∧ leAt bs 4 4 < s.cellCount b ∧
      tablesApart u b ∧ s.entryCount b ≤ u.entryCount b ∧ (upTo (s.cellSize b)).find? (fun i => !bit (s.entryWord b (leAt bs 4 4 *
      s.cellSize b + i)) 31) = some i)
    ∧ (∃ (s u : State) (b : Fin 16) (bs : Bytes), u = s.catchAll.serveRuns ∧ leAt bs 0 1 = b ∧ leAt bs 1 1 = 2 ∧ leAt bs 2 2 = 0 ∧
      (slice bs 12 20).any (· != 0#8) = false ∧ s.bankReady b = true ∧ leAt bs 4 4 < s.entryCount b)
    ∧ (∃ (s w u : State) (dt : Nat) (b : Fin 16) (bs : Bytes), w = s.wait dt ∧ w.up = true ∧ u = w.catchAll.serveRuns ∧ leAt bs 0 1 = b
      ∧ leAt bs 1 1 = 3 ∧ leAt bs 2 2 = 0 ∧ leAt bs 12 4 = 0 ∧ w.bankReady b = true ∧ w.bankFree b = true ∧ leAt bs 4 4 + leAt bs 8 4 ≤
      w.cellCount b ∧ bs.length = 16 + w.loadBytes bs ∧ tablesApart u b ∧ u.cellSize b = w.cellSize b ∧ w.cellCount b ≤ u.cellCount b) :=
  ⟨⟨bankUp, _, 600, bankRecord 1 1, rfl, (by decide +kernel)⟩,
   ⟨bankUp, _, 600, bankRecord 2 31, rfl, (by decide +kernel)⟩,
   ⟨bankUp, _, 3, bankRecord 1 1, 0, rfl, (by decide +kernel), (by decide +kernel), (by decide +kernel), (by decide +kernel),
     (by decide +kernel), (by decide +kernel), (by decide +kernel), (by unfold tablesApart; decide +kernel), (by decide +kernel)⟩,
   ⟨bankUp, _, 3, bankRecord 2 31, rfl, (by decide +kernel)⟩,
   ⟨bankUp, _, _, 600, 3, loadRecord, rfl, (by decide +kernel), rfl, (by decide +kernel), (by decide +kernel), (by decide +kernel),
     (by decide +kernel), (by decide +kernel), (by decide +kernel), (by decide +kernel), (by decide +kernel),
     (by unfold tablesApart; decide +kernel), (by decide +kernel)⟩⟩

/-- The hypotheses of `TopkCommandsRun` are met together. -/
theorem witness_TopkCommandsRun :
    (∃ (s w : State) (dt : Nat) (core : Fin 6) (slot : Fin 4) (bs : Bytes) (k : Nat) (x : Ctx), w = s.wait dt ∧ w.up = true ∧ w.slotCtx
      core slot = some (k, x) ∧ w.ctx? k = some x ∧ (w.topk core).queue.length < 4 ∧
      (let c := { ctx := k, inc := x.inc, rec_ := bs, at_ := w.cclk }; w.topkRefuses c = false))
    ∧ (∃ (s w : State) (dt : Nat) (core : Fin 6) (c : TopkCmd) (q : List TopkCmd), w = s.wait dt ∧ w.up = true ∧ (w.topk core).queue =
      c :: q ∧ (w.topk core).started = none ∧ c.at_ < w.cclk ∧ (w.topk core).freeAt < w.cclk)
    ∧ (∃ (s w u : State) (dt : Nat) (core : Fin 6) (c : TopkCmd) (q : List TopkCmd) (a : Nat) (x : Ctx), w = s.wait dt ∧ w.up = true ∧
      u = w.catchUp ∧ (u.topk core).queue = c :: q ∧ (u.topk core).started = some a ∧ a + c.time ≤ u.cclk ∧ Runs u c.ctx x ∧ x.inc =
      c.inc) :=
  ⟨⟨{ State.reset with ctxs := [(12, ctx64)] }, _, 600, 0, 0, topkRecord, 12, ctx64, rfl, (by decide +kernel), (by decide +kernel),
    (by decide +kernel), (by decide +kernel), (by dsimp only; decide +kernel)⟩,
   ⟨topkQueued none, _, 600, 0, topkCmd 3, [], rfl, (by decide +kernel)⟩,
   ⟨topkQueued (some 10), _, _, 6000, 0, topkCmd 3, [], 10, { ctx64 with work := 1 }, rfl, (by decide +kernel), rfl,
     (by decide +kernel), (by decide +kernel), (by decide +kernel), runs_of (by decide +kernel) (by decide +kernel),
     (by decide +kernel)⟩⟩

/-- The hypotheses of `ContextsArePreemptedTimedOutAndTornDown` are met together. -/
theorem witness_ContextsArePreemptedTimedOutAndTornDown :
    (∃ (s w : State) (dt : Nat) (p : Fin 6), w = s.wait dt ∧ w.up = true ∧ w.boundaryDue p = true ∧ Calm w ∧ (w.ctxs.map
      Prod.fst).Nodup ∧ (∀ j, (w.job j).restarts = []) ∧ (∀ q ∈ w.ctxs, w.corePart q.2.core = p → q.2.place = .inPlace ∧
      q.2.slot.isSome = true ∧ q.2.move = none))
    ∧ (∃ (s w u : State) (dt : Nat) (core : Fin 6) (slot : Fin 4) (k g : Nat) (x y : Ctx), w = s.wait dt ∧ w.up = true ∧ u = w.catchAll
      ∧ Calm u ∧ w.slotCtx core slot = some (k, x) ∧ x.graceAt = some g ∧ g < w.cclk ∧ x.forced = false ∧ x.holds = false ∧ u.ctx? k =
      some y ∧ y.pos = true ∧ y.waiting = .none)
    ∧ (∃ (s w : State) (dt : Nat) (core : Fin 6) (slot : Fin 4) (k g : Nat) (x : Ctx), w = s.wait dt ∧ w.up = true ∧ w.slotCtx core
      slot = some (k, x) ∧ x.graceAt = some g ∧ g < w.cclk ∧ x.forced = false ∧ x.holds = true ∧ x.overrun = false ∧ w.holdTime k ≠ 0)
    ∧ (∃ (s w : State) (dt : Nat) (j : Fin 64) (l : Fin 6) (x : Ctx) (d : Nat), w = s.wait dt ∧ w.up = true ∧ w.ctx? (ctxKey j l) =
      some x ∧ x.holdDue = some d ∧ d < w.cclk ∧ x.overrun = false ∧ x.evicted = none ∧ x.graceAt = none)
    ∧ (∃ (s w : State) (dt : Nat) (j : Fin 64) (l : Fin 6) (x : Ctx) (d : Nat), w = s.wait dt ∧ w.up = true ∧ (∀ i, (w.job i).leaving =
      false) ∧ (∀ i, i ≠ ctxKey j l → (w.ctx i).evicted = none) ∧ w.ctx? (ctxKey j l) = some x ∧ x.holdDue = some d ∧ d < w.cclk ∧
      x.overrun = false ∧ x.evicted.isSome = true)
    ∧ (∃ (s w : State) (dt : Nat) (j : Fin 64) (l : Fin 6) (x : Ctx), w = s.wait dt ∧ w.up = true ∧ Calm w ∧ w.ctx? (ctxKey j l) = some
      x) :=
  ⟨⟨slicing, _, 600, 0, rfl, (by decide +kernel), (by decide +kernel), calm_of (by decide +kernel), (by decide +kernel), no_restarts
    (by decide +kernel), (by decide +kernel)⟩,
   ⟨laneAt 0 [] { ctx0 with graceAt := some 20 }, _, _, 600, 0, 0, 12, 20, { ctx0 with graceAt := some 20 },
     { ctx0 with graceAt := some 20 }, rfl, (by decide +kernel), rfl, calm_of (by decide +kernel), (by decide +kernel)⟩,
   ⟨holding { ctx0 with graceAt := some 20, held := [(60, 2)] }, _, 600, 0, 0, 12, 20,
     { ctx0 with graceAt := some 20, held := [(60, 2)] }, rfl, (by decide +kernel)⟩,
   ⟨holding { ctx0 with holdDue := some 20, held := [(60, 2)] }, _, 600, 2, 0, { ctx0 with holdDue := some 20, held := [(60, 2)] }, 20,
     rfl, (by decide +kernel)⟩,
   ⟨holding { ctx0 with holdDue := some 20, held := [(60, 2)], evicted := some (13, 5) }, _, 600, 2, 0,
     { ctx0 with holdDue := some 20, held := [(60, 2)], evicted := some (13, 5) }, 20, rfl, (by decide +kernel), no_job_leaves
     (by decide +kernel), (calmBut_of (by decide +kernel)).2, (by decide +kernel)⟩,
   ⟨laneAt 0 [] ctx0, _, 600, 2, 0, ctx0, rfl, (by decide +kernel), calm_of (by decide +kernel), (by decide +kernel)⟩⟩

/-- The hypotheses of `ContextMovesComplete` are met together. -/
theorem witness_ContextMovesComplete :
    (∃ (s w u : State) (dt : Nat) (j : Fin 64) (l : Fin 6) (x : Ctx) (c n : Nat), w = s.wait dt ∧ w.up = true ∧ u = w.catchAll ∧ u.ctx?
      (ctxKey j l) = some x ∧ CalmBut u (ctxKey j l) ∧ x.move = some (.unload, c) ∧ x.slot = some n ∧ x.transfers ≤ x.moved ∧ max c
      x.moveNext + 3 ≤ u.cclk ∧ (∀ e, x.evicted = some e → e.1 ≠ ctxKey j l))
    ∧ (∃ (s w u : State) (dt : Nat) (j : Fin 64) (l : Fin 6) (x : Ctx) (c n : Nat), w = s.wait dt ∧ w.up = true ∧ u = w.catchAll ∧
      u.ctx? (ctxKey j l) = some x ∧ Calm u ∧ x.move = some (.load, c) ∧ x.slot = some n ∧ x.transfers ≤ x.moved ∧ max c x.moveNext +
      14 ≤ u.cclk)
    ∧ (∃ (s w u : State) (dt : Nat) (j : Fin 64) (l : Fin 6) (x : Ctx) (c n : Nat), w = s.wait dt ∧ w.up = true ∧ u = w.catchAll ∧
      u.ctx? (ctxKey j l) = some x ∧ CalmBut u (ctxKey j l) ∧ x.move = some (.save, c) ∧ x.slot = some n ∧ c + 162 ≤ u.cclk)
    ∧ (∃ (s w u : State) (dt : Nat) (j : Fin 64) (l : Fin 6) (x : Ctx) (c n : Nat), w = s.wait dt ∧ w.up = true ∧ u = w.catchAll ∧
      u.ctx? (ctxKey j l) = some x ∧ Calm u ∧ x.move = some (.restore, c) ∧ x.slot = some n ∧ c + 162 ≤ u.cclk) :=
  ⟨⟨unloading, _, _, 600, 2, 0, { ctx0 with move := some (.unload, 10), moved := 4096, evicted := some (13, 5), pos := false }, 10, 0,
    rfl, (by decide +kernel), rfl, (by decide +kernel), calmBut_of (by decide +kernel), (by decide +kernel)⟩,
   ⟨moving .load, _, _, 3000, 2, 0, { ctx0 with move := some (.load, 10), moved := 4096, pos := false }, 10, 0, rfl,
     (by decide +kernel), rfl, (by decide +kernel), calm_of (by decide +kernel), (by decide +kernel)⟩,
   ⟨moving .save, _, _, 3000, 2, 0, { ctx0 with move := some (.save, 10), moved := 4096, pos := false }, 10, 0, rfl,
     (by decide +kernel), rfl, (by decide +kernel), calmBut_of (by decide +kernel), (by decide +kernel)⟩,
   ⟨moving .restore, _, _, 3000, 2, 0, { ctx0 with move := some (.restore, 10), moved := 4096, pos := false }, 10, 0, rfl,
     (by decide +kernel), rfl, (by decide +kernel), calm_of (by decide +kernel), (by decide +kernel)⟩⟩

/-- The hypotheses of `TheModelStoreAndCacheAreCommanded` are met together. -/
theorem witness_TheModelStoreAndCacheAreCommanded :
    (∃ (s w : State) (dt : Nat) (src : ModelSource) (bs : Bytes), w = s.wait dt ∧ w.up = true ∧ src ≠ .ethercat ∧ (∀ p a u x q, src =
      .net p a u x q → (w.running (fNet p) || w.netDozes p) = true) ∧ w.asleep = false ∧ w.pins.contains (leAt bs 16 4) = false)
    ∧ (∃ (s w : State) (dt : Nat), w = s.wait dt ∧ w.up = true)
    ∧ (∃ (s w : State) (dt : Nat) (j : Fin 64), w = s.wait dt ∧ w.up = true ∧ (w.job j).loading = true ∧ w.running (fJob j) = true)
    ∧ (∃ c ∈ [(Instr.pin, 1), (Instr.preload, 3)], ∃ (s w u : State) (r : Route) (dt : Nat), w = s.wait dt ∧ u = w.catchAll ∧ Accepts w
      r 0x2560 4 (leBytes 1 c.2) ∧ (w.pinModel (w.reg (key 0x2560 5))).isSome = true)
    ∧ (∃ (s w : State) (r : Route) (dt : Nat), w = s.wait dt ∧ Accepts w r 0x2560 4 (leBytes 1 2))
    ∧ (∃ (s w : State) (r : Route) (dt : Nat), w = s.wait dt ∧ Accepts w r 0x2560 4 (leBytes 1 4) ∧ w.modelUsed (w.reg (key 0x2560 5))
      = false)
    ∧ (∃ (s w : State) (r : Route) (dt : Nat), w = s.wait dt ∧ Accepts w r 0x2560 4 (leBytes 1 5)) :=
  ⟨⟨at_ [(key 0x2020 (fNet 1), 2)], _, 600, .net 1 9 8 0 5, [], rfl, (by decide +kernel), (by decide +kernel),
    (by rintro p a u x q ⟨⟩; decide +kernel), (by decide +kernel)⟩,
   ⟨State.reset, _, 600, rfl, (by decide +kernel)⟩,
   ⟨{ laneAt 0 [] ctx0 with ctxs := [], jobs := [(2, { cores := [0, 3], loading := true })] }, _, 600, 2, rfl, (by decide +kernel)⟩,
   ⟨(Instr.pin, 1), by simp, modelled, _, _, .hostPort, 600, rfl, rfl, (by unfold Accepts; decide +kernel), (by decide +kernel)⟩,
   ⟨pinned, _, .hostPort, 600, rfl, (by unfold Accepts; decide +kernel)⟩,
   ⟨pinned, _, .hostPort, 600, rfl, (by unfold Accepts; decide +kernel), (by decide +kernel)⟩,
   ⟨modelled, _, .hostPort, 600, rfl, (by unfold Accepts; decide +kernel)⟩⟩

/-- The hypotheses of `BatchRecordsStepJoinAndLeave` are met together. -/
theorem witness_BatchRecordsStepJoinAndLeave :
    (∃ (s w : State) (dt : Nat) (core : Fin 6) (slot : Fin 4) (k : Nat) (x : Ctx), w = s.wait dt ∧ w.up = true ∧ w.slotCtx core slot =
      some (k, x))
    ∧ (∃ (s : State) (bs : Bytes) (k inc : Nat), bits (leAt bs 0 8) 47 20 = 0 ∧ bits (leAt bs 0 8) 12 8 = 0 ∧ bits (leAt bs 8 8) 63 48
      = 0 ∧ bits (leAt bs 16 8) 63 20 = 0 ∧ leAt bs 16 8 % 64 = 0 ∧ (bit (leAt bs 0 8) 13 = false → bits (leAt bs 0 8) 19 14 = 0) ∧
      leAt bs 24 8 = 0 ∧ (∀ p, (s.job (ctxJob k)).lastStep = some p → 0 < posDiff (leAt bs 8 8) p) ∧ s.tsInside k (leAt bs 16 8) 8256 =
      true)
    ∧ (∃ (s u : State) (k sem : Nat) (x : Ctx), u = s.catchUp ∧ Runs u k x ∧ sem < 56)
    ∧ (∃ (s w : State) (dt : Nat) (core : Fin 6) (slot : Fin 4) (bs : Bytes) (k : Nat) (x : Ctx), w = s.wait dt ∧ w.up = true ∧
      w.slotCtx core slot = some (k, x) ∧ leAt bs 0 1 = 3 ∧ (let v := leAt bs 0 8; let j := bits v 39 34; bits v 47 40 = 0 ∧ bits v 33
      8 = 0 ∧ w.running (fJob j) = true ∧ w.jobDom j = w.jobDom (ctxJob k) ∧ (w.job j).joins.length < 64))
    ∧ (∃ (s w : State) (dt : Nat) (core : Fin 6) (slot : Fin 4) (bs : Bytes) (k : Nat) (x : Ctx), w = s.wait dt ∧ w.up = true ∧
      w.slotCtx core slot = some (k, x) ∧ leAt bs 0 1 = 2 ∧ (let n := bits (leAt bs 0 8) 47 40; bits (leAt bs 0 8) 39 8 = 0 ∧ leAt bs
      12 4 = 0 ∧ (bs.drop 16).any (· != 0#8) = false ∧ (w.seq (ctxJob k) n).live = true ∧ (w.seq (ctxJob k) n).num = leAt bs 8 4)) :=
  ⟨⟨batching, _, 600, 0, 0, 12, ctx64, rfl, (by decide +kernel)⟩,
   ⟨batching, stepRecord, 12, 1, (by decide +kernel)⟩,
   ⟨batching, _, 12, 5, ctx64, rfl, runs_of (by decide +kernel) (by decide +kernel), (by decide +kernel)⟩,
   ⟨batching, _, 600, 0, 0, joinRecord, 12, ctx64, rfl, (by decide +kernel), (by decide +kernel), (by decide +kernel),
     (by dsimp only; decide +kernel)⟩,
   ⟨batching, _, 600, 0, 0, leaveRecord, 12, ctx64, rfl, (by decide +kernel), (by decide +kernel), (by decide +kernel),
     (by dsimp only; decide +kernel)⟩⟩

/-- The hypotheses of `TheBarrierStartsFunctionsTogether` are met together. -/
theorem witness_TheBarrierStartsFunctionsTogether :
    (∃ (s w : State) (r : Route) (dt : Nat), w = s.wait dt ∧ Accepts w r 0x2730 0x11 (leBytes 1 1) ∧ w.barrier = {} ∧ w.participant =
      true ∧ (∃ u, w.armCheck = .ok u))
    ∧ (∃ (s w : State) (r : Route) (dt : Nat), w = s.wait dt ∧ Accepts w r 0x2730 0x11 (leBytes 1 2))
    ∧ (∃ (s w : State) (dt : Nat), w = s.wait dt ∧ w.up = true ∧ w.hundredHigh = true ∧ w.bit' (kLink 0x10) 1 = true)
    ∧ (∃ (s w : State) (dt : Nat), w = s.wait dt ∧ w.up = true ∧ w.hundredHigh = true ∧ (∀ d, w.barrier.due = some d → w.beat ≤ d))
    ∧ (∃ (s w : State) (dt b : Nat), w = s.wait dt ∧ w.up = true ∧ w.barrier.at_ = some b ∧ b + w.reg (kLink 0x12) ≤ w.beat ∧ (∀ f ∈
      w.barrier.fns, (∃ d : Fin 4, f = fDomain d) ∨ ∃ j : Fin 64, f = fJob j))
    ∧ (∃ (s w : State) (dt d : Nat), w = s.wait dt ∧ w.up = true ∧ w.barrier.armed = true ∧ w.barrier.at_ = none ∧ w.barrier.due = some
      d ∧ d < w.beat) :=
  ⟨⟨masking, _, .hostPort, 600, rfl, (by unfold Accepts; decide +kernel), (by decide +kernel), (by decide +kernel), ok_of
    (by decide +kernel)⟩,
   ⟨armed, _, .hostPort, 600, rfl, (by unfold Accepts; decide +kernel)⟩,
   ⟨armed, _, 6000, rfl, (by decide +kernel)⟩,
   ⟨armed, _, 6000, rfl, (by decide +kernel)⟩,
   ⟨registered, _, 6000, 110, rfl, (by decide +kernel)⟩,
   ⟨armed, _, 60000, 510, rfl, (by decide +kernel)⟩⟩

/-- The hypotheses of `LinesAndFramesArePairedAndDelivered` are met together. -/
theorem witness_LinesAndFramesArePairedAndDelivered :
    (∃ (s w : State) (dt : Nat), w = s.wait dt ∧ w.up = true)
    ∧ (∃ (s w : State) (dt : Nat) (p : Fin 36) (l : CurLine), w = s.wait dt ∧ w.up = true ∧ (w.port p).line = some l ∧ w.running
      (fStream (w.streamOf p)) = true)
    ∧ (∃ (s w : State) (dt : Nat) (p : Fin 36), w = s.wait dt ∧ w.up = true ∧ w.running (fStream (w.streamOf p)) = true ∧ w.frameMode
      (w.streamOf p) = true ∧ w.arrival (w.streamOf p) = true)
    ∧ (∃ (s w : State) (dt : Nat) (p : Fin 36) (f : CurFrame), w = s.wait dt ∧ w.up = true ∧ w.active (fStream (w.streamOf p)) = true ∧
      (w.port p).frame = some f)
    ∧ (∃ (s w : State) (dt : Nat) (p : Fin 36) (e : PairEntry) (es : List PairEntry), w = s.wait dt ∧ w.up = true ∧ w.running (fStream
      (w.streamOf p)) = true ∧ w.frameMode (w.streamOf p) = false ∧ (w.port p).queue = e :: es ∧ e.at_ + w.reg (kPort (w.streamOf p) 8)
      < w.sclk ∧ (∀ x ∈ es, x.missed = false ∧ w.sclk ≤ x.at_ + w.reg (kPort (w.streamOf p) 8))) :=
  ⟨⟨at_ portRegs, _, 600, rfl, (by decide +kernel)⟩,
   ⟨(at_ portRegs).setPort 3 { line := some ⟨55, 0, 0⟩ }, _, 600, 3, ⟨55, 0, 0⟩, rfl, (by decide +kernel)⟩,
   ⟨framed, _, 600, 3, rfl, (by decide +kernel)⟩,
   ⟨framed.setPort 3 { frame := some ⟨true, 9, 1, 0⟩ }, _, 600, 3, ⟨true, 9, 1, 0⟩, rfl, (by decide +kernel)⟩,
   ⟨(at_ portRegs).setPort 3 { queue := [⟨55, 10, false⟩, ⟨56, 4800, false⟩] }, _, 60000, 3, ⟨55, 10, false⟩, [⟨56, 4800, false⟩], rfl,
     (by decide +kernel)⟩⟩

/-- The hypotheses of `PortClocksDeskewAndFrontEndsAct` are met together. -/
theorem witness_PortClocksDeskewAndFrontEndsAct :
    (∃ (s w : State) (dt : Nat) (p : Fin 36), w = s.wait dt ∧ w.up = true ∧ w.bit' (kPort p 0x0C) 15 = true)
    ∧ (∃ (s w : State) (dt : Nat) (p : Fin 36), w = s.wait dt ∧ w.up = true ∧ w.fn (fStream (w.streamOf p)) ≠ .off)
    ∧ (∃ (s w : State) (r : Route) (dt : Nat) (p : Fin 36), w = s.wait dt ∧ Accepts w r (0x2200 + p) 0x0B (leBytes 1 1))
    ∧ (∃ (s w : State) (dt : Nat) (p : Fin 36), w = s.wait dt ∧ w.up = true ∧ w.bit' (kPort p 0x0C) 14 = true)
    ∧ (∃ (s w u : State) (dt : Nat) (p : Fin 36), w = s.wait dt ∧ w.up = true ∧ u = w.catchAll ∧ (w.ife p).copying = true ∧ u.launches
      = [Launch.mk [fStream p] false])
    ∧ (∃ (s w u v : State) (dt m : Nat) (p : Fin 36) (l : IfeLine) (px : List (List (Nat × Bool))), w = s.wait dt ∧ w.up = true ∧ u =
      w.catchAll ∧ w.active (fStream (w.streamOf p)) = true ∧ m ≤ (u.port (w.streamOf p)).fifo.length ∧ (∀ i x, i < m → entered
      (w.streamOf p) i u = some x → lineOut x (w.streamOf p) = none) ∧ entered (w.streamOf p) m u = some v ∧ lineOut v (w.streamOf p) =
      some (l, px)) :=
  ⟨⟨at_ (portRegs ++ [(kPort 3 0xC, 2 ^ 15)]), _, 600, 3, rfl, (by decide +kernel)⟩,
   ⟨at_ portRegs, _, 600, 3, rfl, (by decide +kernel)⟩,
   ⟨at_ [(key 0x2020 (fStream 3), 1)], _, .hostPort, 600, 3, rfl, (by unfold Accepts; decide +kernel)⟩,
   ⟨at_ [(kPort 3 0xC, 2 ^ 14)], _, 600, 3, rfl, (by decide +kernel)⟩,
   ⟨flatCopying, _, _, 600, 3, rfl, (by decide +kernel), rfl, (by decide +kernel)⟩,
   ⟨lineReady, _, _, (lineReady.wait 600).catchAll, 600, 0, 3, ((lineOut (lineReady.wait 600).catchAll 3).get (by decide +kernel)).1,
     ((lineOut (lineReady.wait 600).catchAll 3).get (by decide +kernel)).2, rfl, (by decide +kernel), rfl, (by decide +kernel),
     (by decide +kernel), (fun i x h => absurd h (Nat.not_lt_zero i)), (by decide +kernel)⟩⟩

/-- The hypotheses of `SensorControlRecordsRun` are met together. -/
theorem witness_SensorControlRecordsRun :
    (∃ c ∈ sccCommands, ∃ (s w : State) (r : Route) (dt : Nat) (k : Fin 12) (bs : Bytes), w = s.wait dt ∧ leAt bs 0 1 = c.2 ∧ Accepts w
      r (0x2230 + k) 4 bs ∧ w.sccRefuses k (sccRecord bs none) = false)
    ∧ (∃ c ∈ sccCommands, ∃ (s w : State) (dt : Nat) (core : Fin 6) (slot : Fin 4) (bs : Bytes) (i : Nat) (x : Ctx), w = s.wait dt ∧
      w.up = true ∧ leAt bs 0 1 = c.2 ∧ w.slotCtx core slot = some (i, x) ∧ w.ctx? i = some x)
    ∧ (∃ (s w : State) (dt : Nat) (k : Fin 12) (b : Bool) (r : SccRec) (rs : List SccRec), w = s.wait dt ∧ w.up = true ∧ (w.scc
      k).queue = r :: rs ∧ (w.scc k).started = false ∧ (r.aligned = true → b = true))
    ∧ (∃ (s w : State) (dt : Nat) (k : Fin 12) (r : SccRec) (rs : List SccRec), w = s.wait dt ∧ w.up = true ∧ (w.scc k).queue = r :: rs
      ∧ (w.scc k).started = false ∧ r.aligned = true ∧ (w.scc k).headAt + micros (w.reg (kScc k 2)) < w.sclk)
    ∧ (∃ (s w : State) (dt : Nat) (k : Fin 12) (held : Nat) (r : SccRec) (rs : List SccRec), w = s.wait dt ∧ w.up = true ∧ (w.scc
      k).queue = r :: rs ∧ (w.scc k).started = true ∧ r.cmd ≠ 3 ∧ (w.scc k).startAt + held ≤ w.sclk ∧ micros (w.reg (kScc k 3)) < held)
    ∧ (∃ (s w : State) (dt : Nat) (k : Fin 12) (r : SccRec) (rs : List SccRec), w = s.wait dt ∧ w.up = true ∧ (w.scc k).queue = r :: rs
      ∧ (w.scc k).started = true) :=
  ⟨⟨(.i2cWrite, 1), by simp [sccCommands], busOpen 1, _, .hostPort, 600, 1, busRecord 1 0, rfl, (by decide +kernel),
    (by unfold Accepts; decide +kernel), (by decide +kernel)⟩,
   ⟨(.i2cWriteRead, 2), by simp [sccCommands], { busOpen 1 with ctxs := [(12, ctx0)] }, _, 600, 0, 0, busRecord 2 (2 ^ 24), 12, ctx0,
     rfl, (by decide +kernel)⟩,
   ⟨busQueued false 0, _, 600, 1, false, sccRecord (busRecord 2 0) none, [], rfl, (by decide +kernel)⟩,
   ⟨busQueued false (2 ^ 11), _, 6000000000, 1, sccRecord (busRecord 2 (2 ^ 11)) none, [], rfl, (by decide +kernel)⟩,
   ⟨busQueued true 0, _, 120000000, 1, 5000001, sccRecord (busRecord 2 0) none, [], rfl, (by decide +kernel)⟩,
   ⟨busQueued true 0, _, 600, 1, sccRecord (busRecord 2 0) none, [], rfl, (by decide +kernel)⟩⟩

/-- The hypotheses of `SamplesPassThroughTheIntake` are met together. -/
theorem witness_SamplesPassThroughTheIntake :
    (∃ (s w : State) (dt : Nat) (i : Fin 16) (n : Fin 2) (m : InMsg), w = s.wait dt ∧ w.up = true ∧ w.running (fIntake i) = true ∧
      w.roomFor i = true ∧ (n = 1 → (w.net 0).ready.find? (fun m => m.cls == 1 && m.stream == i.val) = none) ∧ (w.net n).ready.find?
      (fun m => m.cls == 1 && m.stream == i.val) = some m)
    ∧ (∃ (s w v : State) (dt : Nat) (e : Fin 4) (i : Nat) (x : Sample) (crops : List (Int × Int)), w = s.wait dt ∧ w.up = true ∧ v =
      forEach (upTo 16) w (fun i s => s.roiOverdue i) ∧ tfind w.engines e = none ∧ ((upTo 16).map (fun n => (w.lastIntake + 1 + n) %
      16)).find? (fun i => (v.readySample i).isSome) = some i ∧ v.readySample i = some (x, crops))
    ∧ (∃ (s w : State) (dt : Nat) (n : Fin 4) (e : Engine) (x : Sample), w = s.wait dt ∧ w.up = true ∧ w.engineSample n = some (e, x) ∧
      e.start + w.engineCycles e.stream x ≤ w.cclk ∧ w.engineCycles e.stream x ≤ w.budget e.stream x)
    ∧ (∃ (s w : State) (dt : Nat) (n : Fin 4) (e : Engine) (x : Sample), w = s.wait dt ∧ w.up = true ∧ w.engineSample n = some (e, x) ∧
      w.budget e.stream x < w.engineCycles e.stream x ∧ e.start + w.budget e.stream x < w.cclk)
    ∧ (∃ (s w v : State) (dt : Nat) (i : Fin 16) (x : Sample) (xs : List Sample) (r : Nat × Nat × Nat), w = s.wait dt ∧ w.up = true ∧ v
      = w.catchAll ∧ (w.intake i).samples = x :: xs ∧ x.done = some r)
    ∧ (∃ (s w : State) (dt : Nat) (core : Fin 6) (slot : Fin 4) (bs : Bytes) (k : Nat) (x : Ctx), w = s.wait dt ∧ w.up = true ∧
      w.slotCtx core slot = some (k, x) ∧ leAt bs 0 1 = 1 ∧ bits (leAt bs 0 8) 31 12 = 0 ∧ (let i := bits (leAt bs 0 8) 11 8;
      let n := bits (leAt bs 0 8) 47 32; w.running (fIntake i) = true ∧ w.jobDom (ctxJob k) = some (w.inDom i) ∧ n ≠ 0 ∧ (bs.drop
      8).any (· != 0#8) = false ∧ n ≤ (w.intake i).occupied))
    ∧ (∃ (s w v : State) (dt : Nat) (core : Fin 6) (slot : Fin 4) (bs : Bytes) (k : Nat) (x : Ctx), w = s.wait dt ∧ w.up = true ∧ v =
      w.roiOverdue (bits (leAt bs 0 8) 11 8) ∧ w.slotCtx core slot = some (k, x) ∧ leAt bs 0 1 = 2 ∧ bits (leAt bs 0 8) 31 16 = 0 ∧
      bits (leAt bs 0 8) 47 32 = 0 ∧ (let i := bits (leAt bs 0 8) 11 8; let n := bits (leAt bs 0 8) 15 12; let at_ := leAt bs 8 8;
      w.running (fIntake i) = true ∧ w.jobDom (ctxJob k) = some (w.inDom i) ∧ n ≤ 12 ∧ n ≤ w.field' (kIn i 1) 15 12 ∧ (bs.drop (16 + 4
      * n)).any (· != 0#8) = false ∧ tfind (w.intake i).rois at_ = none ∧ w.dispatchIndex i ≤ at_ ∧ at_ ≤ w.dispatchIndex i + 64))
    ∧ (∃ (s w : State) (dt : Nat) (i : Fin 16) (x : Sample) (d : Nat), w = s.wait dt ∧ w.up = true ∧ (w.intake i).head = some x ∧
      (w.intake i).roiDue = some d ∧ d < w.cclk) :=
  ⟨⟨(intaking 1000).setNet 0 { ready := [submission] }, _, 600, 3, 0, submission, rfl, (by decide +kernel)⟩,
   ⟨(intaking 1000).setIntake 3 { samples := [sample0] }, _, _, 600, 1, 3, sample0, [], rfl, (by decide +kernel), rfl,
     (by decide +kernel)⟩,
   ⟨decoding 1000, _, 600, 1, { stream := 3, index := 0, start := 0 }, { sample0 with sent := true }, rfl, (by decide +kernel)⟩,
   ⟨decoding 0, _, 600, 1, { stream := 3, index := 0, start := 0 }, { sample0 with sent := true }, rfl, (by decide +kernel)⟩,
   ⟨(intaking 1000).setIntake 3 { samples := [{ sample0 with done := some (0, 0, 1) }] }, _, _, 600, 3,
     { sample0 with done := some (0, 0, 1) }, [], (0, 0, 1), rfl, (by decide +kernel), rfl, (by decide +kernel)⟩,
   ⟨intakeJob, _, 600, 0, 0, leBytes 8 (1 + 2 * 2 ^ 32) ++ leBytes 56 0, 12, ctx0, rfl, (by decide +kernel), (by decide +kernel),
     (by decide +kernel), (by decide +kernel), (by dsimp only; decide +kernel)⟩,
   ⟨intakeJob, _, _, 600, 0, 0, leBytes 8 (2 + 2 * 2 ^ 12) ++ leBytes 8 64 ++ leBytes 48 0, 12, ctx0, rfl, (by decide +kernel), rfl,
     (by decide +kernel), (by decide +kernel), (by decide +kernel), (by decide +kernel), (by dsimp only; decide +kernel)⟩,
   ⟨(intaking 1000).setIntake 3 { samples := [sample0], roiDue := some 5 }, _, 600, 3, sample0, 5, rfl, (by decide +kernel)⟩⟩

/-- The hypotheses of `FireOrdersEnterAndAreDecided` are met together. -/
theorem witness_FireOrdersEnterAndAreDecided :
    (∃ c ∈ fireCommands, ∃ (s w : State) (dt : Nat) (bs : Bytes), w = s.wait dt ∧ w.up = true ∧ (fireRec bs).kind = c.2)
    ∧ (∃ (s w : State) (dt : Nat) (g : Fin 16) (f : BitVec 48) (e : FireEntry), w = s.wait dt ∧ w.up = true ∧ w.overdue g (w.sclk - 1)
      (fun e => e.fpos == f.toNat) = [e])
    ∧ (∃ (s w : State) (dt : Nat), w = s.wait dt ∧ w.up = true) :=
  ⟨⟨(.orderDecided, .decided), by simp [fireCommands], firing, _, 600, fireRecord 1 2 1000, rfl, (by decide +kernel)⟩,
   ⟨claimed.setReg (key 0x2108 0xB) 995, _, 600, 3, 1000, (fireRec (fireRecord 1 0 1000)).entry, rfl, (by decide +kernel)⟩,
   ⟨fieldUp, _, 600, rfl, (by decide +kernel)⟩⟩

/-- The hypotheses of `ValveFramesAndOutputsAct` are met together. -/
theorem witness_ValveFramesAndOutputsAct :
    (∃ (s w : State) (dt : Nat) (c : Fin 4) (d p : Nat), w = s.wait dt ∧ w.up = true ∧ (w.chan c).shift = none ∧ (w.chan c).latEnd =
      none ∧ w.nextChange c w.passed = some (d, p) ∧ w.chanNow c w.passed = (w.chan c).latched ∧ (w.chan c).freeAt ≤ w.sclk ∧
      w.reachedBy d (w.sclk - 2) (posAdd p (-(w.leastLead c : Int))) = true)
    ∧ (∃ (s w : State) (dt : Nat) (c : Fin 4) (f : Shift), w = s.wait dt ∧ w.up = true ∧ (w.chan c).shift = some f ∧ f.complete = false
      ∧ f.start + 10 * w.frameLen c ≤ w.sclk)
    ∧ (∃ (s t : State) (v : Nat), v < 2 ^ 16 ∧ t = s.perform (.drive v))
    ∧ (∃ (s : State) (d : Fin 16), bit s.ownedDo d = false)
    ∧ (∃ (s w : State) (dt : Nat) (c : Fin 4) (m : Nat), w = s.wait dt ∧ w.up = true ∧ (w.chan c).latEnd = some m ∧ m ≤ w.sclk)
    ∧ (∃ (s w : State) (r : Route) (dt : Nat) (v : BitVec 16), w = s.wait dt ∧ Accepts w r 0x2630 2 (leBytes 2 v.toNat))
    ∧ (∃ (s w : State) (dt : Nat) (g : Fin 16), w = s.wait dt ∧ w.up = true ∧ w.stopExpired g = true) :=
  ⟨⟨valving 995, _, 600, 3, 0, 1000, rfl, (by decide +kernel)⟩,
   ⟨(valving 1000).setChan 3 { shift := some shift0 }, _, 600000, 3, shift0, rfl, (by decide +kernel)⟩,
   ⟨State.reset, _, 5, (by decide +kernel), rfl⟩,
   ⟨State.reset, 15, (by decide +kernel)⟩,
   ⟨State.reset.setChan 3 { latEnd := some 20, latched := 4 }, _, 600, 3, 20, rfl, (by decide +kernel)⟩,
   ⟨State.reset, _, .hostPort, 600, 0x55, rfl, (by unfold Accepts; decide +kernel)⟩,
   ⟨((State.reset.setReg (key 0x2020 (fGroup 3)) 3).setGroup 3
     { entries := [(fireRec (fireRecord 1 2 1000)).entry], stopDue := some 5 }), _, 600, 3, rfl, (by decide +kernel)⟩⟩

/-- The hypotheses of `FieldInputsAndOutputsAct` are met together. -/
theorem witness_FieldInputsAndOutputsAct :
    (∃ (s w : State) (dt : Nat), w = s.wait dt ∧ w.up = true ∧ w.field.lost = false)
    ∧ (∃ (s w : State) (dt : Nat), w = s.wait dt ∧ w.up = true)
    ∧ (∃ (s w : State) (dt : Nat), w = s.wait dt ∧ w.up = true)
    ∧ (∃ (s w : State) (dt : Nat), w = s.wait dt ∧ w.up = true ∧ w.field.link = true ∧ (∀ c, w.field.sampled = some c → c + 500000 ≤
      w.sclk))
    ∧ (∃ (s w : State) (r : Route) (dt sub : Nat) (v : BitVec 32), w = s.wait dt ∧ 3 ≤ sub ∧ sub ≤ 0x13 ∧ Accepts w r 0x2640 sub
      (leBytes 4 v.toNat))
    ∧ (∃ (s w : State) (dt : Nat), w = s.wait dt ∧ w.up = true)
    ∧ (∃ (s w : State) (dt : Nat), w = s.wait dt ∧ w.up = true)
    ∧ (∃ (s w : State) (dt : Nat) (d : Fin 16), w = s.wait dt ∧ w.up = true ∧ w.driverOn d = true)
    ∧ (∃ (s w : State) (dt : Nat), w = s.wait dt ∧ w.field.under = false) :=
  ⟨⟨{ fieldUp with field := { fieldUp.field with lost := false } }, _, 600, rfl, (by decide +kernel)⟩,
   ⟨State.reset, _, 600, rfl, (by decide +kernel)⟩,
   ⟨fieldUp, _, 600, rfl, (by decide +kernel)⟩,
   ⟨fieldUp, _, 600, rfl, (by decide +kernel)⟩,
   ⟨State.reset, _, .hostPort, 600, 0x0A, 0x55, rfl, (by decide +kernel), (by decide +kernel), (by unfold Accepts; decide +kernel)⟩,
   ⟨State.reset, _, 600, rfl, (by decide +kernel)⟩,
   ⟨State.reset, _, 600, rfl, (by decide +kernel)⟩,
   ⟨{ driving with field := { driving.field with outPin := false } }, _, 600, 3, rfl, (by decide +kernel)⟩,
   ⟨driving, _, 600, rfl, (by decide +kernel)⟩⟩

/-- The hypotheses of `DictionaryAccessesAct` are met together. -/
theorem witness_DictionaryAccessesAct :
    (∃ (s w : State) (r : Route) (dt : Nat), w = s.wait dt ∧ w.mute r = false)
    ∧ (∃ (s w : State) (r : Route) (dt : Nat) (sub : BitVec 8) (data : Bytes), w = s.wait dt ∧ 1 ≤ sub.toNat ∧ sub.toNat ≤ 0x40 ∧
      data.length = 4 ∧ Accepts w r 0x2600 sub.toNat data)
    ∧ (∃ (s w : State) (r : Route) (dt : Nat) (ix : BitVec 16) (sub : BitVec 8) (data : Bytes) (e : Entry), w = s.wait dt ∧ ix.toNat ≠
      0x2410 ∧ within ix.toNat 0x2400 0x2405 = false ∧ entryOf ix.toNat sub.toNat = some e ∧ e.acc = .w1c ∧ Accepts w r ix.toNat
      sub.toNat data)
    ∧ (∃ (s w : State) (r : Route) (dt : Nat) (ix : BitVec 16) (sub : BitVec 8) (data : Bytes) (c : Nat), w = s.wait dt ∧ w.served r =
      true ∧ w.mute r = false ∧ ¬(r = .hostPort ∧ w.loses ix.toNat sub.toNat data = true) ∧ (w.arrive r ix.toNat sub.toNat data).check
      r ix.toNat sub.toNat data = some c)
    ∧ (∃ (s w : State) (dt : Nat) (ix : BitVec 16) (sub : BitVec 8) (data : Bytes), w = s.wait dt ∧ w.served .hostPort = true ∧ w.loses
      ix.toNat sub.toNat data = true)
    ∧ (∃ (s w : State) (r : Route) (dt : Nat) (ix : BitVec 16) (sub : BitVec 8) (data : Bytes), w = s.wait dt ∧ w.served r = true ∧
      w.mute r = false ∧ ¬(r = .hostPort ∧ w.loses ix.toNat sub.toNat data = true))
    ∧ (∃ (s w : State) (r : Route) (dt : Nat) (ix : BitVec 16) (sub : BitVec 8) (e : Entry) (n : Nat), w = s.wait dt ∧ w.served r =
      true ∧ w.mute r = false ∧ w.recoveryRefuses ix.toNat = false ∧ hasIndex w.grade ix.toNat = true ∧ entryOf ix.toNat sub.toNat =
      some e ∧ e.acc = .rc ∧ e.type = .num n)
    ∧ (∃ (s w : State) (dt k : Nat) (h : Holdoff), w = s.wait dt ∧ w.up = true ∧ w.holdoff k = some h ∧ h.due < w.sclk) :=
  ⟨⟨State.reset, _, .hostPort, 600, rfl, (by decide +kernel)⟩,
   ⟨State.reset, _, .hostPort, 600, 0x40, leBytes 4 0xABCDEF, rfl, (by decide +kernel), (by decide +kernel), (by decide +kernel),
     (by unfold Accepts; decide +kernel)⟩,
   ⟨State.reset, _, .hostPort, 600, 0x2640, 2, leBytes 2 0x40, (entryOf 0x2640 2).get (by decide +kernel), rfl, (by decide +kernel),
     (by decide +kernel), (Option.some_get _).symm, (by decide +kernel), (by unfold Accepts; decide +kernel)⟩,
   ⟨State.reset, _, .hostPort, 600, 0x2700, 2, leBytes 6 0x40, 0x06010002, rfl, (by decide +kernel)⟩,
   ⟨{ inAl 2 with ec := { (inAl 2).ec with down := some { index := 0x2600, sub := 5, ca := false, size := none } } }, _, 600, 0x2600,
     5, leBytes 4 3, rfl, (by decide +kernel)⟩,
   ⟨State.reset, _, .hostPort, 600, 0x2600, 5, [], rfl, (by decide +kernel)⟩,
   ⟨State.reset, _, .hostPort, 600, 0x2600, 0x41, (entryOf 0x2600 0x41).get (by decide +kernel), 4, rfl, (by decide +kernel)⟩,
   ⟨{ State.reset with holdoffs := [(key 0x2900 5, { due := 5, folded := 3, data := 9 })] }, _, 600, key 0x2900 5,
     { due := 5, folded := 3, data := 9 }, rfl, (by decide +kernel)⟩⟩

/-- The hypotheses of `FunctionsMoveByCommand` are met together. -/
theorem witness_FunctionsMoveByCommand :
    (∃ (s w : State) (r : Route) (dt f : Nat), w = s.wait dt ∧ Commands w r .enable f)
    ∧ (∃ (s w : State) (dt f : Nat), w = s.wait dt ∧ w.up = true ∧ (fnOf f).isSome = true ∧ w.fn f = .off ∧ w.pend f = true)
    ∧ (∃ (s w : State) (r : Route) (dt f : Nat), w = s.wait dt ∧ Commands w r .disable f)
    ∧ (∃ (s w : State) (r : Route) (dt f : Nat), w = s.wait dt ∧ Commands w r .clear f)
    ∧ (∃ (s w : State) (r : Route) (dt f : Nat), w = s.wait dt ∧ Commands w r .claim f)
    ∧ (∃ (s w : State) (r : Route) (dt f : Nat), w = s.wait dt ∧ Commands w r .release f)
    ∧ (∃ (s w : State) (r : Route) (dt f : Nat), w = s.wait dt ∧ Commands w r .stop f ∧ ((∃ j, fnOf f = some (.job j)) → Calm w) ∧ (∀
      p, ∀ m ∈ (w.net p).results, m.stream < 16)) :=
  ⟨⟨fnAt 0x8B 0, _, .hostPort, 600, 0x8B, rfl, (by unfold Commands Accepts; decide +kernel)⟩,
   ⟨fnAt 0x39 64, _, 600, 0x39, rfl, (by decide +kernel)⟩,
   ⟨fnAt 0x79 1, _, .hostPort, 600, 0x79, rfl, (by unfold Commands Accepts; decide +kernel)⟩,
   ⟨fnAt 0x29 4, _, .hostPort, 600, 0x29, rfl, (by unfold Commands Accepts; decide +kernel)⟩,
   ⟨fnAt 5 4, _, .hostPort, 600, 5, rfl, (by unfold Commands Accepts; decide +kernel)⟩,
   ⟨fnAt 1 0x24, _, .hostPort, 600, 1, rfl, (by unfold Commands Accepts; decide +kernel)⟩,
   ⟨fnAt 0x89 2, _, .hostPort, 600, 0x89, rfl, (by unfold Commands Accepts; decide +kernel), (fun _ => calm_of (by decide +kernel)),
     no_results (by decide +kernel)⟩⟩

/-- The hypotheses of `FunctionsStartAndStop` are met together. -/
theorem witness_FunctionsStartAndStop :
    (∃ (s w : State) (r : Route) (dt f : Nat) (u : State), w = s.wait dt ∧ Commands w r .start f ∧ w.launches = [] ∧ (w.arrive r 0x2020
      f (leBytes 4 0x300)).passes [f] = .ok u)
    ∧ (∃ (s w : State) (r : Route) (dt : Nat) (fs : List Nat) (u : State), w = s.wait dt ∧ Accepts w r 0x2020 0xF2 (setBytes 3 fs) ∧
      setMembers (setBytes 3 fs) = some (.start, fs) ∧ (∀ f ∈ fs, w.checkCmd r .start f = none) ∧ w.launches = [] ∧ (w.arrive r 0x2020
      0xF2 (setBytes 3 fs)).passes fs = .ok u)
    ∧ (∃ (s : State) (fs : List Nat), fs.Nodup ∧ (∀ f ∈ fs, (fnOf f).isSome = true))
    ∧ (∃ (s w : State) (r : Route) (dt : Nat) (fs : List Nat), w = s.wait dt ∧ Accepts w r 0x2020 0xF2 (setBytes 4 fs) ∧ setMembers
      (setBytes 4 fs) = some (.stop, fs) ∧ (∀ f ∈ fs, w.checkCmd r .stop f = none) ∧ ((∃ f ∈ fs, ∃ j, fnOf f = some (.job j)) → Calm w)
      ∧ (∀ p, ∀ m ∈ (w.net p).results, m.stream < 16))
    ∧ (∃ (s w : State) (dt f : Nat), w = s.wait dt ∧ w.up = true ∧ (fnOf f).isSome = true ∧ w.fn f = .stopping ∧ mayEnd w f = true) :=
  ⟨(ok_of (α := State) (x := (((fnAt 0x79 1).wait 600).arrive .hostPort 0x2020 0x79 (leBytes 4 0x300)).passes [0x79])
    (by decide +kernel)).elim fun u hu => ⟨fnAt 0x79 1, _, .hostPort, 600, 0x79, u, rfl, (by unfold Commands Accepts; decide +kernel),
    (by decide +kernel), hu⟩,
   (ok_of (α := State) (x := (((at_ [(key 0x2020 1, 1), (key 0x2020 0x79, 1)]).wait 600).arrive .hostPort 0x2020 0xF2 (setBytes 3 [1,
     0x79])).passes [1, 0x79]) (by decide +kernel)).elim fun u hu => ⟨at_ [(key 0x2020 1, 1), (key 0x2020 0x79, 1)], _, .hostPort, 600,
     [1, 0x79], u, rfl, (by unfold Accepts; decide +kernel), (by decide +kernel), (by decide +kernel), (by decide +kernel), hu⟩,
   ⟨State.reset, [1, 0x79], (by decide +kernel)⟩,
   ⟨at_ [(key 0x2020 1, 2), (key 0x2020 0x79, 3)], _, .hostPort, 600, [1, 0x79], rfl, (by unfold Accepts; decide +kernel),
     (by decide +kernel), (by decide +kernel), (fun _ => calm_of (by decide +kernel)), no_results (by decide +kernel)⟩,
   ⟨fnAt 0x8B 3, _, 600, 0x8B, rfl, (by decide +kernel)⟩⟩

/-- The hypotheses of `RefusedStartsLeaveEverything` are met together. -/
theorem witness_RefusedStartsLeaveEverything :
    (∃ (s w : State) (r : Route) (dt f : Nat) (a : Abort), w = s.wait dt ∧ Commands w r .start f ∧ (w.arrive r 0x2020 f (leBytes 4
      0x300)).passes [f] = .error a)
    ∧ (∃ (s w : State) (r : Route) (dt : Nat) (fs : List Nat) (a : Abort), w = s.wait dt ∧ Accepts w r 0x2020 0xF2 (setBytes 3 fs) ∧
      setMembers (setBytes 3 fs) = some (.start, fs) ∧ (∀ f ∈ fs, w.checkCmd r .start f = none) ∧ (w.arrive r 0x2020 0xF2 (setBytes 3
      fs)).passes fs = .error a)
    ∧ (∃ (s w : State) (r : Route) (dt f : Nat) (u : State), w = s.wait dt ∧ Commands w r .start f ∧ (w.arrive r 0x2020 f (leBytes 4
      0x300)).passes [f] = .ok u) :=
  ⟨(error_of (α := State) (x := (((fnAt 0x39 1).wait 600).arrive .hostPort 0x2020 0x39 (leBytes 4 0x300)).passes [0x39])
    (by decide +kernel)).elim fun u hu => ⟨fnAt 0x39 1, _, .hostPort, 600, 0x39, u, rfl, (by unfold Commands Accepts; decide +kernel),
    hu⟩,
   (error_of (α := State) (x := (((at_ [(key 0x2020 1, 1), (key 0x2020 0x39, 1)]).wait 600).arrive .hostPort 0x2020 0xF2 (setBytes 3
     [1, 0x39])).passes [1, 0x39]) (by decide +kernel)).elim fun u hu => ⟨at_ [(key 0x2020 1, 1), (key 0x2020 0x39, 1)], _, .hostPort,
     600, [1, 0x39], u, rfl, (by unfold Accepts; decide +kernel), (by decide +kernel), (by decide +kernel), hu⟩,
   (ok_of (α := State) (x := (((fnAt 0x79 1).wait 600).arrive .hostPort 0x2020 0x79 (leBytes 4 0x300)).passes [0x79])
     (by decide +kernel)).elim fun u hu => ⟨fnAt 0x79 1, _, .hostPort, 600, 0x79, u, rfl, (by unfold Commands Accepts; decide +kernel),
     hu⟩⟩

/-- The hypotheses of `SdoDownloadsProceedAndAbort` are met together. -/
theorem witness_SdoDownloadsProceedAndAbort :
    (∃ (s w : State) (dt : Nat), w = s.wait dt ∧ w.served .ethercat = true ∧ w.mute .ethercat = false)
    ∧ (∃ (s w : State) (dt : Nat), w = s.wait dt ∧ w.served .ethercat = true ∧ w.mute .ethercat = false ∧ (∀ d, w.ec.down = some d →
      w.sclk ≤ d.due))
    ∧ (∃ (s w : State) (dt : Nat) (d : SdoDown), w = s.wait dt ∧ w.served .ethercat = true ∧ w.mute .ethercat = false ∧ w.ec.down =
      some d ∧ d.due < w.sclk)
    ∧ (∃ (s w : State) (dt : Nat) (d : SdoDown), w = s.wait dt ∧ w.served .ethercat = true ∧ w.ec.down = some d ∧ d.due < w.sclk) :=
  ⟨⟨inAl 2, _, 600, rfl, (by decide +kernel)⟩,
   ⟨inAl 2, _, 600, rfl, (by decide +kernel)⟩,
   ⟨{ inAl 2 with ec := { (inAl 2).ec with down := some { index := 0x2600, sub := 5, ca := false, size := some 5, due := 5 } } }, _,
     600, { index := 0x2600, sub := 5, ca := false, size := some 5, due := 5 }, rfl, (by decide +kernel)⟩,
   ⟨{ inAl 2 with ec := { (inAl 2).ec with down := some { index := 0x2600, sub := 5, ca := false, size := some 5, due := 5 } } }, _,
     600, { index := 0x2600, sub := 5, ca := false, size := some 5, due := 5 }, rfl, (by decide +kernel)⟩⟩

/-- The hypotheses of `AlTransitionsAreTakenOrRefused` are met together. -/
theorem witness_AlTransitionsAreTakenOrRefused :
    (∃ (s w : State) (dt : Nat), w = s.wait dt ∧ w.up = true)
    ∧ (∃ (s w : State) (dt : Nat), w = s.wait dt ∧ w.up = true ∧ w.ec.al = 8)
    ∧ (∃ (s w : State) (dt : Nat) (r : EvRec) (rs : List EvRec), w = s.wait dt ∧ w.up = true ∧ w.emergencies = r :: rs ∧ 2 ≤ w.ec.al) :=
  ⟨⟨State.reset, _, 600, rfl, (by decide +kernel)⟩,
   ⟨inAl 8, _, 600, rfl, (by decide +kernel)⟩,
   ⟨inAl 2, _, 600, resetRec, [], rfl, (by decide +kernel)⟩⟩

/-- The hypotheses of `ProcessDataIsExchanged` are met together. -/
theorem witness_ProcessDataIsExchanged :
    (∃ (s w : State) (dt : Nat), w = s.wait dt ∧ w.up = true ∧ w.syncMode = false)
    ∧ (∃ (s w : State) (dt : Nat), w = s.wait dt ∧ w.up = true ∧ w.syncMode = true ∧ w.snapshotDue = true)
    ∧ (∃ (s w : State) (dt : Nat), w = s.wait dt ∧ w.up = true ∧ 4 ≤ w.ec.al)
    ∧ (∃ (s w : State) (dt : Nat) (image : Bytes), w = s.wait dt ∧ w.up = true ∧ w.ec.al = 8 ∧ image.length = mapBytes (w.mapped
      0x1C12))
    ∧ (∃ (s w : State) (dt : Nat), w = s.wait dt ∧ w.up = true)
    ∧ (∃ (s w : State) (dt c : Nat), w = s.wait dt ∧ w.up = true ∧ w.syncMode = true ∧ w.ec.syncAt = some c ∧ 0 < w.reg (kSm 2) ∧ c +
      w.reg (kSm 2) / 2 + 4 < w.sclk) :=
  ⟨⟨inAl 8, _, 600, rfl, (by decide +kernel)⟩,
   ⟨{ State.reset.setReg (kSm 1) 2 with ec := { al := 8, syncAt := some 5, awaited := true } }, _, 600, rfl, (by decide +kernel)⟩,
   ⟨inAl 4, _, 600, rfl, (by decide +kernel)⟩,
   ⟨inAl 8, _, 600, List.replicate (mapBytes ((inAl 8).mapped 0x1C12)) 0, rfl, (by decide +kernel)⟩,
   ⟨State.reset, _, 600, rfl, (by decide +kernel)⟩,
   ⟨{ at_ [(kSm 1, 2), (kSm 2, 10)] with ec := { syncAt := some 0 } }, _, 600, 0, rfl, (by decide +kernel)⟩⟩

/-- The hypotheses of `HostRequestsAreAnswered` are met together. -/
theorem witness_HostRequestsAreAnswered :
    (∃ (s w : State) (dt : Nat) (frame : Bytes), w = s.wait dt ∧ Requests w 1 frame ∧ w.hsp.xfer = none)
    ∧ (∃ (s w : State) (dt : Nat) (frame : Bytes), w = s.wait dt ∧ Requests w 2 frame ∧ w.hsp.xfer = none)
    ∧ (∃ (s w : State) (dt : Nat) (frame : Bytes) (x : Transfer), w = s.wait dt ∧ Requests w 3 frame ∧ w.hsp.xfer = some x ∧ w.sclk ≤
      x.due)
    ∧ (∃ (s w : State) (dt : Nat) (frame : Bytes) (x : Transfer), w = s.wait dt ∧ Requests w 4 frame ∧ w.hsp.xfer = some x ∧ w.sclk ≤
      x.due)
    ∧ (∃ (s w : State) (dt : Nat) (frame : Bytes), w = s.wait dt ∧ Requests w 5 frame ∧ (∀ x, w.hsp.xfer = some x → w.sclk ≤ x.due))
    ∧ (∃ c ∈ hostRequests, ∃ (s w : State) (dt : Nat) (frame : Bytes) (x : Transfer), w = s.wait dt ∧ 3 ≤ c.2 ∧ Requests w c.2 frame ∧
      w.hsp.xfer = some x ∧ x.due < w.sclk)
    ∧ (∃ c ∈ hostRequests, ∃ (s w : State) (dt : Nat), w = s.wait dt ∧ w.served .hostPort = true) :=
  ⟨⟨State.reset, _, 600, request 1 0 [], rfl, (by unfold Requests; decide +kernel), (by decide +kernel)⟩,
   ⟨State.reset, _, 600, request 2 4 (leBytes 4 0x81), rfl, (by unfold Requests; decide +kernel), (by decide +kernel)⟩,
   ⟨hosting { xfer := some { transfer0 with due := 10 ^ 9 } }, _, 600, request 3 2 (leBytes 2 0), { transfer0 with due := 10 ^ 9 },
     rfl, (by unfold Requests; decide +kernel), (by decide +kernel)⟩,
   ⟨hosting { xfer := some { transfer0 with down := false, size := 12, off := 4, data := List.replicate 12 1, due := 10 ^ 9 } }, _,
     600, request 4 4096 [], { transfer0 with down := false, size := 12, off := 4, data := List.replicate 12 1, due := 10 ^ 9 }, rfl,
     (by unfold Requests; decide +kernel), (by decide +kernel)⟩,
   ⟨State.reset, _, 600, request 5 0 [], rfl, (by unfold Requests; decide +kernel), (by decide +kernel)⟩,
   ⟨(.downloadSegment, 3), by simp [hostRequests], hosting { xfer := some transfer0 }, _, 600, request 3 2 (leBytes 2 0), transfer0,
     rfl, (by decide +kernel), (by unfold Requests; decide +kernel), (by decide +kernel)⟩,
   ⟨(.upload, 1), by simp [hostRequests], State.reset, _, 600, rfl, (by decide +kernel)⟩⟩

/-- The hypotheses of `HostTransactionsAndTimersAct` are met together. -/
theorem witness_HostTransactionsAndTimersAct :
    (∃ (s w : State) (dt : Nat) (k : Await) (a : HspResp), w = s.wait dt ∧ w.served .hostPort = true ∧ w.hsp.busy = some (k, a) ∧
      w.awaitDone k = true)
    ∧ (∃ (s w : State) (dt : Nat), w = s.wait dt ∧ w.served .hostPort = true)
    ∧ (∃ (s w : State) (dt : Nat), w = s.wait dt ∧ w.served .hostPort = true)
    ∧ (∃ (s w : State) (dt : Nat), w = s.wait dt ∧ w.served .hostPort = true)
    ∧ (∃ (s w : State) (dt : Nat), w = s.wait dt ∧ w.served .hostPort = true)
    ∧ (∃ (s w : State) (dt : Nat), w = s.wait dt ∧ w.served .hostPort = true)
    ∧ (∃ (s w : State) (dt : Nat) (x : Transfer), w = s.wait dt ∧ w.served .hostPort = true ∧ w.hsp.xfer = some x ∧ x.due < w.sclk)
    ∧ (∃ (s w : State) (dt : Nat), w = s.wait dt ∧ w.served .hostPort = true ∧ w.pulseDue = true)
    ∧ (∃ (s w : State) (dt c : Nat), w = s.wait dt ∧ w.served .hostPort = true ∧ w.hsp.pulse = some c ∧ c + 125 ≤ w.sclk) :=
  ⟨⟨hosting { busy := some (.ready, { pstat := 0, seq := 1 }) }, _, 600, .ready, { pstat := 0, seq := 1 }, rfl, (by decide +kernel)⟩,
   ⟨State.reset, _, 600, rfl, (by decide +kernel)⟩,
   ⟨State.reset, _, 600, rfl, (by decide +kernel)⟩,
   ⟨State.reset, _, 600, rfl, (by decide +kernel)⟩,
   ⟨State.reset, _, 600, rfl, (by decide +kernel)⟩,
   ⟨State.reset, _, 600, rfl, (by decide +kernel)⟩,
   ⟨hosting { xfer := some transfer0 }, _, 600, transfer0, rfl, (by decide +kernel)⟩,
   ⟨State.reset, _, 600, rfl, (by decide +kernel)⟩,
   ⟨hosting { pulse := some 3 }, _, 6000, 3, rfl, (by decide +kernel)⟩⟩

/-- The hypotheses of `LinksAndFramesAct` are met together. -/
theorem witness_LinksAndFramesAct :
    (∃ (s w : State) (dt : Nat) (p : Fin 3) (c : Nat), w = s.wait dt ∧ w.up = true ∧ (w.net p).train = some c ∧ c ≤ w.sclk ∧ w.netLit p
      = true)
    ∧ (∃ (s w : State) (dt : Nat) (p : Fin 3) (c : Nat), w = s.wait dt ∧ w.up = true ∧ (w.net p).retry = some c ∧ c ≤ w.sclk)
    ∧ (∃ (s w : State) (dt : Nat) (p : Fin 3), w = s.wait dt ∧ w.up = true ∧ w.lstate p = 2 ∧ w.netLit p = true)
    ∧ (∃ (s w : State) (dt : Nat) (p : Fin 3), w = s.wait dt ∧ w.up = true ∧ w.active (fNet p) = true)
    ∧ (∃ (s w : State) (dt : Nat) (n : Fin 2), w = s.wait dt ∧ w.up = true ∧ (w.running (fNet n) || w.netDozes n) = true ∧ w.lstate n =
      2)
    ∧ (∃ (s w : State) (dt : Nat) (n : Fin 2) (a mac c : Nat), w = s.wait dt ∧ w.up = true ∧ tfind (w.net n).arp a = some (mac, c) ∧ c
      ≤ w.sclk)
    ∧ (∃ (s w : State) (dt : Nat) (n : Fin 2) (c : Nat), w = s.wait dt ∧ w.up = true ∧ (w.net n).pauseAt = some c ∧ c ≤ w.sclk)
    ∧ (∃ (s w : State) (dt : Nat) (n : Fin 2) (c : Nat), w = s.wait dt ∧ w.up = true ∧ (w.net n).paused = some c ∧ c ≤ w.sclk) :=
  ⟨⟨(linked 0 []).setNet 0 { train := some 5 }, _, 600, 0, 5, rfl, (by decide +kernel)⟩,
   ⟨(linked 1 []).setNet 1 { retry := some 5 }, _, 600, 1, 5, rfl, (by decide +kernel)⟩,
   ⟨linked 2 [], _, 600, 2, rfl, (by decide +kernel)⟩,
   ⟨linked 2 [], _, 600, 2, rfl, (by decide +kernel)⟩,
   ⟨linked 1 [], _, 600, 1, rfl, (by decide +kernel)⟩,
   ⟨(linked 0 []).setNet 0 { arp := [(7, (8, 5))] }, _, 600, 0, 7, 8, 5, rfl, (by decide +kernel)⟩,
   ⟨(linked 0 []).setNet 0 { pauseAt := some 3 }, _, 600, 0, 3, rfl, (by decide +kernel)⟩,
   ⟨(linked 0 []).setNet 0 { paused := some 3 }, _, 600, 0, 3, rfl, (by decide +kernel)⟩⟩

/-- The hypotheses of `SegmentsAreReceivedAndSent` are met together. -/
theorem witness_SegmentsAreReceivedAndSent :
    (∃ (s w : State) (dt : Nat) (p : Fin 3), w = s.wait dt ∧ w.up = true ∧ w.running (fNet p) = true ∧ w.lstate p = 2)
    ∧ (∃ (s w : State) (dt : Nat) (p : Fin 3) (a u : Nat) (c i : Byte) (m : InMsg), w = s.wait dt ∧ w.up = true ∧ (w.net p).opens.find?
      (fun x => x.addr == a && x.udp == u && x.cls == c.toNat && x.stream == i.toNat) = some m ∧ m.due < w.sclk)
    ∧ (∃ (s w : State) (dt : Nat) (p : Fin 3) (k : TxKind), w = s.wait dt ∧ w.up = true ∧ (w.net p).tx = some k) :=
  ⟨⟨linked 0 [(kNet 0 8, 16)], _, 600, 0, rfl, (by decide +kernel)⟩,
   ⟨(linked 0 []).setNet 0 { opens := [{ addr := 9, udp := 8, cls := 3, stream := 0, seq := 5, total := 10, due := 4 }] }, _, 600, 0,
     9, 8, 3, 0, { addr := 9, udp := 8, cls := 3, stream := 0, seq := 5, total := 10, due := 4 }, rfl, (by decide +kernel)⟩,
   ⟨(linked 0 []).setNet 0 { tx := some .ptp, ptpOut := 2 }, _, 600, 0, .ptp, rfl, (by decide +kernel)⟩⟩

/-- The hypotheses of `MessagesReachTheirConsumers` are met together. -/
theorem witness_MessagesReachTheirConsumers :
    (∃ (s w : State) (dt : Nat) (m : InMsg) (ms : List InMsg), w = s.wait dt ∧ w.up = true ∧ (w.net 2).ready = m :: ms)
    ∧ (∃ (s w : State) (dt : Nat) (m : InMsg), w = s.wait dt ∧ w.up = true ∧ w.takeable 2 = some m)
    ∧ (∃ (s w : State) (dt : Nat) (p : Fin 2) (m : InMsg), w = s.wait dt ∧ w.up = true ∧ w.takeable p = some m ∧ m.cls = 1 ∧ m.stream <
      16 ∧ hdr (slice m.bytes 0 64) 8 8 = w.reg (kIn m.stream 0x11))
    ∧ (∃ (s w : State) (dt : Nat) (p : Fin 2) (m : InMsg), w = s.wait dt ∧ w.up = true ∧ w.takeable p = some m ∧ m.cls = 2 ∧ leAt
      m.bytes 1 1 = 1 ∧ m.bytes.length = 288)
    ∧ (∃ (s w : State) (dt : Nat) (p : Fin 2) (m : InMsg), w = s.wait dt ∧ w.up = true ∧ w.takeable p = some m ∧ m.cls = 3) :=
  ⟨⟨(linked 2 []).setNet 2 { ready := [message 4] }, _, 600, message 4, [], rfl, (by decide +kernel)⟩,
   ⟨(linked 2 []).setNet 2 { ready := [message 4] }, _, 600, message 4, rfl, (by decide +kernel)⟩,
   ⟨(intaking 1000).setNet 1 { ready := [submission] }, _, 600, 1, submission, rfl, (by decide +kernel)⟩,
   ⟨(linked 0 []).setNet 0 { ready := [bankMessage] }, _, 600, 0, bankMessage, rfl, (by decide +kernel)⟩,
   ⟨(linked 0 []).setNet 0 { ready := [message 3] }, _, 600, 0, message 3, rfl, (by decide +kernel)⟩⟩

/-- The hypotheses of `NetworkTimeIsKept` are met together. -/
theorem witness_NetworkTimeIsKept :
    (∃ (s w : State) (dt : Nat), w = s.wait dt ∧ w.up = true)
    ∧ (∃ (s w : State) (dt : Nat) (p : Fin 3), w = s.wait dt ∧ w.up = true ∧ w.ptpOn = true ∧ w.ptpReachable = true ∧ p.val =
      w.ptpPort)
    ∧ (∃ (s w : State) (dt : Nat), w = s.wait dt ∧ w.up = true ∧ w.ptpOn = true)
    ∧ (∃ (s w : State) (dt : Nat), w = s.wait dt ∧ w.up = true ∧ w.ptpOn = true)
    ∧ (∃ (s w : State) (r : Route) (dt : Nat) (o : BitVec 64), w = s.wait dt ∧ Accepts w r 0x2710 0x27 (leBytes 8 o.toNat)) :=
  ⟨⟨State.reset, _, 600, rfl, (by decide +kernel)⟩,
   ⟨ptpUp, _, 600, 0, rfl, (by decide +kernel)⟩,
   ⟨ptpUp, _, 600, rfl, (by decide +kernel)⟩,
   ⟨ptpUp, _, 600, rfl, (by decide +kernel)⟩,
   ⟨State.reset, _, .hostPort, 600, 77777777777, rfl, (by unfold Accepts; decide +kernel)⟩⟩

/-- The hypotheses of `ResetSourcesActAsTabulated` are met together. -/
theorem witness_ResetSourcesActAsTabulated :
    (∃ (s w : State) (dt : Nat), w = s.wait dt ∧ w.power.stage = .off)
    ∧ (∃ (s w : State) (dt b : Nat), w = s.wait dt ∧ w.power.stage = .up ∧ w.power.began = some b ∧ w.time ≤ b + 8880000000 ∧ (∀ f ∈
      allFns, w.fn f = .off))
    ∧ (∃ (s w : State) (dt : Nat), w = s.wait dt ∧ w.power.stage = .up)
    ∧ (∃ (s w : State) (dt : Nat), w = s.wait dt ∧ w.power.stage = .up)
    ∧ (∃ (s w : State) (dt : Nat), w = s.wait dt ∧ w.power.stage = .held ∧ w.power.holder = 1)
    ∧ (∃ (s w : State) (dt : Nat), w = s.wait dt ∧ w.power.stage = .held ∧ w.power.holder = 7)
    ∧ (∃ (s w : State) (dt : Nat), w = s.wait dt ∧ w.resetReady 2 = true)
    ∧ (∃ (s w : State) (dt : Nat), w = s.wait dt ∧ w.resetReady 3 = true)
    ∧ (∃ (s w : State) (dt : Nat), w = s.wait dt ∧ w.power.stage = .up) :=
  ⟨⟨staged .off 0, _, 600, rfl, (by decide +kernel)⟩,
   ⟨{ State.reset with power := { State.reset.power with began := some 0 } }, _, 600, 0, rfl, (by decide +kernel)⟩,
   ⟨State.reset, _, 600, rfl, (by decide +kernel)⟩,
   ⟨State.reset, _, 600, rfl, (by decide +kernel)⟩,
   ⟨staged .held 1, _, 600, rfl, (by decide +kernel)⟩,
   ⟨staged .held 7, _, 600, rfl, (by decide +kernel)⟩,
   ⟨resetting 2, _, 600, rfl, (by decide +kernel)⟩,
   ⟨resetting 3, _, 600, rfl, (by decide +kernel)⟩,
   ⟨State.reset, _, 600, rfl, (by decide +kernel)⟩⟩

/-- The hypotheses of `SupplyAndWakeSourcesAct` are met together. -/
theorem witness_SupplyAndWakeSourcesAct :
    (∃ (s w : State) (dt : Nat) (v : BitVec 16), w = s.wait dt ∧ v.toNat < 1080)
    ∧ (∃ (s w : State) (dt : Nat), w = s.wait dt ∧ w.power.stage = .up)
    ∧ (∃ (s w : State) (dt : Nat) (v : BitVec 16), w = s.wait dt ∧ 1080 ≤ v.toNat ∧ v.toNat ≤ 1320) :=
  ⟨⟨State.reset, _, 600, 1079, rfl, (by decide +kernel)⟩,
   ⟨State.reset, _, 600, rfl, (by decide +kernel)⟩,
   ⟨staged .standby 0, _, 600, 1080, rfl, (by decide +kernel)⟩⟩

/-- The hypotheses of `PowerStatesAndLimitingAct` are met together. -/
theorem witness_PowerStatesAndLimitingAct :
    (∃ (s w : State) (r : Route) (dt : Nat) (v : BitVec 8), w = s.wait dt ∧ Accepts w r 0x2800 1 (leBytes 1 v.toNat))
    ∧ (∃ (s w : State) (dt v : Nat), w = s.wait dt ∧ w.up = true ∧ w.power.target = some v ∧ v < 3)
    ∧ (∃ (s w : State) (dt : Nat), w = s.wait dt ∧ w.up = true ∧ w.power.target = some 3)
    ∧ (∃ (s w u : State) (dt : Nat), w = s.wait dt ∧ w.up = true ∧ u = w.catchUp) :=
  ⟨⟨State.reset, _, .hostPort, 600, 1, rfl, (by unfold Accepts; decide +kernel)⟩,
   ⟨{ State.reset with power := { State.reset.power with target := some 2 } }, _, 600, 2, rfl, (by decide +kernel)⟩,
   ⟨{ State.reset with power := { State.reset.power with target := some 3 } }, _, 600, rfl, (by decide +kernel)⟩,
   ⟨State.reset, _, _, 600, rfl, (by decide +kernel), rfl⟩⟩

/-- The hypotheses of `LifecycleCommandsAndContainersAct` are met together. -/
theorem witness_LifecycleCommandsAndContainersAct :
    (∃ (s w : State) (r : Route) (dt : Nat), w = s.wait dt ∧ Accepts w r 0x2810 2 (leBytes 1 1))
    ∧ (∃ (s w : State) (r : Route) (dt : Nat), w = s.wait dt ∧ Accepts w r 0x2810 2 (leBytes 1 2))
    ∧ (∃ (s w : State) (r : Route) (dt : Nat), w = s.wait dt ∧ Accepts w r 0x2810 2 (leBytes 1 3))
    ∧ (∃ (s w : State) (r : Route) (dt : Nat), w = s.wait dt ∧ Accepts w r 0x2810 2 (leBytes 1 4))
    ∧ (∃ (s w : State) (r : Route) (dt : Nat), w = s.wait dt ∧ Accepts w r 0x2810 2 (leBytes 1 5))
    ∧ (∃ (s w : State) (r : Route) (dt : Nat), w = s.wait dt ∧ Accepts w r 0x2810 2 (leBytes 1 6))
    ∧ (∃ (s w : State) (r : Route) (dt : Nat), w = s.wait dt ∧ Accepts w r 0x2810 2 (leBytes 1 7))
    ∧ (∃ (s w : State) (r : Route) (dt : Nat) (j : Fin 64) (bs : Bytes), w = s.wait dt ∧ Accepts w r (0x2510 + j) 2 bs)
    ∧ (∃ (s w : State) (r : Route) (dt : Nat) (bs : Bytes), w = s.wait dt ∧ Accepts w r 0x2810 0x0B bs) :=
  ⟨⟨State.reset, _, .hostPort, 600, rfl, (by unfold Accepts; decide +kernel)⟩,
   ⟨State.reset, _, .hostPort, 600, rfl, (by unfold Accepts; decide +kernel)⟩,
   ⟨State.reset, _, .hostPort, 600, rfl, (by unfold Accepts; decide +kernel)⟩,
   ⟨State.reset, _, .hostPort, 600, rfl, (by unfold Accepts; decide +kernel)⟩,
   ⟨State.reset, _, .hostPort, 600, rfl, (by unfold Accepts; decide +kernel)⟩,
   ⟨State.reset, _, .hostPort, 600, rfl, (by unfold Accepts; decide +kernel)⟩,
   ⟨State.reset, _, .hostPort, 600, rfl, (by unfold Accepts; decide +kernel)⟩,
   ⟨State.reset, _, .hostPort, 600, 63, [1], rfl, (by unfold Accepts; decide +kernel)⟩,
   ⟨State.reset, _, .hostPort, 600, [1], rfl, (by unfold Accepts; decide +kernel)⟩⟩

/-- The hypotheses of `DebugLevelsAndTapInstructionsAct` are met together. -/
theorem witness_DebugLevelsAndTapInstructionsAct :
    (∃ (s w : State) (r : Route) (dt : Nat) (v : BitVec 8), w = s.wait dt ∧ Accepts w r 0x2820 1 (leBytes 1 v.toNat))
    ∧ (∃ (s w : State) (r : Route) (dt : Nat) (b : Bytes), w = s.wait dt ∧ Accepts w r 0x2820 4 b)
    ∧ (∃ x ∈ tapCommands, ∃ (s w : State) (dt : Nat), w = s.wait dt ∧ w.power.stage ≠ .off)
    ∧ (∃ (s w : State) (dt : Nat), w = s.wait dt ∧ w.power.stage ≠ .off)
    ∧ (∃ (s w : State) (dt : Nat), w = s.wait dt ∧ w.power.stage ≠ .off) :=
  ⟨⟨State.reset, _, .hostPort, 600, 1, rfl, (by unfold Accepts; decide +kernel)⟩,
   ⟨State.reset, _, .hostPort, 600, List.replicate 256 1, rfl, (by unfold Accepts; decide +kernel)⟩,
   ⟨(.extest, 1, true, 0, true), by simp [tapCommands], State.reset, _, 600, rfl, (by decide +kernel)⟩,
   ⟨State.reset, _, 600, rfl, (by decide +kernel)⟩,
   ⟨State.reset, _, 600, rfl, (by decide +kernel)⟩⟩

/-- The hypotheses of `DebugAccessesReachMemory` are met together. -/
theorem witness_DebugAccessesReachMemory :
    (∃ (s w : State) (dt : Nat), w = s.wait dt ∧ w.power.stage ≠ .off)
    ∧ (∃ (s w : State) (dt : Nat), w = s.wait dt ∧ w.power.stage ≠ .off) :=
  ⟨⟨State.reset, _, 600, rfl, (by decide +kernel)⟩,
   ⟨State.reset, _, 600, rfl, (by decide +kernel)⟩⟩

/-- The hypotheses of `EveryStepKeepsFusesAndQueue` are met together. -/
theorem witness_EveryStepKeepsFusesAndQueue :
    ∃ (s t : State), step s = .next t :=
  ⟨State.reset, _, rfl⟩

/-- The hypotheses of `EveryStepKeepsMemoryCanonical` are met together. -/
theorem witness_EveryStepKeepsMemoryCanonical :
    ∃ (s t : State), MemoryIsCanonical s ∧ step s = .next t :=
  ⟨State.reset, _, (by unfold MemoryIsCanonical; decide +kernel), rfl⟩

/-! Single steps, their results from the rules named. -/

/-- A step takes the front command and leaves the rest (log 118). -/
theorem test_step_takes_the_front :
    (match step { State.reset with pending := [.poolSizeWrite 0 .hostPort 0x20 5, .snapshot 0] } with
     | .next t => t.reg (kMem 0x20) == 5 && t.pending == [.snapshot 0] | _ => false) = true := by decide +kernel
/-- A forward count in HOLD moves LPOS and HPOS (02 R41). -/
theorem test_count_forward : (after (.encoderCount 12 1 true false) encoding).lpos 1 = 101
    ∧ (after (.encoderCount 12 1 true false) encoding).hpos 1 = 101 := by decide +kernel
/-- A reverse count in HOLD is a debt (02 R41). -/
theorem test_count_reverse : (after (.encoderCount 12 1 false true) encoding).lpos 1 = 100
    ∧ (after (.encoderCount 12 1 false true) encoding).reg (key 0x2109 5) = 1 := by decide +kernel
/-- An illegal transition sets ILL and is counted (02 R35). -/
theorem test_illegal_transition : (after (.illegalTransition 12 1 true true) encoding).bit' (kEnc 1 6) 4 = true
    ∧ (after (.illegalTransition 12 1 true true) encoding).reg (key 0x2900 1) = 1 := by decide +kernel
/-- A trigger of port 3 records its position and begins its pulse (02 R47). -/
theorem test_trigger : (after (.triggerIssued 120 3) (triggering false)).reg (kTrig 3 6) = 77
    ∧ ((after (.triggerIssued 120 3) (triggering false)).trig 3).pulseEnd = some 60 := by decide +kernel
/-- A value already reached matches late and disarms (02 R56). -/
theorem test_compare_late : (later (.compareArm 12 .hostPort 3) encoding).cmpArmed 3 = false
    ∧ (later (.compareArm 12 .hostPort 3) encoding).bit' (kCmp 3 5) 1 = true := by decide +kernel
/-- LOOP goes back and counts (05 R129). -/
theorem test_loop : ((after (.loop 600 0 0) (laneAt (2 ^ 62 + 2 ^ 60 + 3 * 2 ^ 48) [] ctx0)).ctx 12).loops = [(1, 1)] := by
  decide +kernel
/-- An add of a private semaphore takes effect at once (05 R144). -/
theorem test_semaphore_add :
    (((after (.semaphoreAdd 600 0 0) (laneAt 0 [semWord 5 0 0 9, 0, 0, 0] ctx0)).ctx 12).sem 5).count = 9 := by decide +kernel
/-- One of a shared semaphore reaches the hub 8 cycles later (05 R145). -/
theorem test_semaphore_hub :
    (after (.semaphoreAdd 600 0 0) (laneAt 0 [semWord 60 0 0 9, 0, 0, 0] ctx0)).hubOps = [⟨128, 0, 60, 12, 1, .add 9⟩] := by
  decide +kernel
/-- A semaphore saturates at FFFFh (05 R146). -/
theorem test_semaphore_saturates :
    (((after (.semaphoreAdd 600 0 0) (laneAt 0 [semWord 5 0 0 9, 0, 0, 0] { ctx0 with sems := [(5, ⟨65530, 3⟩)] })).ctx 12).sem 5).count = 65535 := by
  decide +kernel
/-- A satisfied wait consumes (05 R148). -/
theorem test_wait : (((after (.wait 600 0 0) (laneAt 0 [waitWord 5 0 3 0, 0, 0, 0] { ctx0 with sems := [(5, ⟨10, 3⟩)] })).ctx 12).sem 5).count = 7 := by
  decide +kernel
/-- Credits are taken on every link of the path (05 R150). -/
theorem test_credits : (later (.creditAcquire 600 0 0) (laneAt 0 [creditWord 0 2 1 0 0, 0, 0, 0] ctx0)).linkUse = [(0, 1), (2, 1)] := by
  decide +kernel
/-- A pass enters the queue of its half (03 R83). -/
theorem test_pass_issue : ((after (.passIssue 600 0 0) (laneAt 0 [0x10, 0, 0, 0] ctx0)).half 0 0).queue = [passOf 12 ctx0 120 [0x10, 0, 0, 0]] := by
  decide +kernel
/-- A vector descriptor completes and signals its semaphore (05 R138). -/
theorem test_vector_complete : (((after (.vectorComplete 600 0) adding).ctx 12).sem 5).count = 1 := by decide +kernel
/-- An uncorrectable word is located and counted (07 R221). -/
theorem test_scrub : (after (.droneRead 600 .stack 3 2 .uncorrectable) State.reset).reg (key 0x2902 7) = 1 := by decide +kernel
/-- ENROL takes the first free entry of the cell (08). -/
theorem test_enrol : (later (.enrol 600 0 (bankRecord 1 1)) bankUp).reg (kBank 3 0x0A) = 1 := by decide +kernel
/-- A save is counted (09 R253). -/
theorem test_save : (after (.contextSaveComplete 3000 2 0) (moving .save)).reg (key 0x2570 3) = 1 := by decide +kernel
/-- The barrier starts its functions (10). -/
theorem test_barrier : (after (.barrierAction 6000) registered).fn (fDomain 1) = .running := by decide +kernel
/-- A line takes the stamp of its arrival (11). -/
theorem test_line_start :
    ((after (.lineStart 600 3 true) (at_ (portRegs ++ [(kPort 3 1, 2 ^ 10)]))).port 3).line = some ⟨77, 0, 0⟩ := by decide +kernel
/-- A decided order enters its group committed (14). -/
theorem test_order : ((later (.orderDecided 600 0 2 (fireRecord 1 2 1000)) firing).group 3).entries.map (fun e => (e.fpos, e.committed)) = [(1000, true)] := by
  decide +kernel
/-- A write to an object that can only be read is refused with its abort code (16 R408). -/
theorem test_refusal :
    (after (.dictionaryWrite 600 .hostPort 0x2700 2 false (leBytes 6 0x40)) State.reset).reg (refusalKey .hostPort) = 0x0601000227000200 := by
  decide +kernel
/-- Bits are cleared by ones (16). -/
theorem test_w1c : (after (.dictionaryWrite 600 .hostPort 0x2640 2 false (leBytes 2 0x40)) (at_ [(key 0x2640 2, 0xFF)])).reg (key 0x2640 2) = 0xBF := by
  decide +kernel
/-- ENABLE completes at STOPPED (16 R411). -/
theorem test_enable : (after (.enableComplete 600 0x79) (fnAt 0x79 64)).fn 0x79 = .stopped := by decide +kernel
/-- AL takes INIT to PREOP (16). -/
theorem test_al : (after (.alStateRequest 600 .preop 0 0 true 0) State.reset).ec.al = 2 := by decide +kernel
/-- A DOWNLOAD that comes whole is written (17 R436). -/
theorem test_download : (after (.download 600 (request 2 4 (leBytes 4 0x81))) State.reset).reg (key 0x2600 5) = 0x81 := by decide +kernel
/-- A lost link trains again (18 R442). -/
theorem test_link_loss : (after (.linkLoss 600 2) (linked 2 [])).lstate 2 = 0 := by decide +kernel
/-- RESET_N holds the module in reset, as cause 1 (19). -/
theorem test_reset : (after (.resetN 600) State.reset).power.stage = .held ∧ (after (.resetN 600) State.reset).reg (kReset 2) = 1 := by
  decide +kernel
/-- IDCODE is always served (21 R478). -/
theorem test_idcode : (after (.idcode 600) State.reset).tap.instr = 1 := by decide +kernel

end Sys2Proof.Tests
end

section
/-! SUPPORT. The guards of commands: what each leaves of the queue, the grade and the fuses (00 R8, 19 R472, R473). -/
namespace Sys2Proof.Machine

/-- `t` has the queue and the grade of `s`, and no fuse that `s` has blown is whole again. -/
structure Promises (s t : State) : Prop where
  pending : t.pending = s.pending
  grade : t.grade = s.grade
  lifecycle : s.fuses.lifecycle ≤ t.fuses.lifecycle
  revoked : ∀ n ∈ s.fuses.revoked, n ∈ t.fuses.revoked
  owner : ∀ n d, tfind s.fuses.owner n = some d → tfind t.fuses.owner n = some d

variable {s t u : State}

/-- The queue, the grade and the fuses left alone keep every promise. -/
theorem Promises.of_eq (hp : t.pending = s.pending) (hg : t.grade = s.grade) (hf : t.fuses = s.fuses) : Promises s t :=
  ⟨hp, hg, hf ▸ Nat.le_refl _, hf ▸ fun _ h => h, hf ▸ fun _ _ h => h⟩

theorem Promises.refl (s : State) : Promises s s := .of_eq rfl rfl rfl

theorem Promises.trans (a : Promises s t) (b : Promises t u) : Promises s u where
  pending := b.pending.trans a.pending
  grade := b.grade.trans a.grade
  lifecycle := a.lifecycle.trans b.lifecycle
  revoked n h := b.revoked n (a.revoked n h)
  owner n d h := b.owner n d (a.owner n d h)

variable (s t) (dt : Nat) (r : Route) (f : State → State)

theorem State.wait_promises : Promises s (s.wait dt) := .of_eq rfl rfl rfl

theorem State.sealed_promises : Promises s (s.sealed t) := .of_eq rfl rfl rfl

theorem State.live_promises : Promises s (s.live t) := by
  unfold State.live
  split_ifs
  · exact State.sealed_promises s t
  · exact Promises.refl s

theorem State.fieldLive_promises : Promises s (s.fieldLive t) := by
  unfold State.fieldLive
  split_ifs
  · exact State.sealed_promises s t
  · exact .of_eq rfl rfl rfl

/-- A command through a route may blow fuses, and mends none (19 R472, R473). -/
theorem State.routed_promises : Promises s (s.routed r t) := by
  cases h : s.served r with
  | true =>
    rw [State.routed_served s t r h]
    exact ⟨rfl, rfl, Fuses.le_blow _ _, Fuses.revoked_blow _ _, Fuses.owner_blow _ _⟩
  | false =>
    rw [State.routed, h]
    exact Promises.refl s

/-! What a command can do. -/

/-- The four ways in which a command leaves a state: time passes, and its effect comes through one of the guards. -/
inductive Guarded (s : State) : Out State → Prop
  | during (dt : Nat) (f : State → State) : Guarded s (.next (s.during dt f))
  | inField (dt : Nat) (f : State → State) : Guarded s (.next (s.inField dt f))
  | via (r : Route) (dt : Nat) (f : State → State) : Guarded s (.next (s.via r dt f))
  | sealing (dt : Nat) (f : State → State) : Guarded s (.next (s.sealing dt f))

theorem State.put_guarded (ix sub : Nat) (data : Bytes) : Guarded s (s.put r dt ix sub data) := .via r dt _

/-- A sensor-control record comes from a route or from a context (11 R327). -/
theorem scc_guarded (o : Option Route) (ix sub : Nat) (data : Bytes) :
    Guarded s (match o with | some r => s.put r dt ix sub data | none => .next (s.during dt f)) := by
  cases o with
  | none => exact .during dt f
  | some r => exact State.put_guarded s dt r ix sub data

/-- A guarded command answers a next state, which keeps every promise. -/
theorem Guarded.promises {o : Out State} (h : Guarded s o) : ∃ t, o = .next t ∧ Promises s t := by
  cases h with
  | during dt f => exact ⟨_, rfl, (State.wait_promises s dt).trans (State.live_promises _ _)⟩
  | inField dt f => exact ⟨_, rfl, (State.wait_promises s dt).trans (State.fieldLive_promises _ _)⟩
  | via r dt f => exact ⟨_, rfl, (State.wait_promises s dt).trans (State.routed_promises _ _ r)⟩
  | sealing dt f => exact ⟨_, rfl, (State.wait_promises s dt).trans (State.sealed_promises _ _)⟩

/-- Every command is guarded: those of power, reset and the TAP act in every stage, those of the field section on the field
supply, those of a route while it is served, and all others while the module is up. -/
theorem exec_guarded (i : Instr) (s : State) : Guarded s (exec i s) := by
  cases i
  case powerOn | bringUpFailure | resetN | moduleReset | moduleResetReboot | ioDieWatchdog | mainSupplyLoss | thermalTrip |
      clockFailure | wakeN | mainSupplyRise | extest | idcode | samplePreload | tapClamp | highz | bypass | dbgaccRead |
      dbgaccWrite | halt | resume | dbgctrlStep | resetNRelease | refclkRestored | tripTemperatureFall | standbyRailLoss =>
    exact .sealing _ _
  case outEnNChange | fieldUndervoltage | fieldSupplyRecovery | fieldSectionReset => exact .inField _ _
  case dictionaryWrite | rcRead | sdoSegmentTimeout | upload | download | downloadSegment | uploadSegment | abortTransfer |
      responseReady | read | status | event | resetTransaction | transactionTimeout | transferTimeout | attentionPulse |
      attentionPulseEnd | sdoDownloadInitiate | sdoDownloadSegment =>
    exact .via _ _ _
  case encoderConfigWrite | compareArm | compareDisarm | compareValueWrite | windowArm | windowDisarm | timerLoadWrite |
      poolSizeWrite | wideModeEnter | wideModeExit | determinismWrite | create | delete | pin | unpin | preload | remove |
      flush | barrierArm | barrierDisarm | deskew | manualOutputWrite | debounceWrite | enable | disable | start | stop |
      clear | claim | release | setStart | setStop | externalOffset | powerRequest | installOwnerKey | revokeOwnerKey |
      installContentKey | eraseContentKey | lock | retire | raiseVersion | jobImageWrite | firmwareContainerWrite |
      debugLevelRequest | debugToken =>
    exact State.put_guarded _ _ _ _ _ _
  case i2cWrite | i2cWriteRead | spiTransfer => exact scc_guarded _ _ _ _ _ _ _
  all_goals exact .during _ _

/-! Steps. -/

theorem step_cons {c : Instr} {cs : List Instr} (h : s.pending = c :: cs) : step s = exec c { s with pending := cs } := by
  unfold step
  rw [h]

theorem step_nil (h : s.pending = []) : step s = .next (s.wait 12) := by
  unfold step
  rw [h]
  rfl

/-- Settles O58: a step keeps the promises of the state whose queue has lost its front command, since every command leaves
its state through a guard. -/
theorem everyStepKeepsFusesAndQueue : Obligations.EveryStepKeepsFusesAndQueue := by
  intro s t h
  suffices hp : Promises { s with pending := s.pending.tail } t from
    ⟨hp.pending, hp.grade, hp.lifecycle, hp.revoked, hp.owner⟩
  cases hq : s.pending with
  | nil =>
    rw [step_nil s hq] at h
    cases h
    exact .of_eq hq rfl rfl
  | cons c cs =>
    rw [step_cons s hq] at h
    obtain ⟨u, hu, hp⟩ := (exec_guarded c { s with pending := cs }).promises
    rw [h] at hu
    cases hu
    exact hp

/-! The passage of time (log 119). -/

theorem Later.not_due_iff (l : Later) (x : Nat) : ¬ l.due x ↔ 2 * x + 1 ≤ 2 * l.tick + b2n l.close := Nat.not_lt

/-- With nothing due, time passes to its end as it stands. -/
theorem State.passTo_not_due (n x : Nat) (h : ∀ l ∈ s.later, ¬ l.due x) : s.passTo x n = s :=
  State.passTo_quiet s n x (fun l hl => (l.not_due_iff x).1 (h l hl))

/-- The first effect that is due is carried out in its own instant, and time passes on from there. -/
theorem State.passTo_due (n x : Nat) {l : Later} {ls : List Later} (hl : s.later = l :: ls) (hd : l.due x) :
    s.passTo x (n + 1) = ((({ s with later := ls }).atTime (max s.time l.tick)).perform l.act).passTo x n := by
  rw [State.passTo, hl]
  exact if_pos hd

/-- Settles O1: by the equations of `step`, and those of the passage of time with nothing due and with one effect due. -/
theorem stepExecutesTheFrontCommand : Obligations.StepExecutesTheFrontCommand := by
  refine ⟨fun s c cs h => step_cons s h, step_nil, fun s dt h => ?_, fun s dt l ls hl hd => ?_⟩
  · unfold State.wait
    rw [State.passTo_not_due s _ _ h]
    rfl
  · intro t ht
    have hfuel : ∃ n, s.passFuel dt = n + 1 := Nat.exists_eq_succ_of_ne_zero (by unfold State.passFuel; omega)
    obtain ⟨n, hn⟩ := hfuel
    unfold State.wait
    rw [hn, State.passTo_due s n _ hl hd, State.passTo_not_due t n _ ht]
    rfl

end Sys2Proof.Machine
end

section
/-! SUPPORT. Accesses of the dictionary (16 R407, R408, R415): what a refusal, an accepted write and a read that clears leave,
and a holdoff timer that runs out (20 R493). -/
namespace Sys2Proof.Machine

/-! Entries and values. -/

/-- A number has 8 bytes at most, and what is cleared by ones is a number. -/
def Entry.sound (e : Entry) : Bool := match e.type with | .num b => decide (b ≤ 8) | _ => e.acc != .w1c

theorem all_ite {α : Type} {c : Prop} [Decidable c] {a b : Option α} {p : α → Bool} (ha : a.all p = true)
    (hb : b.all p = true) : (if c then a else b).all p = true := by split <;> assumption

/-- Line by line through the tables of the dictionary: those told by ranges by `all_ite`, those told by cases by `split`. -/
theorem entryOf_sound (ix sub : Nat) : (entryOf ix sub).all Entry.sound = true := by
  delta entryOf od1018 od2000 od2010 od2020 odEncoder odDomain odCompare odWindow od2180 odTrigger odPort odScc odIfe odCore
    od2410 od2500 odJob od2560 od2570 od2600 odGroup odChannel od2630 od2640 odNet od2710 od2720 od2730 od2800 od2801 od2810
    od2820 odErr od29F0 odIntake odBank odMap odAssign odSm odInput odOutput
  repeat' first | apply all_ite | split
  all_goals rfl

/-- An entry that is cleared by ones is a number of 8 bytes at most. -/
theorem entryOf_w1c {ix sub : Nat} {e : Entry} (h : entryOf ix sub = some e) (hw : e.acc = .w1c) :
    ∃ b ≤ 8, e.type = .num b := by
  have hs := entryOf_sound ix sub
  rw [h, Option.all_some, Entry.sound] at hs
  split at hs
  next b hb => exact ⟨b, of_decide_eq_true hs, hb⟩
  next => rw [hw] at hs; cases hs

theorem widthOf_key {ix sub n : Nat} {e : Entry} (h : entryOf ix sub = some e) (he : e.type = .num n) (hs : sub < 256) :
    widthOf (key ix sub) = 8 * n := by
  obtain ⟨ty, acc, rst, m⟩ := e
  cases he
  unfold widthOf key
  rw [show (ix * 256 + sub) / 256 = ix by omega, show (ix * 256 + sub) % 256 = sub by omega, h]

theorem leNat_lt (bs : Bytes) : leNat bs < 256 ^ bs.length := by
  induction bs with
  | nil => exact Nat.one_pos
  | cons b bs ih =>
    have hb := b.isLt
    rw [leNat, List.length_cons, pow_succ]
    omega

/-- The value of the first bytes. -/
theorem leNat_take_lt (bs : Bytes) (n : Nat) : leNat (bs.take n) < 256 ^ n :=
  (leNat_lt _).trans_le (Nat.pow_le_pow_right (by omega) (List.length_take_le n bs))

/-! What a write stores (R407). -/

variable (s w : State) (r : Route) (dt ix sub : Nat) (data : Bytes)

/-- Every bit of a value written under a mask. -/
theorem testBit_masked (x m v : Nat) {j : Nat} (h : j < 64) :
    ((x &&& ((2 ^ 64 - 1) ^^^ m)) ||| (v &&& m)).testBit j = if m.testBit j then v.testBit j else x.testBit j := by
  rw [Nat.testBit_or, Nat.testBit_and, Nat.testBit_and, Nat.testBit_xor, Nat.testBit_two_pow_sub_one, decide_eq_true h]
  cases m.testBit j <;> simp

/-- A field that lies in the mask takes its value. -/
theorem State.field_putMasked {k m v hi lo : Nat} (hw : hi < widthOf k) (h64 : hi < 64)
    (hm : ∀ j ≤ hi, lo ≤ j → m.testBit j = true) : (s.putMasked k m v).field' k hi lo = bits v hi lo := by
  unfold State.field' State.putMasked
  rw [State.reg_setReg_same, bits_mod _ _ _ _ hw]
  apply Nat.eq_of_testBit_eq
  intro j
  rw [testBit_bits, testBit_bits]
  by_cases hj : j < hi + 1 - lo
  · rw [testBit_masked _ _ _ (by omega), if_pos (hm _ (by omega) (by omega))]
  · simp [hj]

/-- A register whose whole width lies in the mask takes the value. -/
theorem State.reg_putMasked_all {k v n : Nat} (hw : widthOf k = 8 * n) (hn : n ≤ 8) (hv : v < 256 ^ n) :
    (s.putMasked k (256 ^ n - 1) v).reg k = v := by
  have hp : 256 ^ n = 2 ^ (8 * n) := (pow_mul 2 8 n).symm
  rw [hp] at hv ⊢
  unfold State.putMasked
  rw [State.reg_setReg_same, hw]
  apply Nat.eq_of_testBit_eq
  intro j
  rw [Nat.testBit_mod_two_pow]
  by_cases hj : j < 8 * n
  · rw [testBit_masked _ _ _ (by omega), Nat.testBit_two_pow_sub_one]
    simp [hj]
  · rw [Nat.testBit_lt_two_pow (hv.trans_le (Nat.pow_le_pow_right (by omega) (by omega)))]
    simp [hj]

theorem Quiet.putMasked {rs : Spans} {s t : State} {k m v : Nat} (h : Quiet rs s t) (hk : covers rs k = true) :
    Quiet rs s (t.putMasked k m v) := h.setReg hk

/-- Bits cleared by ones, where no cause field goes with its flag. -/
theorem State.clearBits_eq (m v : Nat) (h : ix ≠ 0x2410) (hc : within ix 0x2400 0x2405 = false) :
    s.clearBits ix sub m v =
      s.setReg (key ix sub) (s.reg (key ix sub) &&& ((2 ^ 64 - 1) ^^^ (v &&& m))) := by
  unfold State.clearBits
  simp [h, hc]

theorem State.bit_clearBits (m v : Nat) (h : ix ≠ 0x2410) (hc : within ix 0x2400 0x2405 = false) {i : Nat}
    (hi : i < widthOf (key ix sub)) (h64 : i < 64) :
    (s.clearBits ix sub m v).bit' (key ix sub) i = (s.bit' (key ix sub) i && !(bit v i && bit m i)) := by
  rw [State.clearBits_eq s ix sub m v h hc]
  unfold State.bit'
  rw [State.reg_setReg_same, bit_mod _ _ _ hi]
  simp only [bit_eq, Nat.testBit_and, Nat.testBit_xor, Nat.testBit_two_pow_sub_one, decide_eq_true h64, Bool.true_xor]

/-- No entry of the functions is cleared by ones. -/
theorem od2020_not_w1c : (od2020 sub).all (fun e => e.acc != .w1c) = true := by
  unfold od2020
  repeat' apply all_ite
  all_goals rfl

/-- An accepted write of an entry that is cleared by ones. -/
theorem State.act_w1c {e : Entry} (h : entryOf ix sub = some e) (hw : e.acc = .w1c) :
    s.act r ix sub data = { s := s.clearBits ix sub e.mask (leNat data) } := by
  obtain ⟨b, -, hb⟩ := entryOf_w1c h hw
  have hf : ix ≠ 0x2020 := by
    rintro rfl
    have hn := od2020_not_w1c sub
    rw [show od2020 sub = some e from h, Option.all_some, hw] at hn
    cases hn
  unfold State.act
  rw [if_neg hf]
  simp only [h, hw, hb, reduceCtorEq, if_true, if_false]

/-! Replies over a route. -/

/-- Over a served route the module takes the state of the reply, but for the EtherCAT side and the guarded fields. -/
theorem State.routed_reply (hs : w.served r = true) (x : Reply) :
    ∃ e f, w.routed r (x.sentOver r) = w.keepOuter x.s e f := by
  obtain ⟨e, he⟩ := Reply.sentOver_ec r x
  exact ⟨e, _, by rw [State.routed_served w _ r hs, he]; rfl⟩

theorem widthOf_refusalKey : widthOf (refusalKey r) = 64 := by
  cases r
  · exact widthOf_key (ix := 0x2020) (sub := 0xF0) (e := eRO 8) rfl rfl (by omega)
  · exact widthOf_key (ix := 0x2020) (sub := 0xF1) (e := eRO 8) rfl rfl (by omega)

theorem State.noteRefusal_eq (a : Abort) (cmd : Nat) : s.noteRefusal r a cmd =
    s.setReg (refusalKey r) (a.code * 2 ^ 32 + a.ix * 65536 + a.sub * 256 + cmd) := by
  unfold State.noteRefusal refusalKey
  cases r <;> rfl

/-- What a refusal leaves (R415). -/
theorem refusedWith_of_refuse (hs : w.served r = true) (e : EcUnit) (a : Abort) (cmd : Nat) :
    RefusedWith w (w.routed r (((w.withEc e).refuse r a cmd).sentOver r)) r a cmd := by
  have hn := State.noteRefusal_eq (w.withEc e) r a cmd
  have hq : Quiet [at1 (refusalKey r)] (w.withEc e) ((w.withEc e).noteRefusal r a cmd) := by
    rw [hn]
    exact (Quiet.refl _).setReg (covers_at1 (by simp))
  have hallots := hq.keeps (·.allots) (fun _ => rfl)
  have hcache := hq.keeps (·.cache) (fun _ => rfl)
  have hregions := hq.keeps (·.regions) (fun _ => rfl)
  obtain ⟨e', f, hu⟩ := State.routed_reply w r hs ((w.withEc e).refuse r a cmd)
  refine ⟨?_, ?_, ?_, ?_, ?_, ?_⟩
  · rw [hu, State.reg_keepOuter, State.refuse, hn, State.reg_setReg_same, widthOf_refusalKey]
  · rintro rfl
    rw [State.routed_served w _ _ hs]
    rfl
  · rw [hu]
    exact hallots
  · rw [hu]
    exact hcache
  · rw [hu]
    exact hregions
  · rw [hu]
    exact hq.keepOuter

/-- A write registers, while the route takes part. -/
theorem exec_dictionaryWrite {s w : State} {r : Route} {dt : Nat} (hw : w = s.wait dt) (hm : w.mute r = false) (ix : BitVec 16)
    (sub : BitVec 8) (ca : Bool) (data : Bytes) : exec (.dictionaryWrite dt r ix sub ca data) s =
      .next (w.routed r ((w.writeAny r ix.toNat sub.toNat ca data).sentOver r)) := by
  subst hw
  show Host.Outcome.next ((s.wait dt).routed r (if (s.wait dt).mute r = true then _ else _)) = _
  rw [hm, if_neg Bool.false_ne_true]

/-- A write of one entry that is accepted. -/
theorem exec_accepted {s w : State} {r : Route} {dt : Nat} (hw : w = s.wait dt) {ix : BitVec 16} {sub : BitVec 8} {data : Bytes}
    (h : Accepts w r ix.toNat sub.toNat data) : ∃ e0 e f, exec (.dictionaryWrite dt r ix sub false data) s =
      .next (w.keepOuter ((w.withEc e0).act r ix.toNat sub.toNat data).s e f) :=
  State.put_next s r dt ix.toNat sub.toNat data hw h

/-- A write that fails a check is refused. -/
theorem State.write_refused (hm : s.mute r = false) (hl : ¬(r = .hostPort ∧ s.loses ix sub data = true)) {c : Nat}
    (hc : (s.arrive r ix sub data).check r ix sub data = some c) :
    s.write r ix sub data = (s.arrive r ix sub data).refuse r ⟨c, ix, sub⟩ (cmdByte ix sub) := by
  unfold State.write
  rw [hm, if_neg Bool.false_ne_true, if_neg hl]
  simp only [hc]

/-- A host-port write that loses to EtherCAT is refused (R418). -/
theorem State.write_loses (hl : s.loses ix sub data = true) :
    s.write .hostPort ix sub data = s.refuse .hostPort ⟨0x080000A1, ix, sub⟩ (cmdByte ix sub) := by
  unfold State.write
  rw [show s.mute .hostPort = false from rfl, if_neg Bool.false_ne_true, if_pos ⟨rfl, hl⟩]

/-- A complete-access write that fails a check is refused. -/
theorem State.writeComplete_refused (hm : s.mute r = false) (hl : ¬(r = .hostPort ∧ s.loses ix sub data = true)) {x : Nat × Nat}
    (hc : (s.arrive r ix sub data).caBad r ix sub data = some x) :
    s.writeComplete r ix sub data = (s.arrive r ix sub data).refuse r ⟨x.2, ix, x.1⟩ 0 := by
  unfold State.writeComplete
  rw [hm, if_neg Bool.false_ne_true, if_neg hl]
  simp only [hc]

/-- One that passes its checks acts on its entries. -/
theorem State.writeComplete_accepted (hm : s.mute r = false) (hl : ¬(r = .hostPort ∧ s.loses ix sub data = true))
    (hc : (s.arrive r ix sub data).caBad r ix sub data = none) :
    s.writeComplete r ix sub data = { s := (s.arrive r ix sub data).caAct r ix (caSplit ix (subsFrom ix sub) data) } := by
  unfold State.writeComplete
  rw [hm, if_neg Bool.false_ne_true, if_neg hl]
  simp only [hc]

/-! Process-data mappings by complete access (R406, R423). -/

theorem caSplit_subs (is : List Nat) (bs : Bytes) : (caSplit ix is bs).map Prod.fst = is := by
  induction is generalizing bs with
  | nil => rfl
  | cons i is ih => rw [caSplit, List.map_cons, ih]

theorem subsFrom_nodup : (subsFrom ix sub).Nodup := (upTo_nodup 256).filter _

theorem mem_subsFrom {i : Nat} (h : i ∈ subsFrom ix sub) : i < 256 ∧ (entryOf ix i).isSome = true := by
  simp only [subsFrom, List.mem_filter, Bool.and_eq_true] at h
  exact ⟨lt_of_upTo h.1, h.2.2⟩

/-- The bytes of an entry of a mapping object: a count of one byte, and entries of four. -/
def mapEntryBytes (i : Nat) : Nat := if i = 0 then 1 else 4

theorem mapEntryBytes_le (i : Nat) : mapEntryBytes i ≤ 8 := by unfold mapEntryBytes; split_ifs <;> omega

theorem entryOf_map {i : Nat} (h : within ix 0x1600 0x1603 = true) (hi : (entryOf ix i).isSome = true) :
    entryOf ix i = some (eRW (mapEntryBytes i)) := by
  have hm : entryOf ix i = odMap i := by
    have hx := h
    simp only [within, Bool.and_eq_true, decide_eq_true_eq] at hx
    unfold entryOf
    rw [if_neg (by omega), if_neg (not_within (by omega)), if_neg (by omega), if_pos (by rw [h]; rfl)]
  rw [hm] at hi ⊢
  unfold odMap at hi ⊢
  unfold mapEntryBytes
  split_ifs at hi ⊢ with h0
  · rw [if_pos h0]
  · rw [if_neg h0]
  · cases hi

/-- The values of a complete access to a mapping object fit their entries. -/
theorem caSplit_fits (is : List Nat) (bs : Bytes) (hi : ∀ i ∈ is, entryOf ix i = some (eRW (mapEntryBytes i))) :
    ∀ x ∈ caSplit ix is bs, leNat x.2 < 256 ^ mapEntryBytes x.1 := by
  induction is generalizing bs with
  | nil => nofun
  | cons i is ih =>
    rw [caSplit, List.forall_mem_cons]
    refine ⟨?_, ih _ (fun j hj => hi j (List.mem_cons_of_mem _ hj))⟩
    have he := hi i List.mem_cons_self
    by_cases h0 : i = 0
    · simpa [h0, mapEntryBytes] using leNat_take_lt bs 1
    · simpa [h0, mapEntryBytes, caBytes, he, eRW] using leNat_take_lt bs 4

/-- A write to a mapping object stores the value. -/
theorem State.act_map {i : Nat} (h : within ix 0x1600 0x1603 = true) (he : entryOf ix i = some (eRW (mapEntryBytes i))) :
    (s.act r ix i data).s = s.putMasked (key ix i) (256 ^ mapEntryBytes i - 1) (leNat data) := by
  simp only [within, Bool.and_eq_true, decide_eq_true_eq] at h
  rw [State.act_num s r ix i data he (by simp [eRW]) (by simp [eRW]) (by omega)]
  obtain rfl | rfl | rfl | rfl : ix = 0x1600 ∨ ix = 0x1601 ∨ ix = 0x1602 ∨ ix = 0x1603 := by omega
  all_goals rfl

theorem State.caAct_eq (xs : List (Nat × Bytes)) (h : within ix 0x7000 0x70FF = false) :
    s.caAct r ix xs = forEach xs s (fun x u => (u.act r ix x.1 x.2).s) := by
  unfold State.caAct
  rw [h, if_neg Bool.false_ne_true]

section Mapping
variable {ix} {xs : List (Nat × Bytes)} (h : within ix 0x1600 0x1603 = true)
  (hx : ∀ x ∈ xs, x.1 < 256 ∧ entryOf ix x.1 = some (eRW (mapEntryBytes x.1)))
include h

theorem not_output_of_map : within ix 0x7000 0x70FF = false := by
  simp only [within, Bool.and_eq_true, decide_eq_true_eq, Bool.and_eq_false_iff, decide_eq_false_iff_not] at h ⊢
  omega

include hx

theorem State.caAct_map_quiet : Quiet [pages ix ix] s (s.caAct r ix xs) := by
  rw [State.caAct_eq s r ix xs (not_output_of_map h)]
  refine Quiet.forEach (fun x hm u => ?_) (Quiet.refl s)
  obtain ⟨hlt, he⟩ := hx x hm
  rw [State.act_map u r ix x.2 h he]
  exact (Quiet.refl u).putMasked (in_pages (a := ix) (b := ix) (by simp) (by omega) (by omega) (by omega))

/-- Each entry takes its value in its own turn, and keeps it in the turns of the others. -/
theorem State.reg_caAct_map (hn : (xs.map Prod.fst).Nodup) (hv : ∀ x ∈ xs, leNat x.2 < 256 ^ mapEntryBytes x.1) :
    ∀ x ∈ xs, (s.caAct r ix xs).reg (key ix x.1) = leNat x.2 := by
  intro x hm
  rw [State.caAct_eq s r ix xs (not_output_of_map h)]
  refine forEach_at (p := fun _ => True) (q := fun u : State => u.reg (key ix x.1) = leNat x.2) hm hn.of_map trivial
    (fun _ _ _ _ _ => trivial) (fun u _ => ?_) (fun y hy hxy u hu => ?_)
  · obtain ⟨hlt, he⟩ := hx x hm
    rw [State.act_map u r ix x.2 h he]
    exact State.reg_putMasked_all u (widthOf_key he rfl hlt) (mapEntryBytes_le _) (hv x hm)
  · have hne : x.1 ≠ y.1 := fun e => hxy (List.inj_on_of_nodup_map hn hy hm e.symm)
    rw [State.act_map u r ix y.2 h (hx y hy).2, State.putMasked, State.reg_setReg_other _ _ (by unfold key; omega)]
    exact hu

end Mapping

/-- A complete access to a mapping object stores its values, and nothing else. -/
theorem State.caAct_map (h : within ix 0x1600 0x1603 = true) :
    (∀ x ∈ caSplit ix (subsFrom ix sub) data,
      (s.caAct r ix (caSplit ix (subsFrom ix sub) data)).reg (key ix x.1) = leNat x.2)
    ∧ Quiet [pages ix ix] s (s.caAct r ix (caSplit ix (subsFrom ix sub) data)) := by
  have hi : ∀ i ∈ subsFrom ix sub, i < 256 ∧ entryOf ix i = some (eRW (mapEntryBytes i)) := fun i hi =>
    ⟨(mem_subsFrom ix sub hi).1, entryOf_map ix h (mem_subsFrom ix sub hi).2⟩
  have hx : ∀ x ∈ caSplit ix (subsFrom ix sub) data, x.1 < 256 ∧ entryOf ix x.1 = some (eRW (mapEntryBytes x.1)) := fun x hm =>
    hi x.1 (caSplit_subs ix (subsFrom ix sub) data ▸ List.mem_map_of_mem hm)
  have hn : ((caSplit ix (subsFrom ix sub) data).map Prod.fst).Nodup := by
    rw [caSplit_subs]
    exact subsFrom_nodup ix sub
  exact ⟨State.reg_caAct_map s r h hx hn (caSplit_fits ix _ data (fun i hm => (hi i hm).2)), State.caAct_map_quiet s r h hx⟩

/-! Reads that clear (00 R16). -/

/-- The read of an entry that clears leaves it 0; beside that only the mark of external memory's use and the count of free
values may differ. -/
theorem State.readNum_clears {e : Entry} (he : entryOf ix sub = some e) (h : e.acc = .rc) :
    ∃ b n, (s.readNum ix sub e).2 = { s.setReg (key ix sub) 0 with extOpen := b, freeCount := n } := by
  have h1 : ¬(ix = 0x2801 ∧ sub = 7) := by
    rintro ⟨rfl, rfl⟩
    cases he
    cases h
  unfold State.readNum
  rw [if_neg h1]
  split_ifs with h2
  · obtain ⟨rfl, rfl, -⟩ := h2
    exact ⟨_, _, rfl⟩
  · exact ⟨_, _, rfl⟩

theorem State.readEntry_num {e : Entry} {n : Nat} (hr : s.recoveryRefuses ix = false) (hg : hasIndex s.grade ix = true)
    (he : entryOf ix sub = some e) (ha : e.acc ≠ .wo) (ht : e.type = .num n) :
    s.readEntry ix sub = .ok (leBytes n (s.readNum ix sub e).1, (s.readNum ix sub e).2) := by
  unfold State.readEntry
  rw [hr, hg, if_neg Bool.false_ne_true, if_neg (by simp)]
  simp only [he, if_neg ha, ht]

theorem exec_rcRead {s w : State} {r : Route} {dt : Nat} (hw : w = s.wait dt) {ix : BitVec 16} {sub : BitVec 8}
    {x : Bytes × State} (hm : w.mute r = false) (hx : w.readEntry ix.toNat sub.toNat = .ok x) :
    exec (.rcRead dt r ix sub) s = .next (w.routed r x.2) := by
  subst hw
  have hn : ¬(r = .ethercat ∧ (s.wait dt).ec.al = 1) := by
    rintro ⟨rfl, ha⟩
    simp [State.mute, ha] at hm
  show Host.Outcome.next ((s.wait dt).routed r (if r = .ethercat ∧ (s.wait dt).ec.al = 1 then _ else _)) = _
  rw [if_neg hn, hx]

/-! Holdoff timers (20 R493). -/

theorem tfind_tput_same {α : Type} (t : List (Nat × α)) (k : Nat) (v : α) : tfind (tput t k v) k = some v := by
  induction t with
  | nil => simp [tput, tfind]
  | cons x t ih =>
    obtain ⟨j, a⟩ := x
    unfold tput
    split_ifs with h1 h2
    · simp [tfind]
    · simp [tfind]
    · rw [tfind, if_neg h2, ih]

theorem tfind_terase_same {α : Type} (t : List (Nat × α)) (k : Nat) : tfind (terase t k) k = none := by
  induction t with
  | nil => rfl
  | cons x t ih =>
    obtain ⟨j, a⟩ := x
    unfold terase at ih ⊢
    rw [List.filter_cons]
    split_ifs with h
    · rw [tfind, if_neg (by rintro rfl; simp at h), ih]
    · exact ih

/-- A record that goes to the host port enters the event queue, with room in both queues; nothing is dropped. -/
theorem State.enqueue_room (x : EvRec) (h1 : s.events.length < 256)
    (h2 : (s.emergencies.filter (fun e => e.type != 0)).length < 8) (hr : bit (s.routeOf x) 0 = true) :
    (s.enqueue x).2 = [] ∧ (s.enqueue x).1.events = insertRec s.events (s.stampRec x)
      ∧ (s.enqueue x).1.holdoffs = s.holdoffs ∧ ∀ k, (s.enqueue x).1.reg k = s.reg k := by
  unfold State.enqueue
  simp only [hr, h1, if_true]
  split_ifs
  · exact ⟨rfl, rfl, rfl, fun _ => rfl⟩
  · exact ⟨rfl, rfl, rfl, fun _ => rfl⟩

/-- A timer with nothing folded stops. -/
theorem State.holdoffEnds_idle (k : Nat) (h : Holdoff) (h0 : h.folded = 0) :
    s.holdoffEnds k h = ({ s with holdoffs := terase s.holdoffs k }, []) := by
  unfold State.holdoffEnds
  exact if_pos h0

/-- The timers that are left when one with increments folded runs out: it is loaded again in its expiry cycle. -/
def State.reloaded (s : State) (k : Nat) (h : Holdoff) : List (Nat × Holdoff) :=
  let due := h.due + 1 + micros (s.reg (key 0x29F0 4))
  if due < s.sclk then terase s.holdoffs k else tput (terase s.holdoffs k) k { due := due }

theorem State.holdoffEnds_folded (k : Nat) (h : Holdoff) (h0 : h.folded ≠ 0) :
    s.holdoffEnds k h = ({ s with holdoffs := s.reloaded k h }).enqueue (countRec k (min 65535 h.folded) h.data h.lpos) := by
  unfold State.holdoffEnds
  exact if_neg h0

theorem State.tfind_reloaded (k : Nat) (h : Holdoff) :
    tfind (s.reloaded k h) k = (let due := h.due + 1 + micros (s.reg (key 0x29F0 4))
      if due < s.sclk then none else some { due := due }) := by
  unfold State.reloaded
  simp only []
  split_ifs
  · exact tfind_terase_same _ _
  · exact tfind_tput_same _ _ _

/-- What a holdoff timer that has run out leaves, with the drops that it causes counted. -/
def State.holdoffExpires (s : State) (k : Nat) (h : Holdoff) : State :=
  (s.holdoffEnds k h).2.foldl (fun t d => State.countFuel 3 t d 0 none) (s.holdoffEnds k h).1

theorem exec_holdoffExpiry {s w : State} {dt k : Nat} {h : Holdoff} (hw : w = s.wait dt) (hu : w.up = true)
    (hk : w.holdoff k = some h) (hd : h.due < w.sclk) :
    exec (.holdoffExpiry dt k) s = .next (w.sealed (w.holdoffExpires k h)) := by
  subst hw
  show Host.Outcome.next (s.during dt _) = _
  rw [State.during_up s dt _ hu]
  simp only [hk, hd, if_true]
  rfl

theorem State.holdoffExpires_reports (k : Nat) (h : Holdoff) : Reports s (s.holdoffExpires k h) := by
  refine (State.holdoffEnds_reports s k h).trans ?_
  refine Reports.foldl _ _ (fun d => d = key 0x2904 5 ∨ d = key 0x2904 6) ?_ _ (State.holdoffEnds_drops s k h)
  exact fun u d hd => (State.addReg_reports u d hd).trans (State.countFuel_reports u 3 d 0 none)

end Sys2Proof.Machine
end

section
/-! The accesses of the dictionary, settled clause by clause. -/
namespace Sys2Proof.Machine

variable {s w : State} {r : Route} {dt : Nat} {ix : BitVec 16} {sub : BitVec 8} {data : Bytes}

/-- A write of 2600h.01h to 40h gives the queue its number and its flags. -/
theorem write2600_leads (hw : w = s.wait dt) (h1 : 1 ≤ sub.toNat) (h2 : sub.toNat ≤ 0x40)
    (ha : Accepts w r 0x2600 sub.toNat data) : Leads (.dictionaryWrite dt r 0x2600 sub false data) s (fun t =>
      bits (t.reg (key 0x2600 sub.toNat)) 3 0 = bits (leNat data) 3 0
      ∧ bits (t.reg (key 0x2600 sub.toNat)) 7 5 = bits (leNat data) 7 5
      ∧ OnlyRegs [at1 (key 0x2600 sub.toNat)] w t ∧ SameMem w t) := by
  have he : entryOf 0x2600 sub.toNat = some (eRW 4 0 0xEF) := by
    show od2600 sub.toNat = _
    unfold od2600
    rw [if_neg (by omega), if_pos (within_of ⟨h1, h2⟩)]
  have hk : widthOf (key 0x2600 sub.toNat) = 32 := widthOf_key he rfl sub.isLt
  obtain ⟨e0, e, f, hx⟩ := exec_accepted (ix := 0x2600) hw ha
  have hact : ((w.withEc e0).act r 0x2600 sub.toNat data).s =
      (w.withEc e0).putMasked (key 0x2600 sub.toNat) 0xEF (leNat data) := by
    rw [State.act_num _ r _ _ data he (by simp [eRW]) (by simp [eRW]) (by decide)]
    rfl
  rw [show (0x2600 : BitVec 16).toNat = 0x2600 from rfl, hact] at hx
  refine leads_of hx ⟨?_, ?_, Quiet.keepOuter ((Quiet.refl _).putMasked (covers_at1 (by simp)))⟩
  · exact State.field_putMasked _ (by omega) (by omega) (by decide)
  · exact State.field_putMasked _ (by omega) (by omega) (by decide)

theorem clearByOnes_leads {e : Entry} (hw : w = s.wait dt) (hix : ix.toNat ≠ 0x2410)
    (hc : within ix.toNat 0x2400 0x2405 = false) (he : entryOf ix.toNat sub.toNat = some e) (hacc : e.acc = .w1c)
    (ha : Accepts w r ix.toNat sub.toNat data) : Leads (.dictionaryWrite dt r ix sub false data) s (fun t =>
      let k := key ix.toNat sub.toNat
      (∀ i, i < widthOf k → t.bit' k i = (w.bit' k i && !(bit (leNat data) i && bit e.mask i)))
      ∧ OnlyRegs [at1 k] w t ∧ SameMem w t) := by
  obtain ⟨b, hb, ht⟩ := entryOf_w1c he hacc
  have hk := widthOf_key he ht sub.isLt
  obtain ⟨e0, e', f, hx⟩ := exec_accepted hw ha
  rw [State.act_w1c _ r _ _ data he hacc] at hx
  have hq : Quiet [at1 (key ix.toNat sub.toNat)] (w.withEc e0)
      ((w.withEc e0).clearBits ix.toNat sub.toNat e.mask (leNat data)) := by
    rw [State.clearBits_eq _ _ _ _ _ hix hc]
    exact (Quiet.refl _).setReg (covers_at1 (by simp))
  exact leads_of hx ⟨fun i hi => State.bit_clearBits (w.withEc e0) _ _ _ _ hix hc hi (by omega), hq.keepOuter⟩

theorem refusedWrite_leads {c : Nat} (hw : w = s.wait dt) (hs : w.served r = true) (hm : w.mute r = false)
    (hl : ¬(r = .hostPort ∧ w.loses ix.toNat sub.toNat data = true))
    (hc : (w.arrive r ix.toNat sub.toNat data).check r ix.toNat sub.toNat data = some c) :
    Leads (.dictionaryWrite dt r ix sub false data) s (fun t =>
      RefusedWith w t r ⟨c, ix.toNat, sub.toNat⟩ (cmdByte ix.toNat sub.toNat)) := by
  obtain ⟨e, he⟩ := State.arrive_ec w r ix.toNat sub.toNat data
  have hx := exec_dictionaryWrite hw hm ix sub false data
  rw [State.writeAny, if_neg Bool.false_ne_true, State.write_refused w r _ _ data hm hl hc, he] at hx
  exact leads_of hx (refusedWith_of_refuse w r hs e _ _)

theorem losingWrite_leads (hw : w = s.wait dt) (hs : w.served .hostPort = true)
    (hl : w.loses ix.toNat sub.toNat data = true) :
    Leads (.dictionaryWrite dt .hostPort ix sub false data) s (fun t =>
      RefusedWith w t .hostPort ⟨0x080000A1, ix.toNat, sub.toNat⟩ (cmdByte ix.toNat sub.toNat)) := by
  have hx := exec_dictionaryWrite (r := .hostPort) hw rfl ix sub false data
  rw [State.writeAny, if_neg Bool.false_ne_true, State.write_loses w _ _ data hl] at hx
  exact leads_of hx (refusedWith_of_refuse w .hostPort hs w.ec _ _)

theorem completeWrite_leads (hw : w = s.wait dt) (hs : w.served r = true) (hm : w.mute r = false)
    (hl : ¬(r = .hostPort ∧ w.loses ix.toNat sub.toNat data = true)) :
    Leads (.dictionaryWrite dt r ix sub true data) s (fun t =>
      match (w.arrive r ix.toNat sub.toNat data).caBad r ix.toNat sub.toNat data with
      | some x => RefusedWith w t r ⟨x.2, ix.toNat, x.1⟩ 0
      | none => within ix.toNat 0x1600 0x1603 = true →
          (∀ x ∈ caSplit ix.toNat (subsFrom ix.toNat sub.toNat) data, t.reg (key ix.toNat x.1) = leNat x.2)
          ∧ OnlyRegs [pages ix.toNat ix.toNat] w t ∧ SameMem w t) := by
  obtain ⟨e, he⟩ := State.arrive_ec w r ix.toNat sub.toNat data
  have hx := exec_dictionaryWrite hw hm ix sub true data
  rw [State.writeAny, if_pos rfl] at hx
  refine leads_of hx ?_
  cases hc : (w.arrive r ix.toNat sub.toNat data).caBad r ix.toNat sub.toNat data with
  | some x =>
    rw [State.writeComplete_refused w r _ _ data hm hl hc, he]
    exact refusedWith_of_refuse w r hs e _ _
  | none =>
    intro h
    rw [State.writeComplete_accepted w r _ _ data hm hl hc, he]
    obtain ⟨hreg, hq⟩ := State.caAct_map (w.withEc e) r ix.toNat sub.toNat data h
    obtain ⟨e', f, hu⟩ := State.routed_reply w r hs
      { s := (w.withEc e).caAct r ix.toNat (caSplit ix.toNat (subsFrom ix.toNat sub.toNat) data) }
    rw [hu]
    exact ⟨hreg, hq.keepOuter⟩

theorem clearingRead_leads {e : Entry} {n : Nat} (hw : w = s.wait dt) (hs : w.served r = true) (hm : w.mute r = false)
    (hr : w.recoveryRefuses ix.toNat = false) (hg : hasIndex w.grade ix.toNat = true)
    (he : entryOf ix.toNat sub.toNat = some e) (hacc : e.acc = .rc) (ht : e.type = .num n) :
    Leads (.rcRead dt r ix sub) s (fun t =>
      t.reg (key ix.toNat sub.toNat) = 0 ∧ OnlyRegs [at1 (key ix.toNat sub.toNat)] w t ∧ SameMem w t) := by
  have hx := exec_rcRead hw hm (State.readEntry_num w _ _ hr hg he (by rw [hacc]; decide) ht)
  obtain ⟨b, c, hu⟩ := State.readNum_clears w _ _ he hacc
  rw [State.routed_served w _ r hs, hu] at hx
  have hq : Quiet [at1 (key ix.toNat sub.toNat)] w (w.setReg (key ix.toNat sub.toNat) 0) :=
    (Quiet.refl w).setReg (covers_at1 (by simp))
  exact leads_of hx ⟨(State.reg_setReg_same w _ 0).trans (Nat.zero_mod _), hq.regs, hq.mem⟩

theorem holdoffExpiry_leads {k : Nat} {h : Holdoff} (hw : w = s.wait dt) (hu : w.up = true) (hk : w.holdoff k = some h)
    (hd : h.due < w.sclk) : Leads (.holdoffExpiry dt k) s (fun t =>
      (h.folded = 0 → t.holdoff k = none ∧ t.events = w.events ∧ OnlyRegs [] w t)
      ∧ (h.folded ≠ 0 → w.events.length < 256 → (w.emergencies.filter (fun e => e.type != 0)).length < 8 →
          bit (w.routeOf (countRec k (min 65535 h.folded) h.data h.lpos)) 0 = true →
          (∃ r, t.events = insertRec w.events r ∧ r.type = 1 ∧ r.what = k * 256 ∧ r.rep = min 65535 h.folded ∧ r.data = h.data)
          ∧ t.holdoff k = (let due := h.due + 1 + micros (w.reg (key 0x29F0 4))
              if due < w.sclk then none else some { due := due }) ∧ OnlyRegs [] w t)
      ∧ OnlyRegs [at1 (key 0x2904 5), at1 (key 0x2904 6)] w t ∧ SameMem w t) := by
  refine leads_of (exec_holdoffExpiry hw hu hk hd) ⟨fun h0 => ?_, fun h0 h1 h2 hr => ?_, ?_⟩
  · rw [State.holdoffExpires, State.holdoffEnds_idle w k h h0]
    exact ⟨tfind_terase_same _ _, rfl, fun _ _ => rfl⟩
  · obtain ⟨hno, hev, hho, hreg⟩ := State.enqueue_room { w with holdoffs := w.reloaded k h }
      (countRec k (min 65535 h.folded) h.data h.lpos) h1 h2 hr
    rw [State.holdoffExpires, State.holdoffEnds_folded w k h h0, hno]
    refine ⟨⟨_, hev, rfl, rfl, rfl, rfl⟩, ?_, fun j _ => hreg j⟩
    exact (congrArg (tfind · k) hho).trans (State.tfind_reloaded w k h)
  · exact ((State.holdoffExpires_reports w k h).quiet (covers_at1 (by simp)) (covers_at1 (by simp))).sealed

/-- Settles O38: each clause by the lemma about its access. -/
theorem dictionaryAccessesAct : Obligations.DictionaryAccessesAct :=
  ⟨fun _ _ _ _ ix sub ca data hw hm => leads_of (exec_dictionaryWrite hw hm ix sub ca data) rfl,
   fun _ _ _ _ _ _ hw h1 h2 _ ha => write2600_leads hw h1 h2 ha,
   fun _ _ _ _ _ _ _ _ hw hix hc he hacc ha => clearByOnes_leads hw hix hc he hacc ha,
   fun _ _ _ _ _ _ _ _ hw hs hm hl hc => refusedWrite_leads hw hs hm hl hc,
   fun _ _ _ _ _ _ hw hs hl => losingWrite_leads hw hs hl,
   fun _ _ _ _ _ _ _ hw hs hm hl => completeWrite_leads hw hs hm hl,
   fun _ _ _ _ _ _ _ _ hw hs hm hr hg he hacc ht => clearingRead_leads hw hs hm hr hg he hacc ht,
   fun _ _ _ _ _ hw hu hk hd => holdoffExpiry_leads hw hu hk hd⟩

end Sys2Proof.Machine
end

section
/-! SUPPORT. Line time (02): keys and widths of the registers of its units, and what an operation that counts, reports or raises
events leaves of what waits and of the units. -/
namespace Sys2Proof.Machine

set_option Elab.async false

/-! Keys. -/

theorem key_ne_sub {i j a b : Nat} (h : a ≠ b) (ha : a < 256 := by decide) (hb : b < 256 := by decide) : key i a ≠ key j b := by
  unfold key
  omega

theorem key_ne_index {i j a b : Nat} (h : i ≠ j) (ha : a < 256 := by decide) (hb : b < 256 := by decide) :
    key i a ≠ key j b := by
  unfold key
  omega

theorem kEnc_ne_sub {e a b : Nat} (h : a ≠ b) (ha : a < 256 := by decide) (hb : b < 256 := by decide) : kEnc e a ≠ kEnc e b :=
  key_ne_sub h ha hb

theorem kCmp_ne_sub {n a b : Nat} (h : a ≠ b) (ha : a < 256 := by decide) (hb : b < 256 := by decide) : kCmp n a ≠ kCmp n b :=
  key_ne_sub h ha hb

/-! Ranges. -/

theorem covers_map_at1 (n : Nat) (f : Nat → Nat) (k : Nat) :
    covers ((upTo n).map (fun j => at1 (f j))) k = false ↔ ∀ j < n, k ≠ f j := by
  have h : covers ((upTo n).map (fun j => at1 (f j))) k = true ↔ ∃ j < n, k = f j := by
    simp only [covers, List.any_map, List.any_eq_true, upTo, List.mem_range, Function.comp, at1, Bool.and_eq_true,
      decide_eq_true_eq, Nat.le_antisymm_iff, and_comm]
  rw [← Bool.not_eq_true, h]
  push Not
  rfl

/-! Entries and widths (Tables 2-2, 2-4, 2-9, 2-11, 2-13). -/

theorem entryOf_encoder {e : Nat} (h : e < 4) (sub : Nat) : entryOf (0x2100 + e) sub = odEncoder sub := by
  interval_cases e <;> rfl

theorem entryOf_domain {d : Nat} (h : d < 4) (sub : Nat) : entryOf (0x2108 + d) sub = odDomain d sub := by
  interval_cases d <;> rfl

theorem entryOf_compare {n : Nat} (h : n < 32) (sub : Nat) : entryOf (0x2120 + n) sub = odCompare sub := by
  interval_cases n <;> rfl

theorem entryOf_window {x : Nat} (h : x < 64) (sub : Nat) : entryOf (0x2140 + x) sub = odWindow sub := by
  interval_cases x <;> rfl

theorem entryOf_trigger {p : Nat} (h : p < 36) (sub : Nat) : entryOf (0x2190 + p) sub = odTrigger sub := by
  interval_cases p <;> rfl

theorem entryOf_job {j : Nat} (h : j < 64) (sub : Nat) : entryOf (0x2510 + j) sub = odJob sub := by
  interval_cases j <;> rfl

/-- The bits of an entry: 0 for what is no number. -/
def entryBits (x : Option Entry) : Nat := match x with
  | some ⟨.num b, _, _, _⟩ => 8 * b
  | _ => 0

theorem widthOf_entry {ix sub : Nat} (h : sub < 256) : widthOf (key ix sub) = entryBits (entryOf ix sub) := by
  unfold widthOf key
  rw [show (ix * 256 + sub) / 256 = ix by omega, show (ix * 256 + sub) % 256 = sub by omega]
  rfl

theorem widthOf_encoder {e sub : Nat} (h : e < 4) (hs : sub < 256) : widthOf (kEnc e sub) = entryBits (odEncoder sub) := by
  rw [kEnc, widthOf_entry hs, entryOf_encoder h]

theorem widthOf_domain {d sub : Nat} (h : d < 4) (hs : sub < 256) :
    widthOf (key (0x2108 + d) sub) = entryBits (odDomain d sub) := by
  rw [widthOf_entry hs, entryOf_domain h]

theorem widthOf_compare {n sub : Nat} (h : n < 32) (hs : sub < 256) : widthOf (kCmp n sub) = entryBits (odCompare sub) := by
  rw [kCmp, widthOf_entry hs, entryOf_compare h]

theorem widthOf_window {x sub : Nat} (h : x < 64) (hs : sub < 256) :
    widthOf (key (0x2140 + x) sub) = entryBits (odWindow sub) := by
  rw [widthOf_entry hs, entryOf_window h]

theorem widthOf_trigger {p sub : Nat} (h : p < 36) (hs : sub < 256) : widthOf (kTrig p sub) = entryBits (odTrigger sub) := by
  rw [kTrig, widthOf_entry hs, entryOf_trigger h]

theorem widthOf_job {j sub : Nat} (h : j < 64) (hs : sub < 256) : widthOf (key (0x2510 + j) sub) = entryBits (odJob sub) := by
  rw [widthOf_entry hs, entryOf_job h]

theorem satAdd_lt (w a b : Nat) : satAdd w a b < 2 ^ w := by
  have := Nat.two_pow_pos w
  unfold satAdd
  split_ifs <;> omega

/-! What counting and reporting leave. -/

/-- The state without its registers and without what raising records can change. -/
def State.unreported (s : State) : State :=
  { s with regs := [], holdoffs := [], events := [], emergencies := [], evOverflow := false }

section Reports
variable {s t : State} {γ : Type}

/-- What raising records leaves alone. -/
theorem Reports.keeps (g : State → γ) (hg : ∀ u : State, g u = g u.unreported) (h : Reports s t) : g t = g s := by
  rw [hg t, hg s]
  have hr := congrArg State.unreported h.rest
  exact congrArg g hr

variable (s) (ix sub dat : Nat) (l : Option (Nat × Nat))

/-- What counting leaves alone. -/
theorem State.count_keeps (g : State → γ) (hg : ∀ u : State, g u = g u.unreported) : g (s.count ix sub dat l) = g s :=
  ((State.count_reports s ix sub dat l).keeps g hg).trans ((hg _).trans (hg s).symm)

/-- A counter of 32 bits rises by 1, saturating. -/
theorem State.reg_count_same (hw : widthOf (key ix sub) = 32 := by rfl) (h5 : key ix sub ≠ key 0x2904 5 := by decide)
    (h6 : key ix sub ≠ key 0x2904 6 := by decide) : (s.count ix sub dat l).reg (key ix sub) = satAdd 32 (s.reg (key ix sub)) 1 := by
  rw [State.reg_count_self s ix sub dat l h5 h6, hw, Nat.mod_eq_of_lt (satAdd_lt _ _ _)]

/-- Counting reaches no register below the counters. -/
theorem State.reg_count_below {k : Nat} (hi : 0x2900 ≤ ix) (hk : k < key 0x2900 0) : (s.count ix sub dat l).reg k = s.reg k := by
  unfold key at hk
  exact State.reg_count_other s ix sub dat l k (by unfold key; omega) (by unfold key; omega) (by unfold key; omega)

theorem State.bit_count_below {k i : Nat} (hi : 0x2900 ≤ ix) (hk : k < key 0x2900 0) : (s.count ix sub dat l).bit' k i = s.bit' k i :=
  bit_of_reg (State.reg_count_below s ix sub dat l hi hk) i

@[simp] theorem State.later_count : (s.count ix sub dat l).later = s.later := State.count_keeps s ix sub dat l (·.later) (fun _ => rfl)
@[simp] theorem State.time_count : (s.count ix sub dat l).time = s.time := State.count_keeps s ix sub dat l (·.time) (fun _ => rfl)
@[simp] theorem State.later_report (x : EvRec) : (s.report x).later = s.later := (State.report_reports s x).keeps (·.later) (fun _ => rfl)

end Reports
/-! What registering an event leaves. -/

section Raise
variable (s : State) (x c j : Nat) (l : Bool)

/-- An event waits, and all else is left alone. -/
theorem State.raiseAt_keeps {γ : Type} (g : State → γ) (hg : ∀ (u : State) ls, g { u with later := ls } = g u) :
    g (s.raiseAt x c l) = g s := by
  unfold State.raiseAt
  split_ifs
  · rfl
  · exact hg s _

theorem State.raise_raised (hc : s.sclk = c) (hx : x ≠ 0x3FF) : (s.raise x).Raised x c :=
  hc ▸ State.raiseAt_raised s x s.sclk false hx

@[simp] theorem State.reg_raiseAt : (s.raiseAt x c l).reg j = s.reg j := State.raiseAt_keeps s x c l (·.reg j) (fun _ _ => rfl)
@[simp] theorem State.time_raiseAt : (s.raiseAt x c l).time = s.time := State.raiseAt_keeps s x c l (·.time) (fun _ _ => rfl)
@[simp] theorem State.domain_raiseAt : (s.raiseAt x c l).domain j = s.domain j :=
  State.raiseAt_keeps s x c l (·.domain j) (fun _ _ => rfl)
@[simp] theorem State.enc_raiseAt : (s.raiseAt x c l).enc j = s.enc j := State.raiseAt_keeps s x c l (·.enc j) (fun _ _ => rfl)
@[simp] theorem State.trig_raiseAt : (s.raiseAt x c l).trig j = s.trig j := State.raiseAt_keeps s x c l (·.trig j) (fun _ _ => rfl)
@[simp] theorem State.timer_raiseAt : (s.raiseAt x c l).timer j = s.timer j := State.raiseAt_keeps s x c l (·.timer j) (fun _ _ => rfl)
@[simp] theorem State.win_raiseAt : (s.raiseAt x c l).win j = s.win j := State.raiseAt_keeps s x c l (·.win j) (fun _ _ => rfl)
@[simp] theorem State.port_raiseAt : (s.raiseAt x c l).port j = s.port j := State.raiseAt_keeps s x c l (·.port j) (fun _ _ => rfl)

end Raise

end Sys2Proof.Machine
end

section
/-! SUPPORT. Counts of the line domains (02 R40 to R46): what a count applied to a domain moves, and what it leaves of the other
domains, of memory and of what waits. -/
namespace Sys2Proof.Machine

set_option Elab.async false

/-! Changes that drop no effect and pass no time. -/

/-- `t` follows from `s` in the same instant: its registers differ within the ranges only, and no waiting effect is dropped. -/
structure Moves (rs : Spans) (s t : State) : Prop where
  quiet : Quiet rs s t
  keeps : KeepsLater s t
  time : t.time = s.time

section Moves
variable {rs : Spans} {s t u : State}

theorem Moves.refl (s : State) : Moves rs s s := ⟨Quiet.refl s, KeepsLater.refl s, rfl⟩

theorem Moves.trans (a : Moves rs s t) (b : Moves rs t u) : Moves rs s u :=
  ⟨a.quiet.trans b.quiet, a.keeps.trans b.keeps, b.time.trans a.time⟩

theorem Moves.mono {rs' : Spans} (h : Moves rs s t) (hs : ∀ k, covers rs' k = false → covers rs k = false) : Moves rs' s t :=
  ⟨h.quiet.mono hs, h.keeps, h.time⟩

theorem Moves.sub {rs' : Spans} (h : Moves rs s t) (hs : rs ⊆ rs') : Moves rs' s t := ⟨h.quiet.sub hs, h.keeps, h.time⟩

theorem Moves.sclk (h : Moves rs s t) : t.sclk = s.sclk := congrArg (· / 12) h.time

theorem Moves.reg {k : Nat} (h : Moves rs s t) (hk : covers rs k = false) : t.reg k = s.reg k := h.quiet.regs k hk

theorem Moves.setReg {k v : Nat} (h : Moves rs s t) (hk : covers rs k = true) : Moves rs s (t.setReg k v) :=
  ⟨h.quiet.setReg hk, h.keeps, h.time⟩

theorem Moves.setBit {k i : Nat} {b : Bool} (h : Moves rs s t) (hk : covers rs k = true) : Moves rs s (t.setBit k i b) :=
  h.setReg hk

theorem Moves.addReg {k n : Nat} (h : Moves rs s t) (hk : covers rs k = true) : Moves rs s (t.addReg k n) := h.setReg hk

theorem Moves.setEnc {i : Nat} {x : EncUnit} (h : Moves rs s t) : Moves rs s (t.setEnc i x) := ⟨h.quiet.setEnc, h.keeps, h.time⟩

theorem Moves.setDomain {i : Nat} {x : DomUnit} (h : Moves rs s t) : Moves rs s (t.setDomain i x) :=
  ⟨h.quiet.setDomain, h.keeps, h.time⟩

theorem Moves.closes {c n : Nat} {a : Effect} (h : Moves rs s t) : Moves rs s (t.closes c n a) :=
  ⟨h.quiet.closes, h.keeps.trans (State.keeps_closes t c n a), h.time⟩

theorem Moves.raiseAt {x c : Nat} {l : Bool} (h : Moves rs s t) : Moves rs s (t.raiseAt x c l) := by
  unfold State.raiseAt
  split_ifs
  · exact h
  · exact h.closes

theorem Moves.raise {x : Nat} (h : Moves rs s t) : Moves rs s (t.raise x) := h.raiseAt

theorem Moves.count {i x d : Nat} {l : Option (Nat × Nat)} (h : Moves rs s t) (hc : counterSpan ∈ rs) (h1 : 0x2900 ≤ i)
    (h2 : i ≤ 0x2904) (hx : x ≤ 255) : Moves rs s (t.count i x d l) :=
  ⟨h.quiet.count hc h1 h2 hx, h.keeps.trans (KeepsLater.of_eq (State.later_count t i x d l)), (State.time_count t i x d l).trans h.time⟩

theorem Moves.ite {c : Prop} [Decidable c] {a b : State} (ha : Moves rs s a) (hb : Moves rs s b) :
    Moves rs s (if c then a else b) := by split <;> assumption

theorem Moves.forEach {β : Type} {f : β → State → State} {xs : List β} (hf : ∀ x ∈ xs, ∀ u, Moves rs u (f x u))
    (h : Moves rs s t) : Moves rs s (forEach xs t f) := by
  unfold Machine.forEach
  induction xs generalizing t with
  | nil => exact h
  | cons x xs ih => exact ih (fun y hy => hf y (List.mem_cons_of_mem _ hy)) (h.trans (hf x List.mem_cons_self t))

end Moves

/-! Speed (R46). -/

/-- The count period, the rate and the flags of a domain. -/
def speedSpans (d : Nat) : Spans := [at1 (key (0x2108 + d) 7), at1 (key (0x2108 + d) 8), at1 (key (0x2108 + d) 0x0A)]

section Speed
variable (s : State) (d c : Nat)

theorem State.stalls_moves : Moves (speedSpans d) s (s.stalls d) := by
  unfold State.stalls
  refine Moves.raise (((Moves.setDomain (Moves.refl s)).setBit ?_).setReg ?_ |>.setReg ?_) <;>
    exact covers_at1 (by simp [speedSpans])

theorem State.speedOf_moves : Moves (speedSpans d) s (s.speedOf d c) := by
  unfold State.speedOf
  refine ((Moves.setDomain (Moves.refl s)).setReg ?_).setReg ?_ |>.setBit ?_ <;> exact covers_at1 (by simp [speedSpans])

theorem State.measure_moves : Moves (speedSpans d) s (s.measure d c) := by
  unfold State.measure
  split_ifs
  · exact (State.stalls_moves s d).trans (State.speedOf_moves _ d c)
  · exact State.speedOf_moves s d c

/-- A count is measured, and its direction shown. -/
def State.measured (rev : Bool) : State := (s.measure d c).setBit (key (0x2108 + d) 0x0A) 1 rev

theorem State.measured_moves (rev : Bool) : Moves (speedSpans d) s (s.measured d c rev) :=
  (State.measure_moves s d c).setBit (covers_at1 (by simp [speedSpans]))

theorem State.domain_stalls : (s.stalls d).domain d = { s.domain d with stallDue := none } := by
  unfold State.stalls State.raise
  rw [State.domain_raiseAt]
  exact State.domain_setDomain_same s d _

theorem State.genCounts_speedOf : ((s.speedOf d c).domain d).genCounts = (s.domain d).genCounts := by
  show ((s.setDomain d { s.domain d with intervals := _, lastAt := _, stallDue := _ }).domain d).genCounts = _
  rw [State.domain_setDomain_same]

/-- The measurement leaves the generator's counts alone. -/
theorem State.genCounts_measured (rev : Bool) : ((s.measured d c rev).domain d).genCounts = (s.domain d).genCounts := by
  show ((s.measure d c).domain d).genCounts = _
  unfold State.measure
  split_ifs
  · rw [State.genCounts_speedOf, State.domain_stalls]
  · exact State.genCounts_speedOf s d c

end Speed

/-! A count applied (R41, R42). -/

section Feed
variable (s : State) (d c : Nat)

/-- A count applied to domain `d`, with what its advance is to reach. -/
def State.feed (rev : Bool) : State :=
  let y := s.applyCount d c rev
  if y.2 then y.1.closes (c + 1) (1 + d) (.reach d) else y.1

/-- A reverse count is tallied, and added to the reversals of the open windows. -/
def State.reversed : State := ((s.measured d c true).closes c 0 (.tally (key (0x2108 + d) 6))).countReversals d

/-- HPOS goes from `h` to `l`. -/
def State.moveHpos (h l : Nat) : State :=
  (s.setDomain d { s.domain d with advances := ((c, h) :: (s.domain d).advances).take 4 }).setReg (key (0x2108 + d) 0x0B) l

/-- LPOS goes to `l`, with WRAP at 0 (R45). -/
def State.moveLpos (l : Nat) : State :=
  if l = 0 then (s.setReg (key (0x2108 + d) 2) l).setBit (key (0x2108 + d) 0x0A) 3 true else s.setReg (key (0x2108 + d) 2) l

/-- LPOS follows the reverse counts in TRACK. -/
theorem State.feed_track_rev (h : s.bit' (key (0x2108 + d) 1) 6 = true) : s.feed d c true =
    (s.reversed d c).setReg (key (0x2108 + d) 2) (posAdd ((s.reversed d c).reg (key (0x2108 + d) 2)) (-1)) := by
  simp only [State.feed, State.applyCount, h, if_true]
  rfl

theorem State.feed_hold_rev (h : s.bit' (key (0x2108 + d) 1) 6 = false) : s.feed d c true =
    (if (s.reversed d c).reg (key (0x2108 + d) 5) = 0xFFFFFFFF then
        (s.reversed d c).count 0x2900 3 0 (some (d, (s.reversed d c).lpos d))
      else (s.reversed d c).addReg (key (0x2108 + d) 5) 1).setBit (key (0x2108 + d) 0x0A) 2 true := by
  simp only [State.feed, State.applyCount, h, if_true]
  rfl

theorem State.feed_debt (h : s.bit' (key (0x2108 + d) 1) 6 = false)
    (h5 : 0 < (s.measured d c false).reg (key (0x2108 + d) 5)) : s.feed d c false =
    (let u := (s.measured d c false).setReg (key (0x2108 + d) 5) ((s.measured d c false).reg (key (0x2108 + d) 5) - 1)
    u.setBit (key (0x2108 + d) 0x0A) 2 (decide (0 < u.reg (key (0x2108 + d) 5)))) := by
  unfold State.measured at h5 ⊢
  simp only [State.feed, State.applyCount, h, h5]
  rfl

theorem State.feed_advance (h : s.bit' (key (0x2108 + d) 1) 6 = true ∨ (s.measured d c false).reg (key (0x2108 + d) 5) = 0) :
    s.feed d c false = (let y := (s.measured d c false).advance d c (!s.bit' (key (0x2108 + d) 1) 6)
      if y.2 then y.1.closes (c + 1) (1 + d) (.reach d) else y.1) := by
  have hn : ¬((!s.bit' (key (0x2108 + d) 1) 6 && decide (0 < (s.measured d c false).reg (key (0x2108 + d) 5))) = true) := by
    rcases h with h | h <;> simp [h]
  unfold State.measured at hn ⊢
  simp only [State.feed, State.applyCount, Bool.false_eq_true, if_false, if_neg hn]

/-- HPOS goes with LPOS in HOLD, and in TRACK where LPOS passes it. -/
theorem State.advance_goes (hold : Bool)
    (h : (hold || !reached (s.hpos d) (posAdd (s.lpos d) 1)) = true) : s.advance d c hold =
    ((s.moveLpos d (posAdd (s.lpos d) 1)).moveHpos d c (s.hpos d) (posAdd (s.lpos d) 1), true) := by
  unfold State.advance
  exact if_pos h

theorem State.advance_stays (hold : Bool)
    (h : (hold || !reached (s.hpos d) (posAdd (s.lpos d) 1)) = false) : s.advance d c hold =
    (s.moveLpos d (posAdd (s.lpos d) 1), false) := by
  unfold State.advance
  exact if_neg (by simp only [State.hpos, State.lpos] at h; rw [h]; decide)

/-! What a count reads and moves. -/

variable {s d c}

theorem posAdd_lt (p : Nat) (i : Int) : posAdd p i < 2 ^ 48 := by
  have h0 : (0 : Int) ≤ (p + i) % ((2 ^ 48 : Nat) : Int) := Int.emod_nonneg _ (by norm_num)
  have h1 : ((p : Int) + i) % ((2 ^ 48 : Nat) : Int) < ((2 ^ 48 : Nat) : Int) := Int.emod_lt_of_pos _ (by norm_num)
  unfold posAdd wrap
  omega

theorem State.reg_measured {rev : Bool} {x : Nat} (hx : x < 7) :
    (s.measured d c rev).reg (key (0x2108 + d) x) = s.reg (key (0x2108 + d) x) :=
  (State.measured_moves s d c rev).reg (by simp only [speedSpans, covers_cons, covers_nil, and_true, at1, key]; omega)

/-- HPOS where its register is out of reach. -/
theorem State.hpos_of_moves {rs : Spans} {t u : State} (h : Moves rs t u) (hk : covers rs (key (0x2108 + d) 0x0B) = false) :
    u.hpos d = t.hpos d := h.reg hk

theorem State.hpos_measured {rev : Bool} : (s.measured d c rev).hpos d = s.hpos d :=
  State.hpos_of_moves (State.measured_moves s d c rev) (by simp only [speedSpans, covers_cons, covers_nil, and_true, at1, key]; omega)

theorem State.countReversals_moves : Moves [pages 0x2140 0x217F] s (s.countReversals d) :=
  Moves.forEach (fun x hx u => Moves.ite
    ((Moves.refl u).addReg (in_pages (a := 0x2140) (b := 0x217F) (by simp) (by omega) (by have := lt_of_upTo hx; omega) (by omega)))
    (Moves.refl u)) (Moves.refl s)

theorem State.reg_countReversals {k : Nat} (h : k < key 0x2140 0) : (s.countReversals d).reg k = s.reg k :=
  State.countReversals_moves.reg (by simp only [covers_cons, covers_nil, and_true, pages, key, Nat.reduceMul, Nat.reduceAdd] at h ⊢; omega)

theorem State.reg_reversed {k : Nat} (h : k < key 0x2140 0) : (s.reversed d c).reg k = (s.measured d c true).reg k := by
  unfold State.reversed
  rw [State.reg_countReversals h]
  rfl

theorem State.reg_reversed_domain {x : Nat} (hd : d < 4) (hx : x < 7) :
    (s.reversed d c).reg (key (0x2108 + d) x) = s.reg (key (0x2108 + d) x) := by
  rw [State.reg_reversed (by unfold key; omega), State.reg_measured hx]

theorem State.hpos_reversed (hd : d < 4) : (s.reversed d c).hpos d = s.hpos d :=
  (State.reg_reversed (by unfold key; omega)).trans State.hpos_measured

theorem State.reg_moveLpos {l k : Nat} (h2 : k ≠ key (0x2108 + d) 2) (hA : k ≠ key (0x2108 + d) 0x0A) :
    (s.moveLpos d l).reg k = s.reg k := by
  unfold State.moveLpos
  split_ifs
  · rw [State.reg_setBit_other _ _ _ hA, State.reg_setReg_other _ _ h2]
  · exact State.reg_setReg_other _ _ h2

theorem State.lpos_moveLpos {l : Nat} (hd : d < 4) (hl : l < 2 ^ 48) : (s.moveLpos d l).lpos d = l := by
  have hw : widthOf (key (0x2108 + d) 2) = 48 := widthOf_domain hd (by decide)
  have h : (s.setReg (key (0x2108 + d) 2) l).reg (key (0x2108 + d) 2) = l := by
    rw [State.reg_setReg_same, hw, Nat.mod_eq_of_lt hl]
  unfold State.moveLpos State.lpos
  split_ifs with h0
  · rw [State.reg_setBit_other _ _ _ (key_ne_sub (by decide)), h]
  · exact h

theorem State.lpos_moveHpos {h l : Nat} : (s.moveHpos d c h l).lpos d = s.lpos d :=
  State.reg_setReg_other _ _ (key_ne_sub (by decide))

theorem State.hpos_moveHpos {h l : Nat} (hd : d < 4) (hl : l < 2 ^ 48) : (s.moveHpos d c h l).hpos d = l := by
  have hw : widthOf (key (0x2108 + d) 0x0B) = 48 := widthOf_domain hd (by decide)
  unfold State.moveHpos State.hpos
  rw [State.reg_setReg_same, hw, Nat.mod_eq_of_lt hl]

theorem State.debt_moveHpos {h l : Nat} : (s.moveHpos d c h l).reg (key (0x2108 + d) 5) = s.reg (key (0x2108 + d) 5) :=
  State.reg_setReg_other _ _ (key_ne_sub (by decide))

/-! The laws of a count by mode and direction. -/

theorem State.feed_counted_track_rev (hd : d < 4) (h : s.bit' (key (0x2108 + d) 1) 6 = true) :
    Counted s (s.feed d s.sclk true) d true := by
  have hw : widthOf (key (0x2108 + d) 2) = 48 := widthOf_domain hd (by decide)
  have hl : (s.feed d s.sclk true).lpos d = posAdd (s.lpos d) (-1) := by
    rw [State.feed_track_rev s d _ h, State.lpos, State.reg_setReg_same, hw, State.reg_reversed_domain hd (by omega),
      Nat.mod_eq_of_lt (posAdd_lt _ _)]
    rfl
  have hh : (s.feed d s.sclk true).hpos d = s.hpos d := by
    rw [State.feed_track_rev s d _ h, State.hpos, State.reg_setReg_other _ _ (key_ne_sub (by decide))]
    exact State.hpos_reversed hd
  unfold Counted
  simp only [h, if_true, Bool.true_or]
  exact ⟨⟨hl, hh⟩, fun hn => absurd hh hn⟩

/-- A reverse count in HOLD adds to the reverse debt, which saturates. -/
theorem State.feed_counted_hold_rev (hd : d < 4) (h : s.bit' (key (0x2108 + d) 1) 6 = false) :
    Counted s (s.feed d s.sclk true) d true := by
  have hw : widthOf (key (0x2108 + d) 5) = 32 := widthOf_domain hd (by decide)
  have hdebt : (s.reversed d s.sclk).reg (key (0x2108 + d) 5) = s.reg (key (0x2108 + d) 5) := State.reg_reversed_domain hd (by omega)
  have hkeep : ∀ x, x ≠ 5 → x ≠ 0x0A → x < 256 →
      (s.feed d s.sclk true).reg (key (0x2108 + d) x) = (s.reversed d s.sclk).reg (key (0x2108 + d) x) := by
    intro x h5 hA hx
    rw [State.feed_hold_rev s d _ h, State.reg_setBit_other _ _ _ (key_ne_sub hA hx)]
    split_ifs
    · exact State.reg_count_below _ _ _ _ _ (by omega) (by unfold key; omega)
    · exact State.reg_addReg_other _ _ (key_ne_sub h5 hx)
  have hl : (s.feed d s.sclk true).lpos d = s.lpos d :=
    (hkeep 2 (by decide) (by decide) (by decide)).trans (State.reg_reversed_domain hd (by decide))
  have hh : (s.feed d s.sclk true).hpos d = s.hpos d :=
    (hkeep 0x0B (by decide) (by decide) (by decide)).trans (State.hpos_reversed hd)
  have h5 : (s.feed d s.sclk true).reg (key (0x2108 + d) 5) = satAdd 32 (s.reg (key (0x2108 + d) 5)) 1 := by
    rw [State.feed_hold_rev s d _ h, State.reg_setBit_other _ _ _ (key_ne_sub (by decide)), hdebt]
    split_ifs with hm
    · rw [State.reg_count_below _ _ _ _ _ (by omega) (by unfold key; omega), hdebt, hm]
      rfl
    · rw [State.reg_addReg_same, hw, hdebt, Nat.mod_eq_of_lt (satAdd_lt _ _ _)]
  unfold Counted
  simp only [h, Bool.false_eq_true, if_false, if_true]
  exact ⟨⟨hl, hh, h5⟩, fun hn => absurd hh hn⟩

/-- A forward count in HOLD pays the reverse debt off first. -/
theorem State.feed_counted_debt (hd : d < 4) (h : s.bit' (key (0x2108 + d) 1) 6 = false)
    (hp : 0 < s.reg (key (0x2108 + d) 5)) : Counted s (s.feed d s.sclk false) d false := by
  have hw : widthOf (key (0x2108 + d) 5) = 32 := widthOf_domain hd (by decide)
  have hdebt : ∀ x < 7, (s.measured d s.sclk false).reg (key (0x2108 + d) x) = s.reg (key (0x2108 + d) x) :=
    fun x hx => State.reg_measured hx
  have hf := State.feed_debt s d s.sclk h (by rwa [hdebt 5 (by omega)])
  have hkeep : ∀ x, x ≠ 5 → x ≠ 0x0A → x < 256 →
      (s.feed d s.sclk false).reg (key (0x2108 + d) x) = (s.measured d s.sclk false).reg (key (0x2108 + d) x) := by
    intro x h5 hA hx
    rw [hf, State.reg_setBit_other _ _ _ (key_ne_sub hA hx), State.reg_setReg_other _ _ (key_ne_sub h5 hx)]
  have hl : (s.feed d s.sclk false).lpos d = s.lpos d := (hkeep 2 (by decide) (by decide) (by decide)).trans (hdebt 2 (by omega))
  have hh : (s.feed d s.sclk false).hpos d = s.hpos d := (hkeep 0x0B (by decide) (by decide) (by decide)).trans State.hpos_measured
  have h5 : (s.feed d s.sclk false).reg (key (0x2108 + d) 5) = (s.reg (key (0x2108 + d) 5) - 1) % 2 ^ 32 := by
    rw [hf, State.reg_setBit_other _ _ _ (key_ne_sub (by decide)), State.reg_setReg_same, hw, hdebt 5 (by omega)]
  unfold Counted
  simp only [h, Bool.false_eq_true, if_false, hp, if_true]
  exact ⟨⟨hl, hh, h5⟩, fun hn => absurd hh hn⟩

/-- What an advance of LPOS leaves, and of HPOS where it goes too. -/
theorem State.feed_advanced (hd : d < 4)
    (h : s.bit' (key (0x2108 + d) 1) 6 = true ∨ s.reg (key (0x2108 + d) 5) = 0) (hg : Bool)
    (hhg : (!s.bit' (key (0x2108 + d) 1) 6 || !reached (s.hpos d) (posAdd (s.lpos d) 1)) = hg) :
    let t := s.feed d c false
    t.lpos d = posAdd (s.lpos d) 1 ∧ t.hpos d = (if hg then posAdd (s.lpos d) 1 else s.hpos d)
    ∧ t.reg (key (0x2108 + d) 5) = s.reg (key (0x2108 + d) 5)
    ∧ (t.hpos d ≠ s.hpos d → t.ClosesWith (c + 1) (1 + d) (.reach d)) := by
  have hl : (s.measured d c false).lpos d = s.lpos d := State.reg_measured (x := 2) (by omega)
  have hh : (s.measured d c false).hpos d = s.hpos d := State.hpos_measured
  have h5 : (s.measured d c false).reg (key (0x2108 + d) 5) = s.reg (key (0x2108 + d) 5) := State.reg_measured (by omega)
  have hlt := posAdd_lt (s.lpos d) 1
  have hm5 : ∀ u : State, (u.moveLpos d (posAdd (s.lpos d) 1)).reg (key (0x2108 + d) 5) = u.reg (key (0x2108 + d) 5) := fun u =>
    State.reg_moveLpos (key_ne_sub (by decide)) (key_ne_sub (by decide))
  have hmh : ∀ u : State, (u.moveLpos d (posAdd (s.lpos d) 1)).hpos d = u.hpos d := fun u =>
    State.reg_moveLpos (key_ne_sub (by decide)) (key_ne_sub (by decide))
  intro t
  have ht : t = _ := State.feed_advance s d c (by rwa [h5])
  rw [← hl, ← hh] at hhg
  cases hg with
  | true =>
    rw [State.advance_goes _ d c _ hhg, hl, hh] at ht
    rw [ht]
    exact ⟨State.lpos_moveHpos.trans (State.lpos_moveLpos hd hlt), State.hpos_moveHpos hd hlt,
      State.debt_moveHpos.trans ((hm5 _).trans h5), fun _ => State.closes_with _ _ _ _⟩
  | false =>
    rw [State.advance_stays _ d c _ hhg, hl] at ht
    rw [ht]
    exact ⟨State.lpos_moveLpos hd hlt, (hmh _).trans hh, (hm5 _).trans h5, fun hn => absurd ((hmh _).trans hh) hn⟩

theorem State.feed_counted_advance (hd : d < 4)
    (h : s.bit' (key (0x2108 + d) 1) 6 = true ∨ s.reg (key (0x2108 + d) 5) = 0) : Counted s (s.feed d s.sclk false) d false := by
  obtain ⟨hl, hh, h5, hc⟩ := State.feed_advanced (c := s.sclk) hd h _ rfl
  refine ⟨?_, hc⟩
  cases ht : s.bit' (key (0x2108 + d) 1) 6 with
  | true =>
    rw [if_pos rfl]
    refine ⟨hl, hh.trans ?_⟩
    cases reached (s.hpos d) (posAdd (s.lpos d) 1) <;> simp [ht]
  | false =>
    have h0 : s.reg (key (0x2108 + d) 5) = 0 := by simpa [ht] using h
    rw [h0] at h5
    simp only [h0, Bool.false_eq_true, if_false, Nat.lt_irrefl]
    exact ⟨hl, by simpa [ht] using hh, h5⟩

/-- A count moves its domain as the reverse mode says (R41, R42). -/
theorem State.feed_counted (hd : d < 4) (rev : Bool) : Counted s (s.feed d s.sclk rev) d rev := by
  cases rev with
  | true =>
    cases h : s.bit' (key (0x2108 + d) 1) 6 with
    | true => exact State.feed_counted_track_rev hd h
    | false => exact State.feed_counted_hold_rev hd h
  | false =>
    by_cases h : s.bit' (key (0x2108 + d) 1) 6 = true ∨ s.reg (key (0x2108 + d) 5) = 0
    · exact State.feed_counted_advance hd h
    · rw [not_or, Bool.not_eq_true] at h
      exact State.feed_counted_debt hd h.1 (Nat.pos_of_ne_zero h.2)

/-! What a count may change. -/

/-- The registers of a domain, those of the windows, and the counters. -/
def feedSpans (d : Nat) : Spans := [pages (0x2108 + d) (0x2108 + d), pages 0x2140 0x217F, counterSpan]

theorem feed_covers {x : Nat} (hx : x ≤ 255) : covers (feedSpans d) (key (0x2108 + d) x) = true :=
  in_pages (a := 0x2108 + d) (b := 0x2108 + d) (by simp [feedSpans]) (by omega) (by omega) hx

theorem State.measured_feeds (rev : Bool) : Moves (feedSpans d) s (s.measured d c rev) :=
  (State.measured_moves s d c rev).mono (by
    intro k hk
    simp only [feedSpans, counterSpan, covers_cons, covers_nil, and_true, pages, key, Nat.reduceMul, Nat.reduceAdd] at hk
    simp only [speedSpans, covers_cons, covers_nil, and_true, at1, key]
    obtain ⟨hk, -⟩ := hk
    omega)

theorem State.reversed_feeds : Moves (feedSpans d) s (s.reversed d c) :=
  (State.measured_feeds true).closes.trans (State.countReversals_moves.sub (by simp [feedSpans]))

theorem State.moveLpos_feeds {l : Nat} : Moves (feedSpans d) s (s.moveLpos d l) := by
  have h : Moves (feedSpans d) s (s.setReg (key (0x2108 + d) 2) l) := (Moves.refl s).setReg (feed_covers (by omega))
  exact Moves.ite (h.setBit (feed_covers (by omega))) h

theorem State.advance_feeds (hold : Bool) : Moves (feedSpans d) s (s.advance d c hold).1 := by
  cases h : (hold || !reached (s.hpos d) (posAdd (s.lpos d) 1)) with
  | true =>
    rw [State.advance_goes s d c hold h]
    exact State.moveLpos_feeds.setDomain.setReg (feed_covers (by omega))
  | false =>
    rw [State.advance_stays s d c hold h]
    exact State.moveLpos_feeds

theorem State.feed_moves (rev : Bool) : Moves (feedSpans d) s (s.feed d c rev) := by
  cases rev with
  | true =>
    cases h : s.bit' (key (0x2108 + d) 1) 6 with
    | true =>
      rw [State.feed_track_rev s d c h]
      exact State.reversed_feeds.setReg (feed_covers (by omega))
    | false =>
      rw [State.feed_hold_rev s d c h]
      exact (Moves.ite (State.reversed_feeds.count (by simp [feedSpans]) (by omega) (by omega) (by omega))
        (State.reversed_feeds.addReg (feed_covers (by omega)))).setBit (feed_covers (by omega))
  | false =>
    by_cases h : s.bit' (key (0x2108 + d) 1) 6 = true ∨ (s.measured d c false).reg (key (0x2108 + d) 5) = 0
    · have ha : Moves (feedSpans d) s ((s.measured d c false).advance d c (!s.bit' (key (0x2108 + d) 1) 6)).1 :=
        (State.measured_feeds false).trans (State.advance_feeds _)
      rw [State.feed_advance s d c h]
      exact Moves.ite ha.closes ha
    · rw [not_or, Bool.not_eq_true] at h
      rw [State.feed_debt s d c h.1 (Nat.pos_of_ne_zero h.2)]
      exact ((State.measured_feeds false).setReg (feed_covers (by omega))).setBit (feed_covers (by omega))

theorem State.domain_moveLpos {l j : Nat} : (s.moveLpos d l).domain j = s.domain j := by
  unfold State.moveLpos
  split_ifs <;> rfl

theorem State.genCounts_moveHpos {h l : Nat} : ((s.moveHpos d c h l).domain d).genCounts = (s.domain d).genCounts := by
  unfold State.moveHpos
  rw [State.domain_setReg, State.domain_setDomain_same]

theorem State.genCounts_advance (hold : Bool) : ((s.advance d c hold).1.domain d).genCounts = (s.domain d).genCounts := by
  cases h : (hold || !reached (s.hpos d) (posAdd (s.lpos d) 1)) with
  | true => rw [State.advance_goes s d c hold h, State.genCounts_moveHpos, State.domain_moveLpos]
  | false => rw [State.advance_stays s d c hold h, State.domain_moveLpos]

/-- A count applied leaves the count of those that the generator has produced. -/
theorem State.genCounts_feed : ((s.feed d c false).domain d).genCounts = (s.domain d).genCounts := by
  by_cases h : s.bit' (key (0x2108 + d) 1) 6 = true ∨ (s.measured d c false).reg (key (0x2108 + d) 5) = 0
  · have ha := (State.genCounts_advance (s := s.measured d c false) (d := d) (c := c) (!s.bit' (key (0x2108 + d) 1) 6)).trans
      (State.genCounts_measured s d c false)
    rw [State.feed_advance s d c h]
    dsimp only
    split_ifs <;> exact ha
  · rw [not_or, Bool.not_eq_true] at h
    rw [State.feed_debt s d c h.1 (Nat.pos_of_ne_zero h.2)]
    simp only [State.setBit, State.domain_setReg]
    exact State.genCounts_measured s d c false

/-! Counts of every domain of a source. -/

/-- The registers of domain `d` read alike in the two states. -/
def SameDomain (d : Nat) (s t : State) : Prop := ∀ x < 256, t.reg (key (0x2108 + d) x) = s.reg (key (0x2108 + d) x)

theorem Moves.sameDomain {rs : Spans} {s t : State} (h : Moves rs s t)
    (hc : ∀ x < 256, covers rs (key (0x2108 + d) x) = false) : SameDomain d s t := fun x hx => h.reg (hc x hx)

/-- A law of a count depends on the domain's registers, on the instant and on what waits. -/
theorem Counted.congr {s s' t t' : State} {rev : Bool} (hs : SameDomain d s' s) (hc : s'.sclk = s.sclk) (ht : SameDomain d t t')
    (hk : KeepsLater t t') (h : Counted s t d rev) : Counted s' t' d rev := by
  have hb : s.bit' (key (0x2108 + d) 1) 6 = s'.bit' (key (0x2108 + d) 1) 6 := bit_of_reg (hs 1 (by decide)) 6
  have hsl : s.lpos d = s'.lpos d := hs 2 (by decide)
  have hsh : s.hpos d = s'.hpos d := hs 0x0B (by decide)
  have htl : t'.lpos d = t.lpos d := ht 2 (by decide)
  have hth : t'.hpos d = t.hpos d := ht 0x0B (by decide)
  obtain ⟨hm, hr⟩ := h
  rw [hb, hs 5 (by decide), hsl, hsh] at hm
  rw [hsh] at hr
  refine ⟨?_, fun hn => ?_⟩
  · rw [htl, hth, ht 5 (by decide)]
    exact hm
  · rw [hc]
    exact hk _ (hr (by rwa [hth] at hn))

theorem State.countDomains_feeds (src : Nat) (rev : Bool) (e : Nat) : s.countDomains src c rev (some e) =
    (forEach (s.fedBy src c) s (fun d u => u.feed d c rev)).raiseAt e c := rfl

theorem State.fedBy_lt {src d : Nat} (h : d ∈ s.fedBy src c) : d < 4 := lt_of_upTo (List.mem_filter.1 h).1

theorem feed_covers_other {d' x : Nat} (hd : d < 4) (hn : d' ≠ d) (hx : x < 256) :
    covers (feedSpans d') (key (0x2108 + d) x) = false := by
  simp only [feedSpans, counterSpan, covers_cons, covers_nil, and_true, pages, key]
  omega

theorem feed_in_count (hd : d < 4) (k : Nat) (h : covers countSpans k = false) : covers (feedSpans d) k = false := by
  simp only [countSpans, feedSpans, counterSpan, covers_cons, covers_nil, and_true, pages, key, Nat.reduceMul, Nat.reduceAdd] at h ⊢
  omega

theorem State.countDomains_moves (src : Nat) (rev : Bool) (e : Nat) : Moves countSpans s (s.countDomains src c rev (some e)) := by
  rw [State.countDomains_feeds]
  exact (Moves.forEach (fun d hd u => (State.feed_moves rev).mono (feed_in_count (State.fedBy_lt hd))) (Moves.refl s)).raiseAt

theorem State.countDomains_raised {src e : Nat} {rev : Bool} (he : e ≠ 0x3FF) : (s.countDomains src c rev (some e)).Raised e c :=
  State.raiseAt_raised _ _ _ _ he

/-- Whether a domain applies counts depends on its function's state and on what it holds. -/
theorem State.appliesCounts_congr {t : State} (hf : t.reg (key 0x2020 (fDomain d)) = s.reg (key 0x2020 (fDomain d)))
    (hd : t.domain d = s.domain d) : t.appliesCounts d c = s.appliesCounts d c := by
  unfold State.appliesCounts State.running
  rw [fn_of_reg hf, hd]

theorem State.mem_fedBy {src : Nat} (hd : d < 4) (hs : s.field' (key (0x2108 + d) 1) 2 0 = src)
    (ha : s.appliesCounts d c = true) : d ∈ s.fedBy src c := by
  refine List.mem_filter.2 ⟨mem_upTo hd, ?_⟩
  rw [hs, ha]
  simp

/-- Every domain fed by the source moves by the count. -/
theorem State.countDomains_counted {src e : Nat} {rev : Bool} (hd : d ∈ s.fedBy src s.sclk) :
    Counted s (s.countDomains src s.sclk rev (some e)) d rev := by
  have hd4 := State.fedBy_lt hd
  have hn : (s.fedBy src s.sclk).Nodup := (upTo_nodup 4).filter _
  have ho : ∀ y ∈ s.fedBy src s.sclk, y ≠ d → ∀ u : State, SameDomain d u (u.feed y s.sclk rev) := fun y hy hne u =>
    (State.feed_moves rev).sameDomain (fun x hx => feed_covers_other hd4 hne hx)
  have h : Counted s (forEach (s.fedBy src s.sclk) s (fun d u => u.feed d s.sclk rev)) d rev := by
    refine forEach_at (p := fun u => SameDomain d s u ∧ u.sclk = s.sclk) (q := fun u => Counted s u d rev) hd hn
      ⟨fun _ _ => rfl, rfl⟩ (fun y hy hne u hu => ?_) (fun u hu => ?_) (fun y hy hne u hu => ?_)
    · exact ⟨fun x hx => (ho y hy hne u x hx).trans (hu.1 x hx), (State.feed_moves rev).sclk.trans hu.2⟩
    · have hc := State.feed_counted (s := u) hd4 rev
      rw [hu.2] at hc
      exact hc.congr hu.1 hu.2.symm (fun _ _ => rfl) (KeepsLater.refl _)
    · exact hu.congr (fun _ _ => rfl) rfl (ho y hy hne u) (State.feed_moves rev).keeps
  rw [State.countDomains_feeds]
  exact h.congr (fun _ _ => rfl) rfl (fun x _ => State.reg_raiseAt _ _ _ _ _) (State.keeps_raiseAt _ _ _ _)

end Feed
end Sys2Proof.Machine
end

section
/-! SUPPORT. Encoders (02 R33 to R38): their levels, counts, Z edges and faults. -/
namespace Sys2Proof.Machine

set_option Elab.async false

/-! Commands while the module is up. -/

theorem exec_during {c : Instr} {s w : State} {dt : Nat} {f : State → State} (hc : exec c s = .next (s.during dt f))
    (hw : w = s.wait dt) (hu : w.up = true) : exec c s = .next (w.sealed (f w)) := by
  subst hw
  rw [hc, State.during_up s dt f hu]

/-- A command that finds nothing to do leaves the state that time has led to. -/
theorem exec_idle {c : Instr} {s w : State} {dt : Nat} {f : State → State} (hc : exec c s = .next (s.during dt f))
    (hw : w = s.wait dt) (hf : f w = w) : exec c s = .next w := by
  subst hw
  rw [hc, State.during, hf]
  unfold State.live
  split_ifs <;> rfl

theorem Moves.sealed {rs : Spans} {s t : State} (h : Moves rs s t) : OnlyRegs rs s (s.sealed t) ∧ SameMem s (s.sealed t) :=
  h.quiet.sealed

section Encoder
variable (s : State) (e : Nat) (a b rev : Bool)

/-! Levels, raw count and period. -/

theorem State.setLevels_moves : Moves [at1 (kEnc e 6)] s (s.setLevels e a b) := by
  unfold State.setLevels
  exact ((Moves.setEnc (Moves.refl s)).setBit (covers_at1 (by simp))).setBit (covers_at1 (by simp))

theorem State.rawCount_moves : Moves [at1 (kEnc e 2), at1 (kEnc e 6)] s (s.rawCount e rev) :=
  ((Moves.refl s).setReg (covers_at1 (by simp))).setBit (covers_at1 (by simp))

theorem State.countPeriod_moves (c : Nat) : Moves [at1 (kEnc e 5), at1 (kEnc e 6), counterSpan] s (s.countPeriod e c) := by
  unfold State.countPeriod
  split
  · exact Moves.refl s
  next l _ =>
    have h : Moves [at1 (kEnc e 5), at1 (kEnc e 6), counterSpan] s (s.setReg (kEnc e 5) (min 0xFFFFFFFF (16 * (c - l)))) :=
      (Moves.refl s).setReg (covers_at1 (by simp))
    exact Moves.ite ((h.setBit (covers_at1 (by simp))).count (by simp) (by omega) (by omega) (by omega)) h

/-- What a count changes of its encoder before its domains see it. -/
def State.encoderSide : State :=
  (((s.setLevels e a b).rawCount e rev).countPeriod e s.sclk).markCount e s.sclk

def encoderSpans (e : Nat) : Spans := [at1 (kEnc e 2), at1 (kEnc e 5), at1 (kEnc e 6), counterSpan]

theorem State.encoderSide_moves : Moves (encoderSpans e) s (s.encoderSide e a b rev) := by
  have h1 := (State.setLevels_moves s e a b).sub (rs' := encoderSpans e) (by simp [encoderSpans])
  have h2 := (State.rawCount_moves (s.setLevels e a b) e rev).sub (rs' := encoderSpans e) (by simp [encoderSpans])
  have h3 := (State.countPeriod_moves ((s.setLevels e a b).rawCount e rev) e s.sclk).sub (rs' := encoderSpans e)
    (by simp [encoderSpans])
  exact ((h1.trans h2).trans h3).setEnc

theorem State.encoderCounts_setLevels : (s.setLevels e a b).encoderCounts e rev =
    (s.encoderSide e a b rev).countDomains e s.sclk rev (some (evCount e)) := rfl

variable {s e a b rev}

theorem State.bit_setLevels (he : e < 4) {i : Nat} (hi : i < 16) : (s.setLevels e a b).bit' (kEnc e 6) i =
    if i = 1 then b else if i = 0 then a else s.bit' (kEnc e 6) i := by
  have hw : widthOf (kEnc e 6) = 16 := widthOf_encoder he (by decide)
  unfold State.setLevels
  rw [State.bit_setBit _ _ _ _ _ (by omega), State.bit_setBit _ _ _ _ _ (by omega)]
  rfl

theorem State.lastCount_setLevels : ((s.setLevels e a b).enc e).lastCount = (s.enc e).lastCount := by
  unfold State.setLevels State.setBit
  rw [State.enc_setReg, State.enc_setReg, State.enc_setEnc_same]

theorem State.reg_rawCount (he : e < 4) :
    (s.rawCount e rev).reg (kEnc e 2) = (s.reg (kEnc e 2) + (if rev then 2 ^ 32 - 1 else 1)) % 2 ^ 32 := by
  have hw : widthOf (kEnc e 2) = 32 := widthOf_encoder he (by decide)
  unfold State.rawCount
  rw [State.reg_setBit_other _ _ _ (kEnc_ne_sub (by decide)), State.reg_setReg_same, hw]
  rfl

theorem State.bit_rawCount (he : e < 4) {i : Nat} (hi : i < 16) :
    (s.rawCount e rev).bit' (kEnc e 6) i = if i = 3 then rev else s.bit' (kEnc e 6) i := by
  have hw : widthOf (kEnc e 6) = 16 := widthOf_encoder he (by decide)
  unfold State.rawCount
  rw [State.bit_setBit _ _ _ _ _ (by omega), State.bit_setReg_other _ _ _ (kEnc_ne_sub (by decide))]

/-- Counting and its records change no flag of an encoder. -/
theorem State.bit_countPeriod (he : e < 4) {c i : Nat} (hi : i < 16) (h6 : i ≠ 6) :
    (s.countPeriod e c).bit' (kEnc e 6) i = s.bit' (kEnc e 6) i := by
  have hw : widthOf (kEnc e 6) = 16 := widthOf_encoder he (by decide)
  unfold State.countPeriod
  split
  · rfl
  · simp only []
    split_ifs
    · rw [State.bit_count_below _ _ _ _ _ (by omega) (by unfold kEnc key; omega),
        State.bit_setBit_beside _ _ _ _ (by omega) h6, State.bit_setReg_other _ _ _ (kEnc_ne_sub (by decide))]
    · exact State.bit_setReg_other _ _ _ (kEnc_ne_sub (by decide))

/-- The period since the last count, and overspeed (R33). -/
theorem State.countPeriod_some (he : e < 4) {c l : Nat} (hl : (s.enc e).lastCount = some l) :
    (s.countPeriod e c).reg (kEnc e 5) = min 0xFFFFFFFF (16 * (c - l))
    ∧ (c - l < 25 → (s.countPeriod e c).bit' (kEnc e 6) 6 = true) := by
  have hw : widthOf (kEnc e 5) = 32 := widthOf_encoder he (by decide)
  have hw6 : widthOf (kEnc e 6) = 16 := widthOf_encoder he (by decide)
  have hp : (s.setReg (kEnc e 5) (min 0xFFFFFFFF (16 * (c - l)))).reg (kEnc e 5) = min 0xFFFFFFFF (16 * (c - l)) := by
    rw [State.reg_setReg_same, hw]
    omega
  unfold State.countPeriod
  rw [hl]
  simp only []
  split_ifs with h
  · refine ⟨?_, fun _ => ?_⟩
    · rw [State.reg_count_below _ _ _ _ _ (by omega) (by unfold kEnc key; omega),
        State.reg_setBit_other _ _ _ (kEnc_ne_sub (by decide)), hp]
    · rw [State.bit_count_below _ _ _ _ _ (by omega) (by unfold kEnc key; omega),
        State.bit_setBit_same _ _ _ (by omega)]
  · exact ⟨hp, fun hn => absurd hn h⟩

/-! What the encoder shows of a count (R33). -/

theorem State.rawCount_encoderSide (he : e < 4) : (s.encoderSide e a b rev).reg (kEnc e 2) =
    (s.reg (kEnc e 2) + (if rev then 2 ^ 32 - 1 else 1)) % 2 ^ 32 := by
  have hp := (State.countPeriod_moves ((s.setLevels e a b).rawCount e rev) e s.sclk).reg (k := kEnc e 2)
    (by simp only [counterSpan, covers_cons, covers_nil, and_true, at1, pages, kEnc, key, Nat.reduceMul, Nat.reduceAdd]; omega)
  have hl := (State.setLevels_moves s e a b).reg (k := kEnc e 2) (by simp only [covers_cons, covers_nil, and_true, at1, kEnc, key]; omega)
  exact hp.trans (by rw [State.reg_rawCount he, hl])

/-- The flags of an encoder after a count: levels, direction, and all but overspeed as they were. -/
theorem State.bit_encoderSide (he : e < 4) {i : Nat} (hi : i < 16) (h6 : i ≠ 6) : (s.encoderSide e a b rev).bit' (kEnc e 6) i =
    if i = 3 then rev else if i = 1 then b else if i = 0 then a else s.bit' (kEnc e 6) i := by
  have hp := State.bit_countPeriod (s := (s.setLevels e a b).rawCount e rev) (c := s.sclk) he hi h6
  rw [State.bit_rawCount he hi, State.bit_setLevels he hi] at hp
  exact hp

theorem State.period_encoderSide (he : e < 4) {l : Nat} (hl : (s.enc e).lastCount = some l) :
    (s.encoderSide e a b rev).reg (kEnc e 5) = min 0xFFFFFFFF (16 * (s.sclk - l))
    ∧ (s.sclk - l < 25 → (s.encoderSide e a b rev).bit' (kEnc e 6) 6 = true) := by
  have h0 : (((s.setLevels e a b).rawCount e rev).enc e).lastCount = some l := by
    unfold State.rawCount State.setBit
    rw [State.enc_setReg, State.enc_setReg, State.lastCount_setLevels, hl]
  have hp := State.countPeriod_some (c := s.sclk) he h0
  exact hp

theorem State.domain_count {ix sub dat j : Nat} {l : Option (Nat × Nat)} : (s.count ix sub dat l).domain j = s.domain j :=
  State.count_keeps s ix sub dat l (·.domain j) (fun _ => rfl)

theorem State.domain_countPeriod {c j : Nat} : (s.countPeriod e c).domain j = s.domain j := by
  unfold State.countPeriod
  split
  · rfl
  · simp only []
    split_ifs
    · exact State.domain_count
    · rfl

/-- Nothing of a domain changes before it sees the count. -/
theorem State.domain_encoderSide {j : Nat} : (s.encoderSide e a b rev).domain j = s.domain j :=
  State.domain_countPeriod (s := (s.setLevels e a b).rawCount e rev)

theorem State.reg_encoderSide_other {i x : Nat} (he : e < 4) (hi : i < 0x2100 ∨ 0x2104 ≤ i ∧ i < 0x2900) (hx : x < 256) :
    (s.encoderSide e a b rev).reg (key i x) = s.reg (key i x) :=
  (State.encoderSide_moves s e a b rev).reg (by
    simp only [encoderSpans, counterSpan, covers_cons, covers_nil, and_true, at1, pages, kEnc, key, Nat.reduceMul, Nat.reduceAdd]
    omega)

end Encoder
end Sys2Proof.Machine
end

section
/-! Filtered levels and counts (02 R33 to R35, R40 to R42). -/
namespace Sys2Proof.Machine

set_option Elab.async false

variable {s w : State} {dt : Nat} {e d : Fin 4} {a b rev : Bool}

theorem exec_encoderCount (hw : w = s.wait dt) (hu : w.up = true) (hf : w.filterPasses e a b = true)
    (hd : decodeAB (w.encCfg e) (w.bit' (kEnc e 6) 0) (w.bit' (kEnc e 6) 1) a b = .count rev) :
    exec (.encoderCount dt e a b) s =
      .next (w.sealed ((w.encoderSide e a b rev).countDomains e w.sclk rev (some (evCount e)))) := by
  rw [exec_during rfl hw hu, if_pos hf, hd]
  rfl

theorem exec_encoderCount_filtered (hw : w = s.wait dt) (hf : w.filterPasses e a b = false) :
    exec (.encoderCount dt e a b) s = .next w :=
  exec_idle rfl hw (by rw [hf]; exact if_neg Bool.false_ne_true)

theorem exec_illegalTransition (hw : w = s.wait dt) (hu : w.up = true) (hf : w.filterPasses e a b = true)
    (hd : decodeAB (w.encCfg e) (w.bit' (kEnc e 6) 0) (w.bit' (kEnc e 6) 1) a b = .illegal) :
    exec (.illegalTransition dt e a b) s =
      .next (w.sealed (((w.setBit (kEnc e 6) 4 true).setLevels e a b).count 0x2900 1 e)) := by
  rw [exec_during rfl hw hu, hd]
  exact congrArg (fun x => Host.Outcome.next (w.sealed x)) (if_pos hf)

theorem exec_illegalTransition_filtered (hw : w = s.wait dt) (hf : w.filterPasses e a b = false) :
    exec (.illegalTransition dt e a b) s = .next w :=
  exec_idle rfl hw (by
    cases decodeAB (w.encCfg e) (w.bit' (kEnc e 6) 0) (w.bit' (kEnc e 6) 1) a b <;> simp [hf])

/-- In a quadrature mode a change of both levels is illegal (R35). -/
theorem decodeAB_both {cfg : Nat} {a0 b0 : Bool} (h1 : 1 ≤ bits cfg 2 0) (h3 : bits cfg 2 0 ≤ 3) (ha : a = !a0) (hb : b = !b0) :
    decodeAB cfg a0 b0 a b = .illegal := by
  have h4 : bits cfg 2 0 ≠ 4 := by omega
  have hq : bits cfg 2 0 = 1 ∨ bits cfg 2 0 = 2 ∨ bits cfg 2 0 = 3 := by omega
  unfold decodeAB
  simp only [h4, hq, if_false, if_true, ha, hb]
  cases a0 <;> cases b0 <;> rfl

/-! A count reaches no register of its encoder through the domains. -/

theorem State.reg_encoder_countDomains {u : State} {c src x ev : Nat} (hx : x < 256) :
    (u.countDomains src c rev (some ev)).reg (kEnc e x) = u.reg (kEnc e x) :=
  (State.countDomains_moves src rev ev).reg (by
    have := e.isLt
    simp only [countSpans, counterSpan, covers_cons, covers_nil, and_true, pages, kEnc, key, Nat.reduceMul, Nat.reduceAdd]
    omega)

theorem encoderCount_leads (hw : w = s.wait dt) (hu : w.up = true) (hf : w.filterPasses e a b = true)
    (hd : decodeAB (w.encCfg e) (w.bit' (kEnc e 6) 0) (w.bit' (kEnc e 6) 1) a b = .count rev) :
    Leads (.encoderCount dt e a b) s (fun t =>
      t.reg (kEnc e 2) = (w.reg (kEnc e 2) + (if rev then 2 ^ 32 - 1 else 1)) % 2 ^ 32
      ∧ t.bit' (kEnc e 6) 0 = a ∧ t.bit' (kEnc e 6) 1 = b ∧ t.bit' (kEnc e 6) 3 = rev
      ∧ (∀ l, (w.enc e).lastCount = some l →
          t.reg (kEnc e 5) = min 0xFFFFFFFF (16 * (w.sclk - l)) ∧ (w.sclk - l < 25 → t.bit' (kEnc e 6) 6 = true))
      ∧ t.Raised (evCount e) w.sclk
      ∧ OnlyRegs ([at1 (kEnc e 2), at1 (kEnc e 5), at1 (kEnc e 6)] ++ countSpans) w t ∧ SameMem w t) := by
  have he := e.isLt
  have hb : ∀ i, ((w.encoderSide e a b rev).countDomains e w.sclk rev (some (evCount e))).bit' (kEnc e 6) i =
      (w.encoderSide e a b rev).bit' (kEnc e 6) i := bit_of_reg (State.reg_encoder_countDomains (by decide))
  have hm : Moves ([at1 (kEnc e 2), at1 (kEnc e 5), at1 (kEnc e 6)] ++ countSpans) w
      ((w.encoderSide e a b rev).countDomains e w.sclk rev (some (evCount e))) :=
    ((State.encoderSide_moves w e a b rev).sub (by simp [encoderSpans, countSpans])).trans
      ((State.countDomains_moves e rev (evCount e)).sub (List.subset_append_right _ _))
  refine leads_of (exec_encoderCount hw hu hf hd) ⟨?_, ?_, ?_, ?_, fun l hl => ⟨?_, fun ho => ?_⟩, ?_, hm.sealed⟩
  · exact (State.reg_encoder_countDomains (by decide)).trans (State.rawCount_encoderSide he)
  · exact (hb 0).trans (State.bit_encoderSide he (by omega) (by omega))
  · exact (hb 1).trans (State.bit_encoderSide he (by omega) (by omega))
  · exact (hb 3).trans (State.bit_encoderSide he (by omega) (by omega))
  · exact (State.reg_encoder_countDomains (by decide)).trans (State.period_encoderSide he hl).1
  · exact (hb 6).trans ((State.period_encoderSide he hl).2 ho)
  · exact State.countDomains_raised (by unfold evCount; omega)

theorem illegalTransition_leads (hw : w = s.wait dt) (hu : w.up = true) (hf : w.filterPasses e a b = true)
    (h1 : 1 ≤ bits (w.encCfg e) 2 0) (h3 : bits (w.encCfg e) 2 0 ≤ 3) (ha : a = !w.bit' (kEnc e 6) 0)
    (hb : b = !w.bit' (kEnc e 6) 1) : Leads (.illegalTransition dt e a b) s (fun t =>
      t.bit' (kEnc e 6) 4 = true ∧ t.bit' (kEnc e 6) 0 = a ∧ t.bit' (kEnc e 6) 1 = b
      ∧ t.reg (key 0x2900 1) = satAdd 32 (w.reg (key 0x2900 1)) 1
      ∧ t.reg (kEnc e 2) = w.reg (kEnc e 2) ∧ (∀ d : Fin 4, t.lpos d = w.lpos d ∧ t.hpos d = w.hpos d)
      ∧ t.later = w.later ∧ OnlyRegs [at1 (kEnc e 6), counterSpan] w t ∧ SameMem w t) := by
  have he := e.isLt
  have hw6 : widthOf (kEnc e 6) = 16 := widthOf_encoder he (by decide)
  have hl : Moves [at1 (kEnc e 6)] w ((w.setBit (kEnc e 6) 4 true).setLevels e a b) :=
    ((Moves.refl w).setBit (covers_at1 (by simp))).trans (State.setLevels_moves _ e a b)
  have hm : Moves [at1 (kEnc e 6), counterSpan] w (((w.setBit (kEnc e 6) 4 true).setLevels e a b).count 0x2900 1 e) :=
    (hl.sub (by simp)).count (by simp) (by omega) (by omega) (by omega)
  have hbit : ∀ i, (((w.setBit (kEnc e 6) 4 true).setLevels e a b).count 0x2900 1 e).bit' (kEnc e 6) i =
      ((w.setBit (kEnc e 6) 4 true).setLevels e a b).bit' (kEnc e 6) i := fun i =>
    State.bit_count_below _ _ _ _ _ (by omega) (by unfold kEnc key; omega)
  have hkeep : ∀ i x, i < 0x2900 → x < 256 → key i x ≠ kEnc e 6 →
      (((w.setBit (kEnc e 6) 4 true).setLevels e a b).count 0x2900 1 e).reg (key i x) = w.reg (key i x) := fun i x hi hx hne =>
    hm.reg (by
      simp only [counterSpan, covers_cons, covers_nil, and_true, at1, pages, kEnc, key, Nat.reduceMul, Nat.reduceAdd] at hne ⊢
      omega)
  refine leads_of (exec_illegalTransition hw hu hf (decodeAB_both h1 h3 ha hb)) ⟨?_, ?_, ?_, ?_, ?_, fun d => ⟨?_, ?_⟩, ?_, hm.sealed⟩
  · exact (hbit 4).trans ((State.bit_setLevels he (by omega)).trans (State.bit_setBit_same _ _ _ (by omega)))
  · exact (hbit 0).trans (State.bit_setLevels he (by omega))
  · exact (hbit 1).trans (State.bit_setLevels he (by omega))
  · refine (State.reg_count_same _ _ _ _ _).trans (congrArg (satAdd 32 · 1) (hl.reg ?_))
    simp only [covers_cons, covers_nil, and_true, at1, kEnc, key]
    omega
  · exact hkeep (0x2100 + e) 2 (by omega) (by omega) (kEnc_ne_sub (by decide))
  · exact hkeep (0x2108 + d) 2 (by omega) (by omega) (key_ne_sub (by decide))
  · exact hkeep (0x2108 + d) 0x0B (by omega) (by omega) (key_ne_sub (by decide))
  · exact State.later_count _ _ _ _ _

/-- Settles O3: each clause by the lemma about its command. -/
theorem encoderLevelsDecodeToCounts : Obligations.EncoderLevelsDecodeToCounts :=
  ⟨fun _ _ _ _ _ _ _ hw hu hf hd => encoderCount_leads hw hu hf hd,
   fun _ _ _ _ _ _ hw hu hf h1 h3 ha hb => illegalTransition_leads hw hu hf h1 h3 ha hb,
   fun _ _ _ _ _ _ hw hf => ⟨leads_of (exec_encoderCount_filtered hw hf) rfl, leads_of (exec_illegalTransition_filtered hw hf) rfl⟩⟩

/-! Counts and positions (R40 to R42). -/

theorem encoderCount_moves_domain (hw : w = s.wait dt) (hu : w.up = true) (hf : w.filterPasses e a b = true)
    (hd : decodeAB (w.encCfg e) (w.bit' (kEnc e 6) 0) (w.bit' (kEnc e 6) 1) a b = .count rev)
    (hs : w.field' (key (0x2108 + d) 1) 2 0 = e) (ha : w.appliesCounts d w.sclk = true) :
    Leads (.encoderCount dt e a b) s (fun t => Counted w t d rev) := by
  have he := e.isLt
  have hdl := d.isLt
  have hc : (w.encoderSide e a b rev).sclk = w.sclk := (State.encoderSide_moves w e a b rev).sclk
  have hfed : d.val ∈ (w.encoderSide e a b rev).fedBy e (w.encoderSide e a b rev).sclk := by
    refine State.mem_fedBy hdl ?_ ?_
    · exact (field_of_reg (State.reg_encoderSide_other he (by omega) (by omega)) 2 0).trans hs
    · rw [hc]
      exact (State.appliesCounts_congr (State.reg_encoderSide_other (i := 0x2020) he (by omega) (by unfold fDomain; omega))
        State.domain_encoderSide).trans ha
  have h := State.countDomains_counted (e := evCount e) (rev := rev) hfed
  rw [hc] at h
  refine leads_of (exec_encoderCount hw hu hf hd) (h.congr ?_ hc.symm (fun _ _ => rfl) (KeepsLater.refl _))
  exact fun x hx => State.reg_encoderSide_other he (by omega) hx

/-- The generator's next count is one more. -/
def State.genNext (s : State) (d : Nat) : State := s.setDomain d { s.domain d with genCounts := (s.domain d).genCounts + 1 }

theorem exec_generatorCount (hw : w = s.wait dt) (hu : w.up = true) (hs : w.field' (key (0x2108 + d) 1) 2 0 = 4)
    (ha : w.appliesCounts d w.sclk = true) (hg : w.genDue d ≤ w.sclk) :
    exec (.generatorCount dt d) s = .next (w.sealed ((w.genNext d).feed d w.sclk false)) := by
  rw [exec_during rfl hw hu, if_pos ⟨hs, ha, hg⟩]
  rfl

theorem generatorCount_leads (hw : w = s.wait dt) (hu : w.up = true) (hs : w.field' (key (0x2108 + d) 1) 2 0 = 4)
    (ha : w.appliesCounts d w.sclk = true) (hg : w.genDue d ≤ w.sclk) : Leads (.generatorCount dt d) s (fun t =>
      Counted w t d false ∧ (t.domain d).genCounts = (w.domain d).genCounts + 1 ∧ OnlyRegs countSpans w t ∧ SameMem w t) := by
  have hm : Moves countSpans w ((w.genNext d).feed d w.sclk false) :=
    (Moves.setDomain (Moves.refl w)).trans ((State.feed_moves false).mono (feed_in_count d.isLt))
  have hn : ((w.genNext d).domain d).genCounts = (w.domain d).genCounts + 1 :=
    congrArg DomUnit.genCounts (State.domain_setDomain_same w d _)
  refine leads_of (exec_generatorCount hw hu hs ha hg) ⟨?_, State.genCounts_feed.trans hn, hm.sealed⟩
  have h : Counted (w.genNext d) ((w.genNext d).feed d w.sclk false) d false := State.feed_counted d.isLt false
  exact h.congr (fun _ _ => rfl) rfl (fun _ _ => rfl) (KeepsLater.refl _)

/-- Settles O4: counts of an encoder through its source's domains, counts of the generator of a domain. -/
theorem countsMoveTheLinePosition : Obligations.CountsMoveTheLinePosition :=
  ⟨fun _ _ _ _ _ _ _ _ hw hu hf hd hs ha => encoderCount_moves_domain hw hu hf hd hs ha,
   fun _ _ _ _ hw hu hs ha hg => generatorCount_leads hw hu hs ha hg⟩

end Sys2Proof.Machine
end

section
/-! Z edges and input faults of encoders (02 R36, R43; 15 R398). -/
namespace Sys2Proof.Machine

set_option Elab.async false

/-! A Z edge (R36). -/

section Z
variable (s : State) (e : Nat) (rising : Bool)

/-- The filtered Z level takes a new value. -/
def State.zLevel : State := (s.setEnc e { s.enc e with zAt := some s.sclk }).setBit (kEnc e 6) 2 rising

/-- The raw count is taken; counts of a revolution that differ set ZERR and are counted. -/
def State.zTaken : State :=
  if s.zBad e then ((s.takeZ e).setBit (kEnc e 6) 5 true).count 0x2900 2 else s.takeZ e

theorem State.zRegistered_eq : s.zRegistered e = (s.zTaken e).raise (evZ e) := rfl

theorem State.zLevel_moves : Moves [at1 (kEnc e 6)] s (s.zLevel e rising) :=
  (Moves.setEnc (Moves.refl s)).setBit (covers_at1 (by simp))

theorem State.takeZ_moves : Moves [at1 (kEnc e 3), at1 (kEnc e 4)] s (s.takeZ e) :=
  Moves.setEnc (((Moves.refl s).setReg (covers_at1 (by simp))).setReg (covers_at1 (by simp)))

def zSpans (e : Nat) : Spans := [at1 (kEnc e 3), at1 (kEnc e 4), at1 (kEnc e 6), counterSpan]

theorem State.zTaken_moves : Moves (zSpans e) s (s.zTaken e) := by
  have h : Moves (zSpans e) s (s.takeZ e) := (State.takeZ_moves s e).sub (by simp [zSpans])
  exact Moves.ite ((h.setBit (covers_at1 (by simp [zSpans]))).count (by simp [zSpans]) (by omega) (by omega) (by omega)) h

variable {s e rising}

/-- The new level has no part in the comparison of the counts. -/
theorem State.zBad_zLevel : (s.zLevel e rising).zBad e = s.zBad e := by
  have he : (s.zLevel e rising).enc e = { s.enc e with zAt := some s.sclk } := by
    unfold State.zLevel State.setBit
    rw [State.enc_setReg, State.enc_setEnc_same]
  have hr : ∀ x, x ≠ 6 → x < 256 → (s.zLevel e rising).reg (kEnc e x) = s.reg (kEnc e x) := fun x h6 hx =>
    State.reg_setBit_other _ _ _ (kEnc_ne_sub h6 hx)
  have hc : (s.zLevel e rising).sclk = s.sclk := (State.zLevel_moves s e rising).sclk
  unfold State.zBad State.zBefore State.zPeriod
  rw [he, hr 2 (by decide) (by decide), hr 7 (by decide) (by decide), hc]

theorem State.reg_takeZ_count (he : e < 4) : (s.takeZ e).reg (kEnc e 3) = s.reg (kEnc e 2) % 2 ^ 32 := by
  have hw : widthOf (kEnc e 3) = 32 := widthOf_encoder he (by decide)
  show ((s.setReg (kEnc e 3) (s.reg (kEnc e 2))).incReg (kEnc e 4)).reg (kEnc e 3) = _
  rw [State.reg_incReg_other _ (kEnc_ne_sub (by decide)), State.reg_setReg_same, hw]

theorem State.reg_takeZ_edges (he : e < 4) : (s.takeZ e).reg (kEnc e 4) = (s.reg (kEnc e 4) + 1) % 2 ^ 32 := by
  have hw : widthOf (kEnc e 4) = 32 := widthOf_encoder he (by decide)
  show ((s.setReg (kEnc e 3) (s.reg (kEnc e 2))).incReg (kEnc e 4)).reg (kEnc e 4) = _
  rw [State.reg_incReg_same, hw, State.reg_setReg_other _ _ (kEnc_ne_sub (by decide))]

theorem State.reg_zTaken {x : Nat} (he : e < 4) (h6 : x ≠ 6) (hx : x < 256) :
    (s.zTaken e).reg (kEnc e x) = (s.takeZ e).reg (kEnc e x) := by
  unfold State.zTaken
  split_ifs
  · rw [State.reg_count_below _ _ _ _ _ (by omega) (by unfold kEnc key; omega), State.reg_setBit_other _ _ _ (kEnc_ne_sub h6 hx)]
  · rfl

theorem State.bit_zTaken {i : Nat} (he : e < 4) (hi : i < 16) :
    (s.zTaken e).bit' (kEnc e 6) i = (s.bit' (kEnc e 6) i || (decide (i = 5) && s.zBad e)) := by
  have hw : widthOf (kEnc e 6) = 16 := widthOf_encoder he (by decide)
  have ht : (s.takeZ e).bit' (kEnc e 6) i = s.bit' (kEnc e 6) i :=
    bit_of_reg ((State.takeZ_moves s e).reg (by simp only [covers_cons, covers_nil, and_true, at1, kEnc, key]; omega)) i
  unfold State.zTaken
  cases hz : s.zBad e with
  | true =>
    rw [if_pos rfl, State.bit_count_below _ _ _ _ _ (by omega) (by unfold kEnc key; omega), State.bit_setBit _ _ _ _ _ (by omega), ht]
    by_cases h5 : i = 5 <;> simp [h5]
  | false => rw [if_neg Bool.false_ne_true, ht, Bool.and_false, Bool.or_false]

theorem State.errors_zTaken (he : e < 4) (hz : s.zBad e = true) :
    (s.zTaken e).reg (key 0x2900 2) = satAdd 32 (s.reg (key 0x2900 2)) 1 := by
  have ht : (s.takeZ e).reg (key 0x2900 2) = s.reg (key 0x2900 2) :=
    (State.takeZ_moves s e).reg (by simp only [covers_cons, covers_nil, and_true, at1, kEnc, key]; omega)
  unfold State.zTaken
  rw [if_pos hz, State.reg_count_same _ 0x2900 2, State.reg_setBit_other _ _ _ (by unfold kEnc; exact key_ne_index (by omega)), ht]

end Z

/-! Input faults (R43, R398). -/

/-- The functions of the line domains. -/
def domainFns : Spans := (upTo 4).map (fun d => at1 (key 0x2020 (fDomain d)))

/-- What the domains of an input fault change: their functions, and the counts of dropped records. -/
def domainFaultSpans : Spans := at1 (key 0x2904 5) :: at1 (key 0x2904 6) :: domainFns

section Fault
variable (s : State) (e d : Nat)

/-- The fault bits of the encoder, and its count. -/
def State.faultShown : State :=
  ((s.setBit (key 0x2640 0x18) e true).setBit (key 0x2640 0x18) (8 + e) true).count 0x2900 8

theorem State.inputFault_eq : s.inputFault e = forEach (upTo 4) (s.faultShown e) (fun d u => u.faultDomain e d) := rfl

variable {s e d}

theorem fDomain_covers (hd : d < 4) : covers domainFaultSpans (key 0x2020 (fDomain d)) = true :=
  covers_at1 (List.mem_cons_of_mem _ (List.mem_cons_of_mem _ (List.mem_map_of_mem (mem_upTo hd))))

theorem State.faultDomain_quiet (hd : d < 4) : Quiet domainFaultSpans s (s.faultDomain e d) := by
  unfold State.faultDomain
  split_ifs
  · exact (Quiet.setField (Quiet.setDomain (Quiet.refl s)) (fDomain_covers hd)).trans
      ((State.report_reports _ _).quiet (covers_at1 (by simp [domainFaultSpans])) (covers_at1 (by simp [domainFaultSpans])))
  · exact Quiet.refl s

theorem State.feedOf_faultDomain {j : Nat} (hd : d < 4) (hj : j < 4) :
    (s.faultDomain e d).field' (key (0x2108 + j) 1) 2 0 = s.field' (key (0x2108 + j) 1) 2 0 :=
  field_of_reg ((State.faultDomain_quiet hd).regs _ (by
    simp only [domainFaultSpans, domainFns, covers_cons, covers_map_at1]
    simp only [at1, key, fDomain]
    exact ⟨by omega, by omega, fun d hd => by omega⟩)) 2 0

theorem State.inputFault_quiet : Quiet domainFaultSpans (s.faultShown e) (s.inputFault e) :=
  Quiet.forEach (fun _ hd _ => State.faultDomain_quiet (lt_of_upTo hd)) (Quiet.refl _)

theorem State.fn_faultDomain_same (hd : d < 4) : (s.faultDomain e d).fn (fDomain d) =
    if s.field' (key (0x2108 + d) 1) 2 0 = e ∧ s.running (fDomain d) = true then .faulted else s.fn (fDomain d) := by
  unfold State.faultDomain
  split_ifs
  · exact State.fn_enterFaulted_same _ (by unfold fDomain; omega) (by unfold fDomain; omega)
  · rfl

theorem State.fn_faultDomain_other {j : Nat} (hj : j < 4) (h : j ≠ d) :
    (s.faultDomain e d).fn (fDomain j) = s.fn (fDomain j) := by
  unfold State.faultDomain
  split_ifs
  · exact State.fn_enterFaulted_other _ (by unfold fDomain; omega) (by unfold fDomain; omega)
  · rfl

/-- A register beside those of functions and dropped records shows the encoder's fault as its domains find it. -/
theorem State.reg_inputFault {k : Nat} (hf : key 0x2021 0 ≤ k) (h4 : k < key 0x2904 0) :
    (s.inputFault e).reg k = (s.faultShown e).reg k :=
  State.inputFault_quiet.regs k (by
    simp only [key] at hf h4
    simp only [domainFaultSpans, domainFns, covers_cons, covers_map_at1]
    simp only [at1, key, fDomain]
    exact ⟨by omega, by omega, fun d hd => by omega⟩)

/-- Each domain finds the fault in its own turn (R43). -/
theorem State.fn_inputFault (hd : d < 4) : (s.inputFault e).fn (fDomain d) =
    if s.field' (key (0x2108 + d) 1) 2 0 = e ∧ s.running (fDomain d) = true then .faulted else s.fn (fDomain d) := by
  have hreg : ∀ k, key 0x2020 0 ≤ k → k < key 0x2200 0 → (s.faultShown e).reg k = s.reg k := fun k h1 h2 => by
    simp only [key] at h1 h2
    unfold State.faultShown
    rw [State.reg_count_below _ _ _ _ _ (by omega) (by unfold key; omega), State.reg_setBit_other _ _ _ (by unfold key; omega),
      State.reg_setBit_other _ _ _ (by unfold key; omega)]
  have hfn : (s.faultShown e).fn (fDomain d) = s.fn (fDomain d) :=
    fn_of_reg (hreg _ (by unfold key fDomain; omega) (by unfold key fDomain; omega))
  have hsrc : (s.faultShown e).field' (key (0x2108 + d) 1) 2 0 = s.field' (key (0x2108 + d) 1) 2 0 :=
    field_of_reg (hreg _ (by unfold key; omega) (by unfold key; omega)) 2 0
  rw [State.inputFault_eq]
  refine forEach_at (p := fun u : State => u.fn (fDomain d) = s.fn (fDomain d)
      ∧ u.field' (key (0x2108 + d) 1) 2 0 = s.field' (key (0x2108 + d) 1) 2 0)
    (q := fun u : State => u.fn (fDomain d) = _) (mem_upTo hd) (upTo_nodup 4) ⟨hfn, hsrc⟩
    (fun y hy hn u hu => ?_) (fun u hu => ?_) (fun y hy hn u hu => ?_)
  · have hy4 := lt_of_upTo hy
    exact ⟨(State.fn_faultDomain_other hd hn.symm).trans hu.1, (State.feedOf_faultDomain hy4 hd).trans hu.2⟩
  · rw [State.fn_faultDomain_same hd, State.running, hu.1, hu.2]
    rfl
  · exact (State.fn_faultDomain_other hd hn.symm).trans hu

end Fault
/-! The commands. -/

variable {s w : State} {dt : Nat} {e : Fin 4} {rising : Bool}

theorem exec_zEdge (hw : w = s.wait dt) (hu : w.up = true) (hs : w.settled e (w.enc e).zAt = true)
    (hz : bits (w.encCfg e) 7 6 = (if rising then 1 else 2)) :
    exec (.zEdge dt e rising) s = .next (w.sealed (((w.zLevel e rising).zTaken e).raise (evZ e))) := by
  have hp : bits (w.encCfg e) 7 6 = 1 ∧ rising = true ∨ bits (w.encCfg e) 7 6 = 2 ∧ (!rising) = true := by
    cases rising <;> simp [hz]
  rw [exec_during rfl hw hu, if_pos hs]
  exact congrArg (fun x => Host.Outcome.next (w.sealed x)) (if_pos hp)

theorem exec_encoderInputFault (hw : w = s.wait dt) (hu : w.up = true) (hm : bits (w.encCfg e) 2 0 ≠ 0)
    (hn : w.bit' (key 0x2640 0x18) e = false) :
    exec (.encoderInputFault dt e) s = .next (w.sealed (w.inputFault e)) := by
  rw [exec_during rfl hw hu, if_neg (by simp [hm, hn])]

theorem exec_encoderFaultEnd (hw : w = s.wait dt) (hu : w.up = true) :
    exec (.encoderFaultEnd dt e) s = .next (w.sealed (w.setBit (key 0x2640 0x18) e false)) :=
  exec_during (f := fun u => u.setBit (key 0x2640 0x18) e false) rfl hw hu

theorem zEdge_leads (hw : w = s.wait dt) (hu : w.up = true) (hs : w.settled e (w.enc e).zAt = true)
    (hz : bits (w.encCfg e) 7 6 = (if rising then 1 else 2)) : Leads (.zEdge dt e rising) s (fun t =>
      t.reg (kEnc e 3) = w.reg (kEnc e 2) % 2 ^ 32 ∧ t.reg (kEnc e 4) = (w.reg (kEnc e 4) + 1) % 2 ^ 32
      ∧ t.bit' (kEnc e 6) 2 = rising ∧ t.bit' (kEnc e 6) 5 = (w.bit' (kEnc e 6) 5 || w.zBad e)
      ∧ (w.zBad e = true → t.reg (key 0x2900 2) = satAdd 32 (w.reg (key 0x2900 2)) 1)
      ∧ t.Raised (evZ e) w.sclk
      ∧ OnlyRegs [at1 (kEnc e 3), at1 (kEnc e 4), at1 (kEnc e 6), counterSpan] w t ∧ SameMem w t) := by
  have he := e.isLt
  have hw6 : widthOf (kEnc e 6) = 16 := widthOf_encoder he (by decide)
  have hl := State.zLevel_moves w e rising
  have hm : Moves (zSpans e) w (((w.zLevel e rising).zTaken e).raise (evZ e)) :=
    ((hl.sub (by simp [zSpans])).trans (State.zTaken_moves _ e)).raise
  have hraise : ∀ k, (((w.zLevel e rising).zTaken e).raise (evZ e)).reg k = ((w.zLevel e rising).zTaken e).reg k := fun k =>
    State.reg_raiseAt _ _ _ _ _
  have hlev : ∀ k, k ≠ kEnc e 6 → (w.zLevel e rising).reg k = w.reg k := fun k hk => State.reg_setBit_other _ _ _ hk
  have hbit : ∀ i < 16, (((w.zLevel e rising).zTaken e).raise (evZ e)).bit' (kEnc e 6) i =
      ((w.zLevel e rising).bit' (kEnc e 6) i || (decide (i = 5) && w.zBad e)) := fun i hi => by
    rw [bit_of_reg (hraise _), State.bit_zTaken he hi, State.zBad_zLevel]
  refine leads_of (exec_zEdge hw hu hs hz) ⟨?_, ?_, ?_, ?_, fun hb => ?_, ?_, hm.sealed⟩
  · rw [State.sealed_reg, hraise, State.reg_zTaken he (by decide) (by decide), State.reg_takeZ_count he, hlev _ (kEnc_ne_sub (by decide))]
  · rw [State.sealed_reg, hraise, State.reg_zTaken he (by decide) (by decide), State.reg_takeZ_edges he, hlev _ (kEnc_ne_sub (by decide))]
  · rw [State.bit_sealed, hbit 2 (by omega)]
    exact (Bool.or_false _).trans (State.bit_setBit_same _ _ _ (by omega))
  · rw [State.bit_sealed, hbit 5 (by omega)]
    exact congrArg (· || w.zBad e) (State.bit_setBit_beside _ _ _ _ (by omega) (by omega))
  · rw [State.sealed_reg, hraise, State.errors_zTaken he (by rw [State.zBad_zLevel, hb]), hlev _ (by unfold kEnc; exact key_ne_index (by omega))]
  · exact State.raise_raised _ (evZ e) _ (hl.sclk ▸ (State.zTaken_moves _ e).sclk) (by unfold evZ; omega)

theorem encoderInputFault_leads (hw : w = s.wait dt) (hu : w.up = true) (hm : bits (w.encCfg e) 2 0 ≠ 0)
    (hn : w.bit' (key 0x2640 0x18) e = false) : Leads (.encoderInputFault dt e) s (fun t =>
      t.bit' (key 0x2640 0x18) e = true ∧ t.bit' (key 0x2640 0x18) (8 + e) = true
      ∧ t.reg (key 0x2900 8) = satAdd 32 (w.reg (key 0x2900 8)) 1
      ∧ (∀ d : Fin 4, t.fn (fDomain d) =
          if w.field' (key (0x2108 + d) 1) 2 0 = e ∧ w.running (fDomain d) = true then .faulted else w.fn (fDomain d))
      ∧ OnlyRegs ([at1 (key 0x2640 0x18), counterSpan] ++ (upTo 4).map (fun d => at1 (key 0x2020 (fDomain d)))) w t
      ∧ SameMem w t) := by
  have hw16 : widthOf (key 0x2640 0x18) = 16 := rfl
  have he := e.isLt
  have hq : Quiet ([at1 (key 0x2640 0x18), counterSpan] ++ domainFns) w (w.inputFault e) :=
    ((Quiet.refl w).setBit (covers_at1 (by simp)) |>.setBit (covers_at1 (by simp)) |>.count (by simp) (by omega) (by omega) (by omega)
      : Quiet _ w (w.faultShown e)).trans (State.inputFault_quiet.mono (fun k hk => ?_))
  · have hbit : ∀ i < 16, (w.inputFault e).bit' (key 0x2640 0x18) i =
        ((w.setBit (key 0x2640 0x18) e true).setBit (key 0x2640 0x18) (8 + e) true).bit' (key 0x2640 0x18) i := fun i hi =>
      (bit_of_reg (State.reg_inputFault (by decide) (by decide)) i).trans
        (State.bit_count_below _ _ _ _ _ (by omega) (by decide))
    refine leads_of (exec_encoderInputFault hw hu hm hn) ⟨?_, ?_, ?_, fun d => State.fn_inputFault d.isLt, hq.sealed⟩
    · exact (hbit e (by omega)).trans ((State.bit_setBit_beside _ _ _ _ (by omega) (by omega)).trans (State.bit_setBit_same _ _ _ (by omega)))
    · exact (hbit (8 + e) (by omega)).trans (State.bit_setBit_same _ _ _ (by omega))
    · refine (State.reg_inputFault (by decide) (by decide)).trans ((State.reg_count_same _ 0x2900 8 _ _).trans ?_)
      rw [State.reg_setBit_other _ _ _ (by decide), State.reg_setBit_other _ _ _ (by decide)]
  · rw [covers_append] at hk
    obtain ⟨hc, hf⟩ := hk
    simp only [counterSpan, covers_cons, covers_nil, and_true, at1, pages, key, Nat.reduceMul, Nat.reduceAdd] at hc
    simp only [domainFaultSpans, covers_cons, at1, key, Nat.reduceMul, Nat.reduceAdd]
    exact ⟨by omega, by omega, hf⟩

theorem encoderFaultEnd_leads (hw : w = s.wait dt) (hu : w.up = true) : Leads (.encoderFaultEnd dt e) s (fun t =>
      t.bit' (key 0x2640 0x18) e = false ∧ t.bit' (key 0x2640 0x18) (8 + e) = w.bit' (key 0x2640 0x18) (8 + e)
      ∧ OnlyRegs [at1 (key 0x2640 0x18)] w t ∧ SameMem w t) := by
  have hw16 : widthOf (key 0x2640 0x18) = 16 := rfl
  have he := e.isLt
  refine leads_of (exec_encoderFaultEnd hw hu) ⟨?_, ?_, ((Quiet.refl w).setBit (covers_at1 (by simp))).sealed⟩
  · exact State.bit_setBit_same _ _ _ (by omega)
  · exact State.bit_setBit_beside _ _ _ _ (by omega) (by omega)

/-- Settles O5: a Z edge, an input fault and its end, each by the lemma about its command. -/
theorem zEdgesAndInputFaultsAreRegistered : Obligations.ZEdgesAndInputFaultsAreRegistered :=
  ⟨fun _ _ _ _ _ hw hu hs hz => zEdge_leads hw hu hs hz, fun _ _ _ _ hw hu hm hn => encoderInputFault_leads hw hu hm hn,
   fun _ _ _ _ hw hu => encoderFaultEnd_leads hw hu⟩

end Sys2Proof.Machine
end

section
/-! The configuration of encoders, and stalls of line domains (02 R38, R46). -/
namespace Sys2Proof.Machine

set_option Elab.async false

/-! The configuration in force (R38). -/

section Config
variable {s : State} {e c : Nat}

theorem State.config_before (hc : (s.enc e).cfgAt = some c) (h : s.sclk ≤ c) :
    s.encCfg e = (s.enc e).oldCfg ∧ s.zPeriod e = (s.enc e).oldPer := by
  unfold State.encCfg State.zPeriod
  simp only [hc, if_pos h, and_self]

theorem State.config_after (hc : (s.enc e).cfgAt = some c) (h : c < s.sclk) :
    s.encCfg e = s.reg (kEnc e 1) ∧ s.zPeriod e = s.reg (kEnc e 7) := by
  unfold State.encCfg State.zPeriod
  simp only [hc, if_neg (Nat.not_le.2 h), and_self]

/-- A write keeps what was in force for the rest of its cycle. -/
theorem State.enc_actEncoder (sub m v : Nat) : (s.actEncoder e sub m v).enc e =
    { s.enc e with oldCfg := s.encCfg e, oldPer := s.zPeriod e, cfgAt := some s.sclk } := by
  unfold State.actEncoder State.putMasked
  rw [State.enc_setReg, State.enc_setEnc_same]

theorem State.actEncoder_quiet (sub m v : Nat) : Quiet [at1 (kEnc e sub)] s (s.actEncoder e sub m v) :=
  (Quiet.setEnc (Quiet.refl s)).putMasked (covers_at1 (by simp))

end Config

/-- A bit is the field of its own place. -/
theorem bit_of_bits {v x i : Nat} (h : bits v i i = bits x i i) : bit v i = bit x i := by
  unfold bits at h
  rw [Nat.add_sub_cancel_left, pow_one] at h
  unfold bit
  rw [h]

/-! The write. -/

variable {s w : State} {r : Route} {dt : Nat} {e : Fin 4} {sub : Nat} {data : Bytes}

/-- The bits of an encoder's entry that a write sets. -/
def encoderMask (sub : Nat) : Nat := if sub = 1 then 0x3FF7 else 256 ^ 4 - 1

theorem exec_encoderConfigWrite (hw : w = s.wait dt) (hsub : sub = 1 ∨ sub = 7) (ha : Accepts w r (0x2100 + e) sub data) :
    ∃ e0 e1 f, exec (.encoderConfigWrite dt r e sub data) s =
      .next (w.keepOuter ((w.withEc e0).actEncoder e sub (encoderMask sub) (leNat data)) e1 f) := by
  obtain ⟨e0, e1, f, hx⟩ := State.put_next s r dt (0x2100 + e) sub data hw ha
  have hent : entryOf (0x2100 + e) sub = some ⟨.num 4, .rws, 0, encoderMask sub⟩ := by
    rw [entryOf_encoder e.isLt]
    rcases hsub with rfl | rfl <;> rfl
  have hact : ((w.withEc e0).act r (0x2100 + e) sub data).s = (w.withEc e0).actEncoder e sub (encoderMask sub) (leNat data) := by
    rw [State.act_num _ r _ sub data hent (by simp) (by simp) (by omega), State.actNum_encoder _ r sub _ _ e.isLt]
  rw [hact] at hx
  exact ⟨e0, e1, f, hx⟩

theorem encoderConfigWrite_leads (hw : w = s.wait dt) (hsub : sub = 1 ∨ sub = 7) (hlen : data.length = 4)
    (ha : Accepts w r (0x2100 + e) sub data) : Leads (.encoderConfigWrite dt r e sub data) s (fun t =>
      (sub = 7 → t.reg (kEnc e 7) = leNat data)
      ∧ (sub = 1 → bits (t.reg (kEnc e 1)) 2 0 = bits (leNat data) 2 0 ∧ t.bit' (kEnc e 1) 8 = bit (leNat data) 8
          ∧ bits (t.reg (kEnc e 1)) 7 6 = bits (leNat data) 7 6)
      ∧ t.encCfg e = w.encCfg e ∧ t.zPeriod e = w.zPeriod e
      ∧ (∀ m, 12 * (w.sclk + 1) ≤ m → (t.atTime m).encCfg e = t.reg (kEnc e 1) ∧ (t.atTime m).zPeriod e = t.reg (kEnc e 7))
      ∧ OnlyRegs [at1 (kEnc e sub)] w t ∧ SameMem w t) := by
  obtain ⟨e0, e1, f, hx⟩ := exec_encoderConfigWrite hw hsub ha
  have henc := State.enc_actEncoder (s := w.withEc e0) (e := e) sub (encoderMask sub) (leNat data)
  have hw1 : widthOf (kEnc e 1) = 32 := widthOf_encoder e.isLt (by decide)
  have hw7 : widthOf (kEnc e 7) = 32 := widthOf_encoder e.isLt (by decide)
  have hv : leNat data < 256 ^ 4 := hlen ▸ leNat_lt data
  have hcfg : (((w.withEc e0).actEncoder e sub (encoderMask sub) (leNat data)).enc e).cfgAt = some w.sclk := congrArg EncUnit.cfgAt henc
  have hnow := State.config_before hcfg (Nat.le_refl _)
  refine leads_of hx ⟨?_, ?_, ?_, ?_, fun m hm => ?_, (State.actEncoder_quiet sub _ _).keepOuter⟩
  · rintro rfl
    exact State.reg_putMasked_all _ hw7 (by omega) hv
  · rintro rfl
    refine ⟨?_, bit_of_bits ?_, ?_⟩ <;> exact State.field_putMasked _ (by omega) (by omega) (by decide)
  · exact hnow.1.trans (congrArg EncUnit.oldCfg henc)
  · exact hnow.2.trans (congrArg EncUnit.oldPer henc)
  · exact State.config_after (s := (State.keepOuter w ((w.withEc e0).actEncoder e sub (encoderMask sub) (leNat data)) e1 f).atTime m)
      hcfg (by show w.sclk < m / 12; omega)

/-! Stalls (R46). -/

variable {d : Fin 4}

theorem exec_stall (hw : w = s.wait dt) (hu : w.up = true) (hd : w.stallDue d = true) :
    exec (.stall dt d) s = .next (w.sealed (w.stalls d)) := by
  rw [exec_during rfl hw hu, if_pos hd]

theorem stall_leads (hw : w = s.wait dt) (hu : w.up = true) (hd : w.stallDue d = true) : Leads (.stall dt d) s (fun t =>
      t.bit' (key (0x2108 + d) 0x0A) 0 = true ∧ t.reg (key (0x2108 + d) 7) = 0xFFFFFFFF ∧ t.reg (key (0x2108 + d) 8) = 0
      ∧ (t.domain d).stallDue = none ∧ t.Raised (evStall d) w.sclk
      ∧ OnlyRegs [at1 (key (0x2108 + d) 7), at1 (key (0x2108 + d) 8), at1 (key (0x2108 + d) 0x0A)] w t ∧ SameMem w t) := by
  have hwA : widthOf (key (0x2108 + d) 0x0A) = 16 := widthOf_domain d.isLt (by decide)
  have hw7 : widthOf (key (0x2108 + d) 7) = 32 := widthOf_domain d.isLt (by decide)
  have hreg : ∀ k, (w.stalls d).reg k = ((((w.setDomain d { w.domain d with stallDue := none }).setBit (key (0x2108 + d) 0x0A) 0 true).setReg
      (key (0x2108 + d) 7) 0xFFFFFFFF).setReg (key (0x2108 + d) 8) 0).reg k := fun k => State.reg_raiseAt _ _ _ _ _
  refine leads_of (exec_stall hw hu hd) ⟨?_, ?_, ?_, ?_, ?_, (State.stalls_moves w d).sealed⟩
  · rw [State.bit_sealed, bit_of_reg (hreg _), State.bit_setReg_other _ _ _ (key_ne_sub (by decide)),
      State.bit_setReg_other _ _ _ (key_ne_sub (by decide)), State.bit_setBit_same _ _ _ (by omega)]
  · rw [State.sealed_reg, hreg, State.reg_setReg_other _ _ (key_ne_sub (by decide)), State.reg_setReg_same, hw7]
    rfl
  · rw [State.sealed_reg, hreg, State.reg_setReg_same, Nat.zero_mod]
  · exact congrArg DomUnit.stallDue (State.domain_stalls w d)
  · exact State.raise_raised _ (evStall d) _ rfl (by unfold evStall; omega)

/-- Settles O6: a write of an encoder's configuration, and a stall, each by the lemma about its command. -/
theorem encoderWritesAndStallsTakeEffect : Obligations.EncoderWritesAndStallsTakeEffect :=
  ⟨fun _ _ _ _ _ _ _ hw hsub hlen ha => encoderConfigWrite_leads hw hsub hlen ha, fun _ _ _ _ hw hu hd => stall_leads hw hu hd⟩

end Sys2Proof.Machine
end

section
/-! Timers and slack (02 R65, R66, R68). -/
namespace Sys2Proof.Machine

set_option Elab.async false

/-- A value of `n` bytes that fits them reads back. -/
theorem leNat_leBytes_lt {n v : Nat} (h : v < 256 ^ n) : leNat (leBytes n v) = v := by
  rw [leNat_leBytes, Nat.mod_eq_of_lt h]

/-! Loads (R65). -/

section Load
variable {s : State} {x c : Nat}

theorem State.perform_timerLoad_on (h : s.timerOn x = true) : s.perform (.timerLoad x) = s.loadTimer x s.sclk := if_pos h

theorem State.perform_timerLoad_off (h : s.timerOn x = false) : s.perform (.timerLoad x) = s := if_neg (by rw [h]; decide)

/-- A load starts the timer's run; a run before it that had not reached zero leaves nothing owed. -/
theorem State.timer_loadTimer : ∃ o, (s.loadTimer x c).timer x =
      { running := true, loadedAt := c, due := c + s.reg (key 0x2180 (0x11 + x)), left := s.reg (key 0x2180 (0x11 + x)),
        zeroAt := none, owed := o }
    ∧ ((s.timer x).owed = none → (∀ z, s.timerZero x = some z → c < z) → o = none) := by
  unfold State.loadTimer State.reloadTimer
  refine ⟨_, State.timer_setTimer_same _ _ _, fun ho hz => ?_⟩
  rw [State.timer_setTimer_same]
  dsimp only
  split
  next z hs =>
    rw [if_neg (Nat.not_le.2 (hz z hs))]
    exact ho
  next => exact ho

end Load

/-! Events delivered (R53, R66). -/

section Deliver
variable {s : State} {x : Nat}

/-- The consumers of an event reach no counter. -/
theorem State.counter_event {src c sub : Nat} (h : sub < 256) : (s.event src c).reg (key 0x2900 sub) = s.reg (key 0x2900 sub) :=
  (State.event_quiet s src c).regs _ (by
    simp only [eventSpans, covers_cons, covers_nil, and_true, pages, key, Nat.reduceMul, Nat.reduceAdd]
    omega)

theorem State.deliver_timer (hx : x < 16) (late : Bool) :
    s.perform (.source (evTimer x) late) = (s.event (evTimer x) s.sclk).timerTell x := by
  have h1 : ¬within (evTimer x) 0x040 0x05F = true := not_within (by unfold evTimer; omega)
  have h2 : within (evTimer x) 0x0E0 0x0EF = true := within_of (by unfold evTimer; omega)
  show s.deliverEvent (evTimer x) late = _
  unfold State.deliverEvent
  simp only [h1, h2, Bool.false_eq_true, if_false, if_true]
  rw [show evTimer x - 0x0E0 = x by unfold evTimer; omega]

theorem State.expiries_timerTell : (s.timerTell x).reg (key 0x2900 7) = satAdd 32 (s.reg (key 0x2900 7)) 1 := by
  unfold State.timerTell
  dsimp only
  split_ifs
  · rw [State.reg_report_other _ _ (by decide) (by decide), State.reg_count_same _ 0x2900 7]
  · rw [State.reg_count_same _ 0x2900 7]

end Deliver

/-! Slack (R68). -/

section Slack
variable {s : State} {j : Nat}

/-- The slack of one job. -/
def State.slackJob (j : Nat) (s : State) : State :=
  if s.bit' (key (0x2510 + j) 8) 31 then
    match s.jobDom j with
    | some d => s.setReg (key (0x2510 + j) 6) (s.slackOf d (s.reg (key (0x2510 + j) 7)))
    | none => s
  else s.setReg (key (0x2510 + j) 6) 0xFFFFFFFF

theorem State.refreshSlack_eq : s.refreshSlack = forEach (upTo 64) { s with slackAt := some s.sclk } State.slackJob := rfl

def slackSpans : Spans := (upTo 64).map (fun j => at1 (key (0x2510 + j) 6))

theorem State.slackJob_published {d : Nat} (h : s.bit' (key (0x2510 + j) 8) 31 = true) (hd : s.jobDom j = some d) :
    State.slackJob j s = s.setReg (key (0x2510 + j) 6) (s.slackOf d (s.reg (key (0x2510 + j) 7))) := by
  unfold State.slackJob
  rw [if_pos h, hd]

theorem State.slackJob_noDomain (h : s.bit' (key (0x2510 + j) 8) 31 = true) (hd : s.jobDom j = none) : State.slackJob j s = s := by
  unfold State.slackJob
  rw [if_pos h, hd]

theorem State.slackJob_none (h : s.bit' (key (0x2510 + j) 8) 31 = false) :
    State.slackJob j s = s.setReg (key (0x2510 + j) 6) 0xFFFFFFFF := by
  unfold State.slackJob
  rw [if_neg (by rw [h]; decide)]

/-- A job's slack changes its own register alone. -/
theorem State.slackJob_put : State.slackJob j s = s ∨ ∃ v, State.slackJob j s = s.setReg (key (0x2510 + j) 6) v := by
  cases h : s.bit' (key (0x2510 + j) 8) 31 with
  | true =>
    cases hd : s.jobDom j with
    | some d => exact .inr ⟨_, State.slackJob_published h hd⟩
    | none => exact .inl (State.slackJob_noDomain h hd)
  | false => exact .inr ⟨_, State.slackJob_none h⟩

theorem State.reg_slackJob {k : Nat} (hk : k ≠ key (0x2510 + j) 6) : (State.slackJob j s).reg k = s.reg k := by
  obtain h | ⟨v, h⟩ := State.slackJob_put (s := s) (j := j)
  · rw [h]
  · rw [h, State.reg_setReg_other _ _ hk]

theorem State.slackJob_keeps {γ : Type} (g : State → γ) (hg : ∀ (u : State) k v, g (u.setReg k v) = g u) : g (State.slackJob j s) = g s := by
  obtain h | ⟨v, h⟩ := State.slackJob_put (s := s) (j := j)
  · rw [h]
  · rw [h, hg]

theorem State.slackJob_quiet (hj : j < 64) : Quiet slackSpans s (State.slackJob j s) := by
  obtain h | ⟨v, h⟩ := State.slackJob_put (s := s) (j := j)
  · rw [h]
    exact Quiet.refl s
  · rw [h]
    exact (Quiet.refl s).setReg (covers_at1 (List.mem_map_of_mem (mem_upTo hj)))

theorem State.refreshSlack_quiet : Quiet slackSpans s s.refreshSlack := by
  have h0 : Quiet slackSpans s { s with slackAt := some s.sclk } := ⟨fun _ _ => rfl, rfl⟩
  rw [State.refreshSlack_eq]
  exact Quiet.forEach (fun j hj u => State.slackJob_quiet (lt_of_upTo hj)) h0

theorem State.refreshSlack_keeps {γ : Type} (g : State → γ) (hg : ∀ (u : State) k v, g (u.setReg k v) = g u) :
    g s.refreshSlack = g { s with slackAt := some s.sclk } := by
  rw [State.refreshSlack_eq]
  exact forEach_same g _ (fun j u => State.slackJob_keeps g hg) _ _

theorem State.slackAt_refreshSlack : s.refreshSlack.slackAt = some s.sclk := State.refreshSlack_keeps (·.slackAt) (fun _ _ _ => rfl)

/-- The next refresh is 64 SCLK away. -/
theorem State.slackDue_refreshSlack : s.refreshSlack.slackDue = false := by
  have ht : s.refreshSlack.sclk = s.sclk := State.refreshSlack_keeps (·.sclk) (fun _ _ _ => rfl)
  unfold State.slackDue
  rw [State.slackAt_refreshSlack, ht]
  exact decide_eq_false (by omega)

/-- What slack is reckoned from: every register but the slacks, and the jobs' images. -/
def SlackInputs (s u : State) : Prop := (∀ i x, x ≠ 6 → x < 256 → u.reg (key i x) = s.reg (key i x)) ∧ u.images = s.images

theorem SlackInputs.slackOf {s u : State} (h : SlackInputs s u) (d l : Nat) : u.slackOf d l = s.slackOf d l := by
  have hb : u.bit' (key (0x2108 + d) 0x0A) 0 = s.bit' (key (0x2108 + d) 0x0A) 0 := bit_of_reg (h.1 _ _ (by decide) (by decide)) 0
  have hh : u.hpos d = s.hpos d := h.1 _ _ (by decide) (by decide)
  unfold State.slackOf
  dsimp only
  rw [hb, hh, h.1 _ 7 (by decide) (by decide)]

theorem SlackInputs.jobDom {s u : State} (h : SlackInputs s u) : u.jobDom j = s.jobDom j := by
  unfold State.jobDom State.image
  rw [h.2]

theorem SlackInputs.slackJob {s u : State} (h : SlackInputs s u) (i : Nat) : SlackInputs s (State.slackJob i u) :=
  ⟨fun k x h6 hx => (State.reg_slackJob (key_ne_sub h6 hx)).trans (h.1 k x h6 hx),
   (State.slackJob_keeps (·.images) (fun _ _ _ => rfl)).trans h.2⟩

/-- A job's slack is what its own turn leaves, reckoned from the state before all turns. -/
theorem State.reg_refreshSlack (hj : j < 64) (q : Nat → Prop) (hold : ∀ u : State, SlackInputs s u →
    u.reg (key (0x2510 + j) 6) = s.reg (key (0x2510 + j) 6) → q ((State.slackJob j u).reg (key (0x2510 + j) 6))) :
    q (s.refreshSlack.reg (key (0x2510 + j) 6)) := by
  rw [State.refreshSlack_eq]
  have hne : ∀ y, y ≠ j → key (0x2510 + j) 6 ≠ key (0x2510 + y) 6 := fun y hy => key_ne_index (by omega)
  refine forEach_at (p := fun u : State => SlackInputs s u ∧ u.reg (key (0x2510 + j) 6) = s.reg (key (0x2510 + j) 6))
    (q := fun u : State => q (u.reg (key (0x2510 + j) 6))) (mem_upTo hj) (upTo_nodup 64) ⟨⟨fun _ _ _ _ => rfl, rfl⟩, rfl⟩
    (fun y _ hy u hu => ?_) (fun u hu => hold u hu.1 hu.2) (fun y _ hy u hu => ?_)
  · exact ⟨hu.1.slackJob y, (State.reg_slackJob (hne y hy)).trans hu.2⟩
  · rwa [State.reg_slackJob (hne y hy)]

theorem State.slackOf_lt (d l : Nat) : s.slackOf d l < 2 ^ 32 := by
  unfold State.slackOf
  simp only []
  split_ifs <;> omega

end Slack

/-! The commands. -/

variable {s w : State} {r : Route} {dt : Nat} {x : Fin 16} {v : BitVec 32}

theorem entryOf_timerLoad : entryOf 0x2180 (0x11 + x) = some (eRW 4 1) := by
  have hx := x.isLt
  show od2180 (0x11 + x) = _
  unfold od2180
  rw [if_neg (by omega), if_neg (not_within (by omega)), if_pos (within_of (by omega))]

/-- The value is stored, and the load waits for the next cycle. -/
theorem exec_timerLoadWrite (hw : w = s.wait dt) (ha : Accepts w r 0x2180 (0x11 + x) (leBytes 4 v.toNat)) :
    ∃ e0 e1 f, exec (.timerLoadWrite dt r x v) s = .next (w.keepOuter
      (((w.withEc e0).putMasked (key 0x2180 (0x11 + x)) (256 ^ 4 - 1) v.toNat).opens (w.sclk + 1) (.timerLoad x)) e1 f) := by
  have hx := x.isLt
  obtain ⟨e0, e1, f, h⟩ := State.put_next s r dt 0x2180 (0x11 + x) (leBytes 4 v.toNat) hw ha
  have hact : ((w.withEc e0).act r 0x2180 (0x11 + x) (leBytes 4 v.toNat)).s =
      ((w.withEc e0).putMasked (key 0x2180 (0x11 + x)) (256 ^ 4 - 1) v.toNat).opens (w.sclk + 1) (.timerLoad x) := by
    rw [State.act_num _ r _ _ _ entryOf_timerLoad (by simp [eRW]) (by simp [eRW]) (by decide), State.actNum_timer,
      leNat_leBytes_lt v.isLt]
    show State.afterTimer _ _ = _
    unfold State.afterTimer
    rw [if_pos (within_of (by omega)), Nat.add_sub_cancel_left]
    rfl
  rw [hact] at h
  exact ⟨e0, e1, f, h⟩

theorem timerLoadWrite_leads (hw : w = s.wait dt) (ha : Accepts w r 0x2180 (0x11 + x) (leBytes 4 v.toNat)) :
    Leads (.timerLoadWrite dt r x v) s (fun t =>
      t.reg (key 0x2180 (0x11 + x)) = v.toNat ∧ t.timers = w.timers ∧ t.OpensWith (w.sclk + 1) (.timerLoad x)
      ∧ OnlyRegs [at1 (key 0x2180 (0x11 + x))] w t ∧ SameMem w t) := by
  obtain ⟨e0, e1, f, h⟩ := exec_timerLoadWrite hw ha
  have hwid : widthOf (key 0x2180 (0x11 + x)) = 32 := widthOf_key entryOf_timerLoad rfl (by omega)
  refine leads_of h ⟨?_, rfl, State.opens_with _ _ _, Quiet.keepOuter (Quiet.opens ((Quiet.refl _).putMasked (covers_at1 (by simp))))⟩
  exact State.reg_putMasked_all _ hwid (by omega) v.isLt

/-- A load that comes due. -/
theorem timerLoad_performs {t : State} (ht : t = s.perform (.timerLoad x)) :
    (s.timerOn x = false → t = s)
    ∧ (s.timerOn x = true → (t.timer x).running = true ∧ (t.timer x).loadedAt = s.sclk
        ∧ (t.timer x).due = s.sclk + s.reg (key 0x2180 (0x11 + x)) ∧ (t.timer x).left = s.reg (key 0x2180 (0x11 + x))
        ∧ (t.timer x).zeroAt = none
        ∧ ((s.timer x).owed = none → (∀ z, s.timerZero x = some z → s.sclk < z) → (t.timer x).owed = none))
    ∧ OnlyRegs [] s t ∧ SameMem s t := by
  subst ht
  cases ho : s.timerOn x with
  | false =>
    rw [State.perform_timerLoad_off ho]
    exact ⟨fun _ => rfl, nofun, fun _ _ => rfl, (Quiet.refl (rs := []) s).mem⟩
  | true =>
    have hq : Quiet [] s (s.loadTimer x s.sclk) := State.loadTimer_quiet s x s.sclk
    obtain ⟨o, hl, hz⟩ := State.timer_loadTimer (s := s) (x := x) (c := s.sclk)
    rw [State.perform_timerLoad_on ho, hl]
    exact ⟨nofun, fun _ => ⟨rfl, rfl, rfl, rfl, rfl, hz⟩, hq.regs, hq.mem⟩

theorem exec_timerExpiry (hw : w = s.wait dt) (hu : w.up = true) (he : w.timerExpired x = true) :
    exec (.timerExpiry dt x) s = .next (w.sealed (w.expireTimer x)) := by
  rw [exec_during rfl hw hu, if_pos he]

theorem timerExpiry_leads (hw : w = s.wait dt) (hu : w.up = true) (he : w.timerExpired x = true) :
    Leads (.timerExpiry dt x) s (fun t =>
      t.timer x = (if (w.timer x).owed.isSome then { w.timer x with owed := none } else {})
      ∧ t.Raised (evTimer x) w.sclk ∧ OnlyRegs [] w t ∧ SameMem w t) := by
  refine leads_of (exec_timerExpiry hw hu he) ⟨?_, ?_, (Quiet.raiseAt (Quiet.setTimer (Quiet.refl w))).sealed⟩
  · exact (State.timer_raiseAt _ _ _ _ _).trans (State.timer_setTimer_same _ _ _)
  · exact State.raise_raised _ (evTimer x) _ rfl (by unfold evTimer; omega)

theorem exec_slackRefresh (hw : w = s.wait dt) (hu : w.up = true) (hd : w.slackDue = true) :
    exec (.slackRefresh dt) s = .next (w.sealed w.refreshSlack) := by
  rw [exec_during rfl hw hu, if_pos hd]

theorem slackRefresh_leads (hw : w = s.wait dt) (hu : w.up = true) (hd : w.slackDue = true) : Leads (.slackRefresh dt) s (fun t =>
      (∀ (j : Fin 64) (d : Nat), w.bit' (key (0x2510 + j) 8) 31 = true → w.jobDom j = some d → t.reg (key (0x2510 + j) 6) =
        (if w.bit' (key (0x2108 + d) 0x0A) 0 then 0xFFFFFFFF
         else if reached (w.hpos d) (w.reg (key (0x2510 + j) 7)) then 0
         else min 0xFFFFFFFF ((w.reg (key (0x2510 + j) 7) + 2 ^ 48 - w.hpos d) % 2 ^ 48 * w.reg (key (0x2108 + d) 7) / 16)))
      ∧ (∀ j : Fin 64, w.bit' (key (0x2510 + j) 8) 31 = false → t.reg (key (0x2510 + j) 6) = 0xFFFFFFFF)
      ∧ (∀ j : Fin 64, w.bit' (key (0x2510 + j) 8) 31 = true → w.jobDom j = none →
          t.reg (key (0x2510 + j) 6) = w.reg (key (0x2510 + j) 6))
      ∧ t.slackAt = some w.sclk ∧ t.slackDue = false
      ∧ OnlyRegs ((upTo 64).map (fun j => at1 (key (0x2510 + j) 6))) w t ∧ SameMem w t) := by
  have hwid : ∀ j : Fin 64, widthOf (key (0x2510 + j) 6) = 32 := fun j => widthOf_job j.isLt (by decide)
  have hpub : ∀ (u : State) (j : Fin 64), SlackInputs w u → u.bit' (key (0x2510 + j) 8) 31 = w.bit' (key (0x2510 + j) 8) 31 :=
    fun u j hi => bit_of_reg (hi.1 _ _ (by decide) (by decide)) 31
  refine leads_of (exec_slackRefresh hw hu hd) ⟨fun j d hb hj => ?_, fun j hb => ?_, fun j hb hj => ?_, ?_, ?_,
    State.refreshSlack_quiet.sealed⟩
  · refine State.reg_refreshSlack j.isLt (fun v => v = w.slackOf d (w.reg (key (0x2510 + j) 7))) (fun u hi _ => ?_)
    rw [State.slackJob_published ((hpub u j hi).trans hb) (hi.jobDom.trans hj), State.reg_setReg_same, hwid j, hi.slackOf,
      hi.1 _ 7 (by decide) (by decide), Nat.mod_eq_of_lt (State.slackOf_lt _ _)]
  · refine State.reg_refreshSlack j.isLt (fun v => v = 0xFFFFFFFF) (fun u hi _ => ?_)
    rw [State.slackJob_none ((hpub u j hi).trans hb), State.reg_setReg_same, hwid j]
    rfl
  · refine State.reg_refreshSlack j.isLt (fun v => v = w.reg (key (0x2510 + j) 6)) (fun u hi h6 => ?_)
    rw [State.slackJob_noDomain ((hpub u j hi).trans hb) (hi.jobDom.trans hj), h6]
  · exact State.slackAt_refreshSlack
  · exact State.slackDue_refreshSlack

/-- Settles O9: loads written and due, expiries and their count, and the refresh of slack. -/
theorem timersAndSlackAreServed : Obligations.TimersAndSlackAreServed :=
  ⟨fun _ _ _ _ _ _ hw ha => timerLoadWrite_leads hw ha, fun _ _ _ ht => timerLoad_performs ht,
   fun _ _ _ _ hw hu he => timerExpiry_leads hw hu he,
   fun s x late => by rw [State.deliver_timer x.isLt, State.expiries_timerTell, State.counter_event (by decide)],
   fun _ _ _ hw hu hd => slackRefresh_leads hw hu hd⟩

end Sys2Proof.Machine
end

section
/-! Compare channels (02 R54 to R56). -/
namespace Sys2Proof.Machine

set_option Elab.async false

/-! Matches (R54, R55). -/

section Match
variable {s : State} {n c : Nat} {late : Bool}

def cmpSpans (n : Nat) : Spans := [(kCmp n 2, kCmp n 7)]

theorem cmp_covers {x : Nat} (h2 : 2 ≤ x) (h7 : x ≤ 7) : covers (cmpSpans n) (kCmp n x) = true := by
  refine covers_of (r := (kCmp n 2, kCmp n 7)) (by simp [cmpSpans]) ?_ ?_ <;> simp only [kCmp, key] <;> omega

/-- The count, LPOS, LATE and ARMED of a match, before the channel goes on to its next value. -/
def State.matchShown (s : State) (n : Nat) (late : Bool) : State :=
  (((s.setReg (kCmp n 7) (s.lpos (s.cmpDom n))).addReg (kCmp n 6) 1).setBit (kCmp n 5) 1 late).setBit (kCmp n 5) 0
    (s.reg (kCmp n 3) != 0)

theorem State.matchRegs_eq : s.matchRegs n late = (if s.reg (kCmp n 3) = 0 then s.matchShown n late
    else (s.matchShown n late).setReg (kCmp n 2) (posAdd ((s.matchShown n late).reg (kCmp n 2)) (s.reg (kCmp n 3)))) := rfl

theorem State.matchShown_quiet : Quiet (cmpSpans n) s (s.matchShown n late) :=
  (((Quiet.refl s).setReg (cmp_covers (by omega) (by omega))).setReg (cmp_covers (by omega) (by omega))
    |>.setBit (cmp_covers (by omega) (by omega))).setBit (cmp_covers (by omega) (by omega))

theorem State.matchRegs_quiet : Quiet (cmpSpans n) s (s.matchRegs n late) := by
  rw [State.matchRegs_eq]
  exact Quiet.ite State.matchShown_quiet (State.matchShown_quiet.setReg (cmp_covers (by omega) (by omega)))

/-- Beside its value, what a match shows stays as the channel goes on. -/
theorem State.reg_matchRegs {x : Nat} (h2 : x ≠ 2) (hx : x < 256) :
    (s.matchRegs n late).reg (kCmp n x) = (s.matchShown n late).reg (kCmp n x) := by
  rw [State.matchRegs_eq]
  split_ifs
  · rfl
  · exact State.reg_setReg_other _ _ (kCmp_ne_sub h2 hx)

theorem State.reg_matchShown {x : Nat} (h5 : x ≠ 5) (h6 : x ≠ 6) (h7 : x ≠ 7) (hx : x < 256) :
    (s.matchShown n late).reg (kCmp n x) = s.reg (kCmp n x) := by
  unfold State.matchShown
  rw [State.reg_setBit_other _ _ _ (kCmp_ne_sub h5 hx), State.reg_setBit_other _ _ _ (kCmp_ne_sub h5 hx),
    State.reg_addReg_other _ _ (kCmp_ne_sub h6 hx), State.reg_setReg_other _ _ (kCmp_ne_sub h7 hx)]

theorem State.lpos_matchShown (hn : n < 32) : (s.matchShown n late).reg (kCmp n 7) = s.lpos (s.cmpDom n) % 2 ^ 48 := by
  have hw : widthOf (kCmp n 7) = 48 := widthOf_compare hn (by decide)
  unfold State.matchShown
  rw [State.reg_setBit_other _ _ _ (kCmp_ne_sub (by decide)), State.reg_setBit_other _ _ _ (kCmp_ne_sub (by decide)),
    State.reg_addReg_other _ _ (kCmp_ne_sub (by decide)), State.reg_setReg_same, hw]

theorem State.matches_matchShown (hn : n < 32) : (s.matchShown n late).reg (kCmp n 6) = satAdd 32 (s.reg (kCmp n 6)) 1 := by
  have hw : widthOf (kCmp n 6) = 32 := widthOf_compare hn (by decide)
  unfold State.matchShown
  rw [State.reg_setBit_other _ _ _ (kCmp_ne_sub (by decide)), State.reg_setBit_other _ _ _ (kCmp_ne_sub (by decide)),
    State.reg_addReg_same, hw, State.reg_setReg_other _ _ (kCmp_ne_sub (by decide)), Nat.mod_eq_of_lt (satAdd_lt _ _ _)]

theorem State.flags_matchShown (hn : n < 32) : (s.matchShown n late).bit' (kCmp n 5) 1 = late
    ∧ (s.matchShown n late).cmpArmed n = (s.reg (kCmp n 3) != 0) := by
  have hw : widthOf (kCmp n 5) = 16 := widthOf_compare hn (by decide)
  unfold State.matchShown State.cmpArmed
  rw [State.bit_setBit_beside _ _ _ _ (by omega) (by omega), State.bit_setBit_same _ _ _ (by omega), State.bit_setBit_same _ _ _ (by omega)]
  exact ⟨rfl, rfl⟩

theorem State.value_matchRegs (hn : n < 32) : (s.matchRegs n late).reg (kCmp n 2) =
    (if s.reg (kCmp n 3) = 0 then s.reg (kCmp n 2) else posAdd (s.reg (kCmp n 2)) (s.reg (kCmp n 3))) := by
  have hw : widthOf (kCmp n 2) = 48 := widthOf_compare hn (by decide)
  have h2 : (s.matchShown n late).reg (kCmp n 2) = s.reg (kCmp n 2) :=
    State.reg_matchShown (by decide) (by decide) (by decide) (by decide)
  rw [State.matchRegs_eq]
  split_ifs
  · exact h2
  · rw [State.reg_setReg_same, hw, h2, Nat.mod_eq_of_lt (posAdd_lt _ _)]

/-- A match with its event, which waits for the close of the cycle. -/
def State.matched (s : State) (n c : Nat) (late : Bool) : State :=
  ((s.matchRegs n late).setCmp n { matchAt := some c }).raiseAt (evMatch n) c late

theorem State.judgeCmp_due (h : s.cmpDue n c = true) : s.judgeCmp n c late = s.matched n c late
    ∨ s.judgeCmp n c late = (s.matched n c late).closes (c + 1) 0 (.cmpJudge n true) := by
  unfold State.judgeCmp
  rw [if_pos h]
  dsimp only
  split_ifs
  · exact .inr rfl
  · exact .inl rfl

/-- A channel that is due matches (R54, R55). -/
theorem State.judgeCmp_matched (hn : n < 32) (h : s.cmpDue n s.sclk = true) : Matched s (s.judgeCmp n s.sclk late) n late := by
  have hq : Quiet (cmpSpans n) s (s.matched n s.sclk late) := by
    have hr := State.matchRegs_quiet (s := s) (n := n) (late := late)
    exact Quiet.raiseAt (t := (s.matchRegs n late).setCmp n { matchAt := some s.sclk }) ⟨hr.regs, hr.rest⟩
  have hr : (s.matched n s.sclk late).Raised (evMatch n) s.sclk late := State.raiseAt_raised _ _ _ _ (by unfold evMatch; omega)
  have hreg : ∀ k, (s.matched n s.sclk late).reg k = (s.matchRegs n late).reg k := fun k => State.reg_raiseAt _ _ _ _ _
  obtain ⟨h1, h0⟩ := State.flags_matchShown (s := s) (n := n) (late := late) hn
  have hflag : ∀ i, (s.matched n s.sclk late).bit' (kCmp n 5) i = (s.matchShown n late).bit' (kCmp n 5) i := fun i =>
    bit_of_reg ((hreg _).trans (State.reg_matchRegs (by decide) (by decide))) i
  have hm : Matched s (s.matched n s.sclk late) n late := by
    refine ⟨?_, ?_, (hflag 1).trans h1, (hflag 0).trans h0, (hreg _).trans (State.value_matchRegs hn), hr, hq.regs, hq.mem⟩
    · rw [hreg, State.reg_matchRegs (by decide) (by decide), State.lpos_matchShown hn]
    · rw [hreg, State.reg_matchRegs (by decide) (by decide), State.matches_matchShown hn]
  obtain hj | hj := State.judgeCmp_due (late := late) h
  · rw [hj]
    exact hm
  · rw [hj]
    obtain ⟨h7, h6, hl, ha, h2, -, -, -⟩ := hm
    exact ⟨h7, h6, hl, ha, h2, State.keeps_closes _ _ _ _ _ hr, hq.closes.regs, hq.closes.mem⟩

/-- What a match tells reaches no counter of late matches. -/
theorem State.reg_matchTell {k : Nat} (h5 : k ≠ key 0x2904 5) (h6 : k ≠ key 0x2904 6) : (s.matchTell n).reg k = s.reg k := by
  have hr : ∀ x, (s.report x).reg k = s.reg k := fun x => State.reg_report_other _ _ h5 h6
  unfold State.matchTell
  dsimp only
  split_ifs
  · exact hr _
  · rfl
  · exact hr _
  · rfl

theorem State.deliver_lateMatch (hn : n < 32) : ∃ l, s.perform (.source (evMatch n) true) =
    ((s.event (evMatch n) s.sclk).count 0x2900 5 0 l).matchTell n := by
  have h1 : within (evMatch n) 0x040 0x05F = true := within_of (by unfold evMatch; omega)
  have h2 : evMatch n - 0x040 = n := by unfold evMatch; omega
  refine ⟨some ((s.event (evMatch n) s.sclk).cmpDom n, (s.event (evMatch n) s.sclk).lpos ((s.event (evMatch n) s.sclk).cmpDom n)), ?_⟩
  show s.deliverEvent (evMatch n) true = _
  unfold State.deliverEvent
  simp only [h1, h2, if_true]

/-- A late match is counted (R54). -/
theorem State.late_counted (hn : n < 32) :
    (s.perform (.source (evMatch n) true)).reg (key 0x2900 5) = satAdd 32 (s.reg (key 0x2900 5)) 1 := by
  obtain ⟨l, h⟩ := State.deliver_lateMatch (s := s) hn
  rw [h, State.reg_matchTell (by decide) (by decide), State.reg_count_same _ 0x2900 5, State.counter_event (by decide)]

end Match

/-! ARM, DISARM and values (R56). -/

section Arm
variable {s t : State} {n : Nat}

theorem State.armCmp_armed (hn : n < 32) (c : Nat) : (s.armCmp n c).cmpArmed n = true
    ∧ (reached (s.hpos (s.cmpDom n)) (s.reg (kCmp n 2)) = true → (s.armCmp n c).ClosesWith c 0 (.cmpJudge n true))
    ∧ Quiet [at1 (kCmp n 5)] s (s.armCmp n c) ∧ (s.armCmp n c).reg (kCmp n 2) = s.reg (kCmp n 2) := by
  have hw : widthOf (kCmp n 5) = 16 := widthOf_compare hn (by decide)
  have hq : Quiet [at1 (kCmp n 5)] s (s.setBit (kCmp n 5) 0 true) := (Quiet.refl s).setBit (covers_at1 (by simp))
  have ha : (s.setBit (kCmp n 5) 0 true).cmpArmed n = true := State.bit_setBit_same _ _ _ (by omega)
  have h2 : (s.setBit (kCmp n 5) 0 true).reg (kCmp n 2) = s.reg (kCmp n 2) := State.reg_setBit_other _ _ _ (kCmp_ne_sub (by decide))
  have hd : (s.setBit (kCmp n 5) 0 true).cmpDom n = s.cmpDom n :=
    field_of_reg (State.reg_setBit_other _ _ _ (kCmp_ne_sub (by decide))) 1 0
  have hh : (s.setBit (kCmp n 5) 0 true).hpos (s.cmpDom n) = s.hpos (s.cmpDom n) :=
    State.reg_setBit_other _ _ _ (key_ne_sub (by decide))
  unfold State.armCmp
  dsimp only
  rw [hd, hh, h2]
  split_ifs with hr
  · exact ⟨ha, fun _ => State.closes_with _ _ _ _, hq.closes, h2⟩
  · exact ⟨ha, fun h => absurd h hr, hq, h2⟩

theorem cmpArm_performs (hn : n < 32) (ht : t = s.perform (.cmpArm n)) : t.cmpArmed n = true
    ∧ (reached (s.hpos (s.cmpDom n)) (s.reg (kCmp n 2)) = true → t.ClosesWith s.sclk 0 (.cmpJudge n true))
    ∧ OnlyRegs [at1 (kCmp n 5)] s t ∧ SameMem s t := by
  subst ht
  obtain ⟨ha, hc, hq, -⟩ := State.armCmp_armed (s := s) hn s.sclk
  exact ⟨ha, hc, hq.regs, hq.mem⟩

theorem cmpDisarm_performs (hn : n < 32) (ht : t = s.perform (.cmpDisarm n)) : t.cmpArmed n = false
    ∧ OnlyRegs [at1 (kCmp n 5)] s t ∧ SameMem s t := by
  have hw : widthOf (kCmp n 5) = 16 := widthOf_compare hn (by decide)
  have hq : Quiet [at1 (kCmp n 5)] s (s.setBit (kCmp n 5) 0 false) := (Quiet.refl s).setBit (covers_at1 (by simp))
  subst ht
  exact ⟨State.bit_setBit_same _ _ _ (by omega), hq.regs, hq.mem⟩

theorem cmpValue_performs {v : Nat} (hn : n < 32) (ht : t = s.perform (.cmpValue n v)) (hv : v < 2 ^ 48) :
    t.reg (kCmp n 2) = v ∧ t.cmpArmed n = s.cmpArmed n
    ∧ (s.cmpArmed n = true → reached (s.hpos (s.cmpDom n)) v = true → t.ClosesWith s.sclk 0 (.cmpJudge n true))
    ∧ OnlyRegs [at1 (kCmp n 2), at1 (kCmp n 5)] s t ∧ SameMem s t := by
  have hw : widthOf (kCmp n 2) = 48 := widthOf_compare hn (by decide)
  have h2 : (s.setReg (kCmp n 2) v).reg (kCmp n 2) = v := by rw [State.reg_setReg_same, hw, Nat.mod_eq_of_lt hv]
  have ha : (s.setReg (kCmp n 2) v).cmpArmed n = s.cmpArmed n := State.bit_setReg_other _ _ _ (kCmp_ne_sub (by decide))
  have hd : (s.setReg (kCmp n 2) v).cmpDom n = s.cmpDom n :=
    field_of_reg (State.reg_setReg_other _ _ (kCmp_ne_sub (by decide))) 1 0
  have hh : (s.setReg (kCmp n 2) v).hpos (s.cmpDom n) = s.hpos (s.cmpDom n) := State.reg_setReg_other _ _ (key_ne_sub (by decide))
  have hq : Quiet [at1 (kCmp n 2), at1 (kCmp n 5)] s (s.setReg (kCmp n 2) v) := (Quiet.refl s).setReg (covers_at1 (by simp))
  have ht' : t = if (s.setReg (kCmp n 2) v).cmpArmed n then (s.setReg (kCmp n 2) v).armCmp n s.sclk else s.setReg (kCmp n 2) v := ht
  rw [ha] at ht'
  obtain ⟨harm, hc, hqa, hv2⟩ := State.armCmp_armed (s := s.setReg (kCmp n 2) v) hn s.sclk
  rw [hd, hh, h2] at hc
  have hqt := hq.trans (hqa.sub (rs' := [at1 (kCmp n 2), at1 (kCmp n 5)]) (by simp))
  subst ht'
  split_ifs with hs
  · exact ⟨hv2.trans h2, harm.trans hs.symm, fun _ => hc, hqt.regs, hqt.mem⟩
  · exact ⟨h2, ha, fun h => absurd h hs, hq.regs, hq.mem⟩

/-- The value of an armed channel waits for the next cycle; that of another is stored. -/
theorem State.actCompare_armed {m v : Nat} (h : s.cmpArmed n = true) :
    s.actCompare n 2 m v = s.opens (s.sclk + 1) (.cmpValue n v) := by
  unfold State.actCompare
  rw [if_neg (by decide), if_pos ⟨rfl, h⟩]

theorem State.actCompare_unarmed {m v : Nat} (h : s.cmpArmed n = false) : s.actCompare n 2 m v = s.putMasked (kCmp n 2) m v := by
  unfold State.actCompare
  rw [if_neg (by decide), if_neg (by simp [h])]

end Arm

/-! The commands. -/

variable {s w : State} {r : Route} {dt : Nat} {n : Fin 32}

/-- A write of a compare channel's entry that is accepted. -/
theorem put_compare {sub b rst m : Nat} {acc : Access} {data : Bytes} (hw : w = s.wait dt) (ha : Accepts w r (0x2120 + n) sub data)
    (he : odCompare sub = some ⟨.num b, acc, rst, m⟩) (hacc : acc ≠ .w1c) : ∃ e0 e1 f, s.put r dt (0x2120 + n) sub data =
      .next (w.keepOuter ((w.withEc e0).actCompare n sub m (leNat data)) e1 f) := by
  obtain ⟨e0, e1, f, hx⟩ := State.put_next s r dt (0x2120 + n) sub data hw ha
  have hact : ((w.withEc e0).act r (0x2120 + n) sub data).s = (w.withEc e0).actCompare n sub m (leNat data) := by
    rw [State.act_num _ r _ sub data ((entryOf_compare n.isLt sub).trans he) (by simp) hacc (by omega),
      State.actNum_compare _ r sub _ _ n.isLt]
  rw [hact] at hx
  exact ⟨e0, e1, f, hx⟩

theorem compareArm_leads (hw : w = s.wait dt) (ha : Accepts w r (0x2120 + n) 4 (leBytes 1 1)) :
    Leads (.compareArm dt r n) s (fun t =>
      t.OpensWith (w.sclk + 1) (.cmpArm n) ∧ OnlyRegs [at1 (kCmp n 4)] w t ∧ SameMem w t) := by
  obtain ⟨e0, e1, f, h⟩ := put_compare hw ha rfl (by decide)
  exact leads_of (c := .compareArm dt r n) h ⟨State.opens_with _ _ _, Quiet.keepOuter (Quiet.opens ((Quiet.refl _).putMasked (covers_at1 (by simp))))⟩

theorem compareDisarm_leads (hw : w = s.wait dt) (ha : Accepts w r (0x2120 + n) 4 (leBytes 1 2)) :
    Leads (.compareDisarm dt r n) s (fun t =>
      t.OpensWith (w.sclk + 1) (.cmpDisarm n) ∧ OnlyRegs [at1 (kCmp n 4)] w t ∧ SameMem w t) := by
  obtain ⟨e0, e1, f, h⟩ := put_compare hw ha rfl (by decide)
  exact leads_of (c := .compareDisarm dt r n) h ⟨State.opens_with _ _ _, Quiet.keepOuter (Quiet.opens ((Quiet.refl _).putMasked (covers_at1 (by simp))))⟩

theorem compareValueWrite_leads {v : BitVec 48} (hw : w = s.wait dt) (ha : Accepts w r (0x2120 + n) 2 (leBytes 6 v.toNat)) :
    Leads (.compareValueWrite dt r n v) s (fun t =>
      (w.cmpArmed n = true → t.OpensWith (w.sclk + 1) (.cmpValue n v.toNat) ∧ OnlyRegs [] w t)
      ∧ (w.cmpArmed n = false → t.reg (kCmp n 2) = v.toNat ∧ OnlyRegs [at1 (kCmp n 2)] w t) ∧ SameMem w t) := by
  have hwid : widthOf (kCmp n 2) = 48 := widthOf_compare n.isLt (by decide)
  obtain ⟨e0, e1, f, h⟩ := put_compare (b := 6) (rst := 0) (m := 256 ^ 6 - 1) (acc := .rw) hw ha rfl (by decide)
  rw [leNat_leBytes_lt v.isLt] at h
  refine leads_of (c := .compareValueWrite dt r n v) h ?_
  cases hc : w.cmpArmed n with
  | true =>
    rw [State.actCompare_armed (s := w.withEc e0) hc]
    have hq := Quiet.keepOuter (w := w) (e := e1) (f := f) (rs := []) (Quiet.opens (c := w.sclk + 1) (a := .cmpValue n v.toNat)
      (Quiet.refl (w.withEc e0)))
    exact ⟨fun _ => ⟨State.opens_with _ _ _, hq.1⟩, nofun, hq.2⟩
  | false =>
    rw [State.actCompare_unarmed (s := w.withEc e0) hc]
    have hq := Quiet.keepOuter (w := w) (e := e1) (f := f) (rs := [at1 (kCmp n 2)])
      ((Quiet.refl (w.withEc e0)).putMasked (k := kCmp n 2) (m := 256 ^ 6 - 1) (v := v.toNat) (covers_at1 (by simp)))
    exact ⟨nofun, fun _ => ⟨State.reg_putMasked_all _ hwid (by omega) v.isLt, hq.1⟩, hq.2⟩

end Sys2Proof.Machine
end

section
/-! Windows (02 R57 to R61). -/
namespace Sys2Proof.Machine

set_option Elab.async false

theorem Moves.setWin {rs : Spans} {s t : State} {i : Nat} {x : WinUnit} (h : Moves rs s t) : Moves rs s (t.setWin i x) :=
  ⟨h.quiet.setWin, h.keeps, h.time⟩

theorem Moves.opens {rs : Spans} {s t : State} {c : Nat} {a : Effect} (h : Moves rs s t) : Moves rs s (t.opens c a) :=
  ⟨h.quiet.opens, h.keeps.trans (State.keeps_opens t c a), h.time⟩

/-- The registers of a window, and the counters. -/
def windowSpans (x : Nat) : Spans := [pages (0x2140 + x) (0x2140 + x), counterSpan]

section Window
variable {s : State} {x c : Nat} {late : Bool}

theorem window_covers {y : Nat} (hy : y ≤ 255) : covers (windowSpans x) (key (0x2140 + x) y) = true :=
  in_pages (a := 0x2140 + x) (b := 0x2140 + x) (by simp [windowSpans]) (by omega) (by omega) hy

/-! What the transitions of a window change. -/

theorem State.setWinState_moves {st : Nat} : Moves (windowSpans x) s (s.setWinState x st late) :=
  (Moves.refl s).setReg (window_covers (by omega))

theorem State.openWin_moves : Moves (windowSpans x) s (s.openWin x late) :=
  ((Moves.refl s).setReg (window_covers (by omega)) |>.setReg (window_covers (by omega)) |>.setReg (window_covers (by omega))
    |>.setReg (window_covers (by omega))).setWin.setReg (window_covers (by omega))

theorem State.emptyWin_moves : Moves (windowSpans x) s (s.emptyWin x c) :=
  (Moves.setWin (Moves.refl s)).count (by simp [windowSpans]) (by omega) (by omega) (by omega)

theorem State.nextPeriod_moves : Moves (windowSpans x) s (s.nextPeriod x c) := by
  have h : ∀ u, Moves (windowSpans x) s (((s.setReg (key (0x2140 + x) 2) (s.nextSpan x).1).setReg (key (0x2140 + x) 3)
      (s.nextSpan x).2).setWin x u) := fun u =>
    ((Moves.refl s).setReg (window_covers (by omega))).setReg (window_covers (by omega)) |>.setWin
  unfold State.nextPeriod
  dsimp only
  split_ifs
  · exact (h _).trans State.emptyWin_moves
  · exact (h _).opens

/-- A window shows CLOSED, and its event waits. -/
def State.closeShown (s : State) (x c : Nat) (late : Bool) : State :=
  ((s.setWin x { s.win x with closedAt := some c }).setWinState x 3 late).raiseAt (evClose x) c

theorem State.closeShown_moves : Moves (windowSpans x) s (s.closeShown x c late) :=
  ((Moves.setWin (Moves.refl s)).setReg (window_covers (by omega))).raiseAt

theorem State.closeWin_eq : s.closeWin x c late =
    (if (s.closeShown x c late).reg (key (0x2140 + x) 4) = 0 then s.closeShown x c late else (s.closeShown x c late).nextPeriod x c) := rfl

theorem State.closeWin_moves : Moves (windowSpans x) s (s.closeWin x c late) := by
  rw [State.closeWin_eq]
  exact Moves.ite State.closeShown_moves (State.closeShown_moves.trans State.nextPeriod_moves)

/-! What they show. -/

theorem State.state_setWinState (hx : x < 64) {st : Nat} (h : st < 128) :
    (s.setWinState x st late).reg (key (0x2140 + x) 6) = st + (if late then 128 else 0) := by
  have hw : widthOf (key (0x2140 + x) 6) = 8 := widthOf_window hx (by decide)
  unfold State.setWinState b2n
  rw [State.reg_setReg_same, hw, show (2 : Nat) ^ 8 = 256 from rfl]
  cases late <;> simp only [if_true, if_false, Bool.false_eq_true] <;> omega

theorem State.state_openWin (hx : x < 64) : (s.openWin x late).reg (key (0x2140 + x) 6) = 2 + (if late then 128 else 0) :=
  State.state_setWinState hx (by omega)

theorem State.fin_openWin : ((s.openWin x late).win x).fin = (s.win x).fin := by
  unfold State.openWin State.setWinState
  simp only [State.win_setReg, State.win_setWin_same]

/-- A window that does not advance stays closed. -/
theorem State.state_closeWin (hx : x < 64) (hp : s.reg (key (0x2140 + x) 4) = 0) :
    (s.closeWin x c late).reg (key (0x2140 + x) 6) = 3 + (if late then 128 else 0) := by
  have h4 : (s.closeShown x c late).reg (key (0x2140 + x) 4) = s.reg (key (0x2140 + x) 4) :=
    (State.reg_raiseAt _ _ _ _ _).trans (State.reg_setReg_other _ _ (key_ne_sub (by decide)))
  rw [State.closeWin_eq, if_pos (h4.trans hp), State.closeShown, State.reg_raiseAt, State.state_setWinState hx (by omega)]

theorem State.closeWin_raised (hx : x < 64) : (s.closeWin x c late).Raised (evClose x) c := by
  have h : (s.closeShown x c late).Raised (evClose x) c := State.raiseAt_raised _ _ _ _ (by unfold evClose; omega)
  rw [State.closeWin_eq]
  split_ifs
  · exact h
  · exact State.nextPeriod_moves.keeps _ h

theorem State.counted_emptyWin : (s.emptyWin x c).reg (key 0x2900 6) = satAdd 32 (s.reg (key 0x2900 6)) 1 :=
  State.reg_count_same _ 0x2900 6 _ _

theorem State.state_emptyWin (hx : x < 64) : (s.emptyWin x c).reg (key (0x2140 + x) 6) = s.reg (key (0x2140 + x) 6) :=
  State.reg_count_below _ _ _ _ _ (by omega) (by unfold key; omega)

/-! ARM and DISARM (R58, R60). -/

/-- The window holds the start and the end of its registers. -/
def State.held (s : State) (x c : Nat) : State :=
  s.setWin x { start := s.reg (key (0x2140 + x) 2), fin := s.reg (key (0x2140 + x) 3), armedAt := some (c - 1), seen := (s.win x).seen }

theorem State.armWin_empty (h : posDiff (s.reg (key (0x2140 + x) 3)) (s.reg (key (0x2140 + x) 2)) ≤ 0) :
    s.armWin x c = ((s.held x c).setWinState x 3 false).emptyWin x c := by
  have he : (s.held x c).winEmpty x = true := by
    unfold State.winEmpty State.held
    rw [State.win_setWin_same]
    exact decide_eq_true h
  unfold State.armWin
  exact if_pos he

theorem State.armWin_period (h : ¬posDiff (s.reg (key (0x2140 + x) 3)) (s.reg (key (0x2140 + x) 2)) ≤ 0) :
    s.armWin x c = (s.held x c).enterWin x c := by
  have he : (s.held x c).winEmpty x = false := by
    unfold State.winEmpty State.held
    rw [State.win_setWin_same]
    exact decide_eq_false h
  unfold State.armWin
  exact if_neg (by rw [← State.held, he]; decide)

theorem State.win_held : ((s.held x c).win x).start = s.reg (key (0x2140 + x) 2) ∧ ((s.held x c).win x).fin = s.reg (key (0x2140 + x) 3) := by
  unfold State.held
  rw [State.win_setWin_same]
  exact ⟨rfl, rfl⟩

theorem State.enterWin_waits (h : reached (s.hpos (s.winDom x)) (s.win x).start = false) :
    s.enterWin x c = s.setWinState x 1 false := by
  unfold State.enterWin
  exact if_neg (by rw [h]; decide)

/-- A window opens late, with its event. -/
def State.openedLate (s : State) (x c : Nat) : State := (s.openWin x true).raiseAt (evOpen x) c

theorem State.enterWin_opens (h : reached (s.hpos (s.winDom x)) (s.win x).start = true)
    (he : reached (s.hpos (s.winDom x)) (s.win x).fin = false) : s.enterWin x c = s.openedLate x c := by
  unfold State.enterWin
  dsimp only
  rw [if_pos h, State.win_raiseAt, State.fin_openWin, he, if_neg Bool.false_ne_true, State.openedLate]

theorem State.enterWin_closes (h : reached (s.hpos (s.winDom x)) (s.win x).start = true)
    (he : reached (s.hpos (s.winDom x)) (s.win x).fin = true) : s.enterWin x c = (s.openedLate x c).closeWin x c true := by
  unfold State.enterWin
  dsimp only
  rw [if_pos h, State.win_raiseAt, State.fin_openWin, he, if_pos rfl, State.openedLate]

theorem State.openedLate_moves : Moves (windowSpans x) s (s.openedLate x c) := State.openWin_moves.raiseAt

theorem State.openedLate_raised (hx : x < 64) : (s.openedLate x c).Raised (evOpen x) c :=
  State.raiseAt_raised _ _ _ _ (by unfold evOpen; omega)

theorem State.state_openedLate (hx : x < 64) : (s.openedLate x c).reg (key (0x2140 + x) 6) = 2 + 128 :=
  (State.reg_raiseAt _ _ _ _ _).trans (State.state_openWin hx)

theorem State.pitch_openedLate : (s.openedLate x c).reg (key (0x2140 + x) 4) = s.reg (key (0x2140 + x) 4) := by
  unfold State.openedLate State.openWin State.setWinState
  rw [State.reg_raiseAt, State.reg_setReg_other _ _ (key_ne_sub (by decide)), State.reg_setWin,
    State.reg_setReg_other _ _ (key_ne_sub (by decide)), State.reg_setReg_other _ _ (key_ne_sub (by decide)),
    State.reg_setReg_other _ _ (key_ne_sub (by decide)), State.reg_setReg_other _ _ (key_ne_sub (by decide))]

theorem State.enterWin_moves : Moves (windowSpans x) s (s.enterWin x c) := by
  cases h : reached (s.hpos (s.winDom x)) (s.win x).start with
  | true =>
    cases he : reached (s.hpos (s.winDom x)) (s.win x).fin with
    | true =>
      rw [State.enterWin_closes h he]
      exact State.openedLate_moves.trans State.closeWin_moves
    | false =>
      rw [State.enterWin_opens h he]
      exact State.openedLate_moves
  | false =>
    rw [State.enterWin_waits h]
    exact State.setWinState_moves

theorem State.held_moves : Moves (windowSpans x) s (s.held x c) := Moves.setWin (Moves.refl s)

theorem State.armWin_moves : Moves (windowSpans x) s (s.armWin x c) := by
  by_cases h : posDiff (s.reg (key (0x2140 + x) 3)) (s.reg (key (0x2140 + x) 2)) ≤ 0
  · rw [State.armWin_empty h]
    exact (State.held_moves.trans State.setWinState_moves).trans State.emptyWin_moves
  · rw [State.armWin_period h]
    exact State.held_moves.trans State.enterWin_moves

/-- A window without a period closes, and is counted (R60). -/
theorem State.armWin_counts (hx : x < 64) (h : posDiff (s.reg (key (0x2140 + x) 3)) (s.reg (key (0x2140 + x) 2)) ≤ 0) :
    (s.armWin x c).reg (key (0x2140 + x) 6) = 3 ∧ (s.armWin x c).reg (key 0x2900 6) = satAdd 32 (s.reg (key 0x2900 6)) 1 := by
  rw [State.armWin_empty h, State.state_emptyWin hx, State.state_setWinState hx (by omega), State.counted_emptyWin]
  refine ⟨rfl, congrArg (satAdd 32 · 1) ?_⟩
  exact State.reg_setReg_other _ _ (key_ne_index (by omega))

theorem State.armWin_waits (hx : x < 64) (h : ¬posDiff (s.reg (key (0x2140 + x) 3)) (s.reg (key (0x2140 + x) 2)) ≤ 0)
    (hr : reached (s.hpos (s.winDom x)) (s.reg (key (0x2140 + x) 2)) = false) :
    (s.armWin x c).reg (key (0x2140 + x) 6) = 1 ∧ ((s.armWin x c).win x).start = s.reg (key (0x2140 + x) 2)
    ∧ ((s.armWin x c).win x).fin = s.reg (key (0x2140 + x) 3) ∧ (s.armWin x c).later = s.later := by
  obtain ⟨hst, hen⟩ := State.win_held (s := s) (x := x) (c := c)
  rw [State.armWin_period h, State.enterWin_waits (by rw [hst]; exact hr)]
  exact ⟨State.state_setWinState hx (by omega), hst, hen, rfl⟩

theorem State.armWin_opens (hx : x < 64) (h : ¬posDiff (s.reg (key (0x2140 + x) 3)) (s.reg (key (0x2140 + x) 2)) ≤ 0)
    (hr : reached (s.hpos (s.winDom x)) (s.reg (key (0x2140 + x) 2)) = true)
    (he : reached (s.hpos (s.winDom x)) (s.reg (key (0x2140 + x) 3)) = false) :
    (s.armWin x c).Raised (evOpen x) c ∧ (s.armWin x c).reg (key (0x2140 + x) 6) = 2 + 128 := by
  obtain ⟨hst, hen⟩ := State.win_held (s := s) (x := x) (c := c)
  rw [State.armWin_period h, State.enterWin_opens (by rw [hst]; exact hr) (by rw [hen]; exact he)]
  exact ⟨State.openedLate_raised hx, State.state_openedLate hx⟩

theorem State.armWin_closes (hx : x < 64) (h : ¬posDiff (s.reg (key (0x2140 + x) 3)) (s.reg (key (0x2140 + x) 2)) ≤ 0)
    (hr : reached (s.hpos (s.winDom x)) (s.reg (key (0x2140 + x) 2)) = true)
    (he : reached (s.hpos (s.winDom x)) (s.reg (key (0x2140 + x) 3)) = true) :
    (s.armWin x c).Raised (evOpen x) c ∧ (s.armWin x c).Raised (evClose x) c
    ∧ (s.reg (key (0x2140 + x) 4) = 0 → (s.armWin x c).reg (key (0x2140 + x) 6) = 3 + 128) := by
  obtain ⟨hst, hen⟩ := State.win_held (s := s) (x := x) (c := c)
  rw [State.armWin_period h, State.enterWin_closes (by rw [hst]; exact hr) (by rw [hen]; exact he)]
  exact ⟨State.closeWin_moves.keeps _ (State.openedLate_raised hx), State.closeWin_raised hx,
    fun hp => State.state_closeWin hx (State.pitch_openedLate.trans hp)⟩

theorem winArm_performs {t : State} (hx : x < 64) (ht : t = s.perform (.winArm x)) :
    (let st := s.reg (key (0x2140 + x) 2)
     let en := s.reg (key (0x2140 + x) 3)
     (if posDiff en st ≤ 0 then t.reg (key (0x2140 + x) 6) = 3 ∧ t.reg (key 0x2900 6) = satAdd 32 (s.reg (key 0x2900 6)) 1
      else if reached (s.hpos (s.winDom x)) st = false then
        t.reg (key (0x2140 + x) 6) = 1 ∧ (t.win x).start = st ∧ (t.win x).fin = en ∧ t.later = s.later
      else t.Raised (evOpen x) s.sclk ∧
        (if reached (s.hpos (s.winDom x)) en = false then t.reg (key (0x2140 + x) 6) = 2 + 128
         else t.Raised (evClose x) s.sclk ∧ (s.reg (key (0x2140 + x) 4) = 0 → t.reg (key (0x2140 + x) 6) = 3 + 128)))
     ∧ OnlyRegs [pages (0x2140 + x) (0x2140 + x), counterSpan] s t ∧ SameMem s t) := by
  have hm : Moves (windowSpans x) s (s.armWin x s.sclk) := State.armWin_moves
  replace ht : t = s.armWin x s.sclk := ht
  subst ht
  refine ⟨?_, hm.quiet.regs, hm.quiet.mem⟩
  split_ifs with h hr he
  · exact State.armWin_counts hx h
  · exact State.armWin_waits hx h hr
  · exact State.armWin_opens hx h (Bool.eq_true_of_not_eq_false hr) he
  · exact State.armWin_closes hx h (Bool.eq_true_of_not_eq_false hr) (Bool.eq_true_of_not_eq_false he)

theorem winDisarm_performs {t : State} (hx : x < 64) (ht : t = s.perform (.winDisarm x)) :
    t.reg (key (0x2140 + x) 6) = 0 ∧ (t.win x).armedAt = none ∧ t.later = s.later
    ∧ OnlyRegs [at1 (key (0x2140 + x) 6)] s t ∧ SameMem s t := by
  have hq : Quiet [at1 (key (0x2140 + x) 6)] s (s.disarmWin x) := (Quiet.setWin (Quiet.refl s)).setReg (covers_at1 (by simp))
  replace ht : t = s.disarmWin x := ht
  subst ht
  exact ⟨State.state_setWinState hx (by omega), congrArg WinUnit.armedAt (State.win_setWin_same s x _), rfl, hq.regs, hq.mem⟩

end Window

/-! The commands. -/

variable {s w : State} {r : Route} {dt : Nat} {x : Fin 64}

/-- A command written to a window waits for the next cycle. -/
theorem put_windowCommand {data : Bytes} (hw : w = s.wait dt) (ha : Accepts w r (0x2140 + x) 5 data) :
    ∃ e0 e1 f, s.put r dt (0x2140 + x) 5 data = .next (w.keepOuter
      (((w.withEc e0).putMasked (key (0x2140 + x) 5) 0 (leNat data)).opens (w.sclk + 1)
        (if leNat data = 1 then .winArm x else .winDisarm x)) e1 f) := by
  obtain ⟨e0, e1, f, hx⟩ := State.put_next s r dt (0x2140 + x) 5 data hw ha
  have hact : ((w.withEc e0).act r (0x2140 + x) 5 data).s =
      ((w.withEc e0).putMasked (key (0x2140 + x) 5) 0 (leNat data)).opens (w.sclk + 1)
        (if leNat data = 1 then .winArm x else .winDisarm x) := by
    rw [State.act_num _ r _ 5 data (e := eWO 1) (entryOf_window x.isLt 5) (by simp [eWO]) (by simp [eWO]) (by omega),
      State.actNum_window _ r 5 _ _ x.isLt]
    rfl
  rw [hact] at hx
  exact ⟨e0, e1, f, hx⟩

theorem windowArm_leads (hw : w = s.wait dt) (ha : Accepts w r (0x2140 + x) 5 (leBytes 1 1)) : Leads (.windowArm dt r x) s (fun t =>
      t.OpensWith (w.sclk + 1) (.winArm x) ∧ OnlyRegs [at1 (key (0x2140 + x) 5)] w t ∧ SameMem w t) := by
  obtain ⟨e0, e1, f, h⟩ := put_windowCommand hw ha
  exact leads_of (c := .windowArm dt r x) h
    ⟨State.opens_with _ _ _, Quiet.keepOuter (Quiet.opens ((Quiet.refl _).putMasked (covers_at1 (by simp))))⟩

theorem windowDisarm_leads (hw : w = s.wait dt) (ha : Accepts w r (0x2140 + x) 5 (leBytes 1 2)) :
    Leads (.windowDisarm dt r x) s (fun t =>
      t.OpensWith (w.sclk + 1) (.winDisarm x) ∧ OnlyRegs [at1 (key (0x2140 + x) 5)] w t ∧ SameMem w t) := by
  obtain ⟨e0, e1, f, h⟩ := put_windowCommand hw ha
  exact leads_of (c := .windowDisarm dt r x) h
    ⟨State.opens_with _ _ _, Quiet.keepOuter (Quiet.opens ((Quiet.refl _).putMasked (covers_at1 (by simp))))⟩

/-- Settles O8: the commands of compare channels and windows by the lemmas about their writes, and what they set off by those
about the effects that come due. -/
theorem compareChannelsAndWindowsArm : Obligations.CompareChannelsAndWindowsArm :=
  ⟨fun _ _ _ _ _ hw ha => compareArm_leads hw ha, fun _ _ _ _ _ hw ha => compareDisarm_leads hw ha,
   fun _ _ _ _ _ _ hw ha => compareValueWrite_leads hw ha, fun _ _ n ht => cmpArm_performs n.isLt ht,
   fun _ _ n ht => cmpDisarm_performs n.isLt ht, fun _ _ n _ ht hv => cmpValue_performs n.isLt ht hv,
   fun _ n _ h => State.judgeCmp_matched n.isLt h, fun _ n => State.late_counted n.isLt,
   fun _ _ _ _ _ hw ha => windowArm_leads hw ha, fun _ _ _ _ _ hw ha => windowDisarm_leads hw ha,
   fun _ _ x ht => winArm_performs x.isLt ht, fun _ _ x ht => winDisarm_performs x.isLt ht⟩

end Sys2Proof.Machine
end

section
/-! Triggers and the ports they reach (02 R47 to R49; 11 R315, R316). -/
namespace Sys2Proof.Machine

set_option Elab.async false

/-! What the ports of a stream leave alone as positions and fill lines reach them. -/

/-- The generators, what waits, the instant and the configuration of every port are the same. -/
structure LineFrame (s t : State) : Prop where
  trigs : t.trigs = s.trigs
  later : t.later = s.later
  time : t.time = s.time
  cfg : ∀ q, t.reg (kPort q 1) = s.reg (kPort q 1)

/-- No port but `p` differs either. -/
structure Feeds (p : Nat) (s t : State) : Prop extends LineFrame s t where
  others : ∀ j, j ≠ p → t.port j = s.port j

section Frames
variable {s t u : State} {p : Nat}

theorem LineFrame.refl (s : State) : LineFrame s s := ⟨rfl, rfl, rfl, fun _ => rfl⟩

theorem LineFrame.trans (a : LineFrame s t) (b : LineFrame t u) : LineFrame s u :=
  ⟨b.trigs.trans a.trigs, b.later.trans a.later, b.time.trans a.time, fun q => (b.cfg q).trans (a.cfg q)⟩

theorem LineFrame.frameMode (h : LineFrame s t) (q : Nat) : t.frameMode q = s.frameMode q := bit_of_reg (h.cfg q) 11

theorem LineFrame.sclk (h : LineFrame s t) : t.sclk = s.sclk := congrArg (· / 12) h.time

theorem LineFrame.trig (h : LineFrame s t) (q : Nat) : t.trig q = s.trig q := by
  unfold State.trig
  rw [h.trigs]

theorem Feeds.refl (s : State) : Feeds p s s := ⟨LineFrame.refl s, fun _ _ => rfl⟩

theorem Feeds.trans (a : Feeds p s t) (b : Feeds p t u) : Feeds p s u :=
  ⟨a.toLineFrame.trans b.toLineFrame, fun j hj => (b.others j hj).trans (a.others j hj)⟩

theorem Feeds.setPort {x : PortUnit} (h : Feeds p s t) : Feeds p s (t.setPort p x) :=
  ⟨⟨h.trigs, h.later, h.time, h.cfg⟩, fun j hj => (State.port_setPort_other _ _ hj).trans (h.others j hj)⟩

theorem Feeds.setReg {q x v : Nat} (h : Feeds p s t) (h1 : 1 ≠ x) (hx : x < 256) : Feeds p s (t.setReg (kPort q x) v) :=
  ⟨⟨h.trigs, h.later, h.time, fun j => (State.reg_setReg_other _ _ (key_ne_sub h1 (by decide) hx)).trans (h.cfg j)⟩, h.others⟩

theorem Feeds.count {i x d : Nat} {l : Option (Nat × Nat)} (h : Feeds p s t) (h1 : 1 ≠ x) (hx : x < 256) :
    Feeds p s (t.count i x d l) where
  trigs := (State.count_keeps t i x d l (·.trigs) (fun _ => rfl)).trans h.trigs
  later := (State.later_count t i x d l).trans h.later
  time := (State.time_count t i x d l).trans h.time
  cfg j := (State.reg_count_other _ _ _ _ _ _ (key_ne_sub h1 (by decide) hx) (key_ne_sub (by decide)) (key_ne_sub (by decide))).trans
    (h.cfg j)
  others j hj := (State.count_keeps t i x d l (·.port j) (fun _ => rfl)).trans (h.others j hj)

end Frames

/-! Fill lines (R314). -/

section Fill
variable {s : State} {q p : Nat}

theorem State.countPart_feeds (x : LinePart) : Feeds p s (s.countPart q x) := by
  unfold State.countPart
  extract_lets s1
  have h : Feeds p s s1 := by
    unfold s1
    split_ifs
    · exact (Feeds.refl s).setReg (by decide) (by decide)
    · exact Feeds.refl s
  split_ifs
  · exact h
  · exact Feeds.count (h.setReg (by decide) (by decide)) (by decide) (by decide)

theorem State.ports_countPart (x : LinePart) (j : Nat) : (s.countPart q x).port j = s.port j :=
  (State.countPart_feeds (p := j + 1) x).others j (by omega)

theorem State.deliver_feeds (x : LinePart) : Feeds p s (s.deliver q p x) :=
  (Feeds.setPort (Feeds.refl s)).trans (State.countPart_feeds _)

theorem State.port_deliver (x : LinePart) : (s.deliver q p x).port p =
    { s.port p with fifo := (s.port p).fifo ++ [{ x with frame := s.reg (kPort q 0x0E) - 1 }] } :=
  (State.ports_countPart _ _).trans (State.port_setPort_same _ _ _)

/-- A fill line as it goes to the port. -/
def State.fillPart (s : State) (q v r reason : Nat) : LinePart :=
  { stamp := v, row := r, reason := reason, tags := s.reg (kPort q 0x10), pixels := s.fillPixels q }

theorem State.fillLine_eq (v reason : Nat) : s.fillLine q p v reason =
    forEach (upTo (if s.frameMode q then s.reg (kPort q 3) else 1)) s (fun r u => u.deliver q p (u.fillPart q v r reason)) := rfl

theorem State.fillLine_feeds (v reason : Nat) : Feeds p s (s.fillLine q p v reason) := by
  rw [State.fillLine_eq]
  exact forEach_keeps (Feeds p s) _ (fun _ _ hu => hu.trans (State.deliver_feeds _)) _ _ (Feeds.refl s)

/-- A fill line joins no queue. -/
theorem State.queue_fillLine (v reason j : Nat) : ((s.fillLine q p v reason).port j).queue = (s.port j).queue := by
  by_cases hj : j = p
  · subst hj
    rw [State.fillLine_eq]
    exact forEach_same (fun u : State => (u.port j).queue) _ (fun r u => by rw [State.port_deliver]) _ _
  · rw [(State.fillLine_feeds v reason).others j hj]

/-- In LINE mode it is the last part that its port has delivered. -/
theorem State.fifo_fillLine (v reason : Nat) (h : s.frameMode q = false) :
    ∃ l, ((s.fillLine q p v reason).port p).fifo.getLast? = some l ∧ l.stamp = v ∧ l.reason = reason := by
  rw [State.fillLine_eq, h, if_neg Bool.false_ne_true]
  show ∃ l, ((s.deliver q p (s.fillPart q v 0 reason)).port p).fifo.getLast? = some l ∧ _
  rw [State.port_deliver]
  exact ⟨_, List.getLast?_concat, rfl, rfl⟩

/-! The pairing queue of a port (R315, R316). -/

theorem State.drainMarked_feeds (n : Nat) : Feeds p s (State.drainMarked n s q p) := by
  induction n generalizing s with
  | zero => exact Feeds.refl s
  | succ n ih =>
    unfold State.drainMarked
    split
    · split_ifs
      · exact ((Feeds.setPort (Feeds.refl s)).trans (State.fillLine_feeds _ 1)).trans ih
      · exact Feeds.refl s
    · exact Feeds.refl s

/-- A queue whose head is not marked stays as it is. -/
theorem State.drainMarked_unmarked {n : Nat} {e : PairEntry} {es : List PairEntry} (h : (s.port p).queue = e :: es)
    (he : e.missed = false) : State.drainMarked n s q p = s := by
  cases n with
  | zero => rfl
  | succ n =>
    unfold State.drainMarked
    rw [h]
    exact if_neg (by rw [he]; decide)

theorem State.drainMarked_empty {n : Nat} (h : (s.port p).queue = []) : State.drainMarked n s q p = s := by
  cases n with
  | zero => rfl
  | succ n =>
    unfold State.drainMarked
    rw [h]

/-- A marked entry that is alone leaves as a fill line of reason 1. -/
theorem State.drainMarked_alone {n : Nat} {e : PairEntry} (h : (s.port p).queue = [e]) (he : e.missed = true) :
    State.drainMarked (n + 1) s q p = (s.setPort p { s.port p with queue := [] }).fillLine q p e.pos 1 := by
  have hq : (((s.setPort p { s.port p with queue := [] }).fillLine q p e.pos 1).port p).queue = [] := by
    rw [State.queue_fillLine, State.port_setPort_same]
  have hd : State.drainMarked (n + 1) s q p =
      State.drainMarked n ((s.setPort p { s.port p with queue := [] }).fillLine q p e.pos 1) q p := by
    rw [State.drainMarked, h]
    exact if_pos he
  rw [hd, State.drainMarked_empty hq]

theorem State.showPend_feeds : Feeds p s (s.showPend p) := (Feeds.refl s).setReg (by decide) (by decide)

/-- A position joins a queue that has room. -/
def State.joined (s : State) (p v : Nat) (m : Bool) : State :=
  s.setPort p { s.port p with queue := (s.port p).queue ++ [{ pos := v, at_ := s.sclk, missed := m }] }

theorem State.queue_joined (v : Nat) (m : Bool) :
    ((s.joined p v m).port p).queue = (s.port p).queue ++ [{ pos := v, at_ := s.sclk, missed := m }] :=
  congrArg PortUnit.queue (State.port_setPort_same s p _)

theorem State.enterPair_room {v : Nat} {m : Bool} (h : (s.port p).queue.length < 16) :
    s.enterPair q p v m = (State.drainMarked 17 (s.joined p v m) q p).showPend p := by
  unfold State.enterPair State.joined
  split
  next e es hq =>
    rw [hq, List.length_cons] at h
    rw [if_neg (by omega)]
  next => rfl

/-- An unmarked head keeps the queue: the position is queued. -/
theorem State.queue_enterPair {v : Nat} {m : Bool} (hy : ∀ y ∈ (s.port p).queue, y.missed = false)
    (hl : (s.port p).queue.length < 16) (hm : (s.port p).queue ≠ [] ∨ m = false) :
    ((s.enterPair q p v m).port p).queue = (s.port p).queue ++ [{ pos := v, at_ := s.sclk, missed := m }] := by
  have hj := State.queue_joined (s := s) (p := p) v m
  have hd : State.drainMarked 17 (s.joined p v m) q p = s.joined p v m := by
    cases hq : (s.port p).queue with
    | nil =>
      rw [hq] at hj hm
      exact State.drainMarked_unmarked hj (hm.resolve_left (fun h => h rfl))
    | cons e es =>
      rw [hq] at hj hy
      exact State.drainMarked_unmarked hj (hy e List.mem_cons_self)
  rw [State.enterPair_room hl, hd]
  exact hj

/-- A missed position that finds an empty queue leaves at once (R316). -/
theorem State.enterPair_passes {v : Nat} (hq : (s.port p).queue = []) : ((s.enterPair q p v true).port p).queue = []
    ∧ (s.frameMode q = false → ∃ l, ((s.enterPair q p v true).port p).fifo.getLast? = some l ∧ l.stamp = v ∧ l.reason = 1) := by
  have hj := State.queue_joined (s := s) (p := p) v true
  rw [hq] at hj
  rw [State.enterPair_room (by rw [hq]; decide), State.drainMarked_alone hj rfl]
  refine ⟨?_, fun hf => State.fifo_fillLine v 1 hf⟩
  exact (State.queue_fillLine v 1 p).trans (congrArg PortUnit.queue (State.port_setPort_same _ p _))

theorem State.enterPair_feeds (v : Nat) (m : Bool) : Feeds p s (s.enterPair q p v m) := by
  have hj : ∀ (u : State) x, Feeds p u ((State.drainMarked 17 (u.setPort p x) q p).showPend p) := fun u x =>
    ((Feeds.setPort (Feeds.refl u)).trans (State.drainMarked_feeds 17)).trans State.showPend_feeds
  unfold State.enterPair
  split
  · split_ifs
    · exact ((Feeds.setPort (Feeds.refl s)).trans (State.fillLine_feeds _ 2)).trans (hj _ _)
    · exact hj s _
  · exact hj s _

end Fill

/-! Every port of a gang (R49). -/

section Gang
variable {s : State} {q j v : Nat} {m : Bool}

/-- Fill lines before the first trigger change no queue (R322). -/
theorem State.fillBefore_frame : LineFrame s (s.fillBefore q v) ∧ ∀ j, ((s.fillBefore q v).port j).queue = (s.port j).queue := by
  unfold State.fillBefore
  dsimp only
  split_ifs
  · refine forEach_keeps (fun u => LineFrame s u ∧ ∀ j, (u.port j).queue = (s.port j).queue) _ (fun i u hu => ?_) _ _
      ⟨(Feeds.setPort (Feeds.refl s)).toLineFrame, fun j => ?_⟩
    · refine forEach_keeps (fun u => LineFrame s u ∧ ∀ j, (u.port j).queue = (s.port j).queue) _ (fun p t ht => ?_) _ _ hu
      exact ⟨ht.1.trans (State.fillLine_feeds _ 6).toLineFrame, fun j => (State.queue_fillLine _ 6 j).trans (ht.2 j)⟩
    · by_cases hj : j = q
      · rw [hj, State.port_setPort_same]
      · rw [State.port_setPort_other _ _ hj]
  · exact ⟨LineFrame.refl s, fun _ => rfl⟩

theorem State.portTrigger_frame : LineFrame s (s.portTrigger q v m) := by
  unfold State.portTrigger
  split_ifs
  · exact forEach_keeps (LineFrame s) _ (fun p u hu => hu.trans (State.enterPair_feeds v m).toLineFrame) _ _ State.fillBefore_frame.1
  · exact LineFrame.refl s

theorem gangPorts_nodup : (s.gangPorts q).Nodup := (upTo_nodup _).map (fun _ _ h => Nat.add_left_cancel h)

/-- A port of the gang takes the position in its own turn, with the queue that it had before all turns. -/
theorem State.port_portTrigger (Q : PortUnit → Prop) (hr : s.running (fStream q) = true) (ha : s.arrival q = false)
    (hj : j ∈ s.gangPorts q)
    (hold : ∀ u, LineFrame s u → (u.port j).queue = (s.port j).queue → Q ((u.enterPair q j v m).port j)) :
    Q ((s.portTrigger q v m).port j) := by
  unfold State.portTrigger
  rw [hr, ha, if_pos (by decide)]
  refine forEach_at (p := fun u : State => LineFrame s u ∧ (u.port j).queue = (s.port j).queue) (q := fun u : State => Q (u.port j))
    hj gangPorts_nodup ⟨State.fillBefore_frame.1, State.fillBefore_frame.2 j⟩ (fun y _ hy u hu => ?_) (fun u hu => hold u hu.1 hu.2)
    (fun y _ hy u hu => ?_)
  · have hf := State.enterPair_feeds (s := u) (q := q) (p := y) v m
    exact ⟨hu.1.trans hf.toLineFrame, by rw [hf.others j hy.symm, hu.2]⟩
  · rwa [(State.enterPair_feeds (s := u) (q := q) (p := y) v m).others j hy.symm]

end Gang

/-! The commands. -/

/-- The oldest trigger is issued: TRIG is active, the position is recorded, and the event waits. -/
def State.trigIssued (s : State) (p : Nat) (x : Trig) (xs : List Trig) : State :=
  ((s.setTrig p { s.trig p with waiting := xs, pulseEnd := some (s.sclk + s.reg (kTrig p 4)) }).setReg (kTrig p 6) x.pos).raise (evTrig p)

/-- The oldest trigger is taken. -/
def State.trigTaken (s : State) (p : Nat) (xs : List Trig) : State := s.setTrig p { s.trig p with waiting := xs }

variable {s w : State} {dt : Nat} {p : Fin 36} {x : Trig} {xs : List Trig}

theorem exec_triggerIssued (hw : w = s.wait dt) (hu : w.up = true) (hq : (w.trig p).waiting = x :: xs) (hm : x.missed = false)
    (hd : x.due ≤ w.sclk) : exec (.triggerIssued dt p) s = .next (w.sealed ((w.trigIssued p x xs).portTrigger p x.pos false)) := by
  rw [exec_during rfl hw hu, hq]
  exact congrArg (fun u => Host.Outcome.next (w.sealed u)) (if_pos (by simp [hm, hd]))

theorem exec_triggerPulseEnd {m : Nat} (hw : w = s.wait dt) (hu : w.up = true) (he : (w.trig p).pulseEnd = some m) (hm : m ≤ w.sclk) :
    exec (.triggerPulseEnd dt p) s = .next (w.sealed (w.setTrig p { w.trig p with pulseEnd := none })) := by
  rw [exec_during rfl hw hu, he]
  exact congrArg (fun u => Host.Outcome.next (w.sealed u)) (if_pos hm)

theorem exec_missedTrigger (hw : w = s.wait dt) (hu : w.up = true) (hq : (w.trig p).waiting = x :: xs) (hm : x.missed = true)
    (hd : x.due ≤ w.sclk) : exec (.missedTrigger dt p) s = .next (w.sealed ((w.trigTaken p xs).portTrigger p x.pos true)) := by
  rw [exec_during rfl hw hu, hq]
  exact congrArg (fun u => Host.Outcome.next (w.sealed u)) (if_pos (by simp [hm, hd]))

theorem State.trig_trigIssued : (w.trigIssued p x xs).trig p =
    { w.trig p with waiting := xs, pulseEnd := some (w.sclk + w.reg (kTrig p 4)) } :=
  (State.trig_raiseAt _ _ _ _ _).trans (State.trig_setTrig_same w p _)

theorem State.reg_trigIssued {k : Nat} (h : k ≠ kTrig p 6) : (w.trigIssued p x xs).reg k = w.reg k :=
  (State.reg_raiseAt _ _ _ _ _).trans (State.reg_setReg_other _ _ h)

theorem State.trigIssued_quiet : Quiet (at1 (kTrig p 6) :: portSpans) w (w.trigIssued p x xs) :=
  ((Quiet.setTrig (Quiet.refl w)).setReg (covers_at1 (by simp))).raiseAt

theorem State.running_trigIssued {f : Nat} (hf : f ≤ 255) : (w.trigIssued p x xs).running f = w.running f := by
  unfold State.running
  rw [fn_of_reg (State.reg_trigIssued (by unfold kTrig key; omega))]

theorem State.cfg_trigIssued : (w.trigIssued p x xs).reg (kPort p 1) = w.reg (kPort p 1) :=
  State.reg_trigIssued (by unfold kTrig kPort key; omega)

theorem State.arrival_trigIssued : (w.trigIssued p x xs).arrival p = w.arrival p := bit_of_reg State.cfg_trigIssued 10

theorem State.gangPorts_trigIssued : (w.trigIssued p x xs).gangPorts p = w.gangPorts p := by
  unfold State.gangPorts State.gangSize
  rw [field_of_reg State.cfg_trigIssued]

theorem State.port_trigIssued (q : Nat) : (w.trigIssued p x xs).port q = w.port q := State.port_raiseAt _ _ _ _ _

theorem State.sclk_trigIssued : (w.trigIssued p x xs).sclk = w.sclk := State.raiseAt_keeps _ _ _ _ State.sclk (fun _ _ => rfl)

theorem triggerIssued_leads (hw : w = s.wait dt) (hu : w.up = true) (hq : (w.trig p).waiting = x :: xs) (hm : x.missed = false)
    (hd : x.due ≤ w.sclk) : Leads (.triggerIssued dt p) s (fun t =>
      (t.trig p).waiting = xs ∧ (t.trig p).pulseEnd = some (w.sclk + w.reg (kTrig p 4))
      ∧ t.reg (kTrig p 6) = x.pos % 2 ^ 48 ∧ t.Raised (evTrig p) w.sclk
      ∧ (w.running (fStream p) = true → w.arrival p = false → ∀ q ∈ w.gangPorts p,
          (∀ y ∈ (w.port q).queue, y.missed = false) → (w.port q).queue.length < 16 →
          (t.port q).queue = (w.port q).queue ++ [{ pos := x.pos, at_ := w.sclk, missed := false }])
      ∧ OnlyRegs (at1 (kTrig p 6) :: portSpans) w t ∧ SameMem w t) := by
  have hwid : widthOf (kTrig p 6) = 48 := widthOf_trigger p.isLt (by decide)
  have hf : LineFrame (w.trigIssued p x xs) ((w.trigIssued p x xs).portTrigger p x.pos false) := State.portTrigger_frame
  have hp := State.portTrigger_quiet (w.trigIssued p x xs) p.isLt x.pos false
  have htrig := (hf.trig p).trans State.trig_trigIssued
  have hr : (w.trigIssued p x xs).Raised (evTrig p) w.sclk := State.raise_raised _ (evTrig p) _ rfl (by unfold evTrig; omega)
  refine leads_of (exec_triggerIssued hw hu hq hm hd) ⟨congrArg TrigUnit.waiting htrig, congrArg TrigUnit.pulseEnd htrig, ?_, ?_,
    fun hrun harr q hg hy hl => ?_, (State.trigIssued_quiet.trans (hp.sub (by simp))).sealed⟩
  · rw [State.sealed_reg, hp.regs, State.trigIssued, State.raise, State.reg_raiseAt, State.reg_setReg_same, hwid]
    simp only [portSpans, counterSpan, covers_cons, covers_nil, and_true, pages, kTrig, key, Nat.reduceMul, Nat.reduceAdd]
    omega
  · exact KeepsLater.of_eq hf.later _ hr
  · rw [← State.running_trigIssued (by unfold fStream; omega)] at hrun
    rw [← State.arrival_trigIssued] at harr
    rw [← State.gangPorts_trigIssued] at hg
    refine State.port_portTrigger (fun u => u.queue = (w.port q).queue ++ [{ pos := x.pos, at_ := w.sclk, missed := false }])
      hrun harr hg (fun u huf huq => ?_)
    rw [State.port_trigIssued] at huq
    rw [State.queue_enterPair (huq ▸ hy) (huq ▸ hl) (.inr rfl), huq, huf.sclk, State.sclk_trigIssued]

theorem triggerPulseEnd_leads {m : Nat} (hw : w = s.wait dt) (hu : w.up = true) (he : (w.trig p).pulseEnd = some m)
    (hm : m ≤ w.sclk) : Leads (.triggerPulseEnd dt p) s (fun t =>
      (t.trig p).pulseEnd = none ∧ (t.trig p).waiting = (w.trig p).waiting ∧ (t.trig p).lastBegin = (w.trig p).lastBegin
      ∧ t.later = w.later ∧ OnlyRegs [] w t ∧ SameMem w t) := by
  have ht := State.trig_setTrig_same w p { w.trig p with pulseEnd := none }
  exact leads_of (exec_triggerPulseEnd hw hu he hm) ⟨congrArg TrigUnit.pulseEnd ht, (congrArg TrigUnit.waiting ht).trans rfl,
    (congrArg TrigUnit.lastBegin ht).trans rfl, rfl, (Quiet.setTrig (Quiet.refl w)).sealed⟩

theorem missedTrigger_leads (hw : w = s.wait dt) (hu : w.up = true) (hq : (w.trig p).waiting = x :: xs) (hm : x.missed = true)
    (hd : x.due ≤ w.sclk) : Leads (.missedTrigger dt p) s (fun t =>
      (t.trig p).waiting = xs ∧ (t.trig p).pulseEnd = (w.trig p).pulseEnd ∧ t.later = w.later
      ∧ (w.running (fStream p) = true → w.arrival p = false → ∀ q ∈ w.gangPorts p,
          ((w.port q).queue = [] → (t.port q).queue = []
            ∧ (w.frameMode p = false → ∃ l, (t.port q).fifo.getLast? = some l ∧ l.stamp = x.pos ∧ l.reason = 1))
          ∧ ((w.port q).queue ≠ [] → (∀ y ∈ (w.port q).queue, y.missed = false) → (w.port q).queue.length < 16 →
            (t.port q).queue = (w.port q).queue ++ [{ pos := x.pos, at_ := w.sclk, missed := true }]))
      ∧ OnlyRegs portSpans w t ∧ SameMem w t) := by
  have hf : LineFrame (w.trigTaken p xs) ((w.trigTaken p xs).portTrigger p x.pos true) := State.portTrigger_frame
  have hp := State.portTrigger_quiet (w.trigTaken p xs) p.isLt x.pos true
  have htrig := (hf.trig p).trans (State.trig_setTrig_same w p { w.trig p with waiting := xs })
  refine leads_of (exec_missedTrigger hw hu hq hm hd) ⟨congrArg TrigUnit.waiting htrig, (congrArg TrigUnit.pulseEnd htrig).trans rfl, hf.later,
    fun hrun harr q hg => ⟨fun he => ?_, fun hn hy hl => ?_⟩, ((Quiet.setTrig (Quiet.refl w)).trans hp).sealed⟩
  · refine State.port_portTrigger (s := w.trigTaken p xs) (fun u => u.queue = []
      ∧ (w.frameMode p = false → ∃ l, u.fifo.getLast? = some l ∧ l.stamp = x.pos ∧ l.reason = 1)) hrun harr hg (fun u huf huq => ?_)
    obtain ⟨hempty, hfill⟩ := State.enterPair_passes (q := p) (v := x.pos) (huq.trans he)
    exact ⟨hempty, fun h => hfill ((huf.frameMode p).trans h)⟩
  · refine State.port_portTrigger (s := w.trigTaken p xs)
      (fun u => u.queue = (w.port q).queue ++ [{ pos := x.pos, at_ := w.sclk, missed := true }]) hrun harr hg (fun u huf huq => ?_)
    replace huq : (u.port q).queue = (w.port q).queue := huq
    rw [State.queue_enterPair (huq ▸ hy) (huq ▸ hl) (.inl (huq ▸ hn)), huq, huf.sclk]
    rfl

/-- Settles O7: a port of the gang takes the position in its own turn, with the queue that it had before the trigger
(`State.port_portTrigger`); a marked position that finds the queue empty is drained at once (`State.enterPair_passes`). -/
theorem triggersReachTheirPorts : Obligations.TriggersReachTheirPorts :=
  ⟨fun _ _ _ _ _ _ hw hu hq hm hd => triggerIssued_leads hw hu hq hm hd,
    fun _ _ _ _ _ hw hu he hm => triggerPulseEnd_leads hw hu he hm,
    fun _ _ _ _ _ _ hw hu hq hm hd => missedTrigger_leads hw hu hq hm hd⟩

end Sys2Proof.Machine
end

section
/-! A lane on a core that no module has (03 R94, R95; 09 R270, R272). The core of a context is a number that no statement bounds;
the drain of a half of its arrays counts the weight wait in 2410h.40h + n, and for such a core that key is another object's. -/
namespace Sys2Proof.Machine

set_option Elab.async false

/-- A register as a command leaves it. -/
def regAfter (c : Instr) (s : State) (k : Nat) : Option Nat := match exec c s with | .next t => some (t.reg k) | _ => none

theorem Leads.regAfter {c : Instr} {s : State} {p : State → Prop} {k v : Nat} (h : Leads c s p) (hp : ∀ t, p t → t.reg k = v) :
    regAfter c s k = some v := by
  obtain ⟨t, hx, ht⟩ := h
  unfold Machine.regAfter
  rw [hx]
  exact congrArg some (hp t ht)

theorem tget_of_forall {α : Type} {d : Nat → α} {p : α → Prop} (hd : ∀ k, p (d k)) {t : List (Nat × α)} (h : ∀ x ∈ t, p x.2)
    (k : Nat) : p (tget d t k) := by
  induction t with
  | nil => exact hd k
  | cons x t ih =>
    rw [List.forall_mem_cons] at h
    unfold tget
    split
    · exact h.1
    · exact ih h.2

theorem tfind_mem {α : Type} {t : List (Nat × α)} {k : Nat} {a : α} (h : tfind t k = some a) : (k, a) ∈ t := by
  induction t with
  | nil => cases h
  | cons x t ih =>
    unfold tfind at h
    split at h
    case isTrue hk =>
      cases h
      exact hk ▸ List.mem_cons_self
    case isFalse => exact List.mem_cons_of_mem _ (ih h)

theorem calm_of_listed {s : State} (hj : ∀ x ∈ s.jobs, x.2.leaving = false) (hc : ∀ x ∈ s.ctxs, x.2.evicted = none) : Calm s := by
  refine ⟨tget_of_forall (p := fun u : JobUnit => u.leaving = false) (fun _ => rfl) hj, fun k => ?_⟩
  unfold State.ctx
  cases h : s.ctx? k with
  | none => rfl
  | some x => exact hc _ (tfind_mem h)

/-- An image with one lane: a timetable of one entry at 64 and one descriptor, which begins there too. -/
def oneLaneImage : Bytes :=
  leBytes 12 0 ++ leBytes 52 2 ++ [1, 0, 8, 1].flatMap (leBytes 4) ++ [2, 64, 32, 1].flatMap (leBytes 4)

/-- Lane 0, in a running position on core 0. -/
def runningLane : Ctx := { core := 0, slot := some 0, place := .inPlace, pos := true, inc := 1, tsRows := 8, accRows := 6 }

/-- Lane 1, away, on a core for which 2410h.40h + n of its first array is 2500h.0Eh. -/
def strayLane : Ctx := { core := 30695, inc := 1 }

/-- A pass of a lane, queued in cycle 0, that needs weights. -/
def queuedPass (k : Nat) : Pass := { ctx := k, inc := 1, w0 := 0, w1 := 0, w2 := 0, w3 := 0, at_ := 0 }

/-- Job 0 runs, and faults with the first of its lanes that is torn down (09 R270); both lanes have a pass queued. The next entry of
lane 0 is a pass with a reserved bit set. -/
def strayed : State :=
  { (State.reset.setReg (key 0x2020 (fJob 0)) 2).setBit (kJob 0 1) 9 true with
    time := 600
    images := [(0, oneLaneImage)]
    cache := [{ img := true, id := 0, version := 0, base := 0, size := 128, loaded := true }]
    stack := { cells := [(64, 0x10#8), (65, 0x01#8)] }
    ctxs := [(0, runningLane), (1, strayLane)]
    jobs := [(0, { cores := [0, 30695] })]
    arrays := [(0, { l := { queue := [queuedPass 0] } }), (61390, { l := { queue := [queuedPass 1] } })] }

/-- The register that the drain of lane 1 reaches lies in no range of a fault of job 0. -/
theorem stray_uncovered : covers (faultSpans 0) (key 0x2500 0x0E) = false := by decide

theorem stray_teardown : regAfter (.arrayFault 0 0 0 0 .teardown) strayed (key 0x2500 0x0E) = some 120116 := by decide +kernel

theorem stray_passIssue : regAfter (.passIssue 0 0 0) strayed (key 0x2500 0x0E) = some 120116 := by decide +kernel

/-- Refutes O18: the fault of lane 0 takes job 0 to FAULTED, so lane 1 leaves as well, and the drain of its array counts 116
cycles in 2500h.0Eh. -/
theorem not_arrayFaultsTearTheirContextDown : ¬ Obligations.ArrayFaultsTearTheirContextDown := by
  rintro ⟨h, -⟩
  have hl := h strayed (strayed.wait 0) (strayed.wait 0).catchAll 0 0 0 0 (queuedPass 0) [] runningLane rfl (by decide +kernel) rfl
    (by decide +kernel) (calm_of_listed (by decide +kernel) (by decide +kernel)) (by decide +kernel) rfl rfl (by decide +kernel)
  have hr := hl.regAfter (k := key 0x2500 0x0E) (v := 120000) (fun t ⟨_, hregs⟩ =>
    (hregs _ stray_uncovered).trans (by decide +kernel))
  rw [stray_teardown] at hr
  exact absurd hr (by decide)

theorem strayed_issues : Issues (strayed.wait 0) 0 0 0 runningLane (.issue 0x10 [0x110, 0, 0, 0]) where
  slot := by decide +kernel
  here := by decide +kernel
  may := by decide +kernel
  entry := by decide +kernel
  fresh := rfl
  unhalted := rfl
  calm := calm_of_listed (by decide +kernel) (by decide +kernel)

/-- Refutes O16: a pass with a descriptor fault tears lane 0 down, with the same outcome for lane 1. -/
theorem not_passesAreQueuedAndWeightsLoaded : ¬ Obligations.PassesAreQueuedAndWeightsLoaded := by
  rintro ⟨h, -⟩
  have hp := h strayed (strayed.wait 0) ((strayed.wait 0).issuing 0 runningLane).catchAll 0 0 0 0 runningLane runningLane
    [0x110, 0, 0, 0] rfl (by decide +kernel) strayed_issues rfl
  obtain ⟨-, hfault⟩ := hp (by decide +kernel) (by decide +kernel)
  have hl := hfault (by decide +kernel) (by decide +kernel) (calm_of_listed (by decide +kernel) (by decide +kernel))
    (by decide +kernel) rfl rfl
  have hr := hl.regAfter (k := key 0x2500 0x0E) (v := 120000) (fun t ⟨_, hregs⟩ =>
    (hregs _ stray_uncovered).trans (by decide +kernel))
  rw [stray_passIssue] at hr
  exact absurd hr (by decide)

end Sys2Proof.Machine
end

section
/-! SUPPORT. What the work of the units of the cores leaves alone, cycle by cycle (Cycles.lean, log 49): time, the grade, the queue,
the jobs, the hub, the links, the banks and every other unit. -/
namespace Sys2Proof.Machine

set_option Elab.async false

/-- The state without what the units of the cores change while they work. -/
def State.still (s : State) : State :=
  { s with regs := [], holdoffs := [], events := [], emergencies := [], evOverflow := false, later := [], ts := {}, acc := {},
           stack := {}, ext := {}, valid := [], arrays := [], vectors := [], shunters := [], topks := [], refusals := [],
           taken := (0, []), arrivals := [], slots := [], extBusy := [], tables := [], ctxs := [], ghosts := [], kbRest := [],
           hubOps := [], laneSigs := [], parts := [], limits := {} }

/-- What stands outside the units' work is read off the still state. -/
theorem State.eq_of_still {γ : Type} {s t : State} (g : State → γ) (hg : ∀ u : State, g u = g u.still) (h : t.still = s.still) :
    g t = g s := by
  rw [hg t, hg s, h]

section Updates
variable (s : State) (k v n h c : Nat)

@[simp] theorem State.still_setReg : (s.setReg k v).still = s.still := rfl
@[simp] theorem State.still_addReg : (s.addReg k v).still = s.still := rfl
@[simp] theorem State.still_addKB : (s.addKB k n).still = s.still := rfl
@[simp] theorem State.still_opens (e : Effect) : (s.opens c e).still = s.still := rfl
@[simp] theorem State.still_opensC (e : Effect) : (s.opensC c n e).still = s.still := rfl
@[simp] theorem State.still_closesC (e : Effect) : (s.closesC c n e).still = s.still := rfl
@[simp] theorem State.still_setCtx (x : Ctx) : (s.setCtx k x).still = s.still := rfl
@[simp] theorem State.still_setHalf (x : HalfUnit) : (s.setHalf n h x).still = s.still := rfl
@[simp] theorem State.still_setVec (x : VecUnit) : (s.setVec c x).still = s.still := rfl
@[simp] theorem State.still_setTopk (x : TopkUnit) : (s.setTopk c x).still = s.still := rfl
@[simp] theorem State.still_setShunter (x : ShuntUnit) : (s.setShunter c n x).still = s.still := rfl
@[simp] theorem State.still_setValid (a r : Nat) (b : Bool) : (s.setValid c a h r b).still = s.still := rfl
@[simp] theorem State.still_take (t : Nat) (ps : List Nat) : (s.take t ps).still = s.still := rfl
@[simp] theorem State.still_noteDenial (w : Requester) : (s.noteDenial w).still = s.still := rfl
@[simp] theorem State.still_putEntries (o : Nat) (bs : Bytes) : (s.putEntries o bs).still = s.still := rfl
@[simp] theorem State.still_poisonAcc (b : Nat) : (s.poisonAcc b).still = s.still := rfl
@[simp] theorem State.still_arrivalLost (t : Nat) : (s.arrivalLost c n t).still = s.still := rfl
@[simp] theorem State.still_shuntLost (b : Bool) : (s.shuntLost c n b).still = s.still := rfl
@[simp] theorem State.still_topkLost : (s.topkLost c).still = s.still := rfl
@[simp] theorem State.still_loadLost (t : Nat) : (s.loadLost n h t).still = s.still := rfl
@[simp] theorem State.still_stopCount : s.stopCount.still = s.still := rfl

@[simp] theorem State.still_onCtx (f : Ctx → Ctx) : (s.onCtx k f).still = s.still := by
  unfold State.onCtx
  split <;> simp

theorem State.still_forEach {β : Type} (f : β → State → State) (hf : ∀ x u, (f x u).still = u.still) (xs : List β) :
    (forEach xs s f).still = s.still := forEach_same State.still f hf xs s

/-- A fold that carries a state with what it gathers. -/
theorem State.still_foldl {β γ : Type} (f : γ → β → γ) (g : γ → State) (hf : ∀ x y, (g (f x y)).still = (g x).still) (ys : List β)
    (x : γ) : (g (ys.foldl f x)).still = (g x).still := by
  induction ys generalizing x with
  | nil => rfl
  | cons y ys ih => rw [List.foldl_cons, ih, hf]

@[simp] theorem State.still_count (ix sub d : Nat) (l : Option (Nat × Nat)) : (s.count ix sub d l).still = s.still :=
  State.count_keeps s ix sub d l State.still (fun _ => rfl)

@[simp] theorem State.still_countMany (ix sub d : Nat) : (s.countMany n ix sub d).still = s.still :=
  State.still_foldl _ id (fun u _ => State.still_count u ix sub d none) _ s

theorem State.still_foundBad (level a : Nat) : (s.foundBad level a).still = s.still := by
  unfold State.foundBad
  simp

@[simp] theorem State.still_noticeBad (level sz a : Nat) : (s.noticeBad level sz a n).still = s.still :=
  State.still_forEach s _ (fun w u => State.still_foundBad u level (w * sz)) _

@[simp] theorem State.still_noticeSpan (x : Span) : (s.noticeSpan x).still = s.still := State.still_noticeBad _ _ _ _ _

theorem State.still_poke (p : Spot) (xs : List Marked) : (s.poke p xs).still = s.still := by
  cases p with
  | ts a => rfl
  | stack a => rfl
  | ext a => rfl
  | acc a =>
    unfold State.poke
    dsimp only
    split_ifs
    · rw [State.still_forEach _ _ (fun i u => State.still_poisonAcc u _), State.still_forEach _ _ (fun i u => State.still_poisonAcc u _)]
      rfl
    · rw [State.still_forEach _ _ (fun i u => State.still_poisonAcc u _)]
      rfl

@[simp] theorem State.still_writeTs (x : Nat) (xs : List Marked) : (s.writeTs k x xs).still = s.still := by
  have hone : ∀ (o : Option Spot) (m : Nat) (ys : List Marked),
      (match o with | some p => if m = 0 then s else s.poke p ys | none => s).still = s.still := by
    intro o m ys
    cases o with
    | none => rfl
    | some p =>
      dsimp only
      split_ifs
      · rfl
      · exact State.still_poke s p ys
  unfold State.writeTs
  dsimp only
  split
  · rw [State.still_poke]
    exact hone _ _ _
  · exact hone _ _ _

end Updates

/-! The arrays (03). -/

section Arrays
variable (s : State) (n h t : Nat)

@[simp] theorem State.still_wound (cause c : Nat) (p : Pass) : (s.wound n h cause c p).still = s.still := by
  unfold State.wound
  dsimp only
  split_ifs <;> rfl

@[simp] theorem State.still_flagRows (c a base : Nat) (p : Pass) (j : Nat) (b : Bool) :
    (s.flagRows c a base p j b).still = s.still :=
  State.still_forEach s _ (fun _ u => State.still_forEach u _ (fun _ w => State.still_setValid w _ _ _ _ _) _) _

@[simp] theorem State.still_countConds (k : Conds) (m : Nat) : (s.countConds k m).still = s.still := by
  have hone : ∀ (b : Bool) (u : State) (i : Nat), (if b = true then u.count 0x2901 i else u).still = u.still := by
    intro b u i
    cases b <;> simp
  unfold State.countConds
  dsimp only
  simp only [hone]

@[simp] theorem State.still_runVector (x : Ctx) (f : Flight) (j c2 : Nat) (v : Act) (r : AccRead) :
    (s.runVector n h x f j c2 v r).1.still = s.still := by
  unfold State.runVector
  dsimp only
  split
  · simp
  · split_ifs
    · simp
    · rw [State.still_flagRows, State.still_forEach _ _ (fun _ w => State.still_putEntries w _ _), State.still_countConds]
    · rw [State.still_forEach _ _ (fun _ w => State.still_putEntries w _ _), State.still_countConds]

@[simp] theorem State.still_feedRead : (s.feedRead n h).still = s.still := by
  unfold State.feedRead
  split
  · rfl
  · dsimp only
    split
    · split_ifs <;> simp
    · split_ifs <;> simp

@[simp] theorem State.still_feedLost : (s.feedLost n h).still = s.still := by
  unfold State.feedLost
  dsimp only
  split_ifs <;> simp

@[simp] theorem State.still_loadRow : (s.loadRow n h t).still = s.still := by
  unfold State.loadRow
  split
  · rfl
  · dsimp only
    split_ifs <;> simp

theorem State.still_a2Flight (f : Flight) : (s.a2Flight n h t f).1.still = s.still := by
  unfold State.a2Flight
  split
  · split_ifs <;> simp
  · rfl

theorem State.still_a1Flight (f : Flight) : (s.a1Flight n h t f).1.still = s.still := by
  unfold State.a1Flight
  split
  · dsimp only
    split_ifs <;> simp [State.still_forEach]
  · rfl

@[simp] theorem State.still_accHalf : (s.accHalf n h t).still = s.still := by
  unfold State.accHalf State.eachFlight
  dsimp only
  split_ifs
  · rfl
  · rw [State.still_setHalf]
    refine State.still_foldl _ Prod.fst (fun x f => ?_) _ (s, [])
    exact (State.still_a1Flight _ n h t _).trans (State.still_a2Flight _ n h t f)

end Arrays

/-! The vector units, the top-k units and the step tables (05, 08, 09). -/

section Vectors
variable (s : State) (c t : Nat)

@[simp] theorem State.still_computeStep (d : Desc) (x : Ctx) (w : Nat) : (s.computeStep c d x w).still = s.still := rfl

@[simp] theorem State.still_vecRead : (s.vecRead c t).still = s.still := by
  unfold State.vecRead
  split
  · dsimp only
    split_ifs <;> simp [State.still_forEach]
  · rfl

@[simp] theorem State.still_vecWrite : (s.vecWrite c t).still = s.still := by
  unfold State.vecWrite
  split
  · dsimp only
    split_ifs <;> simp [State.still_forEach]
  · rfl

@[simp] theorem State.still_vecLost (w f : Bool) : (s.vecLost c w f).still = s.still := by
  unfold State.vecLost
  dsimp only
  split_ifs <;> rfl

@[simp] theorem State.still_topkRead : (s.topkRead c t).still = s.still := by
  unfold State.topkRead
  split
  · dsimp only
    split_ifs <;> simp [State.still_forEach]
  · rfl

@[simp] theorem State.still_topkWrite : (s.topkWrite c t).still = s.still := by
  unfold State.topkWrite
  split
  · simp
  · rfl

@[simp] theorem State.still_tableWrite : (s.tableWrite c t).still = s.still := by
  unfold State.tableWrite
  split
  · exact State.still_writeTs _ _ _ _
  · rfl

@[simp] theorem State.still_tableLost : (s.tableLost c t).still = s.still := by
  unfold State.tableLost
  split <;> rfl

end Vectors

/-! The shunters (05 R140 to R143). -/

section Shunters
variable (s : State) (c n t : Nat) (d : Desc)

@[simp] theorem State.still_takeSlots (who a m : Nat) : (s.takeSlots c who t a m).2.still = s.still := by
  unfold State.takeSlots
  refine State.still_foldl _ Prod.snd (fun r w => ?_) _ (t, s)
  rfl

theorem State.still_readExt (ext : Store) (r len a m : Nat) : (s.readExt ext r len a m).2.still = s.still := by
  unfold State.readExt
  split
  · simp
  · dsimp only
    split <;> split <;> simp

@[simp] theorem State.still_readPart (sent : List (Nat × (Nat × List Marked))) (k ix o m : Nat) :
    (s.readPart d sent k ix o m).2.still = s.still := by
  unfold State.readPart
  dsimp only
  split
  · exact State.still_forEach s _ (fun x u => State.still_noticeSpan u x) _
  · dsimp only
    split <;> simp
  · simp
  · exact State.still_readExt _ _ _ _ _ _
  · rfl

@[simp] theorem State.still_takeIndex : (s.takeIndex c n t d).still = s.still := by
  unfold State.takeIndex
  simp [State.still_forEach]

@[simp] theorem State.still_takePart : (s.takePart c n t d).still = s.still := by
  unfold State.takePart
  dsimp only
  split_ifs <;> simp

@[simp] theorem State.still_sendRecords (xs : List Marked) : (s.sendRecords c t d xs).still = s.still := by
  refine State.still_forEach s _ (fun bs u => ?_) _
  unfold State.sendRecord
  dsimp only
  split_ifs <;> rfl

@[simp] theorem State.still_writePart (a : Nat) (xs : List Marked) : (s.writePart c n t d a xs).still = s.still := by
  unfold State.writePart
  split
  · simp
  · split
    · exact State.still_poke _ _ _
    · rfl
  · rfl
  · split_ifs
    · simp
    · rfl
  · split <;> rfl
  · dsimp only
    split_ifs <;> simp

@[simp] theorem State.still_carryOn : s.carryOn.still = s.still := by
  unfold State.carryOn
  split_ifs <;> rfl

@[simp] theorem State.still_shunterLeaves (last : Nat) : (s.shunterLeaves c n last d).still = s.still := by
  unfold State.shunterLeaves State.beginNext
  dsimp only
  split
  · split_ifs <;> simp
  · rfl

@[simp] theorem State.still_putPart : (s.putPart c n t d).still = s.still := by
  unfold State.putPart
  dsimp only
  split
  · simp
  · rfl

@[simp] theorem State.still_shuntRead (ok : Requester → Bool) : (s.shuntRead c n t ok).still = s.still := by
  unfold State.shuntRead
  split
  · rfl
  · dsimp only
    split_ifs <;> simp

@[simp] theorem State.still_shuntWrite (ok : Requester → Bool) : (s.shuntWrite c n t ok).still = s.still := by
  unfold State.shuntWrite
  split
  · rfl
  · dsimp only
    split_ifs <;> simp

@[simp] theorem State.still_shuntShows : (s.shuntShows c n t).still = s.still := by
  unfold State.shuntShows
  dsimp only
  split
  · rfl
  · exact State.still_forEach _ _ (fun w u => State.still_poke u _ _) _

@[simp] theorem State.still_arriveRemote (ok : Requester → Bool) : (s.arriveRemote t ok).still = s.still := by
  unfold State.arriveRemote
  exact State.still_forEach s _ (fun a u => State.still_writeTs { u with arrivals := u.arrivals.erase a } _ _ _) _

end Shunters

/-! Cycles (Cycles.lean) and removed frames (10 R287). -/

section Cycles
variable (s : State) (t : Nat) (ok : Requester → Bool)

@[simp] theorem State.still_stagingTurn (c : Nat) (b : Bool) : (s.stagingTurn c t b).still = s.still := by
  unfold State.stagingTurn
  split <;> simp

@[simp] theorem State.still_readers : (s.readers t ok).still = s.still := by
  unfold State.readers
  dsimp only
  rw [State.still_forEach _ _ (fun a u => by simp), State.still_forEach _ _ (fun c u => by split_ifs <;> simp),
    State.still_forEach _ _ (fun a u => by split_ifs <;> simp)]

@[simp] theorem State.still_writers : (s.writers t ok).still = s.still := by
  unfold State.writers
  dsimp only
  rw [State.still_forEach _ _ (fun a u => by simp), State.still_arriveRemote,
    State.still_forEach _ _ (fun c u => by split_ifs <;> simp), State.still_forEach _ _ (fun a u => by simp)]

@[simp] theorem State.still_deny (w : Requester) : (s.deny t w).still = s.still := by
  cases w <;> simp [State.deny]

@[simp] theorem State.still_delayUnits (no : List Ask) (fed : List Nat) : (s.delayUnits no fed).still = s.still := by
  unfold State.delayUnits
  dsimp only
  rw [State.still_forEach _ _ (fun a u => by split_ifs <;> simp), State.still_forEach _ _ (fun c u => by split_ifs <;> simp)]

@[simp] theorem State.still_stallAll : (s.stallAll t).still = s.still :=
  State.still_forEach s _ (fun a u => by
    split
    · split_ifs <;> simp
    · rfl) _

@[simp] theorem State.still_countWithheld (g : Grants) : (s.countWithheld g).still = s.still := by
  unfold State.countWithheld
  rw [State.still_countMany, State.still_countMany, State.still_countMany]

theorem State.still_cycle : (s.cycle t).still = s.still := by
  have hdeny : ∀ (no : List Ask) (u : State), (forEach no u (fun a u => (u.noteDenial a.who).deny t a.who)).still = u.still :=
    fun no u => State.still_forEach u _ (fun a u => (State.still_deny _ t a.who).trans (State.still_noteDenial u a.who)) no
  have hrefused : ∀ (u : State) (l : List (Requester × Nat)), ({ u with refusals := l } : State).still = u.still := fun _ _ => rfl
  have hunits : ∀ (ps : List Nat) (ok : Requester → Bool), ((((s.stallAll t).take t ps).readers t ok).writers t ok).still = s.still := by
    simp
  unfold State.cycle
  dsimp only
  rw [State.still_countWithheld, State.still_delayUnits, hdeny]
  exact (hrefused _ _).trans (hunits _ _)

theorem State.still_removeFrame : (s.removeFrame t).still = s.still := by
  have hstop : ∀ (f : Nat → Bool) (u : State), (u.stopCores f t).still = u.still := by
    intro f u
    unfold State.stopCores
    dsimp only
    rw [State.still_forEach _ _ (fun g w => by split_ifs <;> rfl)]
    rfl
  unfold State.removeFrame
  show (if _ then State.stopCount _ else _).still = _
  split_ifs
  · exact (State.still_stopCount _).trans (hstop _ s)
  · exact hstop _ s

/-- The units' work up to a cycle leaves all else alone. -/
theorem State.still_catchTo (stop : Nat) : (s.catchTo stop).still = s.still := by
  have hcycles : ∀ (m : Nat) (u : State), (State.cycles stop m u).still = u.still := by
    intro m
    induction m with
    | zero => exact fun _ => rfl
    | succ m ih =>
      intro u
      unfold State.cycles
      dsimp only
      split
      · rw [ih, State.still_removeFrame]
      · split_ifs
        · rw [ih, State.still_cycle]
        · rfl
  exact hcycles _ s

@[simp] theorem State.cclk_catchTo (stop : Nat) : (s.catchTo stop).cclk = s.cclk :=
  State.eq_of_still State.cclk (fun _ => rfl) (State.still_catchTo s stop)

@[simp] theorem State.cclk_catchUp : s.catchUp.cclk = s.cclk := State.cclk_catchTo s _

end Cycles

end Sys2Proof.Machine
end

section
/-! SUPPORT. A context that runs and waits for nothing, while the scheduler stirs (Jobs.lean, 09 R259 to R263): it keeps its position,
and nothing of it changes. -/
namespace Sys2Proof.Machine

set_option Elab.async false

/-! The halves of an array. -/

theorem ArrUnit.half_setHalf (a : ArrUnit) (h : Nat) (x : HalfUnit) : (a.setHalf h x).half h = x := by
  unfold ArrUnit.half ArrUnit.setHalf
  split_ifs <;> rfl

@[simp] theorem State.half_setHalf (s : State) (n h : Nat) (x : HalfUnit) : (s.setHalf n h x).half n h = x := by
  unfold State.half State.setHalf
  rw [State.array_setArray, ArrUnit.half_setHalf]

@[simp] theorem State.half_addReg (s : State) (k v n h : Nat) : (s.addReg k v).half n h = s.half n h := rfl

theorem State.half_sealed (w s : State) (n h : Nat) : (w.sealed s).half n h = s.half n h := rfl

theorem Quiet.half {rs : Spans} {s t : State} (q : Quiet rs s t) (n h : Nat) : t.half n h = s.half n h :=
  q.keeps (fun u => u.half n h) (fun _ => rfl)

/-! Ranking names no context that was not given. -/

theorem State.mem_rankIn {s : State} {k j : Nat} {ks : List Nat} (h : j ∈ s.rankIn k ks) : j = k ∨ j ∈ ks := by
  induction ks with
  | nil => exact .inl (List.mem_singleton.1 h)
  | cons a as ih =>
    unfold State.rankIn at h
    split_ifs at h
    · exact List.mem_cons.1 h
    · rcases List.mem_cons.1 h with rfl | h
      · exact .inr List.mem_cons_self
      · exact (ih h).imp_right (List.mem_cons_of_mem a)

theorem State.mem_ranked {s : State} {j : Nat} {ks : List Nat} (h : j ∈ s.ranked ks) : j ∈ ks := by
  suffices ∀ (xs acc : List Nat), j ∈ xs.foldl (fun r k => s.rankIn k r) acc → j ∈ xs ∨ j ∈ acc from
    (this ks [] h).resolve_right List.not_mem_nil
  intro xs
  induction xs with
  | nil => exact fun acc h => .inr h
  | cons x xs ih =>
    intro acc h
    rcases ih _ h with h | h
    · exact .inl (List.mem_cons_of_mem x h)
    · rcases State.mem_rankIn h with rfl | h
      · exact .inl List.mem_cons_self
      · exact .inr h

theorem State.pos_of_claimant {s : State} {c core j : Nat} (h : j ∈ s.claimants c core) : (s.ctx j).pos = false := by
  have := (List.mem_filter.1 (State.mem_ranked h)).2
  simp only [Bool.and_eq_true, Bool.not_eq_true'] at this
  exact this.1.1.1.1

theorem State.blocked_of_yielder {s : State} {core j : Nat} (h : j ∈ s.yielders core) : s.blocked j (s.ctx j) = true := by
  have := (List.mem_filter.1 h).2
  simp only [Bool.and_eq_true] at this
  exact this.1.2

/-! Calm states (Obligations/Std). -/

theorem State.ctx_of {s : State} {k : Nat} {x : Ctx} (h : s.ctx? k = some x) : s.ctx k = x := by
  unfold State.ctx
  rw [h, Option.getD_some]

@[simp] theorem State.ctx?_setCtx_same (s : State) (k : Nat) (x : Ctx) : (s.setCtx k x).ctx? k = some x := tfind_tput_same _ _ _

theorem State.ctx?_setCtx_other (s : State) {j k : Nat} (x : Ctx) (h : j ≠ k) : (s.setCtx k x).ctx? j = s.ctx? j :=
  tfind_tput_other _ _ h

theorem Calm.of_eq {s t : State} (h : Calm s) (hj : t.jobs = s.jobs) (hc : t.ctxs = s.ctxs) : Calm t := by
  refine ⟨fun j => ?_, fun k => ?_⟩
  · unfold State.job
    rw [hj]
    exact h.1 j
  · unfold State.ctx State.ctx?
    rw [hc]
    exact h.2 k

theorem Calm.evicted {s : State} (h : Calm s) {k : Nat} {x : Ctx} (hx : s.ctx? k = some x) : x.evicted = none :=
  State.ctx_of hx ▸ h.2 k

theorem Calm.setCtx {s : State} (h : Calm s) (k : Nat) {x : Ctx} (hx : x.evicted = none) : Calm (s.setCtx k x) := by
  refine ⟨h.1, fun j => ?_⟩
  by_cases hj : j = k
  · subst hj
    rw [State.ctx_of (State.ctx?_setCtx_same s j x)]
    exact hx
  · unfold State.ctx
    rw [State.ctx?_setCtx_other s x hj]
    exact h.2 j

/-- In a calm state nothing leaves: only the scheduler stirs. -/
theorem Calm.tidy {s : State} (h : Calm s) (c : Nat) : s.tidy c = s.stir c := by
  have hleave : s.leaveAll c = s := by
    unfold State.leaveAll
    rw [List.filter_eq_nil_iff.2 (fun k _ => by rw [h.1]; exact Bool.false_ne_true)]
    rfl
  have hevict : s.evictDeferred c = s := by
    refine forEach_keeps (fun u => u = s) _ (fun k u hu => ?_) _ s rfl
    subst hu
    rw [h.2 k]
    rfl
  unfold State.tidy
  rw [hleave, hevict]

/-! Contexts keep their mark of an eviction. -/

/-- A context that goes on after one of its descriptors has ended in cycle `c`. -/
def Ctx.worked (x : Ctx) (c : Nat) : Ctx := { x with work := x.work - 1, quietAt := if x.work ≤ 1 then c else x.quietAt }

@[simp] theorem Ctx.evicted_complete (x : Ctx) (c e : Nat) : (x.complete c e).evicted = x.evicted := rfl
@[simp] theorem Ctx.evicted_setSem (x : Ctx) (n : Nat) (v : Sem) : (x.setSem n v).evicted = x.evicted := rfl
@[simp] theorem Ctx.evicted_worked (x : Ctx) (c : Nat) : (x.worked c).evicted = x.evicted := rfl

@[simp] theorem Ctx.evicted_granted (x : Ctx) (r : Nat) : (x.granted r).evicted = x.evicted := by
  unfold Ctx.granted
  split_ifs
  · dsimp only
    split <;> rfl
  · rfl

/-- The state is calm, and context `k` is `x`. -/
def Steady (k : Nat) (x : Ctx) (s : State) : Prop := Calm s ∧ s.ctx? k = some x

section
variable {s t : State} {k j : Nat} {x y : Ctx}

theorem Steady.of_eq (h : Steady k x s) (hj : t.jobs = s.jobs) (hc : t.ctxs = s.ctxs) : Steady k x t :=
  ⟨h.1.of_eq hj hc, by unfold State.ctx?; rw [hc]; exact h.2⟩

theorem Steady.setCtx_same (h : Calm s) (hy : y.evicted = none) : Steady k y (s.setCtx k y) :=
  ⟨h.setCtx k hy, State.ctx?_setCtx_same s k y⟩

theorem Steady.setCtx_other (h : Steady k x s) (hj : j ≠ k) (hy : y.evicted = none) : Steady k x (s.setCtx j y) :=
  ⟨h.1.setCtx j hy, (State.ctx?_setCtx_other s y hj.symm).trans h.2⟩

theorem Steady.onCtx_other (h : Steady k x s) (hj : j ≠ k) {f : Ctx → Ctx} (hf : ∀ z, (f z).evicted = z.evicted) :
    Steady k x (s.onCtx j f) := by
  unfold State.onCtx
  split
  case h_1 z hz => exact h.setCtx_other hj ((hf z).trans (h.1.evicted hz))
  case h_2 => exact h

theorem Steady.count (h : Steady k x s) (ix sub : Nat) : Steady k x (s.count ix sub) :=
  h.of_eq (State.count_keeps s ix sub 0 none State.jobs (fun _ => rfl)) (State.count_keeps s ix sub 0 none State.ctxs (fun _ => rfl))

theorem Steady.grantTo (h : Steady k x s) (hj : j ≠ k) (c : Nat) : Steady k x (s.grantTo j c) := by
  unfold State.grantTo
  split
  · exact h
  case h_2 z hz =>
    have hs := h.setCtx_other hj ((Ctx.evicted_granted z (if s.det then s.frameStart c else c)).trans (h.1.evicted hz))
    exact hs.of_eq rfl rfl

theorem Steady.wakeOne (h : Steady k x s) (hx : x.waiting = .none) (c j : Nat) : Steady k x (s.wakeOne c j) := by
  unfold State.wakeOne
  split
  · exact h
  case h_2 z hz =>
    have hz' := h.1.evicted hz
    by_cases hj : j = k
    case pos =>
      subst hj
      cases h.2.symm.trans hz
      rw [if_neg (by rw [hx]; exact Bool.false_ne_true)]
      exact h
    case neg =>
      split_ifs
      · exact h.setCtx_other hj hz'
      · exact h
      · exact h.setCtx_other hj hz'
      · exact h.setCtx_other hj hz'
      · exact h
      · exact h

theorem Steady.grantCore (h : Steady k x s) (hpos : x.pos = true) (hx : x.waiting = .none) (c core n : Nat) :
    Steady k x (State.grantCore c core n s) := by
  induction n generalizing s with
  | zero => exact h
  | succ n ih =>
    have hclaims : ∀ j ∈ s.claimants c core, j ≠ k := by
      rintro j hj rfl
      have := State.pos_of_claimant hj
      rw [State.ctx_of h.2, hpos] at this
      cases this
    have hyields : ∀ j ∈ s.yielders core, j ≠ k := by
      rintro j hj rfl
      have := State.blocked_of_yielder hj
      rw [State.ctx_of h.2] at this
      unfold State.blocked at this
      rw [hx] at this
      cases this
    unfold State.grantCore
    dsimp only
    split
    · exact h
    case h_2 j js hks =>
      have hj : j ≠ k := hclaims j (by rw [hks]; exact List.mem_cons_self)
      split_ifs with hopen
      · obtain ⟨i, ht⟩ := Option.isSome_iff_exists.1 hopen.2
        rw [ht]
        have hkept : Steady k x (s.setKept core (s.keptFor core - 1)) := h.of_eq rfl rfl
        exact ih (hkept.grantTo (hclaims i (List.mem_of_find?_eq_some ht)) c)
      · exact ih (h.grantTo hj c)
      · split
        · exact h
        case h_2 y ys hys =>
          have hy : y ≠ k := hyields y (by rw [hys]; exact List.mem_cons_self)
          exact ih ((h.onCtx_other hy (f := fun z => z.leave c) (fun _ => rfl)).grantTo hj c)

theorem Steady.restoreReady (h : Steady k x s) (hplace : x.place = .inPlace) (c core n : Nat) :
    Steady k x (State.restoreReady c core n s) := by
  induction n generalizing s with
  | zero => exact h
  | succ n ih =>
    unfold State.restoreReady
    split
    case h_1 m j js _ hks =>
      have hj : j ≠ k := by
        rintro rfl
        have := (List.mem_filter.1 (State.mem_ranked (hks ▸ List.mem_cons_self))).2
        rw [State.ctx_of h.2] at this
        simp [hplace] at this
      exact ih (h.onCtx_other hj (fun _ => rfl))
    · exact h

/-- A context in place that holds a position and waits for nothing stays as it is while the scheduler stirs. -/
theorem Steady.stir (h : Steady k x s) (hpos : x.pos = true) (hplace : x.place = .inPlace) (hx : x.waiting = .none) (c : Nat) :
    Steady k x (s.stir c) :=
  forEach_keeps (Steady k x) _ (fun core _ hu => (hu.grantCore hpos hx c core 4).restoreReady hplace c core 4) _ _
    (forEach_keeps (Steady k x) _ (fun j _ hu => hu.wakeOne hx c j) _ s h)

end

/-! The end of a descriptor of such a context (05 R145, 09 R266). -/

section
variable {s t : State} {k : Nat} {x : Ctx} {rs : Spans}

theorem State.isCtx_of (h : s.ctx? k = some x) : s.isCtx k x.inc = true := by
  unfold State.isCtx
  rw [h]
  exact beq_self_eq_true _

theorem Ctx.sem_setSem (x : Ctx) (n : Nat) (v : Sem) : (x.setSem n v).sem n = v := tget_tset_same _ _ _ _

theorem Ctx.listens_of (hplace : x.place = .inPlace) (hmove : x.move = none) : x.listens = true := by
  unfold Ctx.listens
  rw [hplace, hmove]
  rfl

/-- The signal of its own unit reaches a private semaphore, and a shared one by way of the hub. -/
theorem Steady.signalOwn (h : Steady k x s) (hpos : x.pos = true) (hplace : x.place = .inPlace) (hmove : x.move = none)
    (hx : x.waiting = .none) (n c : Nat) :
    Steady k (if n < 56 then x.setSem n ((x.sem n).raise 1 none) else x) (s.signalOwn k x.inc n c) := by
  unfold State.signalOwn
  split_ifs with hn hc
  · refine Steady.stir (x := x.setSem n ((x.sem n).raise 1 none)) ?_ hpos hplace hx c
    unfold State.signalCtx
    rw [h.2]
    dsimp only
    rw [if_pos (Ctx.listens_of hplace hmove)]
    have hs : Steady k (x.setSem n ((x.sem n).raise 1 none)) (s.setCtx k (x.setSem n ((x.sem n).raise 1 none))) :=
      Steady.setCtx_same h.1 ((Ctx.evicted_setSem x n _).trans (h.1.evicted h.2))
    split_ifs
    · exact hs.count 0x2901 0x0B
    · exact hs
  · exact absurd (State.isCtx_of h.2) hc
  · exact h.of_eq rfl rfl

theorem State.signalOwn_quiet (s : State) (k i n c : Nat) (hsched : schedSpan ∈ rs) (hcount : counterSpan ∈ rs) :
    Quiet rs s (s.signalOwn k i n c) := by
  unfold State.signalOwn
  split_ifs
  · exact (State.signalCtx_quiet s k n 1 none hcount).trans (State.stir_quiet _ c hsched)
  · exact Quiet.refl s
  · exact ⟨fun _ _ => rfl, rfl⟩

theorem Steady.endWork_eq (h : Steady k x s) (hx : x.waiting = .none) (hforced : x.forced = false) (c : Nat) :
    s.endWork k x.inc c = (s.setCtx k (x.worked c)).stir c := by
  have hgoes : ∀ a b u : State, (if (x.worked c).work = 0 then (if (x.worked c).forced then a
      else if (x.worked c).waiting = .yield ∧ (x.worked c).pos then b else u) else u) = u := by
    intro a b u
    rw [show (x.worked c).forced = false from hforced, show (x.worked c).waiting = .none from hx]
    simp
  have hcalm : Calm (s.setCtx k (x.worked c)) := h.1.setCtx k ((Ctx.evicted_worked x c).trans (h.1.evicted h.2))
  unfold State.endWork
  rw [if_pos (State.isCtx_of h.2), State.ctx_of h.2]
  exact (congrArg (fun u => u.tidy c) (hgoes _ _ _)).trans (hcalm.tidy c)

theorem Steady.endWork (h : Steady k x s) (hpos : x.pos = true) (hplace : x.place = .inPlace) (hx : x.waiting = .none)
    (hforced : x.forced = false) (c : Nat) : Steady k (x.worked c) (s.endWork k x.inc c) := by
  rw [h.endWork_eq hx hforced]
  have hs : Steady k (x.worked c) (s.setCtx k (x.worked c)) := Steady.setCtx_same h.1 ((Ctx.evicted_worked x c).trans (h.1.evicted h.2))
  exact hs.stir hpos hplace hx c

theorem Steady.endWork_quiet (h : Steady k x s) (hx : x.waiting = .none) (hforced : x.forced = false) (c : Nat)
    (hsched : schedSpan ∈ rs) : Quiet rs s (s.endWork k x.inc c) := by
  rw [h.endWork_eq hx hforced]
  exact (Quiet.setCtx (Quiet.refl s)).trans (State.stir_quiet _ c hsched)

end

end Sys2Proof.Machine
end

section
/-! Passes start and complete, and an array changes its mode (03 R72 to R79, R83). -/
namespace Sys2Proof.Machine

set_option Elab.async false

section
variable (s : State) (n h : Nat) (p : Pass) (x : Weights)

/-! A pass starts (R74, R78). -/

/-- The vectors read ahead, each entering in its slot. -/
def State.entrants (s : State) (n h : Nat) (p : Pass) : List Act :=
  (s.half n h).ahead.zipIdx.map (fun v => { v.1 with at_ := s.cclk + p.period * v.2 })

/-- The half in which the first queued pass has started. -/
def State.startedHalf (s : State) (n h : Nat) (p : Pass) (x : Weights) : HalfUnit :=
  { s.half n h with
    queue := (s.half n h).queue.drop 1
    flights := (s.half n h).flights ++
      [{ pass := p, e := s.cclk, next := s.cclk + p.period * (s.entrants n h p).length, wts := some x, acts := s.entrants n h p }]
    ahead := []
    late := 0
    shadow := if p.keep then (s.half n h).shadow else none
    freeAt := if p.keep then (s.half n h).freeAt else s.cclk + 17
    active := some x }

theorem State.entrants_at : (s.entrants n h p).map Act.at_ =
    (upTo (s.half n h).ahead.length).map (fun i => s.cclk + p.period * i) := by
  have hix : (s.half n h).ahead.zipIdx.map Prod.snd = upTo (s.half n h).ahead.length := by
    exact (List.zipIdx_map_snd _ _).trans List.range_eq_range'.symm
  unfold State.entrants
  rw [← hix, List.map_map, List.map_map]
  rfl

/-- A wound is only noted in its half. -/
theorem State.wound_keeps {γ : Type} (g : State → γ) (hg : ∀ (u : State) (y : HalfUnit), g (u.setHalf n h y) = g u)
    (cause c : Nat) : g (s.wound n h cause c p) = g s := by
  unfold State.wound
  dsimp only
  split_ifs
  · rfl
  · exact hg _ _

theorem State.half_wound (cause c : Nat) : ∃ ws, (s.wound n h cause c p).half n h = { s.half n h with wounds := ws } := by
  unfold State.wound
  dsimp only
  split_ifs
  · exact ⟨_, rfl⟩
  · exact ⟨_, State.half_setHalf _ _ _ _⟩

/-- Outside its half, a pass that starts only counts what it waited for weights. -/
theorem State.startPass_keeps {γ : Type} (g : State → γ) (hg : ∀ (u : State) (y : HalfUnit), g (u.setHalf n h y) = g u) :
    g (s.startPass n h p x) = g (s.addReg (kArr 0x40 n) ((s.half n h).waited s.cclk)) := by
  unfold State.startPass
  dsimp only
  split
  · rw [State.wound_keeps _ n h p g hg, hg]
  · rw [hg]

theorem State.half_startPass : ∃ ws, (s.startPass n h p x).half n h = { s.startedHalf n h p x with wounds := ws } := by
  unfold State.startPass
  dsimp only
  split
  case h_1 v _ =>
    obtain ⟨ws, hws⟩ := State.half_wound ((s.addReg (kArr 0x40 n) ((s.half n h).waited s.cclk)).setHalf n h
      (s.startedHalf n h p x)) n h p 2 v.at_
    refine ⟨ws, hws.trans ?_⟩
    rw [State.half_setHalf]
  · exact ⟨_, State.half_setHalf _ _ _ _⟩

end

/-! A pass completes (R72). -/

/-- The half from which a flight has gone. -/
def HalfUnit.landed (u : HalfUnit) (f : Flight) (fs : List Flight) : HalfUnit :=
  { u with flights := fs, slotFrom := max u.slotFrom (f.lastEntry + f.pass.period), bound := max u.bound f.lastEntry }

/-- The flight has gone and is counted. -/
def State.land (s : State) (n h : Nat) (f : Flight) (fs : List Flight) : State :=
  (s.setHalf n h ((s.half n h).landed f fs)).addReg (kArr 0x30 n) 1

/-- What the context of a pass that has completed sees of it: its signal, and the end of a descriptor. -/
def State.reward (s : State) (f : Flight) : State :=
  (if f.pass.done then s.signalOwn f.pass.ctx f.pass.inc f.pass.sem (f.lastEntry + 22) else s).endWork f.pass.ctx f.pass.inc
    (f.lastEntry + 22)

/-- The context after the signal of a pass, if it has one for a private semaphore. -/
def Ctx.signalled (x : Ctx) (p : Pass) : Ctx :=
  if p.done = true ∧ p.sem < 56 then x.setSem p.sem ((x.sem p.sem).raise 1 none) else x

/-- A signal changes nothing of a context but its semaphores. -/
theorem Ctx.signalled_keeps {γ : Type} (g : Ctx → γ) (hg : ∀ (y : Ctx) (n : Nat) (v : Sem), g (y.setSem n v) = g y) (x : Ctx)
    (p : Pass) : g (x.signalled p) = g x := by
  unfold Ctx.signalled
  split_ifs
  · exact hg _ _ _
  · rfl

theorem Runs.steady {s : State} {k : Nat} {x : Ctx} (h : Runs s k x) : Steady k x s := ⟨h.calm, h.here⟩

theorem Runs.of_eq {s t : State} {k : Nat} {x : Ctx} (h : Runs s k x) (hj : t.jobs = s.jobs) (hc : t.ctxs = s.ctxs) : Runs t k x :=
  { h with here := (h.steady.of_eq hj hc).2, calm := h.calm.of_eq hj hc }

section
variable {s : State} {f : Flight} {x : Ctx}

theorem Runs.signalled (h : Runs s f.pass.ctx x) (hi : x.inc = f.pass.inc) : Steady f.pass.ctx (x.signalled f.pass)
    (if f.pass.done then s.signalOwn f.pass.ctx f.pass.inc f.pass.sem (f.lastEntry + 22) else s) := by
  have hs := h.steady.signalOwn h.pos h.place h.moves h.waits f.pass.sem (f.lastEntry + 22)
  rw [hi] at hs
  unfold Ctx.signalled
  cases f.pass.done
  case true => simpa using hs
  case false => simpa using h.steady

theorem Runs.reward (h : Runs s f.pass.ctx x) (hi : x.inc = f.pass.inc) :
    Steady f.pass.ctx ((x.signalled f.pass).worked (f.lastEntry + 22)) (s.reward f) := by
  have hinc := (x.signalled_keeps Ctx.inc (fun _ _ _ => rfl) f.pass).trans hi
  have hs := (h.signalled hi).endWork ((x.signalled_keeps Ctx.pos (fun _ _ _ => rfl) f.pass).trans h.pos)
    ((x.signalled_keeps Ctx.place (fun _ _ _ => rfl) f.pass).trans h.place)
    ((x.signalled_keeps Ctx.waiting (fun _ _ _ => rfl) f.pass).trans h.waits)
    ((x.signalled_keeps Ctx.forced (fun _ _ _ => rfl) f.pass).trans h.forced) (f.lastEntry + 22)
  rwa [hinc] at hs

theorem Runs.reward_quiet (h : Runs s f.pass.ctx x) (hi : x.inc = f.pass.inc) : Quiet signalSpans s (s.reward f) := by
  have hsched : schedSpan ∈ signalSpans := List.mem_cons_self
  have hcount : counterSpan ∈ signalSpans := List.mem_cons_of_mem _ List.mem_cons_self
  have hinc := (x.signalled_keeps Ctx.inc (fun _ _ _ => rfl) f.pass).trans hi
  have hsignal : Quiet signalSpans s
      (if f.pass.done then s.signalOwn f.pass.ctx f.pass.inc f.pass.sem (f.lastEntry + 22) else s) := by
    split_ifs
    · exact State.signalOwn_quiet s _ _ _ _ hsched hcount
    · exact Quiet.refl s
  have hend := (h.signalled hi).endWork_quiet ((x.signalled_keeps Ctx.waiting (fun _ _ _ => rfl) f.pass).trans h.waits)
    ((x.signalled_keeps Ctx.forced (fun _ _ _ => rfl) f.pass).trans h.forced) (f.lastEntry + 22) hsched
  rw [hinc] at hend
  exact hsignal.trans hend

end

/-! The commands. -/

section
variable {s w u : State} {dt : Nat} {core : Fin 6} {a h : Fin 2}

theorem exec_of_during {c : Instr} {f : State → State} (hc : exec c s = .next (s.during dt f)) (hw : w = s.wait dt) (hup : w.up = true)
    {t : State} (hf : f w = t) : exec c s = .next (w.sealed t) := by
  rw [exec_during hc hw hup, hf]

theorem exec_passStart {p : Pass} {q : List Pass} {x : Weights} {d : Nat} (hw : w = s.wait dt) (hup : w.up = true)
    (hu : u = w.catchUp) (hqueue : (u.half (2 * core + a) h).queue = p :: q)
    (hmay : (u.half (2 * core + a) h).mayEnter p ≤ w.cclk) (hslot : u.feedSlot (2 * core + a) h = true)
    (hlead : p.lead ≤ (u.half (2 * core + a) h).ahead.length)
    (hnew : p.keep = false → (u.half (2 * core + a) h).shadow = some (x, d) ∧ d < w.cclk)
    (hkeep : p.keep = true → (u.half (2 * core + a) h).active = some x ∧ x.ctx = p.ctx ∧ x.inc = p.inc ∧ x.fmts = p.fmts) :
    exec (.passStart dt core a h) s = .next (w.sealed (u.startPass (2 * core + a) h p x)) := by
  have hc : u.cclk = w.cclk := hu ▸ State.cclk_catchUp w
  subst hu
  refine exec_of_during rfl hw hup ?_
  simp only [hqueue, hc, hmay, hslot, decide_true, Bool.and_self, if_true]
  cases hk : p.keep
  case false =>
    obtain ⟨hshadow, hd⟩ := hnew hk
    simp [hshadow, hd, hlead]
  case true =>
    obtain ⟨hactive, hctx, hinc, hfmts⟩ := hkeep hk
    simp [hactive, hctx, hinc, hfmts, hlead]

theorem exec_passComplete {f : Flight} {fs : List Flight} (hw : w = s.wait dt) (hup : w.up = true) (hu : u = w.catchUp)
    (hflights : (u.half (2 * core + a) h).flights = f :: fs) (hdone : f.done = f.pass.n) (hshown : f.lastEntry + 22 ≤ w.cclk)
    (hclean : (u.half (2 * core + a) h).spoiled f = false) :
    exec (.passComplete dt core a h) s = .next (w.sealed ((u.land (2 * core + a) h f fs).reward f)) := by
  have hc : u.cclk = w.cclk := hu ▸ State.cclk_catchUp w
  subst hu
  refine exec_of_during rfl hw hup ?_
  dsimp only
  rw [hflights]
  dsimp only
  rw [if_pos ⟨hdone, hc ▸ hshown, hclean⟩]
  rfl

/-- A half of an array that changes its mode. -/
def HalfUnit.cleared (x : HalfUnit) (c : Nat) : HalfUnit :=
  { x with active := none, shadow := none, freeAt := c, ahead := [], late := 0 }

/-- An array in its other mode, both halves cleared. -/
def ArrUnit.flipped (x : ArrUnit) (c : Nat) : ArrUnit := { split := !x.split, l := x.l.cleared c, r := x.r.cleared c }

theorem exec_modeChange (hw : w = s.wait dt) (hup : w.up = true) (hu : u = w.catchAll)
    (hpresent : gArray w.grade (2 * core + a) = true) (hl : (w.array (2 * core + a)).l.empty w.cclk = true)
    (hr : (w.array (2 * core + a)).r.empty w.cclk = true) (hwants : w.wantsMode core a (!(w.array (2 * core + a)).split) = true) :
    exec (.modeChange dt core a) s = .next (w.sealed (u.setArray (2 * core + a) ((u.array (2 * core + a)).flipped u.cclk))) := by
  subst hu
  refine exec_of_during rfl hw hup ?_
  simp only [hpresent, hl, hr, hwants, Bool.and_self, if_true]
  rfl

end

theorem ArrUnit.half_flipped (x : ArrUnit) (c h : Nat) : (x.flipped c).half h = (x.half h).cleared c := by
  unfold ArrUnit.half
  split_ifs <;> rfl

/-- The counts of completed passes are none of the registers that a signal may change. -/
theorem passCount_uncovered {n : Nat} (hn : n < 12) : covers signalSpans (kArr 0x30 n) = false := by
  simp only [signalSpans, covers_cons, covers_nil, and_true, schedSpan, counterSpan, pages, kArr, key]
  omega

theorem ne_of_uncovered {rs : Spans} {j k : Nat} (hk : covers rs k = false) (hj : at1 j ∈ rs) : k ≠ j := by
  rintro rfl
  rw [covers_at1 hj] at hk
  cases hk

/-- A pass that starts changes no memory. -/
theorem State.startPass_mem (u : State) (n h : Nat) (p : Pass) (x : Weights) : SameMem u (u.startPass n h p x) :=
  ⟨u.startPass_keeps n h p x State.ts (fun _ _ => rfl), u.startPass_keeps n h p x State.acc (fun _ _ => rfl),
   u.startPass_keeps n h p x State.stack (fun _ _ => rfl), u.startPass_keeps n h p x State.ext (fun _ _ => rfl),
   u.startPass_keeps n h p x State.valid (fun _ _ => rfl)⟩

/-- Settles O17: a pass that starts is followed into its half, one that completes is followed to its context, which the stir of the
scheduler leaves as it is, and the mode of an array turns with both halves cleared. -/
theorem passesStartAndComplete : Obligations.PassesStartAndComplete := by
  refine ⟨?_, ?_, ?_⟩
  · intro s w u dt core a h d p q x hw hup hu hqueue hmay hslot hlead hnew hkeep
    have hc : u.cclk = w.cclk := hu ▸ State.cclk_catchUp w
    obtain ⟨ws, hhalf⟩ := u.half_startPass (2 * core + a) h p x
    have hreg := fun k => u.startPass_keeps (2 * core + a) h p x (fun t => t.reg k) (fun _ _ => rfl)
    refine leads_of (exec_passStart hw hup hu hqueue hmay hslot hlead hnew hkeep) ?_
    dsimp only
    rw [State.half_sealed, hhalf]
    refine ⟨congrArg (List.drop 1) hqueue, rfl, rfl, fun hk => ?_, ⟨_, rfl, rfl, hc, rfl, hc ▸ u.entrants_at _ h p⟩, ?_,
      fun k hk => ?_, u.startPass_mem _ h p x⟩
    · simp [State.startedHalf, hk, hc]
    · rw [State.sealed_reg, hreg, State.reg_addReg_same, Nat.mod_eq_of_lt (satAdd_lt _ _ _), hc]
    · rw [State.sealed_reg, hreg, State.reg_addReg_other _ _ (ne_of_uncovered hk List.mem_cons_self)]
  · intro s w u dt core a h f fs x hw hup hu hflights hdone hshown hclean hruns hi
    have hland : Runs (u.land (2 * core + a) h f fs) f.pass.ctx x := hruns.of_eq rfl rfl
    have hquiet := hland.reward_quiet hi
    refine leads_of (exec_passComplete hw hup hu hflights hdone hshown hclean) ⟨?_, ?_, ⟨_, (hland.reward hi).2, ?_, ?_, ?_⟩,
      fun k hk => ?_, hquiet.mem⟩
    · rw [State.half_sealed, hquiet.half, State.land, State.half_addReg, State.half_setHalf]
      rfl
    · rw [State.sealed_reg, hquiet.regs _ (passCount_uncovered (by omega)), State.land, State.reg_addReg_same,
        Nat.mod_eq_of_lt (satAdd_lt _ _ _)]
      rfl
    · exact congrArg (· - 1) (x.signalled_keeps Ctx.work (fun _ _ _ => rfl) f.pass)
    · exact x.signalled_keeps Ctx.entry (fun _ _ _ => rfl) f.pass
    · intro hd hn
      show (x.signalled f.pass).sem f.pass.sem = _
      rw [Ctx.signalled, if_pos ⟨hd, hn⟩, Ctx.sem_setSem]
    · have hother := ((covers_cons _ _ k).1 hk).2
      rw [State.sealed_reg, hquiet.regs k hother, State.land, State.reg_addReg_other _ _ (ne_of_uncovered hk List.mem_cons_self)]
      rfl
  · intro s w u dt core a hw hup hu hpresent hl hr hwants
    have harray := State.array_setArray (i := 2 * core + a) u ((u.array (2 * core + a)).flipped u.cclk)
    refine leads_of (exec_modeChange hw hup hu hpresent hl hr hwants) ⟨?_, fun h => ?_, fun _ _ => rfl, rfl, rfl, rfl, rfl, rfl⟩
    · exact congrArg ArrUnit.split harray
    · rw [State.half_sealed, State.half, harray, ArrUnit.half_flipped]
      exact ⟨rfl, rfl⟩

end Sys2Proof.Machine
end

section
/-! SUPPORT. What the scheduler's stir does to a context (Jobs.lean, 09 R259 to R263): a wait that is satisfied completes, a claimant is
granted a position, a blocked holder gives its own up, and a context in its siding is restored. -/
namespace Sys2Proof.Machine

/-! What a stir leaves of the state. -/

section
variable {γ : Type} (g : State → γ) (hctx : ∀ (u : State) k x y, u.ctx? k = some y → g (u.setCtx k x) = g u) (s : State)
  (k c core : Nat)
include hctx

theorem State.onCtx_leaves (f : Ctx → Ctx) : g (s.onCtx k f) = g s := by
  unfold State.onCtx
  split
  case h_1 y hy => exact hctx _ _ _ y hy
  case h_2 => rfl

theorem State.wakeOne_leaves : g (s.wakeOne c k) = g s := by
  unfold State.wakeOne
  split
  case h_1 => rfl
  case h_2 y hy =>
    have hset := fun x => hctx s k x y hy
    dsimp only
    split_ifs <;> simp only [hset]

theorem State.restoreReady_leaves (n : Nat) : g (State.restoreReady c core n s) = g s := by
  induction n generalizing s with
  | zero => rfl
  | succ n ih =>
    unfold State.restoreReady
    split
    · rw [ih, State.onCtx_leaves g hctx]
    · rfl

variable (hgrant : ∀ (u : State) j n, g (u.addReg (kJob j 0x0A) n) = g u)
include hgrant

theorem State.grantTo_leaves : g (s.grantTo k c) = g s := by
  unfold State.grantTo
  split
  case h_1 => rfl
  case h_2 y hy => rw [hgrant, hctx s k _ y hy]

variable (hkept : ∀ (u : State) i n, g (u.setKept i n) = g u)
include hkept

theorem State.grantCore_leaves (n : Nat) : g (State.grantCore c core n s) = g s := by
  have hto := fun (u : State) j => State.grantTo_leaves g hctx u j c hgrant
  induction n generalizing s with
  | zero => rfl
  | succ n ih =>
    unfold State.grantCore
    dsimp only
    split
    · rfl
    · split_ifs
      · rw [ih, hto, hkept]
      · rw [ih, hto]
      · split
        · rfl
        · rw [ih, hto, State.onCtx_leaves g hctx]

/-- A stir changes contexts, the positions kept for targets, and the jobs' counts of positions granted. -/
theorem State.stir_leaves : g (s.stir c) = g s := by
  unfold State.stir
  dsimp only
  rw [forEach_same g _ (fun core u => by
      rw [State.restoreReady_leaves g hctx, State.grantCore_leaves g hctx _ _ _ hgrant hkept]),
    forEach_same g _ (fun k u => State.wakeOne_leaves g hctx u k c)]

end

/-- The state without its registers, its contexts and the positions kept for targets. -/
def State.unstirred (s : State) : State := { s with regs := [], ctxs := [], kept := [] }

/-- What stands outside them is as before a stir. -/
theorem State.stir_keeps {γ : Type} (s : State) (c : Nat) (g : State → γ) (hg : ∀ u : State, g u = g u.unstirred) :
    g (s.stir c) = g s :=
  State.stir_leaves g (fun u _ _ _ _ => (hg _).trans (hg u).symm) s c (fun u _ _ => (hg _).trans (hg u).symm)
    (fun u _ _ => (hg _).trans (hg u).symm)

/-- A register that is no job's count of positions granted is as before a stir. -/
theorem State.reg_stir (s : State) (c : Nat) {r : Nat} (h : ∀ j, r ≠ kJob j 0x0A) : (s.stir c).reg r = s.reg r :=
  State.stir_leaves (fun u => u.reg r) (fun _ _ _ _ _ => rfl) s c (fun _ j _ => State.reg_addReg_other _ _ (h j))
    (fun _ _ _ => rfl)

/-! What a stir does to one context. -/

/-- A semaphore of its own has less than the wait of a context asks for, its pending record included, or the wait is on a shared one. -/
def Ctx.unmet (x : Ctx) : Prop :=
  56 ≤ waitSem x.word
  ∨ min 65535 ((x.sem (waitSem x.word)).count + (tget (fun _ => (0, none)) x.record (waitSem x.word)).1) < waitVal x.word

/-- A context in place without a position that has not given one up in cycle `c` (R259, R266). -/
structure Ctx.Claims (x : Ctx) (c : Nat) : Prop where
  idle : x.pos = false
  place : x.place = .inPlace
  ranks : ¬(x.away = true ∧ x.leftAt = c)

/-- What is said of a context outlasts a stir of cycle `c`: no wait of it completes, and it is still so of the context when it is
granted a position, when it leaves one that it blocks, and when it is restored from its siding. -/
structure Lasting (c : Nat) (p : Ctx → Prop) : Prop where
  waits : ∀ x, p x → x.waiting = .wait → x.cancelled = false ∧ x.unmet
  granted : ∀ x r, p x → x.Claims c → p (x.granted r)
  leaves : ∀ x, p x → x.pos = true → (x.waiting = .wait ∨ x.waiting = .credit) → p (x.leave c)
  restored : ∀ x n, p x → x.place = .siding → p (Ctx.startMove { x with slot := some n } .restore c)

theorem State.of_claimant {s : State} {c core j : Nat} (h : j ∈ s.claimants c core) : (s.ctx j).Claims c := by
  have := (List.mem_filter.1 (State.mem_ranked h)).2
  simp only [Bool.and_eq_true, Bool.not_eq_true', beq_iff_eq, Bool.and_eq_false_iff, beq_eq_false_iff_ne] at this
  obtain ⟨⟨⟨⟨hpos, hplace⟩, -⟩, -⟩, hranks⟩ := this
  exact ⟨hpos, hplace, fun h => hranks.elim (fun hf => by simp [h.1] at hf) (fun hn => hn h.2)⟩

theorem State.of_yielder {s : State} {core j : Nat} (h : j ∈ s.yielders core) :
    (s.ctx j).pos = true ∧ ((s.ctx j).waiting = .wait ∨ (s.ctx j).waiting = .credit) := by
  have hpos := (List.mem_filter.1 h).2
  simp only [Bool.and_eq_true] at hpos
  refine ⟨hpos.1.1, ?_⟩
  have hb := hpos.1.2
  unfold State.blocked at hb
  split at hb
  case h_1 hw => exact .inl hw
  case h_2 hw => exact .inr hw
  case h_3 => cases hb

section
variable {s : State} {c k : Nat} {p : Ctx → Prop}

theorem CtxIs.here (h : CtxIs s k p) : s.ctx? k = some (s.ctx k) ∧ p (s.ctx k) := by
  obtain ⟨x, hx, hp⟩ := h
  rw [State.ctx_of hx]
  exact ⟨hx, hp⟩

theorem CtxIs.setCtx {x : Ctx} (h : p x) : CtxIs (s.setCtx k x) k p := ⟨x, State.ctx?_setCtx_same s k x, h⟩

theorem CtxIs.setCtx_other {j : Nat} (h : CtxIs s k p) (hj : j ≠ k) (x : Ctx) : CtxIs (s.setCtx j x) k p := by
  obtain ⟨y, hy, hp⟩ := h
  exact ⟨y, (State.ctx?_setCtx_other s x hj.symm).trans hy, hp⟩

theorem CtxIs.of_eq {t : State} (h : CtxIs s k p) (ht : t.ctxs = s.ctxs) : CtxIs t k p := by
  obtain ⟨y, hy, hp⟩ := h
  exact ⟨y, by unfold State.ctx?; rw [ht]; exact hy, hp⟩

theorem State.onCtx_of {x : Ctx} (h : s.ctx? k = some x) (f : Ctx → Ctx) : s.onCtx k f = s.setCtx k (f x) := by
  unfold State.onCtx
  rw [h]

theorem CtxIs.onCtx {q : Ctx → Prop} {f : Ctx → Ctx} (h : CtxIs s k p) (hf : ∀ x, p x → q (f x)) : CtxIs (s.onCtx k f) k q := by
  obtain ⟨x, hx, hp⟩ := h
  rw [State.onCtx_of hx]
  exact CtxIs.setCtx (hf x hp)

theorem CtxIs.onCtx_other {j : Nat} (h : CtxIs s k p) (hj : j ≠ k) (f : Ctx → Ctx) : CtxIs (s.onCtx j f) k p := by
  unfold State.onCtx
  split
  · exact h.setCtx_other hj _
  · exact h

theorem CtxIs.grantTo {j : Nat} (hp : Lasting c p) (h : CtxIs s k p) (hj : (s.ctx j).Claims c) : CtxIs (s.grantTo j c) k p := by
  unfold State.grantTo
  split
  · exact h
  case h_2 y hy =>
    refine CtxIs.of_eq (s := s.setCtx j (y.granted (if s.det then s.frameStart c else c))) ?_ rfl
    by_cases hjk : j = k
    · subst hjk
      obtain ⟨hx, hpx⟩ := h.here
      cases hy.symm.trans hx
      exact CtxIs.setCtx (hp.granted _ _ hpx hj)
    · exact h.setCtx_other hjk _

/-- A wait that has less than it asks for does not complete. -/
theorem State.wakeOne_unmet {x : Ctx} (h : s.ctx? k = some x) (hx : x.waiting = .wait → x.cancelled = false ∧ x.unmet) :
    s.wakeOne c k = s := by
  unfold State.wakeOne
  rw [h]
  dsimp only
  split
  case isTrue hw =>
    rw [Bool.and_eq_true, beq_iff_eq, decide_eq_true_eq] at hw
    obtain ⟨hwait, hval⟩ := hw
    obtain ⟨hcancelled, hunmet⟩ := hx hwait
    rw [if_neg (by rw [hcancelled]; exact Bool.false_ne_true), if_neg]
    rintro ⟨hn, -, -⟩
    unfold State.waitCount at hval
    rw [if_pos hn] at hval
    exact hunmet.elim (Nat.not_le.2 hn) (Nat.not_lt.2 hval)
  case isFalse => rfl

theorem State.ctx?_wakeOne_other {j : Nat} (hj : j ≠ k) : (s.wakeOne c j).ctx? k = s.ctx? k := by
  unfold State.wakeOne
  split
  · rfl
  · dsimp only
    split_ifs <;> simp [State.ctx?_setCtx_other _ _ hj.symm]

theorem CtxIs.wakeOne (hp : Lasting c p) (h : CtxIs s k p) (j : Nat) : CtxIs (s.wakeOne c j) k p := by
  obtain ⟨x, hx, hpx⟩ := h
  by_cases hj : j = k
  · subst hj
    rw [State.wakeOne_unmet hx (hp.waits x hpx)]
    exact ⟨x, hx, hpx⟩
  · exact ⟨x, (State.ctx?_wakeOne_other hj).trans hx, hpx⟩

theorem CtxIs.grantCore (hp : Lasting c p) (h : CtxIs s k p) (core n : Nat) : CtxIs (State.grantCore c core n s) k p := by
  induction n generalizing s with
  | zero => exact h
  | succ n ih =>
    unfold State.grantCore
    dsimp only
    split
    · exact h
    case h_2 j js hks =>
      have hj : (s.ctx j).Claims c := State.of_claimant (by rw [hks]; exact List.mem_cons_self)
      split_ifs with hopen
      · obtain ⟨i, ht⟩ := Option.isSome_iff_exists.1 hopen.2
        rw [ht]
        have hi : (s.ctx i).Claims c := State.of_claimant (List.mem_of_find?_eq_some ht)
        exact ih (CtxIs.grantTo hp (h.of_eq rfl) hi)
      · exact ih (h.grantTo hp hj)
      · split
        · exact h
        case h_2 y ys hys =>
          obtain ⟨hpos, hblocks⟩ := State.of_yielder (s := s) (j := y) (by rw [hys]; exact List.mem_cons_self)
          have hne : y ≠ j := by
            rintro rfl
            rw [hj.idle] at hpos
            cases hpos
          have hsame : (s.onCtx y (fun x => x.leave c)).ctx j = s.ctx j := by
            unfold State.onCtx State.ctx
            split
            · rw [State.ctx?_setCtx_other _ _ hne.symm]
            · rfl
          have hleft : CtxIs (s.onCtx y (fun x => x.leave c)) k p := by
            by_cases hy : y = k
            · subst hy
              rw [State.onCtx_of h.here.1]
              exact CtxIs.setCtx (hp.leaves _ h.here.2 hpos hblocks)
            · exact h.onCtx_other hy _
          exact ih (hleft.grantTo hp (hsame ▸ hj))

theorem CtxIs.restoreReady (hp : Lasting c p) (h : CtxIs s k p) (core n : Nat) : CtxIs (State.restoreReady c core n s) k p := by
  induction n generalizing s with
  | zero => exact h
  | succ n ih =>
    unfold State.restoreReady
    split
    case h_1 m j js _ hks =>
      have hj := (List.mem_filter.1 (State.mem_ranked (hks ▸ List.mem_cons_self))).2
      simp only [Bool.and_eq_true, beq_iff_eq] at hj
      refine ih ?_
      by_cases hjk : j = k
      · subst hjk
        rw [State.onCtx_of h.here.1]
        exact CtxIs.setCtx (hp.restored _ _ h.here.2 hj.1.1)
      · exact h.onCtx_other hjk _
    · exact h

/-- What outlasts the waking of its waits, grants, leaves and restores outlasts a stir. -/
theorem CtxIs.stir (hp : Lasting c p) (h : CtxIs s k p) : CtxIs (s.stir c) k p :=
  forEach_keeps (fun u => CtxIs u k p) _ (fun core _ hu => (hu.grantCore hp core 4).restoreReady hp core 4) _ _
    (forEach_keeps (fun u => CtxIs u k p) _ (fun j _ hu => hu.wakeOne hp j) _ s h)

end

/-! What outlasts a stir. -/

/-- A context in place that waits for no count and no credit stays as it is, where it holds a position or has given one up in the
same cycle. -/
theorem Lasting.still {x : Ctx} {c : Nat} (hplace : x.place = .inPlace) (hwait : x.waiting ≠ .wait) (hcredit : x.waiting ≠ .credit)
    (hpos : x.pos = true ∨ x.away = true ∧ x.leftAt = c) : Lasting c (fun y => y = x) where
  waits := by
    rintro _ rfl h
    exact absurd h hwait
  granted := by
    rintro _ r rfl ⟨hidle, -, hranks⟩
    rcases hpos with h | h
    · rw [hidle] at h
      cases h
    · exact absurd h hranks
  leaves := by
    rintro _ rfl - h
    exact absurd h (by simp [hwait, hcredit])
  restored := by
    rintro _ n rfl h
    rw [hplace] at h
    cases h

/-- A context without its slot and position, and without the instants that a grant of one sets. -/
def Ctx.unplaced (x : Ctx) : Ctx :=
  { x with slot := none, move := none, moved := 0, moveNext := 0, pos := false, leftAt := 0, ref := 0, dueAt := none, away := false,
           quietAt := 0, graceAt := none, forced := false }

theorem Ctx.unplaced_granted (x : Ctx) (r : Nat) (h : x.waiting ≠ .yield) : (x.granted r).unplaced = x.unplaced := by
  unfold Ctx.granted
  split_ifs
  · dsimp only
    split
    case h_1 hw => exact absurd hw h
    case h_2 => rfl
    case h_3 => rfl
  · rfl

theorem Ctx.eq_of_unplaced {γ : Type} {x y : Ctx} (g : Ctx → γ) (hg : ∀ z : Ctx, g z = g z.unplaced) (h : y.unplaced = x.unplaced) :
    g y = g x := by rw [hg y, hg x, h]

/-- But for its place, a context is as before a stir, while no wait of it completes. -/
theorem Lasting.unplaced {x : Ctx} (hyield : x.waiting ≠ .yield) (hwait : x.waiting = .wait → x.cancelled = false ∧ x.unmet)
    (c : Nat) : Lasting c (fun y => y.unplaced = x.unplaced) where
  waits y hy h := by
    have hw : y.waiting = x.waiting := Ctx.eq_of_unplaced Ctx.waiting (fun _ => rfl) hy
    have hc : y.cancelled = x.cancelled := Ctx.eq_of_unplaced Ctx.cancelled (fun _ => rfl) hy
    have hu : y.unmet = x.unmet := Ctx.eq_of_unplaced Ctx.unmet (fun _ => rfl) hy
    rw [hc, hu]
    exact hwait (hw ▸ h)
  granted y r hy _ := by
    have hw : y.waiting = x.waiting := Ctx.eq_of_unplaced Ctx.waiting (fun _ => rfl) hy
    rw [Ctx.unplaced_granted y r (hw ▸ hyield)]
    exact hy
  leaves _ hy _ _ := hy
  restored _ _ hy _ := hy

end Sys2Proof.Machine
end

section
/-! SUPPORT. The issue of an entry (05 R126 to R132): what fetch and the counts of issue leave, and how a command that issues one
goes on. -/
namespace Sys2Proof.Machine

/-! What fetching and counting an entry leave. -/

/-- The state without what a fetch can change: registers, reports and the ports taken. -/
def State.unfetched (s : State) : State :=
  { s with regs := [], holdoffs := [], events := [], emergencies := [], evOverflow := false, taken := (0, []) }

/-- The registers of an error that a reader finds (07 R207). -/
def findSpans : Spans := [counterSpan, at1 (key 0x2500 0x36)]

section
variable (s : State) (k : Nat) (x : Ctx)

theorem State.foundBad_quiet (level a : Nat) (h : level ≤ 251) : Quiet findSpans s (s.foundBad level a) :=
  ((Quiet.refl s).setReg (covers_at1 (by simp [findSpans]))).count List.mem_cons_self (by omega) (by omega) (by omega)

theorem State.noticeBad_quiet (level sz a n : Nat) (h : level ≤ 251) : Quiet findSpans s (s.noticeBad level sz a n) :=
  Quiet.forEach (fun w _ u => State.foundBad_quiet u level (w * sz) h) (Quiet.refl s)

theorem State.unfetched_foundBad (level a : Nat) : (s.foundBad level a).unfetched = s.unfetched :=
  State.count_keeps (s.setReg _ _) _ _ _ _ State.unfetched (fun _ => rfl)

theorem State.unfetched_noticeBad (level sz a n : Nat) : (s.noticeBad level sz a n).unfetched = s.unfetched :=
  forEach_same State.unfetched _ (fun w u => State.unfetched_foundBad u level (w * sz)) _ s

theorem State.unfetched_fetched : (s.fetched k x).unfetched = s.unfetched := by
  unfold State.fetched
  exact forEach_same State.unfetched _ (fun (r : Nat × Nat) u => State.unfetched_noticeBad u 3 8 r.1 r.2) _ _

theorem State.fetched_keeps {γ : Type} (g : State → γ) (hg : ∀ u : State, g u = g u.unfetched) : g (s.fetched k x) = g s := by
  rw [hg, State.unfetched_fetched, ← hg]

@[simp] theorem State.cclk_fetched : (s.fetched k x).cclk = s.cclk := State.fetched_keeps s k x State.cclk (fun _ => rfl)

theorem State.fetched_regs : OnlyRegs findSpans s (s.fetched k x) := by
  intro r hr
  refine (forEach_same (fun u : State => u.reg r) _ (fun p u => ?_) _ _).trans rfl
  exact (State.noticeBad_quiet u 3 8 p.1 p.2 (by omega)).regs r hr

theorem OnlyRegs.trans {rs : Spans} {s t u : State} (a : OnlyRegs rs s t) (b : OnlyRegs rs t u) : OnlyRegs rs s u :=
  fun k h => (b k h).trans (a k h)

theorem OnlyRegs.of_subset {rs rs' : Spans} {s t : State} (a : OnlyRegs rs s t) (h : rs ⊆ rs') : OnlyRegs rs' s t := by
  intro k hk
  refine a k ?_
  simp only [covers, List.any_eq_false] at hk ⊢
  exact fun r hr => hk r (h hr)

theorem SameMem.trans {s t u : State} (a : SameMem s t) (b : SameMem t u) : SameMem s u := by
  obtain ⟨a1, a2, a3, a4, a5⟩ := a
  obtain ⟨b1, b2, b3, b4, b5⟩ := b
  exact ⟨b1.trans a1, b2.trans a2, b3.trans a3, b4.trans a4, b5.trans a5⟩

/-- A context as the issue of an entry leaves it: a step of the debugger is done with it (19 R480). -/
def Ctx.issued (x : Ctx) : Ctx := { x with stepOne := false }

/-- What is neither a register nor a report, no port taken and no context, is as before an issue. -/
theorem State.issuing_keeps {γ : Type} (g : State → γ) (hg : ∀ u : State, g u = g { u.unfetched with ctxs := [] }) :
    g (s.issuing k x) = g s := by
  have hon : ∀ u : State, g (u.onCtx k (fun y => { y with stepOne := false })) = g u := by
    intro u
    unfold State.onCtx
    split
    · exact (hg _).trans (hg u).symm
    · rfl
  have hf : ∀ u : State, g u = g u.unfetched := fun u => (hg u).trans (hg u.unfetched).symm
  have hadd : ∀ (u : State) (r n : Nat), g (u.addReg r n) = g u := fun u r n => (hf _).trans (hf u).symm
  unfold State.issuing State.countIssue
  rw [hon, hadd, hadd]
  exact State.fetched_keeps s k x g hf

@[simp] theorem State.cclk_issuing : (s.issuing k x).cclk = s.cclk := State.issuing_keeps s k x State.cclk (fun _ => rfl)
@[simp] theorem State.job_issuing (j : Nat) : (s.issuing k x).job j = s.job j :=
  State.issuing_keeps s k x (fun u => u.job j) (fun _ => rfl)

theorem State.issuing_mem : SameMem s (s.issuing k x) :=
  ⟨State.issuing_keeps s k x State.ts (fun _ => rfl), State.issuing_keeps s k x State.acc (fun _ => rfl),
   State.issuing_keeps s k x State.stack (fun _ => rfl), State.issuing_keeps s k x State.ext (fun _ => rfl),
   State.issuing_keeps s k x State.valid (fun _ => rfl)⟩

theorem State.countIssue_reg (r : Nat) : (s.countIssue k x).reg r =
    ((s.addReg (kCore x.core 6) 1).addReg (kCore x.core 7) (s.cclk - s.dueOf k x)).reg r := by
  unfold State.countIssue State.onCtx
  split <;> rfl

theorem kCore_ne {c a b : Nat} (h : a ≠ b) (ha : a < 256 := by decide) (hb : b < 256 := by decide) : kCore c a ≠ kCore c b :=
  key_ne_sub h ha hb

/-- A register that none of the counts of issue and no error found by fetch reaches is as before. -/
theorem State.reg_issuing {r : Nat} (h6 : r ≠ kCore x.core 6) (h7 : r ≠ kCore x.core 7) (hr : covers findSpans r = false) :
    (s.issuing k x).reg r = s.reg r := by
  unfold State.issuing
  rw [State.countIssue_reg, State.reg_addReg_other _ _ h7, State.reg_addReg_other _ _ h6]
  exact State.fetched_regs s k x r hr

theorem State.issuing_regs : OnlyRegs (issueSpans x.core) s (s.issuing k x) := by
  intro r hr
  simp only [issueSpans, covers_cons] at hr
  obtain ⟨h6, h7, -, hcount, hfound, -⟩ := hr
  refine State.reg_issuing s k x (fun h => h6 ?_) (fun h => h7 ?_) ?_
  · simp [at1, h]
  · simp [at1, h]
  · simp [findSpans, covers_cons, covers_nil, hcount, hfound]

end

theorem widthOf_core {c sub : Nat} (h : c < 6) (hs : sub < 256) : widthOf (kCore c sub) = entryBits (odCore sub) := by
  rw [kCore, widthOf_entry hs, Nat.mod_eq_of_lt (by omega)]
  congr 1
  interval_cases c <;> rfl

/-- The count of issued entries of a core (Table 5-14). -/
theorem State.issuing_count (s : State) (k : Nat) {x : Ctx} (h : x.core < 6) :
    (s.issuing k x).reg (kCore x.core 6) = satAdd 32 (s.reg (kCore x.core 6)) 1 := by
  have hw : widthOf (kCore x.core 6) = 32 := widthOf_core h (by omega)
  have hfind : (s.fetched k x).reg (kCore x.core 6) = s.reg (kCore x.core 6) := by
    refine State.fetched_regs s k x _ ?_
    simp only [findSpans, covers_cons, covers_nil, and_true, counterSpan, pages, at1, kCore, key]
    omega
  unfold State.issuing
  rw [State.countIssue_reg, State.reg_addReg_other _ _ (kCore_ne (by decide)), State.reg_addReg_same, hfind, hw,
    Nat.mod_eq_of_lt (satAdd_lt _ _ _)]

/-! A command that issues an entry. -/

section
variable {s w : State} {dt core slot k : Nat} {x : Ctx} {e : Fetched} {mine : Fetched → Bool} {f : State → Nat → Ctx → Fetched → State}

theorem Issues.placed (h : Issues w core slot k x e) : x.core = core ∧ x.slot = some slot := by
  have := List.find?_some h.slot
  simpa using this

theorem Issues.may_iff (h : Issues w core slot k x e) : x.pos = true ∧ x.place = .inPlace ∧ x.move = none ∧ x.forced = false := by
  have := h.may
  simp only [State.canIssue, Bool.and_eq_true, beq_iff_eq, Bool.not_eq_true', Option.isNone_iff_eq_none] at this
  tauto

/-- The context that issues, once its entry is issued. -/
theorem Issues.issued (h : Issues w core slot k x e) : Steady k x.issued (w.issuing k x) := by
  have hfetched : ∀ u : State, u.ctxs = w.ctxs → u.jobs = w.jobs →
      Steady k x.issued (u.onCtx k (fun y => { y with stepOne := false })) := by
    intro u hc hj
    have hu : Steady k x u := Steady.of_eq ⟨h.calm, h.here⟩ hj hc
    rw [State.onCtx_of hu.2]
    exact Steady.setCtx_same hu.1 (y := x.issued) (show x.evicted = none from hu.1.evicted hu.2)
  exact hfetched _ (State.fetched_keeps w k x State.ctxs (fun _ => rfl)) (State.fetched_keeps w k x State.jobs (fun _ => rfl))

/-- The entry is issued and has its effect. -/
theorem Issues.issue_eq (h : Issues w core slot k x e) (he : e ≠ .fault) (hm : mine e = true) :
    w.issue core slot mine f = (f (w.fetched k x) k x e).rehalt k w.cclk := by
  unfold State.issue
  rw [h.slot]
  dsimp only
  rw [if_pos h.may, h.entry]
  cases e with
  | fault => exact absurd rfl he
  | loop lc count tgt => exact if_pos hm
  | stop => exact if_pos hm
  | issue op ws => exact if_pos hm

/-- A context that is not halted keeps its position (19 R480). -/
theorem State.rehalt_of {t : State} (c : Nat) (h : CtxIs t k (fun y => y.halted = false)) : t.rehalt k c = t := by
  obtain ⟨y, hy, hh⟩ := h
  unfold State.rehalt
  rw [hy]
  simp [hh]

/-- A command issues an entry whose effect ends with the scheduler's stir: what is so of the context after it is so in the end, and all
else is as the effect leaves it. -/
theorem Issues.stirred {c : Instr} {v : State} {p : Ctx → Prop} (h : Issues w core slot k x e) (hw : w = s.wait dt) (hup : w.up = true)
    (hc : exec c s = .next (s.during dt (fun s => s.issue core slot mine f))) (he : e ≠ .fault) (hm : mine e = true)
    (hf : f (w.fetched k x) k x e = v.tidy w.cclk) (hv : Calm v) (hp : CtxIs (v.stir w.cclk) k p)
    (hhalt : ∀ y, p y → y.halted = false) : ∃ t, exec c s = .next (w.sealed t) ∧ CtxIs t k p ∧ Quiet [schedSpan] v t
      ∧ (∀ {γ : Type} (g : State → γ), (∀ u : State, g u = g u.unstirred) → g t = g v)
      ∧ (∀ r, (∀ j, r ≠ kJob j 0x0A) → t.reg r = v.reg r) := by
  have hrehalt : (v.stir w.cclk).rehalt k w.cclk = v.stir w.cclk := by
    obtain ⟨y, hy, hpy⟩ := hp
    exact State.rehalt_of _ ⟨y, hy, hhalt y hpy⟩
  refine ⟨v.stir w.cclk, exec_of_during hc hw hup ((h.issue_eq he hm).trans ?_), hp,
    State.stir_quiet v w.cclk List.mem_cons_self, fun g hg => State.stir_keeps v w.cclk g hg, fun r hr => State.reg_stir v w.cclk hr⟩
  rw [hf, hv.tidy, hrehalt]

/-- What outlasts a stir and is so of the context as the effect of its entry leaves it is so in the end. -/
theorem Issues.stirs {c : Instr} {v : State} {z : Ctx} {p : Ctx → Prop} (h : Issues w core slot k x e) (hw : w = s.wait dt)
    (hup : w.up = true) (hc : exec c s = .next (s.during dt (fun s => s.issue core slot mine f))) (he : e ≠ .fault)
    (hm : mine e = true) (hf : f (w.fetched k x) k x e = v.tidy w.cclk) (hv : Steady k z v) (hl : Lasting w.cclk p) (hz : p z)
    (hhalt : ∀ y, p y → y.halted = false) : ∃ t, exec c s = .next (w.sealed t) ∧ CtxIs t k p ∧ Quiet [schedSpan] v t
      ∧ (∀ {γ : Type} (g : State → γ), (∀ u : State, g u = g u.unstirred) → g t = g v)
      ∧ (∀ r, (∀ j, r ≠ kJob j 0x0A) → t.reg r = v.reg r) :=
  h.stirred hw hup hc he hm hf hv.1 (CtxIs.stir hl ⟨z, hv.2, hz⟩) hhalt

/-- What comes after the issue within the ranges of signals and scheduling has entered the entry. -/
theorem Issues.entered {t : State} (h : Issues w core slot k x e) (hc : core < 6) (hr : OnlyRegs signalSpans (w.issuing k x) t)
    (hm : SameMem (w.issuing k x) t) : Entered w (w.sealed t) core [] := by
  obtain ⟨rfl, -⟩ := h.placed
  refine ⟨?_, ?_, (w.issuing_mem k x).trans hm⟩
  · refine (hr _ ?_).trans (w.issuing_count k hc)
    simp only [signalSpans, schedSpan, counterSpan, covers_cons, covers_nil, and_true, pages, kCore, key]
    omega
  · exact (w.issuing_regs k x).trans (hr.of_subset (by simp [signalSpans, issueSpans]))

end

end Sys2Proof.Machine
end

section
/-! Signals between lanes and the hub (05 R144 to R149). -/
namespace Sys2Proof.Machine

/-! What a signal leaves. -/

section
variable {s w : State} {k : Nat} {x : Ctx}

theorem Calm.onCtx (h : Calm s) {f : Ctx → Ctx} (hf : ∀ z, (f z).evicted = z.evicted) (k : Nat) : Calm (s.onCtx k f) := by
  unfold State.onCtx
  split
  case h_1 z hz => exact h.setCtx k ((hf z).trans (h.evicted hz))
  case h_2 => exact h

theorem Steady.onCtx (h : Steady k x s) {f : Ctx → Ctx} (hf : (f x).evicted = x.evicted) : Steady k (f x) (s.onCtx k f) := by
  rw [State.onCtx_of h.2]
  exact Steady.setCtx_same h.1 (hf.trans (h.1.evicted h.2))

/-- A signal reaches a context that listens. -/
theorem Steady.signalCtx (h : Steady k x s) (hl : x.listens = true) (n a : Nat) (st : Option Nat) :
    Steady k (x.setSem n ((x.sem n).raise a st)) (s.signalCtx k n a st) := by
  have hs : Steady k (x.setSem n ((x.sem n).raise a st)) (s.setCtx k (x.setSem n ((x.sem n).raise a st))) :=
    Steady.setCtx_same h.1 ((Ctx.evicted_setSem x n _).trans (h.1.evicted h.2))
  unfold State.signalCtx
  rw [h.2]
  dsimp only
  rw [if_pos hl]
  split_ifs
  · exact hs.count 0x2901 0x0B
  · exact hs

/-- A signal that saturates its semaphore is counted (R145). -/
theorem State.signalCtx_saturates (h : s.ctx? k = some x) (hl : x.listens = true) {n a : Nat} (st : Option Nat)
    (hsat : 65535 < (x.sem n).count + a) :
    (s.signalCtx k n a st).reg (key 0x2901 0x0B) = satAdd 32 (s.reg (key 0x2901 0x0B)) 1 := by
  unfold State.signalCtx
  rw [h]
  dsimp only
  rw [if_pos hl, if_pos hsat]
  exact State.reg_count_same (s.setCtx k _) 0x2901 0x0B 0 none

theorem State.signalCtx_keeps {γ : Type} (s : State) (k n a : Nat) (st : Option Nat) (g : State → γ)
    (hg : ∀ u : State, g u = g { u.unreported with ctxs := [] }) : g (s.signalCtx k n a st) = g s := by
  have hset : ∀ y, g (s.setCtx k y) = g s := fun y => (hg _).trans (hg s).symm
  have hcount : ∀ u : State, g (u.count 0x2901 0x0B) = g u := fun u =>
    State.count_keeps u _ _ _ _ g (fun v => (hg v).trans (hg v.unreported).symm)
  unfold State.signalCtx
  split
  · rfl
  · dsimp only
    split_ifs
    · rw [hcount, hset]
    · exact hset _
    · exact hset _

/-! What an operation of the hub leaves. -/

theorem State.addHub_quiet (s : State) (p n a : Nat) (st : Option Nat) {rs : Spans} (h : counterSpan ∈ rs) :
    Quiet rs s (s.addHub p n a st) := by
  have h0 : Quiet rs s (s.setHub p n ((s.hubSem p n).raise a st)) := ⟨fun _ _ => rfl, rfl⟩
  unfold State.addHub
  dsimp only
  split_ifs
  · exact h0.count h (by omega) (by omega) (by omega)
  · exact h0

theorem State.addHub_keeps {γ : Type} (s : State) (p n a : Nat) (st : Option Nat) (g : State → γ)
    (hg : ∀ u : State, g u = g u.unreported) (hhub : ∀ (u : State) v, g { u with hub := v } = g u) : g (s.addHub p n a st) = g s := by
  unfold State.addHub
  dsimp only
  split_ifs
  · exact (State.count_keeps _ _ _ _ _ g hg).trans (hhub s _)
  · exact hhub s _

@[simp] theorem State.hubSem_setHub (s : State) (p n : Nat) (v : Sem) : (s.setHub p n v).hubSem p n = v := tget_tset_same _ _ _ _

theorem State.hubSem_addHub (s : State) (p n a : Nat) (st : Option Nat) :
    (s.addHub p n a st).hubSem p n = (s.hubSem p n).raise a st := by
  have hset := State.hubSem_setHub s p n ((s.hubSem p n).raise a st)
  unfold State.addHub
  dsimp only
  split_ifs
  · exact (State.count_keeps _ _ _ _ _ (fun u => u.hubSem p n) (fun _ => rfl)).trans hset
  · exact hset

@[simp] theorem Ctx.evicted_holdFrom (x : Ctx) (hold c : Nat) (b : Bool) : (x.holdFrom hold c b).evicted = x.evicted := by
  unfold Ctx.holdFrom
  split_ifs <;> rfl

theorem State.holdChecked_keeps {γ : Type} (s : State) (k c : Nat) (g : State → γ) (hg : ∀ u : State, g u = g { u with later := [] }) :
    g (s.holdChecked k c) = g s := by
  unfold State.holdChecked
  split_ifs
  · exact (hg _).trans (hg s).symm
  · rfl

theorem State.endHolding_keeps {γ : Type} (s : State) (k i n c : Nat) (g : State → γ)
    (hg : ∀ u : State, g u = g { u with later := [], ctxs := [] }) : g (s.endHolding k i n c) = g s := by
  have hon : ∀ (u : State) (f : Ctx → Ctx), g (u.onCtx k f) = g u := by
    intro u f
    unfold State.onCtx
    split
    · exact (hg _).trans (hg u).symm
    · rfl
  unfold State.endHolding
  split_ifs
  · rw [hon, State.holdChecked_keeps s k c g (fun u => (hg u).trans (hg { u with later := [] }).symm)]
  · rfl

theorem State.endHolding_quiet (s : State) (k i n c : Nat) {rs : Spans} : Quiet rs s (s.endHolding k i n c) :=
  ⟨fun r _ => State.endHolding_keeps s k i n c (fun u => u.reg r) (fun _ => rfl),
   State.endHolding_keeps s k i n c State.aside (fun _ => rfl)⟩

theorem Calm.endHolding (h : Calm s) (k i n c : Nat) : Calm (s.endHolding k i n c) := by
  unfold State.endHolding
  split_ifs
  · refine Calm.onCtx (h.of_eq ?_ ?_) (fun z => ?_) k
    · exact State.holdChecked_keeps s k c State.jobs (fun _ => rfl)
    · exact State.holdChecked_keeps s k c State.ctxs (fun _ => rfl)
    · exact Ctx.evicted_holdFrom _ _ _ _
  · exact h

theorem Calm.addHub (h : Calm s) (p n a : Nat) (st : Option Nat) : Calm (s.addHub p n a st) :=
  h.of_eq (State.addHub_keeps s p n a st State.jobs (fun _ => rfl) (fun _ _ => rfl))
    (State.addHub_keeps s p n a st State.ctxs (fun _ => rfl) (fun _ _ => rfl))

/-! Grants of the hub (R148). -/

theorem State.grantHub_idle {p n : Nat} (c : Nat)
    (h : ∀ k ∈ s.hubWaits, ¬(waitSem (s.ctx k).word = n ∧ s.jobPart (ctxJob k) = p)) : s.grantHub p n c = s := by
  unfold State.grantHub
  dsimp only
  rw [List.filter_eq_nil_iff.2 (fun k hk => by simpa using h k hk)]
  rfl

theorem State.grantAllHub_none (h : s.hubWaits = []) (c : Nat) : s.grantAllHub c = s := by
  refine forEach_keeps (fun u => u = s) _ (fun i u hu => ?_) _ s rfl
  subst hu
  exact State.grantHub_idle c (by simp [h])

/-- The hub when the wait of context `k` on its semaphore `n` is granted in cycle `c`. -/
def State.hubGranted (s : State) (k n c : Nat) (y : Ctx) : State :=
  let p := s.jobPart (ctxJob k)
  let v := s.hubSem p n
  let u := if waitKeep y.word then s else s.setHub p n { v with count := v.count - waitVal y.word }
  ({ u with hubWaits := [] } : State).sendHub k y.inc n c .outcome

/-- The only wait in the hub is granted by its own semaphore. -/
theorem State.grantHub_one {y : Ctx} (hw : s.hubWaits = [k]) (hy : s.ctx? k = some y) (c : Nat) :
    s.grantHub (s.jobPart (ctxJob k)) (waitSem y.word) c =
      if waitVal y.word ≤ (s.hubSem (s.jobPart (ctxJob k)) (waitSem y.word)).count then s.hubGranted k (waitSem y.word) c y else s := by
  have hctx := State.ctx_of hy
  unfold State.grantHub State.hubGranted
  simp only [hw, List.filter_cons, hctx, beq_self_eq_true, Bool.and_self, if_true, List.filter_nil, List.foldl_cons, List.foldl_nil,
    List.takeWhile_nil, List.dropWhile_nil, List.nil_append, forEach]
  split_ifs <;> simp [hw, State.setHub]

theorem waitSem_lt (w : Nat) : waitSem w < 64 := by
  unfold waitSem bits
  exact Nat.mod_lt _ (by omega)

/-- The only wait in the hub is granted if its count is there. -/
theorem State.grantAllHub_one {y : Ctx} (hw : s.hubWaits = [k]) (hy : s.ctx? k = some y) (hshared : 56 ≤ waitSem y.word)
    (hp : s.jobPart (ctxJob k) < 6) (c : Nat) : s.grantAllHub c =
      if waitVal y.word ≤ (s.hubSem (s.jobPart (ctxJob k)) (waitSem y.word)).count then s.hubGranted k (waitSem y.word) c y else s := by
  have hn := waitSem_lt y.word
  have hown : s.grantHub ((8 * s.jobPart (ctxJob k) + (waitSem y.word - 56)) / 8)
      (56 + (8 * s.jobPart (ctxJob k) + (waitSem y.word - 56)) % 8) c = s.grantHub (s.jobPart (ctxJob k)) (waitSem y.word) c := by
    congr 1 <;> omega
  have hother : ∀ i ∈ upTo 48, i ≠ 8 * s.jobPart (ctxJob k) + (waitSem y.word - 56) → s.grantHub (i / 8) (56 + i % 8) c = s := by
    intro i _ hi
    refine State.grantHub_idle c (fun j hj => ?_)
    rw [hw, List.mem_singleton] at hj
    subst hj
    rw [State.ctx_of hy]
    omega
  have hgrants := forEach_at (p := fun u => u = s)
    (q := fun u => u = if waitVal y.word ≤ (s.hubSem (s.jobPart (ctxJob k)) (waitSem y.word)).count then
      s.hubGranted k (waitSem y.word) c y else s)
    (f := fun i u => u.grantHub (i / 8) (56 + i % 8) c) (mem_upTo (by omega : 8 * s.jobPart (ctxJob k) + (waitSem y.word - 56) < 48))
    (upTo_nodup 48) (rfl : s = s)
  refine hgrants ?_ ?_ ?_
  · rintro i hi hne u rfl
    exact hother i hi hne
  · rintro u rfl
    rw [hown, State.grantHub_one hw hy]
  · rintro i hi hne u rfl
    split_ifs
    · exact State.grantHub_idle c (fun j hj => absurd hj List.not_mem_nil)
    · exact hother i hi hne

end

/-! The commands. -/

/-- The operations that were under way to the hub have been taken up. -/
def State.noHubOps (s : State) : State := { s with hubOps := [] }

section
variable {s w : State} {dt : Nat} {o : HubOp}

theorem exec_laneSignalArrival {g : LaneSig} (hw : w = s.wait dt) (hup : w.up = true) (hsig : w.laneSigs = [g]) (hdue : g.due ≤ w.cclk) :
    exec (.laneSignalArrival dt) s =
      .next (w.sealed ((({ w with laneSigs := [] } : State).signalCtx g.ctx g.sem g.amount none).tidy g.due)) := by
  refine exec_of_during rfl hw hup ?_
  simp [hsig, hdue, forEach]

/-- The rounds of additions and sets, tests and outcomes come to one operation where only one is due. -/
theorem State.hubRounds_one (s : State) (o : HubOp) :
    forEach (upTo 3) s (fun r s => forEach ([o].filter (fun p => p.rank == r)) s (fun p s => s.hubStep p)) = s.hubStep o := by
  have hr : o.rank = 0 ∨ o.rank = 1 ∨ o.rank = 2 := by
    unfold HubOp.rank
    split <;> simp
  rcases hr with h | h | h <;> simp [forEach, upTo, List.range, List.range.loop, h]

theorem exec_hubOperation (hw : w = s.wait dt) (hup : w.up = true) (hops : w.hubOps = [o]) (hdue : o.due ≤ w.cclk) :
    exec (.hubOperation dt) s =
      .next (w.sealed (((w.noHubOps.hubStep o).grantsHub o.due).tidy o.due)) := by
  refine exec_of_during rfl hw hup ?_
  have h := State.hubRounds_one w.noHubOps o
  simp only [State.noHubOps, hops, List.foldl_nil, hdue, if_true, List.filter_cons, beq_self_eq_true, List.filter_nil, bne_self_eq_false,
    Bool.false_eq_true, if_false] at h ⊢
  rw [h]

theorem State.closesC_stir (u : State) (c n : Nat) (a : Effect) (c' : Nat) : ((u.closesC c n a).stir c').ClosesC c n a := by
  have h : ((u.closesC c n a).stir c').later = (u.closesC c n a).later := State.stir_keeps _ c' State.later (fun _ => rfl)
  unfold State.ClosesC
  rw [h]
  exact State.closesC_with u c n a

/-- What a stir leaves of the hub. -/
theorem State.stir_hub (u : State) (c : Nat) :
    (u.stir c).hubOps = u.hubOps ∧ (u.stir c).hubWaits = u.hubWaits ∧ (u.stir c).hub = u.hub :=
  ⟨State.stir_keeps u c State.hubOps (fun _ => rfl), State.stir_keeps u c State.hubWaits (fun _ => rfl),
   State.stir_keeps u c State.hub (fun _ => rfl)⟩

theorem State.hubSem_of_hub {s t : State} (h : t.hub = s.hub) (p n : Nat) : t.hubSem p n = s.hubSem p n := by
  unfold State.hubSem
  rw [h]

/-- Where an operation of the present cycle has come to the hub, it stands as the operation leaves it, and the waits in it are granted
as the cycle closes. -/
theorem Calm.hub_later {u : State} (h : Calm u) {c : Nat} (hc : u.cclk = c) :
    let t := (u.grantsHub c).tidy c
    (t.hubOps = u.hubOps ∧ t.hubWaits = u.hubWaits ∧ t.hub = u.hub) ∧ t.ClosesC c 0 .hubGrant ∧ Quiet signalSpans u t := by
  have hgrants : (u.grantsHub c).tidy c = (u.closesC c 0 .hubGrant).stir c := by
    unfold State.grantsHub
    rw [if_neg (by omega)]
    exact (h.of_eq rfl rfl : Calm (u.closesC c 0 .hubGrant)).tidy c
  dsimp only
  rw [hgrants]
  exact ⟨State.stir_hub _ c, State.closesC_stir u c 0 .hubGrant c,
    (Quiet.closesC (Quiet.refl u)).trans (State.stir_quiet _ c List.mem_cons_self)⟩

end

end Sys2Proof.Machine
end

section
/-! Signals that arrive, and operations of the hub and their outcomes, settled (05 R144 to R149). -/
namespace Sys2Proof.Machine

section
variable {s w : State} {o : HubOp}

theorem Calm.hubOps_nil (h : Calm w) : Calm w.noHubOps :=
  h.of_eq rfl rfl

/-- An addition to a shared semaphore. -/
theorem State.hubStep_add (s : State) {n : Nat} (h : o.act = .add n) :
    s.hubStep o = (s.addHub o.part o.sem n none).endHolding o.ctx o.inc o.sem o.due := by
  unfold State.hubStep
  rw [h]

/-- A set of a shared semaphore. -/
theorem State.hubStep_set (s : State) {n : Nat} (h : o.act = .set n) : s.hubStep o =
    (s.setHub o.part o.sem { s.hubSem o.part o.sem with count := n }).endHolding o.ctx o.inc o.sem o.due := by
  unfold State.hubStep
  rw [h]

/-- A test of a shared semaphore waits in the hub. -/
theorem State.hubStep_test {y : Ctx} (h : o.act = .test) (hy : s.ctx? o.ctx = some y) (hi : y.inc = o.inc) :
    s.hubStep o = { s with hubWaits := addKey s.hubWaits o.ctx } := by
  unfold State.hubStep
  rw [h]
  exact if_pos (hi ▸ State.isCtx_of hy)

/-- A context that the hub has granted its wait. -/
def Ctx.satisfied (y : Ctx) (n hold c : Nat) : Ctx :=
  ((if waitKeep y.word then y else { y with held := tput y.held n (tget (fun _ => 0) y.held n + waitVal y.word) }).complete c
    (y.entry + 1)).holdFrom hold c y.holds

/-- An outcome that comes in time lets its context go on. -/
theorem State.hubStep_outcome {y : Ctx} (h : o.act = .outcome) (hy : s.ctx? o.ctx = some y) (hi : y.inc = o.inc)
    (ht : y.inTime o.due = true) : s.hubStep o = s.setCtx o.ctx (y.satisfied o.sem (s.holdTime o.ctx) o.due) := by
  have hc : s.isCtx o.ctx o.inc = true := hi ▸ State.isCtx_of hy
  unfold State.hubStep
  rw [h]
  dsimp only
  rw [State.ctx_of hy, hc, ht, if_neg (by decide), if_pos rfl, State.onCtx_of hy]
  rfl

/-- One that comes late gives back what was taken for it. -/
theorem State.hubStep_late {y : Ctx} (h : o.act = .outcome) (hy : s.ctx? o.ctx = some y) (hi : y.inc = o.inc)
    (ht : y.inTime o.due = false) :
    s.hubStep o = if waitKeep y.word then s else s.addHub o.part o.sem (waitVal y.word) none := by
  have hc : s.isCtx o.ctx o.inc = true := hi ▸ State.isCtx_of hy
  unfold State.hubStep
  rw [h]
  dsimp only
  rw [State.ctx_of hy, hc, ht]
  rfl

theorem Ctx.evicted_satisfied (y : Ctx) (n hold c : Nat) : (y.satisfied n hold c).evicted = y.evicted := by
  unfold Ctx.satisfied
  rw [Ctx.evicted_holdFrom, Ctx.evicted_complete]
  split_ifs <;> rfl

/-- What a hold timer does not hold is kept by its load and its stop. -/
theorem Ctx.holdFrom_keeps {γ : Type} (x : Ctx) (hold c : Nat) (b : Bool) (g : Ctx → γ)
    (hg : ∀ z : Ctx, g z = g { z with holdDue := none, overrun := false }) : g (x.holdFrom hold c b) = g x := by
  unfold Ctx.holdFrom
  split_ifs
  · rfl
  · exact (hg _).trans (hg x).symm
  · exact (hg _).trans (hg x).symm

theorem Ctx.satisfied_fields (y : Ctx) (n hold c : Nat) : (y.satisfied n hold c).entry = y.entry + 1
    ∧ (y.satisfied n hold c).waiting = .none
    ∧ (waitKeep y.word = false → tget (fun _ => 0) (y.satisfied n hold c).held n = tget (fun _ => 0) y.held n + waitVal y.word) := by
  unfold Ctx.satisfied
  rw [Ctx.holdFrom_keeps _ _ _ _ Ctx.entry (fun _ => rfl), Ctx.holdFrom_keeps _ _ _ _ Ctx.waiting (fun _ => rfl),
    Ctx.holdFrom_keeps _ _ _ _ Ctx.held (fun _ => rfl)]
  refine ⟨rfl, rfl, fun h => ?_⟩
  rw [h]
  exact tget_tput_same _ _ _ _

/-- The hub of a calm state once an addition or a set has come to it: its semaphore `n` of partition `p` is `v`. -/
structure HubAmended (w u : State) (p n : Nat) (v : Sem) : Prop where
  calm : Calm u
  ops : u.hubOps = []
  waits : u.hubWaits = w.hubWaits
  sem : u.hubSem p n = v
  now : u.cclk = w.cclk
  quiet : Quiet signalSpans w u

theorem HubAmended.endHolding {u : State} {p n : Nat} {v : Sem} (h : HubAmended w u p n v) (k i m c : Nat) :
    HubAmended w (u.endHolding k i m c) p n v where
  calm := h.calm.endHolding k i m c
  ops := (State.endHolding_keeps u k i m c State.hubOps (fun _ => rfl)).trans h.ops
  waits := (State.endHolding_keeps u k i m c State.hubWaits (fun _ => rfl)).trans h.waits
  sem := (State.endHolding_keeps u k i m c (fun t => t.hubSem p n) (fun _ => rfl)).trans h.sem
  now := (State.endHolding_keeps u k i m c State.cclk (fun _ => rfl)).trans h.now
  quiet := h.quiet.trans (State.endHolding_quiet u k i m c)

theorem Calm.hubAmended_add (h : Calm w) (p n a : Nat) :
    HubAmended w (w.noHubOps.addHub p n a none) p n ((w.hubSem p n).raise a none) where
  calm := h.hubOps_nil.addHub p n a none
  ops := State.addHub_keeps _ p n a none State.hubOps (fun _ => rfl) (fun _ _ => rfl)
  waits := State.addHub_keeps _ p n a none State.hubWaits (fun _ => rfl) (fun _ _ => rfl)
  sem := State.hubSem_addHub _ p n a none
  now := State.addHub_keeps _ p n a none State.cclk (fun _ => rfl) (fun _ _ => rfl)
  quiet := Quiet.trans (t := w.noHubOps) ⟨fun _ _ => rfl, rfl⟩
    (State.addHub_quiet w.noHubOps p n a none (rs := signalSpans) (List.mem_cons_of_mem _ List.mem_cons_self))

theorem Calm.hubAmended_set (h : Calm w) (p n : Nat) (v : Sem) :
    HubAmended w (w.noHubOps.setHub p n v) p n v where
  calm := h.of_eq rfl rfl
  ops := rfl
  waits := rfl
  sem := State.hubSem_setHub _ p n v
  now := rfl
  quiet := ⟨fun _ _ => rfl, rfl⟩

/-- An addition or a set leaves the hub amended. -/
theorem Calm.hubAmended (h : Calm w) {n : Nat} (hact : o.act = .add n ∨ o.act = .set n) : ∃ v,
    HubAmended w (w.noHubOps.hubStep o) o.part o.sem v
    ∧ (o.act = .add n → v = (w.hubSem o.part o.sem).raise n none) ∧ (o.act = .set n → v.count = n) := by
  rcases hact with ha | ha
  · refine ⟨(w.hubSem o.part o.sem).raise n none, ?_, fun _ => rfl, fun hs => (by rw [ha] at hs; cases hs)⟩
    rw [State.hubStep_add _ ha]
    exact (h.hubAmended_add o.part o.sem n).endHolding _ _ _ _
  · refine ⟨{ w.hubSem o.part o.sem with count := n }, ?_, fun hs => (by rw [ha] at hs; cases hs), fun _ => rfl⟩
    rw [State.hubStep_set _ ha]
    exact (h.hubAmended_set o.part o.sem { w.hubSem o.part o.sem with count := n }).endHolding _ _ _ _

/-- What a test leaves of a calm state. -/
theorem Calm.hubStep_test {y : Ctx} (h : Calm w) (hact : o.act = .test) (hy : w.ctx? o.ctx = some y) (hi : y.inc = o.inc) :
    let u := w.noHubOps.hubStep o
    Calm u ∧ u.hubOps = [] ∧ u.hubWaits = addKey w.hubWaits o.ctx ∧ u.hub = w.hub ∧ u.cclk = w.cclk ∧ Quiet signalSpans w u := by
  dsimp only
  rw [State.hubStep_test (s := w.noHubOps) hact hy hi]
  exact ⟨h.of_eq rfl rfl, rfl, rfl, rfl, rfl, fun _ _ => rfl, rfl⟩

/-- The hub once the wait of a context has been granted. -/
theorem Calm.hubGranted (h : Calm s) {k n : Nat} (c : Nat) (y : Ctx) :
    let u := s.hubGranted k n c y
    Calm u ∧ u.hubWaits = []
    ∧ u.hubOps = s.hubOps ++ [{ due := c + 8, part := s.jobPart (ctxJob k), sem := n, ctx := k, inc := y.inc, act := .outcome }]
    ∧ (u.hubSem (s.jobPart (ctxJob k)) n).count =
        (s.hubSem (s.jobPart (ctxJob k)) n).count - (if waitKeep y.word then 0 else waitVal y.word)
    ∧ Quiet signalSpans s u := by
  unfold State.hubGranted
  cases waitKeep y.word
  case true => exact ⟨h.of_eq rfl rfl, rfl, rfl, rfl, fun _ _ => rfl, rfl⟩
  case false => exact ⟨h.of_eq rfl rfl, rfl, rfl, congrArg Sem.count (State.hubSem_setHub s _ n _), fun _ _ => rfl, rfl⟩

/-- An outcome that comes when nothing waits in the hub: the hub is as the outcome leaves it, and the scheduler stirs. -/
theorem Calm.hub_outcome {u : State} (h : Calm u) (hw : u.hubWaits = []) (c : Nat) : ∃ v : State,
    (u.grantsHub c).tidy c = v.stir c ∧ v.ctxs = u.ctxs ∧ v.hubOps = u.hubOps ∧ v.hub = u.hub ∧ Quiet signalSpans u v := by
  have hgrants : u.grantsHub c = u ∨ u.grantsHub c = u.closesC c 0 .hubGrant := by
    unfold State.grantsHub
    split_ifs
    · exact .inl (State.grantAllHub_none hw c)
    · exact .inr rfl
  rcases hgrants with hg | hg
  · exact ⟨u, by rw [hg, h.tidy], rfl, rfl, rfl, Quiet.refl u⟩
  · exact ⟨u.closesC c 0 .hubGrant, by rw [hg, (h.of_eq rfl rfl : Calm (u.closesC c 0 .hubGrant)).tidy], rfl, rfl, rfl,
      (Quiet.refl u).closesC⟩

/-- What an outcome leaves of a calm state in whose hub nothing waits. -/
theorem Calm.hubStep_outcome {y : Ctx} (h : Calm w) (hwaits : w.hubWaits = []) (hact : o.act = .outcome)
    (hy : w.ctx? o.ctx = some y) (hi : y.inc = o.inc) :
    let u := w.noHubOps.hubStep o
    Calm u ∧ u.hubWaits = [] ∧ u.hubOps = [] ∧ Quiet signalSpans w u
    ∧ (y.inTime o.due = true → u.ctx? o.ctx = some (y.satisfied o.sem (w.holdTime o.ctx) o.due))
    ∧ (y.inTime o.due = false → waitKeep y.word = false →
        u.hubSem o.part o.sem = (w.hubSem o.part o.sem).raise (waitVal y.word) none) := by
  have h0 : Quiet signalSpans w w.noHubOps := ⟨fun _ _ => rfl, rfl⟩
  cases ht : y.inTime o.due
  case true =>
    have hstep := State.hubStep_outcome (s := w.noHubOps) hact hy hi ht
    dsimp only
    rw [hstep]
    exact ⟨h.hubOps_nil.setCtx _ ((Ctx.evicted_satisfied y _ _ _).trans (h.evicted hy)), hwaits, rfl, h0.setCtx,
      fun _ => State.ctx?_setCtx_same _ _ _, fun hf => by cases hf⟩
  case false =>
    have hstep := State.hubStep_late (s := w.noHubOps) hact hy hi ht
    dsimp only
    rw [hstep]
    cases hk : waitKeep y.word
    case true => exact ⟨h.hubOps_nil, hwaits, rfl, h0, fun hf => (by cases hf), fun _ hf => (by cases hf)⟩
    case false =>
      have ha := h.hubAmended_add o.part o.sem (waitVal y.word)
      exact ⟨ha.calm, ha.waits.trans hwaits, ha.ops, ha.quiet, fun hf => (by cases hf), fun _ _ => ha.sem⟩

end

/-- The state after the signal `g` has arrived. -/
theorem Steady.laneSignal {w : State} {g : LaneSig} {y : Ctx} (hs : Steady g.ctx y w) (hl : y.listens = true) (hpos : y.pos = true)
    (hwait : y.waiting = .none) (hplace : y.place = .inPlace) :
    let t := (({ w with laneSigs := [] } : State).signalCtx g.ctx g.sem g.amount none).tidy g.due
    t.laneSigs = [] ∧ Steady g.ctx (y.setSem g.sem ((y.sem g.sem).raise g.amount none)) t
    ∧ (65535 < (y.sem g.sem).count + g.amount → t.reg (key 0x2901 0x0B) = satAdd 32 (w.reg (key 0x2901 0x0B)) 1)
    ∧ Quiet signalSpans w t := by
  have hu : Steady g.ctx y { w with laneSigs := [] } := hs.of_eq rfl rfl
  have hsigs := State.signalCtx_keeps { w with laneSigs := [] } g.ctx g.sem g.amount none State.laneSigs (fun _ => rfl)
  have hsat := fun h => State.signalCtx_saturates (n := g.sem) (a := g.amount) hu.2 hl none h
  have hquiet := State.signalCtx_quiet { w with laneSigs := [] } g.ctx g.sem g.amount none (rs := signalSpans)
    (List.mem_cons_of_mem _ List.mem_cons_self)
  have hraised := hu.signalCtx hl g.sem g.amount none
  have h0 : Quiet signalSpans w { w with laneSigs := [] } := ⟨fun _ _ => rfl, rfl⟩
  dsimp only
  rw [hraised.1.tidy]
  generalize State.signalCtx _ _ _ _ _ = u at *
  have hstir := fun (rs : Spans) => State.stir_quiet (rs := rs) u g.due
  exact ⟨(State.stir_keeps u g.due State.laneSigs (fun _ => rfl)).trans hsigs, hraised.stir hpos hplace hwait g.due,
    fun h => ((hstir [schedSpan] List.mem_cons_self).regs _ (by decide)).trans (hsat h),
    h0.trans (hquiet.trans (hstir _ List.mem_cons_self))⟩

/-- Settles O12: a signal that arrives, an operation of the hub, its grant and its outcome, each followed into the stir of the
scheduler that ends the cycle. -/
theorem signalsReachLanesAndTheHub : Obligations.SignalsReachLanesAndTheHub := by
  refine ⟨?_, ?_, ?_, ?_, ?_⟩
  · intro s w dt g y hw hup hcalm hsig hdue hy hl hpos hwait hplace
    have hexec := exec_laneSignalArrival hw hup hsig hdue
    have harrived := Steady.laneSignal ⟨hcalm, hy⟩ hl hpos hwait hplace
    generalize State.tidy _ _ = t at hexec harrived
    obtain ⟨hsigs, hctx, hsat, hquiet⟩ := harrived
    exact leads_of hexec ⟨hsigs, ⟨_, hctx.2, rfl, Ctx.sem_setSem _ _ _⟩, hsat, hquiet.regs, hquiet.mem⟩
  · intro s w dt n o hw hup hcalm hops hdue hact
    obtain ⟨v, hu, hadd, hset⟩ := hcalm.hubAmended hact
    have hexec := exec_hubOperation hw hup hops hdue.le
    generalize State.hubStep _ o = u at hexec hu
    have hlater := hu.calm.hub_later (hu.now.trans hdue.symm)
    generalize State.tidy _ _ = t at hexec hlater
    obtain ⟨⟨hops', hwaits, hhub⟩, hcloses, hquiet⟩ := hlater
    have hsem : t.hubSem o.part o.sem = v := (State.hubSem_of_hub hhub _ _).trans hu.sem
    have hall := hu.quiet.trans hquiet
    exact leads_of hexec ⟨hops'.trans hu.ops, hwaits.trans hu.waits, fun h => hsem.trans (hadd h),
      fun h => (congrArg Sem.count hsem).trans (hset h), hcloses, hall.regs, hall.mem⟩
  · intro s w dt o y hw hup hcalm hops hdue hact hy hi
    have hexec := exec_hubOperation hw hup hops hdue.le
    have htest := hcalm.hubStep_test hact hy hi
    generalize State.hubStep _ o = u at hexec htest
    obtain ⟨hcalm', hops, hwaits, hhub, hnow, hquiet⟩ := htest
    have hlater := hcalm'.hub_later (hnow.trans hdue.symm)
    generalize State.tidy _ _ = t at hexec hlater
    obtain ⟨⟨hops', hwaits', hhub'⟩, hcloses, hquiet'⟩ := hlater
    have hall := hquiet.trans hquiet'
    exact leads_of hexec ⟨hops'.trans hops, hwaits'.trans hwaits, hhub'.trans hhub, hcloses, hall.regs, hall.mem⟩
  · intro s t k y ht hcalm hwaits hy hshared hpart
    have hgrant : t = (s.grantAllHub s.cclk).tidy s.cclk := ht
    rw [State.grantAllHub_one hwaits hy hshared hpart] at hgrant
    dsimp only
    by_cases hcount : waitVal y.word ≤ (s.hubSem (s.jobPart (ctxJob k)) (waitSem y.word)).count
    · rw [if_pos hcount] at hgrant ⊢
      have hgranted := hcalm.hubGranted (k := k) (n := waitSem y.word) s.cclk y
      generalize s.hubGranted k (waitSem y.word) s.cclk y = u at hgrant hgranted
      obtain ⟨hcalm', hwaits', hops, hsem, hquiet⟩ := hgranted
      obtain ⟨hops', hwaits'', hhub⟩ := State.stir_hub u s.cclk
      have hall := hquiet.trans (State.stir_quiet u s.cclk List.mem_cons_self)
      rw [hcalm'.tidy] at hgrant
      rw [← hgrant] at hops' hwaits'' hhub hall
      exact ⟨⟨hwaits''.trans hwaits', hops'.trans hops, (congrArg Sem.count (State.hubSem_of_hub hhub _ _)).trans hsem⟩,
        hall.regs, hall.mem⟩
    · rw [if_neg hcount, hcalm.tidy] at hgrant
      rw [if_neg hcount]
      obtain ⟨hops', hwaits', hhub⟩ := State.stir_hub s s.cclk
      have hall := State.stir_quiet (rs := signalSpans) s s.cclk List.mem_cons_self
      rw [← hgrant] at hops' hwaits' hhub hall
      exact ⟨⟨hwaits'.trans hwaits, hops', hhub⟩, hall.regs, hall.mem⟩
  · intro s w dt o y hw hup hcalm hops hdue hwaits hact hy hi
    have hexec := exec_hubOperation hw hup hops hdue
    have hstep := hcalm.hubStep_outcome hwaits hact hy hi
    generalize State.hubStep _ o = u at hexec hstep
    obtain ⟨hcalm', hwaits', hops', hquiet, hin, hlate⟩ := hstep
    obtain ⟨v, hv, hctxs, hvops, hvhub, hvquiet⟩ := hcalm'.hub_outcome hwaits' o.due
    obtain ⟨hentry, hwaiting, hheld⟩ := y.satisfied_fields o.sem (w.holdTime o.ctx) o.due
    have hctx : y.inTime o.due = true →
        CtxIs (v.stir o.due) o.ctx (fun z => z.unplaced = (y.satisfied o.sem (w.holdTime o.ctx) o.due).unplaced) := by
      intro ht
      have hlast := Lasting.unplaced (x := y.satisfied o.sem (w.holdTime o.ctx) o.due) (by simp [hwaiting]) (by simp [hwaiting]) o.due
      exact CtxIs.stir hlast (CtxIs.of_eq ⟨_, hin ht, rfl⟩ hctxs)
    have hall := hquiet.trans (hvquiet.trans (State.stir_quiet v o.due List.mem_cons_self))
    obtain ⟨hsops, -, hshub⟩ := State.stir_hub v o.due
    rw [hv] at hexec
    generalize v.stir o.due = t at *
    refine leads_of hexec ⟨hsops.trans (hvops.trans hops'), fun ht => ?_, fun ht hk => ?_, hall.regs, hall.mem⟩
    · obtain ⟨z, hz, hu⟩ := hctx ht
      refine ⟨z, hz, (Ctx.eq_of_unplaced Ctx.entry (fun _ => rfl) hu).trans hentry,
        (Ctx.eq_of_unplaced Ctx.waiting (fun _ => rfl) hu).trans hwaiting, fun hk => ?_⟩
      rw [Ctx.eq_of_unplaced Ctx.held (fun _ => rfl) hu]
      exact hheld hk
    · exact (State.hubSem_of_hub (hshub.trans hvhub) _ _).trans (hlate ht hk)

end Sys2Proof.Machine
end

section
/-! Yields and deadlines (05 R152, R153; 09 R266; 10 R286). -/
namespace Sys2Proof.Machine

section
variable {s w : State} {core slot k : Nat} {x y : Ctx} {e : Fetched}

theorem Issues.entered_of {v t : State} (h : Issues w core slot k x e) (hc : core < 6) (hq : Quiet signalSpans (w.issuing k x) v)
    (ht : Quiet [schedSpan] v t) : Entered w (w.sealed t) core [] := by
  have hall := hq.trans (ht.sub (by simp [signalSpans]))
  exact h.entered hc hall.regs hall.mem

/-! Yields. -/

/-- A context whose yield is issued in cycle `c`. -/
def Ctx.yielding (x : Ctx) (w c : Nat) : Ctx := { x.issued with waiting := .yield, word := w, issuedAt := c }

/-- A context that has given its position up in cycle `c`, with DUE `d`. -/
def Ctx.gone (x : Ctx) (c d : Nat) : Ctx := { x.leave c with away := true, dueLeft := d }

/-- A context gives its position up: it is away, and the scheduler stirs in the next cycle. -/
theorem Steady.giveUp (h : Steady k x s) (hpos : x.pos = true) (c : Nat) : ∃ d,
    Steady k (x.gone c d) (s.giveUp k c) ∧ (s.giveUp k c).OpensC (c + 1) 0 .stir ∧ Quiet [] s (s.giveUp k c) := by
  have hset : ∀ (u : State) (d : Nat), u.jobs = s.jobs → u.ctxs = s.ctxs → Quiet [] s u →
      Steady k (x.gone c d) ((u.setCtx k (x.gone c d)).opensC (c + 1) 0 .stir)
      ∧ ((u.setCtx k (x.gone c d)).opensC (c + 1) 0 .stir).OpensC (c + 1) 0 .stir
      ∧ Quiet [] s ((u.setCtx k (x.gone c d)).opensC (c + 1) 0 .stir) := by
    intro u d hj hc hq
    have hs : Steady k (x.gone c d) (u.setCtx k (x.gone c d)) :=
      Steady.setCtx_same (h.1.of_eq hj hc) (show x.evicted = none from h.1.evicted h.2)
    exact ⟨hs.of_eq rfl rfl, State.opensC_with _ _ _ _, hq.setCtx.opensC⟩
  unfold State.giveUp
  rw [h.2]
  dsimp only
  rw [if_pos hpos]
  split_ifs
  · exact ⟨_, hset _ _ rfl rfl (Quiet.refl s).setKept⟩
  · exact ⟨_, hset _ _ rfl rfl (Quiet.refl s)⟩

/-- A context whose yield has been issued. -/
def State.atYield (s : State) (k : Nat) (x : Ctx) (w : Nat) : State := (s.issuing k x).setCtx k (x.yielding w s.cclk)

theorem Issues.atYield (h : Issues w core slot k x e) (d : Nat) : Steady k (x.yielding d w.cclk) (w.atYield k x d) :=
  Steady.setCtx_same h.issued.1 (show x.evicted = none from h.calm.evicted h.here)

theorem State.atYield_quiet (w : State) (k : Nat) (x : Ctx) (d : Nat) {rs : Spans} : Quiet rs (w.issuing k x) (w.atYield k x d) :=
  (Quiet.refl _).setCtx

theorem Issues.yieldDo_eq (h : Issues w core slot k x e) (ws : List Nat) (hr : bits (ws.getD 0 0) 63 9 = 0)
    (hz : zeroFrom ws 1 = true) : State.yieldDo (w.fetched k x) k x (.issue 0x42 ws) =
      (if x.work = 0 then (w.atYield k x (ws.getD 0 0)).yieldPoint k w.cclk else w.atYield k x (ws.getD 0 0)).tidy w.cclk := by
  have hctx : ∀ u : State, u = (w.fetched k x).countIssue k x → u.ctx? k = some x.issued := by
    rintro u rfl
    exact h.issued.2
  unfold State.yieldDo
  simp only [Fetched.words, hr, hz, ne_eq, not_true_eq_false, Bool.true_eq_false, or_self, if_false, State.cclk_fetched]
  rw [State.onCtx_of (hctx _ rfl)]
  rfl

/-- The pre-emptions at a yield point count for a context that is marked. -/
def State.countPreempt (s : State) (k : Nat) (x : Ctx) : State :=
  if x.graceAt.isSome then s.addReg (kJob (ctxJob k) 0x0B) 1 else s

/-- A quiescent context at its yield point, of a job that is not leaving. -/
theorem Steady.yieldPoint (h : Steady k y s) (c : Nat) : s.yieldPoint k c =
    if y.holds = true then (s.setCtx k (y.complete c (y.entry + 1))).count 0x2901 0x0D
    else if (y.graceAt.isSome || yieldSurr y.word) = true then (s.countPreempt k y).giveUp k c
    else s.setCtx k (y.complete c (y.entry + 1)) := by
  unfold State.yieldPoint
  rw [h.2]
  dsimp only
  rw [h.1.1 (ctxJob k)]
  simp only [Bool.false_eq_true, if_false]
  rfl

end

section
variable {s w : State} {dt : Nat} {core : Fin 6} {slot : Fin 4} {k : Nat} {x : Ctx} {ws : List Nat}
  {op : (Nat → Fin 6 → Fin 4 → Instr) × Bool}

/-- What the scheduler's stir leaves of a yield whose effect is `v`, with the context `z`. -/
theorem Issues.yield_stirs {v : State} {z : Ctx} (hop : op ∈ yieldCommands) (h : Issues w core slot k x (.issue 0x42 ws))
    (hw : w = s.wait dt) (hup : w.up = true) (hr : bits (ws.getD 0 0) 63 9 = 0) (hz : zeroFrom ws 1 = true)
    (hs : yieldSurr (ws.getD 0 0) = op.2)
    (hv : (if x.work = 0 then (w.atYield k x (ws.getD 0 0)).yieldPoint k w.cclk else w.atYield k x (ws.getD 0 0)) = v)
    (hzv : Steady k z v) (hq : Quiet signalSpans (w.atYield k x (ws.getD 0 0)) v) (hl : Lasting w.cclk (fun y => y = z))
    (hhalt : z.halted = false) :
    ∃ t, exec (op.1 dt core slot) s = .next (w.sealed t) ∧ t.ctx? k = some z ∧ Entered w (w.sealed t) core []
      ∧ t.later = v.later ∧ (∀ r, (∀ j, r ≠ kJob j 0x0A) → t.reg r = v.reg r) := by
  have hc : exec (op.1 dt core slot) s =
      .next (s.during dt (fun s => s.issue core slot (isOp 0x42 (fun w => yieldSurr w == op.2)) State.yieldDo)) := by
    simp only [yieldCommands, List.mem_cons, List.not_mem_nil, or_false] at hop
    rcases hop with rfl | rfl <;> rfl
  have hm : isOp 0x42 (fun w => yieldSurr w == op.2) (.issue 0x42 ws) = true := by
    rw [isOp, hs]
    simp
  have hdo := h.yieldDo_eq ws hr hz
  rw [hv] at hdo
  obtain ⟨t, hexec, ⟨y, hy, rfl⟩, hquiet, hkeeps, hregs⟩ :=
    h.stirs hw hup hc (by simp) hm hdo hzv hl rfl (by rintro _ rfl; exact hhalt)
  exact ⟨t, hexec, hy, h.entered_of core.2 ((w.atYield_quiet k x _).trans hq) hquiet, hkeeps State.later (fun _ => rfl), hregs⟩

/-- A context whose entry is done goes on. -/
theorem Steady.goesOn {u : State} {z : Ctx} (h : Steady k z u) (c : Nat) :
    Steady k (z.complete c (z.entry + 1)) (u.setCtx k (z.complete c (z.entry + 1))) :=
  Steady.setCtx_same h.1 (show z.evicted = none from h.1.evicted h.2)

theorem Steady.countPreempt {u : State} {z : Ctx} (h : Steady k z u) (y : Ctx) : Steady k z (u.countPreempt k y) := by
  unfold State.countPreempt
  split_ifs
  · exact h.of_eq rfl rfl
  · exact h

theorem State.countPreempt_quiet (u : State) (k : Nat) (y : Ctx) {rs : Spans} (h : schedSpan ∈ rs) :
    Quiet rs u (u.countPreempt k y) := by
  unfold State.countPreempt
  split_ifs
  · exact (Quiet.refl u).addReg (kJob_covers h (by omega))
  · exact Quiet.refl u

section
variable (hop : op ∈ yieldCommands) (h : Issues w core slot k x (.issue 0x42 ws)) (hw : w = s.wait dt) (hup : w.up = true)
  (hr : bits (ws.getD 0 0) 63 9 = 0) (hz : zeroFrom ws 1 = true) (hs : yieldSurr (ws.getD 0 0) = op.2)
include hop h hw hup hr hz hs

/-- With work under way a yield waits for quiescence (R152). -/
theorem Issues.yield_waits (hwork : x.work ≠ 0) : Leads (op.1 dt core slot) s (fun t => Entered w t core []
    ∧ CtxIs t k (fun y => y.entry = x.entry ∧ y.waiting = .yield ∧ y.pos = true)) := by
  obtain ⟨hpos, hplace, -, -⟩ := h.may_iff
  obtain ⟨t, hexec, hctx, hent, -, -⟩ := h.yield_stirs hop hw hup hr hz hs (if_neg hwork) (h.atYield _) (Quiet.refl _)
    (Lasting.still hplace (by simp [Ctx.yielding]) (by simp [Ctx.yielding]) (.inl hpos)) h.unhalted
  exact leads_of hexec ⟨hent, _, hctx, rfl, rfl, hpos⟩

/-- At quiescence a context that holds something goes on, and is counted (R152). -/
theorem Issues.yield_holding (hwork : x.work = 0) (hholds : x.holds = true) : Leads (op.1 dt core slot) s (fun t =>
    Entered w t core [] ∧ CtxIs t k (fun y => y.entry = x.entry + 1 ∧ y.waiting = .none)
    ∧ t.reg (key 0x2901 0x0D) = satAdd 32 ((w.issuing k x).reg (key 0x2901 0x0D)) 1) := by
  obtain ⟨hpos, hplace, -, -⟩ := h.may_iff
  have hpoint := ((h.atYield (ws.getD 0 0)).yieldPoint w.cclk).trans (if_pos hholds)
  have hstirs := fun v z => Issues.yield_stirs (v := v) (z := z) hop h hw hup hr hz hs
  have hyields := h.atYield (ws.getD 0 0)
  have hreg : (w.atYield k x (ws.getD 0 0)).reg (key 0x2901 0x0D) = (w.issuing k x).reg (key 0x2901 0x0D) := rfl
  generalize w.atYield k x (ws.getD 0 0) = u at hpoint hstirs hyields hreg
  obtain ⟨t, hexec, hctx, hent, -, hregs⟩ := hstirs _ _ ((if_pos hwork).trans hpoint)
    ((Steady.goesOn hyields w.cclk).count 0x2901 0x0D)
    ((Quiet.refl u).setCtx.count (by simp [signalSpans]) (by omega) (by omega) (by omega))
    (Lasting.still hplace (by simp [Ctx.complete]) (by simp [Ctx.complete]) (.inl hpos)) h.unhalted
  refine leads_of hexec ⟨hent, ⟨_, hctx, rfl, rfl⟩, (hregs _ (fun j => key_ne_sub (by decide))).trans ?_⟩
  rw [← hreg]
  exact State.reg_count_same (u.setCtx k _) 0x2901 0x0D 0 none

/-- At quiescence a context that is marked for pre-emption, or whose yield has SURR, leaves its position (R152, R266). -/
theorem Issues.yield_surrenders (hwork : x.work = 0) (hholds : ¬x.holds = true) (hmarked : x.graceAt.isSome ∨ op.2 = true) :
    Leads (op.1 dt core slot) s (fun t => Entered w t core []
      ∧ CtxIs t k (fun y => y.entry = x.entry ∧ y.waiting = .yield ∧ y.pos = false ∧ y.away = true)
      ∧ t.OpensC (w.cclk + 1) 0 .stir
      ∧ (x.graceAt.isSome → t.reg (kJob (ctxJob k) 0x0B) =
          satAdd (widthOf (kJob (ctxJob k) 0x0B)) (w.reg (kJob (ctxJob k) 0x0B)) 1)) := by
  obtain ⟨hpos, hplace, -, -⟩ := h.may_iff
  have hj : ctxJob k < 64 := Nat.mod_lt _ (by omega)
  have hgrace : ((x.yielding (ws.getD 0 0) w.cclk).graceAt.isSome || yieldSurr (x.yielding (ws.getD 0 0) w.cclk).word) = true := by
    rw [Bool.or_eq_true]
    exact hmarked.imp_right (fun h => hs.trans h)
  have hpoint := (((h.atYield (ws.getD 0 0)).yieldPoint w.cclk).trans (if_neg hholds)).trans (if_pos hgrace)
  have hstirs := fun v z => Issues.yield_stirs (v := v) (z := z) hop h hw hup hr hz hs
  have hyields := h.atYield (ws.getD 0 0)
  have hreg : (w.atYield k x (ws.getD 0 0)).reg (kJob (ctxJob k) 0x0B) = w.reg (kJob (ctxJob k) 0x0B) := by
    refine w.reg_issuing k x (key_ne_sub (by decide)) (key_ne_sub (by decide)) ?_
    simp only [findSpans, covers_cons, covers_nil, and_true, counterSpan, pages, at1, kJob, key]
    omega
  generalize w.atYield k x (ws.getD 0 0) = u at hpoint hstirs hyields hreg
  obtain ⟨d, hgone, hopens, hquiet⟩ := (hyields.countPreempt (x.yielding (ws.getD 0 0) w.cclk)).giveUp hpos w.cclk
  have hcount := hquiet.regs (kJob (ctxJob k) 0x0B) rfl
  obtain ⟨t, hexec, hctx, hent, hlater, hregs⟩ := hstirs _ _ ((if_pos hwork).trans hpoint) hgone
    ((State.countPreempt_quiet u k _ List.mem_cons_self).trans (hquiet.sub (List.nil_subset _)))
    (Lasting.still hplace (by simp [Ctx.gone, Ctx.leave, Ctx.yielding]) (by simp [Ctx.gone, Ctx.leave, Ctx.yielding]) (.inr ⟨rfl, rfl⟩))
    h.unhalted
  have hopens' : t.OpensC (w.cclk + 1) 0 .stir := by
    unfold State.OpensC
    rw [hlater]
    exact hopens
  refine leads_of hexec ⟨hent, ⟨_, hctx, rfl, rfl, rfl, rfl⟩, hopens', fun hg => ?_⟩
  refine ((hregs _ (fun j => key_ne_sub (by decide))).trans hcount).trans ?_
  rw [State.countPreempt, if_pos (show (x.yielding (ws.getD 0 0) w.cclk).graceAt.isSome = true from hg), State.reg_addReg_same, hreg,
    Nat.mod_eq_of_lt (satAdd_lt _ _ _)]

/-- Any other context goes on at quiescence (R152). -/
theorem Issues.yield_goesOn (hwork : x.work = 0) (hholds : ¬x.holds = true) (hmarked : ¬(x.graceAt.isSome ∨ op.2 = true)) :
    Leads (op.1 dt core slot) s (fun t => Entered w t core []
      ∧ CtxIs t k (fun y => y.entry = x.entry + 1 ∧ y.waiting = .none ∧ y.pos = true)) := by
  obtain ⟨hpos, hplace, -, -⟩ := h.may_iff
  have hgrace : ¬((x.yielding (ws.getD 0 0) w.cclk).graceAt.isSome || yieldSurr (x.yielding (ws.getD 0 0) w.cclk).word) = true := by
    rw [Bool.or_eq_true]
    exact fun h => hmarked (h.imp_right (fun h => hs.symm.trans h))
  have hpoint := (((h.atYield (ws.getD 0 0)).yieldPoint w.cclk).trans (if_neg hholds)).trans (if_neg hgrace)
  obtain ⟨t, hexec, hctx, hent, -, -⟩ := h.yield_stirs hop hw hup hr hz hs ((if_pos hwork).trans hpoint)
    (Steady.goesOn (h.atYield _) w.cclk) (Quiet.refl _).setCtx
    (Lasting.still hplace (by simp [Ctx.complete]) (by simp [Ctx.complete]) (.inl hpos)) h.unhalted
  exact leads_of hexec ⟨hent, _, hctx, rfl, rfl, hpos⟩

end

end

/-! Deadlines (R153, 10 R286). -/

section
variable {s w u : State} {dt : Nat} {core : Fin 6} {slot : Fin 4} {k : Nat} {x y : Ctx} {ws : List Nat}

/-- The state with another count of the free values taken. -/
def State.freed (u : State) (n : Nat) : State := { u with freeCount := n }

/-- The base of a deadline is read, and at most a free value taken for it. -/
theorem State.deadBase_state (u : State) (k : Nat) (x : Ctx) (ws : List Nat) : ∃ n, (u.deadBase k x ws).2 = u.freed n := by
  unfold State.deadBase
  dsimp only
  split_ifs
  · exact ⟨u.freeCount, rfl⟩
  · exact ⟨u.freeCount, rfl⟩
  · exact ⟨u.freeCount + 1, rfl⟩
  · exact ⟨u.freeCount, rfl⟩

/-- A publication of context `k` that crosses to SCLK. -/
def State.publishes (u : State) (k : Nat) (v : Option Nat) : State :=
  (u.setJob (ctxJob k) { u.job (ctxJob k) with pubAt := some (u.cclk, ctxLane k) }).opens (u.toSclk u.cclk) (.publish (ctxJob k) v)

/-- Unless a lower lane of its job has published in this cycle, a context's publication crosses to SCLK. -/
theorem State.publish_eq (v : Option Nat) (h : ∀ l, (u.job (ctxJob k)).pubAt = some (u.cclk, l) → ¬l < ctxLane k) :
    u.publish k v = u.publishes k v := by
  unfold State.publish
  dsimp only
  refine if_neg ?_
  split
  case h_1 c l hp =>
    rw [Bool.and_eq_true, beq_iff_eq, decide_eq_true_eq]
    rintro ⟨rfl, hl⟩
    exact h l hp hl
  case h_2 => exact Bool.false_ne_true

theorem Calm.setJob (h : Calm u) (j : Nat) (z : JobUnit) (hz : z.leaving = false) : Calm (u.setJob j z) := by
  refine ⟨fun i => ?_, h.2⟩
  by_cases hi : i = j
  · subst hi
    rw [State.job_setJob]
    exact hz
  · exact (congrArg JobUnit.leaving (tget_tset_other _ u.jobs z hi)).trans (h.1 i)

/-- A publication leaves its context to go on. -/
theorem Steady.publishes (h : Steady k y u) (v : Option Nat) (c : Nat) : let t := (u.publishes k v).passOn k c
    Steady k (y.complete c (y.entry + 1)) t ∧ t.OpensWith (u.toSclk u.cclk) (.publish (ctxJob k) v)
    ∧ (t.job (ctxJob k)).pubAt = some (u.cclk, ctxLane k) ∧ OnlyRegs [] u t ∧ SameMem u t := by
  have hcalm : Calm (u.publishes k v) :=
    (h.1.setJob (ctxJob k) { u.job (ctxJob k) with pubAt := some (u.cclk, ctxLane k) } (h.1.1 _)).of_eq rfl rfl
  have hpub := State.job_setJob (i := ctxJob k) u { u.job (ctxJob k) with pubAt := some (u.cclk, ctxLane k) }
  dsimp only [State.passOn]
  rw [State.onCtx_of (s := u.publishes k v) h.2]
  exact ⟨Steady.setCtx_same hcalm (show y.evicted = none from h.1.evicted h.2), State.opens_with _ _ _, congrArg JobUnit.pubAt hpub,
    fun _ _ => rfl, rfl, rfl, rfl, rfl, rfl⟩

/-- What the scheduler's stir leaves of a publication from a state `u` in which the issuing context runs. -/
theorem Issues.publish_stirs {c : Instr} {mine : Fetched → Bool} {f : State → Nat → Ctx → Fetched → State} {v : Option Nat}
    (h : Issues w core slot k x (.issue 0x44 ws)) (hw : w = s.wait dt) (hup : w.up = true)
    (hc : exec c s = .next (s.during dt (fun s => s.issue core slot mine f))) (hm : mine (.issue 0x44 ws) = true)
    (hf : f (w.fetched k x) k x (.issue 0x44 ws) = ((u.publish k v).passOn k w.cclk).tidy w.cclk) (hy : Steady k y u)
    (hpos : y.pos = true) (hplace : y.place = .inPlace) (hhalt : y.halted = false)
    (hlow : ∀ l, (u.job (ctxJob k)).pubAt = some (u.cclk, l) → ¬l < ctxLane k) :
    ∃ t, exec c s = .next (w.sealed t) ∧ t.OpensWith (u.toSclk u.cclk) (.publish (ctxJob k) v)
      ∧ (t.job (ctxJob k)).pubAt = some (u.cclk, ctxLane k) ∧ CtxIs t k (fun z => z.entry = y.entry + 1)
      ∧ OnlyRegs [schedSpan] u t ∧ SameMem u t := by
  rw [State.publish_eq v hlow] at hf
  obtain ⟨hsteady, hopens, hpub, hregs, hmem⟩ := hy.publishes v w.cclk
  generalize (u.publishes k v).passOn k w.cclk = v' at hf hsteady hopens hpub hregs hmem
  have hlast : Lasting w.cclk (fun z => z = y.complete w.cclk (y.entry + 1)) :=
    Lasting.still hplace Waiting.noConfusion Waiting.noConfusion (.inl hpos)
  obtain ⟨t, hexec, ⟨z, hz, rfl⟩, hquiet, hkeeps, -⟩ := h.stirs (s := s) hw hup hc (by simp) hm hf hsteady
    hlast rfl (by rintro _ rfl; exact hhalt)
  have hlater : t.later = v'.later := hkeeps State.later (fun _ => rfl)
  have hjobs : t.jobs = v'.jobs := hkeeps State.jobs (fun _ => rfl)
  refine ⟨t, hexec, ?_, ?_, ⟨_, hz, rfl⟩, (hregs.of_subset (by simp)).trans hquiet.regs, hmem.trans hquiet.mem⟩
  · unfold State.OpensWith
    rw [hlater]
    exact hopens
  · unfold State.job
    rw [hjobs]
    exact hpub

end

theorem widthOf_deadline (j : Fin 64) : 31 < widthOf (kJob j 8) := by
  rw [kJob, widthOf_job j.2 (by omega)]
  decide

theorem State.perform_published (s : State) (j v : Nat) (h : s.active (fJob j) = true) :
    s.perform (.publish j (some v)) = (s.setReg (kJob j 7) v).setBit (kJob j 8) 31 true :=
  if_pos h

/-- Settles O15: what a yield does at each kind of yield point, and a publication of a deadline up to its crossing to the signal
box and what it shows there. -/
theorem yieldsAndDeadlinesTakeEffect : Obligations.YieldsAndDeadlinesTakeEffect := by
  refine ⟨?_, ?_, ?_, ?_, ?_⟩
  · intro op hop s w dt core slot k x ws hw hup h hr hz hs
    by_cases hwork : x.work = 0
    · by_cases hholds : x.holds = true
      · obtain ⟨t, hexec, hent, hy, hcount⟩ := h.yield_holding hop hw hup hr hz hs hwork hholds
        exact ⟨t, hexec, by rw [if_neg (not_not.2 hwork), if_pos hholds]; exact ⟨hy, hcount⟩, hent⟩
      · by_cases hmarked : x.graceAt.isSome ∨ op.2 = true
        · obtain ⟨t, hexec, hent, hy⟩ := h.yield_surrenders hop hw hup hr hz hs hwork hholds hmarked
          exact ⟨t, hexec, by rw [if_neg (not_not.2 hwork), if_neg hholds, if_pos hmarked]; exact hy, hent⟩
        · obtain ⟨t, hexec, hent, hy⟩ := h.yield_goesOn hop hw hup hr hz hs hwork hholds hmarked
          exact ⟨t, hexec, by rw [if_neg (not_not.2 hwork), if_neg hholds, if_neg hmarked]; exact hy, hent⟩
    · obtain ⟨t, hexec, hent, hy⟩ := h.yield_waits hop hw hup hr hz hs hwork
      exact ⟨t, hexec, by rw [if_pos hwork]; exact hy, hent⟩
  · intro s w u dt core slot k x y ws hw hup h hu hruns hsrc hsound hinside hlow
    obtain ⟨n, hbase⟩ := u.deadBase_state k x ws
    have hf : (w.fetched k x).publishEntry k x (.issue 0x44 ws) =
        (((u.freed n).publish k
          (some (posAdd (u.deadBase k x ws).1 (signed 48 (ws.getD 1 0))))).passOn k w.cclk).tidy w.cclk := by
      rw [← hbase, hu]
      unfold State.publishEntry
      rw [State.cclk_fetched]
      dsimp only [Fetched.words]
      rw [if_neg (by rw [hsound]; exact Bool.false_ne_true), if_neg]
      · rfl
      · rintro ⟨h2, hout⟩
        exact absurd (hout.symm.trans (hu ▸ hinside h2)) Bool.false_ne_true
    have hy : Steady k y (u.freed n) := hruns.steady.of_eq rfl rfl
    obtain ⟨t, hexec, hopens, hpub, hctx, hregs, hmem⟩ := h.publish_stirs (c := .deadlinePublish dt core slot) (s := s) hw hup rfl
      (by rw [isOp]; simpa using hsrc) hf hy hruns.pos hruns.place hruns.halted hlow
    exact leads_of hexec ⟨hopens, hpub, hctx, hregs, hmem⟩
  · intro s w dt core slot k x ws hw hup h hsrc hsound hlow
    have hf : (w.fetched k x).unpublishEntry k x (.issue 0x44 ws) = (((w.issuing k x).publish k none).passOn k w.cclk).tidy w.cclk := by
      unfold State.unpublishEntry
      rw [State.cclk_fetched]
      exact if_neg (by rw [Fetched.words, hsound]; exact Bool.false_ne_true)
    have hsclk : (w.issuing k x).toSclk (w.issuing k x).cclk = w.toSclk w.cclk :=
      State.issuing_keeps w k x (fun u => u.toSclk u.cclk) (fun _ => rfl)
    obtain ⟨hpos, hplace, -, -⟩ := h.may_iff
    obtain ⟨t, hexec, hopens, -, hctx, hregs, hmem⟩ := h.publish_stirs (c := .deadlineClear dt core slot) (s := s) hw hup rfl
      (by rw [isOp]; simpa using hsrc) hf h.issued hpos hplace h.unhalted (by rw [State.job_issuing, State.cclk_issuing]; exact hlow)
    exact leads_of hexec ⟨hsclk ▸ hopens, hctx, h.entered core.2 (hregs.of_subset (by simp [signalSpans])) hmem⟩
  · rintro s t j v rfl hv hactive
    have hw7 : widthOf (kJob j 7) = 48 := widthOf_job j.2 (by omega)
    have hne : kJob j 7 ≠ kJob j 8 := key_ne_sub (by decide)
    have hquiet : Quiet [at1 (kJob j 7), at1 (kJob j 8)] s ((s.setReg (kJob j 7) v).setBit (kJob j 8) 31 true) :=
      ((Quiet.refl s).setReg (covers_at1 (by simp))).setBit (covers_at1 (by simp))
    rw [State.perform_published s j v hactive]
    refine ⟨?_, State.bit_setBit_same _ _ _ (widthOf_deadline j), hquiet.regs, hquiet.mem⟩
    rw [State.reg_setBit_other _ _ _ hne, State.reg_setReg_same, hw7, Nat.mod_eq_of_lt hv]
  · rintro s t j rfl
    have hquiet : Quiet [at1 (kJob j 8)] s (s.setBit (kJob j 8) 31 false) := (Quiet.refl s).setBit (covers_at1 (by simp))
    exact ⟨State.bit_setBit_same _ _ _ (widthOf_deadline j), hquiet.regs, hquiet.mem⟩

end Sys2Proof.Machine
end

section
/-! SUPPORT. The fault status of the cores (05 Table 5-16) and which contexts there are, while the units of the cores work (Cycles.lean):
neither changes. -/
namespace Sys2Proof.Machine

/-- The fault status of every core, and which contexts there are. -/
def State.standing (s : State) : (Nat → Nat) × (Nat → Bool) := (fun c => s.reg (kCore c 3), fun k => (s.ctx? k).isSome)

theorem State.standing_of {s t : State} (hr : ∀ c, t.reg (kCore c 3) = s.reg (kCore c 3))
    (hc : ∀ k, (t.ctx? k).isSome = (s.ctx? k).isSome) : t.standing = s.standing :=
  Prod.ext (funext hr) (funext hc)

theorem State.standing_of_eq {s t : State} (hr : t.regs = s.regs) (hc : t.ctxs = s.ctxs) : t.standing = s.standing := by
  refine State.standing_of (fun c => ?_) (fun k => ?_)
  · unfold State.reg
    rw [hr]
  · unfold State.ctx?
    rw [hc]

theorem State.status_of_standing {s t : State} (h : t.standing = s.standing) (c : Nat) : t.reg (kCore c 3) = s.reg (kCore c 3) :=
  congrFun (congrArg Prod.fst h) c

theorem State.isSome_of_standing {s t : State} (h : t.standing = s.standing) (k : Nat) : (t.ctx? k).isSome = (s.ctx? k).isSome :=
  congrFun (congrArg Prod.snd h) k

section Updates
variable (s : State) (k v n h c : Nat)

theorem State.standing_setReg (hk : ∀ c, kCore c 3 ≠ k) : (s.setReg k v).standing = s.standing :=
  State.standing_of (fun c => State.reg_setReg_other s v (hk c)) (fun _ => rfl)

/-- The status registers stand below the pages of every other unit of the cores. -/
theorem kCore_below (hk : key 0x2408 0 ≤ k) : ∀ c, kCore c 3 ≠ k := by
  intro c
  unfold kCore key at *
  omega

@[simp] theorem State.standing_addArr (i : Nat) : (s.addReg (kArr i n) v).standing = s.standing :=
  State.standing_setReg _ _ _ (kCore_below _ (by unfold kArr key; omega))

@[simp] theorem State.standing_addCore : (s.addReg (kCore c 8) v).standing = s.standing :=
  State.standing_setReg _ _ _ (fun c' => by unfold kCore key; omega)

@[simp] theorem State.standing_addKB (b i : Nat) : (s.addKB (key (0x2B00 + b) i) n).standing = s.standing :=
  State.standing_setReg _ _ _ (kCore_below _ (by unfold key; omega))

theorem State.standing_count (ix sub d : Nat) (l : Option (Nat × Nat)) (hi : 0x2900 ≤ ix) :
    (s.count ix sub d l).standing = s.standing := by
  refine State.standing_of (fun c => State.reg_count_below s ix sub d l hi ?_) (fun k => ?_)
  · unfold kCore key
    omega
  · exact State.count_keeps s ix sub d l (fun u => (u.ctx? k).isSome) (fun _ => rfl)

theorem State.standing_forEach {β : Type} (f : β → State → State) (hf : ∀ x u, (f x u).standing = u.standing) (xs : List β) :
    (forEach xs s f).standing = s.standing := forEach_same State.standing f hf xs s

/-- A fold that carries a state with what it gathers. -/
theorem State.standing_foldl {β γ : Type} (f : γ → β → γ) (g : γ → State) (hf : ∀ x y, (g (f x y)).standing = (g x).standing)
    (ys : List β) (x : γ) : (g (ys.foldl f x)).standing = (g x).standing := by
  induction ys generalizing x with
  | nil => rfl
  | cons y ys ih => rw [List.foldl_cons, ih, hf]

theorem State.standing_countMany (ix sub d : Nat) (hi : 0x2900 ≤ ix) : (s.countMany n ix sub d).standing = s.standing :=
  State.standing_foldl _ id (fun u _ => State.standing_count u ix sub d none hi) _ s

theorem State.standing_setCtx (x : Ctx) (hk : (s.ctx? k).isSome = true) : (s.setCtx k x).standing = s.standing := by
  refine State.standing_of (fun _ => rfl) (fun j => ?_)
  by_cases hj : j = k
  · subst hj
    rw [State.ctx?_setCtx_same, hk, Option.isSome_some]
  · rw [State.ctx?_setCtx_other _ _ hj]

@[simp] theorem State.standing_onCtx (f : Ctx → Ctx) : (s.onCtx k f).standing = s.standing := by
  unfold State.onCtx
  split
  case h_1 x hx => exact State.standing_setCtx _ _ _ (by rw [hx]; rfl)
  case h_2 => rfl

/-- A change of the contexts that are there adds and removes none. -/
theorem State.standing_mapCtxs (f : Nat × Ctx → Nat × Ctx) (hf : ∀ e, (f e).1 = e.1) :
    ({ s with ctxs := s.ctxs.map f } : State).standing = s.standing := by
  refine State.standing_of (fun _ => rfl) (fun k => ?_)
  have hfind : ∀ l : List (Nat × Ctx), (tfind (l.map f) k).isSome = (tfind l k).isSome := by
    intro l
    induction l with
    | nil => rfl
    | cons e l ih =>
      rw [List.map_cons, tfind, tfind, hf e]
      split_ifs
      · rfl
      · exact ih
  exact hfind s.ctxs

@[simp] theorem State.standing_setHalf (x : HalfUnit) : (s.setHalf n h x).standing = s.standing := rfl
@[simp] theorem State.standing_setVec (x : VecUnit) : (s.setVec c x).standing = s.standing := rfl
@[simp] theorem State.standing_setTopk (x : TopkUnit) : (s.setTopk c x).standing = s.standing := rfl
@[simp] theorem State.standing_setShunter (x : ShuntUnit) : (s.setShunter c n x).standing = s.standing := rfl
@[simp] theorem State.standing_setValid (a r : Nat) (b : Bool) : (s.setValid c a h r b).standing = s.standing := rfl
@[simp] theorem State.standing_take (t : Nat) (ps : List Nat) : (s.take t ps).standing = s.standing := rfl
@[simp] theorem State.standing_noteDenial (w : Requester) : (s.noteDenial w).standing = s.standing := rfl
@[simp] theorem State.standing_putEntries (o : Nat) (bs : Bytes) : (s.putEntries o bs).standing = s.standing := rfl
@[simp] theorem State.standing_poisonAcc (b : Nat) : (s.poisonAcc b).standing = s.standing := rfl
@[simp] theorem State.standing_arrivalLost (t : Nat) : (s.arrivalLost c n t).standing = s.standing := rfl
@[simp] theorem State.standing_shuntLost (b : Bool) : (s.shuntLost c n b).standing = s.standing := rfl
@[simp] theorem State.standing_topkLost : (s.topkLost c).standing = s.standing := rfl
@[simp] theorem State.standing_loadLost (t : Nat) : (s.loadLost n h t).standing = s.standing := rfl
@[simp] theorem State.standing_stopCount : s.stopCount.standing = s.standing :=
  State.standing_mapCtxs s (fun e => (e.1, e.2.delay 96)) (fun _ => rfl)

theorem State.standing_foundBad (level a : Nat) : (s.foundBad level a).standing = s.standing := by
  unfold State.foundBad
  rw [State.standing_count _ _ _ _ _ (by omega)]
  exact State.standing_setReg _ _ _ (kCore_below _ (by decide))

@[simp] theorem State.standing_noticeBad (level sz a : Nat) : (s.noticeBad level sz a n).standing = s.standing :=
  State.standing_forEach s _ (fun w u => State.standing_foundBad u level (w * sz)) _

@[simp] theorem State.standing_noticeSpan (x : Span) : (s.noticeSpan x).standing = s.standing := State.standing_noticeBad _ _ _ _ _

theorem State.standing_poke (p : Spot) (xs : List Marked) : (s.poke p xs).standing = s.standing := by
  cases p with
  | ts a => rfl
  | stack a => rfl
  | ext a => rfl
  | acc a =>
    have hpoison : ∀ (l : List Nat) (f : Nat → Nat) (u : State), (forEach l u (fun i u => u.poisonAcc (f i))).standing = u.standing :=
      fun l f u => State.standing_forEach u _ (fun i w => State.standing_poisonAcc w (f i)) l
    unfold State.poke
    dsimp only
    split_ifs
    · rw [hpoison, hpoison]
      rfl
    · rw [hpoison]
      rfl

@[simp] theorem State.standing_writeTs (x : Nat) (xs : List Marked) : (s.writeTs k x xs).standing = s.standing := by
  have hone : ∀ (o : Option Spot) (m : Nat) (ys : List Marked),
      (match o with | some p => if m = 0 then s else s.poke p ys | none => s).standing = s.standing := by
    intro o m ys
    cases o with
    | none => rfl
    | some p =>
      dsimp only
      split_ifs
      · rfl
      · exact State.standing_poke s p ys
  unfold State.writeTs
  dsimp only
  split
  · rw [State.standing_poke]
    exact hone _ _ _
  · exact hone _ _ _

end Updates

end Sys2Proof.Machine
end

section
/-! SUPPORT. The work of the units of the cores, cycle by cycle, leaves the fault status of the cores and the set of contexts. -/
namespace Sys2Proof.Machine

/-! The arrays (03). -/

section Arrays
variable (s : State) (n h t : Nat)

@[simp] theorem State.standing_wound (cause c : Nat) (p : Pass) : (s.wound n h cause c p).standing = s.standing := by
  unfold State.wound
  dsimp only
  split_ifs <;> rfl

@[simp] theorem State.standing_flagRows (c a base : Nat) (p : Pass) (j : Nat) (b : Bool) :
    (s.flagRows c a base p j b).standing = s.standing :=
  State.standing_forEach s _ (fun _ u => State.standing_forEach u _ (fun _ w => State.standing_setValid w _ _ _ _ _) _) _

@[simp] theorem State.standing_countConds (k : Conds) (m : Nat) : (s.countConds k m).standing = s.standing := by
  have hone : ∀ (b : Bool) (u : State) (i : Nat), (if b = true then u.count 0x2901 i else u).standing = u.standing := by
    intro b u i
    cases b
    · rfl
    · exact State.standing_count u 0x2901 i 0 none (by omega)
  unfold State.countConds
  dsimp only
  simp only [hone]

@[simp] theorem State.standing_runVector (x : Ctx) (f : Flight) (j c2 : Nat) (v : Act) (r : AccRead) :
    (s.runVector n h x f j c2 v r).1.standing = s.standing := by
  unfold State.runVector
  dsimp only
  split
  · simp
  · split_ifs
    · simp
    · rw [State.standing_flagRows, State.standing_forEach _ _ (fun _ w => State.standing_putEntries w _ _), State.standing_countConds]
    · rw [State.standing_forEach _ _ (fun _ w => State.standing_putEntries w _ _), State.standing_countConds]

@[simp] theorem State.standing_feedRead : (s.feedRead n h).standing = s.standing := by
  unfold State.feedRead
  split
  · rfl
  · dsimp only
    split
    · split_ifs <;> simp
    · split_ifs <;> simp

@[simp] theorem State.standing_feedLost : (s.feedLost n h).standing = s.standing := by
  unfold State.feedLost
  dsimp only
  split_ifs <;> simp

@[simp] theorem State.standing_loadRow : (s.loadRow n h t).standing = s.standing := by
  unfold State.loadRow
  split
  · rfl
  · dsimp only
    split_ifs <;> simp

theorem State.standing_a2Flight (f : Flight) : (s.a2Flight n h t f).1.standing = s.standing := by
  unfold State.a2Flight
  split
  · split_ifs <;> simp
  · rfl

theorem State.standing_a1Flight (f : Flight) : (s.a1Flight n h t f).1.standing = s.standing := by
  unfold State.a1Flight
  split
  · dsimp only
    split_ifs <;> simp [State.standing_forEach]
  · rfl

@[simp] theorem State.standing_accHalf : (s.accHalf n h t).standing = s.standing := by
  unfold State.accHalf State.eachFlight
  dsimp only
  split_ifs
  · rfl
  · rw [State.standing_setHalf]
    refine State.standing_foldl _ Prod.fst (fun x f => ?_) _ (s, [])
    exact (State.standing_a1Flight _ n h t _).trans (State.standing_a2Flight _ n h t f)

end Arrays

/-! The vector units, the top-k units and the step tables (05, 08, 09). -/

section Vectors
variable (s : State) (c t : Nat)

theorem State.here_of_vecRuns {d : Desc} {x : Ctx} (h : s.vecRuns c = some (d, x)) : (s.ctx? d.ctx).isSome = true := by
  unfold State.vecRuns at h
  split at h
  case h_1 e _ _ =>
    obtain ⟨y, hy, he⟩ := Option.map_eq_some_iff.1 h
    cases he
    rw [hy, Option.isSome_some]
  case h_2 => cases h

theorem State.standing_computeStep (d : Desc) (x : Ctx) (w : Nat) (h : (s.ctx? d.ctx).isSome = true) :
    (s.computeStep c d x w).standing = s.standing := State.standing_setCtx s d.ctx _ h

@[simp] theorem State.standing_vecRead : (s.vecRead c t).standing = s.standing := by
  unfold State.vecRead
  split
  case h_1 d x hruns =>
    have hnotes : ∀ xs : List Span, (forEach xs s (fun x s => s.noticeSpan x)).standing = s.standing := fun xs =>
      State.standing_forEach s _ (fun x u => State.standing_noticeSpan u x) xs
    dsimp only
    split_ifs
    · exact hnotes _
    · refine (State.standing_computeStep _ _ _ _ _ ?_).trans (hnotes _)
      exact (State.isSome_of_standing (hnotes _) d.ctx).trans (State.here_of_vecRuns s c hruns)
  case h_2 => rfl

@[simp] theorem State.standing_vecWrite : (s.vecWrite c t).standing = s.standing := by
  unfold State.vecWrite
  split
  case h_1 d x o os hruns _ =>
    have hhere : ∀ v, ((s.setVec c v).ctx? d.ctx).isSome = true := fun _ => State.here_of_vecRuns s c hruns
    dsimp only
    split_ifs <;> simp [State.standing_forEach, State.standing_setCtx, hhere]
  case h_2 => rfl

@[simp] theorem State.standing_vecLost (w f : Bool) : (s.vecLost c w f).standing = s.standing := by
  unfold State.vecLost
  dsimp only
  split_ifs <;> simp

@[simp] theorem State.standing_topkRead : (s.topkRead c t).standing = s.standing := by
  unfold State.topkRead
  split
  · dsimp only
    split_ifs <;> simp [State.standing_forEach]
  · rfl

@[simp] theorem State.standing_topkWrite : (s.topkWrite c t).standing = s.standing := by
  unfold State.topkWrite
  split
  · simp
  · rfl

@[simp] theorem State.standing_tableWrite : (s.tableWrite c t).standing = s.standing := by
  unfold State.tableWrite
  split
  · exact State.standing_writeTs _ _ _ _
  · rfl

@[simp] theorem State.standing_tableLost : (s.tableLost c t).standing = s.standing := by
  unfold State.tableLost
  split <;> rfl

end Vectors

/-! The shunters (05 R140 to R143). -/

section Shunters
variable (s : State) (c n t : Nat) (d : Desc)

@[simp] theorem State.standing_takeSlots (who a m : Nat) : (s.takeSlots c who t a m).2.standing = s.standing := by
  unfold State.takeSlots
  refine State.standing_foldl _ Prod.snd (fun r w => ?_) _ (t, s)
  exact State.standing_setReg _ _ _ (kCore_below _ (by decide))

theorem State.standing_readExt (ext : Store) (r len a m : Nat) : (s.readExt ext r len a m).2.standing = s.standing := by
  have hfound : ∀ (u : State) (b v v' : Nat), (((u.setReg (key 0x2500 0x36) v).setReg (key (0x2B00 + b) 0x0C) v').count 0x2902
      0x0D).standing = u.standing := by
    intro u b v v'
    rw [State.standing_count _ _ _ _ _ (by omega), State.standing_setReg _ _ _ (kCore_below _ (by unfold key; omega)),
      State.standing_setReg _ _ _ (kCore_below _ (by decide))]
  unfold State.readExt
  split
  · simp
  · dsimp only
    split <;> split <;> simp [hfound]

@[simp] theorem State.standing_readPart (sent : List (Nat × (Nat × List Marked))) (k ix o m : Nat) :
    (s.readPart d sent k ix o m).2.standing = s.standing := by
  unfold State.readPart
  dsimp only
  split
  · exact State.standing_forEach s _ (fun x u => State.standing_noticeSpan u x) _
  · dsimp only
    split <;> simp
  · simp
  · exact State.standing_readExt _ _ _ _ _ _
  · rfl

@[simp] theorem State.standing_takeIndex : (s.takeIndex c n t d).standing = s.standing := by
  unfold State.takeIndex
  simp [State.standing_forEach]

@[simp] theorem State.standing_takePart : (s.takePart c n t d).standing = s.standing := by
  unfold State.takePart
  dsimp only
  split_ifs <;> simp

@[simp] theorem State.standing_sendRecords (xs : List Marked) : (s.sendRecords c t d xs).standing = s.standing := by
  refine State.standing_forEach s _ (fun bs u => ?_) _
  unfold State.sendRecord
  dsimp only
  split_ifs <;> rfl

@[simp] theorem State.standing_writePart (a : Nat) (xs : List Marked) : (s.writePart c n t d a xs).standing = s.standing := by
  unfold State.writePart
  split
  · simp
  · split
    · exact State.standing_poke _ _ _
    · rfl
  · rfl
  · split_ifs
    · simp
    · rfl
  · split <;> rfl
  · dsimp only
    split_ifs <;> simp

@[simp] theorem State.standing_carryOn : s.carryOn.standing = s.standing := by
  unfold State.carryOn
  split_ifs <;> rfl

@[simp] theorem State.standing_shunterLeaves (last : Nat) : (s.shunterLeaves c n last d).standing = s.standing := by
  unfold State.shunterLeaves State.beginNext
  dsimp only
  split
  · split_ifs <;> simp
  · rfl

@[simp] theorem State.standing_putPart : (s.putPart c n t d).standing = s.standing := by
  unfold State.putPart
  dsimp only
  split
  · simp
  · rfl

@[simp] theorem State.standing_shuntRead (ok : Requester → Bool) : (s.shuntRead c n t ok).standing = s.standing := by
  unfold State.shuntRead
  split
  · rfl
  · dsimp only
    split_ifs <;> simp

@[simp] theorem State.standing_shuntWrite (ok : Requester → Bool) : (s.shuntWrite c n t ok).standing = s.standing := by
  unfold State.shuntWrite
  split
  · rfl
  · dsimp only
    split_ifs <;> simp

@[simp] theorem State.standing_shuntShows : (s.shuntShows c n t).standing = s.standing := by
  unfold State.shuntShows
  dsimp only
  split
  · rfl
  · exact State.standing_forEach _ _ (fun w u => State.standing_poke u _ _) _

@[simp] theorem State.standing_arriveRemote (ok : Requester → Bool) : (s.arriveRemote t ok).standing = s.standing := by
  unfold State.arriveRemote
  exact State.standing_forEach s _ (fun a u => State.standing_writeTs { u with arrivals := u.arrivals.erase a } _ _ _) _

end Shunters

/-! Cycles (Cycles.lean) and removed frames (10 R287). -/

section Cycles
variable (s : State) (t : Nat) (ok : Requester → Bool)

@[simp] theorem State.standing_stagingTurn (c : Nat) (b : Bool) : (s.stagingTurn c t b).standing = s.standing := by
  unfold State.stagingTurn
  split <;> simp

@[simp] theorem State.standing_readers : (s.readers t ok).standing = s.standing := by
  unfold State.readers
  dsimp only
  rw [State.standing_forEach _ _ (fun a u => by simp), State.standing_forEach _ _ (fun c u => by split_ifs <;> simp),
    State.standing_forEach _ _ (fun a u => by split_ifs <;> simp)]

@[simp] theorem State.standing_writers : (s.writers t ok).standing = s.standing := by
  unfold State.writers
  dsimp only
  rw [State.standing_forEach _ _ (fun a u => by simp), State.standing_arriveRemote,
    State.standing_forEach _ _ (fun c u => by split_ifs <;> simp), State.standing_forEach _ _ (fun a u => by simp)]

@[simp] theorem State.standing_deny (w : Requester) : (s.deny t w).standing = s.standing := by
  cases w <;> simp [State.deny]

@[simp] theorem State.standing_delayUnits (no : List Ask) (fed : List Nat) : (s.delayUnits no fed).standing = s.standing := by
  unfold State.delayUnits
  dsimp only
  rw [State.standing_forEach _ _ (fun a u => by split_ifs <;> simp), State.standing_forEach _ _ (fun c u => by split_ifs <;> simp)]

@[simp] theorem State.standing_stallAll : (s.stallAll t).standing = s.standing :=
  State.standing_forEach s _ (fun a u => by
    split
    · split_ifs <;> simp
    · rfl) _

@[simp] theorem State.standing_countWithheld (g : Grants) : (s.countWithheld g).standing = s.standing := by
  unfold State.countWithheld
  rw [State.standing_countMany _ _ _ _ _ (by omega), State.standing_countMany _ _ _ _ _ (by omega),
    State.standing_countMany _ _ _ _ _ (by omega)]

theorem State.standing_cycle : (s.cycle t).standing = s.standing := by
  have hdeny : ∀ (no : List Ask) (u : State), (forEach no u (fun a u => (u.noteDenial a.who).deny t a.who)).standing = u.standing :=
    fun no u => State.standing_forEach u _ (fun a u => (State.standing_deny _ t a.who).trans (State.standing_noteDenial u a.who)) no
  have hrefused : ∀ (u : State) (l : List (Requester × Nat)), ({ u with refusals := l } : State).standing = u.standing := fun _ _ => rfl
  have hunits : ∀ (ps : List Nat) (ok : Requester → Bool), ((((s.stallAll t).take t ps).readers t ok).writers t ok).standing = s.standing := by
    simp
  unfold State.cycle
  dsimp only
  rw [State.standing_countWithheld, State.standing_delayUnits, hdeny]
  exact (hrefused _ _).trans (hunits _ _)

theorem State.standing_removeFrame : (s.removeFrame t).standing = s.standing := by
  have hstop : ∀ (f : Nat → Bool) (u : State), (u.stopCores f t).standing = u.standing := by
    intro f u
    unfold State.stopCores
    dsimp only
    rw [State.standing_forEach _ _ (fun g w => by split_ifs <;> rfl)]
    split_ifs
    · rfl
    · exact State.standing_mapCtxs u _ (fun e => by split_ifs <;> rfl)
  unfold State.removeFrame
  show (if _ then State.stopCount _ else _).standing = _
  split_ifs
  · exact (State.standing_stopCount _).trans (hstop _ s)
  · exact hstop _ s

/-- The units' work up to a cycle changes neither. -/
theorem State.standing_catchTo (stop : Nat) : (s.catchTo stop).standing = s.standing := by
  have hcycles : ∀ (m : Nat) (u : State), (State.cycles stop m u).standing = u.standing := by
    intro m
    induction m with
    | zero => exact fun _ => rfl
    | succ m ih =>
      intro u
      unfold State.cycles
      dsimp only
      split
      · rw [ih, State.standing_removeFrame]
      · split_ifs
        · rw [ih, State.standing_cycle]
        · rfl
  exact hcycles _ s

end Cycles

end Sys2Proof.Machine
end

section
/-! SUPPORT. Contexts that are torn down, leave or are evicted (Jobs.lean): contexts and waits in the hub can only go, and the fault
status of the cores stays (05 R159, 09 R266 to R272). -/
namespace Sys2Proof.Machine

/-- From `s` to `t` contexts and waits in the hub can only go, and the fault status of the cores is the same. -/
structure Withers (s t : State) : Prop where
  status : ∀ c, t.reg (kCore c 3) = s.reg (kCore c 3)
  gone : ∀ k, s.ctx? k = none → t.ctx? k = none
  waits : ∀ k ∈ t.hubWaits, k ∈ s.hubWaits

section
variable {s t u : State}

theorem Withers.refl (s : State) : Withers s s := ⟨fun _ => rfl, fun _ h => h, fun _ h => h⟩

theorem Withers.trans (a : Withers s t) (b : Withers t u) : Withers s u :=
  ⟨fun c => (b.status c).trans (a.status c), fun k h => b.gone k (a.gone k h), fun k h => a.waits k (b.waits k h)⟩

/-- Where neither the fault status nor the contexts that there are nor the hub's waits change. -/
theorem Withers.of_standing (h : t.standing = s.standing) (hw : t.hubWaits = s.hubWaits) : Withers s t where
  status := State.status_of_standing h
  gone k hk := by
    have := State.isSome_of_standing h k
    rw [hk, Option.isSome_none, Option.isSome_eq_false_iff, Option.isNone_iff_eq_none] at this
    exact this
  waits k hk := hw ▸ hk

theorem Withers.forEach {β : Type} {f : β → State → State} {xs : List β} (hf : ∀ x u, Withers u (f x u)) (s : State) :
    Withers s (forEach xs s f) :=
  forEach_keeps (fun u => Withers s u) f (fun x u hu => hu.trans (hf x u)) xs s (Withers.refl s)

theorem Withers.of_eq (hr : t.regs = s.regs) (hc : t.ctxs = s.ctxs) (hw : t.hubWaits = s.hubWaits) : Withers s t :=
  .of_standing (State.standing_of_eq hr hc) hw

theorem Withers.setReg {k v : Nat} (h : Withers s t) (hk : ∀ c, kCore c 3 ≠ k) : Withers s (t.setReg k v) :=
  h.trans (.of_standing (State.standing_setReg t k v hk) rfl)

theorem Withers.setJobReg {j i v : Nat} (h : Withers s t) : Withers s (t.setReg (kJob j i) v) :=
  h.setReg (kCore_below _ (by unfold kJob key; omega))

theorem Withers.setFn {f : Nat} (h : Withers s t) (hf : f < 256) (x : FnState) : Withers s (t.setFn f x) :=
  h.setReg (fun c => by unfold kCore key; omega)

theorem Withers.setJob {j : Nat} {x : JobUnit} (h : Withers s t) : Withers s (t.setJob j x) := h.trans (.of_eq rfl rfl rfl)
theorem Withers.closesC {c n : Nat} {a : Effect} (h : Withers s t) : Withers s (t.closesC c n a) := h.trans (.of_eq rfl rfl rfl)
theorem Withers.opensC {c n : Nat} {a : Effect} (h : Withers s t) : Withers s (t.opensC c n a) := h.trans (.of_eq rfl rfl rfl)

end

section
variable (s : State) (k n h c : Nat)

theorem State.withers_onCtx (f : Ctx → Ctx) : Withers s (s.onCtx k f) := by
  refine .of_standing (State.standing_onCtx s k f) ?_
  unfold State.onCtx
  split <;> rfl

theorem State.withers_catchTo : Withers s (s.catchTo n) :=
  .of_standing (State.standing_catchTo s n) (State.eq_of_still State.hubWaits (fun _ => rfl) (State.still_catchTo s n))

/-- A stir neither makes nor removes a context. -/
theorem State.standing_stir : (s.stir c).standing = s.standing :=
  State.stir_leaves State.standing (fun u j x y hy => State.standing_setCtx u j x (by rw [hy]; rfl)) s c
    (fun u j v => State.standing_setReg u _ _ (kCore_below _ (by unfold kJob key; omega))) (fun _ _ _ => rfl)

theorem State.withers_stir : Withers s (s.stir c) := .of_standing (State.standing_stir s c) (State.stir_hub s c).2.1

/-! The hub and the links. -/

theorem State.withers_raiseHub (p a : Nat) (st : Option Nat) : Withers s (s.raiseHub p n a st c) := by
  refine .of_standing ?_ (State.addHub_keeps s p n a st State.hubWaits (fun _ => rfl) (fun _ _ => rfl))
  show (s.addHub p n a st).standing = s.standing
  unfold State.addHub
  dsimp only
  split_ifs
  · exact State.standing_count _ _ _ _ _ (by omega)
  · rfl

/-- Withdrawing a wait takes its context out of the hub's waits. -/
theorem State.withdraw_spares : Withers s (s.withdraw k) ∧ k ∉ (s.withdraw k).hubWaits := by
  have hraise : ∀ (o : HubOp) (u : State), Withers u
      (if waitKeep (u.ctx k).word then u else u.raiseHub o.part o.sem (waitVal (u.ctx k).word) none u.cclk) := by
    intro o u
    split_ifs
    · exact Withers.refl u
    · exact State.withers_raiseHub u _ _ _ _ _
  have hafter := fun (s : State) os => Withers.forEach hraise (xs := os) s
  have hfirst : ∀ ops, Withers s { s with hubWaits := s.hubWaits.filter (fun w => w != k), hubOps := ops } := fun ops =>
    ⟨fun _ => rfl, fun _ h => h, fun _ h => List.mem_of_mem_filter h⟩
  unfold State.withdraw
  refine ⟨(hfirst _).trans (hafter _ _), fun hk => ?_⟩
  have := (hafter _ _).waits k hk
  simp at this

theorem State.withers_returnHeld (x : Ctx) : Withers s (s.returnHeld k x c) := by
  unfold State.returnHeld
  refine Withers.forEach (fun p u => ?_) s
  exact State.withers_raiseHub u p.1 c _ p.2 none

theorem State.withers_returnCredits (x : Ctx) : Withers s (s.returnCredits x) := by
  unfold State.returnCredits
  refine Withers.forEach (fun p u => ?_) s
  exact .of_eq rfl rfl rfl

/-! The work of a context. -/

theorem State.withers_suppress (f : Flight) : Withers s (s.suppress n c f) := by
  unfold State.suppress
  split
  · exact Withers.refl s
  · refine Withers.forEach (fun v u => ?_) s
    exact .of_standing (State.standing_flagRows ..) (State.eq_of_still State.hubWaits (fun _ => rfl) (State.still_flagRows ..))

theorem State.withers_drainHalf (inc : Nat) : Withers s (s.drainHalf n h k inc c) := by
  have hsuppress := fun fs (u : State) => Withers.forEach (xs := fs) (fun f w => State.withers_suppress w n c f) u
  unfold State.drainHalf
  exact (Withers.of_standing (State.standing_addArr ..) rfl).trans ((hsuppress _ _).trans (.of_eq rfl rfl rfl))

theorem State.withers_drainHalves (x : Ctx) : Withers s (forEach [2 * x.core, 2 * x.core + 1] s (fun n s =>
    forEach [0, 1] s (fun h s => if (s.half n h).serves k x.inc then s.drainHalf n h k x.inc c else s))) := by
  refine Withers.forEach (fun n u => Withers.forEach (fun h w => ?_) u) s
  split_ifs
  · exact State.withers_drainHalf w k n h c x.inc
  · exact Withers.refl w

theorem State.withers_discardWork (core inc : Nat) : Withers s (s.discardWork core k inc c) := by
  have hshunters := fun (u : State) => Withers.forEach (xs := upTo 8) (f := fun n (s : State) =>
    s.setShunter core n ((s.shunter core n).drop (fun d => d.ctx == k && d.inc == inc))) (fun _ _ => .of_eq rfl rfl rfl) u
  have hvec : Withers s (s.setVec core ((s.vec core).drop (fun d => d.ctx == k && d.inc == inc) c)) := .of_eq rfl rfl rfl
  unfold State.discardWork
  dsimp only
  refine (hvec.trans (hshunters _)).trans ?_
  generalize forEach (upTo 8) _ _ = u
  exact .of_eq rfl rfl rfl

theorem State.ctx?_dropCtx_same : (s.dropCtx k).ctx? k = none := by
  unfold State.ctx? State.dropCtx terase
  induction s.ctxs with
  | nil => rfl
  | cons e l ih =>
    rw [List.filter_cons]
    split_ifs with he
    · rw [tfind, if_neg (fun h => (bne_iff_ne.1 he) h.symm)]
      exact ih
    · exact ih

theorem State.withers_dropCtx : Withers s (s.dropCtx k) := by
  refine ⟨fun _ => rfl, fun j hj => ?_, fun _ h => h⟩
  have hfind : ∀ l : List (Nat × Ctx), tfind l j = none → tfind (terase l k) j = none := by
    intro l
    induction l with
    | nil => exact fun h => h
    | cons e l ih =>
      intro hl
      unfold terase
      rw [tfind] at hl
      split_ifs at hl with he
      rw [List.filter_cons]
      split_ifs
      · rw [tfind, if_neg he]
        exact ih hl
      · exact ih hl
  exact hfind s.ctxs hj

/-- A context that is removed is gone, and no wait of it is left in the hub. -/
theorem State.removeCtx_spares : Withers s (s.removeCtx k c) ∧ (s.removeCtx k c).ctx? k = none
    ∧ ((s.ctx? k).isSome = true → k ∉ (s.removeCtx k c).hubWaits) := by
  unfold State.removeCtx
  split
  case h_1 hnone =>
    rw [hnone]
    exact ⟨Withers.refl s, rfl, fun h => (by cases h)⟩
  case h_2 x hx =>
    dsimp only
    generalize hu : forEach [2 * x.core, 2 * x.core + 1] ((s.catchAll.returnCredits x).returnHeld k x c) _ = u
    have hdrained : Withers s u := by
      rw [← hu]
      exact (((State.withers_catchTo s _).trans (State.withers_returnCredits _ x)).trans (State.withers_returnHeld _ k c x)).trans
        (State.withers_drainHalves _ k c x)
    obtain ⟨hwithdrawn, hnone⟩ := State.withdraw_spares u k
    have hgone := (State.withers_discardWork (u.withdraw k) k c x.core x.inc).trans (State.withers_dropCtx _ k)
    have hall := (hdrained.trans hwithdrawn).trans hgone
    have hdropped := State.ctx?_dropCtx_same ((u.withdraw k).discardWork x.core k x.inc c) k
    have hwaits := fun h => hnone (hgone.waits k h)
    generalize State.dropCtx _ k = v at hall hdropped hwaits ⊢
    exact ⟨hall.closesC, hdropped, fun _ => hwaits⟩

/-! Jobs that lose their contexts. -/

theorem State.withers_loseSeqs : Withers s (s.loseSeqs k) := by
  unfold State.loseSeqs
  exact (Withers.refl s).setJob.setJobReg.setJobReg

theorem State.withers_releaseJob : Withers s (s.releaseJob k) := by
  have hend : ∀ u : State, Withers u (u.endUse k) := by
    intro u
    unfold State.endUse
    dsimp only
    split_ifs <;> exact .of_eq rfl rfl rfl
  have hfreed : ∀ u : State, Withers u ({ (u.unallot (ownJob k)).unallot (ownHalo k) with
      regions := terase ((u.unallot (ownJob k)).unallot (ownHalo k)).regions k } : State) := fun u => .of_eq rfl rfl rfl
  unfold State.releaseJob
  exact (((State.withers_loseSeqs s k).trans (hend _)).trans (hfreed _)).setJobReg.setJob

theorem State.withers_jobGone (hk : k < 64) : Withers s (s.jobGone k) := by
  unfold State.jobGone
  dsimp only
  split_ifs
  · exact (State.withers_releaseJob s k).setFn (by unfold fJob; omega) _
  · exact State.withers_releaseJob s k
  · exact Withers.refl s

theorem ctxJob_lt (k : Nat) : ctxJob k < 64 := Nat.mod_lt _ (by omega)

theorem State.withers_deliverFlight (x : Ctx) : Withers s (s.deliverFlight k x) := by
  have hsend : ∀ (u : State) (core t : Nat) (d : Desc) (xs : List Marked), Withers u (u.sendRecords core t d xs) := by
    intro u core t d xs
    unfold State.sendRecords
    refine Withers.forEach (fun bs w => ?_) u
    unfold State.sendRecord
    dsimp only
    split_ifs <;> exact .of_eq rfl rfl rfl
  unfold State.deliverFlight
  exact (State.withers_catchTo s _).trans
    (Withers.forEach (fun n u => Withers.forEach (fun p w => hsend w _ _ _ _) u) _)

theorem State.withers_leaveOne : Withers s (s.leaveOne k c) := by
  unfold State.leaveOne
  split
  · exact Withers.refl s
  · split_ifs
    · exact (State.withers_deliverFlight s k _).trans (State.removeCtx_spares _ k c).1
    · exact Withers.refl s

theorem State.withers_leaveAll : Withers s (s.leaveAll c) := by
  have hmap : ∀ (ks : List Nat) (u : State),
      forEach (ks.map ctxJob) u (fun j s => s.jobGone j) = forEach ks u (fun k s => s.jobGone (ctxJob k)) := fun ks u => List.foldl_map
  unfold State.leaveAll
  dsimp only
  rw [hmap]
  exact (Withers.forEach (fun j u => State.withers_leaveOne u j c) s).trans
    (Withers.forEach (fun j u => State.withers_jobGone u _ (ctxJob_lt j)) _)

end

end Sys2Proof.Machine
end

section
/-! SUPPORT. Teardown and core faults (05 R159, 09 R269, R270): the context that faults is gone, and its core shows the fault. -/
namespace Sys2Proof.Machine

/-- A context that there was may be written. -/
theorem Withers.setCtx {s t : State} {k : Nat} (h : Withers s t) (hk : (s.ctx? k).isSome = true) (x : Ctx) : Withers s (t.setCtx k x) where
  status := h.status
  gone j hj := by
    have hne : j ≠ k := by
      rintro rfl
      rw [hj] at hk
      cases hk
    rw [State.ctx?_setCtx_other _ _ hne]
    exact h.gone j hj
  waits := h.waits

section
variable (s : State) (k c : Nat)

theorem State.withers_cancelWait : Withers s (s.cancelWait k) := by
  unfold State.cancelWait
  split
  case h_1 => exact Withers.refl s
  case h_2 x hx =>
    have hhere : (s.ctx? k).isSome = true := by rw [hx, Option.isSome_some]
    split
    · exact (State.withdraw_spares s k).1.setCtx hhere _
    · exact (Withers.refl s).setCtx hhere _
    · exact Withers.refl s

theorem State.withers_giveUp : Withers s (s.giveUp k c) := by
  unfold State.giveUp
  split
  case h_1 => exact Withers.refl s
  case h_2 x hx =>
    have hhere : (s.ctx? k).isSome = true := by rw [hx, Option.isSome_some]
    have hkept : Withers s (s.setKept x.core (s.keptFor x.core + 1)) := .of_eq rfl rfl rfl
    dsimp only
    split_ifs
    · exact (hkept.setCtx hhere _).opensC
    · exact (hkept.setCtx hhere _).opensC
    · exact ((Withers.refl s).setCtx hhere _).opensC
    · exact ((Withers.refl s).setCtx hhere _).opensC

theorem State.withers_beginEvict : Withers s (s.beginEvict k c) := by
  unfold State.beginEvict
  split
  · exact Withers.refl s
  · split_ifs
    · exact Withers.refl s
    · exact ((State.withers_cancelWait s k).trans (State.withers_giveUp _ k c)).trans (State.withers_onCtx _ k _)

theorem State.withers_tidy : Withers s (s.tidy c) := by
  have hevict : ∀ u : State, Withers u (u.evictDeferred c) := by
    intro u
    unfold State.evictDeferred
    refine Withers.forEach (fun j w => ?_) u
    split_ifs
    · exact State.withers_beginEvict w j c
    · exact Withers.refl w
  exact ((State.withers_leaveAll s c).trans (hevict _)).trans (State.withers_stir _ c)

theorem State.withers_orderLeave (j : Nat) (hj : j < 64) : Withers s (s.orderLeave j c) := by
  unfold State.orderLeave
  dsimp only
  refine Withers.trans ?_ (State.withers_stir _ c)
  refine Withers.trans ?_ (State.withers_jobGone _ j hj)
  refine Withers.trans ?_ (State.withers_leaveAll _ c)
  exact (Withers.refl s).setJob.trans (Withers.forEach (fun i u => State.withers_onCtx u i _) _)

/-! Teardown. -/

/-- An array's fault status is written. -/
theorem State.setArr_spares (i n v : Nat) : (s.setReg (kArr i n) v).standing = s.standing ∧ (s.setReg (kArr i n) v).hubWaits = s.hubWaits :=
  ⟨State.standing_setReg s _ v (kCore_below _ (by unfold kArr key; omega)), rfl⟩

theorem State.recordArrayFault_spares (n h cause tag : Nat) : (s.recordArrayFault n h cause tag).standing = s.standing
    ∧ (s.recordArrayFault n h cause tag).hubWaits = s.hubWaits := by
  have hcount : ∀ (u : State) d, u.standing = s.standing ∧ u.hubWaits = s.hubWaits →
      (u.count 0x2901 1 d).standing = s.standing ∧ (u.count 0x2901 1 d).hubWaits = s.hubWaits := fun u d hu =>
    ⟨(State.standing_count u 0x2901 1 d none (by omega)).trans hu.1,
      (State.count_keeps u 0x2901 1 d none State.hubWaits (fun _ => rfl)).trans hu.2⟩
  have hset : ∀ (u : State) i v, u.standing = s.standing ∧ u.hubWaits = s.hubWaits →
      (u.setReg (kArr i n) v).standing = s.standing ∧ (u.setReg (kArr i n) v).hubWaits = s.hubWaits := fun u i v hu =>
    ⟨(State.setArr_spares u i n v).1.trans hu.1, (State.setArr_spares u i n v).2.trans hu.2⟩
  unfold State.recordArrayFault
  dsimp only
  refine hcount _ _ ?_
  split_ifs
  · exact ⟨rfl, rfl⟩
  · exact hset _ _ _ (hset _ _ _ (hset _ _ _ ⟨rfl, rfl⟩))
  · exact hset _ _ _ (hset _ _ _ (hset _ _ _ ⟨rfl, rfl⟩))

theorem State.haunt_spares (x : Ctx) : (s.haunt k x c).standing = s.standing ∧ (s.haunt k x c).hubWaits = s.hubWaits := by
  unfold State.haunt
  dsimp only
  split
  · split_ifs
    · exact ⟨rfl, rfl⟩
    · exact ⟨rfl, rfl⟩
  · exact ⟨rfl, rfl⟩

theorem State.withers_enterFaulted (f : Nat) (hf : f < 256) : Withers s (s.enterFaulted f) := by
  have hreports := State.report_reports (s.setFn f .faulted) { type := 3, what := f }
  refine ((Withers.refl s).setFn hf .faulted).trans ⟨fun c => ?_, fun k h => ?_, fun k h => ?_⟩
  · exact hreports.regs _ (by unfold kCore key; omega) (by unfold kCore key; omega)
  · exact (hreports.keeps (fun u => u.ctx? k) (fun _ => rfl)).trans h
  · exact hreports.keeps State.hubWaits (fun _ => rfl) ▸ h

theorem State.arrayFaults_spare (x : Ctx) (cause : Nat) :
    let t := forEach [2 * x.core, 2 * x.core + 1] s (fun n s => forEach [0, 1] s (fun h s =>
      match (s.half n h).passes.find? (fun p => p.ctx == k && p.inc == x.inc) with
      | some p => s.recordArrayFault n h cause p.tag
      | none => s))
    t.standing = s.standing ∧ t.hubWaits = s.hubWaits := by
  have hone : ∀ (o : Option Pass) (n h : Nat) (u : State),
      (match o with | some p => u.recordArrayFault n h cause p.tag | none => u).standing = u.standing
      ∧ (match o with | some p => u.recordArrayFault n h cause p.tag | none => u).hubWaits = u.hubWaits := by
    intro o n h u
    cases o with
    | none => exact ⟨rfl, rfl⟩
    | some p => exact State.recordArrayFault_spares u n h cause p.tag
  exact ⟨State.standing_forEach s _ (fun n u => State.standing_forEach u _ (fun h w => (hone _ n h w).1) _) _,
    forEach_same State.hubWaits _ (fun n u => forEach_same State.hubWaits _ (fun h w => (hone _ n h w).2) _ u) _ s⟩

/-- A context that is torn down is gone, no wait of it is left in the hub, and the fault status stays. -/
theorem State.tearDown_spares (h : (s.ctx? k).isSome = true) : (∀ i, (s.tearDown k c).reg (kCore i 3) = s.reg (kCore i 3))
    ∧ (s.tearDown k c).ctx? k = none ∧ k ∉ (s.tearDown k c).hubWaits := by
  obtain ⟨x, hx⟩ := Option.isSome_iff_exists.1 h
  unfold State.tearDown
  rw [hx]
  dsimp only
  have hfaults := (State.arrayFaults_spare s.catchAll k x 7).1.trans (State.standing_catchTo s _)
  generalize forEach [2 * x.core, 2 * x.core + 1] s.catchAll _ = u at hfaults
  have hhaunt := (State.haunt_spares u k c x).1.trans hfaults
  generalize u.haunt k x c = v at hhaunt
  obtain ⟨hremoved, hnone, hwaits⟩ := State.removeCtx_spares v k c
  have hunwaited := hwaits ((State.isSome_of_standing hhaunt k).trans h)
  have hstatus := fun i => (hremoved.status i).trans (State.status_of_standing hhaunt i)
  generalize v.removeCtx k c = v at hnone hunwaited hstatus
  have hlost : Withers v ((v.addReg (kJob (ctxJob k) 0x0D) 1).loseSeqs (ctxJob k)) :=
    (Withers.refl v).setJobReg.trans (State.withers_loseSeqs _ (ctxJob k))
  generalize State.loseSeqs _ _ = w at hlost
  have hleft : Withers w (if w.running (fJob (ctxJob k)) = true then
      if w.bit' (kJob (ctxJob k) 1) 9 = true then (w.enterFaulted (fJob (ctxJob k))).orderLeave (ctxJob k) c
      else w.setJob (ctxJob k) { w.job (ctxJob k) with restarts := addKey (w.job (ctxJob k)).restarts (ctxLane k) }
    else w) := by
    have hj := ctxJob_lt k
    split_ifs
    · exact (State.withers_enterFaulted w _ (by unfold fJob; omega)).trans (State.withers_orderLeave _ c _ hj)
    · exact (Withers.refl w).setJob
    · exact Withers.refl w
  generalize ite (w.running (fJob (ctxJob k)) = true) _ _ = w' at hleft
  have hend := ((hlost.trans hleft).trans (State.withers_jobGone w' _ (ctxJob_lt k))).trans (State.withers_tidy _ c)
  exact ⟨fun i => (hend.status i).trans (hstatus i), hend.gone k hnone, fun h => hunwaited (hend.waits k h)⟩

end

section
variable {s : State} {k : Nat} {x : Ctx}

/-- A field above one that is written. -/
theorem State.field_setField_above {r hi lo v a b : Nat} (h : lo ≤ hi) (hab : hi < b) (hw : a < widthOf r) :
    (s.setField r hi lo v).field' r a b = s.field' r a b := by
  unfold State.field' State.setField
  rw [State.reg_setReg_same, bits_mod _ _ _ _ hw, bits_withBits_other _ _ _ _ _ _ h (.inr hab)]

theorem State.field_setBit_above {r i a b : Nat} {v : Bool} (h : i < b) (hw : a < widthOf r) :
    (s.setBit r i v).field' r a b = s.field' r a b := State.field_setField_above (le_refl i) h hw

/-- The fault status of a core once a fault is recorded (Table 5-16). -/
theorem State.recordCoreFault_status (hc : x.core < 6) (cause tag entry : Nat) (hcause : cause < 16) :
    (s.recordCoreFault k x cause tag entry).bit' (kCore x.core 3) 8 = true
    ∧ (s.recordCoreFault k x cause tag entry).field' (kCore x.core 3) 23 20 = cause := by
  have hw : widthOf (kCore x.core 3) = 32 := widthOf_core hc (by omega)
  have hbelow : kCore x.core 3 < key 0x2900 0 := by unfold kCore key; omega
  have hlater : ∀ (u : State) v w d, ((((u.setReg (kCore x.core 4) v).setReg (kCore x.core 5) w).count 0x2901 0x0A d)).reg (kCore x.core 3) =
      u.reg (kCore x.core 3) := by
    intro u v w d
    rw [State.reg_count_below _ _ _ _ _ (by omega) hbelow, State.reg_setReg_other _ _ (kCore_ne (by decide)),
      State.reg_setReg_other _ _ (kCore_ne (by decide))]
  unfold State.recordCoreFault
  dsimp only
  refine ⟨(bit_of_reg (hlater _ _ _ _) 8).trans (State.bit_setBit_same _ _ _ (by omega)), (field_of_reg (hlater _ _ _ _) 23 20).trans ?_⟩
  rw [State.field_setBit_above (by omega) (by omega), State.field_setField_above (by omega) (by omega) (by omega),
    State.field_setField_above (by omega) (by omega) (by omega), State.field_setField_above (by omega) (by omega) (by omega),
    State.field_setField _ _ _ _ _ (by omega) (by omega), Nat.mod_eq_of_lt (by omega)]

theorem State.ctx?_recordCoreFault (cause tag entry : Nat) : (s.recordCoreFault k x cause tag entry).ctx? k = s.ctx? k := by
  have hset : ∀ (u : State) r v, (u.setReg r v).ctx? k = u.ctx? k := fun _ _ _ => rfl
  have hcount := fun (u : State) d => State.count_keeps u 0x2901 0x0A d none (fun w => w.ctx? k) (fun _ => rfl)
  unfold State.recordCoreFault State.setBit State.setField
  dsimp only at hcount ⊢
  rw [hcount]
  simp only [hset]

/-- A context that has faulted is gone, no wait of it is left in the hub, and its core shows the fault. -/
theorem State.coreFault_faults (h : s.ctx? k = some x) (hc : x.core < 6) (cause tag : Nat) (hcause : cause < 16) :
    CoreFaulted (s.coreFault k cause tag) k cause x ∧ k ∉ (s.coreFault k cause tag).hubWaits := by
  have hrecord := s.recordCoreFault_status (k := k) hc cause tag (s.ctx k).entry hcause
  have hthere : ((s.recordCoreFault k x cause tag (s.ctx k).entry).ctx? k).isSome = true := by
    rw [State.ctx?_recordCoreFault, h, Option.isSome_some]
  unfold State.coreFault State.coreFaultAt
  rw [h]
  dsimp only
  generalize s.recordCoreFault k x cause tag (s.ctx k).entry = u at hrecord hthere
  obtain ⟨hstatus, hnone, hwaits⟩ := State.tearDown_spares u k s.cclk hthere
  exact ⟨⟨(bit_of_reg (hstatus _) 8).trans hrecord.1, (field_of_reg (hstatus _) 23 20).trans hrecord.2, hnone⟩, hwaits⟩

end

end Sys2Proof.Machine
end

section
/-! Semaphore entries (05 R144, R145, R147, R149). -/
namespace Sys2Proof.Machine

section
variable {s w : State} {core slot k : Nat} {x : Ctx} {e : Fetched}

/-- A context that is gone is not halted again. -/
theorem State.rehalt_gone {t : State} (c : Nat) (h : t.ctx? k = none) : t.rehalt k c = t := by
  unfold State.rehalt
  rw [h]

/-- The core fault of a context stands in the state that the guard leaves. -/
theorem CoreFaulted.sealed {t : State} {cause : Nat} (h : CoreFaulted t k cause x) (w : State) : CoreFaulted (w.sealed t) k cause x := h

/-- A command that issues an entry with a descriptor fault tears its context down. -/
theorem Issues.faults {dt cause : Nat} {c : Instr} {mine : Fetched → Bool} {f : State → Nat → Ctx → Fetched → State}
    (h : Issues w core slot k x e) (hw : w = s.wait dt) (hup : w.up = true)
    (hc : exec c s = .next (s.during dt (fun s => s.issue core slot mine f))) (he : e ≠ .fault) (hm : mine e = true)
    (hf : f (w.fetched k x) k x e = (w.issuing k x).coreFault k cause 0) (hcore : core < 6) (hcause : cause < 16) :
    Leads c s (fun t => CoreFaulted t k cause x) := by
  obtain ⟨rfl, -⟩ := h.placed
  obtain ⟨hfault, -⟩ := State.coreFault_faults h.issued.2 (show x.issued.core < 6 from hcore) cause 0 hcause
  have hissue := h.issue_eq he hm (f := f)
  rw [hf] at hissue
  generalize (w.issuing k x).coreFault k cause 0 = t at hissue hfault
  rw [State.rehalt_gone _ hfault.2.2] at hissue
  exact leads_of (exec_of_during hc hw hup hissue) (hfault.sealed w)

/-- A context that has passed the entry it issues. -/
def Ctx.passed (x : Ctx) (c : Nat) : Ctx := x.issued.complete c (x.entry + 1)

/-- The state in which the issuing context has passed its entry. -/
def State.passing (w : State) (k : Nat) (x : Ctx) : State := (w.issuing k x).setCtx k (x.passed w.cclk)

theorem Issues.passing (h : Issues w core slot k x e) : Steady k (x.passed w.cclk) (w.passing k x) :=
  Steady.setCtx_same h.issued.1 (show x.evicted = none from h.calm.evicted h.here)

theorem Issues.passOn_eq (h : Issues w core slot k x e) : (w.issuing k x).passOn k w.cclk = w.passing k x :=
  State.onCtx_of h.issued.2 _

theorem State.passing_quiet (w : State) (k : Nat) (x : Ctx) {rs : Spans} : Quiet rs (w.issuing k x) (w.passing k x) :=
  (Quiet.refl _).setCtx

theorem State.passing_keeps {γ : Type} (w : State) (k : Nat) (x : Ctx) (g : State → γ)
    (hg : ∀ u : State, g u = g { u.unfetched with ctxs := [] }) : g (w.passing k x) = g w := by
  have hset : g (w.passing k x) = g (w.issuing k x) := (hg _).trans (hg (w.issuing k x)).symm
  exact hset.trans (State.issuing_keeps w k x g hg)

/-- The partition of a job is none of the counts of issue. -/
theorem State.jobPart_issuing (w : State) (k : Nat) (x : Ctx) : (w.issuing k x).jobPart (ctxJob k) = w.jobPart (ctxJob k) := by
  have hj := ctxJob_lt k
  have hreg : (w.issuing k x).reg (kJob (ctxJob k) 1) = w.reg (kJob (ctxJob k) 1) := by
    refine w.reg_issuing k x ?_ ?_ ?_
    · unfold kJob kCore key
      omega
    · unfold kJob kCore key
      omega
    · simp only [findSpans, covers_cons, covers_nil, and_true, counterSpan, pages, at1, kJob, key]
      omega
  unfold State.jobPart State.field'
  rw [hreg]

end

section
variable {s w : State} {dt act : Nat} {core : Fin 6} {slot : Fin 4} {k : Nat} {x z : Ctx} {ws : List Nat} {c : Instr}
  {f : State → Nat → Ctx → Nat → State} {v : State}

theorem Issues.semDo_eq {core slot : Nat} {e : Fetched} (h : Issues w core slot k x e) (f : State → Nat → Ctx → Nat → State)
    (hsound : w.semMalformed k e.words = false) :
    State.semDo f (w.fetched k x) k x e = (f (w.passing k x) k x (e.words.getD 0 0)).tidy w.cclk := by
  have hmal : (w.issuing k x).semMalformed k e.words = false :=
    (State.issuing_keeps w k x (fun u => u.semMalformed k e.words) (fun _ => rfl)).trans hsound
  unfold State.semDo
  rw [State.cclk_fetched]
  refine (if_neg (by rw [show (w.fetched k x).countIssue k x = w.issuing k x from rfl, hmal]; exact Bool.false_ne_true)).trans ?_
  rw [← h.passOn_eq]
  rfl

/-- A sound semaphore entry whose act leaves `v`, with the context `z`. -/
theorem Issues.semaphore (h : Issues w core slot k x (.issue 0x40 ws)) (hw : w = s.wait dt) (hup : w.up = true)
    (hc : exec c s = .next (s.during dt (fun s => s.semEntry core slot act f))) (hsound : w.semMalformed k ws = false)
    (hact : semAct (ws.getD 0 0) = act) (hv : f (w.passing k x) k x (ws.getD 0 0) = v) (hz : Steady k z v)
    (hkept : z.pos = true ∧ z.place = .inPlace ∧ z.waiting = .none ∧ z.halted = false) (hq : Quiet signalSpans (w.passing k x) v) :
    ∃ t, exec c s = .next (w.sealed t) ∧ t.ctx? k = some z ∧ t.hubOps = v.hubOps ∧ t.laneSigs = v.laneSigs
      ∧ Entered w (w.sealed t) core [] := by
  obtain ⟨hpos, hplace, hwait, hhalt⟩ := hkept
  have hdo := h.semDo_eq f hsound
  rw [Fetched.words, hv] at hdo
  have hm : isSem act (.issue 0x40 ws) = true := by
    rw [isSem, isOp, hact]
    simp
  have hlast : Lasting w.cclk (fun y => y = z) := Lasting.still hplace (by simp [hwait]) (by simp [hwait]) (.inl hpos)
  obtain ⟨t, hexec, ⟨y, hy, rfl⟩, hquiet, hkeeps, -⟩ :=
    h.stirs (s := s) hw hup hc (by simp) hm hdo hz hlast rfl (by rintro _ rfl; exact hhalt)
  exact ⟨t, hexec, hy, hkeeps State.hubOps (fun _ => rfl), hkeeps State.laneSigs (fun _ => rfl),
    h.entered_of core.2 ((w.passing_quiet k x).trans hq) hquiet⟩

theorem Ctx.sem_setSem_other (x : Ctx) {m n : Nat} (h : m ≠ n) (v : Sem) : (x.setSem n v).sem m = x.sem m :=
  tget_tset_other _ _ _ h

theorem State.sendHub_quiet (u : State) (k inc n c : Nat) (a : HubAct) {rs : Spans} : Quiet rs u (u.sendHub k inc n c a) :=
  ⟨fun _ _ => rfl, rfl⟩

/-- What an entry sends to the hub, and what it leaves. -/
theorem Steady.sendHub {u : State} (h : Steady k z u) (inc n c : Nat) (a : HubAct) : Steady k z (u.sendHub k inc n c a)
    ∧ (u.sendHub k inc n c a).hubOps = u.hubOps ++ [{ due := c + 8, part := u.jobPart (ctxJob k), sem := n, ctx := k, inc := inc, act := a }]
    ∧ Quiet signalSpans u (u.sendHub k inc n c a) :=
  ⟨h.of_eq rfl rfl, rfl, u.sendHub_quiet k inc n c a⟩

/-- What a context that has passed its entry still has. -/
theorem Issues.passed_kept {core slot : Nat} {e : Fetched} (h : Issues w core slot k x e) :
    (x.passed w.cclk).pos = true ∧ (x.passed w.cclk).place = .inPlace ∧ (x.passed w.cclk).waiting = .none ∧ (x.passed w.cclk).halted = false := by
  obtain ⟨hpos, hplace, -, -⟩ := h.may_iff
  exact ⟨hpos, hplace, rfl, h.unhalted⟩

section
variable (h : Issues w core slot k x (.issue 0x40 ws))
include h

/-- An add or a set of a context's own semaphore. -/
theorem Issues.semaphore_own (hw : w = s.wait dt) (hup : w.up = true)
    (hc : exec c s = .next (s.during dt (fun s => s.semEntry core slot act f))) (hsound : w.semMalformed k ws = false)
    (hact : semAct (ws.getD 0 0) = act) (hv : f (w.passing k x) k x (ws.getD 0 0) = v) {n : Nat} {y : Sem}
    (hz : Steady k ((x.passed w.cclk).setSem n y) v) (hq : Quiet signalSpans (w.passing k x) v) (hops : v.hubOps = w.hubOps) :
    Leads c s (fun t => CtxIs t k (fun z => z.entry = x.entry + 1 ∧ z.pos = true
        ∧ ∀ m, z.sem m = if m = n then y else x.sem m)
      ∧ t.hubOps = w.hubOps ∧ Entered w t core []) := by
  obtain ⟨hpos, hplace, hwait, hhalt⟩ := h.passed_kept
  obtain ⟨t, hexec, hctx, hubs, -, hent⟩ := h.semaphore hw hup hc hsound hact hv hz ⟨hpos, hplace, hwait, hhalt⟩ hq
  refine leads_of hexec ⟨⟨_, hctx, rfl, hpos, fun m => ?_⟩, hubs.trans hops, hent⟩
  split_ifs with hm
  · rw [hm, Ctx.sem_setSem]
  · exact Ctx.sem_setSem_other _ hm y

/-- An add or a set of a shared semaphore is sent to the hub. -/
theorem Issues.semaphore_shared (hw : w = s.wait dt) (hup : w.up = true)
    (hc : exec c s = .next (s.during dt (fun s => s.semEntry core slot act f))) (hsound : w.semMalformed k ws = false)
    (hact : semAct (ws.getD 0 0) = act) {n : Nat} {a : HubAct}
    (hv : f (w.passing k x) k x (ws.getD 0 0) = (w.passing k x).sendHub k x.inc n (w.passing k x).cclk a) :
    Leads c s (fun t => CtxIs t k (fun z => z.entry = x.entry + 1 ∧ z.pos = true ∧ ∀ m, z.sem m = x.sem m)
      ∧ t.hubOps = w.hubOps ++
          [{ due := w.cclk + 8, part := w.jobPart (ctxJob k), sem := n, ctx := k, inc := x.inc, act := a }]
      ∧ Entered w t core []) := by
  have hcclk : (w.passing k x).cclk = w.cclk := w.passing_keeps k x State.cclk (fun _ => rfl)
  have hops : (w.passing k x).hubOps = w.hubOps := w.passing_keeps k x State.hubOps (fun _ => rfl)
  obtain ⟨hsteady, hsent, hquiet⟩ := h.passing.sendHub x.inc n (w.passing k x).cclk a
  obtain ⟨t, hexec, hctx, hubs, -, hent⟩ := h.semaphore hw hup hc hsound hact hv hsteady h.passed_kept hquiet
  refine leads_of hexec ⟨⟨_, hctx, rfl, h.passed_kept.1, fun _ => rfl⟩, hubs.trans ?_, hent⟩
  rw [hsent, hcclk, hops, show (w.passing k x).jobPart (ctxJob k) = w.jobPart (ctxJob k) from w.jobPart_issuing k x]

end

end

/-- Settles O11: each act of a sound semaphore entry, followed into the stir of the scheduler, and the core fault of a malformed one. -/
theorem semaphoreEntriesTakeEffect : Obligations.SemaphoreEntriesTakeEffect := by
  refine ⟨?_, ?_, ?_, ?_⟩
  · intro s w dt core slot k x ws hw hup h hsound hact
    obtain ⟨hpos, hplace, hmove, -⟩ := h.may_iff
    by_cases hn : waitSem (ws.getD 0 0) < 56
    · have hlisten : (x.passed w.cclk).listens = true := Ctx.listens_of hplace hmove
      have hops := State.signalCtx_keeps (w.passing k x) k (waitSem (ws.getD 0 0)) (waitVal (ws.getD 0 0)) none State.hubOps (fun _ => rfl)
      obtain ⟨t, hexec, ⟨y, hy, hentry, hpos, hsem⟩, hhub, hent⟩ := h.semaphore_own (c := .semaphoreAdd dt core slot) hw hup rfl hsound
        hact (f := State.semAdd) (if_pos hn) (h.passing.signalCtx hlisten _ _ none)
        (State.signalCtx_quiet _ _ _ _ _ (List.mem_cons_of_mem _ List.mem_cons_self))
        (hops.trans (w.passing_keeps k x State.hubOps (fun _ => rfl)))
      refine ⟨t, hexec, ⟨y, hy, hentry, hpos, fun m _ => ?_⟩, fun h => absurd hn (Nat.not_lt.2 h), fun _ => hhub, hent⟩
      rw [hsem]
      split_ifs with hm
      · rw [hm]
        rfl
      · rfl
    · obtain ⟨t, hexec, ⟨y, hy, hentry, hpos, hsem⟩, hhub, hent⟩ := h.semaphore_shared (c := .semaphoreAdd dt core slot) hw hup rfl hsound
        hact (f := State.semAdd) (if_neg hn)
      refine ⟨t, hexec, ⟨y, hy, hentry, hpos, fun m hm => (hsem m).trans (if_neg ?_).symm⟩, fun _ => hhub, fun h => absurd h hn, hent⟩
      omega
  · intro s w dt core slot k x ws hw hup h hsound hact
    by_cases hn : waitSem (ws.getD 0 0) < 56
    · obtain ⟨t, hexec, ⟨y, hy, hentry, hpos, hsem⟩, hhub, hent⟩ := h.semaphore_own (c := .semaphoreSet dt core slot) hw hup rfl hsound
        hact (f := State.semSet) (if_pos hn) (h.passing.onCtx (Ctx.evicted_setSem _ _ _)) (Quiet.refl _).onCtx
        ((State.onCtx_leaves State.hubOps (fun _ _ _ _ _ => rfl) _ _ _).trans (w.passing_keeps k x State.hubOps (fun _ => rfl)))
      refine ⟨t, hexec, ⟨y, hy, hentry, hpos, fun m _ => ?_⟩, fun h => absurd hn (Nat.not_lt.2 h), fun _ => hhub, hent⟩
      rw [hsem]
      split_ifs <;> rfl
    · obtain ⟨t, hexec, ⟨y, hy, hentry, hpos, hsem⟩, hhub, hent⟩ := h.semaphore_shared (c := .semaphoreSet dt core slot) hw hup rfl hsound
        hact (f := State.semSet) (if_neg hn)
      refine ⟨t, hexec, ⟨y, hy, hentry, hpos, fun m hm => ?_⟩, fun _ => hhub, fun h => absurd h hn, hent⟩
      rw [hsem, if_neg (by omega)]
  · intro s w dt core slot k x ws hw hup h hsound hact
    have hsigs := w.passing_keeps k x (fun u => (u.semLaneAdd k x (ws.getD 0 0)).laneSigs) (fun _ => rfl)
    obtain ⟨t, hexec, hctx, -, hlanes, hent⟩ := h.semaphore (c := .semaphoreLaneAdd dt core slot) hw hup rfl hsound hact rfl
      (h.passing.of_eq rfl rfl : Steady k _ ((w.passing k x).semLaneAdd k x (ws.getD 0 0))) h.passed_kept ⟨fun _ _ => rfl, rfl⟩
    exact leads_of hexec ⟨⟨_, hctx, rfl, h.passed_kept.1⟩, hlanes.trans hsigs, hent⟩
  · intro s w dt core slot k x ws hw hup h hmal hact
    refine h.faults (c := .semaphoreAdd dt core slot) hw hup rfl (by simp) ?_ ?_ core.2 (by omega)
    · rw [isSem, isOp, hact]
      rfl
    · have hmal' : (w.issuing k x).semMalformed k ws = true :=
        (State.issuing_keeps w k x (fun u => u.semMalformed k ws) (fun _ => rfl)).trans hmal
      exact if_pos hmal'

end Sys2Proof.Machine
end

section
/-! Waits (05 R148, 09 R257). -/
namespace Sys2Proof.Machine

/-! A wait that the scheduler's stir completes. -/

section
variable {s : State} {c k : Nat} {y z : Ctx}

/-- Of the contexts that wake, only the one that waits changes. -/
theorem CtxIs.wakeAll {ks : List Nat} (hk : k ∈ ks) (h : CtxIs s k (fun x => x = y))
    (hwake : ∀ u : State, u.ctx? k = some y → (u.wakeOne c k).ctx? k = some z) (hz : z.waiting = .none) :
    CtxIs (forEach ks s (fun k s => s.wakeOne c k)) k (fun x => x = z) := by
  obtain ⟨as, bs, rfl⟩ := List.append_of_mem hk
  have hdone : ∀ u : State, CtxIs u k (fun x => x = z) → ∀ j, CtxIs (u.wakeOne c j) k (fun x => x = z) := by
    rintro u ⟨_, hu, rfl⟩ j
    by_cases hj : j = k
    · subst hj
      rw [State.wakeOne_unmet hu (by simp [hz])]
      exact ⟨_, hu, rfl⟩
    · exact ⟨_, (State.ctx?_wakeOne_other hj).trans hu, rfl⟩
  have hone : ∀ u : State, CtxIs u k (fun x => x = y ∨ x = z) → CtxIs (u.wakeOne c k) k (fun x => x = z) := by
    rintro u ⟨_, hu, rfl | rfl⟩
    · exact ⟨_, hwake u hu, rfl⟩
    · exact hdone u ⟨_, hu, rfl⟩ k
  have hbefore : CtxIs (forEach as s (fun k s => s.wakeOne c k)) k (fun x => x = y ∨ x = z) := by
    refine forEach_keeps (fun u => CtxIs u k (fun x => x = y ∨ x = z)) _ (fun j u hu => ?_) as s ?_
    · by_cases hj : j = k
      · subst hj
        exact ⟨_, (hone u hu).here.1, .inr (hone u hu).here.2⟩
      · obtain ⟨x, hx, hxyz⟩ := hu
        exact ⟨x, (State.ctx?_wakeOne_other hj).trans hx, hxyz⟩
    · obtain ⟨x, hx, rfl⟩ := h
      exact ⟨x, hx, .inl rfl⟩
  have happend : forEach (as ++ k :: bs) s (fun k s => s.wakeOne c k) =
      forEach bs ((forEach as s (fun k s => s.wakeOne c k)).wakeOne c k) (fun k s => s.wakeOne c k) := List.foldl_append
  rw [happend]
  exact forEach_keeps (fun u => CtxIs u k (fun x => x = z)) _ (fun j u hu => hdone u hu j) bs _ (hone _ hbefore)

theorem CtxIs.stir_wakes (h : s.ctx? k = some y) (hwake : ∀ u : State, u.ctx? k = some y → (u.wakeOne c k).ctx? k = some z)
    (hz : z.waiting = .none) (hl : Lasting c (fun x => x = z)) : CtxIs (s.stir c) k (fun x => x = z) := by
  have hk : k ∈ s.ctxs.map Prod.fst := List.mem_map_of_mem (f := Prod.fst) (tfind_mem h)
  exact forEach_keeps (fun u => CtxIs u k (fun x => x = z)) _
    (fun core _ hu => (hu.grantCore hl core 4).restoreReady hl core 4) _ _ (CtxIs.wakeAll hk ⟨y, h, rfl⟩ hwake hz)

/-- A context after its satisfied wait on a semaphore of its own (R148). -/
def Ctx.consumed (y : Ctx) (c : Nat) : Ctx :=
  let n := waitSem y.word
  let v := y.sem n
  (if waitKeep y.word then y else y.setSem n { v with count := v.count - waitVal y.word }).complete c (y.entry + 1)

/-- The count that a wait on a semaphore of its own tests, its pending record included. -/
def Ctx.available (y : Ctx) (n : Nat) : Nat := min 65535 ((y.sem n).count + (tget (fun _ => (0, none)) y.record n).1)

theorem State.wakeOne_met (h : s.ctx? k = some y) (hwait : y.waiting = .wait) (hc : y.cancelled = false) (hn : waitSem y.word < 56)
    (hval : waitVal y.word ≤ y.available (waitSem y.word)) (hl : y.listens = true) (ht : y.inTime c = true) :
    (s.wakeOne c k).ctx? k = some (y.consumed c) := by
  have hcount : s.waitCount k y = y.available (waitSem y.word) := if_pos hn
  unfold State.wakeOne
  rw [h]
  dsimp only
  rw [if_pos (by rw [hcount, hwait]; simpa using hval), if_neg (by rw [hc]; exact Bool.false_ne_true), if_pos ⟨hn, hl, ht⟩]
  exact State.ctx?_setCtx_same _ _ _

theorem Ctx.consumed_fields (y : Ctx) (c : Nat) : (y.consumed c).entry = y.entry + 1 ∧ (y.consumed c).waiting = .none
    ∧ ((y.consumed c).sem (waitSem y.word)).count =
        (y.sem (waitSem y.word)).count - (if waitKeep y.word then 0 else waitVal y.word)
    ∧ (y.consumed c).pos = y.pos ∧ (y.consumed c).place = y.place ∧ (y.consumed c).halted = y.halted := by
  unfold Ctx.consumed
  dsimp only
  split_ifs
  · exact ⟨rfl, rfl, rfl, rfl, rfl, rfl⟩
  · exact ⟨rfl, rfl, congrArg Sem.count (Ctx.sem_setSem y _ _), rfl, rfl, rfl⟩

end

/-! WAIT entries. -/

section
variable {s w : State} {dt : Nat} {core : Fin 6} {slot : Fin 4} {k : Nat} {x : Ctx} {ws : List Nat}

/-- A context that has begun to wait on word `d` in cycle `c` with timer `tm`. -/
def Ctx.begun (x : Ctx) (r : Waiting) (d c : Nat) (tm : Option Nat) : Ctx := x.issued.begin r d c tm

/-- What a context shows that has begun to wait, wherever it is placed. -/
theorem Ctx.fields_of_begun {y : Ctx} {r : Waiting} {d c : Nat} {tm : Option Nat} (h : y.unplaced = (x.begun r d c tm).unplaced) :
    (y.entry = x.entry ∧ y.waiting = r ∧ y.word = d ∧ y.timer = tm) ∧ y.credits = x.credits ∧ y.issuedAt = c ∧ y.halted = x.halted := by
  have hof := fun {γ : Type} (g : Ctx → γ) (hg : ∀ z : Ctx, g z = g z.unplaced) => Ctx.eq_of_unplaced g hg h
  exact ⟨⟨hof Ctx.entry (fun _ => rfl), hof Ctx.waiting (fun _ => rfl), hof Ctx.word (fun _ => rfl), hof Ctx.timer (fun _ => rfl)⟩,
    hof Ctx.credits (fun _ => rfl), hof Ctx.issuedAt (fun _ => rfl), hof Ctx.halted (fun _ => rfl)⟩

/-- The state in which it has. -/
def State.beginning (w : State) (k : Nat) (x : Ctx) (r : Waiting) (d : Nat) (tm : Option Nat) : State :=
  (w.issuing k x).setCtx k (x.begun r d w.cclk tm)

theorem Issues.beginning {core slot : Nat} {e : Fetched} (h : Issues w core slot k x e) (r : Waiting) (d : Nat) (tm : Option Nat) :
    Steady k (x.begun r d w.cclk tm) (w.beginning k x r d tm) :=
  Steady.setCtx_same h.issued.1 (show x.evicted = none from h.calm.evicted h.here)

/-- What a wait leaves before the scheduler stirs. -/
def State.awaiting (w : State) (k : Nat) (x : Ctx) (d : Nat) : State :=
  let u := w.beginning k x .wait d (w.timerFor x (waitTmo d))
  if waitSem d < 56 then u else u.sendHub k x.inc (waitSem d) w.cclk .test

theorem Issues.waitEntry_eq {core slot : Nat} {e : Fetched} (h : Issues w core slot k x e) (hz : zeroFrom e.words 1 = true)
    (ht : x.late (w.timerFor x (waitTmo (e.words.getD 0 0))) w.cclk = false) :
    (w.fetched k x).waitEntry k x e = (w.awaiting k x (e.words.getD 0 0)).tidy w.cclk := by
  have htimer : (w.fetched k x).timerFor x (waitTmo (e.words.getD 0 0)) = w.timerFor x (waitTmo (e.words.getD 0 0)) := by
    unfold State.timerFor
    rw [State.cclk_fetched]
  have hon := State.onCtx_of h.issued.2 (fun y => y.begin .wait (e.words.getD 0 0) w.cclk (w.timerFor x (waitTmo (e.words.getD 0 0))))
  unfold State.waitEntry State.awaiting State.beginning
  dsimp only
  rw [State.cclk_fetched, htimer, ht, hz, show (w.fetched k x).countIssue k x = w.issuing k x from rfl]
  simp only [Bool.not_true, Bool.false_and, Bool.false_eq_true, if_false, hon]
  rfl

theorem Issues.awaiting_steady {core slot : Nat} {e : Fetched} (h : Issues w core slot k x e) (d : Nat) :
    Steady k (x.begun .wait d w.cclk (w.timerFor x (waitTmo d))) (w.awaiting k x d) := by
  unfold State.awaiting
  dsimp only
  split_ifs
  · exact h.beginning _ _ _
  · exact ((h.beginning _ _ _).sendHub _ _ _ _).1

theorem Issues.awaiting_hub {core slot : Nat} {e : Fetched} (h : Issues w core slot k x e) {d : Nat} (hn : 56 ≤ waitSem d) :
    (w.awaiting k x d).hubOps = w.hubOps ++
      [{ due := w.cclk + 8, part := w.jobPart (ctxJob k), sem := waitSem d, ctx := k, inc := x.inc, act := .test }] := by
  have hops : (w.issuing k x).hubOps = w.hubOps := State.issuing_keeps w k x State.hubOps (fun _ => rfl)
  unfold State.awaiting
  dsimp only
  rw [if_neg (Nat.not_lt.2 hn), ((h.beginning _ _ _).sendHub _ _ _ _).2.1]
  exact congrArg₂ (fun os p => os ++ [{ due := w.cclk + 8, part := p, sem := waitSem d, ctx := k, inc := x.inc, act := .test }]) hops
    (w.jobPart_issuing k x)

theorem State.awaiting_quiet (w : State) (k : Nat) (x : Ctx) (d : Nat) : Quiet signalSpans (w.issuing k x) (w.awaiting k x d) := by
  unfold State.awaiting State.beginning
  dsimp only
  split_ifs
  · exact (Quiet.refl _).setCtx
  · exact (Quiet.refl _).setCtx.trans (State.sendHub_quiet _ _ _ _ _ _)

/-- The timer of a wait that is issued in time has not run out. -/
theorem State.inTime_begun (w : State) (x : Ctx) (d : Nat) (r : Waiting) (tmo : Nat) (h : x.late (w.timerFor x tmo) w.cclk = false) :
    (x.begun r d w.cclk (w.timerFor x tmo)).inTime w.cclk = true := by
  have hend : ∀ e, w.timerFor x tmo = some e → w.cclk ≤ e := by
    intro e he
    rw [he, Ctx.late, Bool.and_eq_false_iff, decide_eq_false_iff_not] at h
    unfold State.timerFor at he
    split_ifs at he with hc
    · have := h.resolve_left (by simp [hc])
      omega
    · cases he
      omega
  unfold Ctx.inTime Ctx.begun Ctx.begin
  dsimp only
  split
  case h_1 e he => exact decide_eq_true (hend e he)
  case h_2 => rfl

/-- A wait on a semaphore of its own that has what it asks for completes. -/
theorem Issues.wait_completes {core slot : Nat} {e : Fetched} (h : Issues w core slot k x e) {d : Nat}
    (ht : x.late (w.timerFor x (waitTmo d)) w.cclk = false) (hn : waitSem d < 56) (hval : waitVal d ≤ x.available (waitSem d)) :
    CtxIs ((w.awaiting k x d).stir w.cclk) k
      (fun y => y = (x.begun .wait d w.cclk (w.timerFor x (waitTmo d))).consumed w.cclk) := by
  obtain ⟨hpos, hplace, hmove, -⟩ := h.may_iff
  have htime := w.inTime_begun x d .wait _ ht
  have hhere := (h.awaiting_steady d).2
  have hlisten : (x.begun .wait d w.cclk (w.timerFor x (waitTmo d))).listens = true := Ctx.listens_of hplace hmove
  obtain ⟨-, hnone, -, hp, hpl, -⟩ := (x.begun .wait d w.cclk (w.timerFor x (waitTmo d))).consumed_fields w.cclk
  exact CtxIs.stir_wakes hhere (fun u hu => State.wakeOne_met hu rfl rfl hn hval hlisten htime) hnone
    (Lasting.still (hpl.trans hplace) (by simp [hnone]) (by simp [hnone]) (.inl (hp.trans hpos)))

/-- Any other wait waits. -/
theorem Issues.wait_waits {core slot : Nat} {e : Fetched} (h : Issues w core slot k x e) {d : Nat}
    (hunmet : ¬(waitSem d < 56 ∧ waitVal d ≤ x.available (waitSem d))) :
    CtxIs ((w.awaiting k x d).stir w.cclk) k
      (fun y => y.unplaced = (x.begun .wait d w.cclk (w.timerFor x (waitTmo d))).unplaced) := by
  have hbelow : (x.begun .wait d w.cclk (w.timerFor x (waitTmo d))).unmet := by
    by_cases hn : waitSem d < 56
    · exact .inr (Nat.not_le.1 (fun hv => hunmet ⟨hn, hv⟩))
    · exact .inl (Nat.not_lt.1 hn)
  exact CtxIs.stir (Lasting.unplaced Waiting.noConfusion (fun _ => ⟨rfl, hbelow⟩) w.cclk) ⟨_, (h.awaiting_steady d).2, rfl⟩

section
variable (hw : w = s.wait dt) (hup : w.up = true) (h : Issues w core slot k x (.issue 0x41 ws)) (hz : zeroFrom ws 1 = true)
  (ht : x.late (w.timerFor x (waitTmo (ws.getD 0 0))) w.cclk = false)
include hw hup h hz ht

/-- A wait whose context is as `p` says after the stir. -/
theorem Issues.wait_stirred {p : Ctx → Prop} (hp : CtxIs ((w.awaiting k x (ws.getD 0 0)).stir w.cclk) k p)
    (hhalt : ∀ y, p y → y.halted = false) :
    Leads (.wait dt core slot) s (fun t => CtxIs t k p
      ∧ (56 ≤ waitSem (ws.getD 0 0) → t.hubOps = w.hubOps ++
          [{ due := w.cclk + 8, part := w.jobPart (ctxJob k), sem := waitSem (ws.getD 0 0), ctx := k, inc := x.inc, act := .test }])
      ∧ Entered w t core []) := by
  have hdo := h.waitEntry_eq hz ht
  have hv := (h.awaiting_steady (ws.getD 0 0)).1
  have hhub := fun hn => h.awaiting_hub (d := ws.getD 0 0) hn
  have hq := w.awaiting_quiet k x (ws.getD 0 0)
  rw [Fetched.words] at hdo
  generalize w.awaiting k x (ws.getD 0 0) = v at hdo hp hv hhub hq
  obtain ⟨t, hexec, hctx, hquiet, hkeeps, -⟩ := h.stirred (s := s) (c := .wait dt core slot) hw hup rfl (by simp) rfl hdo hv hp hhalt
  exact leads_of hexec ⟨hctx, fun hn => (hkeeps State.hubOps (fun _ => rfl)).trans (hhub hn), h.entered_of core.2 hq hquiet⟩

end

end

/-! A wait or an acquisition whose timer has run out (R148, R151). -/

section
variable {s u w : State} {k : Nat} {x : Ctx}

theorem State.withdraw_leaves {γ : Type} (s : State) (k : Nat) (g : State → γ)
    (hhub : ∀ (u : State) p n v, g (u.setHub p n v) = g u) (hcount : ∀ u : State, g (u.count 0x2901 0x0B) = g u)
    (hlater : ∀ (u : State) c, g (u.closesC c 0 .hubGrant) = g u)
    (hwaits : ∀ (u : State) ops ws, g { u with hubOps := ops, hubWaits := ws } = g u) : g (s.withdraw k) = g s := by
  have hraise : ∀ (u : State) p n a c, g (u.raiseHub p n a none c) = g u := by
    intro u p n a c
    unfold State.raiseHub State.addHub
    rw [hlater]
    dsimp only
    split_ifs
    · rw [hcount, hhub]
    · exact hhub _ _ _ _
  unfold State.withdraw
  refine (forEach_same g _ (fun o u => ?_) _ _).trans (hwaits s _ _)
  dsimp only
  split_ifs
  · rfl
  · exact hraise _ _ _ _ _

theorem State.withdraw_quiet (s : State) (k : Nat) : Quiet signalSpans s (s.withdraw k) := by
  unfold State.withdraw
  refine Quiet.forEach (fun o _ u => ?_) ⟨fun _ _ => rfl, rfl⟩
  dsimp only
  split_ifs
  · exact Quiet.refl u
  · exact State.raiseHub_quiet u _ _ _ _ _ (List.mem_cons_of_mem _ List.mem_cons_self)

theorem Steady.withdraw (h : Steady k x s) (j : Nat) : Steady k x (s.withdraw j) :=
  h.of_eq
    (State.withdraw_leaves s j State.jobs (fun _ _ _ _ => rfl) (fun u => State.count_keeps u _ _ _ _ State.jobs (fun _ => rfl))
      (fun _ _ => rfl) (fun _ _ _ => rfl))
    (State.withdraw_leaves s j State.ctxs (fun _ _ _ _ => rfl) (fun u => State.count_keeps u _ _ _ _ State.ctxs (fun _ => rfl))
      (fun _ _ => rfl) (fun _ _ _ => rfl))

/-- A context whose wait or acquisition has run out in cycle `d` goes on, and that is counted. -/
def State.goneOn (s : State) (k d : Nat) (x : Ctx) : State :=
  ((s.withdraw k).setCtx k (x.complete d (x.entry + 1))).count 0x2901 0x0C

theorem Steady.goneOn (h : Steady k x s) (d : Nat) : Steady k (x.complete d (x.entry + 1)) (s.goneOn k d x) := by
  have hset : Steady k (x.complete d (x.entry + 1)) ((s.withdraw k).setCtx k (x.complete d (x.entry + 1))) :=
    Steady.setCtx_same (h.withdraw k).1 (show x.evicted = none from h.1.evicted h.2)
  exact hset.count 0x2901 0x0C

theorem Steady.expire_eq (h : Steady k x s) (d : Nat) : s.expire k true d = (s.goneOn k d x).stir s.cclk := by
  have hon := State.onCtx_of (h.withdraw k).2 (fun x => x.complete d (x.entry + 1))
  rw [← (h.goneOn d).1.tidy]
  unfold State.expire State.goneOn
  rw [if_pos rfl, hon]

theorem State.goneOn_quiet (s : State) (k d : Nat) (x : Ctx) : Quiet signalSpans s (s.goneOn k d x) :=
  (s.withdraw_quiet k).setCtx.count (List.mem_cons_of_mem _ List.mem_cons_self) (by omega) (by omega) (by omega)

theorem State.reg_goneOn (s : State) (k d : Nat) (x : Ctx) :
    (s.goneOn k d x).reg (key 0x2901 0x0C) = satAdd 32 (s.reg (key 0x2901 0x0C)) 1 := by
  have hkept : (s.withdraw k).reg (key 0x2901 0x0C) = s.reg (key 0x2901 0x0C) :=
    State.withdraw_leaves s k (fun u => u.reg (key 0x2901 0x0C)) (fun _ _ _ _ => rfl)
      (fun u => State.reg_count_other u _ _ _ _ _ (by decide) (by decide) (by decide)) (fun _ _ => rfl) (fun _ _ _ => rfl)
  rw [← hkept]
  exact State.reg_count_same ((s.withdraw k).setCtx k _) 0x2901 0x0C 0 none

theorem State.goneOn_unwaited (s : State) (k d : Nat) (x : Ctx) : k ∉ (s.goneOn k d x).hubWaits := by
  have hcount := State.count_keeps ((s.withdraw k).setCtx k (x.complete d (x.entry + 1))) 0x2901 0x0C 0 none State.hubWaits (fun _ => rfl)
  unfold State.goneOn
  rw [hcount]
  exact (State.withdraw_spares s k).2

theorem State.goneOn_links (s : State) (k d : Nat) (x : Ctx) : (s.goneOn k d x).linkUse = s.linkUse := by
  have hcount := State.count_keeps ((s.withdraw k).setCtx k (x.complete d (x.entry + 1))) 0x2901 0x0C 0 none State.linkUse (fun _ => rfl)
  unfold State.goneOn
  rw [hcount]
  exact State.withdraw_leaves s k State.linkUse (fun _ _ _ _ => rfl)
    (fun u => State.count_keeps u _ _ _ _ State.linkUse (fun _ => rfl)) (fun _ _ => rfl) (fun _ _ _ => rfl)

/-- What the expiry of a wait or an acquisition leaves: its context goes on where its descriptor says so, and faults otherwise. -/
theorem Steady.expire (h : Steady k x s) (d : Nat) : let t := s.expire k true d
    CtxIs t k (fun y => y.unplaced = (x.complete d (x.entry + 1)).unplaced) ∧ k ∉ t.hubWaits ∧ t.linkUse = s.linkUse
    ∧ t.reg (key 0x2901 0x0C) = satAdd 32 (s.reg (key 0x2901 0x0C)) 1 ∧ Quiet signalSpans s t := by
  dsimp only
  rw [h.expire_eq d]
  have hsteady := h.goneOn d
  have hquiet := s.goneOn_quiet k d x
  have hreg := s.reg_goneOn k d x
  have hwaits := s.goneOn_unwaited k d x
  have hlinks := s.goneOn_links k d x
  generalize s.goneOn k d x = u at hsteady hquiet hreg hwaits hlinks
  have hstirred := (State.stir_hub u s.cclk).2.1
  refine ⟨CtxIs.stir (Lasting.unplaced Waiting.noConfusion (fun hw => by cases hw) s.cclk) ⟨_, hsteady.2, rfl⟩, ?_,
    (State.stir_keeps u _ State.linkUse (fun _ => rfl)).trans hlinks, (State.reg_stir u _ ?_).trans hreg,
    hquiet.trans (State.stir_quiet u _ List.mem_cons_self)⟩
  · rw [hstirred]
    exact hwaits
  · exact fun j => key_ne_sub (by decide)

end

/-- Settles O13: a WAIT entry that finds its count and one that does not, and a wait whose timer has run out. -/
theorem waitsConsumeOrWait : Obligations.WaitsConsumeOrWait := by
  refine ⟨?_, ?_⟩
  · intro s w dt core slot k x ws hw hup h hz ht
    by_cases hmet : waitSem (ws.getD 0 0) < 56 ∧ waitVal (ws.getD 0 0) ≤ x.available (waitSem (ws.getD 0 0))
    · have hfields := (x.begun .wait (ws.getD 0 0) w.cclk (w.timerFor x (waitTmo (ws.getD 0 0)))).consumed_fields w.cclk
      obtain ⟨hentry, hnone, hsem, -, -, hhalt⟩ := hfields
      obtain ⟨t, hexec, ⟨y, hy, rfl⟩, hhub, hent⟩ := Issues.wait_stirred hw hup h hz ht (h.wait_completes ht hmet.1 hmet.2)
        (by rintro _ rfl; exact hhalt.trans h.unhalted)
      refine ⟨t, hexec, ?_, hhub, hent⟩
      rw [if_pos (show _ ∧ _ ≤ min 65535 _ from hmet)]
      exact ⟨_, hy, hentry, hnone, hsem⟩
    · obtain ⟨t, hexec, ⟨y, hy, hsame⟩, hhub, hent⟩ := Issues.wait_stirred hw hup h hz ht (h.wait_waits hmet)
        (fun y hy => (Ctx.fields_of_begun hy).2.2.2.trans h.unhalted)
      refine ⟨t, hexec, ?_, hhub, hent⟩
      rw [if_neg (show ¬(_ ∧ _ ≤ min 65535 _) from hmet)]
      exact ⟨y, hy, (Ctx.fields_of_begun hsame).1⟩
  · intro s w dt core slot k d x hw hup hcalm hslot hx hwait hcancelled htimer hd
    have hexec : exec (.waitTimeout dt core slot) s = .next (w.sealed (w.expire k (bit x.word 15) d)) := by
      refine exec_of_during rfl hw hup ?_
      rw [hslot]
      dsimp only
      rw [hwait, htimer]
      dsimp only
      rw [hcancelled, if_pos (by simpa using hd)]
    have hcore : x.core < 6 := by
      have := List.find?_some hslot
      simp only [Bool.and_eq_true, beq_iff_eq] at this
      omega
    cases hb : bit x.word 15
    case true =>
      rw [hb] at hexec
      have hexpired := Steady.expire ⟨hcalm, hx⟩ d
      generalize w.expire k true d = t at hexec hexpired
      obtain ⟨⟨y, hy, hsame⟩, hgone, -, hcount, hquiet⟩ := hexpired
      refine leads_of hexec ⟨?_, fun _ => ⟨⟨y, hy, ?_, ?_⟩, hcount, hquiet.regs, hquiet.mem⟩, fun h => by cases h⟩
      · show t.hubWaits.contains k = false
        simpa using hgone
      · exact Ctx.eq_of_unplaced Ctx.entry (fun _ => rfl) hsame
      · exact Ctx.eq_of_unplaced Ctx.waiting (fun _ => rfl) hsame
    case false =>
      rw [hb] at hexec
      have hfaulted := State.coreFault_faults hx hcore 4 0 (by omega)
      have hexpire : w.expire k false d = w.coreFault k 4 0 := if_neg Bool.false_ne_true
      rw [← hexpire] at hfaulted
      generalize w.expire k false d = t at hexec hfaulted
      refine leads_of hexec ⟨?_, fun h => (by cases h), fun _ => hfaulted.1⟩
      show t.hubWaits.contains k = false
      simpa using hfaulted.2

end Sys2Proof.Machine
end

section
/-! Credits (05 R150, R151). -/
namespace Sys2Proof.Machine

/-! Credits on the links of a path. -/

/-- The values of a table at the keys `ls` are changed by `f`, one after the other. -/
def onEach (f : Nat → Nat) (ls : List Nat) (t : List (Nat × Nat)) : List (Nat × Nat) :=
  ls.foldl (fun t l => tset (fun _ => 0) t l (f (tget (fun _ => 0) t l))) t

theorem tget_onEach_other {f : Nat → Nat} {ls : List Nat} {m : Nat} (h : m ∉ ls) (t : List (Nat × Nat)) :
    tget (fun _ => 0) (onEach f ls t) m = tget (fun _ => 0) t m := by
  induction ls generalizing t with
  | nil => rfl
  | cons l ls ih =>
    rw [List.mem_cons, not_or] at h
    exact (ih h.2 _).trans (tget_tset_other _ t _ h.1)

/-- On a path without a link taken twice each value changes once. -/
theorem tget_onEach {f : Nat → Nat} {ls : List Nat} {m : Nat} (hn : ls.Nodup) (h : m ∈ ls) (t : List (Nat × Nat)) :
    tget (fun _ => 0) (onEach f ls t) m = f (tget (fun _ => 0) t m) := by
  induction ls generalizing t with
  | nil => cases h
  | cons l ls ih =>
    rw [List.nodup_cons] at hn
    obtain ⟨hl, hn⟩ := hn
    by_cases hm : m = l
    · subst hm
      exact (tget_onEach_other hl _).trans (tget_tset_same _ t m _)
    · exact (ih hn ((List.mem_cons.1 h).resolve_left hm) _).trans (by rw [tget_tset_other _ t _ hm])

/-- The credits taken on each of some links are changed by `f`. -/
def State.relinked (s : State) (f : Nat → Nat) (ls : List Nat) : State := { s with linkUse := onEach f ls s.linkUse }

theorem State.relinked_eq (s : State) (f : Nat → Nat) (ls : List Nat) :
    forEach ls s (fun l s => s.setLink l (f (s.linkUsed l))) = s.relinked f ls := by
  unfold forEach State.relinked
  induction ls generalizing s with
  | nil => rfl
  | cons l ls ih =>
    rw [List.foldl_cons, ih]
    rfl

theorem State.relinked_quiet (s : State) (f : Nat → Nat) (ls : List Nat) {rs : Spans} : Quiet rs s (s.relinked f ls) :=
  ⟨fun _ _ => rfl, rfl⟩

/-- The credits that a context holds on some links are changed by `f`, and it goes on in cycle `c`. -/
def Ctx.recredited (x : Ctx) (f : Nat → Nat) (ls : List Nat) (hold c : Nat) : Ctx :=
  ({ x with credits := onEach f ls x.credits }.complete c (x.entry + 1)).holdFrom hold c x.holds

theorem Ctx.recredited_fields (x : Ctx) (f : Nat → Nat) (ls : List Nat) (hold c : Nat) : (x.recredited f ls hold c).entry = x.entry + 1
    ∧ (x.recredited f ls hold c).waiting = .none ∧ (x.recredited f ls hold c).credits = onEach f ls x.credits
    ∧ (x.recredited f ls hold c).halted = x.halted ∧ (x.recredited f ls hold c).core = x.core
    ∧ (x.recredited f ls hold c).slot = x.slot ∧ (x.recredited f ls hold c).evicted = x.evicted := by
  have hkeeps := fun {γ : Type} (g : Ctx → γ) => Ctx.holdFrom_keeps
    ({ x with credits := onEach f ls x.credits }.complete c (x.entry + 1)) hold c x.holds g
  exact ⟨hkeeps Ctx.entry (fun _ => rfl), hkeeps Ctx.waiting (fun _ => rfl), hkeeps Ctx.credits (fun _ => rfl),
    hkeeps Ctx.halted (fun _ => rfl), hkeeps Ctx.core (fun _ => rfl), hkeeps Ctx.slot (fun _ => rfl), hkeeps Ctx.evicted (fun _ => rfl)⟩

/-- What a context shows that has changed its credits, wherever it is placed. -/
theorem Ctx.fields_of_recredited {x y : Ctx} {f : Nat → Nat} {ls : List Nat} {hold c : Nat}
    (h : y.unplaced = (x.recredited f ls hold c).unplaced) (hn : ls.Nodup) :
    y.entry = x.entry + 1 ∧ y.waiting = .none ∧ ∀ l ∈ ls, y.creditsOn l = f (x.creditsOn l) := by
  obtain ⟨hentry, hwait, hcredits, -⟩ := x.recredited_fields f ls hold c
  have hof : y.credits = (x.recredited f ls hold c).credits := Ctx.eq_of_unplaced Ctx.credits (fun _ => rfl) h
  refine ⟨(Ctx.eq_of_unplaced Ctx.entry (fun _ => rfl) h).trans hentry, (Ctx.eq_of_unplaced Ctx.waiting (fun _ => rfl) h).trans hwait,
    fun l hl => ?_⟩
  unfold Ctx.creditsOn
  rw [hof, hcredits, tget_onEach hn hl]

/-- A context that has changed its credits outlasts a stir but for its place. -/
theorem Lasting.recredited (x : Ctx) (f : Nat → Nat) (ls : List Nat) (hold c c' : Nat) :
    Lasting c' (fun y => y.unplaced = (x.recredited f ls hold c).unplaced) := by
  obtain ⟨-, hwait, -⟩ := x.recredited_fields f ls hold c
  exact Lasting.unplaced (by simp [hwait]) (by simp [hwait]) c'

/-! Grants of credits. -/

section
variable {s : State} {k : Nat} {x : Ctx}

/-- The links of the path that a context asks for. -/
def State.pathOf (s : State) (x : Ctx) (w : Nat) : List Nat := s.pathLinks x.core (creditHops w) (creditDown w)

/-- A context has taken its credits in cycle `c`. -/
def State.credited (s : State) (k : Nat) (x : Ctx) (c : Nat) : State :=
  ((s.relinked (fun n => n + creditN x.word) (s.pathOf x x.word)).setCtx k
    (x.recredited (fun n => n + creditN x.word) (s.pathOf x x.word) (s.holdTime k) c)).addReg (kCore x.core 0x0A) (c - x.issuedAt)

theorem State.takeCredits_eq (s : State) (k : Nat) (x : Ctx) (c : Nat) : s.takeCredits k x c = s.credited k x c := by
  unfold State.takeCredits
  dsimp only
  rw [State.relinked_eq s (fun n => n + creditN x.word)]
  rfl

theorem Steady.credited (h : Steady k x s) (c : Nat) :
    Steady k (x.recredited (fun n => n + creditN x.word) (s.pathOf x x.word) (s.holdTime k) c) (s.credited k x c) := by
  obtain ⟨-, -, -, -, -, -, hevicted⟩ := x.recredited_fields (fun n => n + creditN x.word) (s.pathOf x x.word) (s.holdTime k) c
  have hlinked : Calm (s.relinked (fun n => n + creditN x.word) (s.pathOf x x.word)) := h.1.of_eq rfl rfl
  exact (Steady.setCtx_same hlinked (hevicted.trans (h.1.evicted h.2))).of_eq rfl rfl

theorem State.credited_quiet (s : State) (k : Nat) (x : Ctx) (c : Nat) :
    Quiet (at1 (kCore x.core 0x0A) :: signalSpans) s (s.credited k x c) :=
  (s.relinked_quiet _ _).setCtx.addReg (covers_at1 List.mem_cons_self)

/-- An acquisition that has its credits, once the scheduler has stirred. -/
theorem Steady.creditGrant (h : Steady k x s) (c : Nat) : let t := (s.credited k x c).tidy c
    ((s.pathOf x x.word).Nodup →
      CtxIs t k (fun y => y.entry = x.entry + 1 ∧ y.waiting = .none ∧ ∀ l ∈ s.pathOf x x.word, y.creditsOn l = x.creditsOn l + creditN x.word)
      ∧ ∀ l ∈ s.pathOf x x.word, t.linkUsed l = s.linkUsed l + creditN x.word)
    ∧ t.reg (kCore x.core 0x0A) = satAdd (widthOf (kCore x.core 0x0A)) (s.reg (kCore x.core 0x0A)) (c - x.issuedAt)
    ∧ Quiet (at1 (kCore x.core 0x0A) :: signalSpans) s t := by
  have hcredited := h.credited c
  have hlinks : (s.credited k x c).linkUse = onEach (fun n => n + creditN x.word) (s.pathOf x x.word) s.linkUse := rfl
  have hquiet := s.credited_quiet k x c
  have hreg : (s.credited k x c).reg (kCore x.core 0x0A) =
      satAdd (widthOf (kCore x.core 0x0A)) (s.reg (kCore x.core 0x0A)) (c - x.issuedAt) :=
    (State.reg_addReg_same _ _).trans (Nat.mod_eq_of_lt (satAdd_lt _ _ _))
  generalize s.credited k x c = u at hcredited hlinks hquiet hreg
  have hused : (u.stir c).linkUse = u.linkUse := State.stir_keeps u _ State.linkUse (fun _ => rfl)
  obtain ⟨y, hy, hsame⟩ := CtxIs.stir (Lasting.recredited x _ _ _ c c) ⟨_, hcredited.2, rfl⟩
  rw [hcredited.1.tidy]
  refine ⟨fun hn => ⟨⟨y, hy, Ctx.fields_of_recredited hsame hn⟩, fun l hl => ?_⟩,
    (State.reg_stir u _ (fun j => by unfold kCore kJob key; omega)).trans hreg, hquiet.trans (State.stir_quiet u c (by simp [signalSpans, schedSpan]))⟩
  unfold State.linkUsed
  rw [hused, hlinks]
  exact tget_onEach hn hl _

/-- Only contexts of slot `slot` of core `core` wait for credits. -/
def State.OneAcquires (s : State) (core slot : Nat) : Prop := ∀ p ∈ s.ctxs, p.2.waiting = .credit → p.2.core = core ∧ p.2.slot = some slot

/-- The turn of slot `i` in a grant of credits. -/
def State.creditTurn (c i : Nat) (s : State) : State :=
  match s.slotCtx (i / 4) (i % 4) with
  | some (k, x) => if x.waiting == .credit && !x.cancelled && x.inTime c && s.creditFree x x.word then s.takeCredits k x c else s
  | none => s

theorem State.creditTurn_other {core slot i : Nat} (h : s.OneAcquires core slot) (hs : slot < 4) (hi : i ≠ 4 * core + slot) (c : Nat) :
    s.creditTurn c i = s := by
  unfold State.creditTurn
  split
  case h_1 j y hj =>
    have hfind := List.find?_some hj
    have hmem := List.mem_of_find?_eq_some hj
    simp only [Bool.and_eq_true, beq_iff_eq] at hfind
    refine if_neg (fun hgrant => ?_)
    simp only [Bool.and_eq_true, beq_iff_eq] at hgrant
    obtain ⟨hcore, hslot⟩ := h _ hmem hgrant.1.1.1
    rw [hfind.1] at hcore
    rw [hfind.2] at hslot
    cases hslot
    omega
  case h_2 => rfl

theorem mem_tput {α : Type} {t : List (Nat × α)} {k : Nat} {v : α} {p : Nat × α} (h : p ∈ tput t k v) : p = (k, v) ∨ p ∈ t := by
  induction t with
  | nil => exact .inl (List.mem_singleton.1 h)
  | cons e t ih =>
    unfold tput at h
    split_ifs at h
    · exact List.mem_cons.1 h
    · exact (List.mem_cons.1 h).imp_right (List.mem_cons_of_mem _)
    · rcases List.mem_cons.1 h with rfl | h
      · exact .inr List.mem_cons_self
      · exact (ih h).imp_right (List.mem_cons_of_mem _)

theorem State.OneAcquires.credited {core slot : Nat} (h : s.OneAcquires core slot) (k : Nat) (x : Ctx) (c : Nat) :
    (s.credited k x c).OneAcquires core slot := by
  intro p hp hw
  rcases mem_tput (t := s.ctxs) hp with rfl | hp
  · obtain ⟨-, hnone, -⟩ := x.recredited_fields (fun n => n + creditN x.word) (s.pathOf x x.word) (s.holdTime k) c
    rw [hnone] at hw
    cases hw
  · exact h p hp hw

/-- The only acquisition that waits is granted as the cycle closes if its credits are free. -/
theorem State.grantCredits_one {core slot : Nat} (hslot : s.slotCtx core slot = some (k, x)) (hcore : core < 6) (hs : slot < 4)
    (hwait : x.waiting = .credit) (hcancelled : x.cancelled = false) {c : Nat} (ht : x.inTime c = true)
    (hone : s.OneAcquires core slot) : s.grantCredits c = if s.creditFree x x.word then s.credited k x c else s := by
  have hturns : s.grantCredits c = forEach (upTo 24) s (fun i s => s.creditTurn c i) := rfl
  have hown : s.creditTurn c (4 * core + slot) = if s.creditFree x x.word then s.credited k x c else s := by
    unfold State.creditTurn
    rw [show (4 * core + slot) / 4 = core by omega, show (4 * core + slot) % 4 = slot by omega, hslot]
    dsimp only
    rw [hwait, hcancelled, ht, State.takeCredits_eq]
    rfl
  have hafter : (if s.creditFree x x.word then s.credited k x c else s).OneAcquires core slot := by
    split_ifs
    · exact hone.credited k x c
    · exact hone
  rw [hturns]
  refine forEach_at (p := fun u => u = s) (q := fun u => u = if s.creditFree x x.word then s.credited k x c else s)
    (mem_upTo (by omega : 4 * core + slot < 24)) (upTo_nodup 24) rfl ?_ ?_ ?_
  · rintro i - hi u rfl
    exact State.creditTurn_other hone hs hi c
  · rintro u rfl
    exact hown
  · rintro i - hi u rfl
    exact State.creditTurn_other hafter hs hi c

end

/-! Credit entries and their expiry. -/

section
variable {s w : State} {dt : Nat} {core : Fin 6} {slot : Fin 4} {k : Nat} {x : Ctx} {ws : List Nat}

/-- An acquisition waits for the grant as its cycle closes. -/
theorem Issues.acquireEntry_eq {core slot : Nat} {e : Fetched} (h : Issues w core slot k x e) (hsound : creditMalformed e.words = false)
    (ht : x.late (w.timerFor x (creditTmo (e.words.getD 0 0))) w.cclk = false) :
    (w.fetched k x).acquireEntry k x e = ((w.beginning k x .credit (e.words.getD 0 0)
      (w.timerFor x (creditTmo (e.words.getD 0 0)))).closesC w.cclk 0 .creditGrant).tidy w.cclk := by
  have htimer : (w.fetched k x).timerFor x (creditTmo (e.words.getD 0 0)) = w.timerFor x (creditTmo (e.words.getD 0 0)) := by
    unfold State.timerFor
    rw [State.cclk_fetched]
  have hon := State.onCtx_of h.issued.2 (fun y => y.begin .credit (e.words.getD 0 0) w.cclk (w.timerFor x (creditTmo (e.words.getD 0 0))))
  unfold State.acquireEntry State.beginning
  dsimp only
  rw [State.cclk_fetched, htimer, ht, hsound, show (w.fetched k x).countIssue k x = w.issuing k x from rfl]
  simp only [Bool.false_eq_true, if_false, hon]
  rfl

/-- What a release leaves before the scheduler stirs. -/
def State.releasing (w : State) (k : Nat) (x : Ctx) (d : Nat) : State :=
  let u := (w.issuing k x).relinked (fun n => n - creditN d) (w.pathOf x d)
  ((u.holdChecked k w.cclk).setCtx k (x.issued.recredited (fun n => n - creditN d) (w.pathOf x d) (u.holdTime k) w.cclk)).closesC
    w.cclk 0 .creditGrant

theorem Issues.releaseEntry_eq {core slot : Nat} {e : Fetched} (h : Issues w core slot k x e) (hsound : creditMalformed e.words = false)
    (hheld : ∀ l ∈ w.pathOf x (e.words.getD 0 0), creditN (e.words.getD 0 0) ≤ x.creditsOn l) :
    (w.fetched k x).releaseEntry k x e = (w.releasing k x (e.words.getD 0 0)).tidy w.cclk := by
  have hpath : (w.fetched k x).pathOf x (e.words.getD 0 0) = w.pathOf x (e.words.getD 0 0) :=
    w.fetched_keeps k x (fun u => u.pathOf x (e.words.getD 0 0)) (fun _ => rfl)
  have hany : (w.pathOf x (e.words.getD 0 0)).any (fun l => decide (x.creditsOn l < creditN (e.words.getD 0 0))) = false := by
    rw [List.any_eq_false]
    intro l hl
    rw [decide_eq_true_eq]
    exact Nat.not_lt.2 (hheld l hl)
  unfold State.releaseEntry State.releasing
  dsimp only
  unfold State.pathOf at hpath hany
  rw [State.cclk_fetched, hpath, hany, hsound, show (w.fetched k x).countIssue k x = w.issuing k x from rfl,
    State.relinked_eq _ (fun n => n - creditN (e.words.getD 0 0))]
  simp only [Bool.or_self, Bool.false_eq_true, if_false]
  rw [State.onCtx_of (x := x.issued)]
  · rfl
  · exact (State.holdChecked_keeps _ k w.cclk (fun u => u.ctx? k) (fun _ => rfl)).trans h.issued.2

theorem Issues.releasing {core slot : Nat} {e : Fetched} (h : Issues w core slot k x e) (d : Nat) : ∃ hold,
    Steady k (x.issued.recredited (fun n => n - creditN d) (w.pathOf x d) hold w.cclk) (w.releasing k x d)
    ∧ (w.releasing k x d).linkUse = onEach (fun n => n - creditN d) (w.pathOf x d) w.linkUse
    ∧ (w.releasing k x d).ClosesC w.cclk 0 .creditGrant ∧ Quiet signalSpans (w.issuing k x) (w.releasing k x d) := by
  have hissued : Steady k x.issued ((w.issuing k x).relinked (fun n => n - creditN d) (w.pathOf x d)) := h.issued.of_eq rfl rfl
  have hlinks : ((w.issuing k x).relinked (fun n => n - creditN d) (w.pathOf x d)).linkUse = onEach (fun n => n - creditN d) (w.pathOf x d) w.linkUse :=
    congrArg (onEach (fun n => n - creditN d) (w.pathOf x d)) (State.issuing_keeps w k x State.linkUse (fun _ => rfl))
  have hquiet := (w.issuing k x).relinked_quiet (fun n => n - creditN d) (w.pathOf x d) (rs := signalSpans)
  unfold State.releasing
  dsimp only
  generalize (w.issuing k x).relinked (fun n => n - creditN d) (w.pathOf x d) = u at hissued hlinks hquiet
  have hchecked : Steady k x.issued (u.holdChecked k w.cclk) :=
    hissued.of_eq (State.holdChecked_keeps u k w.cclk State.jobs (fun _ => rfl)) (State.holdChecked_keeps u k w.cclk State.ctxs (fun _ => rfl))
  have hlinks' := (State.holdChecked_keeps u k w.cclk State.linkUse (fun _ => rfl)).trans hlinks
  have hquiet' : Quiet signalSpans (w.issuing k x) (u.holdChecked k w.cclk) :=
    hquiet.trans ⟨fun r _ => State.holdChecked_keeps u k w.cclk (fun v => v.reg r) (fun _ => rfl),
      State.holdChecked_keeps u k w.cclk State.aside (fun _ => rfl)⟩
  generalize u.holdChecked k w.cclk = v at hchecked hlinks' hquiet'
  obtain ⟨-, -, -, -, -, -, hevicted⟩ := x.issued.recredited_fields (fun n => n - creditN d) (w.pathOf x d) (u.holdTime k) w.cclk
  have hset := Steady.setCtx_same (k := k) hchecked.1 (hevicted.trans (hchecked.1.evicted hchecked.2))
  exact ⟨u.holdTime k, hset.of_eq rfl rfl, hlinks', State.closesC_with _ _ _ _, hquiet'.setCtx.closesC⟩

end

/-- Settles O14: an acquisition, its grant as the cycle closes, a release, and an acquisition whose timer has run out. -/
theorem creditsAreTakenAndReturned : Obligations.CreditsAreTakenAndReturned := by
  refine ⟨?_, ?_, ?_, ?_⟩
  · intro s w dt core slot k x ws hw hup h hact hsound ht
    have hdo := h.acquireEntry_eq hsound ht
    have hbegun := h.beginning .credit (ws.getD 0 0) (w.timerFor x (creditTmo (ws.getD 0 0)))
    have hlinks : (w.beginning k x .credit (ws.getD 0 0) (w.timerFor x (creditTmo (ws.getD 0 0)))).linkUse = w.linkUse :=
      State.issuing_keeps w k x State.linkUse (fun _ => rfl)
    have hquiet : Quiet signalSpans (w.issuing k x) (w.beginning k x .credit (ws.getD 0 0) (w.timerFor x (creditTmo (ws.getD 0 0)))) :=
      (Quiet.refl _).setCtx
    rw [Fetched.words] at hdo
    generalize w.beginning k x .credit (ws.getD 0 0) (w.timerFor x (creditTmo (ws.getD 0 0))) = v at hdo hbegun hlinks hquiet
    have hv : Steady k _ (v.closesC w.cclk 0 .creditGrant) := hbegun.of_eq rfl rfl
    obtain ⟨t, hexec, ⟨y, hy, hsame⟩, hstirred, hkeeps, -⟩ := h.stirs (s := s) (c := .creditAcquire dt core slot) hw hup rfl (by simp)
      (by rw [isOp, hact]; rfl) hdo hv (Lasting.unplaced Waiting.noConfusion (fun hf => by cases hf) w.cclk) rfl
      (fun y hy => (Ctx.fields_of_begun hy).2.2.2.trans h.unhalted)
    obtain ⟨⟨hentry, hwait, hword, htimer⟩, hcredits, hissued, -⟩ := Ctx.fields_of_begun hsame
    have hlater : t.later = (v.closesC w.cclk 0 .creditGrant).later := hkeeps State.later (fun _ => rfl)
    refine leads_of hexec ⟨⟨y, hy, hentry, hwait, hword, hcredits, htimer, hissued⟩,
      (hkeeps State.linkUse (fun _ => rfl)).trans hlinks, ?_, h.entered_of core.2 hquiet.closesC hstirred⟩
    show _ ∈ t.later
    rw [hlater]
    exact State.closesC_with v w.cclk 0 .creditGrant
  · intro s t core slot k x ht hcalm hslot hx hcore hwait hcancelled hin honly
    have hplaced := List.find?_some hslot
    simp only [Bool.and_eq_true, beq_iff_eq] at hplaced
    have hone : s.OneAcquires core slot := by
      intro p hp hw
      rw [honly p hp hw]
      exact hplaced
    have hgrants := State.grantCredits_one hslot core.2 slot.2 hwait hcancelled hin hone
    have hgrant : t = (s.grantCredits s.cclk).tidy s.cclk := ht
    by_cases hfree : s.creditFree x x.word = true
    · rw [hgrants, if_pos hfree] at hgrant
      have hgranted := Steady.creditGrant ⟨hcalm, hx⟩ s.cclk
      rw [← hgrant, hcore] at hgranted
      obtain ⟨hpath, hreg, hquiet⟩ := hgranted
      exact ⟨⟨fun _ hn => ⟨(hpath hn).1, (hpath hn).2, hreg⟩, fun hf => by rw [hfree] at hf; cases hf⟩, hquiet.regs, hquiet.mem⟩
    · rw [hgrants, if_neg hfree, hcalm.tidy] at hgrant
      have hquiet := State.stir_quiet s s.cclk (rs := at1 (kCore core 0x0A) :: signalSpans) (by simp [signalSpans, schedSpan])
      obtain ⟨y, hy, hsame⟩ := CtxIs.stir (Lasting.unplaced (x := x) (by simp [hwait]) (fun hf => by simp [hwait] at hf) s.cclk) ⟨_, hx, rfl⟩
      have hlinks : (s.stir s.cclk).linkUse = s.linkUse := State.stir_keeps s _ State.linkUse (fun _ => rfl)
      rw [← hgrant] at hquiet hy hlinks
      exact ⟨⟨fun hf => absurd hf hfree, fun _ => ⟨⟨y, hy, Ctx.eq_of_unplaced Ctx.entry (fun _ => rfl) hsame,
        (Ctx.eq_of_unplaced Ctx.waiting (fun _ => rfl) hsame).trans hwait, Ctx.eq_of_unplaced Ctx.credits (fun _ => rfl) hsame⟩,
        hlinks⟩⟩, hquiet.regs, hquiet.mem⟩
  · intro s w dt core slot k x ws hw hup h hact hsound hheld hn
    have hdo := h.releaseEntry_eq hsound hheld
    rw [Fetched.words] at hdo
    obtain ⟨hold, hsteady, hlinks, hcloses, hquiet⟩ := h.releasing (ws.getD 0 0)
    generalize w.releasing k x (ws.getD 0 0) = v at hdo hsteady hlinks hcloses hquiet
    obtain ⟨-, -, -, hhalt, -⟩ := x.issued.recredited_fields (fun n => n - creditN (ws.getD 0 0)) (w.pathOf x (ws.getD 0 0)) hold w.cclk
    obtain ⟨t, hexec, ⟨y, hy, hsame⟩, hstirred, hkeeps, -⟩ := h.stirs (s := s) (c := .creditRelease dt core slot) hw hup rfl (by simp)
      (by rw [isOp, hact]; rfl) hdo hsteady (Lasting.recredited _ _ _ _ _ w.cclk) rfl
      (fun y hy => ((Ctx.eq_of_unplaced Ctx.halted (fun _ => rfl) hy).trans hhalt).trans h.unhalted)
    obtain ⟨hentry, -, hcredits⟩ := Ctx.fields_of_recredited hsame hn
    have hlater : t.later = v.later := hkeeps State.later (fun _ => rfl)
    have hused : t.linkUse = v.linkUse := hkeeps State.linkUse (fun _ => rfl)
    refine leads_of hexec ⟨⟨y, hy, hentry, hcredits⟩, fun l hl => ?_, ?_, h.entered_of core.2 hquiet hstirred⟩
    · show tget _ t.linkUse l = _
      rw [hused, hlinks]
      exact tget_onEach hn hl _
    · show _ ∈ t.later
      rw [hlater]
      exact hcloses
  · intro s w dt core slot k d x hw hup hcalm hslot hx hcore hwait hcancelled htimer hd
    have hexec : exec (.creditTimeout dt core slot) s =
        .next (w.sealed ((w.addReg (kCore core 0x0A) (d - x.issuedAt)).expire k (creditTact x.word) d)) := by
      refine exec_of_during rfl hw hup ?_
      rw [hslot]
      dsimp only
      rw [hwait, htimer]
      dsimp only
      rw [hcancelled, if_pos (by simpa using hd)]
    have hsteady : Steady k x (w.addReg (kCore core 0x0A) (d - x.issuedAt)) := Steady.of_eq ⟨hcalm, hx⟩ rfl rfl
    cases hb : creditTact x.word
    case true =>
      rw [hb] at hexec
      have hcount : (w.addReg (kCore core 0x0A) (d - x.issuedAt)).reg (key 0x2901 0x0C) = w.reg (key 0x2901 0x0C) :=
        State.reg_addReg_other _ _ (key_ne_sub (by decide))
      have hreg : (w.addReg (kCore core 0x0A) (d - x.issuedAt)).reg (kCore core 0x0A) =
        satAdd (widthOf (kCore core 0x0A)) (w.reg (kCore core 0x0A)) (d - x.issuedAt) :=
          (State.reg_addReg_same _ _).trans (Nat.mod_eq_of_lt (satAdd_lt _ _ _))
      have hadd : Quiet (at1 (kCore core 0x0A) :: signalSpans) w (w.addReg (kCore core 0x0A) (d - x.issuedAt)) :=
        (Quiet.refl w).addReg (covers_at1 List.mem_cons_self)
      have hexpired := hsteady.expire d
      have hlinked : (w.addReg (kCore core 0x0A) (d - x.issuedAt)).linkUse = w.linkUse := rfl
      generalize w.addReg (kCore core 0x0A) (d - x.issuedAt) = u at hexec hcount hreg hadd hexpired hlinked
      generalize u.expire k true d = t at hexec hexpired
      obtain ⟨⟨y, hy, hsame⟩, -, hlinks, hcounted, hquiet⟩ := hexpired
      have hall := hadd.trans (hquiet.sub (List.subset_cons_self _ _))
      have hcredits : y.credits = (x.complete d (x.entry + 1)).credits := Ctx.eq_of_unplaced Ctx.credits (fun _ => rfl) hsame
      refine leads_of hexec ⟨fun _ => ⟨⟨y, hy, ?_, ?_, hcredits⟩, hcounted.trans (by rw [hcount]), hlinks.trans hlinked, (hquiet.regs _ ?_).trans hreg,
        hall.regs, hall.mem⟩, fun h => by cases h⟩
      · exact Ctx.eq_of_unplaced Ctx.entry (fun _ => rfl) hsame
      · exact Ctx.eq_of_unplaced Ctx.waiting (fun _ => rfl) hsame
      · simp only [signalSpans, schedSpan, counterSpan, covers_cons, covers_nil, and_true, pages, kCore, key]
        omega
    case false =>
      rw [hb] at hexec
      have hfaulted := State.coreFault_faults hsteady.2 (hcore ▸ core.2) 4 0 (by omega)
      have hexpire : (w.addReg (kCore core 0x0A) (d - x.issuedAt)).expire k false d =
        (w.addReg (kCore core 0x0A) (d - x.issuedAt)).coreFault k 4 0 := if_neg Bool.false_ne_true
      rw [← hexpire] at hfaulted
      generalize (w.addReg (kCore core 0x0A) (d - x.issuedAt)).expire k false d = t at hexec hfaulted
      exact leads_of hexec ⟨fun h => (by cases h), fun _ => hfaulted.1⟩

end Sys2Proof.Machine
end

section
/-! What reset leaves (20 R483, R488). -/
namespace Sys2Proof.Machine

/-- Every function stands as one register of 2020h (16 Table 16-2), which is 0 at reset. -/
theorem entryOf_function {f : Nat} (h : f ∈ allFns) : entryOf (key 0x2020 f / 256) (key 0x2020 f % 256) = some (eRW 4 0 0) := by
  obtain ⟨hlo, hhi⟩ : 1 ≤ f ∧ f ≤ 0x8B := by
    simp only [allFns, List.mem_map, List.mem_range] at h
    omega
  have hix : key 0x2020 f / 256 = 0x2020 := by unfold key; omega
  have hsub : key 0x2020 f % 256 = f := by unfold key; omega
  have hin : within f 0x01 0x8B = true := by simp [within, hlo, hhi]
  rw [hix, hsub]
  show od2020 f = _
  unfold od2020
  rw [if_neg (by omega), if_pos hin]

/-- At reset every function is OFF. -/
theorem State.fn_reset {f : Nat} (h : f ∈ allFns) : State.reset.fn f = .off := by
  have hreg : State.reset.reg (key 0x2020 f) = 0 := by
    rw [State.reg_reset, resetVal, entryOf_function h]
    rfl
  rw [State.fn, hreg]
  rfl

/-- Settles O60: the state of the last step of power-on is written out, and 2020h holds the function states. -/
theorem resetLeavesTheModuleUp : Obligations.ResetLeavesTheModuleUp := by
  obtain ⟨hts, hacc, hstack, hext⟩ := Store.reset_wf
  exact ⟨⟨hts, hacc, hstack, hext, fun p hp => nomatch hp⟩, rfl, rfl, rfl, rfl, fun f hf => State.fn_reset hf, rfl, fun _ => rfl,
    fun _ => ⟨rfl, rfl, rfl, rfl⟩, rfl, rfl, rfl⟩

end Sys2Proof.Machine
end

section
/-! What leaves the memories and the contexts as they are (07 R192, R202, R206, R216). -/
namespace Sys2Proof.Machine

/-- `t` holds the memories and the contexts of `s`. -/
@[simp, reducible] def SameContents (s t : State) : Prop :=
  t.ts = s.ts ∧ t.acc = s.acc ∧ t.stack = s.stack ∧ t.ext = s.ext ∧ t.ctxs = s.ctxs

theorem SameContents.refl (s : State) : SameContents s s := ⟨rfl, rfl, rfl, rfl, rfl⟩

theorem SameContents.trans {s t u : State} (h : SameContents s t) (h' : SameContents t u) : SameContents s u := by
  obtain ⟨h1, h2, h3, h4, h5⟩ := h
  obtain ⟨g1, g2, g3, g4, g5⟩ := h'
  exact ⟨g1.trans h1, g2.trans h2, g3.trans h3, g4.trans h4, g5.trans h5⟩

theorem SameContents.ite {s a b : State} {c : Prop} [Decidable c] (ha : SameContents s a) (hb : SameContents s b) :
    SameContents s (if c then a else b) := by
  split
  · exact ha
  · exact hb

theorem SameContents.foldl {β γ : Type} {f : γ → β → γ} (g : γ → State) (hf : ∀ x y, SameContents (g x) (g (f x y)))
    (ys : List β) (x : γ) : SameContents (g x) (g (ys.foldl f x)) := by
  induction ys generalizing x with
  | nil => exact .refl _
  | cons y ys ih => exact (hf x y).trans (ih _)

variable (s : State)

@[simp] theorem contents_ite (c : Prop) [Decidable c] (a b : State) : (if c then a else b).ts = (if c then a.ts else b.ts) ∧
  (if c then a else b).acc = (if c then a.acc else b.acc) ∧ (if c then a else b).stack = (if c then a.stack else b.stack) ∧
  (if c then a else b).ext = (if c then a.ext else b.ext) ∧ (if c then a else b).ctxs = (if c then a.ctxs else b.ctxs) := by
  split_ifs <;> exact ⟨rfl, rfl, rfl, rfl, rfl⟩

@[simp] theorem contents_forEach {β : Type} (f : β → State → State) (hf : ∀ x u, SameContents u (f x u)) (xs : List β) :
    SameContents s (forEach xs s f) := SameContents.foldl id (fun u x => hf x u) xs s

/-- Reporting leaves the memories and the contexts. -/
theorem Reports.contents {s t : State} (h : Reports s t) : SameContents s t := by
  rw [← h.rest]
  exact ⟨rfl, rfl, rfl, rfl, rfl⟩

/-! Registers and units replaced. -/

theorem contents_setReg (k v : Nat) : SameContents s (s.setReg k v) := ⟨rfl, rfl, rfl, rfl, rfl⟩

theorem contents_setWin (w : Nat) (u : WinUnit) : SameContents s (s.setWin w u) := ⟨rfl, rfl, rfl, rfl, rfl⟩

theorem contents_setPort (p : Nat) (u : PortUnit) : SameContents s (s.setPort p u) := ⟨rfl, rfl, rfl, rfl, rfl⟩

theorem contents_setJob (j : Nat) (u : JobUnit) : SameContents s (s.setJob j u) := ⟨rfl, rfl, rfl, rfl, rfl⟩

theorem contents_setNet (p : Nat) (u : NetUnit) : SameContents s (s.setNet p u) := ⟨rfl, rfl, rfl, rfl, rfl⟩

/-! The state (00). -/

@[simp] theorem contents_sealed (t : State) : SameContents t (s.sealed t) := ⟨rfl, rfl, rfl, rfl, rfl⟩

@[simp] theorem contents_opens (c : Nat) (a : Effect) : SameContents s (s.opens c a) := ⟨rfl, rfl, rfl, rfl, rfl⟩

@[simp] theorem contents_closes (c rank : Nat) (a : Effect) : SameContents s (s.closes c rank a) := ⟨rfl, rfl, rfl, rfl, rfl⟩

@[simp] theorem contents_opensC (c rank : Nat) (a : Effect) : SameContents s (s.opensC c rank a) := ⟨rfl, rfl, rfl, rfl, rfl⟩

@[simp] theorem contents_closesC (c rank : Nat) (a : Effect) : SameContents s (s.closesC c rank a) := ⟨rfl, rfl, rfl, rfl, rfl⟩

@[simp] theorem contents_raiseAt (src c : Nat) (late : Bool) : SameContents s (s.raiseAt src c late) := by
  unfold State.raiseAt
  simp

@[simp] theorem contents_raise (src : Nat) : SameContents s (s.raise src) := by
  unfold State.raise
  simp

@[simp] theorem contents_addReg (k n : Nat) : SameContents s (s.addReg k n) := ⟨rfl, rfl, rfl, rfl, rfl⟩

@[simp] theorem contents_incReg (k : Nat) : SameContents s (s.incReg k) := ⟨rfl, rfl, rfl, rfl, rfl⟩

@[simp] theorem contents_setField (k hi lo v : Nat) : SameContents s (s.setField k hi lo v) := ⟨rfl, rfl, rfl, rfl, rfl⟩

@[simp] theorem contents_setBit (k i : Nat) (b : Bool) : SameContents s (s.setBit k i b) := ⟨rfl, rfl, rfl, rfl, rfl⟩

@[simp] theorem contents_readClear (k : Nat) : SameContents s (s.readClear k).2 := ⟨rfl, rfl, rfl, rfl, rfl⟩

@[simp] theorem contents_fresh (m : Nat) : SameContents s (s.fresh m).2 := ⟨rfl, rfl, rfl, rfl, rfl⟩

@[simp] theorem contents_setFn (f : Nat) (x : FnState) : SameContents s (s.setFn f x) := ⟨rfl, rfl, rfl, rfl, rfl⟩

@[simp] theorem contents_setPend (f : Nat) (b : Bool) : SameContents s (s.setPend f b) := ⟨rfl, rfl, rfl, rfl, rfl⟩

@[simp] theorem contents_loadHoldoff (k : Nat) : SameContents s (s.loadHoldoff k) := ⟨rfl, rfl, rfl, rfl, rfl⟩

@[simp] theorem contents_enqueue (r : EvRec) : SameContents s (s.enqueue r).1 :=
  (State.enqueue_reports s r).contents

@[simp] theorem contents_holdoffEnds (k : Nat) (h : Holdoff) : SameContents s (s.holdoffEnds k h).1 :=
  (State.holdoffEnds_reports s k h).contents

@[simp] theorem contents_holdoffFound (k : Nat) : SameContents s (s.holdoffFound k).1 :=
  (State.holdoffFound_reports s k).1.contents

@[simp] theorem contents_increment (k d : Nat) (l : Option (Nat × Nat)) : SameContents s (s.increment k d l).1 :=
  (State.increment_reports s k d l).1.contents

@[simp] theorem contents_countFuel (n k d : Nat) (l : Option (Nat × Nat)) : SameContents s (State.countFuel n s k d l) :=
  (State.countFuel_reports s n k d l).contents

@[simp] theorem contents_count (ix sub d : Nat) (l : Option (Nat × Nat)) : SameContents s (s.count ix sub d l) :=
  (State.count_reports s ix sub d l).contents

@[simp] theorem contents_countMany (n ix sub d : Nat) : SameContents s (s.countMany n ix sub d) :=
  SameContents.foldl id (fun u _ => contents_count u ix sub d none) _ s

@[simp] theorem contents_report (r : EvRec) : SameContents s (s.report r) :=
  (State.report_reports s r).contents

@[simp] theorem contents_enterFaulted (f : Nat) : SameContents s (s.enterFaulted f) := by
  unfold State.enterFaulted
  simp

/-! Bytes of the memories (07). -/

@[simp] theorem contents_setValid (c a h r : Nat) (b : Bool) : SameContents s (s.setValid c a h r b) := ⟨rfl, rfl, rfl, rfl, rfl⟩

@[simp] theorem contents_poisonAcc (b : Nat) : SameContents s (s.poisonAcc b) := ⟨rfl, rfl, rfl, rfl, rfl⟩

@[simp] theorem contents_foundBad (level a : Nat) : SameContents s (s.foundBad level a) := by
  unfold State.foundBad
  simp

@[simp] theorem contents_noticeBad (level sz a n : Nat) : SameContents s (s.noticeBad level sz a n) := by
  unfold State.noticeBad
  simp

theorem State.allot_contents {t : State} {pool owner n : Nat} (h : s.allot pool owner n = some t) : SameContents s t := by
  unfold State.allot at h
  split at h <;> cases h
  exact ⟨rfl, rfl, rfl, rfl, rfl⟩

@[simp] theorem contents_unallot (owner : Nat) : SameContents s (s.unallot owner) := ⟨rfl, rfl, rfl, rfl, rfl⟩

/-! Positions and events (02). -/

@[simp] theorem contents_countIn (d ix sub data : Nat) : SameContents s (s.countIn d ix sub data) := by
  unfold State.countIn
  simp

@[simp] theorem contents_gate (w c : Nat) : SameContents s (s.gate w c) := by
  unfold State.gate
  simp

@[simp] theorem contents_gateAll (src c : Nat) : SameContents s (s.gateAll src c) := by
  unfold State.gateAll
  simp

@[simp] theorem contents_reloadTimer (t c : Nat) : SameContents s (s.reloadTimer t c) := ⟨rfl, rfl, rfl, rfl, rfl⟩

@[simp] theorem contents_loadTimer (t c : Nat) : SameContents s (s.loadTimer t c) := ⟨rfl, rfl, rfl, rfl, rfl⟩

@[simp] theorem contents_awaitTimer (t c : Nat) : SameContents s (s.awaitTimer t c) := by
  unfold State.awaitTimer
  simp

@[simp] theorem contents_timeAll (src c : Nat) : SameContents s (s.timeAll src c) := by
  unfold State.timeAll
  simp

@[simp] theorem contents_captureAll (src : Nat) : SameContents s (s.captureAll src) := by
  unfold State.captureAll
  simp

@[simp] theorem contents_event (src c : Nat) : SameContents s (s.event src c) := by
  unfold State.event
  simp

@[simp] theorem contents_setWinState (w st : Nat) (late : Bool) :
    SameContents s (s.setWinState w st late) :=
  ⟨rfl, rfl, rfl, rfl, rfl⟩

@[simp] theorem contents_openWin (w : Nat) (late : Bool) : SameContents s (s.openWin w late) := by
  unfold State.openWin
  simp

@[simp] theorem contents_emptyWin (w c : Nat) : SameContents s (s.emptyWin w c) := by
  unfold State.emptyWin
  simp

@[simp] theorem contents_nextPeriod (w c : Nat) : SameContents s (s.nextPeriod w c) := by
  have h (a b : Nat) (u : WinUnit) :
      SameContents s (((s.setReg (key (0x2140 + w) 2) a).setReg (key (0x2140 + w) 3) b).setWin w u) :=
    (contents_setReg ..).trans ((contents_setReg ..).trans (contents_setWin ..))
  unfold State.nextPeriod
  exact .ite ((h ..).trans (contents_emptyWin ..)) ((h ..).trans (contents_opens ..))

@[simp] theorem contents_closeWin (w c : Nat) (late : Bool) : SameContents s (s.closeWin w c late) := by
  have h (u : WinUnit) (src : Nat) : SameContents s (((s.setWin w u).setWinState w 3 late).raiseAt src c) :=
    (contents_setWin ..).trans ((contents_setWinState ..).trans (contents_raiseAt ..))
  unfold State.closeWin
  exact .ite (h ..) ((h ..).trans (contents_nextPeriod ..))

@[simp] theorem contents_enterWin (w c : Nat) : SameContents s (s.enterWin w c) := by
  unfold State.enterWin
  simp

@[simp] theorem contents_armWin (w c : Nat) : SameContents s (s.armWin w c) := by
  unfold State.armWin
  exact .ite ((contents_setWin ..).trans ((contents_setWinState ..).trans (contents_emptyWin ..)))
    ((contents_setWin ..).trans (contents_enterWin ..))

@[simp] theorem contents_winEnter (w c : Nat) : SameContents s (s.winEnter w c) := by
  unfold State.winEnter
  simp

@[simp] theorem contents_disarmWin (w : Nat) : SameContents s (s.disarmWin w) := ⟨rfl, rfl, rfl, rfl, rfl⟩

@[simp] theorem contents_startWin (w h c : Nat) : SameContents s (s.startWin w h c) := by
  unfold State.startWin
  simp

@[simp] theorem contents_endWin (w h c : Nat) : SameContents s (s.endWin w h c) := by
  unfold State.endWin
  simp

@[simp] theorem contents_moveWin (w h c : Nat) : SameContents s (s.moveWin w h c) := by
  unfold State.moveWin
  simp

/-! Platform queues and valves (14). -/

@[simp] theorem contents_forgetPast (c : Nat) : SameContents s (s.forgetPast c) := by
  unfold State.forgetPast
  simp

@[simp] theorem contents_setShift (c : Nat) (x : Option Shift) : SameContents s (s.setShift c x) := ⟨rfl, rfl, rfl, rfl, rfl⟩

@[simp] theorem contents_startFrame (c : Nat) (imm : Bool) (d p st at_ : Nat) :
    SameContents s (s.startFrame c imm d p st at_) :=
  ⟨rfl, rfl, rfl, rfl, rfl⟩

@[simp] theorem contents_abandonStale (c t : Nat) : SameContents s (s.abandonStale c t) := by
  unfold State.abandonStale
  split <;> simp

@[simp] theorem contents_seekFrame (c t at_ : Nat) : SameContents s (s.seekFrame c t at_) := by
  unfold State.seekFrame
  split <;> simp

@[simp] theorem contents_driveDo (v : Nat) : SameContents s (s.driveDo v) := by
  unfold State.driveDo
  simp

@[simp] theorem contents_causes (c : Nat) : SameContents s (s.causes c) := ⟨rfl, rfl, rfl, rfl, rfl⟩

@[simp] theorem contents_judged : SameContents s (s.judged) := by
  unfold State.judged
  simp

@[simp] theorem contents_strobe (c : Nat) (late : Bool) : SameContents s (s.strobe c late) := by
  unfold State.strobe
  split <;> simp

@[simp] theorem contents_strobes (ch c : Nat) (late : Bool) : SameContents s (s.strobes ch c late) := ⟨rfl, rfl, rfl, rfl, rfl⟩

@[simp] theorem contents_pushPd (g : Nat) (e : FireEntry) : SameContents s (s.pushPd g e) := by
  unfold State.pushPd
  simp

@[simp] theorem contents_pushNet (g : Nat) (e : FireEntry) : SameContents s (s.pushNet g e) := by
  unfold State.pushNet
  simp

@[simp] theorem contents_reportEntry (g : Nat) (e : FireEntry) : SameContents s (s.reportEntry g e) := by
  unfold State.reportEntry
  simp

@[simp] theorem contents_addEntry (g : Nat) (e : FireEntry) : SameContents s (s.addEntry g e) := by
  unfold State.addEntry
  simp

@[simp] theorem contents_retireIf (g : Nat) (t : FireEntry → Bool) : SameContents s (s.retireIf g t) := by
  unfold State.retireIf
  simp

@[simp] theorem contents_commitOwn (g c : Nat) (e : FireEntry) : SameContents s (s.commitOwn g c e) := by
  unfold State.commitOwn
  simp

@[simp] theorem contents_takeDefault (g : Nat) (e : FireEntry) : SameContents s (s.takeDefault g e) := by
  unfold State.takeDefault
  simp

@[simp] theorem contents_defaultAll (g c : Nat) (t : FireEntry → Bool) : SameContents s (s.defaultAll g c t) := by
  unfold State.defaultAll
  simp

@[simp] theorem contents_refuseRec (src cause : Nat) (r : FireRec) : SameContents s (s.refuseRec src cause r) := by
  unfold State.refuseRec
  simp

@[simp] theorem contents_enterLate (g : Nat) (r : FireRec) : SameContents s (s.enterLate g r) := by
  unfold State.enterLate
  simp

@[simp] theorem contents_decideClaim (g c : Nat) (r : FireRec) : SameContents s (s.decideClaim g c r) := by
  unfold State.decideClaim
  split <;> simp

@[simp] theorem contents_admitRec (src : Nat) (dom : Option Nat) (r : FireRec) (c g : Nat) :
    SameContents s (s.admitRec src dom r c g) := by
  unfold State.admitRec
  simp

@[simp] theorem contents_enterRec (src : Nat) (dom : Option Nat) (r : FireRec) : SameContents s (s.enterRec src dom r) := by
  unfold State.enterRec
  simp

@[simp] theorem contents_routeRec (n src : Nat) (dom : Option Nat) (r : FireRec) :
    SameContents s (s.routeRec n src dom r) :=
  ⟨rfl, rfl, rfl, rfl, rfl⟩

@[simp] theorem contents_markVetoed (g t : Nat) : SameContents s (s.markVetoed g t) := by
  unfold State.markVetoed
  simp

@[simp] theorem contents_markAll : SameContents s (s.markAll) := by
  unfold State.markAll
  simp

@[simp] theorem contents_countOpened (g t : Nat) : SameContents s (s.countOpened g t) := by
  unfold State.countOpened
  simp

@[simp] theorem contents_alignedStrobe (ch d c : Nat) : SameContents s (s.alignedStrobe ch d c) := by
  unfold State.alignedStrobe
  split <;> simp

@[simp] theorem contents_groupsReached (d c : Nat) : SameContents s (s.groupsReached d c) := by
  unfold State.groupsReached
  simp

/-! Contexts and signals (05, 09). -/

@[simp] theorem contents_setHub (p n : Nat) (v : Sem) : SameContents s (s.setHub p n v) := ⟨rfl, rfl, rfl, rfl, rfl⟩

@[simp] theorem contents_setKept (core n : Nat) : SameContents s (s.setKept core n) := ⟨rfl, rfl, rfl, rfl, rfl⟩

@[simp] theorem contents_sendHub (k inc n c : Nat) (a : HubAct) :
    SameContents s (s.sendHub k inc n c a) :=
  ⟨rfl, rfl, rfl, rfl, rfl⟩

@[simp] theorem contents_grantHub (p n c : Nat) : SameContents s (s.grantHub p n c) := by
  unfold State.grantHub
  simp

@[simp] theorem contents_addHub (p n amount : Nat) (stamp : Option Nat) : SameContents s (s.addHub p n amount stamp) := by
  unfold State.addHub
  simp

@[simp] theorem contents_raiseHub (p n amount : Nat) (stamp : Option Nat) (c : Nat) :
    SameContents s (s.raiseHub p n amount stamp c) := by
  unfold State.raiseHub
  simp

@[simp] theorem contents_grantAllHub (c : Nat) : SameContents s (s.grantAllHub c) := by
  unfold State.grantAllHub
  simp

@[simp] theorem contents_holdChecked (k c : Nat) : SameContents s (s.holdChecked k c) := by
  unfold State.holdChecked
  simp

@[simp] theorem contents_externalSignal (j sem stamp : Nat) :
    SameContents s (s.externalSignal j sem stamp) :=
  ⟨rfl, rfl, rfl, rfl, rfl⟩

@[simp] theorem contents_setLink (l n : Nat) : SameContents s (s.setLink l n) := ⟨rfl, rfl, rfl, rfl, rfl⟩

@[simp] theorem contents_returnCredits (x : Ctx) : SameContents s (s.returnCredits x) := by
  unfold State.returnCredits
  simp

/-! Ports of the memories (07). -/

@[simp] theorem contents_noticeSpan (x : Span) : SameContents s (s.noticeSpan x) := by
  unfold State.noticeSpan
  simp

@[simp] theorem contents_noteDenial (w : Requester) : SameContents s (s.noteDenial w) := ⟨rfl, rfl, rfl, rfl, rfl⟩

@[simp] theorem contents_take (t : Nat) (ps : List Nat) : SameContents s (s.take t ps) := ⟨rfl, rfl, rfl, rfl, rfl⟩

/-! The matrix arrays (03). -/

@[simp] theorem contents_setArray (n : Nat) (x : ArrUnit) : SameContents s (s.setArray n x) := ⟨rfl, rfl, rfl, rfl, rfl⟩

@[simp] theorem contents_setHalf (n h : Nat) (x : HalfUnit) : SameContents s (s.setHalf n h x) := ⟨rfl, rfl, rfl, rfl, rfl⟩

@[simp] theorem contents_flagRows (c a base : Nat) (p : Pass) (j : Nat) (b : Bool) :
    SameContents s (s.flagRows c a base p j b) := by
  unfold State.flagRows
  simp

@[simp] theorem contents_countConds (k : Conds) (t : Nat) : SameContents s (s.countConds k t) := by
  unfold State.countConds
  simp

@[simp] theorem contents_wound (n h cause c : Nat) (p : Pass) : SameContents s (s.wound n h cause c p) := by
  unfold State.wound
  simp

@[simp] theorem contents_feedRead (n h : Nat) : SameContents s (s.feedRead n h) := by
  unfold State.feedRead
  split
  · exact .refl s
  · dsimp only
    split
    · simp
    · simp

@[simp] theorem contents_feedLost (n h : Nat) : SameContents s (s.feedLost n h) := by
  unfold State.feedLost
  simp

@[simp] theorem contents_a1Flight (n h t : Nat) (f : Flight) : SameContents s (s.a1Flight n h t f).1 := by
  unfold State.a1Flight
  split
  · split_ifs <;> simp
  · exact .refl s

theorem contents_eachFlight (n h : Nat) {g : State → Flight → State × Flight}
    (hg : ∀ u f, SameContents u (g u f).1) : SameContents s (s.eachFlight n h g) := by
  unfold State.eachFlight
  refine .ite (.refl s) (.trans ?_ (contents_setHalf ..))
  refine SameContents.foldl (γ := State × List Flight) Prod.fst (fun x f => ?_) _ (s, [])
  exact hg x.1 f

@[simp] theorem contents_loadRow (n h t : Nat) : SameContents s (s.loadRow n h t) := by
  unfold State.loadRow
  split <;> simp

@[simp] theorem contents_loadLost (n h t : Nat) : SameContents s (s.loadLost n h t) := ⟨rfl, rfl, rfl, rfl, rfl⟩

@[simp] theorem contents_suppress (n c : Nat) (f : Flight) : SameContents s (s.suppress n c f) := by
  unfold State.suppress
  split <;> simp

@[simp] theorem contents_drainHalf (n h k inc c : Nat) : SameContents s (s.drainHalf n h k inc c) := by
  unfold State.drainHalf
  simp

@[simp] theorem contents_recordArrayFault (n h cause tag : Nat) : SameContents s (s.recordArrayFault n h cause tag) := by
  unfold State.recordArrayFault
  simp

/-! The vector units (05). -/

@[simp] theorem contents_setVec (c : Nat) (x : VecUnit) : SameContents s (s.setVec c x) := ⟨rfl, rfl, rfl, rfl, rfl⟩

@[simp] theorem contents_vecLost (c : Nat) (write feeder : Bool) : SameContents s (s.vecLost c write feeder) := by
  unfold State.vecLost
  simp

/-! The shunters (05). -/

@[simp] theorem contents_setShunter (c n : Nat) (x : ShuntUnit) : SameContents s (s.setShunter c n x) := ⟨rfl, rfl, rfl, rfl, rfl⟩

@[simp] theorem contents_addKB (k n : Nat) : SameContents s (s.addKB k n) := ⟨rfl, rfl, rfl, rfl, rfl⟩

@[simp] theorem contents_readExt (ext : Store) (r len a n : Nat) : SameContents s (s.readExt ext r len a n).2 := by
  unfold State.readExt
  split
  · simp
  · dsimp only
    split <;> split <;> simp

@[simp] theorem contents_takeSlot (c who t a : Nat) : SameContents s (s.takeSlot c who t a).2 := ⟨rfl, rfl, rfl, rfl, rfl⟩

@[simp] theorem contents_takeSlots (c who t a n : Nat) : SameContents s (s.takeSlots c who t a n).2 := by
  unfold State.takeSlots
  refine SameContents.foldl Prod.snd (fun x w => ?_) _ (t, s)
  exact contents_takeSlot ..

@[simp] theorem contents_readPart (d : Desc) (sent : List (Nat × (Nat × List Marked))) (k ix o n : Nat) :
    SameContents s (s.readPart d sent k ix o n).2 := by
  unfold State.readPart
  dsimp only
  split
  · simp
  · dsimp only
    split <;> simp
  all_goals simp

@[simp] theorem contents_takeIndex (c n t : Nat) (d : Desc) : SameContents s (s.takeIndex c n t d) := by
  unfold State.takeIndex
  simp

@[simp] theorem contents_takePart (c n t : Nat) (d : Desc) : SameContents s (s.takePart c n t d) := by
  unfold State.takePart
  dsimp only
  split_ifs <;> simp

@[simp] theorem contents_sendRecord (core t : Nat) (d : Desc) (bs : List Marked) : SameContents s (s.sendRecord core t d bs) := by
  unfold State.sendRecord
  simp

@[simp] theorem contents_sendRecords (core t : Nat) (d : Desc) (xs : List Marked) :
    SameContents s (s.sendRecords core t d xs) := by
  unfold State.sendRecords
  simp

@[simp] theorem contents_carryOn : SameContents s (s.carryOn) := by
  unfold State.carryOn
  simp

@[simp] theorem contents_beginNext (c n : Nat) : SameContents s (s.beginNext c n) := by
  unfold State.beginNext
  dsimp only
  split <;> simp

@[simp] theorem contents_shunterLeaves (c n last : Nat) (d : Desc) : SameContents s (s.shunterLeaves c n last d) := by
  unfold State.shunterLeaves
  simp

@[simp] theorem contents_shuntRead (c n t : Nat) (ok : Requester → Bool) : SameContents s (s.shuntRead c n t ok) := by
  unfold State.shuntRead
  split <;> simp

@[simp] theorem contents_shuntLost (c n : Nat) (write : Bool) :
    SameContents s (s.shuntLost c n write) :=
  ⟨rfl, rfl, rfl, rfl, rfl⟩

@[simp] theorem contents_arrivalLost (c n t : Nat) : SameContents s (s.arrivalLost c n t) := ⟨rfl, rfl, rfl, rfl, rfl⟩

@[simp] theorem contents_readRest (c n t : Nat) (d : Desc) (m : Nat) : SameContents s (State.readRest c n t d m s) := by
  induction m generalizing s with
  | zero => exact .refl s
  | succ m ih =>
    unfold State.readRest
    dsimp only
    split_ifs <;> simp [ih]

@[simp] theorem contents_serveRuns : SameContents s s.serveRuns := by
  unfold State.serveRuns
  refine contents_forEach s _ (fun m u => ?_) _
  split
  · split_ifs <;> simp
  · exact .refl u

/-! The top-k units (08). -/

@[simp] theorem contents_setTopk (c : Nat) (x : TopkUnit) : SameContents s (s.setTopk c x) := ⟨rfl, rfl, rfl, rfl, rfl⟩

@[simp] theorem contents_topkRead (c t : Nat) : SameContents s (s.topkRead c t) := by
  unfold State.topkRead
  split <;> simp

@[simp] theorem contents_topkLost (c : Nat) : SameContents s (s.topkLost c) := ⟨rfl, rfl, rfl, rfl, rfl⟩

@[simp] theorem contents_tableLost (c t : Nat) : SameContents s (s.tableLost c t) := by
  unfold State.tableLost
  split <;> simp

/-! The units cycle by cycle. -/

@[simp] theorem contents_delayUnits (no : List Ask) (fed : List Nat) : SameContents s (s.delayUnits no fed) := by
  unfold State.delayUnits
  simp

@[simp] theorem contents_stallAll (t : Nat) : SameContents s (s.stallAll t) := by
  unfold State.stallAll
  refine contents_forEach s _ (fun a u => ?_) _
  split
  · split_ifs <;> simp
  · exact .refl u

@[simp] theorem contents_countWithheld (g : Grants) : SameContents s (s.countWithheld g) := by
  unfold State.countWithheld
  simp

/-! The life of contexts (09). -/

@[simp] theorem contents_loseSeqs (j : Nat) : SameContents s (s.loseSeqs j) := ⟨rfl, rfl, rfl, rfl, rfl⟩

@[simp] theorem contents_endUse (j : Nat) : SameContents s (s.endUse j) := by
  unfold State.endUse
  simp

@[simp] theorem contents_releaseJob (j : Nat) : SameContents s (s.releaseJob j) := by
  unfold State.releaseJob
  simp

@[simp] theorem contents_jobGone (j : Nat) : SameContents s (s.jobGone j) := by
  unfold State.jobGone
  simp

@[simp] theorem contents_returnHeld (k : Nat) (x : Ctx) (c : Nat) : SameContents s (s.returnHeld k x c) := by
  unfold State.returnHeld
  simp

@[simp] theorem contents_withdraw (k : Nat) : SameContents s (s.withdraw k) := by
  unfold State.withdraw
  simp

@[simp] theorem contents_discardWork (core k inc c : Nat) : SameContents s (s.discardWork core k inc c) := by
  unfold State.discardWork
  simp

@[simp] theorem contents_recordCoreFault (k : Nat) (x : Ctx) (cause tag entry : Nat) :
    SameContents s (s.recordCoreFault k x cause tag entry) := by
  unfold State.recordCoreFault
  refine .trans ?_ (contents_count ..)
  refine .trans ?_ (contents_setReg ..)
  refine .trans ?_ (contents_setReg ..)
  simp

@[simp] theorem contents_haunt (k : Nat) (x : Ctx) (c : Nat) : SameContents s (s.haunt k x c) := by
  unfold State.haunt
  split <;> simp

/-! Entries of the sequencers (05). -/

@[simp] theorem contents_fetched (k : Nat) (x : Ctx) : SameContents s (s.fetched k x) := by
  unfold State.fetched
  simp

@[simp] theorem contents_semLaneAdd (k : Nat) (x : Ctx) (w : Nat) :
    SameContents s (s.semLaneAdd k x w) :=
  ⟨rfl, rfl, rfl, rfl, rfl⟩

@[simp] theorem contents_grantsHub (c : Nat) : SameContents s (s.grantsHub c) := by
  unfold State.grantsHub
  simp

@[simp] theorem contents_publish (k : Nat) (v : Option Nat) : SameContents s (s.publish k v) := by
  unfold State.publish
  simp

@[simp] theorem contents_published (j : Nat) (v : Option Nat) : SameContents s (s.published j v) := by
  unfold State.published
  split <;> simp

@[simp] theorem contents_deadBase (k : Nat) (x : Ctx) (ws : List Nat) : SameContents s (s.deadBase k x ws).2 := by
  unfold State.deadBase
  dsimp only
  split_ifs <;> simp

/-! Work of the matrix arrays (03). -/

@[simp] theorem contents_passQueue (n : Nat) (p : Pass) (c : Nat) :
    SameContents s (s.passQueue n p c) :=
  ⟨rfl, rfl, rfl, rfl, rfl⟩

@[simp] theorem contents_startPass (n h : Nat) (p : Pass) (w : Weights) : SameContents s (s.startPass n h p w) := by
  unfold State.startPass
  dsimp only
  split <;> simp

/-! Slices, moves and the model cache (09). -/

@[simp] theorem contents_setPart (p : Nat) (x : PartUnit) : SameContents s (s.setPart p x) := ⟨rfl, rfl, rfl, rfl, rfl⟩

@[simp] theorem contents_passBoundary (p : Nat) : SameContents s (s.passBoundary p) := by
  unfold State.passBoundary
  simp

@[simp] theorem contents_setTargets (core : Nat) (ts : List Nat) :
    SameContents s (s.setTargets core ts) :=
  ⟨rfl, rfl, rfl, rfl, rfl⟩

@[simp] theorem contents_putFlags (x : Ctx) (bs : Bytes) : SameContents s (s.putFlags x bs) := by
  unfold State.putFlags
  simp

@[simp] theorem contents_dropEntry (e : CacheEntry) : SameContents s (s.dropEntry e) := ⟨rfl, rfl, rfl, rfl, rfl⟩

theorem State.placeEntry_contents (keep : List (Bool × Nat)) (n : Nat) {t : State} {e : CacheEntry}
    (h : State.placeEntry keep n s e = some t) : SameContents s t := by
  obtain ⟨f, hf⟩ : ∃ f, f = @State.placeEntry := ⟨_, rfl⟩
  obtain ⟨fit, hfit⟩ : ∃ fit, fit = lowestFit := ⟨_, rfl⟩
  rw [← hf] at h
  delta State.placeEntry State.placeEntry._f at hf
  rw [← hfit] at hf
  subst hf
  clear hfit
  induction n generalizing s e with
  | zero => cases h
  | succ n ih =>
    dsimp only at h
    split at h
    · cases h
      exact ⟨rfl, rfl, rfl, rfl, rfl⟩
    · split at h
      · cases h
      · exact .trans (by simp) (ih _ h)

theorem State.placeJob_contents {t : State} {set : List Nat} {j : Nat} (h : s.placeJob set j = some t) :
    SameContents s t := by
  have hfold : ∀ (f : State → CacheEntry → Option State), (∀ u e v, f u e = some v → SameContents u v) →
      ∀ (es : List CacheEntry) (o : Option State), (∀ u, o = some u → SameContents s u) →
        ∀ v, es.foldl (fun o e => o.bind (fun u => f u e)) o = some v → SameContents s v := by
    intro f hf es
    induction es with
    | nil => exact fun o ho v hv => ho v hv
    | cons e es ih =>
      refine fun o ho => ih _ (fun u hu => ?_)
      obtain ⟨w, hw, hu⟩ := Option.bind_eq_some_iff.1 hu
      exact (ho w hw).trans (hf _ _ _ hu)
  refine hfold _ (fun u e v hv => ?_) _ _ (fun u hu => ?_) t h
  · split_ifs at hv
    · cases hv
      simp
    · cases hv
      exact .refl u
    · obtain ⟨w, hw, rfl⟩ := Option.map_eq_some_iff.1 hv
      exact (State.placeEntry_contents u _ _ hw).trans (by simp)
  · cases hu
    exact .refl s

@[simp] theorem contents_markLoaded (j : Nat) : SameContents s (s.markLoaded j) := ⟨rfl, rfl, rfl, rfl, rfl⟩

@[simp] theorem contents_flushCache : SameContents s (s.flushCache) := ⟨rfl, rfl, rfl, rfl, rfl⟩

/-! Reference banks (08). -/

theorem State.allotHot_contents {t : State} {b : Nat} (h : s.allotHot b = some t) : SameContents s t := by
  unfold State.allotHot at h
  split_ifs at h
  · cases h
    exact .refl s
  · exact State.allot_contents s h

theorem State.createBank_contents {t : State} {b : Nat} (h : s.createBank b = some t) : SameContents s t := by
  unfold State.createBank at h
  dsimp only at h
  split_ifs at h
  split at h
  · cases h
  · obtain ⟨u, hu, rfl⟩ := Option.map_eq_some_iff.1 h
    exact (State.allotHot_contents s hu).trans ⟨rfl, rfl, rfl, rfl, rfl⟩

@[simp] theorem contents_deleteBank (b : Nat) : SameContents s (s.deleteBank b) := by
  unfold State.deleteBank
  simp

@[simp] theorem contents_dropEnrol : SameContents s (s.dropEnrol) := by
  unfold State.dropEnrol
  simp

/-! External signals and fire records (05, 14). -/

@[simp] theorem contents_fireRecord (k : RecKind) (core job : Nat) (bs : Bytes) :
    SameContents s (s.fireRecord k core job bs) := by
  unfold State.fireRecord
  simp

@[simp] theorem contents_groupStops (g : Nat) : SameContents s (s.groupStops g) := by
  unfold State.groupStops
  simp

@[simp] theorem contents_stopOverdue (g : Nat) : SameContents s (s.stopOverdue g) := by
  unfold State.stopOverdue
  simp

@[simp] theorem contents_groupStopping (g : Nat) : SameContents s (s.groupStopping g) := ⟨rfl, rfl, rfl, rfl, rfl⟩

@[simp] theorem contents_groupEnters (g : Nat) : SameContents s (s.groupEnters g) := ⟨rfl, rfl, rfl, rfl, rfl⟩

/-! The field section (15). -/

@[simp] theorem contents_takeVeto : SameContents s (s.takeVeto) := by
  unfold State.takeVeto
  simp

@[simp] theorem contents_noteChange (d : Nat) : SameContents s (s.noteChange d) := ⟨rfl, rfl, rfl, rfl, rfl⟩

@[simp] theorem contents_restartCount (d : Nat) : SameContents s (s.restartCount d) := by
  unfold State.restartCount
  simp

@[simp] theorem contents_diLevel (d : Nat) (on : Bool) : SameContents s (s.diLevel d on) := by
  unfold State.diLevel
  simp

@[simp] theorem contents_outEn (high : Bool) : SameContents s (s.outEn high) := by
  unfold State.outEn
  simp

@[simp] theorem contents_pulseOne (d : Nat) (on : Bool) : SameContents s (s.pulseOne d on) := by
  unfold State.pulseOne
  simp

/-! Sensor streams (11). -/

@[simp] theorem contents_showPend (p : Nat) : SameContents s (s.showPend p) := ⟨rfl, rfl, rfl, rfl, rfl⟩

@[simp] theorem contents_countPart (q : Nat) (x : LinePart) : SameContents s (s.countPart q x) := by
  unfold State.countPart
  simp

@[simp] theorem contents_deliver (q p : Nat) (x : LinePart) : SameContents s (s.deliver q p x) := by
  unfold State.deliver
  simp

@[simp] theorem contents_fillLine (q p v reason : Nat) : SameContents s (s.fillLine q p v reason) := by
  unfold State.fillLine
  simp

@[simp] theorem contents_drainMarked (n q p : Nat) : SameContents s (State.drainMarked n s q p) := by
  induction n generalizing s with
  | zero => exact .refl s
  | succ n ih =>
    unfold State.drainMarked
    split
    · split_ifs
      · exact .trans (by simp) (ih _)
      · exact .refl s
    · exact .refl s

@[simp] theorem contents_enterPair (q p v : Nat) (missed : Bool) : SameContents s (s.enterPair q p v missed) := by
  unfold State.enterPair
  dsimp only
  split
  · split_ifs <;> simp
  · simp

@[simp] theorem contents_fillBefore (q v : Nat) : SameContents s (s.fillBefore q v) := by
  unfold State.fillBefore
  simp

@[simp] theorem contents_portTrigger (q v : Nat) (missed : Bool) : SameContents s (s.portTrigger q v missed) := by
  unfold State.portTrigger
  simp

@[simp] theorem contents_expirePairs (n q p : Nat) : SameContents s (State.expirePairs n s q p) := by
  induction n generalizing s with
  | zero => exact .refl s
  | succ n ih =>
    unfold State.expirePairs
    split
    · dsimp only
      split_ifs
      · exact .trans (by simp) (ih _)
      · exact .refl s
    · exact .refl s

@[simp] theorem contents_pairStart (q p : Nat) : SameContents s (s.pairStart q p).2 := by
  unfold State.pairStart
  split_ifs
  · exact .refl s
  · dsimp only
    split
    · split_ifs <;> simp
    · simp

@[simp] theorem contents_dropUntriggered (q : Nat) : SameContents s (s.dropUntriggered q) := by
  unfold State.dropUntriggered
  simp

@[simp] theorem contents_formTags (q : Nat) : SameContents s (s.formTags q) := contents_setReg ..

/-! Line time (02). -/

@[simp] theorem contents_matchRegs (n : Nat) (late : Bool) : SameContents s (s.matchRegs n late) := by
  unfold State.matchRegs
  simp

@[simp] theorem contents_matchTell (n : Nat) : SameContents s (s.matchTell n) := by
  unfold State.matchTell
  simp

@[simp] theorem contents_judgeCmp (n c : Nat) (late : Bool) : SameContents s (s.judgeCmp n c late) := by
  unfold State.judgeCmp
  simp

@[simp] theorem contents_armCmp (n c : Nat) : SameContents s (s.armCmp n c) := by
  unfold State.armCmp
  exact .ite ((contents_setBit ..).trans (contents_closes ..)) (contents_setBit ..)

@[simp] theorem contents_disarmCmp (n : Nat) : SameContents s (s.disarmCmp n) := ⟨rfl, rfl, rfl, rfl, rfl⟩

@[simp] theorem contents_arstCmp (n : Nat) : SameContents s (s.arstCmp n) := by
  unfold State.arstCmp
  exact .ite (.ite (contents_disarmCmp ..) ((contents_setReg ..).trans (contents_setBit ..))) (contents_setBit ..)

@[simp] theorem contents_arstWin (w c : Nat) : SameContents s (s.arstWin w c) := by
  unfold State.arstWin
  extract_lets st en pitch h arm
  have hclosed (u : WinUnit) : SameContents s ((s.setWin w u).setWinState w 3 false) :=
    (contents_setWin ..).trans (contents_setWinState ..)
  have harm (a b : Nat) : SameContents s (arm s a b) :=
    .trans ((contents_setReg ..).trans ((contents_setReg ..).trans (contents_setWin ..)))
      (.ite (contents_openWin ..) (contents_setWinState ..))
  split
  · exact (hclosed ..).trans (contents_emptyWin ..)
  · split
    · split
      · exact hclosed ..
      · exact harm ..
    · exact harm ..

@[simp] theorem contents_domainEnters (d c : Nat) : SameContents s (s.domainEnters d c) := by
  have hevery {n : Nat} {p : Nat → State → Prop} [∀ i u, Decidable (p i u)] {f : State → Nat → State}
      (hf : ∀ u i, SameContents u (f u i)) (u : State) :
      SameContents u (forEach (upTo n) u (fun i v => if p i v then f v i else v)) :=
    contents_forEach u _ (fun i v => .ite (hf v i) (.refl v)) _
  unfold State.domainEnters
  extract_lets k pload s₁ s₂ s₃ s₄ s₅ s₆ s₇ s₈
  have h₁ : SameContents s s₁ := contents_setFn ..
  have h₂ : SameContents s s₂ := h₁.trans ((contents_setReg ..).trans ((contents_setReg ..).trans (contents_setReg ..)))
  have h₄ : SameContents s s₄ := (h₂.trans (contents_setBit ..)).trans (hevery (fun u n => contents_disarmCmp u n) _)
  have h₅ : SameContents s s₅ :=
    .ite (h₄.trans (hevery (fun u w => contents_disarmWin u w) _)) (h₁.trans (contents_setReg ..))
  have h₆ : SameContents s s₆ := h₅.trans ⟨rfl, rfl, rfl, rfl, rfl⟩
  have h₇ : SameContents s s₇ := h₆.trans ((contents_setReg ..).trans ((contents_setReg ..).trans (contents_setReg ..)))
  have h₈ : SameContents s s₈ := h₇.trans (hevery (fun u n => contents_arstCmp u n) _)
  exact h₈.trans (hevery (fun u w => contents_arstWin u w c) _)

@[simp] theorem contents_conditionTrig (p v c : Nat) : SameContents s (s.conditionTrig p v c) := by
  unfold State.conditionTrig
  simp

@[simp] theorem contents_countTimers (d c : Nat) : SameContents s (s.countTimers d c) := by
  unfold State.countTimers
  simp

@[simp] theorem contents_moveWins (d h c : Nat) : SameContents s (s.moveWins d h c) := by
  unfold State.moveWins
  simp

@[simp] theorem contents_valuesReached (d c : Nat) : SameContents s (s.valuesReached d c) := by
  unfold State.valuesReached
  simp

@[simp] theorem contents_timerTell (t : Nat) : SameContents s (s.timerTell t) := by
  unfold State.timerTell
  simp

@[simp] theorem contents_deliverEvent (src : Nat) (late : Bool) : SameContents s (s.deliverEvent src late) := by
  unfold State.deliverEvent
  simp

@[simp] theorem contents_stalls (d : Nat) : SameContents s (s.stalls d) := by
  unfold State.stalls
  simp

@[simp] theorem contents_speedOf (d c : Nat) : SameContents s (s.speedOf d c) := ⟨rfl, rfl, rfl, rfl, rfl⟩

@[simp] theorem contents_measure (d c : Nat) : SameContents s (s.measure d c) := by
  unfold State.measure
  simp

@[simp] theorem contents_advance (d c : Nat) (hold : Bool) : SameContents s (s.advance d c hold).1 := by
  unfold State.advance
  dsimp only
  split_ifs <;> simp

@[simp] theorem contents_countReversals (d : Nat) : SameContents s (s.countReversals d) := by
  unfold State.countReversals
  simp

@[simp] theorem contents_applyCount (d c : Nat) (rev : Bool) : SameContents s (s.applyCount d c rev).1 := by
  unfold State.applyCount
  dsimp only
  split_ifs <;> simp

@[simp] theorem contents_countDomains (src c : Nat) (rev : Bool) (ev : Option Nat) :
    SameContents s (s.countDomains src c rev ev) := by
  unfold State.countDomains
  split <;> simp

@[simp] theorem contents_setLevels (e : Nat) (a b : Bool) : SameContents s (s.setLevels e a b) := ⟨rfl, rfl, rfl, rfl, rfl⟩

@[simp] theorem contents_countPeriod (e c : Nat) : SameContents s (s.countPeriod e c) := by
  unfold State.countPeriod
  split <;> simp

@[simp] theorem contents_rawCount (e : Nat) (rev : Bool) : SameContents s (s.rawCount e rev) := ⟨rfl, rfl, rfl, rfl, rfl⟩

@[simp] theorem contents_markCount (e c : Nat) : SameContents s (s.markCount e c) := ⟨rfl, rfl, rfl, rfl, rfl⟩

@[simp] theorem contents_encoderCounts (e : Nat) (rev : Bool) : SameContents s (s.encoderCounts e rev) := by
  unfold State.encoderCounts
  simp

@[simp] theorem contents_takeZ (e : Nat) : SameContents s (s.takeZ e) := ⟨rfl, rfl, rfl, rfl, rfl⟩

@[simp] theorem contents_zRegistered (e : Nat) : SameContents s (s.zRegistered e) := by
  unfold State.zRegistered
  simp

@[simp] theorem contents_faultDomain (e d : Nat) : SameContents s (s.faultDomain e d) := by
  unfold State.faultDomain
  simp

@[simp] theorem contents_inputFault (e : Nat) : SameContents s (s.inputFault e) := by
  unfold State.inputFault
  simp

@[simp] theorem contents_expireTimer (t : Nat) : SameContents s (s.expireTimer t) := by
  unfold State.expireTimer
  simp

@[simp] theorem contents_refreshSlack : SameContents s s.refreshSlack := by
  unfold State.refreshSlack
  refine .trans ⟨rfl, rfl, rfl, rfl, rfl⟩ (contents_forEach { s with slackAt := some s.sclk } _ (fun j u => ?_) _)
  refine .ite ?_ (contents_setReg ..)
  split
  · exact contents_setReg ..
  · exact .refl u

/-! Continuous batching (09). -/

@[simp] theorem contents_setSeq (j n : Nat) (x : Seq) : SameContents s (s.setSeq j n x) := ⟨rfl, rfl, rfl, rfl, rfl⟩

@[simp] theorem contents_dropBatch (j : Nat) : SameContents s (s.dropBatch j) := by
  unfold State.dropBatch
  simp

@[simp] theorem contents_joinRecord (j : Nat) (bs : Bytes) : SameContents s (s.joinRecord j bs) := by
  unfold State.joinRecord
  simp

@[simp] theorem contents_leaveRecord (j : Nat) (bs : Bytes) : SameContents s (s.leaveRecord j bs) := by
  unfold State.leaveRecord
  simp

@[simp] theorem contents_freeSeqs (j : Nat) : SameContents s (s.freeSeqs j) := by
  unfold State.freeSeqs
  simp

@[simp] theorem contents_placeJoin (j : Nat) (a : Join) : SameContents s (s.placeJoin j a) := by
  unfold State.placeJoin
  dsimp only
  split <;> simp

@[simp] theorem contents_stepRecord (k inc : Nat) (bs : Bytes) : SameContents s (s.stepRecord k inc bs) := by
  unfold State.stepRecord
  simp

@[simp] theorem contents_batchRecord (k inc : Nat) (bs : Bytes) : SameContents s (s.batchRecord k inc bs) := by
  unfold State.batchRecord
  split <;> simp

@[simp] theorem contents_batchFrom (core slot cmd : Nat) (bs : Bytes) : SameContents s (s.batchFrom core slot cmd bs) := by
  unfold State.batchFrom
  split <;> simp

/-! The image front end (12). -/

@[simp] theorem contents_setIfe (q : Nat) (x : IfeUnit) : SameContents s (s.setIfe q x) := ⟨rfl, rfl, rfl, rfl, rfl⟩

@[simp] theorem contents_abandon (lowest b : Nat) : SameContents s (s.abandon lowest b) := by
  unfold State.abandon
  simp

@[simp] theorem contents_blockComplete (q b v : Nat) : SameContents s (s.blockComplete q b v) := by
  unfold State.blockComplete
  simp

theorem State.enterChain_contents {t : State} {q : Nat} (h : s.enterChain q = some t) : SameContents s t := by
  unfold State.enterChain at h
  dsimp only at h
  split_ifs at h <;> cases h <;> simp

@[simp] theorem contents_ifeEnters (q : Nat) : SameContents s (s.ifeEnters q) := by
  unfold State.ifeEnters
  simp

@[simp] theorem contents_ifeLeaves (q : Nat) : SameContents s (s.ifeLeaves q) := by
  unfold State.ifeLeaves
  simp

@[simp] theorem contents_breakBlock (q : Nat) : SameContents s (s.breakBlock q) := by
  unfold State.breakBlock
  simp

/-! Sample intake (13). -/

@[simp] theorem contents_armRoi (i : Nat) : SameContents s (s.armRoi i) := by
  unfold State.armRoi
  dsimp only
  split <;> simp

@[simp] theorem contents_roiOverdue (i : Nat) : SameContents s (s.roiOverdue i) := by
  unfold State.roiOverdue
  dsimp only
  split <;> simp

@[simp] theorem contents_takeSubmission (i : Nat) (h data : Bytes) : SameContents s (s.takeSubmission i h data) := by
  unfold State.takeSubmission
  simp

@[simp] theorem contents_engineDone (engine i ix : Nat) (r : Nat × Nat × Nat) : SameContents s (s.engineDone engine i ix r) := by
  unfold State.engineDone
  simp

@[simp] theorem contents_dropIntake (i : Nat) : SameContents s (s.dropIntake i) := by
  unfold State.dropIntake
  simp

@[simp] theorem contents_intakePort (j : Nat) (bs : Bytes) : SameContents s (s.intakePort j bs) := by
  unfold State.intakePort
  simp

@[simp] theorem contents_intakeEnters (i : Nat) : SameContents s (s.intakeEnters i) := by
  unfold State.intakeEnters
  simp

@[simp] theorem contents_intakeLeaves (i : Nat) : SameContents s (s.intakeLeaves i) := ⟨rfl, rfl, rfl, rfl, rfl⟩

/-! The network ports (18). -/

@[simp] theorem contents_netCount (p sub : Nat) : SameContents s (s.netCount p sub) := by
  unfold State.netCount
  simp

@[simp] theorem contents_addHalf (k : Nat) (upper : Bool) : SameContents s (s.addHalf k upper) := ⟨rfl, rfl, rfl, rfl, rfl⟩

@[simp] theorem contents_tryLane (l : Nat) (ts : List LaneTrial) : SameContents s (s.tryLane l ts).1 := by
  unfold State.tryLane
  dsimp only
  split <;> simp

@[simp] theorem contents_setLstate (p v : Nat) : SameContents s (s.setLstate p v) := ⟨rfl, rfl, rfl, rfl, rfl⟩

@[simp] theorem contents_linkDown (p : Nat) : SameContents s (s.linkDown p) := by
  unfold State.linkDown
  simp

@[simp] theorem contents_loseLink (p : Nat) : SameContents s (s.loseLink p) := by
  unfold State.loseLink
  simp

@[simp] theorem contents_netGone (p : Nat) : SameContents s (s.netGone p) := by
  unfold State.netGone
  simp

@[simp] theorem contents_sendPause (p : Nat) : SameContents s (s.sendPause p) := by
  unfold State.sendPause
  simp

@[simp] theorem contents_pauseCheck (p : Nat) : SameContents s (s.pauseCheck p) := by
  have h (u : NetUnit) : SameContents s ((s.setNet p u).sendPause p) :=
    (contents_setNet ..).trans (contents_sendPause ..)
  unfold State.pauseCheck
  refine .ite ?_ (.refl s)
  extract_lets free x u
  split
  · exact .ite (h _) (.refl s)
  · exact .ite (h _) (.refl s)

@[simp] theorem contents_askHop (p a : Nat) : SameContents s (s.askHop p a) := by
  unfold State.askHop
  simp

@[simp] theorem contents_nextSeq (p cls stream : Nat) : SameContents s (s.nextSeq p cls stream).2 := ⟨rfl, rfl, rfl, rfl, rfl⟩

@[simp] theorem contents_formVerdict (p : Nat) : SameContents s (s.formVerdict p) := ⟨rfl, rfl, rfl, rfl, rfl⟩

@[simp] theorem contents_choose (p : Nat) : SameContents s (s.choose p) := by
  have hgo (u : State) (k : TxKind) : SameContents u (u.setNet p { u.net p with tx := some k }) := contents_setNet ..
  have hask (u : State) (m : OutMsg) : SameContents u (u.askHop p m.addr) := contents_askHop ..
  unfold State.choose
  extract_lets u q go ready s₁ s₂ s₃ v s₄
  have h₁ : SameContents s s₁ := by
    cases hn : u.notices with
    | nil => simp [s₁, hn]
    | cons m ms => simpa only [s₁, hn] using hask s m
  have h₂ : SameContents s s₂ := by
    cases hn : u.results with
    | nil => simpa only [s₂, hn] using h₁
    | cons m ms => simpa only [s₂, hn] using h₁.trans (hask s₁ m)
  have h₃ : SameContents s s₃ := .ite (h₂.trans (contents_formVerdict ..)) h₂
  have h₄ : SameContents s s₄ := by
    cases hn : v with
    | none => simpa only [s₄, hn] using h₃
    | some m => simpa only [s₄, hn] using h₃.trans (hask s₃ m)
  exact .ite (.refl s) (.ite (hgo ..) (.ite (hgo ..) (.ite (h₂.trans (hgo ..)) (.ite (h₄.trans (hgo ..))
    (.ite (h₄.trans (hgo ..)) h₄)))))

@[simp] theorem contents_messageSent (p : Nat) : SameContents s (s.messageSent p) := by
  unfold State.messageSent
  simp

@[simp] theorem contents_finishSegment (p : Nat) : SameContents s (s.finishSegment p) := by
  unfold State.finishSegment
  dsimp only
  split
  · exact .refl s
  · refine .trans (contents_netCount s p 0x12) ?_
    split
    · exact contents_setNet ..
    · exact (contents_setNet ..).trans (contents_messageSent ..)
    · exact (contents_setNet ..).trans (contents_messageSent ..)
    · split
      · exact contents_setNet ..
      · exact .ite ((contents_setNet ..).trans (contents_messageSent ..)) (contents_setNet ..)

@[simp] theorem contents_acceptResult (i : Nat) (xs : List Marked) : SameContents s (s.acceptResult i xs) := by
  unfold State.acceptResult
  split <;> simp

@[simp] theorem contents_discardFrame (p : Nat) : SameContents s (s.discardFrame p) := by
  unfold State.discardFrame
  simp

@[simp] theorem contents_learn (p a mac : Nat) : SameContents s (s.learn p a mac) := by
  unfold State.learn
  simp

@[simp] theorem contents_discardMessage (p : Nat) (m : InMsg) (reason : Nat) : SameContents s (s.discardMessage p m reason) := by
  unfold State.discardMessage
  simp

@[simp] theorem contents_closeOpen (p : Nat) (m : InMsg) : SameContents s (s.closeOpen p m) := ⟨rfl, rfl, rfl, rfl, rfl⟩

@[simp] theorem contents_reassemblyOver (p : Nat) (m : InMsg) : SameContents s (s.reassemblyOver p m) := by
  unfold State.reassemblyOver
  simp

@[simp] theorem contents_complete (p : Nat) (m : InMsg) : SameContents s (s.complete p m) := by
  unfold State.complete
  simp

@[simp] theorem contents_fill (p : Nat) (m : InMsg) (off : Nat) (bs : Bytes) : SameContents s (s.fill p m off bs) := by
  unfold State.fill
  simp

@[simp] theorem contents_openMessage (p : Nat) (m : InMsg) (bs : Bytes) : SameContents s (s.openMessage p m bs) := by
  unfold State.openMessage
  split <;> simp

@[simp] theorem contents_dropReady (p : Nat) (m : InMsg) : SameContents s (s.dropReady p m) := by
  unfold State.dropReady
  simp

@[simp] theorem contents_handSample (p : Nat) (m : InMsg) : SameContents s (s.handSample p m) := by
  unfold State.handSample
  simp

@[simp] theorem contents_netEnters (p : Nat) : SameContents s (s.netEnters p) := by
  unfold State.netEnters
  simp

@[simp] theorem contents_doze (p : Nat) : SameContents s (s.doze p) := by
  unfold State.doze
  simp

@[simp] theorem contents_netStopping (p : Nat) : SameContents s (s.netStopping p) := by
  unfold State.netStopping
  simp

@[simp] theorem contents_netStops (p : Nat) : SameContents s (s.netStops p) := by
  unfold State.netStops
  simp

/-! Sensor control (11). -/

@[simp] theorem contents_sccEnd (k : Nat) (r : SccRec) (status : Nat) (read : Bytes) :
    SameContents s (s.sccEnd k r status read) := by
  unfold State.sccEnd
  extract_lets u p q n got lo hi s₁ s₂ s₃ lines started total cnt _ s₄
  have h₂ : SameContents s s₂ :=
    .trans (by simp [s₁]) ((contents_setReg ..).trans ((contents_setReg ..).trans (contents_addReg ..)))
  have h₃ : SameContents s s₃ := .ite (h₂.trans ((contents_addReg ..).trans (contents_count ..))) h₂
  have h₄ : SameContents s s₄ := .ite (h₃.trans (contents_setPort ..)) h₃
  split
  · exact .ite (h₄.trans (contents_opensC ..)) h₄
  · exact h₄

/-! The issue of shunter descriptors (05). -/

@[simp] theorem contents_shunterQueue (core n : Nat) (d : Desc) (c : Nat) :
    SameContents s (s.shunterQueue core n d c) :=
  ⟨rfl, rfl, rfl, rfl, rfl⟩

/-! Restart validation (16). -/

theorem State.needAllot_contents {t : State} {pool owner n sub : Nat} (h : s.needAllot pool owner n sub = .ok t) :
    SameContents s t := by
  unfold State.needAllot at h
  split_ifs at h
  · cases h
    exact .refl s
  · split at h
    next u hu =>
      cases h
      exact State.allot_contents s hu
    next => cases h

theorem State.placeWorking_contents {t : State} {j : Nat} (h : s.placeWorking j = .ok t) : SameContents s t := by
  unfold State.placeWorking at h
  extract_lets n at h
  split_ifs at h
  · cases h
    exact .refl s
  · cases h
    exact .refl s
  · exact State.needAllot_contents s h

theorem State.placeHalo_contents {t : State} {j : Nat} (h : s.placeHalo j = .ok t) : SameContents s t := by
  unfold State.placeHalo at h
  split_ifs at h
  · cases h
    exact .refl s
  · exact State.needAllot_contents s h

theorem State.placeRegion_contents {t : State} {j : Nat} (h : s.placeRegion j = .ok t) : SameContents s t := by
  unfold State.placeRegion at h
  extract_lets n at h
  split_ifs at h
  · cases h
    exact .refl s
  · split at h <;> cases h
    exact ⟨rfl, rfl, rfl, rfl, rfl⟩

theorem State.placeEntries_contents {t : State} {set : List Nat} {j : Nat} (h : s.placeEntries set j = .ok t) :
    SameContents s t := by
  unfold State.placeEntries at h
  split at h
  next u hu =>
    cases h
    exact State.placeJob_contents s hu
  next => cases h

theorem State.placeBuffer_contents {t : State} {base size named : Nat} (h : s.placeBuffer base size named = .ok t) :
    SameContents s t := by
  obtain ⟨f, hf⟩ : ∃ f, f = @State.placeBuffer := ⟨_, rfl⟩
  obtain ⟨place, hplace⟩ : ∃ place, place = State.extPlace := ⟨_, rfl⟩
  rw [← hf] at h
  delta State.placeBuffer at hf
  rw [← hplace] at hf
  subst hf
  dsimp only at h
  split at h <;> cases h
  exact contents_setReg ..

theorem SameContents.of_bind {s t : State} {o : Except Abort State} {f : State → Except Abort State}
    (h : (match o with | .error a => .error a | .ok u => f u) = Except.ok t)
    (ho : ∀ u, o = .ok u → SameContents s u) (hf : ∀ u, f u = .ok t → SameContents u t) : SameContents s t := by
  cases o with
  | error a => cases h
  | ok u => exact (ho u rfl).trans (hf u h)

theorem State.placeFor_contents {t : State} {set : List Nat} {f : Nat} (h : s.placeFor set f = .ok t) :
    SameContents s t := by
  obtain ⟨p, hp⟩ : ∃ p, p = @State.placeFor := ⟨_, rfl⟩
  obtain ⟨working, hworking⟩ : ∃ g, g = State.placeWorking := ⟨_, rfl⟩
  obtain ⟨halo, hhalo⟩ : ∃ g, g = State.placeHalo := ⟨_, rfl⟩
  obtain ⟨region, hregion⟩ : ∃ g, g = State.placeRegion := ⟨_, rfl⟩
  obtain ⟨buffer, hbuffer⟩ : ∃ g, g = State.placeBuffer := ⟨_, rfl⟩
  have hb (u v : State) (a b c : Nat) (hv : buffer u a b c = .ok v) : SameContents u v :=
    State.placeBuffer_contents u (hbuffer ▸ hv)
  rw [← hp] at h
  delta State.placeFor at hp
  rw [← hworking, ← hhalo, ← hregion, ← hbuffer] at hp
  subst hp
  dsimp only at h
  split at h
  · exact State.needAllot_contents s h
  · exact .trans (contents_setReg ..) (hb _ _ _ _ _ h)
  · exact .of_bind h (fun u hu => State.placeWorking_contents s (hworking ▸ hu)) (fun u hu =>
      .of_bind hu (fun v hv => State.placeHalo_contents u (hhalo ▸ hv)) (fun v hv =>
        .of_bind hv (fun w hw => State.placeRegion_contents v (hregion ▸ hw)) (fun w hw => State.placeEntries_contents w hw)))
  · exact hb _ _ _ _ _ h
  · exact .of_bind h (fun u hu => hb _ _ _ _ _ hu) (fun u hu => hb _ _ _ _ _ hu)
  · cases h
    exact .refl s

@[simp] theorem contents_unplace (f : Nat) : SameContents s (s.unplace f) := by
  unfold State.unplace
  split <;> simp

theorem State.validate_contents {t : State} {set : List Nat} {f : Nat} (h : s.validate set f = .ok t) :
    SameContents s t := by
  unfold State.validate at h
  split at h
  · cases h
  · exact State.placeFor_contents s h

theorem State.validateAll_contents {t : State} (set fs : List Nat) (h : State.validateAll set fs s = .ok t) :
    SameContents s t := by
  induction fs generalizing s with
  | nil =>
    cases h
    exact .refl t
  | cons f fs ih =>
    rw [State.validateAll] at h
    exact .of_bind h (fun u hu => State.validate_contents s hu) (fun u hu => ih u hu)

/-! The sensor ports (11). -/

@[simp] theorem contents_countLineStart (q p : Nat) : SameContents s (s.countLineStart q p) := by
  unfold State.countLineStart
  dsimp only
  split_ifs <;> simp

@[simp] theorem contents_lineStarts (q p : Nat) (fval : Bool) : SameContents s (s.lineStarts q p fval) := by
  unfold State.lineStarts
  refine .trans (contents_countLineStart s q p) (.ite ?_ (.ite (contents_addReg ..) ?_))
  · split
    · exact contents_addReg ..
    · exact .ite (contents_setPort ..) (.ite ((contents_setPort ..).trans (contents_addReg ..))
        ((contents_setPort ..).trans (contents_setPort ..)))
  · have h := contents_pairStart (s.countLineStart q p) q p
    split
    next hu =>
      rw [hu] at h
      exact h.trans (contents_setPort ..)
    next hu =>
      rw [hu] at h
      exact h.trans (contents_dropUntriggered ..)

@[simp] theorem contents_lineEnds (q p : Nat) (l : CurLine) (edges : List (BitVec 4)) (ovf : Option Nat) :
    SameContents s (s.lineEnds q p l edges ovf) := by
  unfold State.lineEnds
  split <;> simp

@[simp] theorem contents_frameStarts (q p : Nat) : SameContents s (s.frameStarts q p) := by
  unfold State.frameStarts
  extract_lets _ u
  have hu : SameContents s u := .ite (.trans (by simp) (contents_setPort ..)) (.refl s)
  have h := contents_pairStart u q p
  refine .trans hu ?_
  split
  next hv =>
    rw [hv] at h
    exact h.trans (contents_setPort ..)
  next hv =>
    rw [hv] at h
    exact (h.trans (contents_dropUntriggered ..)).trans (contents_setPort ..)

@[simp] theorem contents_frameEnds (q p : Nat) (f : CurFrame) : SameContents s (s.frameEnds q p f) := by
  unfold State.frameEnds
  simp

@[simp] theorem contents_streamFaults (q : Nat) : SameContents s (s.streamFaults q) := by
  unfold State.streamFaults
  simp

@[simp] theorem contents_deskewPair (p i : Nat) (taps : List Bool) : SameContents s (s.deskewPair p i taps) := by
  unfold State.deskewPair
  simp

@[simp] theorem contents_streamEnters (q : Nat) : SameContents s (s.streamEnters q) := by
  unfold State.streamEnters
  simp

@[simp] theorem contents_streamStopping (q : Nat) : SameContents s (s.streamStopping q) := by
  unfold State.streamStopping
  refine .trans (contents_setFn s _ _) (contents_forEach _ _ (fun p u => ?_) _)
  extract_lets v t
  have ht : SameContents u t := (contents_setPort ..).trans (contents_showPend ..)
  split
  · exact ht.trans (contents_frameEnds ..)
  · exact ht

/-! Functions and their states (16). -/

@[simp] theorem contents_noteRefusal (r : Route) (a : Abort) (cmd : Nat) : SameContents s (s.noteRefusal r a cmd) :=
  contents_setReg ..

@[simp] theorem contents_refuse (r : Route) (a : Abort) (cmd : Nat) : SameContents s (s.refuse r a cmd).s :=
  contents_noteRefusal ..

@[simp] theorem contents_prepare (set : Bool) (f : Nat) : SameContents s (s.prepare set f) := by
  unfold State.prepare
  split <;> simp

@[simp] theorem contents_discardWaiting (i : Nat) : SameContents s (s.discardWaiting i) := by
  unfold State.discardWaiting
  simp

@[simp] theorem contents_finishStop (f : Nat) : SameContents s (s.finishStop f) := by
  unfold State.finishStop
  split <;> simp

theorem State.passes_contents {t : State} {fs : List Nat} (h : s.passes fs = .ok t) : SameContents s t := by
  unfold State.passes at h
  split at h
  · cases h
  · exact State.validateAll_contents s _ _ h

@[simp] theorem contents_allClear : SameContents s (s.allClear) := by
  unfold State.allClear
  simp

/-! The barrier (10). -/

@[simp] theorem contents_endArmed : SameContents s (s.endArmed) := by
  unfold State.endArmed
  simp

theorem State.armCheck_contents {t : State} (h : s.armCheck = .ok t) : SameContents s t := by
  unfold State.armCheck at h
  extract_lets fs at h
  split at h
  · cases h
  · split_ifs at h
    split at h
    · cases h
    · exact State.validateAll_contents s _ _ h

theorem State.contents_of_arm {t : State} (h : s.arm = .ok t) : SameContents s t := by
  unfold State.arm at h
  refine .trans (contents_endArmed s) ?_
  extract_lets u at h
  split at h
  · cases h
  next v hv =>
    split_ifs at h
    · rw [← Except.ok.inj h]
      exact (State.armCheck_contents _ hv).trans (contents_setBit ..)
    · rw [← Except.ok.inj h]
      exact .refl _

@[simp] theorem contents_barrierCommand (r : Route) (v : Nat) : SameContents s (s.barrierCommand r v).s := by
  unfold State.barrierCommand
  split
  · split
    next t ht => exact State.contents_of_arm s ht
    next => exact contents_refuse ..
  · exact contents_endArmed s
  · exact contents_refuse ..

@[simp] theorem contents_realign (n c : Nat) : SameContents s (s.realign n c) := ⟨rfl, rfl, rfl, rfl, rfl⟩

/-! Power and reset (19, 20). -/

@[simp] theorem contents_registerReset (code : Nat) : SameContents s (s.registerReset code) := ⟨rfl, rfl, rfl, rfl, rfl⟩

@[simp] theorem contents_boot (b : BankCheck) : SameContents s (s.boot b) := by
  unfold State.boot
  simp

@[simp] theorem contents_beginPower (target : Nat) : SameContents s (s.beginPower target) := ⟨rfl, rfl, rfl, rfl, rfl⟩

@[simp] theorem contents_zeroOutputs : SameContents s (s.zeroOutputs) := by
  unfold State.zeroOutputs
  simp

/-! Lifecycle and containers (19). -/

@[simp] theorem contents_dropImage (j : Nat) : SameContents s (s.dropImage j) := ⟨rfl, rfl, rfl, rfl, rfl⟩

@[simp] theorem contents_dropModel (id : Nat) : SameContents s (s.dropModel id) := ⟨rfl, rfl, rfl, rfl, rfl⟩

@[simp] theorem contents_removeStored (t : Origin → Bool) : SameContents s (s.removeStored t) := by
  unfold State.removeStored
  simp

@[simp] theorem contents_emptyStore : SameContents s (s.emptyStore) := by
  unfold State.emptyStore
  simp

@[simp] theorem contents_noteFailure (reason type index : Nat) : SameContents s (s.noteFailure reason type index) :=
  (contents_setReg ..).trans (contents_addReg ..)

@[simp] theorem contents_putImage (j : Nat) (o : Origin) (payload : Bytes) :
    SameContents s (s.putImage j o payload) :=
  ⟨rfl, rfl, rfl, rfl, rfl⟩

@[simp] theorem contents_storeImage (r : Route) (j : Nat) (bs : Bytes) : SameContents s (s.storeImage r j bs).s := by
  unfold State.storeImage
  dsimp only
  split_ifs
  · exact contents_refuse ..
  · split
    · exact (contents_noteFailure ..).trans (contents_refuse ..)
    · split_ifs <;> simp

@[simp] theorem contents_storeFirmware (r : Route) (bs : Bytes) : SameContents s (s.storeFirmware r bs).s := by
  unfold State.storeFirmware
  dsimp only
  split_ifs
  · exact contents_refuse ..
  · split
    · exact (contents_noteFailure ..).trans (contents_refuse ..)
    · exact ⟨rfl, rfl, rfl, rfl, rfl⟩

@[simp] theorem contents_enterLife (lc : Nat) : SameContents s (s.enterLife lc) := by
  unfold State.enterLife
  simp

@[simp] theorem contents_retireAll : SameContents s (s.retireAll) := by
  unfold State.retireAll
  simp

@[simp] theorem contents_lifeEffect (code : Nat) (unwrapped : Bytes) : SameContents s (s.lifeEffect code unwrapped) := by
  unfold State.lifeEffect
  split <;> simp

@[simp] theorem contents_lifeCommand (r : Route) (code : Nat) : SameContents s (s.lifeCommand r code).s := by
  unfold State.lifeCommand
  extract_lets no b key idle
  have hno (n : Nat) : SameContents s (no n).s := contents_refuse ..
  clear_value no key
  split_ifs
  iterate 4 exact hno _
  split
  · exact hno _
  · exact contents_lifeEffect ..

/-! Debug access (19). -/

@[simp] theorem contents_takeToken (r : Route) (b : Bytes) : SameContents s (s.takeToken r b).s := by
  unfold State.takeToken
  split <;> simp

@[simp] theorem contents_select (code data : Nat) : SameContents s (s.select code data) := ⟨rfl, rfl, rfl, rfl, rfl⟩

@[simp] theorem contents_selectBypass : SameContents s (s.selectBypass) := by
  unfold State.selectBypass
  simp

@[simp] theorem contents_protected (p : Spot) : SameContents s (s.protected_ p).2 := by
  unfold State.protected_
  split
  · exact .refl s
  · split
    · exact .refl s
    · split
      · exact contents_fresh s 2
      · exact .refl s

@[simp] theorem contents_debugged : SameContents s (s.debugged) := ⟨rfl, rfl, rfl, rfl, rfl⟩

/-! Scrubbing, pools, wide mode and the determinism bit (07, 10). -/

@[simp] theorem contents_setWalker (k v : Nat) : SameContents s (s.setWalker k v) := ⟨rfl, rfl, rfl, rfl, rfl⟩

@[simp] theorem contents_walkOn (l : Level) (agent : Nat) : SameContents s (s.walkOn l agent) := by
  unfold State.walkOn
  simp

@[simp] theorem contents_agentWrite (l : Level) (agent : Nat) : SameContents s (s.agentWrite l agent) := by
  unfold State.agentWrite
  split <;> simp

/-! Network time (18). -/

@[simp] theorem contents_setPortState (v : Nat) : SameContents s (s.setPortState v) := ⟨rfl, rfl, rfl, rfl, rfl⟩

@[simp] theorem contents_writeNext : SameContents s s.writeNext := (contents_setReg ..).trans (contents_setBit ..)

@[simp] theorem contents_roll : SameContents s (s.roll) := ⟨rfl, rfl, rfl, rfl, rfl⟩

@[simp] theorem contents_queuePtp (p : Nat) : SameContents s (s.queuePtp p) := by
  unfold State.queuePtp
  simp

@[simp] theorem contents_takeStamp (p captured : Nat) (outgoing : Bool) :
    SameContents s (s.takeStamp p captured outgoing) :=
  ⟨rfl, rfl, rfl, rfl, rfl⟩

@[simp] theorem contents_takeAnnounce (grandmaster : Nat) (utc : Int) : SameContents s (s.takeAnnounce grandmaster utc) := by
  unfold State.takeAnnounce
  simp

@[simp] theorem contents_ptpSwitched : SameContents s (s.ptpSwitched) := ⟨rfl, rfl, rfl, rfl, rfl⟩

@[simp] theorem contents_scaled (x : Int) : SameContents s (s.scaled x).2 := by
  unfold State.scaled
  dsimp only
  split_ifs <;> simp

@[simp] theorem contents_phaseStep (o : Int) : SameContents s (s.phaseStep o) := by
  unfold State.phaseStep
  simp

@[simp] theorem contents_setRate (r : Int) : SameContents s (s.setRate r) := ⟨rfl, rfl, rfl, rfl, rfl⟩

@[simp] theorem contents_holdGains (before : State) : SameContents s (s.holdGains before) := ⟨rfl, rfl, rfl, rfl, rfl⟩

@[simp] theorem contents_rateStep (o : Int) : SameContents s (s.rateStep o) := by
  unfold State.rateStep
  simp

@[simp] theorem contents_applyOffset (o : Int) : SameContents s (s.applyOffset o) := by
  unfold State.applyOffset
  simp

/-! Dictionary reads (16). -/

@[simp] theorem contents_readNum (ix sub : Nat) (e : Entry) : SameContents s (s.readNum ix sub e).2 := by
  unfold State.readNum
  dsimp only
  split_ifs <;> simp

theorem State.readEntry_contents {t : State} {ix sub : Nat} {bs : Bytes} (h : s.readEntry ix sub = .ok (bs, t)) :
    SameContents s t := by
  unfold State.readEntry at h
  split_ifs at h
  split at h
  · cases h
  · split_ifs at h
    split at h <;> cases h
    · simp
    · exact .refl s
    · exact .refl s

theorem State.readComplete_contents {t : State} {ix sub : Nat} {bs : Bytes} (h : s.readComplete ix sub = .ok (bs, t)) :
    SameContents s t := by
  have hfold {f : Except Nat (Bytes × State) → Nat → Except Nat (Bytes × State)} {is : List Nat} :
      ∀ {o x}, is.foldl f o = .ok x → (∀ o i x, f o i = .ok x → ∃ y, o = .ok y ∧ SameContents y.2 x.2) →
        ∃ y, o = .ok y ∧ SameContents y.2 x.2 := by
    induction is with
    | nil => exact fun hx _ => ⟨_, hx, .refl _⟩
    | cons i is ih =>
      intro o x hx hf
      obtain ⟨y, hy, hyx⟩ := ih hx hf
      obtain ⟨z, hz, hzy⟩ := hf _ _ _ hy
      exact ⟨z, hz, hzy.trans hyx⟩
  unfold State.readComplete at h
  split_ifs at h
  obtain ⟨y, hy, hyt⟩ := hfold h (fun o i x hx => by
    split at hx
    · cases hx
    · split at hx
      · cases hx
      next hr =>
        cases hx
        exact ⟨_, rfl, State.readEntry_contents _ hr⟩)
  cases hy
  exact hyt

/-! EtherCAT (16, 17). -/

@[simp] theorem contents_form : SameContents s (s.form) := by
  unfold State.form
  dsimp only
  split <;> simp

@[simp] theorem contents_frameSnapshot : SameContents s (s.frameSnapshot) := by
  unfold State.frameSnapshot
  simp

@[simp] theorem contents_takeVetoBits : SameContents s (s.takeVetoBits) := by
  unfold State.takeVetoBits
  simp

@[simp] theorem contents_takeEject (i : Nat) : SameContents s (s.takeEject i) := by
  unfold State.takeEject
  simp

@[simp] theorem contents_noteEc (index : Nat) (fns owners : List Nat) :
    SameContents s (s.noteEc index fns owners) :=
  ⟨rfl, rfl, rfl, rfl, rfl⟩

@[simp] theorem contents_fillOutputs (image : Bytes) : SameContents s (s.fillOutputs image) := by
  unfold State.fillOutputs
  refine SameContents.foldl Prod.fst (fun x e => ?_) _ (s, image)
  exact contents_setReg ..

@[simp] theorem contents_endClaims (r : Route) : SameContents s (s.endClaims r) := by
  unfold State.endClaims
  simp

@[simp] theorem contents_renumber : SameContents s (s.renumber) := ⟨rfl, rfl, rfl, rfl, rfl⟩

@[simp] theorem contents_enterAl (a code : Nat) : SameContents s (s.enterAl a code) := by
  unfold State.enterAl
  simp

/-! Dictionary writes (16). -/

@[simp] theorem contents_putMasked (k m v : Nat) : SameContents s (s.putMasked k m v) := ⟨rfl, rfl, rfl, rfl, rfl⟩

@[simp] theorem contents_clearBits (ix sub m v : Nat) : SameContents s (s.clearBits ix sub m v) := by
  unfold State.clearBits
  simp

@[simp] theorem contents_actEncoder (e sub m v : Nat) : SameContents s (s.actEncoder e sub m v) := ⟨rfl, rfl, rfl, rfl, rfl⟩

@[simp] theorem contents_actCompare (n sub m v : Nat) : SameContents s (s.actCompare n sub m v) := by
  unfold State.actCompare
  simp

@[simp] theorem contents_afterWindow (w sub v : Nat) : SameContents s (s.afterWindow w sub v) := by
  unfold State.afterWindow
  simp

@[simp] theorem contents_afterTimer (sub : Nat) : SameContents s (s.afterTimer sub) := by
  unfold State.afterTimer
  simp

@[simp] theorem contents_bankCommand (r : Route) (b v : Nat) : SameContents s (s.bankCommand r b v).s := by
  unfold State.bankCommand
  split_ifs
  · split
    next t ht => exact State.createBank_contents s ht
    next => exact contents_refuse ..
  · exact contents_deleteBank ..

@[simp] theorem contents_powerCommand (r : Route) (v : Nat) : SameContents s (s.powerCommand r v).s := by
  unfold State.powerCommand
  dsimp only
  split_ifs
  · exact contents_refuse ..
  · split
    · exact (contents_setReg ..).trans (contents_refuse ..)
    · exact contents_beginPower ..

@[simp] theorem contents_putFlat (r : Route) (ix : Nat) (data : Bytes) : SameContents s (s.putFlat r ix data).s := by
  unfold State.putFlat
  extract_lets t
  split
  · exact contents_refuse ..
  · exact ⟨rfl, rfl, rfl, rfl, rfl⟩

@[simp] theorem contents_arrive (r : Route) (ix sub : Nat) (data : Bytes) : SameContents s (s.arrive r ix sub data) := by
  unfold State.arrive
  simp

/-! SDO downloads (16). -/

@[simp] theorem contents_sentOver (x : Reply) (r : Route) : SameContents x.s (x.sentOver r) := by
  unfold Reply.sentOver
  split <;> exact ⟨rfl, rfl, rfl, rfl, rfl⟩

@[simp] theorem contents_sdoAbort (code : Nat) : SameContents s (s.sdoAbort code) := ⟨rfl, rfl, rfl, rfl, rfl⟩

@[simp] theorem contents_sdoOverdue : SameContents s (s.sdoOverdue) := by
  unfold State.sdoOverdue
  split <;> simp

/-! The host serial port (17). -/

@[simp] theorem contents_chipSelect : SameContents s (s.chipSelect) := ⟨rfl, rfl, rfl, rfl, rfl⟩

@[simp] theorem contents_framing : SameContents s (s.framing) := by
  unfold State.framing
  simp

@[simp] theorem contents_inProgress (w : Await) (a : HspResp) : SameContents s (s.inProgress w a) := ⟨rfl, rfl, rfl, rfl, rfl⟩

@[simp] theorem contents_closeXfer : SameContents s (s.closeXfer) := by
  unfold State.closeXfer
  simp

@[simp] theorem contents_openXfer (x : Transfer) : SameContents s (s.openXfer x) := ⟨rfl, rfl, rfl, rfl, rfl⟩

@[simp] theorem contents_answerWrite (x : Reply) (q : HspReq) (size : Nat) : SameContents x.s (State.answerWrite x q size) := by
  unfold State.answerWrite
  split <;> exact contents_inProgress ..

@[simp] theorem contents_hspUpload (q : HspReq) : SameContents s (s.hspUpload q) := by
  unfold State.hspUpload
  refine .trans (contents_closeXfer s) ?_
  extract_lets u
  have hread {t : State} {bs : Bytes}
      (h : (if q.ca then u.readComplete q.index q.sub else u.readEntry q.index q.sub) = .ok (bs, t)) :
      SameContents u t := by
    split_ifs at h
    · exact State.readComplete_contents u h
    · exact State.readEntry_contents u h
  split
  · exact contents_inProgress ..
  next hr => exact (hread hr).trans (.trans (.ite (.refl _) (contents_openXfer ..)) (contents_inProgress ..))

@[simp] theorem contents_xferOverdue : SameContents s (s.xferOverdue) := by
  unfold State.xferOverdue
  split <;> simp

@[simp] theorem contents_badSegment (q : HspReq) : SameContents s (s.badSegment q) := ⟨rfl, rfl, rfl, rfl, rfl⟩

@[simp] theorem contents_hspUpSegment (q : HspReq) : SameContents s (s.hspUpSegment q) := by
  unfold State.hspUpSegment
  split <;> simp

@[simp] theorem contents_hspAbort (q : HspReq) : SameContents s (s.hspAbort q) := by
  unfold State.hspAbort
  split <;> simp

@[simp] theorem contents_keepSeq (t : State) : SameContents t (s.keepSeq t) := by
  unfold State.keepSeq
  split
  · exact .ite (.refl t) ⟨rfl, rfl, rfl, rfl, rfl⟩
  · exact .refl t

end Sys2Proof.Machine
end

section
/-! The canonical form of the memories (07 R192, R202, R206, R216; log 138). -/
namespace Sys2Proof.Machine

/-- The vector registers and the tables of a context are in canonical form. -/
@[simp, reducible] def Ctx.Canonical (x : Ctx) : Prop := twf unlisted x.vregs = true ∧ twf unlisted x.luts = true

/-- These memories and the contexts `cs` are in canonical form. -/
def CanonicalParts (ts acc stack ext : Store) (cs : List (Nat × Ctx)) : Prop :=
  ts.wf ∧ acc.wf ∧ stack.wf ∧ ext.wf ∧ ∀ p ∈ cs, p.2.Canonical

/-- The memories and the contexts of `s` are in canonical form: `MemoryIsCanonical`, as a statement about the parts that
`SameContents` keeps. -/
@[simp, reducible] def State.Canonical (s : State) : Prop := CanonicalParts s.ts s.acc s.stack s.ext s.ctxs

theorem State.canonical_iff (s : State) : s.Canonical ↔ MemoryIsCanonical s := Iff.rfl

/-- What keeps the memories and the contexts keeps their canonical form. -/
theorem SameContents.canonical {s t : State} (h : SameContents s t) (hs : s.Canonical) : t.Canonical := by
  obtain ⟨h1, h2, h3, h4, h5⟩ := h
  simpa [h1, h2, h3, h4, h5] using hs

section
variable {s : State}

theorem State.Canonical.ite {a b : State} {c : Prop} [Decidable c] (ha : a.Canonical) (hb : b.Canonical) :
    (if c then a else b).Canonical := by
  split
  · exact ha
  · exact hb

/-- A fold of steps that keep the canonical form keeps it. -/
theorem State.Canonical.foldl {β γ : Type} {f : γ → β → γ} (g : γ → State) (hf : ∀ x y, (g x).Canonical → (g (f x y)).Canonical)
    (ys : List β) {x : γ} (h : (g x).Canonical) : (g (ys.foldl f x)).Canonical := by
  induction ys generalizing x with
  | nil => exact h
  | cons y ys ih => exact ih (hf x y h)

theorem State.Canonical.forEach {β : Type} (h : s.Canonical) (xs : List β) {f : β → State → State}
    (hf : ∀ x u, u.Canonical → (f x u).Canonical) : (forEach xs s f).Canonical := h.foldl id (fun u x hu => hf x u hu) xs

/-! A memory replaced by one in canonical form. -/

theorem State.Canonical.withTs (h : s.Canonical) {m : Store} (hm : m.wf) : ({ s with ts := m } : State).Canonical :=
  ⟨hm, h.2⟩

theorem State.Canonical.withAcc (h : s.Canonical) {m : Store} (hm : m.wf) : ({ s with acc := m } : State).Canonical :=
  ⟨h.1, hm, h.2.2⟩

theorem State.Canonical.withStack (h : s.Canonical) {m : Store} (hm : m.wf) : ({ s with stack := m } : State).Canonical :=
  ⟨h.1, h.2.1, hm, h.2.2.2⟩

theorem State.Canonical.withExt (h : s.Canonical) {m : Store} (hm : m.wf) : ({ s with ext := m } : State).Canonical :=
  ⟨h.1, h.2.1, h.2.2.1, hm, h.2.2.2.2⟩

theorem State.Canonical.ts_wf (h : s.Canonical) : s.ts.wf := h.1

theorem State.Canonical.acc_wf (h : s.Canonical) : s.acc.wf := h.2.1

theorem State.Canonical.stack_wf (h : s.Canonical) : s.stack.wf := h.2.2.1

theorem State.Canonical.ext_wf (h : s.Canonical) : s.ext.wf := h.2.2.2.1

theorem State.Canonical.withPower (h : s.Canonical) (p : PowerUnit) : ({ s with power := p } : State).Canonical := h

/-! Contexts. -/

theorem State.Canonical.of_ctx? (h : s.Canonical) {k : Nat} {x : Ctx} (hx : s.ctx? k = some x) : x.Canonical :=
  h.2.2.2.2 _ (tfind_mem hx)

theorem State.Canonical.ctx (h : s.Canonical) (k : Nat) : (s.ctx k).Canonical := by
  unfold State.ctx
  cases hx : s.ctx? k with
  | none => exact ⟨rfl, rfl⟩
  | some x => exact h.of_ctx? hx

theorem State.Canonical.of_slotCtx (h : s.Canonical) {c n : Nat} {p : Nat × Ctx} (hp : s.slotCtx c n = some p) : p.2.Canonical :=
  h.2.2.2.2 _ (List.mem_of_find?_eq_some hp)

theorem State.Canonical.of_vecRuns (h : s.Canonical) {c : Nat} {p : Desc × Ctx} (hp : s.vecRuns c = some p) : p.2.Canonical := by
  unfold State.vecRuns at hp
  split at hp
  · obtain ⟨x, hx, rfl⟩ := Option.map_eq_some_iff.1 hp
    exact h.of_ctx? hx
  · cases hp

theorem State.Canonical.setCtx (h : s.Canonical) (k : Nat) {x : Ctx} (hx : x.Canonical) : (s.setCtx k x).Canonical := by
  obtain ⟨hts, hacc, hstack, hext, hctxs⟩ := h
  refine ⟨hts, hacc, hstack, hext, fun p hp => ?_⟩
  rcases mem_tput hp with rfl | hp
  · exact hx
  · exact hctxs p hp

theorem State.Canonical.dropCtx (h : s.Canonical) (k : Nat) : (s.dropCtx k).Canonical := by
  obtain ⟨hts, hacc, hstack, hext, hctxs⟩ := h
  exact ⟨hts, hacc, hstack, hext, fun p hp => hctxs p (List.mem_filter.1 hp).1⟩

theorem State.Canonical.onCtx (h : s.Canonical) (k : Nat) {f : Ctx → Ctx} (hf : ∀ x, x.Canonical → (f x).Canonical) :
    (s.onCtx k f).Canonical := by
  unfold State.onCtx
  split
  next x hx => exact h.setCtx k (hf x (h.of_ctx? hx))
  next => exact h

/-- Every context changed in place. -/
theorem State.Canonical.mapCtxs (h : s.Canonical) {f : Nat × Ctx → Nat × Ctx} (hf : ∀ p, p.2.Canonical → (f p).2.Canonical) :
    ({ s with ctxs := s.ctxs.map f } : State).Canonical := by
  obtain ⟨hts, hacc, hstack, hext, hctxs⟩ := h
  refine ⟨hts, hacc, hstack, hext, fun p hp => ?_⟩
  obtain ⟨q, hq, rfl⟩ := List.mem_map.1 hp
  exact hf q (hctxs q hq)

/-! What the operations on a context leave of its vector registers and tables. -/

/-- `y` has the vector registers and the tables of `x`. -/
@[simp, reducible] def SameRegs (x y : Ctx) : Prop := y.vregs = x.vregs ∧ y.luts = x.luts

section
variable (x : Ctx)

@[simp] theorem regs_startMove (m : Move) (c : Nat) : SameRegs x (x.startMove m c) := ⟨rfl, rfl⟩

@[simp] theorem regs_complete (c e : Nat) : SameRegs x (x.complete c e) := ⟨rfl, rfl⟩

@[simp] theorem regs_holdFrom (hold c : Nat) (before : Bool) : SameRegs x (x.holdFrom hold c before) := by
  unfold Ctx.holdFrom
  split_ifs <;> exact ⟨rfl, rfl⟩

@[simp] theorem regs_setSem (n : Nat) (v : Sem) : SameRegs x (x.setSem n v) := ⟨rfl, rfl⟩

@[simp] theorem regs_note (n amount : Nat) (stamp : Option Nat) : SameRegs x (x.note n amount stamp) := ⟨rfl, rfl⟩

@[simp] theorem regs_granted (r : Nat) : SameRegs x (x.granted r) := by
  unfold Ctx.granted
  dsimp only
  split_ifs
  · split <;> exact ⟨rfl, rfl⟩
  · exact ⟨rfl, rfl⟩

@[simp] theorem regs_leave (c : Nat) : SameRegs x (x.leave c) := ⟨rfl, rfl⟩

@[simp] theorem regs_delayMove (d : Nat) : SameRegs x (x.delayMove d) := by
  unfold Ctx.delayMove
  split
  · split_ifs <;> exact ⟨rfl, rfl⟩
  · exact ⟨rfl, rfl⟩

@[simp] theorem regs_delay (d : Nat) : SameRegs x (x.delay d) := ⟨rfl, rfl⟩

@[simp] theorem regs_loop (lc count tgt c : Nat) : SameRegs x (x.loop lc count tgt c) := by
  unfold Ctx.loop
  dsimp only
  split_ifs <;> exact ⟨rfl, rfl⟩

@[simp] theorem regs_begin (r : Waiting) (w c : Nat) (tm : Option Nat) : SameRegs x (x.begin r w c tm) := ⟨rfl, rfl⟩

@[simp] theorem regs_release (ls : List Nat) (n hold c : Nat) : SameRegs x (x.release ls n hold c) := by
  unfold Ctx.release
  simp

@[simp] theorem regs_withSeq (bs : Bytes) : SameRegs x (x.withSeq bs) := ⟨rfl, rfl⟩

@[simp] theorem regs_ite (c : Prop) [Decidable c] (y : Ctx) : (if c then x else y).vregs = (if c then x.vregs else y.vregs) ∧
    (if c then x else y).luts = (if c then x.luts else y.luts) := by
  split_ifs <;> exact ⟨rfl, rfl⟩

end

theorem SameRegs.canonical {x y : Ctx} (h : SameRegs x y) (hx : x.Canonical) : y.Canonical := by
  obtain ⟨hv, hl⟩ := h
  simpa [hv, hl] using hx

theorem Ctx.Canonical.putReg {x : Ctx} (h : x.Canonical) (a : Nat) (bs : List Marked) : (x.putReg a bs).Canonical :=
  ⟨Store.write_wf _ _ _ _ h.1, h.2⟩

/-- The cells of bytes are in canonical form and lie in their range. -/
theorem cellsOf_bounds (bs : Bytes) (o : Nat) :
    twfFrom unlisted o (cellsOf bs o) = true ∧ ∀ c ∈ cellsOf bs o, c.1 < o + bs.length := by
  induction bs generalizing o with
  | nil => exact ⟨rfl, fun c hc => by cases hc⟩
  | cons b bs ih =>
    obtain ⟨hwf, hlt⟩ := ih (o + 1)
    by_cases hb : b = 0#8
    · have hcells : cellsOf (b :: bs) o = cellsOf bs (o + 1) := by simp [cellsOf, hb]
      rw [hcells]
      refine ⟨twfFrom_mono _ hwf (Nat.le_succ o), fun c hc => ?_⟩
      have := hlt c hc
      simp only [List.length_cons]
      omega
    · have hcells : cellsOf (b :: bs) o = (o, b) :: cellsOf bs (o + 1) := by simp [cellsOf, hb]
      rw [hcells]
      refine ⟨by simp [twfFrom, unlisted, hb, hwf], fun c hc => ?_⟩
      simp only [List.length_cons]
      rcases List.mem_cons.1 hc with rfl | hc
      · dsimp only
        omega
      · have := hlt c hc
        omega

theorem ozjTable_length_le (img : Bytes) (l t : Nat) : (ozjTable img l t).length ≤ 16384 := by
  unfold ozjTable
  split
  · split_ifs
    · simp only [slice, List.length_append, List.length_take, List.length_replicate]
      omega
    · exact Nat.zero_le _
  · exact Nat.zero_le _

/-- The tables of an image, each in its own 16 KB, are in canonical form. -/
theorem lutsOf_canonical (img : Bytes) (l : Nat) : twf unlisted (lutsOf img l) = true := by
  have htables (n : Nat) : twfFrom unlisted 0 ((upTo n).flatMap (fun t => cellsOf (ozjTable img l t) (16384 * t))) = true ∧
      ∀ c ∈ (upTo n).flatMap (fun t => cellsOf (ozjTable img l t) (16384 * t)), c.1 < 16384 * n := by
    induction n with
    | zero => exact ⟨rfl, fun c hc => by cases hc⟩
    | succ n ih =>
      obtain ⟨hwf, hlt⟩ := ih
      obtain ⟨hwf', hlt'⟩ := cellsOf_bounds (ozjTable img l n) (16384 * n)
      have hlen := ozjTable_length_le img l n
      rw [upTo, List.range_succ, List.flatMap_append, List.flatMap_singleton]
      refine ⟨twfFrom_append _ _ _ _ hwf hlt (Nat.zero_le _) hwf', fun c hc => ?_⟩
      rcases List.mem_append.1 hc with hc | hc
      · have := hlt c hc
        omega
      · have := hlt' c hc
        omega
  exact (htables 4).1

end

end Sys2Proof.Machine
end

section
/-! What the operations do to the memories keeps them in canonical form. -/
namespace Sys2Proof.Machine
variable {s : State}

/-! Bytes of the memories (07). -/

@[simp] theorem State.Canonical.poke (h : s.Canonical) (p : Spot) (xs : List Marked) : (s.poke p xs).Canonical := by
  unfold State.poke
  cases p with
  | ts a => exact h.withTs (Store.write_wf _ _ _ _ h.ts_wf)
  | acc a =>
    have hput (ws : List Nat) :
        ({ s with acc := Store.putAll (xs.map Prod.fst) a { s.acc with bad := ws } } : State).Canonical :=
      h.withAcc (Store.putAll_wf _ _ _ h.acc_wf)
    refine .ite (.forEach (.forEach (hput _) _ ?_) _ ?_) (.forEach (hput _) _ ?_)
    all_goals exact fun _ u hu => (contents_poisonAcc ..).canonical hu
  | stack a => exact h.withStack (Store.write_wf _ _ _ _ h.stack_wf)
  | ext a => exact h.withExt (Store.write_wf _ _ _ _ h.ext_wf)

@[simp] theorem State.Canonical.writeTs (h : s.Canonical) (k x : Nat) (xs : List Marked) : (s.writeTs k x xs).Canonical := by
  have hsplit : ∀ (o : Option Spot) (ys : List Marked) {u : State}, u.Canonical →
      (match o, ys with | some p, y :: ys => u.poke p (y :: ys) | _, _ => u).Canonical := by
    intro o ys u hu
    split
    · exact hu.poke _ _
    · exact hu
  unfold State.writeTs
  refine hsplit _ _ ?_
  split
  · exact .ite h (h.poke _ _)
  · exact h

/-! Contexts and signals (05, 09). -/

@[simp] theorem State.Canonical.countIssue (h : s.Canonical) (k : Nat) (x : Ctx) : (s.countIssue k x).Canonical := by
  unfold State.countIssue
  exact .onCtx (by simpa using h) k (fun y hy => hy)

@[simp] theorem State.Canonical.wakeOne (h : s.Canonical) (c k : Nat) : (s.wakeOne c k).Canonical := by
  unfold State.wakeOne
  split
  · exact h
  next x hx =>
    have hxc := h.of_ctx? hx
    refine .ite (.ite (.ite (h.setCtx k hxc) h) (.ite (h.setCtx k ?_) h)) h
    refine SameRegs.canonical (x := x) ?_ hxc
    simp

@[simp] theorem State.Canonical.grantTo (h : s.Canonical) (k c : Nat) : (s.grantTo k c).Canonical := by
  unfold State.grantTo
  split
  · exact h
  next x hx => exact (contents_addReg ..).canonical (h.setCtx k ((regs_granted ..).canonical (h.of_ctx? hx)))

theorem State.Canonical.grantCore (h : s.Canonical) (c core n : Nat) : (State.grantCore c core n s).Canonical := by
  induction n generalizing s with
  | zero => exact h
  | succ n ih =>
    unfold State.grantCore
    dsimp only
    split
    · exact h
    · refine .ite (ih (.grantTo ((contents_setKept ..).canonical h) ..)) (.ite (ih (h.grantTo ..)) ?_)
      split
      · exact h
      · exact ih ((h.onCtx _ (fun x hx => (regs_leave ..).canonical hx)).grantTo ..)

theorem State.Canonical.restoreReady (h : s.Canonical) (c core m : Nat) : (State.restoreReady c core m s).Canonical := by
  induction m generalizing s with
  | zero => exact h
  | succ m ih =>
    unfold State.restoreReady
    split
    · exact ih (h.onCtx _ (fun x hx => hx))
    · exact h

@[simp] theorem State.Canonical.stir (h : s.Canonical) (c : Nat) : (s.stir c).Canonical := by
  unfold State.stir
  exact (h.forEach _ (fun k u hu => hu.wakeOne c k)).forEach _ (fun core u hu => (hu.grantCore c core 4).restoreReady c core 4)

@[simp] theorem State.Canonical.signalCtx (h : s.Canonical) (k n amount : Nat) (stamp : Option Nat) :
    (s.signalCtx k n amount stamp).Canonical := by
  unfold State.signalCtx
  split
  · exact h
  next x hx =>
    have hxc := h.of_ctx? hx
    have hset (v : Sem) : (s.setCtx k (x.setSem n v)).Canonical := h.setCtx k hxc
    exact .ite (.ite ((contents_count ..).canonical (hset _)) (hset _)) (h.setCtx k hxc)

@[simp] theorem State.Canonical.signalOwn (h : s.Canonical) (k inc n c : Nat) : (s.signalOwn k inc n c).Canonical := by
  unfold State.signalOwn
  exact .ite (.ite ((h.signalCtx ..).stir c) h) ((contents_sendHub ..).canonical h)

@[simp] theorem State.Canonical.endHolding (h : s.Canonical) (k inc n c : Nat) : (s.endHolding k inc n c).Canonical := by
  unfold State.endHolding
  exact .ite (.onCtx ((contents_holdChecked ..).canonical h) k (fun x hx => (regs_holdFrom ..).canonical hx)) h

@[simp] theorem State.Canonical.externalArrives (h : s.Canonical) (j sem stamp : Nat) :
    (s.externalArrives j sem stamp).Canonical := by
  unfold State.externalArrives
  refine .ite (.ite (.stir (h.forEach _ (fun k u hu => hu.signalCtx ..)) _) ?_) h
  exact ((contents_addHub ..).trans (contents_closesC ..)).canonical h

@[simp] theorem State.Canonical.takeCredits (h : s.Canonical) (k : Nat) {x : Ctx} (hx : x.Canonical) (c : Nat) :
    (s.takeCredits k x c).Canonical := by
  unfold State.takeCredits
  refine (contents_addReg ..).canonical (.setCtx (h.forEach _ (fun l u hu => (contents_setLink ..).canonical hu)) k ?_)
  exact (regs_holdFrom ..).canonical hx

@[simp] theorem State.Canonical.grantCredits (h : s.Canonical) (c : Nat) : (s.grantCredits c).Canonical := by
  unfold State.grantCredits
  refine h.forEach _ (fun i u hu => ?_)
  split
  next k x hx => exact .ite (hu.takeCredits k (hu.of_slotCtx hx) c) hu
  next => exact hu

@[simp] theorem State.Canonical.beginWork (h : s.Canonical) (k : Nat) : (s.beginWork k).Canonical :=
  h.onCtx k (fun _ hx => hx)

@[simp] theorem State.Canonical.goOn (h : s.Canonical) (k c : Nat) : (s.goOn k c).Canonical :=
  (h.beginWork k).onCtx k (fun _ hx => hx)

/-! The matrix arrays (03). -/

@[simp] theorem State.Canonical.putEntries (h : s.Canonical) (o : Nat) (bs : Bytes) : (s.putEntries o bs).Canonical :=
  h.withAcc (Store.putAll_wf _ _ _ h.acc_wf)

@[simp] theorem State.Canonical.runVector (h : s.Canonical) (n k : Nat) (x : Ctx) (f : Flight) (j c2 : Nat) (v : Act) (r : AccRead) :
    (s.runVector n k x f j c2 v r).1.Canonical := by
  unfold State.runVector
  dsimp only
  split
  · exact (contents_flagRows ..).canonical h
  next vs z _ =>
    have hc : (s.countConds z f.pass.trap).Canonical := (contents_countConds ..).canonical h
    split
    · exact ((contents_flagRows ..).trans (contents_wound ..)).canonical hc
    · refine .ite ((contents_flagRows ..).canonical ?_) ?_
      all_goals exact hc.forEach _ (fun r u hu => hu.putEntries ..)

@[simp] theorem State.Canonical.a2Flight (h : s.Canonical) (n k t : Nat) (f : Flight) : (s.a2Flight n k t f).1.Canonical := by
  unfold State.a2Flight
  split
  · split
    · exact h.runVector ..
    · exact h
  · exact h

theorem State.Canonical.eachFlight (h : s.Canonical) (n k : Nat) {g : State → Flight → State × Flight}
    (hg : ∀ u f, u.Canonical → (g u f).1.Canonical) : (s.eachFlight n k g).Canonical := by
  unfold State.eachFlight
  refine .ite h ((contents_setHalf ..).canonical ?_)
  refine .foldl (γ := State × List Flight) Prod.fst (fun x f hx => ?_) _ h
  exact hg x.1 f hx

@[simp] theorem State.Canonical.accHalf (h : s.Canonical) (n k t : Nat) : (s.accHalf n k t).Canonical := by
  unfold State.accHalf
  exact h.eachFlight n k (fun u f hu => (contents_a1Flight ..).canonical (hu.a2Flight n k t f))

/-! The vector units (05). -/

@[simp] theorem State.Canonical.computeStep (h : s.Canonical) (c : Nat) (d : Desc) {x : Ctx} (hx : x.Canonical) (w : Nat) :
    (s.computeStep c d x w).Canonical :=
  (contents_setVec ..).canonical (h.setCtx d.ctx hx)

@[simp] theorem State.Canonical.vecRead (h : s.Canonical) (c t : Nat) : (s.vecRead c t).Canonical := by
  unfold State.vecRead
  split
  next d x hx =>
    have hnotice (xs : List Span) : (Machine.forEach xs s (fun x s => s.noticeSpan x)).Canonical :=
      h.forEach _ (fun x u hu => (contents_noticeSpan ..).canonical hu)
    exact .ite ((contents_setVec ..).canonical (hnotice _))
      (((contents_setVec ..).canonical (hnotice _)).computeStep c d (h.of_vecRuns hx) _)
  next => exact h

@[simp] theorem State.Canonical.vecWrite (h : s.Canonical) (c t : Nat) : (s.vecWrite c t).Canonical := by
  have hregs (rs : List (Nat × List Marked)) {x : Ctx} (hx : x.Canonical) :
      (rs.foldl (fun x r => x.putReg r.1 r.2) x).Canonical := by
    induction rs generalizing x with
    | nil => exact hx
    | cons r rs ih => exact ih (hx.putReg r.1 r.2)
  unfold State.vecWrite
  split
  next d x o os hx _ =>
    have hset := ((contents_setVec s c { s.vec c with pend := os }).canonical h).setCtx d.ctx (hregs o.regs (h.of_vecRuns hx))
    have hts := hset.forEach o.ts (fun r u hu => hu.writeTs d.ctx r.1 r.2)
    exact .ite ((contents_setVec ..).canonical hts) hts
  next => exact h

/-! The shunters (05). -/

@[simp] theorem State.Canonical.writePart (h : s.Canonical) (c n t : Nat) (d : Desc) (a : Nat) (xs : List Marked) :
    (s.writePart c n t d a xs).Canonical := by
  unfold State.writePart
  split
  · exact h.writeTs ..
  · split
    · exact h.poke ..
    · exact h
  · exact h.poke ..
  · exact .ite ((contents_setShunter ..).canonical ((contents_takeSlots ..).canonical h)) (h.poke ..)
  · split
    · exact h
    · exact h
  · exact .ite ((contents_sendRecords ..).canonical ((contents_setShunter ..).canonical h)) ((contents_setShunter ..).canonical h)

@[simp] theorem State.Canonical.putPart (h : s.Canonical) (c n t : Nat) (d : Desc) : (s.putPart c n t d).Canonical := by
  unfold State.putPart
  dsimp only
  split
  · exact ((contents_setShunter ..).canonical h).writePart ..
  · exact h

@[simp] theorem State.Canonical.shuntWrite (h : s.Canonical) (c n t : Nat) (ok : Requester → Bool) :
    (s.shuntWrite c n t ok).Canonical := by
  unfold State.shuntWrite
  split
  · exact h
  next d _ =>
    have hput := h.putPart c n t d
    exact .ite (.ite ((contents_shunterLeaves ..).canonical hput) hput) h

@[simp] theorem State.Canonical.shuntShows (h : s.Canonical) (c n t : Nat) : (s.shuntShows c n t).Canonical := by
  unfold State.shuntShows
  dsimp only
  split
  · exact h
  · exact ((contents_setShunter ..).canonical h).forEach _ (fun w u hu => hu.poke _ _)

@[simp] theorem State.Canonical.arriveRemote (h : s.Canonical) (t : Nat) (ok : Requester → Bool) :
    (s.arriveRemote t ok).Canonical := by
  unfold State.arriveRemote
  refine h.forEach _ (fun a u hu => ?_)
  exact State.Canonical.writeTs (s := { u with arrivals := u.arrivals.erase a }) hu ..

@[simp] theorem State.Canonical.writeRest (h : s.Canonical) (c n t : Nat) (d : Desc) (m : Nat) :
    (State.writeRest c n t d m s).Canonical := by
  induction m generalizing s with
  | zero => exact h
  | succ m ih =>
    unfold State.writeRest
    exact .ite h (ih (h.putPart c n t d))

@[simp] theorem State.Canonical.copyRest (h : s.Canonical) (c n t : Nat) (d : Desc) : (s.copyRest c n t d).Canonical :=
  ((contents_readRest ..).canonical h).writeRest ..

/-! The top-k units (08). -/

@[simp] theorem State.Canonical.topkWrite (h : s.Canonical) (c t : Nat) : (s.topkWrite c t).Canonical := by
  unfold State.topkWrite
  split
  · exact ((contents_setTopk ..).canonical h).writeTs ..
  · exact h

@[simp] theorem State.Canonical.tableWrite (h : s.Canonical) (c t : Nat) : (s.tableWrite c t).Canonical := by
  unfold State.tableWrite
  split <;> simp [h]

/-! Removed frames (10). -/

@[simp] theorem State.Canonical.stopCores (h : s.Canonical) (stops : Nat → Bool) (t : Nat) : (s.stopCores stops t).Canonical := by
  have hmoved := h.mapCtxs (f := fun e => if stops e.2.core then (e.1, e.2.delayMove 96) else e) (fun p hp => by
    split
    · exact (regs_delayMove ..).canonical hp
    · exact hp)
  unfold State.stopCores
  refine State.Canonical.forEach ?_ _ (fun g u hu => .ite ((contents_opensC ..).canonical hu) hu)
  by_cases hd : s.det = true
  · simpa [hd] using h
  · simpa [hd] using hmoved

@[simp] theorem State.Canonical.stopCount (h : s.Canonical) : s.stopCount.Canonical :=
  h.mapCtxs (f := fun e => (e.1, e.2.delay 96)) (fun _ hp => hp)

@[simp] theorem State.Canonical.removeFrame (h : s.Canonical) (t : Nat) : (s.removeFrame t).Canonical := by
  unfold State.removeFrame
  have hstop (stops : Nat → Bool) := h.stopCores stops t
  exact .ite (hstop _).stopCount (hstop _)

/-! The units cycle by cycle. -/

@[simp] theorem State.Canonical.stagingTurn (h : s.Canonical) (c t : Nat) (granted : Bool) :
    (s.stagingTurn c t granted).Canonical := by
  unfold State.stagingTurn
  split
  · exact h.onCtx _ (fun x hx => hx)
  · exact h

@[simp] theorem State.Canonical.readers (h : s.Canonical) (t : Nat) (ok : Requester → Bool) : (s.readers t ok).Canonical := by
  unfold State.readers
  refine ((h.forEach _ (fun a u hu => ?_)).forEach _ (fun c u hu => ?_)).forEach _
    (fun a u hu => (contents_shuntRead ..).canonical hu)
  · have hfeed : (if ok (.feeder a.1 a.2) then u.feedRead a.1 a.2 else u).Canonical :=
      .ite ((contents_feedRead ..).canonical hu) hu
    exact .ite ((contents_loadRow ..).canonical hfeed) hfeed
  · have hvec : (if ok (.vecRead c) then u.vecRead c t else u).Canonical := .ite (hu.vecRead c t) hu
    have htop := State.Canonical.ite (c := ok (.topRead c) = true) ((contents_topkRead _ c t).canonical hvec) hvec
    exact .ite (htop.stagingTurn c t true) htop

@[simp] theorem State.Canonical.writers (h : s.Canonical) (t : Nat) (ok : Requester → Bool) : (s.writers t ok).Canonical := by
  unfold State.writers
  refine (((h.forEach _ (fun a u hu => hu.accHalf ..)).forEach _ (fun c u hu => ?_)).arriveRemote t ok).forEach _
    (fun a u hu => (hu.shuntWrite ..).shuntShows ..)
  have hvec : (if ok (.vecWrite c) then u.vecWrite c t else u).Canonical := .ite (hu.vecWrite c t) hu
  have htop := State.Canonical.ite (c := ok (.topWrite c) = true) (hvec.topkWrite c t) hvec
  exact .ite (htop.tableWrite c t) htop

@[simp] theorem State.Canonical.deny (h : s.Canonical) (t : Nat) (w : Requester) : (s.deny t w).Canonical := by
  unfold State.deny
  split <;> simp [h]

@[simp] theorem State.Canonical.cycle (h : s.Canonical) (t : Nat) : (s.cycle t).Canonical := by
  have hrefused {u : State} (hu : u.Canonical) (rs : List (Requester × Nat)) : ({ u with refusals := rs } : State).Canonical := hu
  unfold State.cycle
  extract_lets asks g ok no fed s₁ s₂ s₃ s₄
  have h₁ : s₁.Canonical := ((contents_stallAll ..).trans (contents_take ..)).canonical h
  have h₂ : s₂.Canonical := (h₁.readers t ok).writers t ok
  have h₃ : s₃.Canonical := hrefused h₂ _
  have h₄ : s₄.Canonical := (contents_delayUnits ..).canonical
    (h₃.forEach _ (fun a u hu => ((contents_noteDenial ..).canonical hu).deny ..))
  exact (contents_countWithheld ..).canonical h₄

theorem State.Canonical.cycles (h : s.Canonical) (stop n : Nat) : (State.cycles stop n s).Canonical := by
  induction n generalizing s with
  | zero => exact h
  | succ n ih =>
    unfold State.cycles
    dsimp only
    split
    · exact ih (h.removeFrame _)
    · exact .ite (ih (h.cycle _)) h

@[simp] theorem State.Canonical.catchTo (h : s.Canonical) (stop : Nat) : (s.catchTo stop).Canonical := h.cycles ..

@[simp] theorem State.Canonical.catchUp (h : s.Canonical) : s.catchUp.Canonical := h.catchTo _

@[simp] theorem State.Canonical.catchAll (h : s.Canonical) : s.catchAll.Canonical := h.catchTo _

/-! The life of contexts (09). -/

@[simp] theorem State.Canonical.clearWindows (h : s.Canonical) (k : Nat) : (s.clearWindows k).Canonical := by
  unfold State.clearWindows
  split
  · exact h
  · split
    · exact h.withTs (Store.zero_wf _ _ _ _ (Store.zero_wf _ _ _ _ h.ts_wf))
    · exact h.withStack (Store.zero_wf _ _ _ _ h.stack_wf)
    · exact h.withExt (Store.zero_wf _ _ _ _ h.ext_wf)

@[simp] theorem State.Canonical.initTs (h : s.Canonical) (k : Nat) (img : Bytes) : (s.initTs k img).Canonical :=
  h.forEach _ (fun _ _ hu => hu.writeTs ..)

@[simp] theorem State.Canonical.startImage (h : s.Canonical) (k c : Nat) {x : Ctx} (hx : x.Canonical) :
    (s.startImage k c x).Canonical := by
  have himage (m : Store) (hm : m.wf) (sz b a a' : Nat) (xs ys : List Marked) :
      (((m.write sz b xs).paste sz a 65536 (x.luts, [])).write sz a' ys).wf :=
    Store.write_wf _ _ _ _ (Store.paste_wf _ _ _ _ _ (Store.write_wf _ _ _ _ hm) hx.2)
  unfold State.startImage
  split
  · exact h
  · exact h.withStack (himage _ h.stack_wf ..)
  · exact h.withExt (himage _ h.ext_wf ..)

@[simp] theorem State.Canonical.startLane (h : s.Canonical) (j l core c : Nat) : (s.startLane j l core c).Canonical := by
  unfold State.startLane
  extract_lets k img tsRows accRows fit slot n place x u
  have hx : x.Canonical := ⟨rfl, lutsOf_canonical img l⟩
  have hu : u.Canonical := State.Canonical.setCtx (s := { s with incs := tput s.incs k n }) h k hx
  exact ((hu.catchAll.clearWindows k).initTs k img).startImage k c hx

@[simp] theorem State.Canonical.fillCache (h : s.Canonical) (j : Nat) : (s.fillCache j).Canonical := by
  unfold State.fillCache
  extract_lets u img cores v
  have hu : u.Canonical := h.catchAll
  have hv : v.Canonical := by
    cases he : u.imageEntry j with
    | none => simpa only [v, he] using hu
    | some e => simpa only [v, he] using hu.withStack (Store.write_wf _ _ _ _ hu.stack_wf)
  split
  · split
    · exact hv.withStack (Store.write_wf _ _ _ _ hv.stack_wf)
    · exact hv
  · exact hv

@[simp] theorem State.Canonical.launch (h : s.Canonical) (j c : Nat) : (s.launch j c).Canonical :=
  ((h.fillCache j).forEach _ (fun _ _ hu => .ite (hu.startLane ..) hu)).stir c

@[simp] theorem State.Canonical.removeCtx (h : s.Canonical) (k c : Nat) : (s.removeCtx k c).Canonical := by
  unfold State.removeCtx
  split
  · exact h
  next x _ =>
    refine (contents_closesC ..).canonical (.dropCtx (((contents_withdraw ..).trans (contents_discardWork ..)).canonical ?_) k)
    refine .forEach (((contents_returnCredits ..).trans (contents_returnHeld ..)).canonical h.catchAll) _ (fun n u hu => ?_)
    exact hu.forEach _ (fun i v hv => .ite ((contents_drainHalf ..).canonical hv) hv)

@[simp] theorem State.Canonical.deliverFlight (h : s.Canonical) (k : Nat) (x : Ctx) : (s.deliverFlight k x).Canonical := by
  unfold State.deliverFlight
  exact h.catchUp.forEach _ (fun n u hu => hu.forEach _ (fun p v hv => (contents_sendRecords ..).canonical hv))

@[simp] theorem State.Canonical.leaveOne (h : s.Canonical) (k c : Nat) : (s.leaveOne k c).Canonical := by
  unfold State.leaveOne
  split
  · exact h
  · exact .ite ((h.deliverFlight ..).removeCtx k c) h

@[simp] theorem State.Canonical.leaveAll (h : s.Canonical) (c : Nat) : (s.leaveAll c).Canonical := by
  unfold State.leaveAll
  exact (h.forEach _ (fun k u hu => hu.leaveOne k c)).forEach _ (fun j u hu => (contents_jobGone ..).canonical hu)

@[simp] theorem State.Canonical.orderLeave (h : s.Canonical) (j c : Nat) : (s.orderLeave j c).Canonical := by
  unfold State.orderLeave
  extract_lets v u grace w
  have hu : u.Canonical := (contents_setJob ..).canonical h
  have hw : w.Canonical := hu.forEach _ (fun k u hu => hu.onCtx k (fun x hx => hx))
  exact ((contents_jobGone ..).canonical (hw.leaveAll c)).stir c

@[simp] theorem State.Canonical.cancelWait (h : s.Canonical) (k : Nat) : (s.cancelWait k).Canonical := by
  unfold State.cancelWait
  split
  · exact h
  next x hx =>
    have hxc := h.of_ctx? hx
    split
    · exact ((contents_withdraw ..).canonical h).setCtx k hxc
    · exact h.setCtx k hxc
    · exact h

@[simp] theorem State.Canonical.giveUp (h : s.Canonical) (k c : Nat) : (s.giveUp k c).Canonical := by
  unfold State.giveUp
  split
  · exact h
  next x hx =>
    refine (contents_opensC ..).canonical (.setCtx (.ite ((contents_setKept ..).canonical h) h) k ?_)
    refine SameRegs.canonical (x := x) ?_ (h.of_ctx? hx)
    simp

@[simp] theorem State.Canonical.beginEvict (h : s.Canonical) (k c : Nat) : (s.beginEvict k c).Canonical := by
  unfold State.beginEvict
  split
  · exact h
  · exact .ite h (((h.cancelWait k).giveUp k c).onCtx k (fun x hx => hx))

@[simp] theorem State.Canonical.evictDeferred (h : s.Canonical) (c : Nat) : (s.evictDeferred c).Canonical :=
  h.forEach _ (fun _ _ hu => .ite (hu.beginEvict ..) hu)

@[simp] theorem State.Canonical.tidy (h : s.Canonical) (c : Nat) : (s.tidy c).Canonical :=
  ((h.leaveAll c).evictDeferred c).stir c

@[simp] theorem State.Canonical.yieldPoint (h : s.Canonical) (k c : Nat) : (s.yieldPoint k c).Canonical := by
  unfold State.yieldPoint
  split
  · exact h
  next x hx =>
    have hdone : (s.setCtx k (x.complete c (x.entry + 1))).Canonical := h.setCtx k ((regs_complete ..).canonical (h.of_ctx? hx))
    exact .ite ((contents_count ..).canonical hdone) (.ite ((contents_jobGone ..).canonical (h.removeCtx k c))
      (.ite ((State.Canonical.ite ((contents_addReg ..).canonical h) h).giveUp k c) hdone))

@[simp] theorem State.Canonical.forcedOut (h : s.Canonical) (k c : Nat) : (s.forcedOut k c).Canonical := by
  unfold State.forcedOut
  exact .ite ((contents_jobGone ..).canonical (h.removeCtx k c)) (h.giveUp k c)

@[simp] theorem State.Canonical.forceOut (h : s.Canonical) (k c : Nat) : (s.forceOut k c).Canonical := by
  have hforced := ((contents_addReg (s.cancelWait k) (kJob (ctxJob k) 0x0C) 1).canonical (h.cancelWait k)).onCtx k
    (f := fun x => { x with forced := true }) (fun x hx => hx)
  unfold State.forceOut
  exact (State.Canonical.ite (hforced.forcedOut k c) hforced).tidy c

@[simp] theorem State.Canonical.rehalt (h : s.Canonical) (k c : Nat) : (s.rehalt k c).Canonical := by
  unfold State.rehalt
  split
  · exact h
  · exact .ite (.ite (h.onCtx k (fun x hx => hx)) (h.forceOut k c)) h

@[simp] theorem State.Canonical.endWork (h : s.Canonical) (k inc c : Nat) : (s.endWork k inc c).Canonical := by
  unfold State.endWork
  have hset (w q : Nat) : (s.setCtx k { s.ctx k with work := w, quietAt := q }).Canonical := h.setCtx k (h.ctx k)
  exact .ite (.tidy (.ite (.ite ((hset ..).forcedOut k c) (.ite ((hset ..).yieldPoint k c) (hset ..))) (hset ..)) c) h

@[simp] theorem State.Canonical.tearDown (h : s.Canonical) (k c : Nat) : (s.tearDown k c).Canonical := by
  unfold State.tearDown
  split
  · exact h
  next x _ =>
    extract_lets j u v w _ t
    have hv : v.Canonical := h.catchAll.forEach _ (fun n u hu => hu.forEach _ (fun i u hu => by
      dsimp only
      split
      · exact (contents_recordArrayFault ..).canonical hu
      · exact hu))
    have hw : w.Canonical := ((contents_addReg ..).trans (contents_loseSeqs ..)).canonical
      (((contents_haunt ..).canonical hv).removeCtx k c)
    have ht : t.Canonical := .ite (.ite (((contents_enterFaulted ..).canonical hw).orderLeave j c)
      ((contents_setJob ..).canonical hw)) hw
    exact ((contents_jobGone ..).canonical ht).tidy c

@[simp] theorem State.Canonical.coreFaultAt (h : s.Canonical) (k cause tag entry : Nat) :
    (s.coreFaultAt k cause tag entry).Canonical := by
  unfold State.coreFaultAt
  split
  · exact h
  · exact ((contents_recordCoreFault ..).canonical h).tearDown ..

@[simp] theorem State.Canonical.coreFault (h : s.Canonical) (k cause tag : Nat) : (s.coreFault k cause tag).Canonical :=
  h.coreFaultAt ..

@[simp] theorem State.Canonical.endLane (h : s.Canonical) (k c : Nat) : (s.endLane k c).Canonical := by
  have hended (u : JobUnit) : (((s.removeCtx k c).setJob (ctxJob k) u)).Canonical :=
    (contents_setJob ..).canonical (h.removeCtx k c)
  unfold State.endLane
  exact .tidy ((contents_jobGone ..).canonical (.ite (((contents_releaseJob ..).trans (contents_setFn ..)).canonical (hended _))
    (hended _))) c

/-! Entries of the sequencers (05). -/

theorem State.Canonical.issue (h : s.Canonical) (core slot : Nat) (mine : Fetched → Bool)
    {f : State → Nat → Ctx → Fetched → State} (hf : ∀ u k x e, u.Canonical → x.Canonical → (f u k x e).Canonical) :
    (s.issue core slot mine f).Canonical := by
  unfold State.issue
  split
  · exact h
  next k x hx =>
    have hfetched := (contents_fetched s k x).canonical h
    refine .ite ?_ h
    split
    · exact hfetched.coreFault ..
    · exact .ite ((hf _ k x _ hfetched (h.of_slotCtx hx)).rehalt ..) h

theorem State.Canonical.loopEntry (h : s.Canonical) (k : Nat) (x : Ctx) (e : Fetched) : (s.loopEntry k x e).Canonical := by
  unfold State.loopEntry
  split
  · exact ((h.countIssue k x).onCtx k (fun y hy => (regs_loop ..).canonical hy)).tidy _
  · exact h

theorem State.Canonical.stopEntry (h : s.Canonical) (k : Nat) (x : Ctx) (e : Fetched) : (s.stopEntry k x e).Canonical :=
  (h.countIssue k x).endLane ..

@[simp] theorem State.Canonical.passOn (h : s.Canonical) (k c : Nat) : (s.passOn k c).Canonical := h.onCtx k (fun _ hx => hx)

theorem State.Canonical.semDo {f : State → Nat → Ctx → Nat → State}
    (hf : ∀ u k x w, u.Canonical → (f u k x w).Canonical) (h : s.Canonical) (k : Nat) (x : Ctx) (e : Fetched) :
    (State.semDo f s k x e).Canonical :=
  .ite ((h.countIssue k x).coreFault ..) ((hf _ _ _ _ ((h.countIssue k x).passOn k _)).tidy _)

theorem State.Canonical.semEntry (h : s.Canonical) (core slot act : Nat) {f : State → Nat → Ctx → Nat → State}
    (hf : ∀ u k x w, u.Canonical → (f u k x w).Canonical) : (s.semEntry core slot act f).Canonical :=
  h.issue core slot _ (fun _ k x e hu _ => .semDo hf hu k x e)

theorem State.Canonical.semAdd (h : s.Canonical) (k : Nat) (x : Ctx) (w : Nat) : (s.semAdd k x w).Canonical :=
  .ite (h.signalCtx ..) ((contents_sendHub ..).canonical h)

theorem State.Canonical.semSet (h : s.Canonical) (k : Nat) (x : Ctx) (w : Nat) : (s.semSet k x w).Canonical :=
  .ite (h.onCtx k (fun _ hy => hy)) ((contents_sendHub ..).canonical h)

@[simp] theorem State.Canonical.hubStep (h : s.Canonical) (o : HubOp) : (s.hubStep o).Canonical := by
  unfold State.hubStep
  split
  · exact ((contents_addHub ..).canonical h).endHolding ..
  · exact ((contents_setHub ..).canonical h).endHolding ..
  · exact .ite h h
  · refine .ite (.ite h ((contents_addHub ..).canonical h)) (.ite (h.onCtx _ (fun x hx => ?_)) h)
    refine (regs_holdFrom ..).canonical (SameRegs.canonical (x := x) ?_ hx)
    simp

@[simp] theorem State.Canonical.expire (h : s.Canonical) (k : Nat) (completes : Bool) (d : Nat) :
    (s.expire k completes d).Canonical := by
  have hgone := ((contents_withdraw s k).canonical h).onCtx k (f := fun x => x.complete d (x.entry + 1)) (fun _ hx => hx)
  exact .ite (((contents_count ..).canonical hgone).tidy _) (h.coreFault ..)

theorem State.Canonical.waitEntry (h : s.Canonical) (k : Nat) (x : Ctx) (e : Fetched) : (s.waitEntry k x e).Canonical := by
  have hissued := h.countIssue k x
  have hwaits (w c : Nat) (tm : Option Nat) := hissued.onCtx k (f := fun y => y.begin .wait w c tm) (fun _ hy => hy)
  exact .ite (hissued.coreFault ..) (.ite (hissued.expire ..)
    (.tidy (.ite (hwaits ..) ((contents_sendHub ..).canonical (hwaits ..))) _))

theorem State.Canonical.acquireEntry (h : s.Canonical) (k : Nat) (x : Ctx) (e : Fetched) : (s.acquireEntry k x e).Canonical := by
  have hissued := h.countIssue k x
  have hwaits (w c : Nat) (tm : Option Nat) := hissued.onCtx k (f := fun y => y.begin .credit w c tm) (fun _ hy => hy)
  exact .ite (hissued.coreFault ..) (.ite (hissued.expire ..) (.tidy ((contents_closesC ..).canonical (hwaits ..)) _))

theorem State.Canonical.releaseEntry (h : s.Canonical) (k : Nat) (x : Ctx) (e : Fetched) : (s.releaseEntry k x e).Canonical := by
  have hissued := h.countIssue k x
  refine .ite (hissued.coreFault ..) (.tidy ((contents_closesC ..).canonical (.onCtx ((contents_holdChecked ..).canonical ?_) k
    (fun _ hy => (regs_release ..).canonical hy))) _)
  exact hissued.forEach _ (fun l u hu => (contents_setLink ..).canonical hu)

theorem State.Canonical.yieldDo (h : s.Canonical) (k : Nat) (x : Ctx) (e : Fetched) : (s.yieldDo k x e).Canonical := by
  have hissued := h.countIssue k x
  have hyields (w c : Nat) :=
    hissued.onCtx k (f := fun y => { y with waiting := .yield, word := w, issuedAt := c }) (fun _ hy => hy)
  exact .ite (hissued.coreFault ..) (.tidy (.ite ((hyields ..).yieldPoint ..) (hyields ..)) _)

theorem State.Canonical.yieldEntry (h : s.Canonical) (core slot : Nat) (surr : Bool) : (s.yieldEntry core slot surr).Canonical :=
  h.issue core slot _ (fun _ k x e hu _ => hu.yieldDo k x e)

theorem State.Canonical.publishEntry (h : s.Canonical) (k : Nat) (x : Ctx) (e : Fetched) : (s.publishEntry k x e).Canonical := by
  have hissued := (h.countIssue k x).catchAll
  exact .ite (hissued.coreFault ..) (.ite (hissued.coreFault ..)
    (.tidy (.passOn (((contents_deadBase ..).trans (contents_publish ..)).canonical hissued) k _) _))

theorem State.Canonical.unpublishEntry (h : s.Canonical) (k : Nat) (x : Ctx) (e : Fetched) :
    (s.unpublishEntry k x e).Canonical := by
  have hissued := h.countIssue k x
  exact .ite (hissued.coreFault ..) (.tidy (.passOn ((contents_publish ..).canonical hissued) k _) _)

/-! Work of the matrix arrays (03). -/

@[simp] theorem State.Canonical.arrayFault (h : s.Canonical) (n i cause : Nat) (p : Pass) :
    (s.arrayFault n i cause p).Canonical := by
  unfold State.arrayFault
  extract_lets c u v w
  have hu : u.Canonical := ((contents_recordArrayFault ..).trans (contents_drainHalf ..)).canonical h
  have hw : w.Canonical := .ite ((contents_opensC ..).canonical hu) hu
  split
  · exact .ite (((contents_recordCoreFault ..).canonical hw).tearDown ..) hw
  · exact hw

@[simp] theorem State.Canonical.orphanFault (h : s.Canonical) (n i : Nat) : (s.orphanFault n i).Canonical := by
  unfold State.orphanFault
  dsimp only
  split
  · exact h.catchAll.arrayFault ..
  · exact h.catchAll

@[simp] theorem State.Canonical.passTake (h : s.Canonical) (n k : Nat) (x : Ctx) (p : Pass) (c : Nat) :
    (s.passTake n k x p c).Canonical :=
  .ite (h.arrayFault ..) ((((contents_passQueue ..).canonical h).goOn k c).tidy c)

theorem State.Canonical.passEntry (h : s.Canonical) (k : Nat) (x : Ctx) (e : Fetched) : (s.passEntry k x e).Canonical :=
  .ite h ((h.countIssue k x).catchAll.passTake ..)

/-! Slices, moves and the model cache (09). -/

@[simp] theorem State.Canonical.orderTeardown (h : s.Canonical) (k : Nat) : (s.orderTeardown k).Canonical :=
  .ite (h.coreFault ..) (h.tearDown ..)

@[simp] theorem State.Canonical.holdOverrun (h : s.Canonical) (k : Nat) : (s.holdOverrun k).Canonical := by
  have hcount := (contents_count s 0x2901 0x11 0 none).canonical h
  unfold State.holdOverrun
  exact .ite (hcount.orderTeardown k) (hcount.setCtx k (h.ctx k))

@[simp] theorem State.Canonical.evict (h : s.Canonical) (k target c : Nat) : (s.evict k target c).Canonical := by
  have hmarked := h.onCtx k (f := fun x => { x with evicted := some (target, c) }) (fun _ hx => hx)
  exact .ite (h.orderTeardown k) (hmarked.beginEvict k c)

@[simp] theorem State.Canonical.markOthers (h : s.Canonical) (p core c : Nat) (ts : List Nat) :
    (s.markOthers p core c ts).Canonical :=
  h.forEach _ (fun k _ hu => .ite (hu.setCtx k (hu.ctx k)) hu)

@[simp] theorem State.Canonical.makeRoom (h : s.Canonical) (core c : Nat) (ts : List Nat) : (s.makeRoom core c ts).Canonical := by
  unfold State.makeRoom
  split
  · split
    · exact h.evict ..
    · exact h
  · exact h

@[simp] theorem State.Canonical.beginLoad (h : s.Canonical) (k c : Nat) : (s.beginLoad k c).Canonical := by
  unfold State.beginLoad
  split
  · exact h
  next x hx =>
    have hxc := h.of_ctx? hx
    refine .ite ?_ h
    split
    · exact h.setCtx k hxc
    · exact h

@[simp] theorem State.Canonical.placeTarget (h : s.Canonical) (core c : Nat) (ts : List Nat) (t : Nat) :
    (s.placeTarget core c ts t).Canonical :=
  .ite ((h.forEach _ (fun v _ hu => .ite (hu.evict v t c) hu)).beginLoad t c) h

@[simp] theorem State.Canonical.restartLanes (h : s.Canonical) (j c : Nat) : (s.restartLanes j c).Canonical := by
  unfold State.restartLanes
  refine .ite h (.forEach ((contents_setJob ..).canonical h) _ (fun l u hu => ?_))
  exact (contents_addReg ..).canonical (hu.startLane ..)

@[simp] theorem State.Canonical.unloadData (h : s.Canonical) (k : Nat) (x : Ctx) (n : Nat) : (s.unloadData k x n).Canonical := by
  unfold State.unloadData
  extract_lets b w r m ts ac u m₁ o m₂
  have hu : u.Canonical := h.forEach _ (fun a v hv => ((contents_noticeBad ..).trans (contents_noticeBad ..)).canonical hv)
  have hts (a : Nat) : twf unlisted (ts a).1 = true := Store.cut_wf _ _ _ _ h.ts_wf
  have hac (a : Nat) : twf unlisted (ac a).1 = true := Store.cut_wf _ _ _ _ h.acc_wf
  have hm₁ : m₁.wf := Store.paste_wf _ _ _ _ _ (Store.paste_wf _ _ _ _ _ (Store.zero_wf _ _ _ _ h.stack_wf) (hts 0)) (hts 1)
  have hm₂ : m₂.wf := Store.paste_wf _ _ _ _ _ (Store.paste_wf _ _ _ _ _ hm₁ (hac 0)) (hac 1)
  exact hu.withStack (Store.write_wf _ _ _ _ (Store.write_wf _ _ _ _ hm₂))

@[simp] theorem State.Canonical.loadData (h : s.Canonical) (x : Ctx) (n : Nat) : (s.loadData x n).Canonical := by
  unfold State.loadData
  extract_lets b w r o t a0 a1 m flags u v z bad
  have hcut (a n : Nat) : twf unlisted (s.stack.cut 8 a n).1 = true := Store.cut_wf _ _ _ _ h.stack_wf
  have ht : t.wf := Store.paste_wf _ _ _ _ _ (Store.paste_wf _ _ _ _ _ h.ts_wf (hcut ..)) (hcut ..)
  have hm : m.wf := Store.paste_wf _ _ _ _ _ (Store.paste_wf _ _ _ _ _ h.acc_wf (hcut o r)) (hcut (o + accBytes) r)
  have hu : u.Canonical := h.forEach _ (fun p v hv => (contents_noticeBad ..).canonical hv)
  have hz : z.Canonical := (contents_putFlags ..).canonical ((hu.withTs ht).withAcc hm)
  have hbad (a : Nat) (ks : List Nat) (y : State) (hy : y.Canonical) : (bad a ks y).Canonical :=
    hy.forEach _ (fun k v hv => (contents_setValid ..).canonical hv)
  exact hbad _ _ _ (hbad _ _ _ hz)

@[simp] theorem State.Canonical.noteSwap (h : s.Canonical) (k : Nat) : (s.noteSwap k).Canonical := by
  unfold State.noteSwap
  split
  · refine .onCtx ?_ k (fun x hx => hx)
    exact ((contents_setReg ..).trans (contents_setReg ..)).canonical h
  · exact h

@[simp] theorem State.Canonical.saveSlot (h : s.Canonical) {x : Ctx} (hx : x.Canonical) (n c : Nat) :
    (s.saveSlot x n c).Canonical :=
  h.withStack (Store.write_wf _ _ _ _ (Store.paste_wf _ _ _ _ _ (Store.paste_wf _ _ _ _ _ h.stack_wf hx.1) hx.2))

@[simp] theorem State.Canonical.restoreSlot (h : s.Canonical) (k : Nat) : (s.restoreSlot k).Canonical := by
  have hcut (a n : Nat) : twf unlisted (s.ext.cut 32 a n).1 = true := Store.cut_wf _ _ _ _ h.ext_wf
  exact h.onCtx k (fun _ _ => ⟨hcut (sidingBase k + slotImage) 16384, hcut (sidingBase k + slotImage + 16384) 65536⟩)

@[simp] theorem State.Canonical.applyRecord (h : s.Canonical) (k : Nat) : (s.applyRecord k).Canonical := by
  have hcleared := h.onCtx k (f := fun x => { x with record := [] }) (fun _ hx => hx)
  exact hcleared.forEach _ (fun _ _ hu => hu.signalCtx ..)

theorem State.Canonical.loadModel (h : s.Canonical) {id : Nat} {t : State} (ht : s.loadModel id = some t) : t.Canonical := by
  unfold State.loadModel at ht
  split at ht
  · cases ht
  · split at ht
    · cases ht
      exact h
    · obtain ⟨u, hu, rfl⟩ := Option.map_eq_some_iff.1 ht
      have huc := (State.placeEntry_contents _ _ _ hu).canonical h.catchAll
      split
      · exact (contents_addKB ..).canonical (huc.withStack (Store.write_wf _ _ _ _ huc.stack_wf))
      · exact huc

theorem State.Canonical.pinModel (h : s.Canonical) {id : Nat} {t : State} (ht : s.pinModel id = some t) : t.Canonical := by
  unfold State.pinModel at ht
  split_ifs at ht
  · cases ht
    exact h
  · exact h.loadModel ht

theorem State.Canonical.loadModel_getD (h : s.Canonical) (id : Nat) {u : State} (hu : u.Canonical) :
    ((s.loadModel id).getD u).Canonical := by
  cases ht : s.loadModel id with
  | none => exact hu
  | some t => exact h.loadModel ht

@[simp] theorem State.Canonical.repin (h : s.Canonical) : s.repin.Canonical := by
  unfold State.repin
  exact .ite h (h.forEach _ (fun id u hu => .ite (hu.loadModel_getD id ((contents_addReg ..).canonical hu)) hu))

/-! Reference banks (08). -/

@[simp] theorem State.Canonical.bankWrite (h : s.Canonical) (b : Nat) (words : Bool) (o : Nat) (bs : Bytes) :
    (s.bankWrite b words o bs).Canonical := by
  have hext (a : Nat) := h.withExt (Store.write_wf s.ext 32 a (clean bs) h.ext_wf)
  unfold State.bankWrite
  extract_lets u
  have hu : u.Canonical := hext _
  split
  · exact hu.withStack (Store.write_wf _ _ _ _ hu.stack_wf)
  · exact hu

@[simp] theorem State.Canonical.renew (h : s.Canonical) (b n : Nat) : (s.renew b n).Canonical := by
  have hset (u : BankUnit) : (s.setBank b u).Canonical := h
  unfold State.renew
  extract_lets e w hot _ ks u v
  have hu : u.Canonical := hset _
  have hv : v.Canonical := .ite (hu.withExt hu.ext_wf) hu
  refine .ite (.ite h (hset _)) ?_
  clear_value hot v w
  split
  · exact .ite (hv.withStack hv.stack_wf) hv
  · exact hv

@[simp] theorem State.Canonical.putWord (h : s.Canonical) (b n v : Nat) : (s.putWord b n v).Canonical :=
  (contents_setReg ..).canonical ((h.bankWrite ..).renew ..)

@[simp] theorem State.Canonical.enrolRecord (h : s.Canonical) (bs : Bytes) : (s.enrolRecord bs).Canonical := by
  have hdrop : s.dropEnrol.Canonical := (contents_dropEnrol ..).canonical h
  have hruns : s.catchAll.serveRuns.Canonical := (contents_serveRuns ..).canonical h.catchAll
  unfold State.enrolRecord
  refine .ite hdrop (.ite (.ite hdrop ?_) (.ite (.ite hdrop ((contents_report ..).canonical (hruns.putWord ..))) hdrop))
  dsimp only
  split
  · exact ((contents_addReg ..).trans (contents_dropEnrol ..)).canonical h
  · exact ((contents_addReg ..).trans (contents_report ..)).canonical ((hruns.bankWrite ..).putWord ..)

@[simp] theorem State.Canonical.loadCell (h : s.Canonical) (b cell : Nat) (bs : Bytes) : (s.loadCell b cell bs).Canonical := by
  unfold State.loadCell
  refine (h.bankWrite ..).forEach _ (fun i u hu => .putWord (.ite hu ?_) ..)
  exact (contents_addReg ..).canonical hu

@[simp] theorem State.Canonical.loadRecord (h : s.Canonical) (bs : Bytes) : (s.loadRecord bs).Canonical := by
  unfold State.loadRecord
  exact .ite ((contents_dropEnrol ..).canonical h)
    (((contents_serveRuns ..).canonical h.catchAll).forEach _ (fun i u hu => hu.loadCell ..))

theorem State.Canonical.topkArrive (h : s.Canonical) {c k inc : Nat} {bs : Bytes} {t : State}
    (ht : s.topkArrive c k inc bs = some t) : t.Canonical := by
  unfold State.topkArrive at ht
  dsimp only at ht
  split_ifs at ht <;> cases ht
  · exact (contents_count ..).canonical h
  · exact ((contents_setTopk ..).canonical h).beginWork k

/-! Continuous batching (09). -/

@[simp] theorem State.Canonical.tableSignal (h : s.Canonical) (k inc sem : Nat) : (s.tableSignal k inc sem).Canonical :=
  .ite ((contents_opensC ..).canonical h.catchUp) (.ite (h.catchUp.signalOwn ..) h.catchUp)

/-! The image front end (12). -/

@[simp] theorem State.Canonical.writeLine (h : s.Canonical) (q n : Nat) (l : IfeLine) (px : List (List (Nat × Bool))) :
    (s.writeLine q n l px).Canonical := by
  have hite (c : Prop) [Decidable c] {m : Store} (hm : m.wf) : (if c then m else s.stack).wf := by
    split
    · exact hm
    · exact h.stack_wf
  unfold State.writeLine
  extract_lets base slot hb data bad m m₁ m₂ u
  have hm : m.wf := hite _ (Store.write_wf _ _ _ _ h.stack_wf)
  have hu : u.Canonical := (contents_setReg ..).canonical (h.withStack (Store.write_wf _ _ _ _ (Store.write_wf _ _ _ _ hm)))
  exact .ite ((contents_addReg ..).canonical hu) hu

@[simp] theorem State.Canonical.leaveChain (h : s.Canonical) (q : Nat) (l : IfeLine) (px : List (List (Nat × Bool))) :
    (s.leaveChain q l px).Canonical := by
  have hwritten (n : Nat) (u : IfeUnit) : ((s.writeLine q n l px).setIfe q u).Canonical :=
    (contents_setIfe ..).canonical (h.writeLine ..)
  unfold State.leaveChain
  refine .ite ((contents_blockComplete ..).canonical (.ite ((contents_setIfe ..).canonical ?_) (hwritten ..))) (hwritten ..)
  exact (hwritten ..).withStack (Store.write_wf _ _ _ _ (hwritten ..).stack_wf)

theorem State.Canonical.chain (q n : Nat) {t : State} (h : s.Canonical) (ht : State.chain q n s = some t) : t.Canonical := by
  induction n generalizing s with
  | zero => cases ht
  | succ n ih =>
    unfold State.chain at ht
    split at ht
    next u hu =>
      cases ht
      split at hu
      · obtain ⟨px, _, rfl⟩ := Option.map_eq_some_iff.1 hu
        exact h.leaveChain ..
      · cases hu
    next =>
      obtain ⟨u, hu, ht⟩ := Option.bind_eq_some_iff.1 ht
      exact ih ((State.enterChain_contents s hu).canonical h) ht

@[simp] theorem State.Canonical.copyTable (h : s.Canonical) (q : Nat) : (s.copyTable q).Canonical :=
  (contents_setBit ..).canonical (h.withStack (Store.write_wf _ _ _ _ h.stack_wf))

/-! The network ports (18). -/

@[simp] theorem State.Canonical.bankMessage (h : s.Canonical) (p : Nat) (bs : Bytes) : (s.bankMessage p bs).Canonical :=
  .ite (h.loadRecord bs) (h.forEach _ (fun _ _ hu => (contents_closesC ..).canonical hu))

@[simp] theorem State.Canonical.inboxWrite (h : s.Canonical) (m : InMsg) : (s.inboxWrite m).Canonical := by
  have hdrop : (s.dropReady 2 m).Canonical := (contents_dropReady ..).canonical h
  unfold State.inboxWrite
  refine .ite ((contents_addReg ..).canonical hdrop) ?_
  extract_lets u k a hd v _ w sig j
  have hu : u.Canonical := State.Canonical.catchAll ((contents_addReg ..).canonical hdrop)
  have hw : w.Canonical := (contents_setNet ..).canonical (hu.withExt (Store.write_wf _ _ _ _ hu.ext_wf))
  refine .ite ?_ hw
  split
  · exact (contents_externalSignal ..).canonical hw
  · exact hw

/-! Sensor control (11). -/

@[simp] theorem State.Canonical.sccArrive (h : s.Canonical) (k : Nat) (r : SccRec) : (s.sccArrive k r).2.Canonical := by
  have hset (u : SccUnit) : (s.setScc k u).Canonical := h
  unfold State.sccArrive
  split
  · exact ((contents_addReg ..).trans (contents_count ..)).canonical h
  · dsimp only
    split
    · exact .ite ((hset _).beginWork _) (hset _)
    · exact hset _

@[simp] theorem State.Canonical.sccPort (h : s.Canonical) (k x inc : Nat) (bs : Bytes) : (s.sccPort k x inc bs).Canonical :=
  .ite (h.sccArrive ..) ((contents_count ..).canonical h)

@[simp] theorem State.Canonical.sccFromSlot (h : s.Canonical) (k core slot : Nat) (bs : Bytes) :
    (s.sccFromSlot k core slot bs).Canonical := by
  unfold State.sccFromSlot
  split <;> simp [h]

@[simp] theorem State.Canonical.sccArrived (h : s.Canonical) (x inc a : Nat) (bs : Bytes) (sem : Option Nat) :
    (s.sccArrived x inc a bs sem).Canonical := by
  have hwritten := h.catchAll.writeTs x a (clean bs)
  unfold State.sccArrived
  cases sem with
  | none => exact .ite (hwritten.endWork ..) h
  | some n => exact .ite ((hwritten.signalOwn ..).endWork ..) h

/-! The issue of shunter descriptors (05). -/

@[simp] theorem State.Canonical.shunterTake (h : s.Canonical) (core k : Nat) (d : Desc) (c : Nat) :
    (s.shunterTake core k d c).Canonical := by
  have hqueued := ((contents_shunterQueue s.catchUp core d.shn d c).canonical h.catchUp).goOn k c
  exact .ite (h.coreFault ..) (.ite (h.coreFault ..) (.ite (h.coreFault ..) (.tidy ((contents_beginNext ..).canonical hqueued) c)))

theorem State.Canonical.shunterEntry (h : s.Canonical) (core k : Nat) (x : Ctx) (e : Fetched) :
    (State.shunterEntry core s k x e).Canonical :=
  .ite h ((h.countIssue k x).shunterTake ..)

theorem State.Canonical.shunterIssue (h : s.Canonical) (core slot : Nat) (t : Bool → Bool → Bool) :
    (s.shunterIssue core slot t).Canonical :=
  h.issue core slot _ (fun _ k x e hu _ => hu.shunterEntry core k x e)

@[simp] theorem State.Canonical.recordArrives (h : s.Canonical) (core p k inc : Nat) (xs : List Marked) :
    (s.recordArrives core p k inc xs).Canonical := by
  unfold State.recordArrives
  refine .ite ((contents_count ..).canonical h) (.ite ((contents_routeRec ..).canonical h) (.ite (h.sccPort ..) (.ite ?_
    (.ite (h.enrolRecord ..) (.ite ((contents_batchRecord ..).canonical h) (.ite ((contents_intakePort ..).canonical h) h))))))
  cases ht : s.topkArrive core k inc (xs.map Prod.fst) with
  | none => exact h
  | some t => exact h.topkArrive ht

@[simp] theorem State.Canonical.topkRecords (h : s.Canonical) (core : Nat) (d : Desc) (m : Nat) (xs : List Marked) :
    (State.topkRecords core d m s xs).1.Canonical := by
  induction m generalizing s xs with
  | zero => exact h
  | succ m ih =>
    unfold State.topkRecords
    split
    · exact h
    · split
      · exact ih (h.recordArrives ..) _
      · exact h

@[simp] theorem State.Canonical.deliverPort (h : s.Canonical) (core : Nat) (d : Desc) (xs : List Marked) :
    (s.deliverPort core d xs).1.Canonical := by
  unfold State.deliverPort
  split
  · exact (contents_acceptResult ..).canonical h
  · extract_lets sz r u
    have hu : u.Canonical := by
      unfold u r
      split
      · exact h.topkRecords ..
      · exact (contents_sendRecords ..).canonical h
    split
    · exact hu
    · exact .ite hu ((contents_count ..).canonical hu)

@[simp] theorem State.Canonical.shunterDone (h : s.Canonical) (core : Nat) (d : Desc) (c : Nat) :
    (s.shunterDone core d c).Canonical := by
  have hkb := (contents_addKB s (kCore core 9) (d.runs * d.run)).canonical h
  exact (State.Canonical.ite (hkb.signalOwn ..) hkb).endWork ..

@[simp] theorem State.Canonical.shunterFinish (h : s.Canonical) (core n : Nat) (f : Done) :
    (s.shunterFinish core n f).Canonical := by
  have hset (u : ShuntUnit) : (s.setShunter core n u).Canonical := (contents_setShunter ..).canonical h
  exact .ite (.shunterDone (.ite ((hset _).deliverPort ..) (hset _)) ..) h

@[simp] theorem State.Canonical.shunterStops (h : s.Canonical) (core n : Nat) (d : Desc) : (s.shunterStops core n d).Canonical :=
  (h.copyRest ..).coreFaultAt ..

@[simp] theorem State.Canonical.shunterCopied (h : s.Canonical) (core n : Nat) (d : Desc) :
    (s.shunterCopied core n d).Canonical := by
  have hcopied := h.copyRest core n s.cclk d
  have hopen : ({ s.copyRest core n s.cclk d with extOpen := true } : State).Canonical := hcopied
  unfold State.shunterCopied
  extract_lets u v w r z
  have hw : w.Canonical := .ite hopen hcopied
  have hz : z.Canonical := by
    unfold z r
    split
    · exact hw.deliverPort ..
    · exact hw
  refine .ite (hcopied.coreFaultAt ..) ?_
  split
  · exact (contents_beginNext ..).canonical (((contents_setShunter ..).canonical hz).shunterDone ..)
  · exact (contents_setShunter ..).canonical hz

/-! Functions and their states (16). -/

@[simp] theorem State.Canonical.jobEnters (h : s.Canonical) (j c : Nat) : (s.jobEnters j c).Canonical := by
  unfold State.jobEnters
  extract_lets p u v w z
  have hu : SameContents s u := .ite (.refl s) (contents_setPart ..)
  have hv : SameContents u v := (((contents_setFn ..).trans (contents_setReg ..)).trans (contents_setBit ..)).trans (contents_setReg ..)
  have hz : z.Canonical :=
    ((contents_setReg ..).trans ((contents_setReg ..).trans (contents_setJob ..))).canonical ((hu.trans hv).canonical h)
  exact .ite hz (hz.launch ..)

@[simp] theorem State.Canonical.enterFn (h : s.Canonical) (n c f : Nat) : (s.enterFn n c f).Canonical := by
  unfold State.enterFn
  split <;> simp [h]

@[simp] theorem State.Canonical.enterNow (h : s.Canonical) (fs : List Nat) : (s.enterNow fs).Canonical :=
  h.forEach _ (fun _ _ hu => (contents_setPend ..).canonical (hu.enterFn ..))

@[simp] theorem State.Canonical.enterAll (h : s.Canonical) (l : Launch) : (s.enterAll l).Canonical := by
  unfold State.enterAll
  split <;> simp [h]

@[simp] theorem State.Canonical.tryLaunches (h : s.Canonical) : s.tryLaunches.Canonical := by
  have hset (ls : List Launch) : ({ s with launches := ls } : State).Canonical := h
  unfold State.tryLaunches
  exact (hset _).forEach _ (fun l u hu => hu.enterAll l)

@[simp] theorem State.Canonical.startAll (h : s.Canonical) (set : Bool) (fs : List Nat) : (s.startAll set fs).Canonical := by
  have hset {u : State} (hu : u.Canonical) (ls : List Launch) : ({ u with launches := ls } : State).Canonical := hu
  exact (hset (h.forEach fs (fun f u hu => (contents_prepare ..).canonical hu)) _).tryLaunches

@[simp] theorem State.Canonical.stopFn (h : s.Canonical) (f : Nat) : (s.stopFn f).Canonical := by
  unfold State.stopFn
  split
  case h_4 => exact ((contents_setFn ..).canonical h).orderLeave ..
  all_goals simp [h]

@[simp] theorem State.Canonical.doCmd (h : s.Canonical) (r : Route) (c : FnCmd) (f : Nat) : (s.doCmd r c f).s.Canonical := by
  unfold State.doCmd
  cases c with
  | enable => exact (contents_setPend ..).canonical h
  | disable =>
    have hoff := (contents_setFn s f .off).canonical h
    dsimp only
    split
    · exact hoff.forEach _ (fun p u hu => ((contents_setBit ..).trans (contents_setReg ..)).canonical hu)
    · exact (contents_doze ..).canonical hoff
    · exact hoff
  | start =>
    dsimp only
    split
    · exact (contents_refuse ..).canonical h
    next t ht => exact ((State.passes_contents s ht).canonical h).startAll ..
  | stop => exact .ite (h.stopFn f) h
  | clear => exact ((contents_setFn ..).trans (contents_allClear ..)).canonical h
  | claim => exact (contents_setField ..).canonical h
  | release => exact (contents_setField ..).canonical h

@[simp] theorem State.Canonical.fnCommand (h : s.Canonical) (r : Route) (c : FnCmd) (f : Nat) :
    (s.fnCommand r c f).s.Canonical := by
  unfold State.fnCommand
  split
  · exact (contents_refuse ..).canonical h
  · exact h.doCmd ..

@[simp] theorem State.Canonical.fnWrite (h : s.Canonical) (r : Route) (f v : Nat) : (s.fnWrite r f v).s.Canonical := by
  unfold State.fnWrite
  split
  · exact h
  · split
    · exact h.fnCommand ..
    · exact (contents_refuse ..).canonical h

@[simp] theorem State.Canonical.setCommand (h : s.Canonical) (r : Route) (data : Bytes) : (s.setCommand r data).s.Canonical := by
  unfold State.setCommand
  split
  · exact (contents_refuse ..).canonical h
  · split
    · exact (contents_refuse ..).canonical h
    · split
      · exact h.forEach _ (fun f u hu => .ite (hu.stopFn f) hu)
      · split
        · exact (contents_refuse ..).canonical h
        next t ht => exact ((State.passes_contents s ht).canonical h).startAll ..

/-! Power and reset (19, 20). -/

theorem State.reset_canonical : State.reset.Canonical := ⟨rfl, rfl, rfl, rfl, fun _ hp => nomatch hp⟩

@[simp] theorem State.wiped_canonical (s : State) : s.wiped.Canonical := State.reset_canonical

@[simp] theorem State.cleared_canonical (s : State) : s.cleared.Canonical := by
  have hkept := s.wiped_canonical.forEach keptKeys (f := fun k t => t.setReg k (s.reg k))
    (fun k u hu => (contents_setReg ..).canonical hu)
  exact ((contents_setReg ..).trans (contents_setReg ..)).canonical hkept

@[simp] theorem State.comeUp_canonical (s : State) (code wake : Nat) : (s.comeUp code wake).Canonical := by
  have hc := s.cleared_canonical
  unfold State.comeUp
  generalize s.cleared = u at hc ⊢
  extract_lets t _ p t₁ t₂
  have ht₁ : t₁.Canonical := hc.withPower _
  have ht₂ : t₂.Canonical := (contents_setReg ..).canonical ht₁
  exact .ite ht₂ ((contents_report ..).canonical ht₂)

@[simp] theorem State.rest_canonical (s : State) : s.rest.Canonical := by
  have hc := s.cleared_canonical
  unfold State.rest
  generalize s.cleared = u at hc ⊢
  exact hc.withPower _

@[simp] theorem State.failBringUp_canonical (s : State) (code : Nat) : (s.failBringUp code).Canonical :=
  (contents_setReg ..).canonical s.rest_canonical

@[simp] theorem State.resume_canonical (s : State) (code wake : Nat) : (s.resume code wake).Canonical :=
  .ite (State.comeUp_canonical ..) (State.failBringUp_canonical ..)

@[simp] theorem State.powerOn_canonical (s : State) (mainPresent : Bool) (b : BankCheck) :
    (s.powerOn mainPresent b).Canonical := by
  unfold State.powerOn
  extract_lets _ s₁ s₂ t _
  have ht : t.Canonical := s₂.rest_canonical
  clear_value t
  exact .ite (State.comeUp_canonical ..) (ht.withPower _)

@[simp] theorem State.Canonical.wakeBy (h : s.Canonical) (cause : Nat) : (s.wakeBy cause).Canonical :=
  .ite h (State.resume_canonical ..)

@[simp] theorem State.Canonical.zeroDies (h : s.Canonical) : s.zeroDies.Canonical := ⟨rfl, rfl, rfl, h.2.2.2⟩

@[simp] theorem State.Canonical.refillHot (h : s.Canonical) : s.refillHot.Canonical := by
  unfold State.refillHot
  refine h.forEach _ (fun b u hu => .ite ?_ hu)
  extract_lets put
  have hput (v : State) (words : Bool) (hv : v.Canonical) : (put v words).Canonical := by
    unfold put
    split
    · exact hv.withStack (Store.write_wf _ _ _ _ hv.stack_wf)
    · exact hv
  exact hput _ _ (hput _ _ hu)

@[simp] theorem State.Canonical.restartCache (h : s.Canonical) : s.restartCache.Canonical := by
  have hempty : ({ s with cache := [] } : State).Canonical := h
  exact hempty.repin

@[simp] theorem State.Canonical.finishPower (h : s.Canonical) (from_ target : Nat) : (s.finishPower from_ target).Canonical := by
  unfold State.finishPower
  extract_lets s₁ _ s₂ t₁ _ t₂ s₃ s₄ s₅ s₆
  have h₁ : s₁.Canonical := (contents_addReg ..).canonical h
  clear_value s₁
  have h₂ : s₂.Canonical := h₁.withPower _
  clear_value s₂
  have ht₁ : t₁.Canonical := State.rest_canonical _
  clear_value t₁
  have ht₂ : t₂.Canonical := ht₁.withPower _
  have h₃ : s₃.Canonical := .ite ((contents_setReg ..).canonical h₂) h₂
  have h₄ : s₄.Canonical := .ite (h₃.forEach _ (fun p u hu => (contents_doze ..).canonical hu)) h₃
  have h₅ : s₅.Canonical := .ite h₄.zeroDies.refillHot h₄
  have h₆ : s₆.Canonical := (contents_setReg ..).canonical h₅
  refine .ite ?_ (.ite h₆.restartCache h₆)
  split
  · exact ht₂.wakeBy _
  · exact ht₂

/-! Lifecycle and containers (19). -/

@[simp] theorem State.Canonical.putModel (h : s.Canonical) (o : Origin) (bs payload : Bytes) :
    (s.putModel o bs payload).Canonical := by
  have hdrop (id : Nat) := (contents_dropModel s id).canonical h
  unfold State.putModel
  extract_lets id u m v
  have hv : v.Canonical := hdrop id
  exact .ite (hv.loadModel_getD _ ((contents_addReg ..).canonical hv)) hv

@[simp] theorem State.Canonical.hostModel (h : s.Canonical) (index : Nat) (bs : Bytes) : (s.hostModel index bs).s.Canonical := by
  unfold State.hostModel
  dsimp only
  split
  · exact (contents_refuse ..).canonical h
  · split
    · exact ((contents_noteFailure ..).trans (contents_refuse ..)).canonical h
    · split
      · exact ((contents_count ..).trans (contents_refuse ..)).canonical h
      · split
        · exact (contents_refuse ..).canonical h
        · exact h.putModel ..

@[simp] theorem State.Canonical.netModel (h : s.Canonical) (bs : Bytes) : (s.netModel bs).1.Canonical := by
  unfold State.netModel
  split
  · exact ((contents_noteFailure ..).trans (contents_report ..)).canonical h
  · split
    · exact (contents_count ..).canonical h
    · split
      · exact h
      · exact h.putModel ..

@[simp] theorem State.Canonical.handModel (h : s.Canonical) (p : Nat) (m : InMsg) (bs : Bytes) :
    (s.handModel p m bs).Canonical := by
  have hnet := h.netModel bs
  unfold State.handModel
  refine .ite ((contents_discardMessage ..).canonical h) ?_
  split
  next ht =>
    rw [ht] at hnet
    exact (contents_discardMessage ..).canonical hnet
  next ht =>
    rw [ht] at hnet
    exact (contents_netCount ..).canonical hnet

/-! Debug access (19). -/

@[simp] theorem State.Canonical.eraseSecrets (h : s.Canonical) : s.eraseSecrets.Canonical := by
  have hzero (es : List CacheEntry) {m : Store} (hm : m.wf) :
      (es.foldl (fun m e => m.zero 8 e.base (roundUp e.size 8)) m).wf := by
    induction es generalizing m with
    | nil => exact hm
    | cons e es ih => exact ih (Store.zero_wf _ _ _ _ hm)
  have hdom {w : State} (hw : w.Canonical) (k : Nat) (bs : Bytes) : (w.setDom k bs).Canonical := hw
  unfold State.eraseSecrets
  extract_lets u gone stack js v
  have hv : v.Canonical := h.catchAll.forEach _ (fun j w hw => hdom ((contents_setReg ..).canonical hw) _ _)
  exact hv.withStack (hzero gone h.catchAll.stack_wf)

@[simp] theorem State.Canonical.requestLevel (h : s.Canonical) (r : Route) (v : Nat) : (s.requestLevel r v).s.Canonical := by
  have hno (c : Nat) : (s.refuse r ⟨c, 0x2820, 1⟩ 0).s.Canonical := (contents_refuse ..).canonical h
  have htake {u : State} (hu : u.Canonical) : ((u.setReg (kDebug 1) v).setReg (kDebug 2) v).Canonical :=
    ((contents_setReg ..).trans (contents_setReg ..)).canonical hu
  unfold State.requestLevel
  dsimp only
  split_ifs
  · exact hno _
  · exact hno _
  · exact htake h.eraseSecrets
  · exact hno _
  · exact htake h

@[simp] theorem State.Canonical.debugRead (h : s.Canonical) (space core a : Nat) : (s.debugRead space core a).Canonical := by
  have hfree {u : State} (hu : u.Canonical) (n : Nat) : ({ u with freeCount := n } : State).Canonical := hu
  unfold State.debugRead
  extract_lets say r
  have hsay {u : State} (hu : u.Canonical) (status d : Nat) : (say u status d).Canonical := (contents_select ..).canonical hu
  clear_value say
  split
  · exact ((contents_fresh ..).trans (contents_select ..)).canonical h
  next p _ =>
    have hx := (contents_protected s p).canonical h
    refine .ite (hsay h _ _) (.ite ((contents_addReg ..).canonical (hsay hx _ _)) ?_)
    extract_lets u xs free v w
    have hv : v.Canonical := by
      cases p <;> exact (contents_noticeBad ..).canonical hx.catchAll
    exact .ite ((contents_debugged ..).canonical (hsay (hfree hv _) _ _))
      (.ite ((contents_debugged ..).canonical (hsay (hfree hv _) _ _)) ((contents_debugged ..).canonical (hsay hv _ _)))

@[simp] theorem State.Canonical.debugWrite (h : s.Canonical) (space core a d : Nat) :
    (s.debugWrite space core a d).Canonical := by
  unfold State.debugWrite
  extract_lets say
  have hsay {u : State} (hu : u.Canonical) (status : Nat) : (say u status).Canonical := (contents_select ..).canonical hu
  clear_value say
  refine .ite (hsay h _) ?_
  split
  · exact hsay ((contents_fresh ..).canonical h) _
  · exact .ite (hsay h _) ((contents_debugged ..).canonical (hsay (h.catchAll.poke ..) _))

@[simp] theorem State.Canonical.haltCtx (h : s.Canonical) (k : Nat) (x : Ctx) : (s.haltCtx k x).Canonical := by
  have hhalted := h.catchAll.onCtx k (f := fun x => { x with halted := true, stepOne := false }) (fun _ hx => hx)
  exact .ite (hhalted.orderTeardown k) (hhalted.rehalt k _)

/-! Scrubbing, pools, wide mode and the determinism bit (07, 10). -/

theorem State.Canonical.setStore (h : s.Canonical) (l : Level) {m : Store} (hm : m.wf) : (s.setStore l m).Canonical := by
  cases l with
  | scratchpad => exact h.withTs hm
  | accumulator => exact h.withAcc hm
  | stack => exact h.withStack hm
  | external => exact h.withExt hm

theorem State.Canonical.store_wf (h : s.Canonical) (l : Level) : (s.store l).wf := by
  cases l with
  | scratchpad => exact h.ts_wf
  | accumulator => exact h.acc_wf
  | stack => exact h.stack_wf
  | external => exact h.ext_wf

@[simp] theorem State.Canonical.finding (h : s.Canonical) (l : Level) (w : Nat) (f : ReadFinding) :
    (s.finding l w f).Canonical := by
  have hback (bs : List Writeback) : ({ s with writebacks := bs } : State).Canonical := h
  have hbad (ws : List Nat) : (s.setStore l { s.store l with bad := ws }).Canonical := h.setStore l (h.store_wf l)
  exact .ite h (.ite ((contents_foundBad ..).canonical (hbad _)) (.ite ((contents_count ..).canonical (hback _)) h))

@[simp] theorem State.Canonical.agentRead (h : s.Canonical) (l : Level) (agent word : Nat) (f : ReadFinding) :
    (s.agentRead l agent word f).Canonical := by
  have hread (w : Nat) := h.catchUp.forEach (upTo (droneSpan l))
    (f := fun i s => s.finding l (w + i) (if i = word % droneSpan l then f else .clean)) (fun i u hu => hu.finding ..)
  exact .ite (((contents_walkOn ..).trans (contents_setWalker ..)).canonical (hread _)) h.catchUp

@[simp] theorem State.Canonical.passWord (h : s.Canonical) (l : Level) (agent : Nat) (o : Option Nat) :
    (s.passWord l agent o).Canonical := by
  cases o with
  | none => exact h
  | some w => exact .ite (h.catchUp.finding ..) h

@[simp] theorem State.Canonical.resizePool (h : s.Canonical) (sub v : Nat) : (s.resizePool sub v).Canonical :=
  .ite h (State.Canonical.restartCache (s := s.setReg (kMem sub) v) ((contents_setReg ..).canonical h))

@[simp] theorem State.Canonical.setWide (h : s.Canonical) (on : Bool) : (s.setWide on).Canonical := by
  have hempty : ({ s.catchAll with cache := [] } : State).Canonical := h.catchAll
  refine .ite ((contents_setReg ..).canonical (hempty.withStack ?_)) (.repin ((contents_setReg ..).canonical hempty))
  exact Store.zero_wf _ _ _ _ h.catchAll.stack_wf

@[simp] theorem State.Canonical.settleLimits (h : s.Canonical) : s.settleLimits.Canonical := by
  have hset {u : State} (hu : u.Canonical) (l : LimitUnit) : ({ u with limits := l } : State).Canonical := hu
  exact hset (.ite ((contents_addReg ..).canonical h.catchUp) h.catchUp) _

@[simp] theorem State.Canonical.setDeterminism (h : s.Canonical) (v : Nat) : (s.setDeterminism v).Canonical :=
  ((contents_setReg ..).trans (contents_setBit ..)).canonical h.settleLimits

/-! EtherCAT (16, 17). -/

@[simp] theorem State.Canonical.slotCommand (h : s.Canonical) (v : Nat) : (s.slotCommand v).s.Canonical := by
  have hnoted := (contents_noteEc s 0x2020 [bits v 23 16] []).canonical h
  unfold State.slotCommand
  dsimp only
  split_ifs
  · exact (contents_refuse ..).canonical hnoted
  · exact (contents_refuse ..).canonical hnoted
  · exact hnoted.fnWrite ..

@[simp] theorem State.Canonical.takeCommand (h : s.Canonical) : s.takeCommand.Canonical := by
  have hec (e : EcUnit) : ({ s with ec := e } : State).Canonical := h
  exact .ite h ((contents_setReg ..).canonical ((hec _).slotCommand _))

@[simp] theorem State.Canonical.takeOutputs (h : s.Canonical) : s.takeOutputs.Canonical := by
  have hveto := (contents_takeVetoBits s).canonical h
  exact (hveto.forEach (upTo 4) (f := fun i s => s.takeEject i) (fun i u hu => (contents_takeEject ..).canonical hu)).takeCommand

/-! Dictionary writes (16). -/

@[simp] theorem State.Canonical.cacheCommand (h : s.Canonical) (r : Route) (v : Nat) : (s.cacheCommand r v).s.Canonical := by
  have hpins {u : State} (hu : u.Canonical) (ps : List Nat) : ({ u with pins := ps } : State).Canonical := hu
  have hno (c : Nat) : (s.refuse r ⟨c, 0x2560, 4⟩ 0).s.Canonical := (contents_refuse ..).canonical h
  unfold State.cacheCommand
  dsimp only
  split
  · split
    next t ht => exact hpins (h.pinModel ht) _
    next => exact hno _
  · exact hpins h _
  · split
    next t ht => exact h.pinModel ht
    next => exact hno _
  · split
    · exact hno _
    · exact (contents_dropModel ..).canonical h
  · exact (contents_flushCache ..).canonical h

@[simp] theorem State.Canonical.sccCommand (h : s.Canonical) (r : Route) (ix : Nat) (data : Bytes) :
    (s.sccCommand r ix data).s.Canonical := by
  have harrive := h.sccArrive (ix - 0x2230) (sccRecord data none)
  unfold State.sccCommand
  dsimp only
  split
  · exact harrive
  · exact (contents_refuse ..).canonical harrive

@[simp] theorem State.Canonical.actDom (h : s.Canonical) (r : Route) (ix sub : Nat) (data : Bytes) :
    (s.actDom r ix sub data).s.Canonical := by
  unfold State.actDom
  split_ifs
  · exact (contents_storeImage ..).canonical h
  · exact h.sccCommand ..
  · exact (contents_storeFirmware ..).canonical h
  · exact (contents_takeToken ..).canonical h
  · exact (contents_putFlat ..).canonical h
  · exact h

theorem State.Canonical.iteReply {a b : Reply} {c : Prop} [Decidable c] (ha : a.s.Canonical) (hb : b.s.Canonical) :
    (if c then a else b).s.Canonical := by
  split
  · exact ha
  · exact hb

@[simp] theorem State.Canonical.actNum (h : s.Canonical) (r : Route) (ix sub m v : Nat) :
    (s.actNum r ix sub m v).s.Canonical := by
  unfold State.actNum
  extract_lets k put
  have hput : put.Canonical := (contents_putMasked ..).canonical h
  clear_value put
  refine .iteReply ((contents_actEncoder ..).canonical h) ?_
  refine .iteReply ((contents_actCompare ..).canonical h) ?_
  refine .iteReply ((contents_afterWindow ..).canonical hput) ?_
  refine .iteReply ((contents_afterTimer ..).canonical hput) ?_
  refine .iteReply ((contents_setBit ..).canonical h) ?_
  refine .iteReply (h.setDeterminism _) ?_
  refine .iteReply (h.resizePool ..) ?_
  refine .iteReply (.ite h (h.setWide _)) ?_
  refine .iteReply (.ite h ((contents_emptyStore ..).canonical hput)) ?_
  refine .iteReply (h.cacheCommand ..) ?_
  refine .iteReply ((contents_bankCommand ..).canonical h) ?_
  refine .iteReply ((contents_causes ..).canonical hput) ?_
  refine .iteReply (SameContents.canonical (by simp) hput) ?_
  refine .iteReply ((contents_restartCount ..).canonical hput) ?_
  refine .iteReply ((contents_ptpSwitched ..).canonical hput) ?_
  refine .iteReply ((contents_holdGains ..).canonical hput) ?_
  refine .iteReply ((contents_applyOffset ..).canonical h) ?_
  refine .iteReply ((contents_barrierCommand ..).canonical h) ?_
  refine .iteReply ((contents_powerCommand ..).canonical h) ?_
  refine .iteReply ((contents_lifeCommand ..).canonical h) ?_
  refine .iteReply (h.requestLevel ..) ?_
  refine .iteReply h ?_
  exact .iteReply hput.takeOutputs hput

@[simp] theorem State.Canonical.act (h : s.Canonical) (r : Route) (ix sub : Nat) (data : Bytes) :
    (s.act r ix sub data).s.Canonical := by
  unfold State.act
  refine .iteReply (.iteReply (h.setCommand ..) (h.fnWrite ..)) ?_
  split
  · exact h
  · exact .iteReply (h.actDom ..) (.iteReply ((contents_clearBits ..).canonical h) (h.actNum ..))

@[simp] theorem State.Canonical.write (h : s.Canonical) (r : Route) (ix sub : Nat) (data : Bytes) :
    (s.write r ix sub data).s.Canonical := by
  have ht := (contents_arrive s r ix sub data).canonical h
  unfold State.write
  refine .iteReply h (.iteReply ((contents_refuse ..).canonical h) ?_)
  dsimp only
  split
  · exact (contents_refuse ..).canonical ht
  · exact ht.act ..

@[simp] theorem State.Canonical.caAct (h : s.Canonical) (r : Route) (ix : Nat) (xs : List (Nat × Bytes)) :
    (s.caAct r ix xs).Canonical := by
  unfold State.caAct
  exact .ite (h.forEach xs (fun _ _ hu => (contents_setReg ..).canonical hu)).takeOutputs (h.forEach xs (fun _ _ hu => hu.act ..))

@[simp] theorem State.Canonical.writeComplete (h : s.Canonical) (r : Route) (ix sub : Nat) (data : Bytes) :
    (s.writeComplete r ix sub data).s.Canonical := by
  have ht := (contents_arrive s r ix sub data).canonical h
  unfold State.writeComplete
  refine .iteReply h (.iteReply ((contents_refuse ..).canonical h) ?_)
  dsimp only
  split
  · exact (contents_refuse ..).canonical ht
  · exact ht.caAct ..

@[simp] theorem State.Canonical.writeAny (h : s.Canonical) (r : Route) (ix sub : Nat) (complete : Bool) (data : Bytes) :
    (s.writeAny r ix sub complete data).s.Canonical :=
  .iteReply (h.writeComplete ..) (h.write ..)

/-! SDO downloads (16). -/

@[simp] theorem State.Canonical.through (h : s.Canonical) (r : Route) (ix sub : Nat) (data : Bytes) :
    (s.through r ix sub data).Canonical :=
  .ite h ((contents_sentOver ..).canonical (h.write ..))

@[simp] theorem State.Canonical.sdoFinish (h : s.Canonical) (d : SdoDown) (data : Bytes) : (s.sdoFinish d data).Canonical := by
  unfold State.sdoFinish
  extract_lets _ u
  have hu : u.Canonical := h
  clear_value u
  exact .ite ((contents_sentOver ..).canonical ((contents_refuse ..).canonical hu))
    ((contents_sentOver ..).canonical (hu.writeAny ..))

/-! The host serial port (17). -/

@[simp] theorem State.Canonical.hspDownload (h : s.Canonical) (q : HspReq) : (s.hspDownload q).Canonical := by
  unfold State.hspDownload
  extract_lets u no t
  have hu : u.Canonical := (contents_closeXfer ..).canonical h
  have hno (c : Nat) : (no c).Canonical := (contents_answerWrite ..).canonical ((contents_refuse ..).canonical hu)
  have ht : t.Canonical := (contents_openXfer ..).canonical hu
  refine .ite (hno _) (.ite (hno _) (.ite ?_ ((contents_inProgress ..).canonical ht)))
  exact (contents_answerWrite ..).canonical (hu.writeAny ..)

@[simp] theorem State.Canonical.setHsp (h : s.Canonical) (x : HspUnit) : (s.setHsp x).Canonical := h

@[simp] theorem State.Canonical.hspDownSegment (h : s.Canonical) (q : HspReq) : (s.hspDownSegment q).Canonical := by
  have hbad : (s.badSegment q).Canonical := (contents_badSegment ..).canonical h
  unfold State.hspDownSegment
  split
  · exact hbad
  next x _ =>
    refine .ite hbad (.ite ((contents_answerWrite ..).canonical ?_) ?_)
    · exact State.Canonical.setHsp (h.writeAny ..) _
    · exact (contents_inProgress ..).canonical (h.setHsp _)

@[simp] theorem State.Canonical.actOn (h : s.Canonical) (q : HspReq) : (s.actOn q).Canonical := by
  unfold State.actOn
  extract_lets u _ v
  have hu : u.Canonical := (contents_xferOverdue ..).canonical h
  have hv : v.Canonical := hu.setHsp _
  clear_value v
  split
  · exact (contents_hspUpload ..).canonical hv
  · exact hv.hspDownload q
  · exact hv.hspDownSegment q
  · exact (contents_hspUpSegment ..).canonical hv
  · exact (contents_hspAbort ..).canonical hv

@[simp] theorem State.Canonical.hspWrite (h : s.Canonical) (bs : Bytes) : (s.hspWrite bs).Canonical := by
  unfold State.hspWrite
  extract_lets u _ v _ q
  have hu : u.Canonical := (contents_chipSelect ..).canonical h
  have hv : v.Canonical := hu.setHsp _
  clear_value u v
  refine .ite ((contents_count ..).canonical (hu.setHsp _)) ?_
  split
  · exact (contents_keepSeq ..).canonical (hv.actOn q)
  · exact (contents_inProgress ..).canonical ((contents_framing ..).canonical hv)
  · exact (contents_inProgress ..).canonical hv

/-! The issue of vector descriptors (05). -/

theorem State.Canonical.vectorTake (h : s.Canonical) (core k : Nat) (x : Ctx) (d : Desc) (c : Nat) :
    (s.vectorTake core k x d c).Canonical :=
  .ite (h.coreFault ..) ((((contents_setVec ..).canonical h.catchAll).goOn k c).tidy c)

theorem State.Canonical.vectorEntry (h : s.Canonical) (core k : Nat) (x : Ctx) (e : Fetched) :
    (State.vectorEntry core s k x e).Canonical :=
  .ite h ((h.countIssue k x).vectorTake ..)

@[simp] theorem State.Canonical.vectorIssue (h : s.Canonical) (core slot v : Nat) : (s.vectorIssue core slot v).Canonical :=
  h.issue core slot _ (fun _ k x e hu _ => hu.vectorEntry core k x e)

/-! The passage of time (00). -/

@[simp] theorem State.Canonical.perform (h : s.Canonical) (e : Effect) : (s.perform e).Canonical := by
  cases e with
  | source src late => exact (contents_deliverEvent ..).canonical h
  | reach d => exact (contents_valuesReached ..).canonical h
  | cmpArm n => exact (contents_armCmp ..).canonical h
  | cmpDisarm n => exact (contents_disarmCmp ..).canonical h
  | cmpValue n v =>
    have hset := (contents_setReg s (kCmp n 2) v).canonical h
    exact .ite ((contents_armCmp ..).canonical hset) hset
  | cmpJudge n late => exact (contents_judgeCmp ..).canonical h
  | winArm w => exact (contents_armWin ..).canonical h
  | winDisarm w => exact (contents_disarmWin ..).canonical h
  | winEnter w => exact (contents_winEnter ..).canonical h
  | timerLoad t => exact .ite ((contents_loadTimer ..).canonical h) h
  | orphan n hold => exact h.orphanFault n hold
  | enter fs => exact h.enterNow fs
  | tally k => exact (contents_addReg ..).canonical h
  | overheld k inc => exact .ite (h.holdOverrun k) h
  | stir => exact h.tidy _
  | hubGrant => exact ((contents_grantAllHub ..).canonical h).tidy _
  | creditGrant => exact (h.grantCredits _).tidy _
  | external j sem stamp => exact h.externalArrives ..
  | sccResult x inc a bs sem => exact h.sccArrived ..
  | publish j v => exact (contents_published ..).canonical h
  | port core p ctx inc bs => exact h.recordArrives ..
  | fire src dom w0 w1 w2 w3 => exact (contents_enterRec ..).canonical h
  | enrol bs => exact h.enrolRecord bs
  | step ctx inc bs => exact (contents_stepRecord ..).canonical h
  | tableDone ctx inc sem => exact h.tableSignal ..
  | judge => exact (contents_judged ..).canonical h
  | drive v => exact (contents_driveDo ..).canonical h
  | strobe c late => exact (contents_strobe ..).canonical h
  | carry => exact (contents_carryOn ..).canonical h.catchUp

@[simp] theorem State.Canonical.atTime (h : s.Canonical) (t : Nat) : (s.atTime t).Canonical := h

theorem State.Canonical.passTo (t n : Nat) (h : s.Canonical) : (State.passTo t n s).Canonical := by
  induction n generalizing s with
  | zero => exact h
  | succ n ih =>
    unfold State.passTo
    split
    · exact h
    next l ls _ =>
      have hlater : ({ s with later := ls } : State).Canonical := h
      exact .ite (ih ((hlater.atTime _).perform _)) h

@[simp] theorem State.Canonical.wait (h : s.Canonical) (dt : Nat) : (s.wait dt).Canonical :=
  ((contents_sealed s _).canonical (h.passTo ..)).atTime _

theorem State.Canonical.during (h : s.Canonical) (dt : Nat) {f : State → State} (hf : ∀ {u}, u.Canonical → (f u).Canonical) :
    (s.during dt f).Canonical :=
  .ite ((contents_sealed ..).canonical (hf (h.wait dt))) (h.wait dt)

theorem State.Canonical.inField (h : s.Canonical) (dt : Nat) {f : State → State} (hf : ∀ {u}, u.Canonical → (f u).Canonical) :
    (s.inField dt f).Canonical :=
  .ite ((contents_sealed ..).canonical (hf (h.wait dt))) (h.wait dt)

theorem State.Canonical.via (h : s.Canonical) (r : Route) (dt : Nat) {f : State → State}
    (hf : ∀ {u}, u.Canonical → (f u).Canonical) : (s.via r dt f).Canonical := by
  have hrouted {u : State} (hu : u.Canonical) (g : Nat) (p : List Instr) (fu : Fuses) :
      ({ u with grade := g, pending := p, fuses := fu } : State).Canonical := hu
  exact .ite (hrouted (hf (h.wait dt)) ..) (h.wait dt)

theorem State.Canonical.sealing (h : s.Canonical) (dt : Nat) {f : State → State} (hf : ∀ {u}, u.Canonical → (f u).Canonical) :
    (s.sealing dt f).Canonical :=
  (contents_sealed ..).canonical (hf (h.wait dt))

theorem State.Canonical.tap' (h : s.Canonical) (need : Nat) (still : Bool) {f : State → State} (hf : (f s).Canonical) :
    (s.tap' need still f).Canonical :=
  .ite h (.ite hf ((contents_selectBypass ..).canonical h))

theorem State.Canonical.debugCtrl (h : s.Canonical) (op job lane : Nat) (needHalt : Bool) {f : Nat → Ctx → State → State}
    (hf : ∀ k x, x.Canonical → (f k x s).Canonical) : (s.debugCtrl op job lane needHalt f).Canonical := by
  unfold State.debugCtrl
  extract_lets k say
  have hsay {u : State} (hu : u.Canonical) (status : Nat) : (say u status).Canonical := (contents_select ..).canonical hu
  split
  · exact hsay h 1
  next x hx =>
    refine .ite (hsay h 2) ((contents_debugged ..).canonical (hsay (hf k x ?_) 0))
    split_ifs at hx
    exact h.of_ctx? hx

theorem State.Canonical.put (h : s.Canonical) (r : Route) (dt ix sub : Nat) (data : Bytes) :
    (s.via r dt (fun u => u.through r ix sub data)).Canonical :=
  h.via r dt (fun hu => hu.through r ix sub data)

end Sys2Proof.Machine
end

section
/-! Commands and steps keep the memories in canonical form (07 R192, R202, R206, R216; log 138). -/
namespace Sys2Proof.Machine
variable {s : State}

theorem State.Canonical.execPowerOn (h : s.Canonical) (dt : Nat) (mainPresent : Bool) (banks : BankCheck) :
    ∃ u, execPowerOn dt mainPresent banks s = .next u ∧ u.Canonical :=
  ⟨_, rfl, h.sealing _ (fun hu => by (split <;> simp [hu]))⟩

theorem State.Canonical.execBringUpFailure (h : s.Canonical) (dt : Nat) (stage : Fin 3) :
    ∃ u, execBringUpFailure dt stage s = .next u ∧ u.Canonical :=
  ⟨_, rfl, h.sealing _ (fun hu => by (dsimp only; split_ifs <;> simp [hu]))⟩

theorem State.Canonical.execResetN (h : s.Canonical) (dt : Nat) : ∃ u, execResetN dt s = .next u ∧ u.Canonical :=
  ⟨_, rfl, h.sealing _ (fun hu => by (dsimp only; split_ifs <;> simp [hu]))⟩

theorem State.Canonical.execModuleReset (h : s.Canonical) (dt : Nat) : ∃ u, execModuleReset dt s = .next u ∧ u.Canonical :=
  ⟨_, rfl, h.sealing _ (fun hu => by (split <;> simp [hu]))⟩

theorem State.Canonical.execModuleResetReboot (h : s.Canonical) (dt : Nat) (banks : BankCheck) :
    ∃ u, execModuleResetReboot dt banks s = .next u ∧ u.Canonical :=
  ⟨_, rfl, h.sealing _ (fun hu => by (split <;> simp [hu]))⟩

theorem State.Canonical.execIoDieWatchdog (h : s.Canonical) (dt : Nat) (banks : BankCheck) :
    ∃ u, execIoDieWatchdog dt banks s = .next u ∧ u.Canonical :=
  ⟨_, rfl, h.sealing _ (fun hu => by (split <;> simp [hu]))⟩

theorem State.Canonical.execMainSupplyLoss (h : s.Canonical) (dt : Nat) (level : BitVec 16) :
    ∃ u, execMainSupplyLoss dt level s = .next u ∧ u.Canonical :=
  ⟨_, rfl, h.sealing _ (fun hu => by (dsimp only; split_ifs <;> simp [hu]))⟩

theorem State.Canonical.execThermalTrip (h : s.Canonical) (dt : Nat) : ∃ u, execThermalTrip dt s = .next u ∧ u.Canonical :=
  ⟨_, rfl, h.sealing _ (fun hu => by (dsimp only; split_ifs <;> simp [hu]))⟩

theorem State.Canonical.execClockFailure (h : s.Canonical) (dt : Nat) : ∃ u, execClockFailure dt s = .next u ∧ u.Canonical :=
  ⟨_, rfl, h.sealing _ (fun hu => by (dsimp only; split_ifs <;> simp [hu]))⟩

theorem State.Canonical.execEncoderCount (h : s.Canonical) (dt : Nat) (e : Fin 4) (a b : Bool) :
    ∃ u, execEncoderCount dt e a b s = .next u ∧ u.Canonical := by
  refine ⟨_, rfl, h.during _ (fun hu => ?_)⟩
  split
  · split
    · exact hu
    · exact (contents_setLevels ..).canonical hu
    · exact (contents_encoderCounts ..).canonical ((contents_setLevels ..).canonical hu)
  · exact hu

theorem State.Canonical.execIllegalTransition (h : s.Canonical) (dt : Nat) (e : Fin 4) (a b : Bool) :
    ∃ u, execIllegalTransition dt e a b s = .next u ∧ u.Canonical :=
  ⟨_, rfl, h.during _ (fun hu => by (split <;> simp [hu]))⟩

theorem State.Canonical.execTriggerIssued (h : s.Canonical) (dt : Nat) (p : Fin 36) :
    ∃ u, execTriggerIssued dt p s = .next u ∧ u.Canonical :=
  ⟨_, rfl, h.during _ (fun hu => by (split <;> simp [hu]))⟩

theorem State.Canonical.execTriggerPulseEnd (h : s.Canonical) (dt : Nat) (p : Fin 36) :
    ∃ u, execTriggerPulseEnd dt p s = .next u ∧ u.Canonical :=
  ⟨_, rfl, h.during _ (fun hu => by (split <;> simp [hu]))⟩

theorem State.Canonical.execMissedTrigger (h : s.Canonical) (dt : Nat) (p : Fin 36) :
    ∃ u, execMissedTrigger dt p s = .next u ∧ u.Canonical :=
  ⟨_, rfl, h.during _ (fun hu => by (split <;> simp [hu]))⟩

theorem State.Canonical.execTimerExpiry (h : s.Canonical) (dt : Nat) (t : Fin 16) :
    ∃ u, execTimerExpiry dt t s = .next u ∧ u.Canonical :=
  ⟨_, rfl, h.during _ (fun hu => .ite ((contents_expireTimer ..).canonical hu) hu)⟩

theorem State.Canonical.execLoop (h : s.Canonical) (dt : Nat) (core slot : Nat) :
    ∃ u, execLoop dt core slot s = .next u ∧ u.Canonical :=
  ⟨_, rfl, h.during _ (fun hu => hu.issue _ _ _ (fun _ k x e hv _ => hv.loopEntry k x e))⟩

theorem State.Canonical.execEndEntry (h : s.Canonical) (dt : Nat) (core slot : Nat) :
    ∃ u, execEndEntry dt core slot s = .next u ∧ u.Canonical :=
  ⟨_, rfl, h.during _ (fun hu => hu.issue _ _ _ (fun _ k x e hv _ => hv.stopEntry k x e))⟩

theorem State.Canonical.execPassIssue (h : s.Canonical) (dt : Nat) (core slot : Nat) :
    ∃ u, execPassIssue dt core slot s = .next u ∧ u.Canonical :=
  ⟨_, rfl, h.during _ (fun hu => hu.issue _ _ _ (fun _ k x e hv _ => hv.passEntry k x e))⟩

theorem State.Canonical.execWeightLoadStart (h : s.Canonical) (dt : Nat) (core array half : Nat) :
    ∃ u, execWeightLoadStart dt core array half s = .next u ∧ u.Canonical := by
  refine ⟨_, rfl, h.during _ (fun hu => ?_)⟩
  extract_lets n v
  split
  · exact .ite ((contents_setHalf ..).canonical hu.catchUp) hu
  · exact hu

theorem State.Canonical.execWeightLoadComplete (h : s.Canonical) (dt : Nat) (core array half : Nat) :
    ∃ u, execWeightLoadComplete dt core array half s = .next u ∧ u.Canonical := by
  refine ⟨_, rfl, h.during _ (fun hu => ?_)⟩
  extract_lets n w x
  have hw : w.Canonical := hu.catchUp
  split
  · split
    · exact .ite ((contents_setHalf ..).canonical hw) hw
    · exact hw
  · exact hw

theorem State.Canonical.execPassStart (h : s.Canonical) (dt : Nat) (core array half : Nat) :
    ∃ u, execPassStart dt core array half s = .next u ∧ u.Canonical := by
  refine ⟨_, rfl, h.during _ (fun hu => ?_)⟩
  extract_lets n w x
  have hw : w.Canonical := hu.catchUp
  split
  · exact hw
  next p _ _ =>
    have hstart (y : Weights) : (w.startPass n half p y).Canonical := (contents_startPass ..).canonical hw
    have hfault : (w.catchAll.arrayFault n half 1 p).Canonical := hw.catchAll.arrayFault ..
    refine .ite (.ite ?_ ?_) hw
    · split
      · exact .ite (.ite (hstart _) hw) hfault
      · exact hfault
    · split
      · exact .ite (hstart _) hw
      · exact hw

theorem State.Canonical.execPassComplete (h : s.Canonical) (dt : Nat) (core array half : Nat) :
    ∃ u, execPassComplete dt core array half s = .next u ∧ u.Canonical := by
  refine ⟨_, rfl, h.during _ (fun hu => ?_)⟩
  extract_lets n w x
  have hw : w.Canonical := hu.catchUp
  split
  · exact hw
  next f fs _ =>
    refine .ite ?_ hw
    extract_lets p c w₁ w₂ w₃
    have h₂ : w₂.Canonical := (contents_addReg ..).canonical ((contents_setHalf ..).canonical hw)
    have h₃ : w₃.Canonical := .ite (h₂.signalOwn ..) h₂
    exact h₃.endWork ..

theorem State.Canonical.execModeChange (h : s.Canonical) (dt : Nat) (core array : Nat) :
    ∃ u, execModeChange dt core array s = .next u ∧ u.Canonical :=
  ⟨_, rfl, h.during _ (fun hu => by (dsimp only; split_ifs <;> simp [hu]))⟩

theorem State.Canonical.execArrayFault (h : s.Canonical) (dt : Nat) (core array half : Nat) (cause : ArrayCause) :
    ∃ u, execArrayFault dt core array half cause s = .next u ∧ u.Canonical := by
  refine ⟨_, rfl, h.during _ (fun hu => ?_)⟩
  extract_lets w n code
  have hw : w.Canonical := hu.catchAll
  have hfault (x : Nat) (p : Pass) : (w.arrayFault n half x p).Canonical := hw.arrayFault ..
  split
  · split
    · exact hfault ..
    · exact hw
  · split
    · exact hfault ..
    · exact hw
  · split
    · exact .ite (hfault ..) hw
    · exact hw

theorem State.Canonical.execVectorComplete (h : s.Canonical) (dt : Nat) (core : Nat) :
    ∃ u, execVectorComplete dt core s = .next u ∧ u.Canonical := by
  refine ⟨_, rfl, h.during _ (fun hu => ?_)⟩
  extract_lets w x
  have hw : w.Canonical := hu.catchUp
  split
  · exact hw
  next f fs _ =>
    refine .ite ?_ hw
    extract_lets d w₁ w₂ w₃ w₄
    have h₁ : w₁.Canonical := (contents_setVec ..).canonical hw
    have h₂ : w₂.Canonical := .ite ((contents_count ..).canonical h₁) h₁
    have h₃ : w₃.Canonical := .ite ((contents_count ..).canonical h₂) h₂
    have h₄ : w₄.Canonical := .ite (h₃.signalOwn ..) h₃
    exact .ite (h₄.coreFaultAt ..) (h₄.endWork ..)

theorem State.Canonical.execShunterCopy (h : s.Canonical) (dt : Nat) (core slot : Nat) :
    ∃ u, execShunterCopy dt core slot s = .next u ∧ u.Canonical :=
  ⟨_, rfl, h.during _ (fun hu => hu.shunterIssue ..)⟩

theorem State.Canonical.execShunterGather (h : s.Canonical) (dt : Nat) (core slot : Nat) :
    ∃ u, execShunterGather dt core slot s = .next u ∧ u.Canonical :=
  ⟨_, rfl, h.during _ (fun hu => hu.shunterIssue ..)⟩

theorem State.Canonical.execShunterScatter (h : s.Canonical) (dt : Nat) (core slot : Nat) :
    ∃ u, execShunterScatter dt core slot s = .next u ∧ u.Canonical :=
  ⟨_, rfl, h.during _ (fun hu => hu.shunterIssue ..)⟩

theorem State.Canonical.execShunterStart (h : s.Canonical) (dt : Nat) (core n : Nat) :
    ∃ u, execShunterStart dt core n s = .next u ∧ u.Canonical :=
  ⟨_, rfl, h.during _ (fun hu => by (dsimp only; split <;> simp [hu]))⟩

theorem State.Canonical.execShunterComplete (h : s.Canonical) (dt : Nat) (core n : Nat) :
    ∃ u, execShunterComplete dt core n s = .next u ∧ u.Canonical := by
  refine ⟨_, rfl, h.during _ (fun hu => ?_)⟩
  extract_lets w x
  have hw : w.Canonical := hu.catchUp
  split
  · exact hw.shunterFinish ..
  · exact .ite (.ite (hw.shunterStops ..) (.ite hw (hw.catchAll.shunterCopied ..))) hw
  · exact hw

theorem State.Canonical.execSemaphoreAdd (h : s.Canonical) (dt : Nat) (core slot : Nat) :
    ∃ u, execSemaphoreAdd dt core slot s = .next u ∧ u.Canonical :=
  ⟨_, rfl, h.during _ (fun hu => hu.semEntry _ _ _ (fun _ k x w hv => hv.semAdd k x w))⟩

theorem State.Canonical.execSemaphoreSet (h : s.Canonical) (dt : Nat) (core slot : Nat) :
    ∃ u, execSemaphoreSet dt core slot s = .next u ∧ u.Canonical :=
  ⟨_, rfl, h.during _ (fun hu => hu.semEntry _ _ _ (fun _ k x w hv => hv.semSet k x w))⟩

theorem State.Canonical.execSemaphoreLaneAdd (h : s.Canonical) (dt : Nat) (core slot : Nat) :
    ∃ u, execSemaphoreLaneAdd dt core slot s = .next u ∧ u.Canonical :=
  ⟨_, rfl, h.during _ (fun hu => hu.semEntry _ _ _ (fun _ k x w hv => (contents_semLaneAdd _ k x w).canonical hv))⟩

theorem State.Canonical.execLaneSignalArrival (h : s.Canonical) (dt : Nat) :
    ∃ u, execLaneSignalArrival dt s = .next u ∧ u.Canonical := by
  refine ⟨_, rfl, h.during _ (fun {u} hu => ?_)⟩
  extract_lets due rest
  have hrest : ({ u with laneSigs := rest } : State).Canonical := hu
  exact hrest.forEach due (fun g w hw => (hw.signalCtx ..).tidy _)

theorem State.Canonical.execHubOperation (h : s.Canonical) (dt : Nat) : ∃ u, execHubOperation dt s = .next u ∧ u.Canonical := by
  refine ⟨_, rfl, h.during _ (fun hu => ?_)⟩
  split
  · exact hu
  next o os _ =>
    refine .ite ?_ hu
    extract_lets now w
    have hw : w.Canonical := hu
    have hsteps := hw.forEach (upTo 3)
      (f := fun r v => Sys2Proof.Machine.forEach (now.filter (fun (p : HubOp) => p.rank == r)) v (fun p v => v.hubStep p))
      (fun r v hv => hv.forEach _ (fun p x hx => hx.hubStep p))
    exact ((contents_grantsHub ..).canonical hsteps).tidy _

theorem State.Canonical.execWait (h : s.Canonical) (dt : Nat) (core slot : Nat) :
    ∃ u, execWait dt core slot s = .next u ∧ u.Canonical :=
  ⟨_, rfl, h.during _ (fun hu => hu.issue _ _ _ (fun _ k x e hv _ => hv.waitEntry k x e))⟩

theorem State.Canonical.execWaitTimeout (h : s.Canonical) (dt : Nat) (core slot : Nat) :
    ∃ u, execWaitTimeout dt core slot s = .next u ∧ u.Canonical := by
  refine ⟨_, rfl, h.during _ (fun hu => ?_)⟩
  split
  · split
    · exact .ite (hu.expire ..) hu
    · exact hu
  · exact hu

theorem State.Canonical.execCreditAcquire (h : s.Canonical) (dt : Nat) (core slot : Nat) :
    ∃ u, execCreditAcquire dt core slot s = .next u ∧ u.Canonical :=
  ⟨_, rfl, h.during _ (fun hu => hu.issue _ _ _ (fun _ k x e hv _ => hv.acquireEntry k x e))⟩

theorem State.Canonical.execCreditRelease (h : s.Canonical) (dt : Nat) (core slot : Nat) :
    ∃ u, execCreditRelease dt core slot s = .next u ∧ u.Canonical :=
  ⟨_, rfl, h.during _ (fun hu => hu.issue _ _ _ (fun _ k x e hv _ => hv.releaseEntry k x e))⟩

theorem State.Canonical.execCreditTimeout (h : s.Canonical) (dt : Nat) (core slot : Nat) :
    ∃ u, execCreditTimeout dt core slot s = .next u ∧ u.Canonical := by
  refine ⟨_, rfl, h.during _ (fun hu => ?_)⟩
  split
  · split
    · exact .ite (((contents_addReg ..).canonical hu).expire ..) hu
    · exact hu
  · exact hu

theorem State.Canonical.execYield (h : s.Canonical) (dt : Nat) (core slot : Nat) :
    ∃ u, execYield dt core slot s = .next u ∧ u.Canonical :=
  ⟨_, rfl, h.during _ (fun hu => hu.yieldEntry ..)⟩

theorem State.Canonical.execYieldSurrender (h : s.Canonical) (dt : Nat) (core slot : Nat) :
    ∃ u, execYieldSurrender dt core slot s = .next u ∧ u.Canonical :=
  ⟨_, rfl, h.during _ (fun hu => hu.yieldEntry ..)⟩

theorem State.Canonical.execDeadlinePublish (h : s.Canonical) (dt : Nat) (core slot : Nat) :
    ∃ u, execDeadlinePublish dt core slot s = .next u ∧ u.Canonical :=
  ⟨_, rfl, h.during _ (fun hu => hu.issue _ _ _ (fun _ k x e hv _ => hv.publishEntry k x e))⟩

theorem State.Canonical.execDeadlineClear (h : s.Canonical) (dt : Nat) (core slot : Nat) :
    ∃ u, execDeadlineClear dt core slot s = .next u ∧ u.Canonical :=
  ⟨_, rfl, h.during _ (fun hu => hu.issue _ _ _ (fun _ k x e hv _ => hv.unpublishEntry k x e))⟩

theorem State.Canonical.execDroneRead (h : s.Canonical) (dt : Nat) (level : Level) (agent : Nat) (word : Fin 16) (finding :
    ReadFinding) : ∃ u, execDroneRead dt level agent word finding s = .next u ∧ u.Canonical :=
  ⟨_, rfl, h.during _ (fun hu => by (split <;> simp [hu]))⟩

theorem State.Canonical.execCreateComplete (h : s.Canonical) (dt : Nat) (b : Fin 16) :
    ∃ u, execCreateComplete dt b s = .next u ∧ u.Canonical := by
  refine ⟨_, rfl, h.during _ (fun hu => ?_)⟩
  split
  · exact hu
  next e w _ =>
    extract_lets v n v₁ hot v₂ v₃
    have hv : v.Canonical := hu.catchAll
    have h₁ : v₁.Canonical := hv.withExt (Store.zero_wf _ _ _ _ hv.ext_wf)
    have h₂ : v₂.Canonical := by
      unfold v₂
      split
      · exact h₁.withStack (Store.zero_wf _ _ _ _ h₁.stack_wf)
      · exact h₁
    clear_value v₂
    have hb (x : BankUnit) (k : Nat) {y : State} (hy : y.Canonical) : (y.setBank k x).Canonical := hy
    have hreg {y : State} {k v : Nat} (hy : y.Canonical) : (y.setReg k v).Canonical := (contents_setReg ..).canonical hy
    exact hb _ _ (hreg (hreg (hreg (hreg (hreg h₂)))))

theorem State.Canonical.execTopkCommand (h : s.Canonical) (dt : Nat) (core slot : Nat) (record : Bytes) :
    ∃ u, execTopkCommand dt core slot record s = .next u ∧ u.Canonical := by
  refine ⟨_, rfl, h.during _ (fun {u} hu => ?_)⟩
  split
  next k x _ =>
    cases hr : u.topkArrive core k x.inc record with
    | none => exact hu
    | some t => exact hu.topkArrive hr
  · exact hu

theorem State.Canonical.execTopkStart (h : s.Canonical) (dt : Nat) (core : Nat) :
    ∃ u, execTopkStart dt core s = .next u ∧ u.Canonical :=
  ⟨_, rfl, h.during _ (fun hu => by (dsimp only; split <;> simp [hu]))⟩

theorem State.Canonical.execTopkComplete (h : s.Canonical) (dt : Nat) (core : Nat) :
    ∃ u, execTopkComplete dt core s = .next u ∧ u.Canonical := by
  refine ⟨_, rfl, h.during _ (fun hu => ?_)⟩
  extract_lets w x
  have hw : w.Canonical := hu.catchUp
  split
  next t q a _ _ =>
    refine .ite ?_ hw
    extract_lets c w₁ w₂
    have h₁ : w₁.Canonical := (contents_setTopk ..).canonical hw
    have h₂ : w₂.Canonical := .ite (h₁.signalOwn ..) h₁
    exact h₂.endWork ..
  · exact hw

theorem State.Canonical.execLoadRecord (h : s.Canonical) (dt : Nat) (record : Bytes) :
    ∃ u, execLoadRecord dt record s = .next u ∧ u.Canonical :=
  ⟨_, rfl, h.during _ (fun hu => hu.loadRecord _)⟩

theorem State.Canonical.execSliceBoundary (h : s.Canonical) (dt : Nat) (p : Nat) :
    ∃ u, execSliceBoundary dt p s = .next u ∧ u.Canonical := by
  refine ⟨_, rfl, h.during _ (fun hu => ?_)⟩
  refine .ite ?_ hu
  extract_lets w c w₁ w₂
  have hw : w.Canonical := (contents_addReg ..).canonical ((contents_passBoundary ..).canonical hu)
  have h₁ : w₁.Canonical := hw.forEach _ (fun j v hv => hv.restartLanes j c)
  have h₂ : w₂.Canonical := h₁.forEach _ (fun core v hv =>
    ((contents_setTargets ..).canonical ((hv.markOthers ..).makeRoom ..)).forEach _ (fun t x hx => hx.placeTarget ..))
  exact h₂.tidy c

theorem State.Canonical.execForcedPreemption (h : s.Canonical) (dt : Nat) (core slot : Nat) :
    ∃ u, execForcedPreemption dt core slot s = .next u ∧ u.Canonical := by
  refine ⟨_, rfl, h.during _ (fun hu => ?_)⟩
  split
  · exact hu
  · split
    · exact hu
    · exact .ite (.ite (.ite (hu.orderTeardown _) hu) (hu.catchAll.forceOut ..)) hu

theorem State.Canonical.execHoldTimeout (h : s.Canonical) (dt : Nat) (job lane : Nat) :
    ∃ u, execHoldTimeout dt job lane s = .next u ∧ u.Canonical := by
  refine ⟨_, rfl, h.during _ (fun hu => ?_)⟩
  extract_lets k
  split
  · exact hu
  · split
    · exact hu
    · exact .ite (hu.holdOverrun _) hu

theorem State.Canonical.execContextUnloadComplete (h : s.Canonical) (dt : Nat) (job lane : Nat) :
    ∃ u, execContextUnloadComplete dt job lane s = .next u ∧ u.Canonical := by
  refine ⟨_, rfl, h.during _ (fun hu => ?_)⟩
  extract_lets w k c
  have hw : w.Canonical := hu.catchAll
  clear_value w c
  split
  · exact hw
  next x _ =>
    split
    next c₀ n _ _ =>
      refine .ite ?_ hw
      extract_lets w₁ w₂
      have h₁ : w₁.Canonical := (contents_addReg ..).canonical (hw.unloadData ..)
      have h₂ : w₂.Canonical := h₁.onCtx _ (fun _ hx => hx)
      clear_value w₂
      split
      next t c₁ _ =>
        refine .ite (((h₂.onCtx _ (f := fun x => { x with evicted := none }) (fun _ hx => hx)).beginLoad ..).tidy _) ?_
        refine (h₂.onCtx k (fun y hy => ?_)).tidy c
        exact (regs_startMove ..).canonical (show Ctx.Canonical _ from hy)
      · exact h₂.tidy _
    · exact hw

theorem State.Canonical.execContextLoadComplete (h : s.Canonical) (dt : Nat) (job lane : Nat) :
    ∃ u, execContextLoadComplete dt job lane s = .next u ∧ u.Canonical := by
  refine ⟨_, rfl, h.during _ (fun hu => ?_)⟩
  extract_lets w k
  have hw : w.Canonical := hu.catchAll
  split
  · exact hw
  next x _ =>
    split
    next c₀ n _ _ =>
      refine .ite ?_ hw
      extract_lets w₁ w₂
      have h₁ : w₁.Canonical := (contents_addReg ..).canonical (hw.loadData ..)
      have h₂ : w₂.Canonical := h₁.onCtx _ (fun _ hx => hx)
      exact (h₂.noteSwap k).tidy _
    · exact hw

theorem State.Canonical.execContextSaveComplete (h : s.Canonical) (dt : Nat) (job lane : Nat) :
    ∃ u, execContextSaveComplete dt job lane s = .next u ∧ u.Canonical := by
  refine ⟨_, rfl, h.during _ (fun hu => ?_)⟩
  extract_lets w k c
  have hw : w.Canonical := hu.catchAll
  clear_value w c
  split
  · exact hw
  next x₀ hx₀ =>
    have hx₀ : x₀.Canonical := hw.of_ctx? hx₀
    split
    next c₀ n _ _ =>
      refine .ite ?_ hw
      extract_lets b x w₁ img e w₂ w₃
      have hx : x.Canonical := hx₀
      have h₁ : w₁.Canonical := (hw.withStack (Store.write_wf _ _ _ _ hw.stack_wf)).saveSlot hx _ _
      clear_value w₁
      have hcut : twf unlisted img.1 = true := Store.cut_wf _ _ _ _ h₁.stack_wf
      have he : e.wf := Store.paste_wf _ _ _ _ _ h₁.ext_wf hcut
      have h₂ : w₂.Canonical := (contents_noticeBad ..).canonical (h₁.withExt he)
      have h₃ : w₃.Canonical := (contents_addReg ..).canonical (h₂.setCtx k hx)
      split
      next t c₁ _ =>
        refine (h₃.onCtx t (fun y hy => ?_)).tidy _
        split
        · exact (regs_startMove ..).canonical (show Ctx.Canonical _ from hy)
        · exact hy
      · exact h₃.tidy _
    · exact hw

theorem State.Canonical.execContextRestoreComplete (h : s.Canonical) (dt : Nat) (job lane : Nat) :
    ∃ u, execContextRestoreComplete dt job lane s = .next u ∧ u.Canonical := by
  refine ⟨_, rfl, h.during _ (fun hu => ?_)⟩
  extract_lets w k c img
  have hw : w.Canonical := hu.catchAll
  clear_value w
  have himg : twf unlisted img.1 = true := Store.cut_wf _ _ _ _ hw.ext_wf
  split
  · exact hw
  next x _ =>
    split
    next c₀ n _ _ =>
      refine .ite (.ite ?_ (((contents_count ..).canonical hw).coreFault ..)) hw
      extract_lets m w₁ w₂ w₃
      have hm : m.wf := Store.paste_wf _ _ _ _ _ hw.stack_wf himg
      have h₁ : w₁.Canonical := (contents_noticeBad ..).canonical ((hw.withStack hm).restoreSlot k)
      have h₂ : w₂.Canonical := h₁.onCtx _ (fun _ hx => hx)
      have h₃ : w₃.Canonical :=
        (contents_addReg ..).canonical ((contents_addReg ..).canonical ((contents_addReg ..).canonical h₂))
      exact ((h₃.applyRecord k).beginLoad k c).tidy c
    · exact hw

theorem State.Canonical.execModelContainer (h : s.Canonical) (dt : Nat) (source : ModelSource) (container : Bytes) :
    ∃ u, execModelContainer dt source container s = .next u ∧ u.Canonical := by
  refine ⟨_, rfl, h.during _ (fun hu => ?_)⟩
  split
  · exact State.Canonical.hostModel ((contents_fresh ..).canonical hu) ..
  · exact hu
  · exact .ite (hu.handModel ..) hu

theorem State.Canonical.execModelEntryLoaded (h : s.Canonical) (dt : Nat) (job : Fin 64) :
    ∃ u, execModelEntryLoaded dt job s = .next u ∧ u.Canonical :=
  ⟨_, rfl, h.during _ (fun hu => by (dsimp only; split_ifs <;> simp [hu]))⟩

theorem State.Canonical.execBarrierAction (h : s.Canonical) (dt : Nat) : ∃ u, execBarrierAction dt s = .next u ∧ u.Canonical := by
  refine ⟨_, rfl, h.during _ (fun hu => ?_)⟩
  split
  · exact hu
  next b _ =>
    extract_lets go n c w₁ w₂
    have h₁ : w₁.Canonical := .ite ((contents_realign ..).canonical hu) hu
    have h₂ : w₂.Canonical := h₁.forEach _ (fun f v hv => hv.enterFn n c f)
    exact .ite ((contents_addReg ..).canonical ((contents_endArmed _).canonical h₂)) hu

theorem State.Canonical.execBarrierTimeout (h : s.Canonical) (dt : Nat) : ∃ u, execBarrierTimeout dt s = .next u ∧ u.Canonical :=
  ⟨_, rfl, h.during _ (fun hu => by (split <;> simp [hu]))⟩

theorem State.Canonical.execLineEnd (h : s.Canonical) (dt : Nat) (p : Fin 36) (edges : List (BitVec 4)) (ovf : Option Nat) :
    ∃ u, execLineEnd dt p edges ovf s = .next u ∧ u.Canonical := by
  refine ⟨_, rfl, h.during _ (fun hu => ?_)⟩
  extract_lets w q
  have hw : w.Canonical := (contents_setBit ..).canonical hu
  split
  next l _ =>
    have hline : (w.lineEnds q p l edges ovf).Canonical := (contents_lineEnds ..).canonical hw
    refine .ite hline (.ite ?_ ((contents_setPort ..).canonical hw))
    dsimp only
    split
    · exact (contents_frameEnds ..).canonical hline
    · exact hline
  · exact hw

theorem State.Canonical.execFrameEnd (h : s.Canonical) (dt : Nat) (p : Fin 36) :
    ∃ u, execFrameEnd dt p s = .next u ∧ u.Canonical :=
  ⟨_, rfl, h.during _ (fun hu => by (dsimp only; split <;> simp [hu]))⟩

theorem State.Canonical.execI2cWrite (h : s.Canonical) (dt : Nat) (r : Option Route) (k : Fin 12) (core : Fin 6) (slot : Fin 4)
    (record : Bytes) : ∃ u, execI2cWrite dt r k core slot record s = .next u ∧ u.Canonical := by
  cases r with
  | none => exact ⟨_, rfl, h.during _ (fun hu => hu.sccFromSlot ..)⟩
  | some r => exact ⟨_, rfl, h.put ..⟩

theorem State.Canonical.execI2cWriteRead (h : s.Canonical) (dt : Nat) (r : Option Route) (k : Fin 12) (core : Fin 6) (slot : Fin
    4) (record : Bytes) : ∃ u, execI2cWriteRead dt r k core slot record s = .next u ∧ u.Canonical := by
  cases r with
  | none => exact ⟨_, rfl, h.during _ (fun hu => hu.sccFromSlot ..)⟩
  | some r => exact ⟨_, rfl, h.put ..⟩

theorem State.Canonical.execSpiTransfer (h : s.Canonical) (dt : Nat) (r : Option Route) (k : Fin 12) (core : Fin 6) (slot : Fin
    4) (record : Bytes) : ∃ u, execSpiTransfer dt r k core slot record s = .next u ∧ u.Canonical := by
  cases r with
  | none => exact ⟨_, rfl, h.during _ (fun hu => hu.sccFromSlot ..)⟩
  | some r => exact ⟨_, rfl, h.put ..⟩

theorem State.Canonical.execSccRecordStart (h : s.Canonical) (dt : Nat) (k : Fin 12) (inBlanking : Bool) :
    ∃ u, execSccRecordStart dt k inBlanking s = .next u ∧ u.Canonical :=
  ⟨_, rfl, h.during _ (fun hu => by (dsimp only; split <;> simp [hu]))⟩

theorem State.Canonical.execAlignTimeout (h : s.Canonical) (dt : Nat) (k : Fin 12) :
    ∃ u, execAlignTimeout dt k s = .next u ∧ u.Canonical :=
  ⟨_, rfl, h.during _ (fun hu => by (dsimp only; split <;> simp [hu]))⟩

theorem State.Canonical.execClockStretchTimeout (h : s.Canonical) (dt : Nat) (k : Fin 12) (held : Nat) :
    ∃ u, execClockStretchTimeout dt k held s = .next u ∧ u.Canonical :=
  ⟨_, rfl, h.during _ (fun hu => by (dsimp only; split <;> simp [hu]))⟩

theorem State.Canonical.execSccRecordComplete (h : s.Canonical) (dt : Nat) (k : Fin 12) (outcome : BusEnd) (read : Bytes) :
    ∃ u, execSccRecordComplete dt k outcome read s = .next u ∧ u.Canonical :=
  ⟨_, rfl, h.during _ (fun hu => by (dsimp only; split <;> simp [hu]))⟩

theorem State.Canonical.execFlatFieldCopyComplete (h : s.Canonical) (dt : Nat) (p : Fin 36) :
    ∃ u, execFlatFieldCopyComplete dt p s = .next u ∧ u.Canonical :=
  ⟨_, rfl, h.during _ (fun hu => .ite (State.Canonical.tryLaunches ((contents_setIfe ..).canonical (hu.catchAll.copyTable _))) hu)⟩

theorem State.Canonical.execLineWriteComplete (h : s.Canonical) (dt : Nat) (p : Fin 36) :
    ∃ u, execLineWriteComplete dt p s = .next u ∧ u.Canonical := by
  refine ⟨_, rfl, h.during _ (fun hu => ?_)⟩
  refine .ite ?_ hu
  extract_lets w
  have hw : w.Canonical := hu.catchAll
  split
  next t ht => exact hw.chain _ _ ht
  · exact hw

theorem State.Canonical.execSubmissionTaken (h : s.Canonical) (dt : Nat) (i : Nat) :
    ∃ u, execSubmissionTaken dt i s = .next u ∧ u.Canonical := by
  refine ⟨_, rfl, h.during _ (fun hu => ?_)⟩
  extract_lets mine
  refine .ite ?_ hu
  split
  · exact (contents_handSample ..).canonical hu
  · exact (contents_handSample ..).canonical hu
  · exact hu

theorem State.Canonical.execDecodeDispatch (h : s.Canonical) (dt : Nat) (engine : Nat) :
    ∃ u, execDecodeDispatch dt engine s = .next u ∧ u.Canonical := by
  refine ⟨_, rfl, h.during _ (fun hu => ?_)⟩
  extract_lets w
  have hw : w.Canonical := hu.forEach _ (fun i v hv => (contents_roiOverdue ..).canonical hv)
  refine .ite hw ?_
  split
  · exact hw
  next i _ =>
    split
    · exact hw
    next x crops _ =>
      have hset {y : State} (hy : y.Canonical) (z : IntakeUnit) : (y.setIntake i z).Canonical := hy
      have hlast {y : State} (hy : y.Canonical) (n : Nat) : ({ y with lastIntake := n } : State).Canonical := hy
      have hengines {y : State} (hy : y.Canonical) (es : List (Nat × Engine)) : ({ y with engines := es } : State).Canonical := hy
      extract_lets v v' _ w₁
      have h₁ : w₁.Canonical := hlast (hset hw _) _
      exact .ite ((contents_armRoi ..).canonical (hset h₁ _)) ((contents_armRoi ..).canonical (hengines h₁ _))

theorem State.Canonical.execDecodeComplete (h : s.Canonical) (dt : Nat) (engine : Nat) :
    ∃ u, execDecodeComplete dt engine s = .next u ∧ u.Canonical :=
  ⟨_, rfl, h.during _ (fun hu => by (split <;> simp [hu]))⟩

theorem State.Canonical.execBudgetExpiry (h : s.Canonical) (dt : Nat) (engine : Nat) :
    ∃ u, execBudgetExpiry dt engine s = .next u ∧ u.Canonical :=
  ⟨_, rfl, h.during _ (fun hu => by (split <;> simp [hu]))⟩

theorem State.Canonical.execRecordCommit (h : s.Canonical) (dt : Nat) (i : Fin 16) :
    ∃ u, execRecordCommit dt i s = .next u ∧ u.Canonical := by
  refine ⟨_, rfl, h.during _ (fun hu => ?_)⟩
  extract_lets v variants ns a w
  have hset {y : State} (hy : y.Canonical) (z : IntakeUnit) : (y.setIntake i z).Canonical := hy
  have hw : w.Canonical := hu.catchAll
  split
  · exact hu
  next x xs _ =>
    split
    · exact hu
    next r _ =>
      extract_lets w₁ last v' w₂ w₃ word
      have h₁ : w₁.Canonical := hw.withExt (Store.write_wf _ _ _ _ hw.ext_wf)
      have h₂ : w₂.Canonical := (contents_addReg ..).canonical (hset h₁ _)
      have h₃ : w₃.Canonical := .ite ((contents_countIn ..).canonical ((contents_addReg ..).canonical h₂)) h₂
      exact .ite ((contents_externalSignal ..).canonical h₃) h₃

theorem State.Canonical.execIntakeRelease (h : s.Canonical) (dt : Nat) (core slot : Nat) (record : Bytes) :
    ∃ u, execIntakeRelease dt core slot record s = .next u ∧ u.Canonical :=
  ⟨_, rfl, h.during _ (fun hu => by (split <;> simp [hu]))⟩

theorem State.Canonical.execRoi (h : s.Canonical) (dt : Nat) (core slot : Nat) (record : Bytes) :
    ∃ u, execRoi dt core slot record s = .next u ∧ u.Canonical :=
  ⟨_, rfl, h.during _ (fun hu => by (split <;> simp [hu]))⟩

theorem State.Canonical.execNextChangeFrameStart (h : s.Canonical) (dt : Nat) (c : Fin 4) :
    ∃ u, execNextChangeFrameStart dt c s = .next u ∧ u.Canonical :=
  ⟨_, rfl, h.during _ (fun hu => by (split <;> simp [hu]))⟩

theorem State.Canonical.execValveFrameComplete (h : s.Canonical) (dt : Nat) (c : Fin 4) :
    ∃ u, execValveFrameComplete dt c s = .next u ∧ u.Canonical :=
  ⟨_, rfl, h.during _ (fun hu => by (split <;> simp [hu]))⟩

theorem State.Canonical.execLatchPulseEnd (h : s.Canonical) (dt : Nat) (c : Fin 4) :
    ∃ u, execLatchPulseEnd dt c s = .next u ∧ u.Canonical :=
  ⟨_, rfl, h.during _ (fun hu => by (split <;> simp [hu]))⟩

theorem State.Canonical.execDictionaryWrite (h : s.Canonical) (dt : Nat) (r : Route) (index : BitVec 16) (sub : BitVec 8)
    (complete : Bool) (data : Bytes) : ∃ u, execDictionaryWrite dt r index sub complete data s = .next u ∧ u.Canonical :=
  ⟨_, rfl, h.via _ _ (fun hu => by (split <;> simp [hu]))⟩

theorem State.Canonical.execRcRead (h : s.Canonical) (dt : Nat) (r : Route) (index : BitVec 16) (sub : BitVec 8) :
    ∃ u, execRcRead dt r index sub s = .next u ∧ u.Canonical := by
  refine ⟨_, rfl, h.via _ _ (fun {u} hu => ?_)⟩
  refine .ite hu ?_
  split
  next x hx => exact (State.readEntry_contents u hx).canonical hu
  · exact hu

theorem State.Canonical.execEnableComplete (h : s.Canonical) (dt : Nat) (f : Nat) :
    ∃ u, execEnableComplete dt f s = .next u ∧ u.Canonical := by
  refine ⟨_, rfl, h.during _ (fun hu => ?_)⟩
  refine .ite ?_ hu
  extract_lets w
  have hw : w.Canonical := (contents_setPend ..).canonical ((contents_setFn ..).canonical hu)
  split
  · exact (contents_doze ..).canonical hw
  · exact hw

theorem State.Canonical.execAlStateRequest (h : s.Canonical) (dt : Nat) (target : AlState) (sm2 sm3 : Nat) (mailboxOk : Bool)
    (sync0Cycle : Nat) : ∃ u, execAlStateRequest dt target sm2 sm3 mailboxOk sync0Cycle s = .next u ∧ u.Canonical :=
  ⟨_, rfl, h.during _ (fun hu => by (split <;> simp [hu]))⟩

theorem State.Canonical.execSm2OutputsTaken (h : s.Canonical) (dt : Nat) (image : Bytes) :
    ∃ u, execSm2OutputsTaken dt image s = .next u ∧ u.Canonical :=
  ⟨_, rfl, h.during _ (fun hu => by (split <;> simp [hu]))⟩

theorem State.Canonical.execEmergencySend (h : s.Canonical) (dt : Nat) : ∃ u, execEmergencySend dt s = .next u ∧ u.Canonical :=
  ⟨_, rfl, h.during _ (fun hu => by (split <;> simp [hu]))⟩

theorem State.Canonical.execResponseReady (h : s.Canonical) (dt : Nat) : ∃ u, execResponseReady dt s = .next u ∧ u.Canonical :=
  ⟨_, rfl, h.via _ _ (fun hu => by (split <;> simp [hu]))⟩

theorem State.Canonical.execRead (h : s.Canonical) (dt : Nat) : ∃ u, execRead dt s = .next u ∧ u.Canonical :=
  ⟨_, rfl, h.via _ _ (fun hu => by (dsimp only; split <;> simp [hu]))⟩

theorem State.Canonical.execAttentionPulseEnd (h : s.Canonical) (dt : Nat) :
    ∃ u, execAttentionPulseEnd dt s = .next u ∧ u.Canonical :=
  ⟨_, rfl, h.via _ _ (fun hu => by (split <;> simp [hu]))⟩

theorem State.Canonical.execLaneBringUp (h : s.Canonical) (dt : Nat) (port : Nat) (trials : List (List LaneTrial)) (m :
    LaneMarkers) : ∃ u, execLaneBringUp dt port trials m s = .next u ∧ u.Canonical := by
  refine ⟨_, rfl, h.during _ (fun hu => ?_)⟩
  extract_lets v r w _ w₁ inv w₂ w₃ w₄
  have hw : w.Canonical := by
    refine State.Canonical.foldl Prod.fst (fun x l hx => ?_) _ hu
    exact (contents_tryLane ..).canonical hx
  have h₁ : w₁.Canonical := (contents_setLstate ..).canonical ((contents_setNet ..).canonical hw)
  have h₃ : w₃.Canonical := (contents_setReg ..).canonical ((contents_setReg ..).canonical h₁)
  have h₄ : w₄.Canonical := (contents_setLstate ..).canonical ((contents_setNet ..).canonical hw)
  have hhalf (b : Bool) {y : State} (hy : y.Canonical) : (y.addHalf (kNet port 0x1A) b).Canonical :=
    (contents_addHalf ..).canonical hy
  split
  · exact hu
  · exact .ite (.ite (.ite (hhalf _ h₁) (.ite ((contents_loseLink ..).canonical h₃) h₃)) (.ite (hhalf _ h₄) h₄)) hu

theorem State.Canonical.execBringUpRetry (h : s.Canonical) (dt : Nat) (port : Nat) :
    ∃ u, execBringUpRetry dt port s = .next u ∧ u.Canonical :=
  ⟨_, rfl, h.during _ (fun hu => by (split <;> simp [hu]))⟩

theorem State.Canonical.execFrameReceived (h : s.Canonical) (dt : Nat) (n : Nat) (kind : FrameKind) :
    ∃ u, execFrameReceived dt n kind s = .next u ∧ u.Canonical := by
  refine ⟨_, rfl, h.during _ (fun hu => ?_)⟩
  refine .ite ?_ hu
  extract_lets w v
  have hw : w.Canonical := (contents_netCount ..).canonical hu
  have hv : v.Canonical := (contents_addHalf ..).canonical hw
  have hdiscard : (w.discardFrame n).Canonical := (contents_discardFrame ..).canonical hw
  split
  · exact hdiscard
  · exact hdiscard
  · exact hdiscard
  · exact hdiscard
  · exact hdiscard
  · exact (contents_netCount ..).canonical ((contents_learn ..).canonical hw)
  · exact (contents_learn ..).canonical hw
  · exact (contents_netCount ..).canonical hw
  · refine .ite ?_ hdiscard
    exact .ite ((contents_choose ..).canonical ((contents_setNet ..).canonical hv)) ((contents_setNet ..).canonical hv)
  · exact hw
  · exact hw

theorem State.Canonical.execSegmentReceived (h : s.Canonical) (dt : Nat) (port : Nat) (address udpPort : Nat) (payload : Bytes) :
    ∃ u, execSegmentReceived dt port address udpPort payload s = .next u ∧ u.Canonical := by
  refine ⟨_, rfl, h.during _ (fun hu => ?_)⟩
  refine .ite (.ite ?_ ((contents_discardFrame ..).canonical hu)) hu
  extract_lets m w
  have hw : w.Canonical := hu.forEach _ (fun x v hv => (contents_reassemblyOver ..).canonical hv)
  refine .ite ((contents_discardMessage ..).canonical hw) ?_
  split
  · exact .ite ((contents_pauseCheck ..).canonical ((contents_fill ..).canonical hw)) ((contents_discardFrame ..).canonical hw)
  · exact .ite hw ((contents_openMessage ..).canonical hw)

theorem State.Canonical.execReassemblyTimeout (h : s.Canonical) (dt : Nat) (port : Nat) (address udpPort : Nat) (cls stream :
    Byte) : ∃ u, execReassemblyTimeout dt port address udpPort cls stream s = .next u ∧ u.Canonical :=
  ⟨_, rfl, h.during _ (fun hu => by (split <;> simp [hu]))⟩

theorem State.Canonical.execMessageHandedOn (h : s.Canonical) (dt : Nat) (port : Nat) :
    ∃ u, execMessageHandedOn dt port s = .next u ∧ u.Canonical := by
  refine ⟨_, rfl, h.during _ (fun {u} hu => ?_)⟩
  split
  · exact hu
  next m _ =>
    have hdrop : (u.dropReady port m).Canonical := (contents_dropReady ..).canonical hu
    refine .ite (hu.inboxWrite m) ?_
    split
    · exact (contents_handSample ..).canonical hu
    · exact State.Canonical.bankMessage ((contents_netCount ..).canonical hdrop) ..
    · exact hdrop.handModel ..

theorem State.Canonical.execInboxWrite (h : s.Canonical) (dt : Nat) : ∃ u, execInboxWrite dt s = .next u ∧ u.Canonical := by
  refine ⟨_, rfl, h.during _ (fun hu => ?_)⟩
  split
  · exact hu.inboxWrite _
  · exact hu

theorem State.Canonical.execSecondRoll (h : s.Canonical) (dt : Nat) : ∃ u, execSecondRoll dt s = .next u ∧ u.Canonical :=
  ⟨_, rfl, h.during _ (fun hu => by (dsimp only; split_ifs <;> simp [hu]))⟩

theorem State.Canonical.execPtpMessage (h : s.Canonical) (dt : Nat) (port : Fin 3) (m : PtpMessage) (captured : Nat) (outgoing :
    Bool) : ∃ u, execPtpMessage dt port m captured outgoing s = .next u ∧ u.Canonical := by
  refine ⟨_, rfl, h.during _ (fun hu => ?_)⟩
  refine .ite ?_ hu
  split
  · exact (contents_takeStamp ..).canonical hu
  · extract_lets w
    have hw : w.Canonical := (contents_takeStamp ..).canonical hu
    exact .ite ((contents_queuePtp ..).canonical hw) hw
  · exact hu
  · exact .ite hu ((contents_takeAnnounce ..).canonical hu)
  · exact .ite hu ((contents_netCount ..).canonical hu)

theorem State.Canonical.execPowerTransitionComplete (h : s.Canonical) (dt : Nat) :
    ∃ u, execPowerTransitionComplete dt s = .next u ∧ u.Canonical :=
  ⟨_, rfl, h.during _ (fun hu => by (split <;> simp [hu]))⟩

theorem State.Canonical.execWakeN (h : s.Canonical) (dt : Nat) : ∃ u, execWakeN dt s = .next u ∧ u.Canonical :=
  ⟨_, rfl, h.sealing _ (fun hu => by (dsimp only; split_ifs <;> simp [hu]))⟩

theorem State.Canonical.execMainSupplyRise (h : s.Canonical) (dt : Nat) (level : BitVec 16) :
    ∃ u, execMainSupplyRise dt level s = .next u ∧ u.Canonical := by
  refine ⟨_, rfl, h.sealing _ (fun hu => ?_)⟩
  refine .ite ?_ hu
  extract_lets was _ w₁ w₂
  have h₁ : w₁.Canonical := hu.withPower _
  have h₂ : w₂.Canonical := (contents_setReg ..).canonical h₁
  exact .ite (.ite (State.comeUp_canonical ..) (.ite (h₂.wakeBy _) h₂)) h₂

theorem State.Canonical.execExtest (h : s.Canonical) (dt : Nat) : ∃ u, execExtest dt s = .next u ∧ u.Canonical :=
  ⟨_, rfl, h.sealing _ (fun hu => hu.tap' _ _ (SameContents.canonical (by simp) hu))⟩

theorem State.Canonical.execIdcode (h : s.Canonical) (dt : Nat) : ∃ u, execIdcode dt s = .next u ∧ u.Canonical :=
  ⟨_, rfl, h.sealing _ (fun hu => hu.tap' _ _ ((contents_select ..).canonical hu))⟩

theorem State.Canonical.execSamplePreload (h : s.Canonical) (dt : Nat) : ∃ u, execSamplePreload dt s = .next u ∧ u.Canonical :=
  ⟨_, rfl, h.sealing _ (fun hu => hu.tap' _ _ (SameContents.canonical (by simp) hu))⟩

theorem State.Canonical.execTapClamp (h : s.Canonical) (dt : Nat) : ∃ u, execTapClamp dt s = .next u ∧ u.Canonical :=
  ⟨_, rfl, h.sealing _ (fun hu => hu.tap' _ _ (SameContents.canonical (by simp) hu))⟩

theorem State.Canonical.execHighz (h : s.Canonical) (dt : Nat) : ∃ u, execHighz dt s = .next u ∧ u.Canonical :=
  ⟨_, rfl, h.sealing _ (fun hu => hu.tap' _ _ (SameContents.canonical (by simp) hu))⟩

theorem State.Canonical.execDbgaccRead (h : s.Canonical) (dt : Nat) (space : BitVec 3) (core : BitVec 4) (address : BitVec 40) :
    ∃ u, execDbgaccRead dt space core address s = .next u ∧ u.Canonical :=
  ⟨_, rfl, h.sealing _ (fun hu => hu.tap' _ _ (hu.debugRead ..))⟩

theorem State.Canonical.execDbgaccWrite (h : s.Canonical) (dt : Nat) (space : BitVec 3) (core : BitVec 4) (address : BitVec 40)
    (data : BitVec 64) : ∃ u, execDbgaccWrite dt space core address data s = .next u ∧ u.Canonical :=
  ⟨_, rfl, h.sealing _ (fun hu => hu.tap' _ _ (hu.debugWrite ..))⟩

theorem State.Canonical.execHalt (h : s.Canonical) (dt : Nat) (job : BitVec 6) (lane : BitVec 3) :
    ∃ u, execHalt dt job lane s = .next u ∧ u.Canonical :=
  ⟨_, rfl, h.sealing _ (fun hu => hu.tap' _ _ (hu.debugCtrl _ _ _ _ (fun k x _ => hu.haltCtx k x)))⟩

theorem State.Canonical.execResume (h : s.Canonical) (dt : Nat) (job : BitVec 6) (lane : BitVec 3) :
    ∃ u, execResume dt job lane s = .next u ∧ u.Canonical :=
  ⟨_, rfl, h.sealing _ (fun hu => hu.tap' _ _ (hu.debugCtrl _ _ _ _ (fun k _ _ =>
    (hu.onCtx k (f := fun x => { x with halted := false, stepOne := false }) (fun _ hx => hx)).stir _)))⟩

theorem State.Canonical.execDbgctrlStep (h : s.Canonical) (dt : Nat) (job : BitVec 6) (lane : BitVec 3) :
    ∃ u, execDbgctrlStep dt job lane s = .next u ∧ u.Canonical :=
  ⟨_, rfl, h.sealing _ (fun hu => hu.tap' _ _ (hu.debugCtrl _ _ _ _ (fun k _ _ =>
    (hu.onCtx k (f := fun x => { x with stepOne := true }) (fun _ hx => hx)).stir _)))⟩

theorem State.Canonical.execHoldoffExpiry (h : s.Canonical) (dt : Nat) (counter : Nat) :
    ∃ u, execHoldoffExpiry dt counter s = .next u ∧ u.Canonical := by
  refine ⟨_, rfl, h.during _ (fun hu => ?_)⟩
  split
  next x _ =>
    refine .ite ?_ hu
    exact State.Canonical.foldl id (fun v d hv => (contents_countFuel ..).canonical hv) _ ((contents_holdoffEnds ..).canonical hu)
  · exact hu

theorem State.Canonical.execResetNRelease (h : s.Canonical) (dt : Nat) : ∃ u, execResetNRelease dt s = .next u ∧ u.Canonical :=
  ⟨_, rfl, h.sealing _ (fun hu => by (split <;> simp [hu]))⟩

theorem State.Canonical.execRefclkRestored (h : s.Canonical) (dt : Nat) : ∃ u, execRefclkRestored dt s = .next u ∧ u.Canonical :=
  ⟨_, rfl, h.sealing _ (fun hu => by (split <;> simp [hu]))⟩

theorem State.Canonical.execTripTemperatureFall (h : s.Canonical) (dt : Nat) :
    ∃ u, execTripTemperatureFall dt s = .next u ∧ u.Canonical :=
  ⟨_, rfl, h.sealing _ (fun hu => by (dsimp only; split <;> simp [hu]))⟩

theorem State.Canonical.execArpEntryExpiry (h : s.Canonical) (dt : Nat) (n : Nat) (address : Nat) :
    ∃ u, execArpEntryExpiry dt n address s = .next u ∧ u.Canonical :=
  ⟨_, rfl, h.during _ (fun hu => by (dsimp only; split <;> simp [hu]))⟩

theorem State.Canonical.execPauseRepeat (h : s.Canonical) (dt : Nat) (n : Nat) :
    ∃ u, execPauseRepeat dt n s = .next u ∧ u.Canonical := by
  refine ⟨_, rfl, h.during _ (fun hu => ?_)⟩
  extract_lets v w
  have hw : w.Canonical := (contents_setNet ..).canonical hu
  split
  · exact .ite (.ite ((contents_sendPause ..).canonical hw) hw) hu
  · exact hu

theorem State.Canonical.execPauseExpiry (h : s.Canonical) (dt : Nat) (n : Nat) :
    ∃ u, execPauseExpiry dt n s = .next u ∧ u.Canonical :=
  ⟨_, rfl, h.during _ (fun hu => by (dsimp only; split <;> simp [hu]))⟩

theorem State.Canonical.execSync0Missed (h : s.Canonical) (dt : Nat) : ∃ u, execSync0Missed dt s = .next u ∧ u.Canonical :=
  ⟨_, rfl, h.during _ (fun hu => by (split <;> simp [hu]))⟩

theorem State.Canonical.execSdoDownloadSegment (h : s.Canonical) (dt : Nat) (toggle final : Bool) (data : Bytes) :
    ∃ u, execSdoDownloadSegment dt toggle final data s = .next u ∧ u.Canonical := by
  refine ⟨_, rfl, h.via _ _ (fun hu => ?_)⟩
  extract_lets w
  have hw : w.Canonical := (contents_sdoOverdue _).canonical hu
  have habort (c : Nat) : (w.sdoAbort c).Canonical := (contents_sdoAbort ..).canonical hw
  refine .ite hw ?_
  split
  · exact habort _
  next d _ =>
    extract_lets all d'
    refine .ite (habort _) (.ite ?_ (.ite (hw.sdoFinish ..) hw))
    exact (contents_sentOver ..).canonical ((contents_refuse ..).canonical (habort 0))

theorem State.Canonical.execPtpTimerExpiry (h : s.Canonical) (dt : Nat) (t : PtpTimer) :
    ∃ u, execPtpTimerExpiry dt t s = .next u ∧ u.Canonical := by
  refine ⟨_, rfl, h.during _ (fun {u} hu => ?_)⟩
  refine .ite ?_ hu
  extract_lets p x
  have hqueue : (u.queuePtp p).Canonical := (contents_queuePtp ..).canonical hu
  split
  · exact .ite hqueue hu
  · exact .ite hu (.ite ((contents_addReg ..).canonical hu) hqueue)
  · exact .ite hqueue hu
  · have hstate (v : Nat) : (u.setPortState v).Canonical := (contents_setPortState ..).canonical hu
    exact .ite hu (.ite (hstate 4) ((contents_setReg ..).canonical (hstate 6)))

/-- Every command passes time and leaves a state in canonical form, whichever guard its effect goes through. -/
theorem exec_canonical (i : Instr) (h : s.Canonical) : ∃ u, exec i s = .next u ∧ u.Canonical := by
  cases i
  case encoderConfigWrite | compareArm | compareDisarm | compareValueWrite | windowArm | windowDisarm | timerLoadWrite |
      poolSizeWrite | wideModeEnter | wideModeExit | determinismWrite | create | delete | pin | unpin | preload | remove |
      flush | barrierArm | barrierDisarm | deskew | manualOutputWrite | debounceWrite | enable | disable | start | stop |
      clear | claim | release | setStart | setStop | externalOffset | powerRequest | installOwnerKey | revokeOwnerKey |
      installContentKey | eraseContentKey | lock | retire | raiseVersion | jobImageWrite | firmwareContainerWrite |
      debugLevelRequest | debugToken =>
    exact ⟨_, rfl, h.put ..⟩
  case copy | add | sub | mul | fma | max | min | abs | neg | sel | clamp | lut | recip | rsqrt | ssum | smax | smin | lsum |
      lmax | lmin =>
    exact ⟨_, rfl, h.during _ (fun hu => hu.vectorIssue ..)⟩
  case limitUpdate | zEdge | encoderInputFault | generatorCount | stall | commitDeadline | slackRefresh | droneWriteback |
      patrolRead | enrol | void | teardown | step | join | leave | leaderDrive | barrierRegistered | lineStart | frameStart
      | pairingExpiry | portClockLoss | deskewComplete | roiTimeout | orderDecided | orderUndecided | decide | vetoChange |
      stopTimeout | fieldLinkLoss | fieldLinkRestored | diEdge | pulsedSample | outputOverload | overloadRestart | openLoad
      | functionStopped | sm2Watchdog | snapshot | sm3Read | sync0 | linkLoss | pllLockFailure | segmentTransmitted |
      servoOffset | encoderFaultEnd | portClockPresent | refreshRateChange =>
    exact ⟨_, rfl, h.during _ (fun hu => by simp [hu])⟩
  case outEnNChange | fieldUndervoltage | fieldSupplyRecovery | fieldSectionReset =>
    exact ⟨_, rfl, h.inField _ (fun hu => by simp [hu])⟩
  case bypass | standbyRailLoss =>
    exact ⟨_, rfl, h.sealing _ (fun hu => by simp [hu])⟩
  case sdoSegmentTimeout | upload | download | downloadSegment | uploadSegment | abortTransfer | status | event |
      resetTransaction | transactionTimeout | transferTimeout | attentionPulse | sdoDownloadInitiate =>
    exact ⟨_, rfl, h.via _ _ (fun hu => by simp [hu])⟩
  case powerOn => exact h.execPowerOn ..
  case bringUpFailure => exact h.execBringUpFailure ..
  case resetN => exact h.execResetN ..
  case moduleReset => exact h.execModuleReset ..
  case moduleResetReboot => exact h.execModuleResetReboot ..
  case ioDieWatchdog => exact h.execIoDieWatchdog ..
  case mainSupplyLoss => exact h.execMainSupplyLoss ..
  case thermalTrip => exact h.execThermalTrip ..
  case clockFailure => exact h.execClockFailure ..
  case encoderCount => exact h.execEncoderCount ..
  case illegalTransition => exact h.execIllegalTransition ..
  case triggerIssued => exact h.execTriggerIssued ..
  case triggerPulseEnd => exact h.execTriggerPulseEnd ..
  case missedTrigger => exact h.execMissedTrigger ..
  case timerExpiry => exact h.execTimerExpiry ..
  case loop => exact h.execLoop ..
  case endEntry => exact h.execEndEntry ..
  case passIssue => exact h.execPassIssue ..
  case weightLoadStart => exact h.execWeightLoadStart ..
  case weightLoadComplete => exact h.execWeightLoadComplete ..
  case passStart => exact h.execPassStart ..
  case passComplete => exact h.execPassComplete ..
  case modeChange => exact h.execModeChange ..
  case arrayFault => exact h.execArrayFault ..
  case vectorComplete => exact h.execVectorComplete ..
  case shunterCopy => exact h.execShunterCopy ..
  case shunterGather => exact h.execShunterGather ..
  case shunterScatter => exact h.execShunterScatter ..
  case shunterStart => exact h.execShunterStart ..
  case shunterComplete => exact h.execShunterComplete ..
  case semaphoreAdd => exact h.execSemaphoreAdd ..
  case semaphoreSet => exact h.execSemaphoreSet ..
  case semaphoreLaneAdd => exact h.execSemaphoreLaneAdd ..
  case laneSignalArrival => exact h.execLaneSignalArrival ..
  case hubOperation => exact h.execHubOperation ..
  case wait => exact h.execWait ..
  case waitTimeout => exact h.execWaitTimeout ..
  case creditAcquire => exact h.execCreditAcquire ..
  case creditRelease => exact h.execCreditRelease ..
  case creditTimeout => exact h.execCreditTimeout ..
  case yield => exact h.execYield ..
  case yieldSurrender => exact h.execYieldSurrender ..
  case deadlinePublish => exact h.execDeadlinePublish ..
  case deadlineClear => exact h.execDeadlineClear ..
  case droneRead => exact h.execDroneRead ..
  case createComplete => exact h.execCreateComplete ..
  case topkCommand => exact h.execTopkCommand ..
  case topkStart => exact h.execTopkStart ..
  case topkComplete => exact h.execTopkComplete ..
  case loadRecord => exact h.execLoadRecord ..
  case sliceBoundary => exact h.execSliceBoundary ..
  case forcedPreemption => exact h.execForcedPreemption ..
  case holdTimeout => exact h.execHoldTimeout ..
  case contextUnloadComplete => exact h.execContextUnloadComplete ..
  case contextLoadComplete => exact h.execContextLoadComplete ..
  case contextSaveComplete => exact h.execContextSaveComplete ..
  case contextRestoreComplete => exact h.execContextRestoreComplete ..
  case modelContainer => exact h.execModelContainer ..
  case modelEntryLoaded => exact h.execModelEntryLoaded ..
  case barrierAction => exact h.execBarrierAction ..
  case barrierTimeout => exact h.execBarrierTimeout ..
  case lineEnd => exact h.execLineEnd ..
  case frameEnd => exact h.execFrameEnd ..
  case i2cWrite => exact h.execI2cWrite ..
  case i2cWriteRead => exact h.execI2cWriteRead ..
  case spiTransfer => exact h.execSpiTransfer ..
  case sccRecordStart => exact h.execSccRecordStart ..
  case alignTimeout => exact h.execAlignTimeout ..
  case clockStretchTimeout => exact h.execClockStretchTimeout ..
  case sccRecordComplete => exact h.execSccRecordComplete ..
  case flatFieldCopyComplete => exact h.execFlatFieldCopyComplete ..
  case lineWriteComplete => exact h.execLineWriteComplete ..
  case submissionTaken => exact h.execSubmissionTaken ..
  case decodeDispatch => exact h.execDecodeDispatch ..
  case decodeComplete => exact h.execDecodeComplete ..
  case budgetExpiry => exact h.execBudgetExpiry ..
  case recordCommit => exact h.execRecordCommit ..
  case intakeRelease => exact h.execIntakeRelease ..
  case roi => exact h.execRoi ..
  case nextChangeFrameStart => exact h.execNextChangeFrameStart ..
  case valveFrameComplete => exact h.execValveFrameComplete ..
  case latchPulseEnd => exact h.execLatchPulseEnd ..
  case dictionaryWrite => exact h.execDictionaryWrite ..
  case rcRead => exact h.execRcRead ..
  case enableComplete => exact h.execEnableComplete ..
  case alStateRequest => exact h.execAlStateRequest ..
  case sm2OutputsTaken => exact h.execSm2OutputsTaken ..
  case emergencySend => exact h.execEmergencySend ..
  case responseReady => exact h.execResponseReady ..
  case read => exact h.execRead ..
  case attentionPulseEnd => exact h.execAttentionPulseEnd ..
  case laneBringUp => exact h.execLaneBringUp ..
  case bringUpRetry => exact h.execBringUpRetry ..
  case frameReceived => exact h.execFrameReceived ..
  case segmentReceived => exact h.execSegmentReceived ..
  case reassemblyTimeout => exact h.execReassemblyTimeout ..
  case messageHandedOn => exact h.execMessageHandedOn ..
  case inboxWrite => exact h.execInboxWrite ..
  case secondRoll => exact h.execSecondRoll ..
  case ptpMessage => exact h.execPtpMessage ..
  case powerTransitionComplete => exact h.execPowerTransitionComplete ..
  case wakeN => exact h.execWakeN ..
  case mainSupplyRise => exact h.execMainSupplyRise ..
  case extest => exact h.execExtest ..
  case idcode => exact h.execIdcode ..
  case samplePreload => exact h.execSamplePreload ..
  case tapClamp => exact h.execTapClamp ..
  case highz => exact h.execHighz ..
  case dbgaccRead => exact h.execDbgaccRead ..
  case dbgaccWrite => exact h.execDbgaccWrite ..
  case halt => exact h.execHalt ..
  case resume => exact h.execResume ..
  case dbgctrlStep => exact h.execDbgctrlStep ..
  case holdoffExpiry => exact h.execHoldoffExpiry ..
  case resetNRelease => exact h.execResetNRelease ..
  case refclkRestored => exact h.execRefclkRestored ..
  case tripTemperatureFall => exact h.execTripTemperatureFall ..
  case arpEntryExpiry => exact h.execArpEntryExpiry ..
  case pauseRepeat => exact h.execPauseRepeat ..
  case pauseExpiry => exact h.execPauseExpiry ..
  case sync0Missed => exact h.execSync0Missed ..
  case sdoDownloadSegment => exact h.execSdoDownloadSegment ..
  case ptpTimerExpiry => exact h.execPtpTimerExpiry ..

/-- Settles O59: by what each command does to the memories, and by the passage of time on an empty queue. -/
theorem everyStepKeepsMemoryCanonical : Obligations.EveryStepKeepsMemoryCanonical := by
  intro s t hs h
  have hc : s.Canonical := s.canonical_iff.2 hs
  cases hq : s.pending with
  | nil =>
    rw [step_nil s hq] at h
    cases h
    exact (State.canonical_iff _).1 (hc.wait 12)
  | cons c cs =>
    rw [step_cons s hq] at h
    have hpop : ({ s with pending := cs } : State).Canonical := hc
    obtain ⟨u, hu, hcu⟩ := exec_canonical c hpop
    rw [h] at hu
    cases hu
    exact (State.canonical_iff _).1 hcu

end Sys2Proof.Machine
end

section
/-! What a reader of words finds (07 R220 to R223). -/
namespace Sys2Proof.Machine

theorem satAdd_satAdd (w a b c : Nat) : satAdd w (satAdd w a b) c = satAdd w a (b + c) := by
  have := Nat.two_pow_pos w
  unfold satAdd
  split_ifs <;> omega

theorem mem_addKey_iff (ks : List Nat) (j k : Nat) : j ∈ addKey ks k ↔ j ∈ ks ∨ j = k := by
  induction ks with
  | nil => simp [addKey]
  | cons i ks ih =>
    unfold addKey
    split_ifs with h1 h2
    · simp only [List.mem_cons]
      tauto
    · subst h2
      simp only [List.mem_cons]
      tauto
    · simp only [List.mem_cons, ih]
      tauto

theorem hasKey_addKey (ks : List Nat) (j k : Nat) : hasKey (addKey ks k) j = (hasKey ks j || j == k) := by
  rw [Bool.eq_iff_iff]
  simp [hasKey, mem_addKey_iff]

section
variable (s : State) (l m : Level) (w x j : Nat) (f : ReadFinding)

/-- A reader that finds word `w` as `f` says has found an uncorrectable word (R222, R223). -/
def State.findsBad : Bool := !hasKey (s.store l).poison w && (hasKey (s.store l).bad w || f == .uncorrectable)

/-- A reader that finds word `w` as `f` says has found a correctable word that waits for no write-back yet (R221, R223). -/
def State.findsNew : Bool :=
  f == .correctable && !hasKey (s.store l).poison w && !hasKey (s.store l).bad w && !s.writebacks.contains ⟨levelNum l, w⟩

theorem State.finding_bad (h : s.findsBad l w f = true) : s.finding l w f =
    (s.setStore l { s.store l with bad := addKey (s.store l).bad w }).foundBad (levelNum l) (w * wordSize l) := by
  simp only [State.findsBad, Bool.and_eq_true, Bool.not_eq_true', Bool.or_eq_true, beq_iff_eq] at h
  obtain ⟨hp, hb⟩ := h
  unfold State.finding
  simp only [hp, Bool.false_eq_true, if_false]
  exact if_pos hb

theorem State.finding_new (h : s.findsNew l w f = true) : s.finding l w f =
    ({ s with writebacks := s.writebacks ++ [⟨levelNum l, w⟩] } : State).count 0x2902 (levelNum l) := by
  simp only [State.findsNew, Bool.and_eq_true, Bool.not_eq_true', beq_iff_eq] at h
  obtain ⟨⟨⟨hf, hp⟩, hb⟩, hw⟩ := h
  subst hf
  unfold State.finding
  simp only [hp, hb, hw, Bool.false_eq_true, if_false, false_or, reduceCtorEq, Bool.not_false, and_self, if_true]

theorem State.finding_else (hb : s.findsBad l w f = false) (hn : s.findsNew l w f = false) : s.finding l w f = s := by
  unfold State.finding
  simp only []
  split_ifs with h1 h2 h3
  · rfl
  · simp only [State.findsBad, h1, Bool.not_false, Bool.true_and, Bool.or_eq_false_iff] at hb
    rcases h2 with h2 | h2
    · rw [hb.1] at h2
      cases h2
    · subst h2
      cases hb.2
  · obtain ⟨hf, hw⟩ := h3
    have hbad : hasKey (s.store l).bad w = false := by
      simpa using fun h => h2 (Or.inl h)
    simp [State.findsNew, hf, h1, hbad] at hn
    simp [hn] at hw
  · rfl

theorem State.not_findsNew (h : s.findsBad l w f = true) : s.findsNew l w f = false := by
  cases f with
  | correctable =>
    simp only [State.findsBad, Bool.and_eq_true, Bool.or_eq_true, reduceCtorEq, beq_iff_eq, or_false] at h
    simp [State.findsNew, h.2]
  | clean => rfl
  | uncorrectable => rfl

theorem State.store_setStore (y : Store) : (s.setStore l y).store m = if m = l then y else s.store m := by
  cases l <;> cases m <;> rfl

@[simp] theorem State.store_count (ix sub d : Nat) (o : Option (Nat × Nat)) : (s.count ix sub d o).store m = s.store m :=
  State.count_keeps s ix sub d o (·.store m) (fun _ => by cases m <;> rfl)

@[simp] theorem State.writebacks_count (ix sub d : Nat) (o : Option (Nat × Nat)) : (s.count ix sub d o).writebacks = s.writebacks :=
  State.count_keeps s ix sub d o (·.writebacks) (fun _ => rfl)

@[simp] theorem State.store_foundBad (level a : Nat) : (s.foundBad level a).store m = s.store m := by
  unfold State.foundBad
  rw [State.store_count]
  cases m <;> rfl

@[simp] theorem State.writebacks_foundBad (level a : Nat) : (s.foundBad level a).writebacks = s.writebacks := by
  unfold State.foundBad
  rw [State.writebacks_count]
  rfl

/-- The other memories are as before. -/
theorem State.store_finding_other (h : m ≠ l) : (s.finding l w f).store m = s.store m := by
  by_cases hb : s.findsBad l w f = true
  · rw [State.finding_bad _ _ _ _ hb, State.store_foundBad, State.store_setStore, if_neg h]
  by_cases hn : s.findsNew l w f = true
  · rw [State.finding_new _ _ _ _ hn, State.store_count]
    cases m <;> rfl
  rw [State.finding_else _ _ _ _ (Bool.eq_false_iff.2 hb) (Bool.eq_false_iff.2 hn)]

/-- An uncorrectable word is held as such; else the memory is as before. -/
theorem State.store_finding : (s.finding l w f).store l =
    if s.findsBad l w f then { s.store l with bad := addKey (s.store l).bad w } else s.store l := by
  by_cases hb : s.findsBad l w f = true
  · rw [State.finding_bad _ _ _ _ hb, State.store_foundBad, State.store_setStore, if_pos rfl, if_pos hb]
  rw [if_neg hb]
  by_cases hn : s.findsNew l w f = true
  · rw [State.finding_new _ _ _ _ hn, State.store_count]
    cases l <;> rfl
  rw [State.finding_else _ _ _ _ (Bool.eq_false_iff.2 hb) (Bool.eq_false_iff.2 hn)]

theorem State.cells_finding : ((s.finding l w f).store l).cells = (s.store l).cells := by
  rw [State.store_finding]
  split <;> rfl

theorem State.poison_finding : ((s.finding l w f).store l).poison = (s.store l).poison := by
  rw [State.store_finding]
  split <;> rfl

theorem State.hasKey_bad_finding (a : Nat) : hasKey ((s.finding l w f).store l).bad a =
    (hasKey (s.store l).bad a || (f == .uncorrectable && a == w && !hasKey (s.store l).poison w)) := by
  rw [State.store_finding]
  split
  next h =>
    simp only [State.findsBad, Bool.and_eq_true, Bool.not_eq_true', Bool.or_eq_true] at h
    obtain ⟨hp, hb⟩ := h
    rw [hasKey_addKey, hp]
    by_cases ha : a = w
    · subst ha
      rcases hb with hb | hb <;> simp [hb]
    · simp [beq_false_of_ne ha]
  next h =>
    simp only [State.findsBad, Bool.and_eq_true, Bool.not_eq_true', Bool.or_eq_true, not_and, not_or, Bool.not_eq_true] at h
    cases hp : hasKey (s.store l).poison w with
    | true => simp
    | false => simp [(h hp).2]

/-- A reader of one word finds another as it was. -/
theorem State.findsBad_finding_other {v : Nat} (h : v ≠ w) (g : ReadFinding) :
    (s.finding l w f).findsBad l v g = s.findsBad l v g := by
  unfold State.findsBad
  rw [State.poison_finding, State.hasKey_bad_finding, beq_false_of_ne h]
  simp

theorem State.writebacks_finding : (s.finding l w f).writebacks =
    if s.findsNew l w f then s.writebacks ++ [⟨levelNum l, w⟩] else s.writebacks := by
  by_cases hb : s.findsBad l w f = true
  · rw [State.finding_bad _ _ _ _ hb, State.writebacks_foundBad, State.not_findsNew _ _ _ _ hb]
    cases l <;> rfl
  by_cases hn : s.findsNew l w f = true
  · rw [State.finding_new _ _ _ _ hn, State.writebacks_count, if_pos hn]
  rw [State.finding_else _ _ _ _ (Bool.eq_false_iff.2 hb) (Bool.eq_false_iff.2 hn), if_neg hn]

/-! The registers that a finding changes. -/

theorem levelNum_bounds : 1 ≤ levelNum l ∧ levelNum l ≤ 4 := by cases l <;> decide

/-- The counter of a level's uncorrectable words. -/
def kBad (l : Level) : Nat := key 0x2902 (4 + levelNum l)

/-- The counter of a level's corrected words. -/
def kCorrected (l : Level) : Nat := key 0x2902 (levelNum l)

theorem reg_setStore (y : Store) (k : Nat) : (s.setStore l y).reg k = s.reg k := by cases l <;> rfl

theorem State.reg_foundBad_counter : (s.foundBad (levelNum l) x).reg (kBad l) = satAdd 32 (s.reg (kBad l)) 1 := by
  have hother : kBad l ≠ key 0x2500 0x36 := by unfold kBad key; omega
  unfold State.foundBad kBad
  rw [State.reg_count_same _ _ _ _ _ (by cases l <;> rfl) (by cases l <;> decide) (by cases l <;> decide)]
  exact congrArg (satAdd 32 · 1) (State.reg_setReg_other _ _ hother)

theorem State.reg_foundBad_place : (s.foundBad (levelNum l) x).reg (kMem 0x36) = badLocation (levelNum l) x % 2 ^ 64 := by
  unfold State.foundBad
  rw [State.reg_count_below _ _ _ _ _ (by omega) (by unfold kMem key; omega)]
  exact State.reg_setReg_same _ _ _

theorem State.reg_foundBad_other {k : Nat} (h : k ≠ kBad l) (hp : k ≠ kMem 0x36) (h5 : k ≠ key 0x2904 5) (h6 : k ≠ key 0x2904 6) :
    (s.foundBad (levelNum l) x).reg k = s.reg k := by
  unfold State.foundBad
  rw [State.reg_count_other _ _ _ _ _ _ h h5 h6]
  exact State.reg_setReg_other _ _ hp

theorem kBad_ne_kCorrected : kBad l ≠ kCorrected l := by cases l <;> decide

theorem State.reg_finding_bad : (s.finding l w f).reg (kBad l) =
    if s.findsBad l w f then satAdd 32 (s.reg (kBad l)) 1 else s.reg (kBad l) := by
  by_cases hb : s.findsBad l w f = true
  · rw [State.finding_bad _ _ _ _ hb, State.reg_foundBad_counter, reg_setStore, if_pos hb]
  rw [if_neg hb]
  by_cases hn : s.findsNew l w f = true
  · rw [State.finding_new _ _ _ _ hn]
    exact State.reg_count_other _ _ _ _ _ _ (kBad_ne_kCorrected l) (by cases l <;> decide) (by cases l <;> decide)
  rw [State.finding_else _ _ _ _ (Bool.eq_false_iff.2 hb) (Bool.eq_false_iff.2 hn)]

theorem State.reg_finding_place : (s.finding l w f).reg (kMem 0x36) =
    if s.findsBad l w f then badLocation (levelNum l) (w * wordSize l) % 2 ^ 64 else s.reg (kMem 0x36) := by
  by_cases hb : s.findsBad l w f = true
  · rw [State.finding_bad _ _ _ _ hb, State.reg_foundBad_place, if_pos hb]
  rw [if_neg hb]
  by_cases hn : s.findsNew l w f = true
  · rw [State.finding_new _ _ _ _ hn, State.reg_count_below _ _ _ _ _ (by omega) (by unfold kMem key; omega)]
    rfl
  rw [State.finding_else _ _ _ _ (Bool.eq_false_iff.2 hb) (Bool.eq_false_iff.2 hn)]

theorem State.reg_finding_corrected : (s.finding l w f).reg (kCorrected l) =
    if s.findsNew l w f then satAdd 32 (s.reg (kCorrected l)) 1 else s.reg (kCorrected l) := by
  by_cases hb : s.findsBad l w f = true
  · rw [State.finding_bad _ _ _ _ hb, State.not_findsNew _ _ _ _ hb, State.reg_foundBad_other _ _ _ (kBad_ne_kCorrected l).symm
      (by unfold kCorrected kMem key; omega) (by cases l <;> decide) (by cases l <;> decide), reg_setStore]
    rfl
  by_cases hn : s.findsNew l w f = true
  · rw [State.finding_new _ _ _ _ hn, if_pos hn]
    exact State.reg_count_same _ _ _ _ _ (by cases l <;> rfl) (by cases l <;> decide) (by cases l <;> decide)
  rw [State.finding_else _ _ _ _ (Bool.eq_false_iff.2 hb) (Bool.eq_false_iff.2 hn), if_neg hn]

/-- The registers that findings change. -/
def scanSpans : Spans := [at1 (kMem 0x36), counterSpan]

theorem State.regs_finding : OnlyRegs scanSpans s (s.finding l w f) := by
  have hl := levelNum_bounds l
  by_cases hb : s.findsBad l w f = true
  · rw [State.finding_bad _ _ _ _ hb]
    have hq : Quiet scanSpans (s.setStore l { s.store l with bad := addKey (s.store l).bad w })
        ((s.setStore l { s.store l with bad := addKey (s.store l).bad w }).foundBad (levelNum l) (w * wordSize l)) :=
      ((Quiet.refl _).setReg (covers_at1 (k := kMem 0x36) List.mem_cons_self)).count (List.mem_cons_of_mem _ List.mem_cons_self)
        (by omega) (by omega) (by omega)
    exact fun k hk => (hq.regs k hk).trans (reg_setStore ..)
  by_cases hn : s.findsNew l w f = true
  · rw [State.finding_new _ _ _ _ hn]
    have hq : Quiet scanSpans ({ s with writebacks := s.writebacks ++ [⟨levelNum l, w⟩] } : State)
        (({ s with writebacks := s.writebacks ++ [⟨levelNum l, w⟩] } : State).count 0x2902 (levelNum l)) :=
      (Quiet.refl _).count (List.mem_cons_of_mem _ List.mem_cons_self) (by omega) (by omega) (by omega)
    exact hq.regs
  rw [State.finding_else _ _ _ _ (Bool.eq_false_iff.2 hb) (Bool.eq_false_iff.2 hn)]
  exact fun _ _ => rfl

/-- What a finding leaves alone: what neither reports nor the memories nor the corrected words that wait change. -/
theorem State.finding_keeps {γ : Type} (g : State → γ) (hr : ∀ u : State, g u = g u.unreported)
    (hs : ∀ (u : State) (l : Level) (y : Store), g (u.setStore l y) = g u)
    (hw : ∀ (u : State) (bs : List Writeback), g { u with writebacks := bs } = g u) : g (s.finding l w f) = g s := by
  by_cases hb : s.findsBad l w f = true
  · rw [State.finding_bad _ _ _ _ hb]
    unfold State.foundBad
    have hreg (u : State) (k v : Nat) : g (u.setReg k v) = g u := (hr (u.setReg k v)).trans (hr u).symm
    rw [State.count_keeps _ _ _ _ _ g hr, hreg, hs]
  by_cases hn : s.findsNew l w f = true
  · rw [State.finding_new _ _ _ _ hn, State.count_keeps _ _ _ _ _ g hr, hw]
  rw [State.finding_else _ _ _ _ (Bool.eq_false_iff.2 hb) (Bool.eq_false_iff.2 hn)]

/-! All words of one read. -/

/-- A reader finds the words `x + i`, `i` in a list; the finding `f` is about word `x + j`. -/
def State.scan (s : State) (l : Level) (x j : Nat) (f : ReadFinding) (is : List Nat) : State :=
  forEach is s (fun i u => u.finding l (x + i) (if i = j then f else .clean))

variable (is : List Nat)

theorem State.scan_cons (i : Nat) :
    s.scan l x j f (i :: is) = (s.finding l (x + i) (if i = j then f else .clean)).scan l x j f is := rfl

/-- The words found uncorrectable. -/
def State.badOf (s : State) (l : Level) (x j : Nat) (f : ReadFinding) (is : List Nat) : List Nat :=
  is.filter (fun i => s.findsBad l (x + i) (if i = j then f else .clean))

theorem State.badOf_finding {i : Nat} (h : i ∉ is) (g : ReadFinding) :
    (s.finding l (x + i) g).badOf l x j f is = s.badOf l x j f is := by
  refine List.filter_congr (fun a ha => State.findsBad_finding_other _ _ _ _ (fun hx => h ?_) _)
  have : a = i := by omega
  exact this ▸ ha

theorem State.scan_keeps {γ : Type} (g : State → γ)
    (hg : ∀ (u : State) (w : Nat) (f : ReadFinding), g (u.finding l w f) = g u) : g (s.scan l x j f is) = g s := forEach_same g _ (fun _ _ => hg ..) is s

theorem State.regs_scan : OnlyRegs scanSpans s (s.scan l x j f is) := by
  induction is generalizing s with
  | nil => exact fun _ _ => rfl
  | cons i is ih => exact (State.regs_finding s l _ _).trans (ih _)

theorem State.bad_scan (a : Nat) (hj : is.Nodup) : hasKey ((s.scan l x j f is).store l).bad a =
    (hasKey (s.store l).bad a || (decide (j ∈ is) && f == .uncorrectable && a == x + j && !hasKey (s.store l).poison (x + j))) := by
  induction is generalizing s with
  | nil => simp [State.scan, forEach]
  | cons i is ih =>
    obtain ⟨hi, hj⟩ := List.nodup_cons.1 hj
    rw [State.scan_cons, ih _ hj, State.hasKey_bad_finding, State.poison_finding]
    by_cases h : i = j
    · subst h
      simp [hi]
    · have hclean : (ReadFinding.clean == .uncorrectable) = false := rfl
      simp [h, Ne.symm h, hclean]

/-- The uncorrectable words are counted, and one of them is recorded. -/
theorem State.counted_scan (hj : is.Nodup) :
    (s.badOf l x j f is = [] → (s.scan l x j f is).reg (kBad l) = s.reg (kBad l) ∧
      (s.scan l x j f is).reg (kMem 0x36) = s.reg (kMem 0x36)) ∧
    (s.badOf l x j f is ≠ [] → (s.scan l x j f is).reg (kBad l) = satAdd 32 (s.reg (kBad l)) (s.badOf l x j f is).length ∧
      ∃ i ∈ s.badOf l x j f is,
        (s.scan l x j f is).reg (kMem 0x36) = badLocation (levelNum l) ((x + i) * wordSize l) % 2 ^ 64) := by
  induction is generalizing s with
  | nil => exact ⟨fun _ => ⟨rfl, rfl⟩, fun h => absurd rfl h⟩
  | cons i is ih =>
    obtain ⟨hi, hj⟩ := List.nodup_cons.1 hj
    obtain ⟨hnone, hsome⟩ := ih (s.finding l (x + i) (if i = j then f else .clean)) hj
    rw [State.badOf_finding _ _ _ _ _ _ hi, State.reg_finding_bad] at hnone hsome
    rw [State.reg_finding_place] at hnone
    rw [State.scan_cons]
    cases hb : s.findsBad l (x + i) (if i = j then f else .clean) with
    | false =>
      have hbad : s.badOf l x j f (i :: is) = s.badOf l x j f is := List.filter_cons_of_neg (by simp [hb])
      rw [hb] at hnone hsome
      rw [hbad]
      exact ⟨hnone, hsome⟩
    | true =>
      have hbad : s.badOf l x j f (i :: is) = i :: s.badOf l x j f is := List.filter_cons_of_pos (by simp [hb])
      rw [hb] at hnone hsome
      rw [hbad]
      refine ⟨fun h => (nomatch h), fun _ => ?_⟩
      by_cases hrest : s.badOf l x j f is = []
      · obtain ⟨hcount, hplace⟩ := hnone hrest
        exact ⟨by rw [hcount, hrest]; rfl, i, List.mem_cons_self, hplace⟩
      · obtain ⟨hcount, k, hk, hplace⟩ := hsome hrest
        refine ⟨?_, k, List.mem_cons_of_mem _ hk, hplace⟩
        rw [hcount, if_pos rfl, satAdd_satAdd, List.length_cons, Nat.add_comm]

/-- A reader that finds a word clean leaves to be found what is to be corrected. -/
theorem State.findsNew_finding_clean (v : Nat) : (s.finding l w .clean).findsNew l v f = s.findsNew l v f := by
  have hclean : (ReadFinding.clean == .uncorrectable) = false := rfl
  unfold State.findsNew
  rw [State.poison_finding, State.hasKey_bad_finding, State.writebacks_finding]
  simp [State.findsNew, hclean]

/-- The word that is corrected waits for its write-back, and is counted. -/
theorem State.corrected_scan (hj : is.Nodup) :
    (s.scan l x j f is).writebacks =
      (if j ∈ is ∧ s.findsNew l (x + j) f then s.writebacks ++ [⟨levelNum l, x + j⟩] else s.writebacks) ∧
    (s.scan l x j f is).reg (kCorrected l) =
      (if j ∈ is ∧ s.findsNew l (x + j) f then satAdd 32 (s.reg (kCorrected l)) 1 else s.reg (kCorrected l)) := by
  induction is generalizing s with
  | nil => exact ⟨by simp [State.scan, forEach], by simp [State.scan, forEach]⟩
  | cons i is ih =>
    obtain ⟨hi, hj⟩ := List.nodup_cons.1 hj
    obtain ⟨hwait, hcount⟩ := ih (s.finding l (x + i) (if i = j then f else .clean)) hj
    rw [State.scan_cons, hwait, hcount, State.writebacks_finding, State.reg_finding_corrected]
    by_cases h : i = j
    · subst h
      simp [hi]
    · have hclean : s.findsNew l (x + i) .clean = false := rfl
      simp [h, Ne.symm h, State.findsNew_finding_clean, hclean]

theorem State.store_scan_other (h : m ≠ l) : (s.scan l x j f is).store m = s.store m :=
  State.scan_keeps s l x j f is (·.store m) (fun u _ _ => State.store_finding_other u l m _ _ h)
theorem State.cells_scan : ((s.scan l x j f is).store l).cells = (s.store l).cells :=
  State.scan_keeps s l x j f is (fun u => (u.store l).cells) (fun u _ _ => State.cells_finding u l _ _)
theorem State.poison_scan : ((s.scan l x j f is).store l).poison = (s.store l).poison :=
  State.scan_keeps s l x j f is (fun u => (u.store l).poison) (fun u _ _ => State.poison_finding u l _ _)
theorem State.walkers_scan : (s.scan l x j f is).walkers = s.walkers :=
  State.scan_keeps s l x j f is (·.walkers) (fun u w f =>
    State.finding_keeps u l w f (·.walkers) (fun _ => rfl) (fun _ l _ => by cases l <;> rfl) (fun _ _ => rfl))
theorem State.time_scan : (s.scan l x j f is).time = s.time :=
  State.scan_keeps s l x j f is (·.time) (fun u w f =>
    State.finding_keeps u l w f (·.time) (fun _ => rfl) (fun _ l _ => by cases l <;> rfl) (fun _ _ => rfl))
theorem State.grade_scan : (s.scan l x j f is).grade = s.grade :=
  State.scan_keeps s l x j f is (·.grade) (fun u w f =>
    State.finding_keeps u l w f (·.grade) (fun _ => rfl) (fun _ l _ => by cases l <;> rfl) (fun _ _ => rfl))
theorem State.valid_scan : (s.scan l x j f is).valid = s.valid :=
  State.scan_keeps s l x j f is (·.valid) (fun u w f =>
    State.finding_keeps u l w f (·.valid) (fun _ => rfl) (fun _ l _ => by cases l <;> rfl) (fun _ _ => rfl))

end

end Sys2Proof.Machine
end

section
/-! An agent goes on to its next word (07 R220). -/
namespace Sys2Proof.Machine

section
variable (s : State) (l : Level) (agent : Nat)

@[simp] theorem State.walker_setWalker (k v : Nat) : (s.setWalker k v).walker k = v := tget_tset_same _ _ _ _
theorem State.walker_setWalker_other {j k : Nat} (v : Nat) (h : j ≠ k) : (s.setWalker k v).walker j = s.walker j :=
  tget_tset_other _ _ _ h
@[simp] theorem State.walker_setBit (j k i : Nat) (b : Bool) : (s.setBit k i b).walker j = s.walker j := rfl
@[simp] theorem State.walker_count (ix sub d : Nat) (o : Option (Nat × Nat)) (j : Nat) : (s.count ix sub d o).walker j = s.walker j :=
  State.count_keeps s ix sub d o (·.walker j) (fun _ => rfl)
@[simp] theorem State.bit_setWalker (j i k v : Nat) : (s.setWalker k v).bit' j i = s.bit' j i := rfl

/-- The agent's pass takes longer than its time. -/
def State.isLate (s : State) (l : Level) (agent : Nat) : Prop :=
  0 < s.walker (walkKey l agent) ∧ s.walker (walkKey l agent + 1) + s.passTime l < s.sclk + 1

/-- Its pass has begun. -/
def State.passBegun (s : State) (l : Level) (agent : Nat) : State :=
  if s.walker (walkKey l agent) = 0 then s.setWalker (walkKey l agent + 1) (s.sclk + 1) else s

/-- A late agent shows it, and counts it at the end of its pass. -/
theorem State.walkOn_late (h : s.isLate l agent) : s.walkOn l agent =
    if s.walker (walkKey l agent) + 1 < s.passReads l agent then
      (s.setBit (kMem 0x3B) (levelNum l - 1) true).setWalker (walkKey l agent) (s.walker (walkKey l agent) + 1)
    else ((s.setBit (kMem 0x3B) (levelNum l - 1) true).setWalker (walkKey l agent) 0).count 0x2902 0x0B := by
  obtain ⟨hi, hlate⟩ := h
  unfold State.walkOn
  simp only [if_neg (show ¬ s.walker (walkKey l agent) = 0 by omega), hlate, decide_true, if_true]
  rfl

/-- An agent in time shows at the end of its pass that it is. -/
theorem State.walkOn_timely (h : ¬ s.isLate l agent) : s.walkOn l agent =
    if s.walker (walkKey l agent) + 1 < s.passReads l agent then
      (s.passBegun l agent).setWalker (walkKey l agent) (s.walker (walkKey l agent) + 1)
    else ((s.passBegun l agent).setWalker (walkKey l agent) 0).setBit (kMem 0x3B) (levelNum l - 1) false := by
  unfold State.walkOn State.passBegun
  by_cases hi : s.walker (walkKey l agent) = 0
  · have hlate : ¬ s.sclk + 1 + s.passTime l < s.sclk + 1 := by omega
    have htime : (s.setWalker (walkKey l agent + 1) (s.sclk + 1)).passTime l = s.passTime l := rfl
    have hclk : (s.setWalker (walkKey l agent + 1) (s.sclk + 1)).sclk = s.sclk := rfl
    simp only [if_pos hi, State.walker_setWalker, htime, hclk, hlate, decide_false, Bool.false_eq_true, if_false]
    rfl
  · have hlate : ¬ s.walker (walkKey l agent + 1) + s.passTime l < s.sclk + 1 := fun hl => h ⟨by omega, hl⟩
    simp only [if_neg hi, hlate, decide_false, Bool.false_eq_true, if_false]

/-- The registers that an agent changes as it goes on. -/
def walkSpans : Spans := [at1 (kMem 0x3B), at1 (key 0x2902 0x0B), at1 (key 0x2904 5), at1 (key 0x2904 6)]

theorem State.reg_passBegun (k : Nat) : (s.passBegun l agent).reg k = s.reg k := by
  unfold State.passBegun
  split <;> rfl

theorem State.regs_walkOn : OnlyRegs walkSpans s (s.walkOn l agent) := by
  intro k hk
  simp only [walkSpans, covers_cons, at1] at hk
  have hbit (u : State) (i : Nat) (b : Bool) : (u.setBit (kMem 0x3B) i b).reg k = u.reg k := State.reg_setBit_other _ _ _ (by omega)
  by_cases hlate : s.isLate l agent
  · rw [State.walkOn_late _ _ _ hlate]
    split
    · exact hbit ..
    · exact (State.reg_count_other _ _ _ _ _ _ (by omega) (by omega) (by omega)).trans (hbit ..)
  · rw [State.walkOn_timely _ _ _ hlate]
    split
    · exact State.reg_passBegun ..
    · exact (hbit ..).trans (State.reg_passBegun ..)

/-- What an agent that goes on leaves alone. -/
theorem State.walkOn_keeps {γ : Type} (g : State → γ) (hr : ∀ u : State, g u = g u.unreported)
    (hw : ∀ (u : State) (k v : Nat), g (u.setWalker k v) = g u) : g (s.walkOn l agent) = g s := by
  have hbit (u : State) (k i : Nat) (b : Bool) : g (u.setBit k i b) = g u := (hr (u.setBit k i b)).trans (hr u).symm
  have hbegun : g (s.passBegun l agent) = g s := by
    unfold State.passBegun
    split
    · exact hw ..
    · rfl
  by_cases hlate : s.isLate l agent
  · rw [State.walkOn_late _ _ _ hlate]
    split
    · rw [hw, hbit]
    · rw [State.count_keeps _ _ _ _ _ g hr, hw, hbit]
  · rw [State.walkOn_timely _ _ _ hlate]
    split
    · rw [hw, hbegun]
    · rw [hbit, hw, hbegun]

theorem State.walker_passBegun_place : (s.passBegun l agent).walker (walkKey l agent) = s.walker (walkKey l agent) := by
  unfold State.passBegun
  split
  · exact State.walker_setWalker_other _ _ (by omega)
  · rfl

theorem State.walker_passBegun_begin : (s.passBegun l agent).walker (walkKey l agent + 1) =
    if s.walker (walkKey l agent) = 0 then s.sclk + 1 else s.walker (walkKey l agent + 1) := by
  unfold State.passBegun
  split
  · exact State.walker_setWalker ..
  · rfl

theorem State.walker_walkOn_place : (s.walkOn l agent).walker (walkKey l agent) =
    if s.walker (walkKey l agent) + 1 < s.passReads l agent then s.walker (walkKey l agent) + 1 else 0 := by
  by_cases hlate : s.isLate l agent
  · rw [State.walkOn_late _ _ _ hlate]
    split <;> simp
  · rw [State.walkOn_timely _ _ _ hlate]
    split <;> simp

theorem State.walker_walkOn_begin : (s.walkOn l agent).walker (walkKey l agent + 1) =
    if s.walker (walkKey l agent) = 0 then s.sclk + 1 else s.walker (walkKey l agent + 1) := by
  have hset (u : State) (v : Nat) : (u.setWalker (walkKey l agent) v).walker (walkKey l agent + 1) = u.walker (walkKey l agent + 1) :=
    State.walker_setWalker_other _ _ (by omega)
  by_cases hlate : s.isLate l agent
  · have hi : ¬ s.walker (walkKey l agent) = 0 := Nat.pos_iff_ne_zero.1 hlate.1
    rw [State.walkOn_late _ _ _ hlate, if_neg hi]
    split <;> simp [hset]
  · rw [State.walkOn_timely _ _ _ hlate]
    split <;> simp [hset, State.walker_passBegun_begin]

theorem levelBit_lt : levelNum l - 1 < widthOf (kMem 0x3B) := by cases l <;> decide

theorem State.lag_walkOn (h : s.isLate l agent) : (s.walkOn l agent).bit' (kMem 0x3B) (levelNum l - 1) = true := by
  rw [State.walkOn_late _ _ _ h]
  have hbit := State.bit_setBit_same s (levelNum l - 1) true (levelBit_lt l)
  split
  · exact hbit
  · exact (State.bit_count_below _ _ _ _ _ (by omega) (by decide)).trans hbit

theorem State.lag_cleared_walkOn (h : ¬ s.isLate l agent) (hn : s.passReads l agent ≤ s.walker (walkKey l agent) + 1) :
    (s.walkOn l agent).bit' (kMem 0x3B) (levelNum l - 1) = false := by
  rw [State.walkOn_timely _ _ _ h, if_neg (by omega)]
  exact State.bit_setBit_same _ _ _ (levelBit_lt l)

end

end Sys2Proof.Machine
end

section
/-! The drone and the patrol (07 R217, R220 to R223). -/
namespace Sys2Proof.Machine

section
variable (s : State) (l : Level) (agent word x j : Nat) (f : ReadFinding) (is : List Nat)

theorem State.badOf_eq : s.badOf l x j f is = is.filter (fun i => !hasKey (s.store l).poison (x + i) &&
    (hasKey (s.store l).bad (x + i) || (i == j && f == .uncorrectable))) := by
  refine List.filter_congr (fun i _ => ?_)
  have hclean : (ReadFinding.clean == .uncorrectable) = false := rfl
  by_cases h : i = j
  · simp [State.findsBad, h]
  · simp [State.findsBad, h, beq_false_of_ne h, hclean]

theorem State.findsNew_iff : s.findsNew l x f = true ↔
    f = .correctable ∧ hasKey (s.store l).poison x = false ∧ hasKey (s.store l).bad x = false ∧ ⟨levelNum l, x⟩ ∉ s.writebacks := by
  simp [State.findsNew, and_assoc]

/-- The words of one read. -/
def State.readWords (s : State) (l : Level) (agent word : Nat) (f : ReadFinding) : State :=
  s.scan l (s.droneWord l agent (s.walker (walkKey l agent))) (word % droneSpan l) f (upTo (droneSpan l))

/-- A read that is due in an idle slot. -/
theorem State.agentRead_due {u : State} (hu : u = s.catchUp) (hp : u.power.state < 2) (ht : 0 < u.passTime l)
    (hd : u.walkDue l agent = true)
    (hi : u.droneIdle l agent false (u.droneWord l agent (u.walker (walkKey l agent))) = true) :
    ∃ c, s.agentRead l agent word f = ((u.readWords l agent word f).walkOn l agent).setWalker (walkKey l agent + 2) c := by
  subst hu
  exact ⟨_, if_pos ⟨hp, ht, hd, hi⟩⟩

theorem mem_words : word % droneSpan l ∈ upTo (droneSpan l) :=
  List.mem_range.2 (Nat.mod_lt _ (by unfold droneSpan; split <;> omega))

theorem State.passTime_readWords : (s.readWords l agent word f).passTime l = s.passTime l := by
  refine congrArg (· * 500000000) (State.regs_scan s l _ _ f _ _ ?_)
  cases l <;> decide

theorem State.passReads_readWords : (s.readWords l agent word f).passReads l agent = s.passReads l agent := by
  have hgrade := State.grade_scan s l (s.droneWord l agent (s.walker (walkKey l agent))) (word % droneSpan l) f (upTo (droneSpan l))
  unfold State.readWords State.passReads State.walkedArrays
  rw [hgrade]

theorem State.sclk_readWords : (s.readWords l agent word f).sclk = s.sclk := congrArg (· / 12) (State.time_scan ..)

theorem State.walker_readWords (k : Nat) : (s.readWords l agent word f).walker k = s.walker k :=
  congrArg (fun t => tget (fun _ => 0) t k) (State.walkers_scan ..)

theorem State.isLate_readWords : (s.readWords l agent word f).isLate l agent ↔ s.isLate l agent := by
  unfold State.isLate
  rw [State.walker_readWords, State.walker_readWords, State.passTime_readWords, State.sclk_readWords]

/-- An agent's read leaves what R220 to R223 say. -/
theorem scrubbed_read (c : Nat) {t : State}
    (ht : t = ((s.readWords l agent word f).walkOn l agent).setWalker (walkKey l agent + 2) c) : Scrubbed s t l agent word f := by
  have hstore (m : Level) : t.store m = (s.readWords l agent word f).store m := by
    rw [ht]
    exact State.walkOn_keeps _ l agent (·.store m) (fun _ => by cases m <;> rfl) (fun _ _ _ => by cases m <;> rfl)
  have hreg {k : Nat} (hk : covers walkSpans k = false) : t.reg k = (s.readWords l agent word f).reg k := by
    rw [ht]
    exact State.regs_walkOn _ l agent k hk
  have hwalker {k : Nat} (hk : k ≠ walkKey l agent + 2) : t.walker k = ((s.readWords l agent word f).walkOn l agent).walker k := by
    rw [ht]
    exact State.walker_setWalker_other _ _ hk
  have hnodup : (upTo (droneSpan l)).Nodup := List.nodup_range
  have hwords : t.store l = (s.readWords l agent word f).store l := hstore l
  constructor
  case counted =>
    have hcounted := State.counted_scan s l (s.droneWord l agent (s.walker (walkKey l agent))) (word % droneSpan l) f _ hnodup
    rw [State.badOf_eq] at hcounted
    dsimp only
    rw [show key 0x2902 (4 + levelNum l) = kBad l from rfl, hreg (by cases l <;> decide), hreg (k := kMem 0x36) (by decide)]
    exact hcounted
  case held =>
    dsimp only
    rw [hwords]
    refine ⟨State.cells_scan .., State.poison_scan .., fun a => ?_⟩
    have hbad := State.bad_scan s l (s.droneWord l agent (s.walker (walkKey l agent))) (word % droneSpan l) f _ a hnodup
    rw [decide_eq_true (mem_words l word), Bool.true_and] at hbad
    exact hbad
  case others => exact fun m hm => (hstore m).trans (State.store_scan_other s l m _ _ f _ hm)
  case corrected =>
    have hwait : t.writebacks = (s.readWords l agent word f).writebacks := by
      rw [ht]
      exact State.walkOn_keeps _ l agent (·.writebacks) (fun _ => rfl) (fun _ _ _ => rfl)
    obtain ⟨hnew, hcount⟩ :=
      State.corrected_scan s l (s.droneWord l agent (s.walker (walkKey l agent))) (word % droneSpan l) f _ hnodup
    simp only [mem_words, true_and, State.findsNew_iff] at hnew hcount
    dsimp only
    rw [hwait, show key 0x2902 (levelNum l) = kCorrected l from rfl, hreg (by cases l <;> decide)]
    split
    next h => exact ⟨hnew.trans (if_pos h), hcount.trans (if_pos h)⟩
    next h => exact ⟨hnew.trans (if_neg h), hcount.trans (if_neg h)⟩
  case goesOn =>
    have hlag : t.bit' (kMem 0x3B) (levelNum l - 1) =
        ((s.readWords l agent word f).walkOn l agent).bit' (kMem 0x3B) (levelNum l - 1) := by
      rw [ht]
      exact State.bit_setWalker ..
    dsimp only
    rw [hwalker (by omega), hwalker (by omega), State.walker_walkOn_place, State.walker_walkOn_begin, hlag, State.walker_readWords,
      State.walker_readWords, State.passReads_readWords, State.sclk_readWords]
    refine ⟨rfl, rfl, fun h => ?_, fun h hn => ?_⟩
    · exact State.lag_walkOn _ _ _ ((State.isLate_readWords ..).2 h)
    · refine State.lag_cleared_walkOn _ _ _ (mt (State.isLate_readWords ..).1 h) ?_
      rw [State.walker_readWords, State.passReads_readWords]
      exact hn
  case frame =>
    have hvalid : t.valid = (s.readWords l agent word f).valid := by
      rw [ht]
      exact State.walkOn_keeps _ l agent (·.valid) (fun _ => rfl) (fun _ _ _ => rfl)
    refine ⟨hvalid.trans (State.valid_scan ..), fun k hk => ?_⟩
    simp only [covers_cons, covers_nil, and_true, at1, counterSpan, pages, kMem, key] at hk
    refine (hreg ?_).trans (State.regs_scan s l _ _ f _ k ?_)
    · simp only [walkSpans, covers_cons, covers_nil, and_true, at1, kMem, key]
      omega
    · simp only [scanSpans, covers_cons, covers_nil, and_true, at1, counterSpan, pages, kMem, key]
      omega

@[simp] theorem State.walker_sealed (t : State) (k : Nat) : (s.sealed t).walker k = t.walker k := rfl

theorem Scrubbed.sealed {v t : State} (h : Scrubbed s t l agent word f) : Scrubbed s (v.sealed t) l agent word f :=
  ⟨h.counted, h.held, h.others, h.corrected, h.goesOn, h.frame⟩

/-- The oldest corrected word of an agent is written back (R221). -/
theorem State.agentWrite_idle {b : Writeback}
    (hb : s.writebacks.find? (fun b => b.level == levelNum l && agentOf l b.word == agent) = some b)
    (hi : s.droneIdle l agent true b.word = true) : s.agentWrite l agent =
      ({ s with writebacks := s.writebacks.erase b } : State).setWalker (walkKey l agent + 2) (s.cclk + 1) := by
  unfold State.agentWrite
  rw [hb]
  exact if_pos hi

/-- A word that another reader found correctable waits for its write-back, and is counted (R207, R221). -/
theorem State.passWord_new (ha : agentOf l word = agent) (hn : s.catchUp.findsNew l word .correctable = true) :
    s.passWord l agent (some word) =
      ({ s.catchUp with writebacks := s.catchUp.writebacks ++ [⟨levelNum l, word⟩] } : State).count 0x2902 (levelNum l) :=
  (if_pos ha).trans (State.finding_new _ _ _ _ hn)

end

/-- Settles O21: by what an agent's read finds word by word, and how it goes on. -/
theorem memoryAgentsScrubWords : Obligations.MemoryAgentsScrubWords := by
  unfold Obligations.MemoryAgentsScrubWords
  refine ⟨?drone, ?patrol, ?writeback, ?passed, ?refresh⟩
  case drone =>
    rintro s w u dt l agent word f rfl hup hu hagent hp ht hd hi
    obtain ⟨c, hread⟩ := State.agentRead_due (s.wait dt) l agent word f hu hp ht hd hi
    refine leads_during s dt _ rfl hup ?_
    simp only [hagent, if_true]
    exact (scrubbed_read u l agent word f c hread).sealed
  case patrol =>
    rintro s w u dt a f rfl hup hu hp ht hd
    have hi : u.droneIdle .external a false (u.droneWord .external a (u.walker (walkKey .external a))) = true := rfl
    obtain ⟨c, hread⟩ := State.agentRead_due (s.wait dt) .external a 0 f hu hp ht hd hi
    exact leads_during s dt _ rfl hup (scrubbed_read u .external a 0 f c hread).sealed
  case writeback =>
    rintro s w u dt l agent passed b rfl hup hu hb hi
    refine leads_during s dt _ rfl hup ?_
    rw [← hu, State.agentWrite_idle _ _ _ hb hi]
    exact ⟨rfl, (State.walker_sealed ..).trans (State.walker_setWalker ..), fun _ _ => rfl, rfl, rfl, rfl, rfl, rfl⟩
  case passed =>
    rintro s u l agent word rfl ha hp hb hw
    have hl := levelNum_bounds l
    rw [State.passWord_new _ _ _ _ ha ((State.findsNew_iff ..).2 ⟨rfl, hp, hb, hw⟩)]
    have hquiet := (Quiet.refl ({ s.catchUp with writebacks := s.catchUp.writebacks ++ [⟨levelNum l, word⟩] } : State)).count
      (rs := [counterSpan]) (i := 0x2902) (x := levelNum l) (d := 0) (l := none) List.mem_cons_self (by omega) (by omega) (by omega)
    refine ⟨State.writebacks_count .., ?_, hquiet.regs, hquiet.mem⟩
    exact State.reg_count_same _ _ _ _ _ (by cases l <;> rfl) (by cases l <;> decide) (by cases l <;> decide)
  case refresh =>
    rintro s w dt m hot rfl hup hp
    refine leads_during s dt _ rfl hup ?_
    simp only [hp, if_true]
    have hspan : covers [at1 (kMem 0x3E)] (kMem 0x3E) = true := covers_at1 List.mem_cons_self
    have hquiet := (((Quiet.refl (s.wait dt)).setField (a := 3) (b := 2) (v := m) hspan).setBit (i := 0) (b := hot) hspan).sealed
    refine ⟨?_, State.bit_setBit_same _ _ _ (by decide), hquiet⟩
    have hfield := State.field_setField (s.wait dt) (kMem 0x3E) 3 2 m (by omega) (by decide)
    refine (State.field_setBit_above (by omega) (by decide)).trans (hfield.trans (Nat.mod_eq_of_lt ?_))
    omega

end Sys2Proof.Machine
end

section
/-! PROOF. What the modules' units do in their cycles neither reads nor writes the state of the EtherCAT unit: each step of
`State.cycles`, in the order of their definitions, gives the same result beside another EtherCAT unit. A write that comes through
EtherCAT changes that unit before the units are run up to now, and these rules move the change behind it. -/
namespace Sys2Proof.Machine
section
variable (s : State)

theorem State.withEc_ite {ec : EcUnit} {c : Prop} [Decidable c] {a b a' b' : State} (ha : a' = a.withEc ec)
    (hb : b' = b.withEc ec) : (if c then a' else b') = (if c then a else b).withEc ec := by
  split
  · exact ha
  · exact hb

theorem State.withEc_forEach {ec : EcUnit} {β : Type} {f f' : β → State → State}
    (hf : ∀ x u, f' x (u.withEc ec) = (f x u).withEc ec) (xs : List β) :
    forEach xs (s.withEc ec) f' = (forEach xs s f).withEc ec := by
  unfold forEach
  induction xs generalizing s with
  | nil => rfl
  | cons x xs ih => rw [List.foldl_cons, List.foldl_cons, hf, ih]

/-- A state handed on beside a value, with another EtherCAT unit. -/
def ecFirst {α : Type} (ec : EcUnit) (x : State × α) : State × α := (x.1.withEc ec, x.2)

/-- A choice made on both sides of a map. -/
theorem map_ite {α β : Type} (g : α → β) {c : Prop} [Decidable c] {a b : α} {a' b' : β} (ha : a' = g a) (hb : b' = g b) :
    (if c then a' else b') = g (if c then a else b) := by
  split
  · exact ha
  · exact hb

/-- `State.withEc_forEach` for one function. -/
theorem State.withEc_each {ec : EcUnit} {β : Type} {f : β → State → State} (hf : ∀ x u, f x (u.withEc ec) = (f x u).withEc ec)
    (xs : List β) : forEach xs (s.withEc ec) f = (forEach xs s f).withEc ec := s.withEc_forEach hf xs

/-! Effects to come, registers, events and counters. -/

@[simp] theorem State.withEc_defer (ec : EcUnit) (l : Later) : (s.withEc ec).defer l = (s.defer l).withEc ec := rfl

@[simp] theorem State.withEc_opens (ec : EcUnit) (c : Nat) (a : Effect) :
    (s.withEc ec).opens c a = (s.opens c a).withEc ec := rfl

@[simp] theorem State.withEc_opensC (ec : EcUnit) (c rank : Nat) (a : Effect) :
    (s.withEc ec).opensC c rank a = (s.opensC c rank a).withEc ec := rfl

@[simp] theorem State.withEc_closesC (ec : EcUnit) (c rank : Nat) (a : Effect) :
    (s.withEc ec).closesC c rank a = (s.closesC c rank a).withEc ec := rfl

@[simp] theorem State.withEc_setReg (ec : EcUnit) (k v : Nat) : (s.withEc ec).setReg k v = (s.setReg k v).withEc ec := rfl

@[simp] theorem State.withEc_addReg (ec : EcUnit) (k n : Nat) : (s.withEc ec).addReg k n = (s.addReg k n).withEc ec := rfl

@[simp] theorem State.withEc_loadHoldoff (ec : EcUnit) (k : Nat) :
    (s.withEc ec).loadHoldoff k = (s.loadHoldoff k).withEc ec := rfl

theorem State.withEc_enqueue (ec : EcUnit) (r : EvRec) :
    (s.withEc ec).enqueue r = ((s.enqueue r).1.withEc ec, (s.enqueue r).2) := by
  have hroute : (s.withEc ec).routeOf r = s.routeOf r := rfl
  have hstamp : (s.withEc ec).stampRec r = s.stampRec r := rfl
  have hevents : (s.withEc ec).events = s.events := rfl
  unfold State.enqueue
  rw [hroute, hstamp, hevents]
  extract_lets rt r'
  by_cases hroom : s.events.length < 256
  · by_cases hq : bit rt 0 <;> simp only [hq, hroom, if_true] <;>
      exact map_ite (ecFirst ec) (map_ite (ecFirst ec) rfl rfl) rfl
  · by_cases hq : bit rt 0 <;> simp only [hq, hroom, if_true, if_false] <;>
      exact map_ite (ecFirst ec) (map_ite (ecFirst ec) rfl rfl) rfl

theorem State.withEc_holdoffEnds (ec : EcUnit) (k : Nat) (h : Holdoff) :
    (s.withEc ec).holdoffEnds k h = ((s.holdoffEnds k h).1.withEc ec, (s.holdoffEnds k h).2) := by
  have hset (hs : List (Nat × Holdoff)) (r : EvRec) : ({ s.withEc ec with holdoffs := hs } : State).enqueue r =
      ((({ s with holdoffs := hs } : State).enqueue r).1.withEc ec, (({ s with holdoffs := hs } : State).enqueue r).2) :=
    State.withEc_enqueue { s with holdoffs := hs } ec r
  exact map_ite (ecFirst ec) rfl (hset ..)

theorem State.withEc_holdoffFound (ec : EcUnit) (k : Nat) :
    (s.withEc ec).holdoffFound k = ((s.holdoffFound k).1.withEc ec, (s.holdoffFound k).2) := by
  have hh : (s.withEc ec).holdoff k = s.holdoff k := rfl
  unfold State.holdoffFound
  rw [hh]
  split
  · exact map_ite (ecFirst ec) (State.withEc_holdoffEnds ..) rfl
  · rfl

theorem State.withEc_increment (ec : EcUnit) (k data : Nat) (lpos : Option (Nat × Nat)) :
    (s.withEc ec).increment k data lpos = ((s.increment k data lpos).1.withEc ec, (s.increment k data lpos).2) := by
  have hh : (s.withEc ec).holdoff k = s.holdoff k := rfl
  have hloaded : (if (s.withEc ec).reg (key 0x29F0 4) = 0 then s.withEc ec else (s.withEc ec).loadHoldoff k) =
      (if s.reg (key 0x29F0 4) = 0 then s else s.loadHoldoff k).withEc ec := State.withEc_ite rfl rfl
  unfold State.increment
  rw [hh]
  split
  · rfl
  · rw [hloaded]
    exact State.withEc_enqueue ..

theorem State.withEc_countFuel (ec : EcUnit) (n k d : Nat) (l : Option (Nat × Nat)) :
    State.countFuel n (s.withEc ec) k d l = (State.countFuel n s k d l).withEc ec := by
  induction n generalizing s k d l with
  | zero => rfl
  | succ n ih =>
    have hadd : (s.withEc ec).addReg k 1 = (s.addReg k 1).withEc ec := rfl
    unfold State.countFuel
    simp only [hadd, State.withEc_holdoffFound, State.withEc_increment]
    exact State.withEc_forEach (f := fun x u => State.countFuel n u x 0 none) _ (fun x u => ih u x 0 none) _

@[simp] theorem State.withEc_count (ec : EcUnit) (ix sub d : Nat) (l : Option (Nat × Nat)) :
    (s.withEc ec).count ix sub d l = (s.count ix sub d l).withEc ec := State.withEc_countFuel ..

@[simp] theorem State.withEc_countMany (ec : EcUnit) (n ix sub d : Nat) :
    (s.withEc ec).countMany n ix sub d = (s.countMany n ix sub d).withEc ec :=
  State.withEc_forEach (f := fun _ u => u.count ix sub d) _ (fun _ u => State.withEc_count u ..) _

/-! The memories, and words found uncorrectable. -/

@[simp] theorem State.withEc_setValid (ec : EcUnit) (c a h r : Nat) (b : Bool) :
    (s.withEc ec).setValid c a h r b = (s.setValid c a h r b).withEc ec := rfl

@[simp] theorem State.withEc_setCtx (ec : EcUnit) (k : Nat) (x : Ctx) :
    (s.withEc ec).setCtx k x = (s.setCtx k x).withEc ec := rfl

@[simp] theorem State.withEc_onCtx (ec : EcUnit) (k : Nat) (f : Ctx → Ctx) :
    (s.withEc ec).onCtx k f = (s.onCtx k f).withEc ec := by
  have hx : (s.withEc ec).ctx? k = s.ctx? k := rfl
  unfold State.onCtx
  rw [hx]
  split <;> rfl

@[simp] theorem State.withEc_poisonAcc (ec : EcUnit) (b : Nat) : (s.withEc ec).poisonAcc b = (s.poisonAcc b).withEc ec := rfl

@[simp] theorem State.withEc_poke (ec : EcUnit) (p : Spot) (xs : List Marked) :
    (s.withEc ec).poke p xs = (s.poke p xs).withEc ec := by
  cases p with
  | ts a => rfl
  | stack a => rfl
  | ext a => rfl
  | acc a =>
    have hpart (part : List Nat) (m : Store) :
        forEach part ({ s.withEc ec with acc := m } : State) (fun w u => u.poisonAcc (4 * w)) =
          (forEach part ({ s with acc := m } : State) (fun w u => u.poisonAcc (4 * w))).withEc ec :=
      State.withEc_forEach { s with acc := m } (fun _ u => State.withEc_poisonAcc u ..) part
    refine State.withEc_ite ?_ (hpart ..)
    exact (congrArg (fun u => forEach _ u _) (hpart ..)).trans (State.withEc_forEach _ (fun _ u => State.withEc_poisonAcc u ..) _)

@[simp] theorem State.withEc_writeTs (ec : EcUnit) (k x : Nat) (xs : List Marked) :
    (s.withEc ec).writeTs k x xs = (s.writeTs k x xs).withEc ec := by
  have hspot (u : State) (y : Nat) : (u.withEc ec).tsSpot k y = u.tsSpot k y := rfl
  unfold State.writeTs
  extract_lets n u' u
  have hu : u' = u.withEc ec := by
    unfold u' u
    rw [hspot]
    split
    · exact State.withEc_ite rfl (State.withEc_poke ..)
    · rfl
  rw [hu, hspot]
  split
  · exact State.withEc_poke ..
  · rfl

@[simp] theorem State.withEc_foundBad (ec : EcUnit) (level a : Nat) :
    (s.withEc ec).foundBad level a = (s.foundBad level a).withEc ec := State.withEc_count (s.setReg _ _) ..

@[simp] theorem State.withEc_noticeBad (ec : EcUnit) (level sz a n : Nat) :
    (s.withEc ec).noticeBad level sz a n = (s.noticeBad level sz a n).withEc ec :=
  State.withEc_forEach _ (fun _ u => State.withEc_foundBad u ..) _

@[simp] theorem State.withEc_noticeSpan (ec : EcUnit) (x : Span) : (s.withEc ec).noticeSpan x = (s.noticeSpan x).withEc ec :=
  State.withEc_noticeBad ..

@[simp] theorem State.withEc_noteDenial (ec : EcUnit) (w : Requester) :
    (s.withEc ec).noteDenial w = (s.noteDenial w).withEc ec := rfl

@[simp] theorem State.withEc_take (ec : EcUnit) (t : Nat) (ps : List Nat) :
    (s.withEc ec).take t ps = (s.take t ps).withEc ec := rfl

/-! The matrix units. -/

@[simp] theorem State.withEc_setArray (ec : EcUnit) (n : Nat) (x : ArrUnit) :
    (s.withEc ec).setArray n x = (s.setArray n x).withEc ec := rfl

@[simp] theorem State.withEc_setHalf (ec : EcUnit) (n h : Nat) (x : HalfUnit) :
    (s.withEc ec).setHalf n h x = (s.setHalf n h x).withEc ec := rfl

@[simp] theorem State.withEc_flagRows (ec : EcUnit) (c a base : Nat) (p : Pass) (j : Nat) (b : Bool) :
    (s.withEc ec).flagRows c a base p j b = (s.flagRows c a base p j b).withEc ec :=
  State.withEc_forEach _ (fun _ u => State.withEc_forEach u (fun _ _ => rfl) _) _

@[simp] theorem State.withEc_countConds (ec : EcUnit) (k : Conds) (t : Nat) :
    (s.withEc ec).countConds k t = (s.countConds k t).withEc ec := by
  have hstep (u : State) (c : Bool) (sub : Nat) :
      (if c then (u.withEc ec).count 0x2901 sub else u.withEc ec) = (if c then u.count 0x2901 sub else u).withEc ec :=
    State.withEc_ite (State.withEc_count ..) rfl
  unfold State.countConds
  simp only [hstep]

@[simp] theorem State.withEc_wound (ec : EcUnit) (n h cause c : Nat) (p : Pass) :
    (s.withEc ec).wound n h cause c p = (s.wound n h cause c p).withEc ec := by
  unfold State.wound
  exact State.withEc_ite rfl rfl

@[simp] theorem State.withEc_putEntries (ec : EcUnit) (o : Nat) (bs : Bytes) :
    (s.withEc ec).putEntries o bs = (s.putEntries o bs).withEc ec := rfl

theorem State.withEc_runVector (ec : EcUnit) (n h : Nat) (x : Ctx) (f : Flight) (j c2 : Nat) (v : Act) (r : AccRead) :
    (s.withEc ec).runVector n h x f j c2 v r = ((s.runVector n h x f j c2 v r).1.withEc ec, (s.runVector n h x f j c2 v r).2) := by
  unfold State.runVector
  extract_lets p c a
  split
  · rw [State.withEc_flagRows]
  next vs k _ =>
    simp only [State.withEc_countConds]
    refine map_ite (ecFirst ec) ?_ ?_
    · rw [State.withEc_flagRows, State.withEc_wound]
      rfl
    · rw [State.withEc_each _ (fun _ u => State.withEc_putEntries u ..)]
      exact Prod.ext (State.withEc_ite (State.withEc_flagRows ..) rfl) rfl

@[simp] theorem State.withEc_feedRead (ec : EcUnit) (n h : Nat) :
    (s.withEc ec).feedRead n h = (s.feedRead n h).withEc ec := by
  have hnext : (s.withEc ec).feedNext n h = s.feedNext n h := rfl
  have hhalf (u : State) : (u.withEc ec).half n h = u.half n h := rfl
  have hflies (u : State) (f : Flight) : (u.withEc ec).flies f = u.flies f := rfl
  unfold State.feedRead
  rw [hnext]
  split
  · rfl
  next p j _ _ =>
    extract_lets x' v' u' y' z' x v u y z
    have hu : u' = u.withEc ec := State.withEc_ite (State.withEc_noticeBad ..) rfl
    have hy : y' = y := by
      unfold y' y
      rw [hu, hhalf]
    have hz : z' = z.withEc ec := by
      unfold z' z
      rw [hu, hy]
      rfl
    simp only [hu, hy, hz, hflies]
    split
    · exact State.withEc_ite (State.withEc_wound ..) rfl
    · rfl

@[simp] theorem State.withEc_feedLost (ec : EcUnit) (n h : Nat) :
    (s.withEc ec).feedLost n h = (s.feedLost n h).withEc ec := by
  unfold State.feedLost
  exact State.withEc_ite rfl rfl

theorem State.withEc_a2Flight (ec : EcUnit) (n h t : Nat) (f : Flight) :
    (s.withEc ec).a2Flight n h t f = ((s.a2Flight n h t f).1.withEc ec, (s.a2Flight n h t f).2) := by
  have hx : (s.withEc ec).ctx? f.pass.ctx = s.ctx? f.pass.ctx := rfl
  unfold State.a2Flight
  rw [hx]
  split
  · simp only [State.withEc_runVector]
    exact map_ite (ecFirst ec) rfl rfl
  · rfl

theorem State.withEc_a1Flight (ec : EcUnit) (n h t : Nat) (f : Flight) :
    (s.withEc ec).a1Flight n h t f = ((s.a1Flight n h t f).1.withEc ec, (s.a1Flight n h t f).2) := by
  have hx : (s.withEc ec).ctx? f.pass.ctx = s.ctx? f.pass.ctx := rfl
  unfold State.a1Flight
  rw [hx]
  split
  · extract_lets r' u' r u
    have hu : u' = u.withEc ec := State.withEc_forEach _ (fun _ v => State.withEc_noticeBad v ..) _
    refine map_ite (ecFirst ec) (Prod.ext ?_ rfl) rfl
    rw [hu]
    exact State.withEc_ite (State.withEc_wound ..) rfl
  · rfl

theorem State.withEc_eachFlight (ec : EcUnit) (n h : Nat) {g : State → Flight → State × Flight}
    (hg : ∀ u f, g (u.withEc ec) f = ((g u f).1.withEc ec, (g u f).2)) :
    (s.withEc ec).eachFlight n h g = (s.eachFlight n h g).withEc ec := by
  have hfold (fs : List Flight) (x : State × List Flight) :
      fs.foldl (fun (t : State × List Flight) f => let o := g t.1 f; (o.1, t.2 ++ [o.2])) (x.1.withEc ec, x.2) =
        ((fs.foldl (fun (t : State × List Flight) f => let o := g t.1 f; (o.1, t.2 ++ [o.2])) x).1.withEc ec,
          (fs.foldl (fun (t : State × List Flight) f => let o := g t.1 f; (o.1, t.2 ++ [o.2])) x).2) := by
    induction fs generalizing x with
    | nil => rfl
    | cons f fs ih => simp only [List.foldl_cons, hg, ih ((g x.1 f).1, x.2 ++ [(g x.1 f).2])]
  unfold State.eachFlight
  extract_lets r' _ r
  have hr : r' = (r.1.withEc ec, r.2) := hfold (s.half n h).flights (s, [])
  clear_value r r'
  subst hr
  exact State.withEc_ite rfl rfl

@[simp] theorem State.withEc_accHalf (ec : EcUnit) (n h t : Nat) :
    (s.withEc ec).accHalf n h t = (s.accHalf n h t).withEc ec :=
  State.withEc_eachFlight _ _ _ _ (fun u f => by simp only [State.withEc_a2Flight, State.withEc_a1Flight])

@[simp] theorem State.withEc_loadRow (ec : EcUnit) (n h t : Nat) :
    (s.withEc ec).loadRow n h t = (s.loadRow n h t).withEc ec := by
  have hnext : (s.withEc ec).loadNext? n h = s.loadNext? n h := rfl
  unfold State.loadRow
  rw [hnext]
  split
  · rfl
  next p _ _ =>
    extract_lets o' m' bad' v' u' o m bad v u
    have hu : u' = u.withEc ec := rfl
    refine State.withEc_ite ?_ rfl
    rw [hu, State.withEc_noticeBad, State.withEc_wound]
    rfl

@[simp] theorem State.withEc_loadLost (ec : EcUnit) (n h t : Nat) :
    (s.withEc ec).loadLost n h t = (s.loadLost n h t).withEc ec := rfl

/-! The vector units. -/

@[simp] theorem State.withEc_setVec (ec : EcUnit) (c : Nat) (x : VecUnit) :
    (s.withEc ec).setVec c x = (s.setVec c x).withEc ec := rfl

@[simp] theorem State.withEc_computeStep (ec : EcUnit) (c : Nat) (d : Desc) (x : Ctx) (w : Nat) :
    (s.withEc ec).computeStep c d x w = (s.computeStep c d x w).withEc ec := rfl

@[simp] theorem State.withEc_vecRead (ec : EcUnit) (c t : Nat) : (s.withEc ec).vecRead c t = (s.vecRead c t).withEc ec := by
  have hruns : (s.withEc ec).vecRuns c = s.vecRuns c := rfl
  unfold State.vecRead
  rw [hruns]
  split
  next d x _ =>
    extract_lets u' got' v' w' ends' u got v w ends
    have hw : w' = w.withEc ec := State.withEc_each _ (fun _ y => State.withEc_noticeSpan y ..) _
    have hu : u' = u := rfl
    have hgot : got' = got := rfl
    have hends : ends' = ends := rfl
    have hv : v' = v := rfl
    rw [hw, hends, hv, hu, State.withEc_setVec, State.withEc_setVec, State.withEc_computeStep]
    exact State.withEc_ite rfl rfl
  · rfl

@[simp] theorem State.withEc_vecWrite (ec : EcUnit) (c t : Nat) :
    (s.withEc ec).vecWrite c t = (s.vecWrite c t).withEc ec := by
  have hruns : (s.withEc ec).vecRuns c = s.vecRuns c := rfl
  have hvec (u : State) : (u.withEc ec).vec c = u.vec c := rfl
  unfold State.vecWrite
  rw [hruns, hvec]
  split
  next d x o os _ _ =>
    extract_lets _ u₁' u₂' u₃' y' f' u₁ u₂ u₃ y f
    have hu : u₃' = u₃.withEc ec := State.withEc_each u₂ (fun _ u => State.withEc_writeTs u ..) _
    have hy : y' = y := (congrArg (State.vec · c) hu).trans (hvec u₃)
    have hf : f' = f := by
      unfold f' f
      rw [hy]
    rw [hu, hy, hf]
    exact State.withEc_ite rfl rfl
  · rfl

@[simp] theorem State.withEc_vecLost (ec : EcUnit) (c : Nat) (write feeder : Bool) :
    (s.withEc ec).vecLost c write feeder = (s.vecLost c write feeder).withEc ec := by
  unfold State.vecLost
  exact State.withEc_ite rfl rfl

/-! The shunters. -/

@[simp] theorem State.withEc_setShunter (ec : EcUnit) (c n : Nat) (x : ShuntUnit) :
    (s.withEc ec).setShunter c n x = (s.setShunter c n x).withEc ec := rfl

@[simp] theorem State.withEc_addKB (ec : EcUnit) (k n : Nat) : (s.withEc ec).addKB k n = (s.addKB k n).withEc ec := rfl

theorem State.withEc_readExt (ec : EcUnit) (ext : Store) (r len a n : Nat) :
    (s.withEc ec).readExt ext r len a n = ((s.readExt ext r len a n).1, (s.readExt ext r len a n).2.withEc ec) := by
  have hbank : (s.withEc ec).bankAt r = s.bankAt r := rfl
  unfold State.readExt
  rw [hbank]
  split
  · rw [State.withEc_noticeBad]
  · extract_lets k u₁' hot' xs' u₂' u₁ hot xs u₂
    have hu : u₂' = u₂.withEc ec := by
      have hsame : hot' = hot := rfl
      unfold u₂' u₂
      rw [hsame]
      clear_value hot
      split
      · exact State.withEc_noticeBad u₁ ..
      · rfl
    have hxs : xs' = xs := rfl
    rw [hu, hxs]
    refine Prod.ext rfl ?_
    dsimp only
    clear_value xs
    split
    · exact State.withEc_count ((u₂.setReg _ _).setReg _ _) ..
    · rfl

theorem State.withEc_takeSlot (ec : EcUnit) (c who t a : Nat) :
    (s.withEc ec).takeSlot c who t a = ((s.takeSlot c who t a).1, (s.takeSlot c who t a).2.withEc ec) := rfl

theorem State.withEc_takeSlots (ec : EcUnit) (c who t a n : Nat) :
    (s.withEc ec).takeSlots c who t a n = ((s.takeSlots c who t a n).1, (s.takeSlots c who t a n).2.withEc ec) := by
  have hfold (ws : List Nat) (x : Nat × State) :
      ws.foldl (fun (r : Nat × State) w => let o := r.2.takeSlot c who t (64 * w); (max r.1 o.1, o.2)) (x.1, x.2.withEc ec) =
        ((ws.foldl (fun (r : Nat × State) w => let o := r.2.takeSlot c who t (64 * w); (max r.1 o.1, o.2)) x).1,
          (ws.foldl (fun (r : Nat × State) w => let o := r.2.takeSlot c who t (64 * w); (max r.1 o.1, o.2)) x).2.withEc ec) := by
    induction ws generalizing x with
    | nil => rfl
    | cons w ws ih =>
      exact ih (max x.1 (x.2.takeSlot c who t (64 * w)).1, (x.2.takeSlot c who t (64 * w)).2)
  exact hfold _ (t, s)

theorem State.withEc_readPart (ec : EcUnit) (d : Desc) (sent : List (Nat × (Nat × List Marked))) (k ix o n : Nat) :
    (s.withEc ec).readPart d sent k ix o n = ((s.readPart d sent k ix o n).1, (s.readPart d sent k ix o n).2.withEc ec) := by
  have hspot (u : State) (a : Nat) : (u.withEc ec).accSpot d.ctx a = u.accSpot d.ctx a := rfl
  unfold State.readPart
  extract_lets r a
  split
  · exact Prod.ext rfl (State.withEc_each _ (fun _ y => State.withEc_noticeSpan y ..) _)
  · refine Prod.ext rfl ?_
    dsimp only
    rw [hspot]
    split
    · exact State.withEc_noticeBad ..
    · rfl
  · exact Prod.ext rfl (State.withEc_noticeBad ..)
  · exact State.withEc_readExt ..
  · rfl

@[simp] theorem State.withEc_takeIndex (ec : EcUnit) (c n t : Nat) (d : Desc) :
    (s.withEc ec).takeIndex c n t d = (s.takeIndex c n t d).withEc ec := by
  unfold State.takeIndex
  extract_lets u' k' ix' bad' w' u k ix bad w
  have hw : w' = w.withEc ec := State.withEc_each _ (fun _ y => State.withEc_noticeSpan y ..) _
  rw [hw]
  rfl

@[simp] theorem State.withEc_takePart (ec : EcUnit) (c n t : Nat) (d : Desc) :
    (s.withEc ec).takePart c n t d = (s.takePart c n t d).withEc ec := by
  unfold State.takePart
  extract_lets u' k' o' a' r' q' due' xs' u k o a r q due xs
  have hr : r' = (r.1, r.2.withEc ec) := State.withEc_readPart ..
  have hq : q' = (q.1, q.2.withEc ec) := by
    unfold q' q
    rw [hr]
    exact map_ite (fun x : Nat × State => (x.1, x.2.withEc ec)) (State.withEc_takeSlots ..) rfl
  have hdue : due' = due := by
    unfold due' due
    rw [hq]
    rfl
  have hxs : xs' = xs := by
    unfold xs' xs
    rw [hr]
    rfl
  rw [hq, hdue, hxs]
  rfl

@[simp] theorem State.withEc_sendRecord (ec : EcUnit) (core t : Nat) (d : Desc) (bs : List Marked) :
    (s.withEc ec).sendRecord core t d bs = (s.sendRecord core t d bs).withEc ec :=
  State.withEc_ite rfl (State.withEc_ite rfl rfl)

@[simp] theorem State.withEc_sendRecords (ec : EcUnit) (core t : Nat) (d : Desc) (xs : List Marked) :
    (s.withEc ec).sendRecords core t d xs = (s.sendRecords core t d xs).withEc ec :=
  State.withEc_each _ (fun _ u => State.withEc_sendRecord u ..) _

@[simp] theorem State.withEc_carryOn (ec : EcUnit) : (s.withEc ec).carryOn = s.carryOn.withEc ec := by
  unfold State.carryOn
  exact State.withEc_ite rfl rfl

@[simp] theorem State.withEc_writePart (ec : EcUnit) (c n t : Nat) (d : Desc) (a : Nat) (xs : List Marked) :
    (s.withEc ec).writePart c n t d a xs = (s.writePart c n t d a xs).withEc ec := by
  have hspot : (s.withEc ec).accSpot d.ctx a = s.accSpot d.ctx a := rfl
  have hlane : (s.withEc ec).remoteLane d.ctx d.hops d.down = s.remoteLane d.ctx d.hops d.down := rfl
  have hu : (s.withEc ec).shunter c n = s.shunter c n := rfl
  unfold State.writePart
  split
  · exact State.withEc_writeTs ..
  · rw [hspot]
    split
    · exact State.withEc_poke ..
    · rfl
  · exact State.withEc_poke ..
  · refine State.withEc_ite ?_ (State.withEc_poke ..)
    rw [State.withEc_takeSlots]
    rfl
  · rw [hlane]
    split
    · rfl
    · rfl
  · rw [hu]
    refine State.withEc_ite ?_ rfl
    rw [State.withEc_setShunter, State.withEc_sendRecords]

@[simp] theorem State.withEc_beginNext (ec : EcUnit) (c n : Nat) :
    (s.withEc ec).beginNext c n = (s.beginNext c n).withEc ec := by
  have hu : (s.withEc ec).shunter c n = s.shunter c n := rfl
  unfold State.beginNext
  rw [hu]
  extract_lets u
  split
  · refine State.withEc_ite ?_ rfl
    rw [State.withEc_setShunter, State.withEc_carryOn]
  · rfl

@[simp] theorem State.withEc_shunterLeaves (ec : EcUnit) (c n last : Nat) (d : Desc) :
    (s.withEc ec).shunterLeaves c n last d = (s.shunterLeaves c n last d).withEc ec := by
  unfold State.shunterLeaves
  simp only [State.withEc_beginNext, State.withEc_setShunter]
  rfl

@[simp] theorem State.withEc_putPart (ec : EcUnit) (c n t : Nat) (d : Desc) :
    (s.withEc ec).putPart c n t d = (s.putPart c n t d).withEc ec := by
  have hu : (s.withEc ec).shunter c n = s.shunter c n := rfl
  unfold State.putPart
  rw [hu]
  extract_lets u
  split
  · dsimp only
    rw [State.withEc_setShunter, State.withEc_writePart]
  · rfl

@[simp] theorem State.withEc_shuntRead (ec : EcUnit) (c n t : Nat) (ok : Requester → Bool) :
    (s.withEc ec).shuntRead c n t ok = (s.shuntRead c n t ok).withEc ec := by
  have hhead : (s.withEc ec).shuntHead c n = s.shuntHead c n := rfl
  unfold State.shuntRead
  rw [hhead]
  split
  · rfl
  next d _ =>
    extract_lets i' p' u' i p u
    have hu : u' = u.withEc ec := State.withEc_ite (State.withEc_takePart ..) rfl
    rw [hu]
    exact State.withEc_ite (State.withEc_takeIndex ..) rfl

@[simp] theorem State.withEc_shuntWrite (ec : EcUnit) (c n t : Nat) (ok : Requester → Bool) :
    (s.withEc ec).shuntWrite c n t ok = (s.shuntWrite c n t ok).withEc ec := by
  have hhead : (s.withEc ec).shuntHead c n = s.shuntHead c n := rfl
  unfold State.shuntWrite
  rw [hhead]
  split
  · rfl
  next d _ =>
    refine State.withEc_ite ?_ rfl
    rw [State.withEc_putPart]
    exact State.withEc_ite (State.withEc_shunterLeaves ..) rfl

@[simp] theorem State.withEc_shuntLost (ec : EcUnit) (c n : Nat) (write : Bool) :
    (s.withEc ec).shuntLost c n write = (s.shuntLost c n write).withEc ec := rfl

@[simp] theorem State.withEc_shuntShows (ec : EcUnit) (c n t : Nat) :
    (s.withEc ec).shuntShows c n t = (s.shuntShows c n t).withEc ec := by
  have hu : (s.withEc ec).shunter c n = s.shunter c n := rfl
  unfold State.shuntShows
  rw [hu]
  extract_lets u
  split
  · rfl
  · exact State.withEc_each (s.setShunter ..) (fun _ v => State.withEc_poke v ..) _

@[simp] theorem State.withEc_arriveRemote (ec : EcUnit) (t : Nat) (ok : Requester → Bool) :
    (s.withEc ec).arriveRemote t ok = (s.arriveRemote t ok).withEc ec :=
  State.withEc_each _ (fun a u => State.withEc_writeTs { u with arrivals := u.arrivals.erase a } ..) _

@[simp] theorem State.withEc_arrivalLost (ec : EcUnit) (c n t : Nat) :
    (s.withEc ec).arrivalLost c n t = (s.arrivalLost c n t).withEc ec := rfl

/-! The top-k units and table writes. -/

@[simp] theorem State.withEc_setTopk (ec : EcUnit) (c : Nat) (x : TopkUnit) :
    (s.withEc ec).setTopk c x = (s.setTopk c x).withEc ec := rfl

@[simp] theorem State.withEc_topkRead (ec : EcUnit) (c t : Nat) :
    (s.withEc ec).topkRead c t = (s.topkRead c t).withEc ec := by
  have hreads : (s.withEc ec).topReads c t = s.topReads c t := rfl
  unfold State.topkRead
  rw [hreads]
  split
  · extract_lets u' y' m u y
    have hu : u' = u.withEc ec := State.withEc_each _ (fun _ v => State.withEc_noticeSpan v ..) _
    have hy : y' = y := by
      unfold y' y
      rw [hu]
      rfl
    rw [hu, hy]
    exact State.withEc_ite rfl rfl
  · rfl

@[simp] theorem State.withEc_topkWrite (ec : EcUnit) (c t : Nat) :
    (s.withEc ec).topkWrite c t = (s.topkWrite c t).withEc ec := by
  have hwrites : (s.withEc ec).topWrites c t = s.topWrites c t := rfl
  unfold State.topkWrite
  rw [hwrites]
  split
  · exact State.withEc_writeTs (s.setTopk ..) ..
  · rfl

@[simp] theorem State.withEc_topkLost (ec : EcUnit) (c : Nat) : (s.withEc ec).topkLost c = (s.topkLost c).withEc ec := rfl

@[simp] theorem State.withEc_tableWrite (ec : EcUnit) (c t : Nat) :
    (s.withEc ec).tableWrite c t = (s.tableWrite c t).withEc ec := by
  have hdue : (s.withEc ec).tableDue c t = s.tableDue c t := rfl
  unfold State.tableWrite
  rw [hdue]
  split
  next w _ =>
    have hset (ts : List TableWrite) : ({ s.withEc ec with tables := ts } : State).writeTs w.ctx w.addr (clean (w.data.take 256)) =
        (({ s with tables := ts } : State).writeTs w.ctx w.addr (clean (w.data.take 256))).withEc ec :=
      State.withEc_writeTs { s with tables := ts } ..
    exact hset _
  · rfl

@[simp] theorem State.withEc_tableLost (ec : EcUnit) (c t : Nat) :
    (s.withEc ec).tableLost c t = (s.tableLost c t).withEc ec := by
  have hdue : (s.withEc ec).tableDue c t = s.tableDue c t := rfl
  unfold State.tableLost
  rw [hdue]
  split
  · rfl
  · rfl

/-! Removed frames, the phases of a cycle, and the cycles up to a time. -/

@[simp] theorem State.withEc_stopCores (ec : EcUnit) (stops : Nat → Bool) (t : Nat) :
    (s.withEc ec).stopCores stops t = (s.stopCores stops t).withEc ec := by
  unfold State.stopCores
  extract_lets at_ g' u' g u
  refine State.withEc_each u (fun x y => ?_) g
  exact State.withEc_ite rfl rfl

@[simp] theorem State.withEc_stopCount (ec : EcUnit) : (s.withEc ec).stopCount = s.stopCount.withEc ec := rfl

@[simp] theorem State.withEc_removeFrame (ec : EcUnit) (t : Nat) :
    (s.withEc ec).removeFrame t = (s.removeFrame t).withEc ec := by
  unfold State.removeFrame
  extract_lets i' u₁' u₂' _ i u₁ u₂ _
  have h1 : u₁' = u₁.withEc ec := State.withEc_stopCores ..
  have h2 : u₂' = u₂.withEc ec := by
    unfold u₂'
    rw [h1]
    exact State.withEc_ite rfl rfl
  exact congrArg (fun u : State => ({ u with limits := { u.limits with frozen := t + 1 } } : State)) h2

@[simp] theorem State.withEc_stagingTurn (ec : EcUnit) (c t : Nat) (granted : Bool) :
    (s.withEc ec).stagingTurn c t granted = (s.stagingTurn c t granted).withEc ec := by
  have hmoves : (s.withEc ec).stagingMoves c = s.stagingMoves c := rfl
  unfold State.stagingTurn
  rw [hmoves]
  split
  · exact State.withEc_onCtx ..
  · rfl

@[simp] theorem State.withEc_readers (ec : EcUnit) (t : Nat) (ok : Requester → Bool) :
    (s.withEc ec).readers t ok = (s.readers t ok).withEc ec := by
  unfold State.readers
  extract_lets u' v' u v
  have hu : u' = u.withEc ec := by
    refine State.withEc_each _ (fun a y => ?_) _
    dsimp only
    rw [State.withEc_ite (State.withEc_feedRead y ..) rfl]
    exact State.withEc_ite (State.withEc_loadRow ..) rfl
  have hv : v' = v.withEc ec := by
    unfold v'
    rw [hu]
    refine State.withEc_each _ (fun c y => ?_) _
    dsimp only
    rw [State.withEc_ite (State.withEc_vecRead y ..) rfl, State.withEc_ite (State.withEc_topkRead ..) rfl]
    exact State.withEc_ite (State.withEc_stagingTurn ..) rfl
  rw [hv]
  exact State.withEc_each _ (fun _ y => State.withEc_shuntRead y ..) _

@[simp] theorem State.withEc_writers (ec : EcUnit) (t : Nat) (ok : Requester → Bool) :
    (s.withEc ec).writers t ok = (s.writers t ok).withEc ec := by
  unfold State.writers
  extract_lets u' v' w' u v w
  have hu : u' = u.withEc ec := State.withEc_each _ (fun a y => State.withEc_accHalf y ..) _
  have hv : v' = v.withEc ec := by
    unfold v'
    rw [hu]
    refine State.withEc_each _ (fun c y => ?_) _
    dsimp only
    rw [State.withEc_ite (State.withEc_vecWrite y ..) rfl, State.withEc_ite (State.withEc_topkWrite ..) rfl]
    exact State.withEc_ite (State.withEc_tableWrite ..) rfl
  have hw : w' = w.withEc ec := by
    unfold w'
    rw [hv]
    exact State.withEc_arriveRemote ..
  rw [hw]
  refine State.withEc_each _ (fun a y => ?_) _
  rw [State.withEc_shuntWrite, State.withEc_shuntShows]

@[simp] theorem State.withEc_deny (ec : EcUnit) (t : Nat) (w : Requester) :
    (s.withEc ec).deny t w = (s.deny t w).withEc ec := by
  cases w with
  | feeder n h => exact State.withEc_feedLost ..
  | weights n h => exact State.withEc_loadLost ..
  | topRead c => exact State.withEc_topkLost ..
  | topWrite c => exact State.withEc_topkLost ..
  | table c => exact State.withEc_tableLost ..
  | arrival c n => exact State.withEc_arrivalLost ..
  | staging c => exact State.withEc_stagingTurn ..
  | _ => rfl

@[simp] theorem State.withEc_delayUnits (ec : EcUnit) (no : List Ask) (fed : List Nat) :
    (s.withEc ec).delayUnits no fed = (s.delayUnits no fed).withEc ec := by
  unfold State.delayUnits
  extract_lets lost u' u
  have hu : u' = u.withEc ec := by
    refine State.withEc_each _ (fun c y => ?_) _
    exact State.withEc_ite (State.withEc_vecLost ..) rfl
  rw [hu]
  refine State.withEc_each _ (fun a y => ?_) _
  exact State.withEc_ite (State.withEc_shuntLost ..) rfl

@[simp] theorem State.withEc_stallAll (ec : EcUnit) (t : Nat) : (s.withEc ec).stallAll t = (s.stallAll t).withEc ec := by
  refine State.withEc_each _ (fun a y => ?_) _
  have hhead : (y.withEc ec).shuntHead a.1 a.2 = y.shuntHead a.1 a.2 := rfl
  rw [hhead]
  split
  · exact State.withEc_ite (State.withEc_shuntLost ..) (State.withEc_ite (State.withEc_shuntLost ..) rfl)
  · rfl

@[simp] theorem State.withEc_countWithheld (ec : EcUnit) (g : Grants) :
    (s.withEc ec).countWithheld g = (s.countWithheld g).withEc ec := by
  unfold State.countWithheld
  rw [State.withEc_countMany, State.withEc_countMany, State.withEc_countMany]

theorem State.withEc_cycleGrants (ec : EcUnit) (t : Nat) : (s.withEc ec).cycleGrants t = s.cycleGrants t := by
  have hasks : (s.withEc ec).asks t = s.asks t := rfl
  have ha2 : (s.withEc ec).a2All t = s.a2All t := rfl
  have htaken : (s.withEc ec).takenIn t = s.takenIn t := rfl
  have hgrants (as : List Ask) (a2 : List Span) (before : List Nat) :
      (s.withEc ec).grants t as a2 before = s.grants t as a2 before := rfl
  unfold State.cycleGrants
  rw [hasks, ha2, htaken, hgrants]

@[simp] theorem State.withEc_cycle (ec : EcUnit) (t : Nat) : (s.withEc ec).cycle t = (s.cycle t).withEc ec := by
  have hasks : (s.withEc ec).asks t = s.asks t := rfl
  unfold State.cycle
  rw [hasks, State.withEc_cycleGrants]
  extract_lets asks g ok no fed u₁' u₂' u₃' u₄' u₁ u₂ u₃ u₄
  have h1 : u₁' = u₁.withEc ec := by
    unfold u₁'
    rw [State.withEc_stallAll, State.withEc_take]
  have h2 : u₂' = u₂.withEc ec := by
    unfold u₂'
    rw [h1, State.withEc_readers, State.withEc_writers]
  have h3 : u₃' = u₃.withEc ec := by
    unfold u₃' u₃
    rw [h2]
    clear_value u₂
    rfl
  have hno : forEach no (u₃.withEc ec) (fun a s => (s.noteDenial a.who).deny t a.who) =
      (forEach no u₃ (fun a s => (s.noteDenial a.who).deny t a.who)).withEc ec :=
    State.withEc_each _ (fun a y => State.withEc_deny (y.noteDenial a.who) ..) _
  have h4 : u₄' = u₄.withEc ec := by
    unfold u₄'
    rw [h3, hno]
    exact State.withEc_delayUnits ..
  rw [h4]
  exact State.withEc_countWithheld ..

theorem State.withEc_cycles (ec : EcUnit) (stop n : Nat) :
    State.cycles stop n (s.withEc ec) = (State.cycles stop n s).withEc ec := by
  induction n generalizing s with
  | zero => rfl
  | succ n ih =>
    have hdues : (s.withEc ec).dues = s.dues := rfl
    have hnext : (s.withEc ec).nextRemoved = s.nextRemoved := rfl
    have hclk : (s.withEc ec).cclk = s.cclk := rfl
    unfold State.cycles
    rw [hdues, hnext, hclk]
    extract_lets t
    split
    · rw [State.withEc_removeFrame]
      exact ih _
    · refine State.withEc_ite ?_ rfl
      rw [State.withEc_cycle]
      exact ih _

@[simp] theorem State.withEc_catchTo (ec : EcUnit) (stop : Nat) : (s.withEc ec).catchTo stop = (s.catchTo stop).withEc ec :=
  State.withEc_cycles ..

@[simp] theorem State.withEc_catchUp (ec : EcUnit) : (s.withEc ec).catchUp = s.catchUp.withEc ec := State.withEc_catchTo ..

@[simp] theorem State.withEc_catchAll (ec : EcUnit) :
    (s.withEc ec).catchAll = s.catchAll.withEc ec := State.withEc_catchTo ..

@[simp] theorem State.withEc_settleLimits (ec : EcUnit) : (s.withEc ec).settleLimits = s.settleLimits.withEc ec := by
  unfold State.settleLimits
  rw [State.withEc_catchUp]
  generalize s.catchUp = v
  have hpower : (v.withEc ec).power = v.power := rfl
  by_cases hp : v.power.state < 2
  · simp only [hpower, hp, if_true]
    rfl
  · simp only [hpower, hp, if_false]
    rfl

end
end Sys2Proof.Machine
end

section
/-! PROOF. O22: what a write of a pool size, of the wide mode or of the determinism bit does, as an equation for the state it
leaves; the rest follows by the rules for registers. -/
namespace Sys2Proof.Machine
open Sys2Proof
section
variable {s w u : State} {r : Route} {dt sub : Nat}

theorem widthOf_determinism : widthOf (key 0x2010 1) = 8 := widthOf_key (e := eRW 1) rfl rfl (by decide)
theorem widthOf_determinismCopy : widthOf (key 0x2010 2) = 16 := widthOf_key (e := eRO 2) rfl rfl (by decide)
theorem widthOf_wideMode : widthOf (kMem 0x27) = 8 := widthOf_key (e := eRW 1) rfl rfl (by decide)

/-- The entries of the pool sizes are numbers of two bytes. -/
theorem entryOf_poolSize (hlo : 0x20 ≤ sub) (hhi : sub ≤ 0x25) :
    ∃ e, entryOf 0x2500 sub = some e ∧ e.type = .num 2 ∧ e.acc ≠ .w1c := by
  interval_cases sub <;> exact ⟨_, rfl, rfl, by decide⟩

theorem widthOf_poolSize (hlo : 0x20 ≤ sub) (hhi : sub ≤ 0x25) : widthOf (kMem sub) = 16 := by
  obtain ⟨e, he, htype, -⟩ := entryOf_poolSize hlo hhi
  exact widthOf_key he htype (by omega)

theorem State.actNum_poolSize (s : State) (r : Route) (m v : Nat) (hlo : 0x20 ≤ sub) (hhi : sub ≤ 0x25) :
    s.actNum r 0x2500 sub m v = { s := s.resizePool sub v } := if_pos ⟨rfl, within_of ⟨hlo, hhi⟩⟩

/-- With nothing pinned there is nothing to load again. -/
theorem State.repin_of_noPins (h : s.pins = []) : s.repin = s := by
  unfold State.repin
  rw [h]
  exact ite_self _

theorem State.resizePool_same {v : Nat} (h : s.reg (kMem sub) = v) : s.resizePool sub v = s := if_pos h

/-- Another size empties the cache. -/
theorem State.resizePool_other {v : Nat} (h : s.reg (kMem sub) ≠ v) (hpins : s.pins = []) :
    s.resizePool sub v = { s.setReg (kMem sub) v with cache := [] } := (if_neg h).trans (State.repin_of_noPins hpins)

theorem State.setWide_on (s : State) : s.setWide true =
    ({ s.catchAll with
        cache := []
        stack := s.catchAll.stack.zero 8 (s.catchAll.poolBase 1) (s.catchAll.cores * 2 ^ 25) } : State).setReg (kMem 0x27) 1 := rfl

theorem State.setWide_off (h : s.catchAll.pins = []) :
    s.setWide false = ({ s.catchAll with cache := [] } : State).setReg (kMem 0x27) 0 := State.repin_of_noPins h

/-! The writes. -/

theorem exec_poolSizeWrite {v : BitVec 16} (hw : w = s.wait dt) (hlo : 0x20 ≤ sub) (hhi : sub ≤ 0x25)
    (ha : Accepts w r 0x2500 sub (leBytes 2 v.toNat)) :
    ∃ e0 e f, exec (.poolSizeWrite dt r sub v) s = .next (w.keepOuter ((w.withEc e0).resizePool sub v.toNat) e f) := by
  obtain ⟨e0, e, f, hx⟩ := State.put_next s r dt 0x2500 sub (leBytes 2 v.toNat) hw ha
  obtain ⟨x, hent, htype, hacc⟩ := entryOf_poolSize hlo hhi
  rw [State.act_num _ r _ sub _ hent (by simp [htype]) hacc (by decide), State.actNum_poolSize _ r _ _ hlo hhi,
    leNat_leBytes_lt v.isLt] at hx
  exact ⟨e0, e, f, hx⟩

/-- A write that changes the wide mode sets it. -/
theorem put_wideMode {b : Bool} (hw : w = s.wait dt) (hb : w.reg (kMem 0x27) ≠ b.toNat)
    (ha : Accepts w r 0x2500 0x27 (leBytes 1 b.toNat)) :
    ∃ e0 e f, s.put r dt 0x2500 0x27 (leBytes 1 b.toNat) = .next (w.keepOuter ((w.withEc e0).setWide b) e f) := by
  obtain ⟨e0, e, f, hx⟩ := State.put_next s r dt 0x2500 0x27 (leBytes 1 b.toNat) hw ha
  have hact (m : Nat) : (w.withEc e0).actNum r 0x2500 0x27 m b.toNat = { s := (w.withEc e0).setWide (b.toNat == 1) } :=
    congrArg (fun s => ({ s := s } : Reply)) (if_neg hb)
  have hone : (b.toNat == 1) = b := by cases b <;> rfl
  have hlt : b.toNat < 256 ^ 1 := by cases b <;> decide
  rw [State.act_num _ r _ _ _ (e := eRW 1) rfl (by simp [eRW]) (by simp [eRW]) (by decide), leNat_leBytes_lt hlt, hact, hone] at hx
  exact ⟨e0, e, f, hx⟩

theorem exec_determinismWrite {v : BitVec 8} (hw : w = s.wait dt) (ha : Accepts w r 0x2010 1 (leBytes 1 v.toNat)) :
    ∃ e0 e f, exec (.determinismWrite dt r v) s = .next (w.keepOuter ((w.withEc e0).setDeterminism v.toNat) e f) := by
  obtain ⟨e0, e, f, hx⟩ := State.put_next s r dt 0x2010 1 (leBytes 1 v.toNat) hw ha
  have hact (m : Nat) : (w.withEc e0).actNum r 0x2010 1 m v.toNat = { s := (w.withEc e0).setDeterminism v.toNat } := rfl
  rw [State.act_num _ r _ _ _ (e := eRW 1) rfl (by simp [eRW]) (by simp [eRW]) (by decide), leNat_leBytes_lt v.isLt, hact] at hx
  exact ⟨e0, e, f, hx⟩

/-! What they leave. -/

theorem poolSizeWrite_leads {v : BitVec 16} (hw : w = s.wait dt) (hlo : 0x20 ≤ sub) (hhi : sub ≤ 0x25) (hpins : w.pins = [])
    (ha : Accepts w r 0x2500 sub (leBytes 2 v.toNat)) :
    Leads (.poolSizeWrite dt r sub v) s (fun t =>
      t.reg (kMem sub) = v.toNat ∧ t.cache = (if w.reg (kMem sub) = v.toNat then w.cache else [])
      ∧ OnlyRegs [at1 (kMem sub)] w t ∧ SameMem w t) := by
  obtain ⟨e0, e, f, hx⟩ := exec_poolSizeWrite hw hlo hhi ha
  refine leads_of hx ?_
  by_cases hsame : w.reg (kMem sub) = v.toNat
  · rw [State.resizePool_same (s := w.withEc e0) hsame, if_pos hsame]
    exact ⟨hsame, rfl, (Quiet.refl _).keepOuter⟩
  · rw [State.resizePool_other (s := w.withEc e0) hsame hpins, if_neg hsame]
    refine ⟨?_, rfl, fun k hk => ?_, rfl, rfl, rfl, rfl, rfl⟩
    · exact (State.reg_setReg_same w _ _).trans (by rw [widthOf_poolSize hlo hhi]; exact Nat.mod_eq_of_lt v.isLt)
    · exact State.reg_setReg_other w _ (ne_of_uncovered hk List.mem_cons_self)

theorem wideModeEnter_leads (hw : w = s.wait dt) (hu : u = w.catchAll) (hoff : w.reg (kMem 0x27) = 0)
    (ha : Accepts w r 0x2500 0x27 (leBytes 1 1)) :
    Leads (.wideModeEnter dt r) s (fun t =>
      t.reg (kMem 0x27) = 1 ∧ t.cache = [] ∧ t.stack = u.stack.zero 8 (u.poolBase 1) (u.cores * 2 ^ 25)
      ∧ t.ts = u.ts ∧ t.acc = u.acc ∧ t.ext = u.ext ∧ t.valid = u.valid ∧ OnlyRegs [at1 (kMem 0x27)] u t) := by
  obtain ⟨e0, e, f, hx⟩ := put_wideMode (b := true) hw (by rw [hoff]; decide) ha
  refine leads_of hx ?_
  rw [State.setWide_on, State.withEc_catchAll, ← hu]
  refine ⟨?_, rfl, rfl, rfl, rfl, rfl, rfl, fun k hk => ?_⟩
  · exact (State.reg_setReg_same u _ 1).trans (by rw [widthOf_wideMode])
  · exact State.reg_setReg_other u 1 (ne_of_uncovered hk List.mem_cons_self)

theorem wideModeExit_leads (hw : w = s.wait dt) (hu : u = w.catchAll) (hon : w.reg (kMem 0x27) = 1) (hpins : u.pins = [])
    (ha : Accepts w r 0x2500 0x27 (leBytes 1 0)) :
    Leads (.wideModeExit dt r) s (fun t =>
      t.reg (kMem 0x27) = 0 ∧ t.cache = [] ∧ OnlyRegs [at1 (kMem 0x27)] u t ∧ SameMem u t) := by
  obtain ⟨e0, e, f, hx⟩ := put_wideMode (b := false) hw (by rw [hon]; decide) ha
  refine leads_of hx ?_
  have hcatch : (w.withEc e0).catchAll = u.withEc e0 := by rw [State.withEc_catchAll, hu]
  rw [State.setWide_off (by rw [hcatch]; exact hpins), hcatch]
  refine ⟨?_, rfl, fun k hk => ?_, rfl, rfl, rfl, rfl, rfl⟩
  · exact (State.reg_setReg_same u (kMem 0x27) 0).trans (Nat.zero_mod _)
  · exact State.reg_setReg_other u 0 (ne_of_uncovered hk List.mem_cons_self)

/-- What the removed frames leave when they are counted up to now (R287). -/
structure LimitsSettled (u t : State) : Prop where
  upto : t.limits.upto = u.cclk
  regs : OnlyRegs [at1 (key 0x2010 5)] u t
  mem : SameMem u t

theorem State.settleLimits_settled (s : State) : LimitsSettled s.catchUp s.settleLimits := by
  unfold State.settleLimits
  generalize s.catchUp = u
  by_cases hp : u.power.state < 2
  · simp only [hp, if_true]
    exact ⟨rfl, fun k hk => State.reg_setReg_other u _ (ne_of_uncovered hk List.mem_cons_self), rfl, rfl, rfl, rfl, rfl⟩
  · simp only [hp, if_false]
    exact ⟨rfl, fun _ _ => rfl, rfl, rfl, rfl, rfl, rfl⟩

theorem determinismWrite_leads {v : BitVec 8} (hw : w = s.wait dt) (hu : u = w.catchUp)
    (ha : Accepts w r 0x2010 1 (leBytes 1 v.toNat)) :
    Leads (.determinismWrite dt r v) s (fun t =>
      t.reg (key 0x2010 1) = v.toNat ∧ t.bit' (key 0x2010 2) 0 = (v.toNat == 1) ∧ t.limits.upto = u.cclk
      ∧ OnlyRegs [at1 (key 0x2010 1), at1 (key 0x2010 2), at1 (key 0x2010 5)] u t ∧ SameMem u t) := by
  obtain ⟨e0, e, f, hx⟩ := exec_determinismWrite hw ha
  refine leads_of hx ?_
  have hsettled : LimitsSettled u w.settleLimits := hu ▸ w.settleLimits_settled
  unfold State.setDeterminism
  rw [State.withEc_settleLimits]
  generalize w.settleLimits = z at hsettled ⊢
  refine ⟨?_, ?_, hsettled.upto, fun k hk => ?_, hsettled.mem⟩
  · calc ((z.setReg (key 0x2010 1) v.toNat).setBit (key 0x2010 2) 0 (v.toNat == 1)).reg (key 0x2010 1)
      _ = (z.setReg (key 0x2010 1) v.toNat).reg (key 0x2010 1) := State.reg_setReg_other _ _ (by decide)
      _ = v.toNat % 2 ^ 8 := by rw [State.reg_setReg_same, widthOf_determinism]
      _ = v.toNat := Nat.mod_eq_of_lt v.isLt
  · exact State.bit_setBit_same (s := z.setReg (key 0x2010 1) v.toNat) 0 _ (by rw [widthOf_determinismCopy]; decide)
  · have h1 : k ≠ key 0x2010 1 := ne_of_uncovered hk (by simp)
    have h2 : k ≠ key 0x2010 2 := ne_of_uncovered hk (by simp)
    have h5 : covers [at1 (key 0x2010 5)] k = false := ((covers_cons ..).1 ((covers_cons ..).1 hk).2).2
    calc ((z.setReg (key 0x2010 1) v.toNat).setBit (key 0x2010 2) 0 (v.toNat == 1)).reg k
      _ = (z.setReg (key 0x2010 1) v.toNat).reg k := State.reg_setReg_other _ _ h2
      _ = z.reg k := State.reg_setReg_other _ _ h1
      _ = u.reg k := hsettled.regs k h5

/-- Settles O22: each write sets its entry and what hangs on it, in the state that the units have reached. -/
theorem poolsWideModeAndDeterminismAreWritten : Obligations.PoolsWideModeAndDeterminismAreWritten := by
  unfold Obligations.PoolsWideModeAndDeterminismAreWritten
  exact ⟨fun s w r dt sub v hw hlo hhi hpins ha => poolSizeWrite_leads hw hlo hhi hpins ha,
    fun s w u r dt hw hu hoff ha => wideModeEnter_leads hw hu hoff ha,
    fun s w u r dt hw hu hon hpins ha => wideModeExit_leads hw hu hon hpins ha,
    fun s w u r dt v hw hu ha => determinismWrite_leads hw hu ha⟩

end
end Sys2Proof.Machine
end
